-- ==== Sys2Proof/Word.lean ====
section
/-! DEFINITION. The words of the machine and the one shape of sparse data: a table keyed by Nat. -/

namespace Sys2Proof

/-- A byte of memory. -/
abbrev Byte := BitVec 8

/-- A scalar register, an instruction word, a control register. -/
abbrev Word := BitVec 64

/-- The payload of a flit (08 R264). -/
abbrev Quad := BitVec 128

/-- A vector register's data bits (06 R196). -/
abbrev Vec := BitVec 256

/-- Sparse data by key. In canonical form the keys rise strictly and no entry holds the default value. -/
abbrev Table (α : Type) := List (Nat × α)

end Sys2Proof
end

