-- ==== Sys2Proof/Syntax.lean ====
section
/-! DEFINITION. The instructions and events of the Ngatin W2 as syntax: the thirteen forms of the instruction word
(03 R81, R86-R98), the arguments of the events that no word encodes, and ONE inductive Instr with one
constructor for each row of spec/opcode_table.json: the encoded rows first, then the events. -/

namespace Sys2Proof

/-- Scalar three-register form (03 R86). -/
structure FormS3 where
  gd : BitVec 4
  d : BitVec 5
  a : BitVec 5
  b : BitVec 5
  c : BitVec 5
  sf : BitVec 6
  fd : BitVec 3
  rm : BitVec 2
  rd : BitVec 1
  ty : BitVec 4
  aux : BitVec 16
  deriving DecidableEq, Repr

/-- Scalar-immediate form (03 R87). -/
structure FormSI where
  gd : BitVec 4
  d : BitVec 5
  a : BitVec 5
  imm : BitVec 42
  deriving DecidableEq, Repr

/-- The sub-layout of form SI that cmpi uses (03 R87). -/
structure FormC where
  gd : BitVec 4
  d : BitVec 5
  a : BitVec 5
  fd : BitVec 3
  sf : BitVec 6
  imm : BitVec 33
  deriving DecidableEq, Repr

/-- Form LI, used by li alone (03 R88). -/
structure FormLI where
  gd : BitVec 4
  d : BitVec 5
  imm : BitVec 47
  deriving DecidableEq, Repr

/-- Form J, used by jmp and call (03 R89). -/
structure FormJ where
  gd : BitVec 4
  rsv : BitVec 20
  ofs : BitVec 32
  deriving DecidableEq, Repr

/-- Memory form (03 R90). -/
structure FormM where
  gd : BitVec 4
  d : BitVec 5
  a : BitVec 5
  b : BitVec 5
  sc : BitVec 3
  aq : BitVec 1
  rl : BitVec 1
  sz : BitVec 2
  sg : BitVec 1
  am : BitVec 2
  cm : BitVec 1
  rsv : BitVec 3
  disp : BitVec 23
  deriving DecidableEq, Repr

/-- Vector form (03 R91). -/
structure FormV where
  gd : BitVec 4
  d : BitVec 5
  a : BitVec 5
  b : BitVec 5
  c : BitVec 5
  pr : BitVec 3
  pn : BitVec 1
  qf : BitVec 2
  rm : BitVec 2
  et : BitVec 4
  imm : BitVec 20
  deriving DecidableEq, Repr

/-- Tensor form (03 R92); tile is the field AT. -/
structure FormT where
  gd : BitVec 4
  d : BitVec 5
  a : BitVec 5
  b : BitVec 5
  c : BitVec 5
  tile : BitVec 2
  bt : BitVec 4
  af : BitVec 2
  bf : BitVec 2
  gn : BitVec 3
  rsv : BitVec 3
  imm : BitVec 16
  deriving DecidableEq, Repr

/-- Lattice form (03 R93); fi is the field IF. -/
structure FormL where
  gd : BitVec 4
  d : BitVec 5
  a : BitVec 5
  b : BitVec 5
  c : BitVec 5
  pg : BitVec 3
  np : BitVec 2
  fi : BitVec 2
  ot : BitVec 5
  rsv : BitVec 4
  imm : BitVec 16
  deriving DecidableEq, Repr

/-- Message form (03 R94). -/
structure FormQ where
  gd : BitVec 4
  d : BitVec 5
  a : BitVec 5
  b : BitVec 5
  c : BitVec 5
  tag : BitVec 7
  kd : BitVec 3
  rl : BitVec 1
  sc : BitVec 3
  qn : BitVec 3
  fm : BitVec 4
  imm : BitVec 11
  deriving DecidableEq, Repr

/-- Crown-tree form (03 R95). -/
structure FormB where
  gd : BitVec 4
  d : BitVec 5
  a : BitVec 5
  b : BitVec 5
  c : BitVec 5
  ch : BitVec 3
  bo : BitVec 1
  hn : BitVec 2
  pr : BitVec 3
  pn : BitVec 1
  qf : BitVec 2
  ofs : BitVec 20
  deriving DecidableEq, Repr

/-- Atomic form (03 R96). -/
structure FormA where
  gd : BitVec 4
  d : BitVec 5
  a : BitVec 5
  b : BitVec 5
  c : BitVec 5
  sc : BitVec 3
  aq : BitVec 1
  rl : BitVec 1
  cm : BitVec 1
  sz : BitVec 2
  ft : BitVec 2
  disp : BitVec 22
  deriving DecidableEq, Repr

/-- Link form (03 R97). -/
structure FormK where
  gd : BitVec 4
  d : BitVec 5
  a : BitVec 5
  b : BitVec 5
  c : BitVec 5
  ge : BitVec 8
  ko : BitVec 4
  fm : BitVec 4
  aq : BitVec 1
  rl : BitVec 1
  sc : BitVec 3
  imm : BitVec 11
  deriving DecidableEq, Repr

/-- System form (03 R98). -/
structure FormY where
  gd : BitVec 4
  d : BitVec 5
  a : BitVec 5
  b : BitVec 5
  c : BitVec 5
  rsv : BitVec 16
  code : BitVec 16
  deriving DecidableEq, Repr

/-- The four directions of a router's ports and links, in the order N, E, S, W of a route entry's OMASK (08 R271). -/
inductive Dir where
  | north | east | south | west
  deriving DecidableEq, Repr

/-- A place of a router from which a flit leaves (08 R267): a port buffer, the core's output queue, the delay queue of
a route entry, or the results that the SUM or adapter entry of a tag has formed and not yet sent. -/
inductive Place where
  | port (d : Dir)
  | out
  | delay (tag : Nat)
  | formed (tag : Nat)
  deriving DecidableEq, Repr

/-- Where a page walk stalled (07 R241, R242): a stream context of a brim engine, or a core's ldx, stx or spill. -/
inductive WalkSite where
  | stream (eng ctx : Nat)
  | scalar (lid : Nat)
  deriving DecidableEq, Repr

/-- The word that an uncorrectable error struck (15 R458, R460; 14 R434, R435). -/
inductive ErrSite where
  | loc (lid addr : Nat)
  | tensor (lid addr : Nat)
  | lattice (lid cell : Nat)
  | config (lid : Nat)
  deriving DecidableEq, Repr

/-- Where the flits that a brim engine sends for one role on one declared tag enter the mesh: the router, the port
buffer, and the tag they bear there (08 R274). -/
structure Inject where
  role : Nat
  tag  : Nat
  lid  : Nat
  dir  : Dir
  inTag : Nat
  deriving DecidableEq, Repr

/-- What the placement mapper decides for one region (14 R430, R431): the north-west corner, the partition, the logical
core and the brim port of each role, the route entries it writes as (logical id, tag, entry), the injection points, and,
where an evicted region resumes, for each flit that its routers held its number, the router, the place (a port buffer 0 to 3, or
4 for the delay queue) and the tag it resumes at (08 R289). -/
structure Placement where
  x0 : Nat
  y0 : Nat
  part : Nat
  bind : List Nat
  ports : List Nat
  routes : List (Nat × Nat × BitVec 64)
  inject : List Inject
  links : List (Nat × Nat × Nat × Nat)
  deriving DecidableEq, Repr

/-- What the mapper gives for a region on a rectangle that is passed over (14 R430, R431): the region, the partition, the corner,
and the placement; none where it cannot route there (08 R284). -/
structure Tried where
  region : Nat
  part : Nat
  x0 : Nat
  y0 : Nat
  out : Option Placement
  deriving DecidableEq, Repr

/-- The mapper's answers for a unit of regions (14 R430, R431): where it places each region, none where no rectangle can hold one, and
its answers for the rectangles passed over. -/
structure MapperAnswer where
  placed : Option (List (Nat × Placement))
  tried : List Tried
  deriving DecidableEq, Repr

/-- What a link port found at training (13 R403, R418): a switch or not, and the ranks at the far end with the latency L to
each, one rank on a direct cable. -/
structure Trained where
  port : Nat
  switch : Bool
  ranks : List (Nat × Nat)
  deriving DecidableEq, Repr

/-- What the world supplies to one run of the boot order (15 R455): the coolant check, the dead cores by physical column and row
of the wafer and the features lacking by logical id, as the defect map has them (01 R10, R11), the links dead in themselves, the cores that fail self-test, the brim ports
that train and those trained as two links, and the link ports that train. -/
structure BootInputs where
  temp : BitVec 48
  flow : Nat
  deadCores : List (Nat × Nat)
  lacking : List (Nat × BitVec 4)
  deadLinks : List (Nat × Dir)
  failing : List Nat
  brimUp : List Nat
  split : List Nat
  linkUp : List Trained
  deriving DecidableEq, Repr


/-- One constructor for each row of spec/opcode_table.json. A constructor with a form record is an encoded
instruction; one with other arguments is an event, reached through State.sched. -/
inductive Instr where
  /-- R181: Writes the 64-bit wrapping sum of sA and sB to sD. -/
  | add (x : FormS3)
  /-- R181: Writes the 64-bit wrapping difference sA minus sB to sD. -/
  | sub (x : FormS3)
  /-- R181: Writes the low 64 bits of the product of sA and sB to sD. -/
  | mul (x : FormS3)
  /-- R181: Writes the high 64 bits of the signed product of sA and sB to sD. -/
  | mulh (x : FormS3)
  /-- R181: Writes the high 64 bits of the natural product of sA and sB to sD. -/
  | mulhn (x : FormS3)
  /-- R181: Writes the signed quotient of sA by sB to sD, never trapping. -/
  | div (x : FormS3)
  /-- R181: Writes the natural quotient of sA by sB to sD, never trapping. -/
  | divn (x : FormS3)
  /-- R181: Writes the signed remainder of sA by sB to sD. -/
  | rem (x : FormS3)
  /-- R181: Writes the natural remainder of sA by sB to sD. -/
  | remn (x : FormS3)
  /-- R181: Writes the bitwise AND of sA and sB to sD. -/
  | and (x : FormS3)
  /-- R181: Writes the bitwise OR of sA and sB to sD. -/
  | or (x : FormS3)
  /-- R181: Writes the bitwise XOR of sA and sB to sD. -/
  | xor (x : FormS3)
  /-- R181: Writes sA AND NOT sB to sD. -/
  | andn (x : FormS3)
  /-- R181: Shifts sA left by sB bits, giving 0 for shifts of 64 or more. -/
  | sll (x : FormS3)
  /-- R181: Shifts sA right logically by sB bits. -/
  | srl (x : FormS3)
  /-- R181: Shifts sA right arithmetically by sB bits, capped at 63. -/
  | sra (x : FormS3)
  /-- R181: Rotates sA left by sB mod 64 bits. -/
  | rotl (x : FormS3)
  /-- R181: Rotates sA right by sB mod 64 bits. -/
  | rotr (x : FormS3)
  /-- R181: Writes the signed minimum of sA and sB to sD. -/
  | min (x : FormS3)
  /-- R181: Writes the signed maximum of sA and sB to sD. -/
  | max (x : FormS3)
  /-- R181: Writes the natural minimum of sA and sB to sD. -/
  | minn (x : FormS3)
  /-- R181: Writes the natural maximum of sA and sB to sD. -/
  | maxn (x : FormS3)
  /-- R182: Counts the leading zero bits of sA, giving 64 for zero. -/
  | clz (x : FormS3)
  /-- R182: Counts the trailing zero bits of sA, giving 64 for zero. -/
  | ctz (x : FormS3)
  /-- R182: Counts the one bits of sA. -/
  | popc (x : FormS3)
  /-- R182: Adds a sign-extended immediate to sA. -/
  | addi (x : FormSI)
  /-- R182: ANDs a sign-extended immediate into sA. -/
  | andi (x : FormSI)
  /-- R182: ORs a sign-extended immediate into sA. -/
  | ori (x : FormSI)
  /-- R182: XORs a sign-extended immediate into sA. -/
  | xori (x : FormSI)
  /-- R182: Shifts sA left by an immediate count 0-63. -/
  | slli (x : FormSI)
  /-- R182: Shifts sA right logically by an immediate count 0-63. -/
  | srli (x : FormSI)
  /-- R182: Shifts sA right arithmetically by an immediate count 0-63. -/
  | srai (x : FormSI)
  /-- R182: Writes a sign-extended 47-bit immediate to sD. -/
  | li (x : FormLI)
  /-- R183: Extracts a bit field of sA, optionally sign-extended, into sD. -/
  | bext (x : FormS3)
  /-- R183: Inserts the low bits of sA into a bit field of sD. -/
  | bins (x : FormS3)
  /-- R184: Writes sA or sB to sD according to flag fC. -/
  | sel (x : FormS3)
  /-- R184: Compares sA with sB under a condition and writes the truth to sD and optionally a flag. -/
  | cmp (x : FormS3)
  /-- R184: Compares sA with a 33-bit immediate under a condition and writes the truth to sD and optionally a flag. -/
  | cmpi (x : FormC)
  /-- R186: Scalar floating-point addition rounded once. -/
  | fopAdd (x : FormS3)
  /-- R186: Scalar floating-point subtraction rounded once. -/
  | fopSub (x : FormS3)
  /-- R186: Scalar floating-point multiplication rounded once. -/
  | fopMul (x : FormS3)
  /-- R186: Scalar fused multiply-add rounded once. -/
  | fopFma (x : FormS3)
  /-- R186: Scalar floating-point division rounded once. -/
  | fopDiv (x : FormS3)
  /-- R186: Scalar floating-point square root rounded once. -/
  | fopSqrt (x : FormS3)
  /-- R186: Scalar IEEE 754-2019 minimum. -/
  | fopMin (x : FormS3)
  /-- R186: Scalar IEEE 754-2019 maximum. -/
  | fopMax (x : FormS3)
  /-- R186: Clears the sign of a scalar floating-point value. -/
  | fopAbs (x : FormS3)
  /-- R186: Inverts the sign of a scalar floating-point value. -/
  | fopNeg (x : FormS3)
  /-- R186: Converts a scalar floating-point value to another floating-point type. -/
  | fopCvt (x : FormS3)
  /-- R186: Converts a scalar floating-point value to a signed 64-bit integer. -/
  | fopToi (x : FormS3)
  /-- R186: Converts a scalar floating-point value to a natural 64-bit integer. -/
  | fopTon (x : FormS3)
  /-- R186: Converts a signed integer to a floating-point type. -/
  | fopFromi (x : FormS3)
  /-- R186: Converts a natural integer to a floating-point type. -/
  | fopFromn (x : FormS3)
  /-- R186: Floating-point equality compare writing sD and optionally a flag. -/
  | fopEq (x : FormS3)
  /-- R186: Floating-point less-than compare writing sD and optionally a flag. -/
  | fopLt (x : FormS3)
  /-- R186: Floating-point less-or-equal compare writing sD and optionally a flag. -/
  | fopLe (x : FormS3)
  /-- R186: Floating-point unordered test writing sD and optionally a flag. -/
  | fopUn (x : FormS3)
  /-- R185: Jumps to PC plus 8 times OFS modulo 2^16. -/
  | jmp (x : FormJ)
  /-- R185: Pushes PC+8 on the return-address store and jumps by OFS. -/
  | call (x : FormJ)
  /-- R185: Jumps to the address in sA. -/
  | jr (x : FormS3)
  /-- R185: Pushes PC+8 and jumps to the address in sA. -/
  | callr (x : FormS3)
  /-- R185: Pops the return-address store and jumps to the popped address. -/
  | ret (x : FormS3)
  /-- R187: Loads from the core's LOC into sD. -/
  | ldl (x : FormM)
  /-- R187: Stores sD into the core's LOC. -/
  | stl (x : FormM)
  /-- R187: Loads from the cluster CLU space into sD. -/
  | ldc (x : FormM)
  /-- R187: Stores sD into the cluster CLU space. -/
  | stc (x : FormM)
  /-- R187: Loads from EXT memory through the slow scalar path into sD. -/
  | ldx (x : FormM)
  /-- R187: Stores sD into EXT memory through the slow scalar path. -/
  | stx (x : FormM)
  /-- R188: Orders the core's accesses on either side as AQ and RL select and discards fetched-ahead words. -/
  | fence (x : FormM)
  /-- R189: Reads the control register at AUX into sD. -/
  | csrr (x : FormS3)
  /-- R189: Writes sA into a control register with no row of its own and returns the old value. -/
  | csrw (x : FormS3)
  /-- R189: Sets the bits of sA in a control register and returns the old value. -/
  | csrwSet (x : FormS3)
  /-- R189: Clears the bits of sA in a control register and returns the old value. -/
  | csrwClr (x : FormS3)
  /-- R77: A csrr or csrw of FP_FLAGS waits for every earlier lane, tensor and lattice instruction before reading or writing the flags. -/
  | fpFlagsAccess (write : Bool) (x : FormS3)
  /-- R199: A csrr or csrw of PREDS waits for every earlier lane instruction and then reads or writes the predicates. -/
  | predsAccess (write : Bool) (x : FormS3)
  /-- R189: A csrw of a trigger entry word or TRIG_ORDER changes what the picker sees in the next cycle. -/
  | triggerEntryWrite (x : FormS3)
  /-- R349: A csrw of LBND sets the lattice input bound for later blocks. -/
  | lbndWrite (x : FormS3)
  /-- R439: A csrw of BANKWAIT sets which LOC banks the core's accesses wait on. -/
  | bankwaitWrite (x : FormS3)
  /-- R170: Copies the following body words into the repeat buffer and issues them CNT times with field strides. -/
  | rpt (x : FormSI)
  /-- R191: Stalls until every queue in the mask holds a flit and writes the mask of non-empty queues. -/
  | waitAll (x : FormS3)
  /-- R191: Stalls until some queue in the mask holds a flit and writes the mask of non-empty queues. -/
  | waitAny (x : FormS3)
  /-- R191: Stalls until the output queue has the given number of free slots. -/
  | waitOsp (x : FormS3)
  /-- R191: Stalls until CYCLE reaches sA and writes CYCLE. -/
  | waitUntil (x : FormS3)
  /-- R192: Ends the task, frees its trigger or inbox slot and empties the return-address store. -/
  | done (x : FormS3)
  /-- R193: Appends a posted task at sA with m0 = sB to the run queue, waiting while it is full. -/
  | post (x : FormS3)
  /-- R194: Takes trap SOFTWARE with SUB = code and TRAP_VAL = sA. -/
  | trap (x : FormS3)
  /-- R194: Takes trap BREAKPOINT with SUB = code. -/
  | brk (x : FormS3)
  /-- R194: Has no effect. -/
  | nop (x : FormS3)
  /-- R195: Waits for every earlier instruction and writes CYCLE minus sA. -/
  | tick (x : FormS3)
  /-- R211: Adds the elements of vA and vB in the selected lanes. -/
  | vadd (x : FormV)
  /-- R211: Subtracts the elements of vB from vA in the selected lanes. -/
  | vsub (x : FormV)
  /-- R211: Multiplies the elements of vA and vB in the selected lanes. -/
  | vmul (x : FormV)
  /-- R212: Fused multiply-add a times b plus c per element, one rounding. -/
  | vfma (x : FormV)
  /-- R212: Fused multiply-subtract a times b minus c per element, one rounding. -/
  | vfms (x : FormV)
  /-- R212: Fused negated multiply-add minus a times b plus c per element. -/
  | vfnma (x : FormV)
  /-- R211: Element-wise minimum of vA and vB. -/
  | vmin (x : FormV)
  /-- R211: Element-wise maximum of vA and vB. -/
  | vmax (x : FormV)
  /-- R211: Element-wise absolute value of vA. -/
  | vabs (x : FormV)
  /-- R211: Element-wise negation of vA. -/
  | vneg (x : FormV)
  /-- R211: Element-wise bitwise AND. -/
  | vand (x : FormV)
  /-- R211: Element-wise bitwise OR. -/
  | vor (x : FormV)
  /-- R211: Element-wise bitwise XOR. -/
  | vxor (x : FormV)
  /-- R211: Element-wise left shift by vB or an immediate. -/
  | vshl (x : FormV)
  /-- R211: Element-wise logical right shift. -/
  | vshr (x : FormV)
  /-- R211: Element-wise arithmetic right shift. -/
  | vsra (x : FormV)
  /-- R215: Compares one element per lane into a predicate and optionally a quantified flag. -/
  | vcmp (x : FormV)
  /-- R216: Selects elements from vA or vB by lane predicate. -/
  | vsel (x : FormV)
  /-- R220: Converts elements from type ST to type ET. -/
  | vcvt (x : FormV)
  /-- R221: Packs 16 floating-point values into one BX block in a slot of vD. -/
  | vbxpack (x : FormV)
  /-- R222: Unpacks one BX block of vA into floating-point elements. -/
  | vbxunpack (x : FormV)
  /-- R212: Correctly rounded reciprocal per element. -/
  | vrcp (x : FormV)
  /-- R212: Correctly rounded reciprocal square root per element. -/
  | vrsqrt (x : FormV)
  /-- R212: Correctly rounded base-2 exponential per element. -/
  | vexp2 (x : FormV)
  /-- R212: Correctly rounded base-2 logarithm per element. -/
  | vlog2 (x : FormV)
  /-- R212: Correctly rounded square root per element. -/
  | vsqrt (x : FormV)
  /-- R212: Correctly rounded division per element. -/
  | vdiv (x : FormV)
  /-- R223: Reduces the selected elements by the fixed pairwise sum tree into element 0. -/
  | vredsum (x : FormV)
  /-- R223: Reduces the selected elements by maximum into element 0. -/
  | vredmax (x : FormV)
  /-- R218: Broadcasts the low bits of sA to every selected element. -/
  | vbcast (x : FormV)
  /-- R218: Permutes elements of vA by indices in vB. -/
  | vperm (x : FormV)
  /-- R219: Moves one element or half tag of vA to sD. -/
  | vmovs (x : FormV)
  /-- R219: Inserts sA into one element or half tag of vD. -/
  | vins (x : FormV)
  /-- R224: Loads 256 bits from LOC into vD as four 64-bit accesses. -/
  | vld (x : FormM)
  /-- R224: Stores 256 bits of vD into LOC as four 64-bit accesses. -/
  | vst (x : FormM)
  /-- R224: Strided load of eight 32-bit lanes into vD. -/
  | vldq (x : FormM)
  /-- R224: Strided store of eight 32-bit lanes of vD. -/
  | vstq (x : FormM)
  /-- R217: Combines predicates pA and pB bitwise into pD. -/
  | vplog (x : FormV)
  /-- R217: Writes the OR of pA over the selected lanes into a flag. -/
  | vpany (x : FormV)
  /-- R217: Writes the AND of pA over the selected lanes into a flag. -/
  | vpall (x : FormV)
  /-- R217: Writes sA bits 7:0 ORed with a mask into pD. -/
  | vpset (x : FormV)
  /-- R213: Four-way 8-bit dot product accumulated into 32-bit lanes. -/
  | vdot4 (x : FormV)
  /-- R214: Writes the IEEE class bit of each element. -/
  | vclass (x : FormV)
  /-- R256: Opens the stream descriptor at LOC sA into a slot and builds its windows. -/
  | sopen (x : FormS3)
  /-- R257: Moves an OPEN or PAUSED stream slot to RUN and performs its acquire. -/
  | sgo (x : FormS3)
  /-- R257: Pauses a running stream after its issued items complete. -/
  | sstop (x : FormS3)
  /-- R257: Ends a stream with END = 2 once its issued items are performed. -/
  | sstopClose (x : FormS3)
  /-- R258: Waits for a stream to end and its token, writes its status and frees the slot. -/
  | swait (x : FormS3)
  /-- R258: Writes the stream status of a slot without waiting. -/
  | sstat (x : FormS3)
  /-- R258: Writes the next item's counters of a stream. -/
  | sstatCnt (x : FormS3)
  /-- R259: Sets up a circular-buffer context from an 8-byte record in LOC. -/
  | cbinit (x : FormS3)
  /-- R260: Waits until FILLED reaches count and writes the head entry address. -/
  | cbwait (x : FormS3)
  /-- R260: Releases count entries and sends a credit flit to the producer. -/
  | cbrel (x : FormS3)
  /-- R261: Sends vA as two flits on a producer context when credits allow. -/
  | cbput (x : FormS3)
  /-- R261: Writes the status of a circular-buffer context. -/
  | cbstat (x : FormS3)
  /-- R262: Migrates one page to a new physical address and reports the outcome. -/
  | smig (x : FormS3)
  /-- R262: Runs a translation shoot-down over a VA range and waits for completion. -/
  | sinval (x : FormS3)
  /-- R293: Pushes one flit of given format and KIND on a route tag. -/
  | sendw2 (x : FormQ)
  /-- R294: Sends a four-flit active message with 48 bytes from LOC. -/
  | sendm (x : FormQ)
  /-- R295: Discards every flit in an input queue without consuming them. -/
  | qflush (x : FormQ)
  /-- R295: Reads a view of a queue's head flit without waiting or popping. -/
  | qpeek (x : FormQ)
  /-- R295: Writes the counts of every queue, output slots, half marks and inbox. -/
  | qstat (x : FormQ)
  /-- R295: Waits for and pops the head flit of any KIND as a consumption. -/
  | qdrop (x : FormQ)
  /-- R296: Reads a route entry into sD. -/
  | rtget (x : FormQ)
  /-- R296: Writes a route entry after checks, waiting for its delay queue to empty. -/
  | rtset (x : FormQ)
  /-- R296: Binds an output tag to a queue register in QTAGS. -/
  | tagset (x : FormQ)
  /-- R296: Writes the delay-matching depth of a route entry. -/
  | dmqset (x : FormQ)
  /-- R297: Reads EXLOG into sD. -/
  | excq (x : FormQ)
  /-- R297: Reads EXLOG and clears it in one step. -/
  | excqClr (x : FormQ)
  /-- R298: Pops a drain token, reports the passage and forwards the token on a tag. -/
  | drain (x : FormQ)
  /-- R298: Pops a drain token and reports the passage without forwarding it. -/
  | drainEnd (x : FormQ)
  /-- R299: Releases and sends a bank-ownership token naming a LOC bank. -/
  | bankpass (x : FormQ)
  /-- R319: Loads a B tile slot from a tile image in LOC. -/
  | tldb (x : FormT)
  /-- R319: Loads a B tile slot from flits of a queue, column by column. -/
  | tldbq (x : FormT)
  /-- R320: Multiplies one A block from a vector register into an accumulator tile. -/
  | tmac (x : FormT)
  /-- R320: Multiplies CNT A blocks from a queue into an accumulator tile. -/
  | tmacq (x : FormT)
  /-- R320: Multiplies CNT A blocks from LOC into an accumulator tile. -/
  | tmacl (x : FormT)
  /-- R312: Joins or dissolves a gang, waiting until every member has joined. -/
  | tgang (x : FormT)
  /-- R321: Clears an accumulator tile to zero blocks. -/
  | tclr (x : FormT)
  /-- R321: Adds tile aA into tile AT by AddBA40. -/
  | tadd (x : FormT)
  /-- R321: Raises the exponents of AT to sA. -/
  | tnorm (x : FormT)
  /-- R321: Raises the exponents of AT to the larger of its nonzero halves. -/
  | tnormMax (x : FormT)
  /-- R322: Copies BA40 halves between accumulator tiles. -/
  | tmovTt (x : FormT)
  /-- R322: Pushes BA40 halves as five FMT 10 flits each. -/
  | tmovOut (x : FormT)
  /-- R322: Pops five FMT 10 flits per block into a tile half. -/
  | tmovIn (x : FormT)
  /-- R323: Stores an accumulator tile as two BA40 records in LOC. -/
  | tsta (x : FormT)
  /-- R323: Loads an accumulator tile from two BA40 records in LOC. -/
  | tlda (x : FormT)
  /-- R324: Packs a tile half into a BX block to a vector or queue. -/
  | tout (x : FormT)
  /-- R325: Writes the exponents and status of a tile's halves into sD. -/
  | texp (x : FormT)
  /-- R338: Loads a lattice graph image from LOC into pages. -/
  | lgl (x : FormL)
  /-- R339: Loads a lattice graph image from a queue word by word. -/
  | lglq (x : FormL)
  /-- R348: Binds the lattice input queue to a graph in stream mode. -/
  | lsel (x : FormL)
  /-- R348: Unbinds the lattice input queue after the block in progress. -/
  | lselOff (x : FormL)
  /-- R347: Runs CNT blocks from a queue through a graph into a sink. -/
  | lrun (x : FormL)
  /-- R347: Runs one block from a vector register through a graph into a sink. -/
  | lrunv (x : FormL)
  /-- R349: Sets the lattice input bound and trap mode. -/
  | lbound (x : FormL)
  /-- R350: Writes the lattice status word, optionally clearing the counters. -/
  | lstatSt (x : FormL)
  /-- R350: Writes one tap sum of the last-run record. -/
  | lstatTap (x : FormL)
  /-- R350: Writes the exponent of the last-run record. -/
  | lstatExp (x : FormL)
  /-- R351: Frees the graph occupying a page. -/
  | lfree (x : FormL)
  /-- R351: Frees every lattice graph. -/
  | lfreeAll (x : FormL)
  /-- R352: Writes the SHA-256 of a loaded graph image to LOC. -/
  | lsum (x : FormL)
  /-- R378: Releases and contributes a barrier arrival on a channel. -/
  | barr (x : FormB)
  /-- R378: Waits for the barrier episode's result and writes it, as an acquire. -/
  | bwait (x : FormB)
  /-- R378: Arrives at a barrier and waits for its release with clock gating. -/
  | barw (x : FormB)
  /-- R379: Excuses the core from the current episode and writes its result. -/
  | bexcuse (x : FormB)
  /-- R379: Rejoins the group from the next episode. -/
  | bgjoin (x : FormB)
  /-- R379: Sets a standing excusal on a channel. -/
  | bgleave (x : FormB)
  /-- R380: Contributes a flag to a collective branch and speculates on the predicted path. -/
  | cbr (x : FormB)
  /-- R380: Contributes a quantified predicate to a collective branch and speculates. -/
  | cbrv (x : FormB)
  /-- R381: Writes the result of the latest completed branch episode. -/
  | cbrres (x : FormB)
  /-- R381: Writes the core's speculation statistics. -/
  | specstat (x : FormB)
  /-- R379: Sets or clears a role's standing excusal on a channel. -/
  | bmask (x : FormB)
  /-- R381: Contributes a count and waits for the episode's result. -/
  | tcount (x : FormB)
  /-- R393: Indivisibly adds sB to a CLU word. -/
  | aadd (x : FormA)
  /-- R393: Indivisibly ANDs sB into a CLU word. -/
  | aand (x : FormA)
  /-- R393: Indivisibly ORs sB into a CLU word. -/
  | aor (x : FormA)
  /-- R393: Indivisibly XORs sB into a CLU word. -/
  | axor (x : FormA)
  /-- R393: Indivisibly takes the signed minimum into a CLU word. -/
  | amin (x : FormA)
  /-- R393: Indivisibly takes the signed maximum into a CLU word. -/
  | amax (x : FormA)
  /-- R393: Indivisibly takes the natural minimum into a CLU word. -/
  | aminn (x : FormA)
  /-- R393: Indivisibly takes the natural maximum into a CLU word. -/
  | amaxn (x : FormA)
  /-- R393: Indivisibly swaps sB into a CLU word. -/
  | aswap (x : FormA)
  /-- R393: Indivisibly compares a CLU word with sC and writes sB on equality. -/
  | acas (x : FormA)
  /-- R393: Indivisibly increments a CLU word while below sB. -/
  | aincl (x : FormA)
  /-- R394: Adds an FP32 or BF16 value exactly into a fixed-point cell. -/
  | afadd (x : FormA)
  /-- R395: Reads a fixed-point cell rounded once to FP32. -/
  | afrd (x : FormA)
  /-- R395: Clears a fixed-point cell, optionally reading it first. -/
  | afclr (x : FormA)
  /-- R396: Waits until every earlier atomic and cell operation of the core is performed. -/
  | afence (x : FormA)
  /-- R416: Installs a group table entry from 160 bytes of LOC at every engine. -/
  | lkgrp (x : FormK)
  /-- R406: Issues a broadcast collective from member index 0. -/
  | lkcollBcast (x : FormK)
  /-- R407: Issues a floating-point or BA40 sum collective over the fixed tree. -/
  | lkcollFsum (x : FormK)
  /-- R406: Issues a wrapping integer sum collective. -/
  | lkcollIsum (x : FormK)
  /-- R406: Issues a signed minimum collective. -/
  | lkcollMin (x : FormK)
  /-- R406: Issues a signed maximum collective. -/
  | lkcollMax (x : FormK)
  /-- R406: Issues a bitwise AND collective. -/
  | lkcollAnd (x : FormK)
  /-- R406: Issues a bitwise OR collective. -/
  | lkcollOr (x : FormK)
  /-- R417: Issues an exact collective over fixed-point cells of the cluster. -/
  | lkcollCell (x : FormK)
  /-- R418: Waits for a collective slot to finish and writes its status or traps LINK_GROUP. -/
  | lkwait (x : FormK)
  /-- R418: Writes the status of a collective slot without waiting. -/
  | lkstatSlot (x : FormK)
  /-- R418: Writes the state word of a link port. -/
  | lkstatPort (x : FormK)
  /-- R419: Reads the SEQ counter of a group table entry. -/
  | lkseq (x : FormK)
  /-- R419: Reads and then sets the SEQ counter of a group table entry. -/
  | lkseqSet (x : FormK)
  /-- R445: Returns from a trap handler, continuing the repeat buffer or re-executing the trapped word. -/
  | trapret (x : FormY)
  /-- R445: Returns from a trap handler skipping the trapped instruction. -/
  | trapretSkip (x : FormY)
  /-- R446: Ends the core's work and disables its trigger entries. -/
  | halt (x : FormY)
  /-- R446: Stops the whole region, which ends HALTED. -/
  | haltRgn (x : FormY)
  /-- R447: Writes placement, configuration or feature information selected by CODE. -/
  | feat (x : FormY)
  /-- R448: Ends the task like done and gates the clocks until a task arrives. -/
  | idle (x : FormY)
  /-- R449: Takes trap SYSCALL with SUB = CODE for codes below 0x8000. -/
  | syscall (x : FormY)
  /-- R449: Appends a notify record to the job's completion ring. -/
  | syscallNotify (x : FormY)
  /-- R449: Requests the region's configuration step and writes its status. -/
  | syscallStep (x : FormY)
  /-- R102: A fetched word whose OP is unassigned traps ILLEGAL_OPCODE and changes nothing else. -/
  | illegalOpcode (w : BitVec 64)
  /-- R169: A wait whose count reaches WAIT_LIMIT traps WAIT_TIMEOUT with no effect. -/
  | waitTimeout (lid : Nat)
  /-- R164: The picker fires the first ready trigger entry, appending a task and applying SEQINC and ROT. -/
  | triggerFire (lid : Nat)
  /-- R164: The picker binds the unbound active message at the inbox head to a new task. -/
  | inboxTaskCreate (lid : Nat)
  /-- R138: The oldest store-buffer entry is performed at its home, a remote CLU store on its acknowledgement. -/
  | storeBufferPerform (lid : Nat)
  /-- R238: A read stream performs an item's reads and delivers its flits in item order. -/
  | streamItemRead (eng ctx : Nat)
  /-- R239: A write stream writes an item once all its flits have arrived. -/
  | streamItemWrite (eng ctx : Nat)
  /-- R240: A stream enters ENDED and sends its completion token after its accesses are performed. -/
  | streamEnd (eng ctx : Nat)
  /-- R242: Every 16,384 cycles the engine retries a faulting walk and resumes on success. -/
  | walkRetry (site : WalkSite)
  /-- R243: A stall lasting the page-fault time limit drains the region to SAVED with a second report. -/
  | pageFaultTimeLimit (site : WalkSite)
  /-- R246: A brim engine with no open context and no scalar traffic sleeps. -/
  | engineSleep (eng : Nat)
  /-- R246: A waking engine drops every window and translation entry before its first access. -/
  | engineWake (eng : Nat)
  /-- R250: A consumer context writes an arriving flit into its tail entry and raises FILLED when an entry completes. -/
  | cbEntryFlit (lid : Nat) (p : Place)
  /-- R252: A credit flit reaching a producer raises its FREE count. -/
  | cbCreditArrival (lid : Nat) (p : Place)
  /-- R17: A completion token retires one outstanding command of the issuing core. -/
  | completionTokenArrival (lid : Nat)
  /-- R273: A flit leaves its place through every output of its route entry, retagged as the entry says. -/
  | flitForward (lid : Nat) (p : Place)
  /-- R279: When every CIX slot holds a block, a SUM entry adds one round and emits a result or RENORM flit. -/
  | sumRound (lid tag : Nat)
  /-- R280: When every CIX holds a drain or stop flit, a SUM entry sends one such flit. -/
  | sumControlFlit (lid tag : Nat)
  /-- R282: An OP 3 entry stores a RENORM flit's target and block and forwards or absorbs it. -/
  | renormRecord (lid : Nat) (p : Place)
  /-- R283: An OP 2 entry repacks BX flits to the target format. -/
  | widthAdapt (lid : Nat) (p : Place)
  /-- R165: A fully assembled active message enters the lowest free inbox slot. -/
  | inboxAccept (lid : Nat)
  /-- R341: In stream mode the lattice runs the head flit's block and pushes its outputs. -/
  | latticeStreamBlock (lid : Nat)
  /-- R358: When every non-excused member has contributed, the root forms the episode's result. -/
  | episodeComplete (g : Nat)
  /-- R359: An episode's result word reaches a member and ends its wait. -/
  | treeResultArrival (lid ch : Nat)
  /-- R368: A branch outcome arrives and the core commits, discards or traps GROUP_FAULT. -/
  | outcomeArrival (lid ch : Nat)
  /-- R373: The field controller retires a degraded core stalled in barw or at a configuration boundary. -/
  | coreRetire (lid : Nat)
  /-- R386: Each cycle the atomic engine performs at most one line request and one cell request by promotion and logical id. -/
  | atomicServe (cl : Nat)
  /-- R390: The engine performs the held acas of a DET step in role-id order once every member has one held or has arrived. -/
  | detAcasStep (cl : Nat)
  /-- R409: A received collective header frame is checked against its hop entry and its operation performed. -/
  | collectiveHeaderFrame (port : Nat) (fr : BitVec 512)
  /-- R409: A received collective data frame delivers units to its chunk. -/
  | collectiveDataFrame (port : Nat) (fr : BitVec 512)
  /-- R409: A combine hop performs its Combine once the partial of its level is present. -/
  | collectiveCombine (c : Nat)
  /-- R410: The engine writes a collective's destination and sends the completion token. -/
  | collectiveComplete (c : Nat)
  /-- R412: After 2^20 cycles with no port reaching a member the collective fails with REASON 5. -/
  | collectiveUnreachable (c : Nat)
  /-- R411: A crown partial from another module is merged into a cross-module episode result. -/
  | crownPartialFrame (port : Nat) (fr : BitVec 512)
  /-- R400: A credit frame returns receive buffers to the sender. -/
  | linkCreditFrame (port : Nat) (fr : BitVec 512)
  /-- R401: The sender resends every frame after the last acknowledged one. -/
  | linkFrameResend (port : Nat)
  /-- R437: The controller pushes the drain token into the DROLE queue once it has room. -/
  | drainTokenPush (rg : Nat)
  /-- R437: Once every role has passed the drain token and the region is quiescent, the next configuration is written and committed. -/
  | configStepSwitch (rg : Nat) (pl : Option Placement)
  /-- R425: A LAUNCH entry walks and checks the job's region control block tree and records acceptance or rejection. -/
  | launch (q : Nat)
  /-- R440: A PREEMPT entry drains and saves every region of a partition. -/
  | preempt (q : Nat)
  /-- R442: A RESUME entry places every SAVED region of the job again. -/
  | resume (q : Nat)
  /-- R426: A RELEASE entry returns every FROZEN region of the job to EMPTY. -/
  | release (q : Nat)
  /-- R428: A CANCEL entry ends every region of the job, which ends CANCELLED. -/
  | cancel (q : Nat)
  /-- R244: An INVALIDATE entry runs a translation shoot-down for a VA range. -/
  | invalidate (q : Nat)
  /-- R429: The field controller binds a waiting region to a rectangle once dependences and budgets allow. -/
  | regionPlace (rg : Nat) (pls : MapperAnswer)
  /-- R433: When every core reports its staging checked, the controller sends the commit token. -/
  | stagingComplete (rg : Nat)
  /-- R433: A core swaps its shadow store into live state when the commit token reaches it. -/
  | commitTokenArrival (lid : Nat)
  /-- R434: An uncorrectable error before commit aborts the load and retries once. -/
  | loadAbort (lid : Nat)
  /-- R436: A quiescent region with no step requested ends and its job-end record may follow. -/
  | regionComplete (rg : Nat)
  /-- R440: A core of a draining region is halted once the conditions of R150 hold. -/
  | coreHalt (lid : Nat)
  /-- R440: Once every core's context lies in the shadow stores the region is SAVED. -/
  | contextSaved (rg : Nat)
  /-- R441: A SAVED region whose cores are needed is copied to its save area. -/
  | regionEvict (rg : Nat)
  /-- R454: The device writes a completion record when the ring has room, advances CQTAIL and raises the vector. -/
  | completionRecordWrite (q : Nat)
  /-- R453: A doorbell write sets the work-queue tail and starts reading entries. -/
  | doorbell (q : Nat) (val : BitVec 64)
  /-- R452: A write of WQCFG configures or disables the work-queue ring. -/
  | wqcfgWrite (q : Nat) (val : BitVec 64)
  /-- R452: A write of CQCFG configures the completion ring. -/
  | cqcfgWrite (q : Nat) (val : BitVec 64)
  /-- R454: A write of CQCTL sets the interrupt and the host's HEAD index. -/
  | cqctlWrite (q : Nat) (val : BitVec 64)
  /-- R452: A write of 1 to QSTAT.QERR clears it. -/
  | qstatClear (q : Nat) (val : BitVec 64)
  /-- R462: A write of MG_PCAP sets the power cap and clears TRIP. -/
  | mgPcapWrite (val : BitVec 64)
  /-- R463: A write of an HDM range checks and enables it and extends MEAS3. -/
  | mgHdmWrite (word : Nat) (val : BitVec 64)
  /-- R462: A write of a management register with no row of its own, such as MG_RANK or a mailbox register. -/
  | mgmtRegisterWrite (off : Nat) (val : BitVec 64)
  /-- R465: Reads, verifies and stores a firmware image for the next reset. -/
  | fwload
  /-- R465: Raises the fused SVN to that of the running firmware. -/
  | svnraise
  /-- R457: Returns a signed report of the measurements, serial, SVN and nonce. -/
  | attest
  /-- R465: Returns the retirement list. -/
  | retlist
  /-- R459: Clears the retirement list while no job is resident. -/
  | retclear
  /-- R464: Checks and writes all 84 partition entries or none. -/
  | partset
  /-- R455: Sets MG_STATUS.READY and STATE 7 so queues accept entries. -/
  | ready
  /-- R455: Runs the boot order of power-up, verification, self-test and port training. -/
  | moduleReset (b : BootInputs)
  /-- R458: A corrected error counts toward its core's window and degrades it at the third. -/
  | correctedEccError (lid : Nat)
  /-- R460: An uncorrectable error poisons the word, degrades the core or raises CONFIG_UE. -/
  | uncorrectableError (site : ErrSite)
  /-- R461: A mesh link counts a CRC retry and becomes dead at 1,024 in a window. -/
  | meshLinkCrcRetry (lid : Nat) (dir : Dir)
  /-- R461: An Mbapin port with too many retries or lost training is marked down and leaves every rank map. -/
  | linkPortDown (port : Nat) (training : Bool)
  /-- R466: Above 100 °C junction the power manager lowers clocks until below 95 °C. -/
  | thermalThrottle (temp : BitVec 16)
  /-- R466: The power manager lowers clocks to hold power at or below MG_PCAP. -/
  | powerCapThrottle (watts : BitVec 32)
  /-- R466: At 110 °C the module removes wafer power within 10 ms. -/
  | thermalTrip (temp : BitVec 16)
  /-- R466: Coolant flow below 20 L/min for 1 s removes wafer power. -/
  | coolantFlowTrip (flow : Nat)
  /-- R191: A wait.until stalled on CYCLE proceeds and writes CYCLE once CYCLE reaches N(sA). -/
  | waitUntilCycleReached (lid : Nat)
  /-- R226: A brim port's CXL link goes down or retrains, after which accesses homed at it complete as uncorrectable reads or
  failed writes; 48 + p is the second half of a bifurcated port p. -/
  | brimLinkDown (port : Nat)
  deriving DecidableEq, Repr

end Sys2Proof
end

