-- ==== Sys2Proof/Machine/Encoding.lean ====
section
/-! DEFINITION. The encoding tables: the words of the forms, the word of each encoded instruction, the fields that each
instruction reads and the values that the owning chapters allow in them, and the ranges of the arguments of events. They
stand here, under Machine, so that a later repair may mend them; WellFormed and Decode read them. -/

namespace Sys2Proof

/-- The word of opcode op with these fields (03 R86). -/
def FormS3.word (op : BitVec 8) (x : FormS3) : Word :=
  op ++ x.gd ++ x.d ++ x.a ++ x.b ++ x.c ++ x.sf ++ x.fd ++ x.rm ++ x.rd ++ x.ty ++ x.aux

/-- The fields of a word read in this form. -/
def FormS3.ofWord (w : Word) : FormS3 :=
  ⟨w.extractLsb' 52 4, w.extractLsb' 47 5, w.extractLsb' 42 5, w.extractLsb' 37 5, w.extractLsb' 32 5, w.extractLsb' 26 6, w.extractLsb' 23 3, w.extractLsb' 21 2, w.extractLsb' 20 1, w.extractLsb' 16 4, w.extractLsb' 0 16⟩

/-- The word of opcode op with these fields (03 R87). -/
def FormSI.word (op : BitVec 8) (x : FormSI) : Word :=
  op ++ x.gd ++ x.d ++ x.a ++ x.imm

/-- The fields of a word read in this form. -/
def FormSI.ofWord (w : Word) : FormSI :=
  ⟨w.extractLsb' 52 4, w.extractLsb' 47 5, w.extractLsb' 42 5, w.extractLsb' 0 42⟩

/-- The word of opcode op with these fields (03 R87). -/
def FormC.word (op : BitVec 8) (x : FormC) : Word :=
  op ++ x.gd ++ x.d ++ x.a ++ x.fd ++ x.sf ++ x.imm

/-- The fields of a word read in this form. -/
def FormC.ofWord (w : Word) : FormC :=
  ⟨w.extractLsb' 52 4, w.extractLsb' 47 5, w.extractLsb' 42 5, w.extractLsb' 39 3, w.extractLsb' 33 6, w.extractLsb' 0 33⟩

/-- The word of opcode op with these fields (03 R88). -/
def FormLI.word (op : BitVec 8) (x : FormLI) : Word :=
  op ++ x.gd ++ x.d ++ x.imm

/-- The fields of a word read in this form. -/
def FormLI.ofWord (w : Word) : FormLI :=
  ⟨w.extractLsb' 52 4, w.extractLsb' 47 5, w.extractLsb' 0 47⟩

/-- The word of opcode op with these fields (03 R89). -/
def FormJ.word (op : BitVec 8) (x : FormJ) : Word :=
  op ++ x.gd ++ x.rsv ++ x.ofs

/-- The fields of a word read in this form. -/
def FormJ.ofWord (w : Word) : FormJ :=
  ⟨w.extractLsb' 52 4, w.extractLsb' 32 20, w.extractLsb' 0 32⟩

/-- The word of opcode op with these fields (03 R90). -/
def FormM.word (op : BitVec 8) (x : FormM) : Word :=
  op ++ x.gd ++ x.d ++ x.a ++ x.b ++ x.sc ++ x.aq ++ x.rl ++ x.sz ++ x.sg ++ x.am ++ x.cm ++ x.rsv ++ x.disp

/-- The fields of a word read in this form. -/
def FormM.ofWord (w : Word) : FormM :=
  ⟨w.extractLsb' 52 4, w.extractLsb' 47 5, w.extractLsb' 42 5, w.extractLsb' 37 5, w.extractLsb' 34 3, w.extractLsb' 33 1, w.extractLsb' 32 1, w.extractLsb' 30 2, w.extractLsb' 29 1, w.extractLsb' 27 2, w.extractLsb' 26 1, w.extractLsb' 23 3, w.extractLsb' 0 23⟩

/-- The word of opcode op with these fields (03 R91). -/
def FormV.word (op : BitVec 8) (x : FormV) : Word :=
  op ++ x.gd ++ x.d ++ x.a ++ x.b ++ x.c ++ x.pr ++ x.pn ++ x.qf ++ x.rm ++ x.et ++ x.imm

/-- The fields of a word read in this form. -/
def FormV.ofWord (w : Word) : FormV :=
  ⟨w.extractLsb' 52 4, w.extractLsb' 47 5, w.extractLsb' 42 5, w.extractLsb' 37 5, w.extractLsb' 32 5, w.extractLsb' 29 3, w.extractLsb' 28 1, w.extractLsb' 26 2, w.extractLsb' 24 2, w.extractLsb' 20 4, w.extractLsb' 0 20⟩

/-- The word of opcode op with these fields (03 R92). -/
def FormT.word (op : BitVec 8) (x : FormT) : Word :=
  op ++ x.gd ++ x.d ++ x.a ++ x.b ++ x.c ++ x.tile ++ x.bt ++ x.af ++ x.bf ++ x.gn ++ x.rsv ++ x.imm

/-- The fields of a word read in this form. -/
def FormT.ofWord (w : Word) : FormT :=
  ⟨w.extractLsb' 52 4, w.extractLsb' 47 5, w.extractLsb' 42 5, w.extractLsb' 37 5, w.extractLsb' 32 5, w.extractLsb' 30 2, w.extractLsb' 26 4, w.extractLsb' 24 2, w.extractLsb' 22 2, w.extractLsb' 19 3, w.extractLsb' 16 3, w.extractLsb' 0 16⟩

/-- The word of opcode op with these fields (03 R93). -/
def FormL.word (op : BitVec 8) (x : FormL) : Word :=
  op ++ x.gd ++ x.d ++ x.a ++ x.b ++ x.c ++ x.pg ++ x.np ++ x.fi ++ x.ot ++ x.rsv ++ x.imm

/-- The fields of a word read in this form. -/
def FormL.ofWord (w : Word) : FormL :=
  ⟨w.extractLsb' 52 4, w.extractLsb' 47 5, w.extractLsb' 42 5, w.extractLsb' 37 5, w.extractLsb' 32 5, w.extractLsb' 29 3, w.extractLsb' 27 2, w.extractLsb' 25 2, w.extractLsb' 20 5, w.extractLsb' 16 4, w.extractLsb' 0 16⟩

/-- The word of opcode op with these fields (03 R94). -/
def FormQ.word (op : BitVec 8) (x : FormQ) : Word :=
  op ++ x.gd ++ x.d ++ x.a ++ x.b ++ x.c ++ x.tag ++ x.kd ++ x.rl ++ x.sc ++ x.qn ++ x.fm ++ x.imm

/-- The fields of a word read in this form. -/
def FormQ.ofWord (w : Word) : FormQ :=
  ⟨w.extractLsb' 52 4, w.extractLsb' 47 5, w.extractLsb' 42 5, w.extractLsb' 37 5, w.extractLsb' 32 5, w.extractLsb' 25 7, w.extractLsb' 22 3, w.extractLsb' 21 1, w.extractLsb' 18 3, w.extractLsb' 15 3, w.extractLsb' 11 4, w.extractLsb' 0 11⟩

/-- The word of opcode op with these fields (03 R95). -/
def FormB.word (op : BitVec 8) (x : FormB) : Word :=
  op ++ x.gd ++ x.d ++ x.a ++ x.b ++ x.c ++ x.ch ++ x.bo ++ x.hn ++ x.pr ++ x.pn ++ x.qf ++ x.ofs

/-- The fields of a word read in this form. -/
def FormB.ofWord (w : Word) : FormB :=
  ⟨w.extractLsb' 52 4, w.extractLsb' 47 5, w.extractLsb' 42 5, w.extractLsb' 37 5, w.extractLsb' 32 5, w.extractLsb' 29 3, w.extractLsb' 28 1, w.extractLsb' 26 2, w.extractLsb' 23 3, w.extractLsb' 22 1, w.extractLsb' 20 2, w.extractLsb' 0 20⟩

/-- The word of opcode op with these fields (03 R96). -/
def FormA.word (op : BitVec 8) (x : FormA) : Word :=
  op ++ x.gd ++ x.d ++ x.a ++ x.b ++ x.c ++ x.sc ++ x.aq ++ x.rl ++ x.cm ++ x.sz ++ x.ft ++ x.disp

/-- The fields of a word read in this form. -/
def FormA.ofWord (w : Word) : FormA :=
  ⟨w.extractLsb' 52 4, w.extractLsb' 47 5, w.extractLsb' 42 5, w.extractLsb' 37 5, w.extractLsb' 32 5, w.extractLsb' 29 3, w.extractLsb' 28 1, w.extractLsb' 27 1, w.extractLsb' 26 1, w.extractLsb' 24 2, w.extractLsb' 22 2, w.extractLsb' 0 22⟩

/-- The word of opcode op with these fields (03 R97). -/
def FormK.word (op : BitVec 8) (x : FormK) : Word :=
  op ++ x.gd ++ x.d ++ x.a ++ x.b ++ x.c ++ x.ge ++ x.ko ++ x.fm ++ x.aq ++ x.rl ++ x.sc ++ x.imm

/-- The fields of a word read in this form. -/
def FormK.ofWord (w : Word) : FormK :=
  ⟨w.extractLsb' 52 4, w.extractLsb' 47 5, w.extractLsb' 42 5, w.extractLsb' 37 5, w.extractLsb' 32 5, w.extractLsb' 24 8, w.extractLsb' 20 4, w.extractLsb' 16 4, w.extractLsb' 15 1, w.extractLsb' 14 1, w.extractLsb' 11 3, w.extractLsb' 0 11⟩

/-- The word of opcode op with these fields (03 R98). -/
def FormY.word (op : BitVec 8) (x : FormY) : Word :=
  op ++ x.gd ++ x.d ++ x.a ++ x.b ++ x.c ++ x.rsv ++ x.code

/-- The fields of a word read in this form. -/
def FormY.ofWord (w : Word) : FormY :=
  ⟨w.extractLsb' 52 4, w.extractLsb' 47 5, w.extractLsb' 42 5, w.extractLsb' 37 5, w.extractLsb' 32 5, w.extractLsb' 16 16, w.extractLsb' 0 16⟩

/-- The word of an encoded instruction (03 R81, R99); none for an event. -/
def Instr.word? : Instr → Option Word
  | .add x => some (x.word 0x01)
  | .sub x => some (x.word 0x02)
  | .mul x => some (x.word 0x05)
  | .mulh x => some (x.word 0x06)
  | .mulhn x => some (x.word 0x07)
  | .div x => some (x.word 0x08)
  | .divn x => some (x.word 0x09)
  | .rem x => some (x.word 0x0A)
  | .remn x => some (x.word 0x0B)
  | .and x => some (x.word 0x0C)
  | .or x => some (x.word 0x0D)
  | .xor x => some (x.word 0x0E)
  | .andn x => some (x.word 0x0F)
  | .sll x => some (x.word 0x13)
  | .srl x => some (x.word 0x14)
  | .sra x => some (x.word 0x15)
  | .rotl x => some (x.word 0x19)
  | .rotr x => some (x.word 0x1A)
  | .min x => some (x.word 0x20)
  | .max x => some (x.word 0x21)
  | .minn x => some (x.word 0x22)
  | .maxn x => some (x.word 0x23)
  | .clz x => some (x.word 0x1B)
  | .ctz x => some (x.word 0x1C)
  | .popc x => some (x.word 0x1D)
  | .addi x => some (x.word 0x03)
  | .andi x => some (x.word 0x10)
  | .ori x => some (x.word 0x11)
  | .xori x => some (x.word 0x12)
  | .slli x => some (x.word 0x16)
  | .srli x => some (x.word 0x17)
  | .srai x => some (x.word 0x18)
  | .li x => some (x.word 0x04)
  | .bext x => some (x.word 0x1E)
  | .bins x => some (x.word 0x1F)
  | .sel x => some (x.word 0x24)
  | .cmp x => some (x.word 0x25)
  | .cmpi x => some (x.word 0x26)
  | .fopAdd x => some (x.word 0x27)
  | .fopSub x => some (x.word 0x27)
  | .fopMul x => some (x.word 0x27)
  | .fopFma x => some (x.word 0x27)
  | .fopDiv x => some (x.word 0x27)
  | .fopSqrt x => some (x.word 0x27)
  | .fopMin x => some (x.word 0x27)
  | .fopMax x => some (x.word 0x27)
  | .fopAbs x => some (x.word 0x27)
  | .fopNeg x => some (x.word 0x27)
  | .fopCvt x => some (x.word 0x27)
  | .fopToi x => some (x.word 0x27)
  | .fopTon x => some (x.word 0x27)
  | .fopFromi x => some (x.word 0x27)
  | .fopFromn x => some (x.word 0x27)
  | .fopEq x => some (x.word 0x27)
  | .fopLt x => some (x.word 0x27)
  | .fopLe x => some (x.word 0x27)
  | .fopUn x => some (x.word 0x27)
  | .jmp x => some (x.word 0x28)
  | .call x => some (x.word 0x29)
  | .jr x => some (x.word 0x2C)
  | .callr x => some (x.word 0x2A)
  | .ret x => some (x.word 0x2B)
  | .ldl x => some (x.word 0x2D)
  | .stl x => some (x.word 0x2E)
  | .ldc x => some (x.word 0x2F)
  | .stc x => some (x.word 0x30)
  | .ldx x => some (x.word 0x31)
  | .stx x => some (x.word 0x32)
  | .fence x => some (x.word 0x33)
  | .csrr x => some (x.word 0x34)
  | .csrw x => some (x.word 0x35)
  | .csrwSet x => some (x.word 0x35)
  | .csrwClr x => some (x.word 0x35)
  | .fpFlagsAccess write x => some (x.word (if write then 0x35 else 0x34))
  | .predsAccess write x => some (x.word (if write then 0x35 else 0x34))
  | .triggerEntryWrite x => some (x.word 0x35)
  | .lbndWrite x => some (x.word 0x35)
  | .bankwaitWrite x => some (x.word 0x35)
  | .rpt x => some (x.word 0x36)
  | .waitAll x => some (x.word 0x37)
  | .waitAny x => some (x.word 0x37)
  | .waitOsp x => some (x.word 0x37)
  | .waitUntil x => some (x.word 0x37)
  | .done x => some (x.word 0x38)
  | .post x => some (x.word 0x39)
  | .trap x => some (x.word 0x3A)
  | .brk x => some (x.word 0x3B)
  | .nop x => some (x.word 0x3C)
  | .tick x => some (x.word 0x3D)
  | .vadd x => some (x.word 0x40)
  | .vsub x => some (x.word 0x41)
  | .vmul x => some (x.word 0x42)
  | .vfma x => some (x.word 0x43)
  | .vfms x => some (x.word 0x44)
  | .vfnma x => some (x.word 0x45)
  | .vmin x => some (x.word 0x46)
  | .vmax x => some (x.word 0x47)
  | .vabs x => some (x.word 0x48)
  | .vneg x => some (x.word 0x49)
  | .vand x => some (x.word 0x4A)
  | .vor x => some (x.word 0x4B)
  | .vxor x => some (x.word 0x4C)
  | .vshl x => some (x.word 0x4D)
  | .vshr x => some (x.word 0x4E)
  | .vsra x => some (x.word 0x4F)
  | .vcmp x => some (x.word 0x50)
  | .vsel x => some (x.word 0x51)
  | .vcvt x => some (x.word 0x52)
  | .vbxpack x => some (x.word 0x53)
  | .vbxunpack x => some (x.word 0x54)
  | .vrcp x => some (x.word 0x55)
  | .vrsqrt x => some (x.word 0x56)
  | .vexp2 x => some (x.word 0x57)
  | .vlog2 x => some (x.word 0x58)
  | .vsqrt x => some (x.word 0x59)
  | .vdiv x => some (x.word 0x5A)
  | .vredsum x => some (x.word 0x5B)
  | .vredmax x => some (x.word 0x5C)
  | .vbcast x => some (x.word 0x5D)
  | .vperm x => some (x.word 0x5E)
  | .vmovs x => some (x.word 0x5F)
  | .vins x => some (x.word 0x60)
  | .vld x => some (x.word 0x61)
  | .vst x => some (x.word 0x62)
  | .vldq x => some (x.word 0x63)
  | .vstq x => some (x.word 0x64)
  | .vplog x => some (x.word 0x65)
  | .vpany x => some (x.word 0x66)
  | .vpall x => some (x.word 0x67)
  | .vpset x => some (x.word 0x68)
  | .vdot4 x => some (x.word 0x69)
  | .vclass x => some (x.word 0x6A)
  | .sopen x => some (x.word 0x70)
  | .sgo x => some (x.word 0x71)
  | .sstop x => some (x.word 0x72)
  | .sstopClose x => some (x.word 0x72)
  | .swait x => some (x.word 0x73)
  | .sstat x => some (x.word 0x74)
  | .sstatCnt x => some (x.word 0x74)
  | .cbinit x => some (x.word 0x75)
  | .cbwait x => some (x.word 0x76)
  | .cbrel x => some (x.word 0x77)
  | .cbput x => some (x.word 0x78)
  | .cbstat x => some (x.word 0x79)
  | .smig x => some (x.word 0x7A)
  | .sinval x => some (x.word 0x7B)
  | .sendw2 x => some (x.word 0x80)
  | .sendm x => some (x.word 0x81)
  | .qflush x => some (x.word 0x82)
  | .qpeek x => some (x.word 0x83)
  | .qstat x => some (x.word 0x84)
  | .qdrop x => some (x.word 0x85)
  | .rtget x => some (x.word 0x86)
  | .rtset x => some (x.word 0x87)
  | .tagset x => some (x.word 0x88)
  | .dmqset x => some (x.word 0x89)
  | .excq x => some (x.word 0x8A)
  | .excqClr x => some (x.word 0x8A)
  | .drain x => some (x.word 0x8B)
  | .drainEnd x => some (x.word 0x8B)
  | .bankpass x => some (x.word 0x8C)
  | .tldb x => some (x.word 0x90)
  | .tldbq x => some (x.word 0x91)
  | .tmac x => some (x.word 0x92)
  | .tmacq x => some (x.word 0x93)
  | .tmacl x => some (x.word 0x94)
  | .tgang x => some (x.word 0x95)
  | .tclr x => some (x.word 0x96)
  | .tadd x => some (x.word 0x97)
  | .tnorm x => some (x.word 0x98)
  | .tnormMax x => some (x.word 0x98)
  | .tmovTt x => some (x.word 0x99)
  | .tmovOut x => some (x.word 0x99)
  | .tmovIn x => some (x.word 0x99)
  | .tsta x => some (x.word 0x9A)
  | .tlda x => some (x.word 0x9B)
  | .tout x => some (x.word 0x9C)
  | .texp x => some (x.word 0x9D)
  | .lgl x => some (x.word 0xA0)
  | .lglq x => some (x.word 0xA1)
  | .lsel x => some (x.word 0xA2)
  | .lselOff x => some (x.word 0xA2)
  | .lrun x => some (x.word 0xA3)
  | .lrunv x => some (x.word 0xA4)
  | .lbound x => some (x.word 0xA5)
  | .lstatSt x => some (x.word 0xA6)
  | .lstatTap x => some (x.word 0xA6)
  | .lstatExp x => some (x.word 0xA6)
  | .lfree x => some (x.word 0xA7)
  | .lfreeAll x => some (x.word 0xA7)
  | .lsum x => some (x.word 0xA8)
  | .barr x => some (x.word 0xB0)
  | .bwait x => some (x.word 0xB1)
  | .barw x => some (x.word 0xB2)
  | .bexcuse x => some (x.word 0xB3)
  | .bgjoin x => some (x.word 0xB4)
  | .bgleave x => some (x.word 0xB5)
  | .cbr x => some (x.word 0xB6)
  | .cbrv x => some (x.word 0xB7)
  | .cbrres x => some (x.word 0xB8)
  | .specstat x => some (x.word 0xB9)
  | .bmask x => some (x.word 0xBA)
  | .tcount x => some (x.word 0xBB)
  | .aadd x => some (x.word 0xC0)
  | .aand x => some (x.word 0xC1)
  | .aor x => some (x.word 0xC2)
  | .axor x => some (x.word 0xC3)
  | .amin x => some (x.word 0xC4)
  | .amax x => some (x.word 0xC5)
  | .aminn x => some (x.word 0xC6)
  | .amaxn x => some (x.word 0xC7)
  | .aswap x => some (x.word 0xC8)
  | .acas x => some (x.word 0xC9)
  | .aincl x => some (x.word 0xCA)
  | .afadd x => some (x.word 0xCB)
  | .afrd x => some (x.word 0xCC)
  | .afclr x => some (x.word 0xCD)
  | .afence x => some (x.word 0xCE)
  | .lkgrp x => some (x.word 0xD0)
  | .lkcollBcast x => some (x.word 0xD1)
  | .lkcollFsum x => some (x.word 0xD1)
  | .lkcollIsum x => some (x.word 0xD1)
  | .lkcollMin x => some (x.word 0xD1)
  | .lkcollMax x => some (x.word 0xD1)
  | .lkcollAnd x => some (x.word 0xD1)
  | .lkcollOr x => some (x.word 0xD1)
  | .lkcollCell x => some (x.word 0xD1)
  | .lkwait x => some (x.word 0xD2)
  | .lkstatSlot x => some (x.word 0xD3)
  | .lkstatPort x => some (x.word 0xD3)
  | .lkseq x => some (x.word 0xD4)
  | .lkseqSet x => some (x.word 0xD4)
  | .trapret x => some (x.word 0xD8)
  | .trapretSkip x => some (x.word 0xD8)
  | .halt x => some (x.word 0xD9)
  | .haltRgn x => some (x.word 0xD9)
  | .feat x => some (x.word 0xDA)
  | .idle x => some (x.word 0xDB)
  | .syscall x => some (x.word 0xDC)
  | .syscallNotify x => some (x.word 0xDC)
  | .syscallStep x => some (x.word 0xDC)
  | .illegalOpcode w => some w
  | .waitTimeout _ => none
  | .triggerFire _ => none
  | .inboxTaskCreate _ => none
  | .storeBufferPerform _ => none
  | .streamItemRead _ _ => none
  | .streamItemWrite _ _ => none
  | .streamEnd _ _ => none
  | .walkRetry _ => none
  | .pageFaultTimeLimit _ => none
  | .engineSleep _ => none
  | .engineWake _ => none
  | .cbEntryFlit _ _ => none
  | .cbCreditArrival _ _ => none
  | .completionTokenArrival _ => none
  | .flitForward _ _ => none
  | .sumRound _ _ => none
  | .sumControlFlit _ _ => none
  | .renormRecord _ _ => none
  | .widthAdapt _ _ => none
  | .inboxAccept _ => none
  | .latticeStreamBlock _ => none
  | .episodeComplete _ => none
  | .treeResultArrival _ _ => none
  | .outcomeArrival _ _ => none
  | .coreRetire _ => none
  | .atomicServe _ => none
  | .detAcasStep _ => none
  | .collectiveHeaderFrame _ _ => none
  | .collectiveDataFrame _ _ => none
  | .collectiveCombine _ => none
  | .collectiveComplete _ => none
  | .collectiveUnreachable _ => none
  | .crownPartialFrame _ _ => none
  | .linkCreditFrame _ _ => none
  | .linkFrameResend _ => none
  | .drainTokenPush _ => none
  | .configStepSwitch _ _ => none
  | .launch _ => none
  | .preempt _ => none
  | .resume _ => none
  | .release _ => none
  | .cancel _ => none
  | .invalidate _ => none
  | .regionPlace _ _ => none
  | .stagingComplete _ => none
  | .commitTokenArrival _ => none
  | .loadAbort _ => none
  | .regionComplete _ => none
  | .coreHalt _ => none
  | .contextSaved _ => none
  | .regionEvict _ => none
  | .completionRecordWrite _ => none
  | .doorbell _ _ => none
  | .wqcfgWrite _ _ => none
  | .cqcfgWrite _ _ => none
  | .cqctlWrite _ _ => none
  | .qstatClear _ _ => none
  | .mgPcapWrite _ => none
  | .mgHdmWrite _ _ => none
  | .mgmtRegisterWrite _ _ => none
  | .fwload => none
  | .svnraise => none
  | .attest => none
  | .retlist => none
  | .retclear => none
  | .partset => none
  | .ready => none
  | .moduleReset _ => none
  | .correctedEccError _ => none
  | .uncorrectableError _ => none
  | .meshLinkCrcRetry _ _ => none
  | .linkPortDown _ _ => none
  | .thermalThrottle _ => none
  | .powerCapThrottle _ => none
  | .thermalTrip _ => none
  | .coolantFlowTrip _ => none
  | .waitUntilCycleReached _ => none
  | .brimLinkDown _ => none

/-- The kinds of a register field (03 R83, and the kinds that 09 R316, 10 R343, 12 R391 and 14 R444 name). zero: a
field the instruction does not read (03 R84). imm: bits that the form uses otherwise. -/
inductive RegKind where
  | zero | imm | scalar | scalarReg | base | vector | vectorReg | vectorOnly | flag | pred | accum | queue | queueOr0
  | latSink
  deriving DecidableEq, Repr

/-- Whether a kind lists a value of its field. scalarReg is Scalar without the queues, vectorReg Vector without them. -/
def RegKind.ok : RegKind → BitVec 5 → Bool
  | .zero, r => r == 0
  | .imm, _ => true
  | .scalar, _ => true
  | .scalarReg, r => r.toNat < 24
  | .base, r => r.toNat < 24
  | .vector, r => r.toNat < 16 || 24 ≤ r.toNat
  | .vectorReg, r => r.toNat < 16
  | .vectorOnly, r => r.toNat < 16
  | .flag, r => r.toNat < 8
  | .pred, r => r.toNat < 8
  | .accum, r => r.toNat < 4
  | .queue, r => 24 ≤ r.toNat
  | .queueOr0, r => r == 0 || 24 ≤ r.toNat
  | .latSink, r => r.toNat < 4 || 24 ≤ r.toNat

/-- Which fields an instruction reads: the kinds of D, A, B, C and the bit ranges of X, high and low. -/
structure Shape where
  d : RegKind
  a : RegKind
  b : RegKind
  c : RegKind
  x : List (Nat × Nat)
  deriving DecidableEq, Repr

/-- The word with ones in the bits high to low. -/
def bitRange (hi lo : Nat) : Word := BitVec.ofNat 64 ((2 ^ (hi + 1 - lo) - 1) * 2 ^ lo)

/-- The fields of a word agree with a shape: the guard is not 0b1000 (03 R82), each register field is of its kind, and
every bit of X outside the fields read is 0 (03 R84). -/
def Shape.ok (s : Shape) (w : Word) : Bool :=
  w.extractLsb' 52 4 != 8 && s.d.ok (w.extractLsb' 47 5) && s.a.ok (w.extractLsb' 42 5) && s.b.ok (w.extractLsb' 37 5)
    && s.c.ok (w.extractLsb' 32 5)
    && (w &&& bitRange 31 0 &&& ~~~ s.x.foldr (fun r m => bitRange r.1 r.2 ||| m) 0) == 0

/-- Scope codes 0-4 are given, and a scope needs AQ or RL (03 R85; 05 R187). -/
def scopeOk (sc : BitVec 3) (aq rl : BitVec 1) : Bool := sc.toNat ≤ 4 && (sc == 0 || aq == 1 || rl == 1)

/-- The addressing fields of form M (03 R90). -/
def amOk (x : FormM) : Bool := x.am != 3 && (x.am == 1 || x.b == 0) && (x.am != 2 || x.a != 0)

/-- Field rules of a scalar load (05 R187). -/
def loadOk (x : FormM) : Bool :=
  amOk x && scopeOk x.sc x.aq x.rl && (x.rl == 0 || x.aq == 1) && (x.sg == 0 || x.sz != 3) && (x.am != 2 || x.d != x.a)

/-- Field rules of a scalar store (05 R187). -/
def storeOk (x : FormM) : Bool := amOk x && scopeOk x.sc x.aq x.rl && x.aq == 0

/-- Field rules of vld and vldq (06 R224, 05 R187). -/
def vloadOk (x : FormM) : Bool :=
  amOk x && scopeOk x.sc x.aq x.rl && (x.rl == 0 || x.aq == 1) && x.sz == 3 && (x.am != 2 || x.d != x.a)

/-- Field rules of vst and vstq (06 R224, 05 R187). -/
def vstoreOk (x : FormM) : Bool := amOk x && scopeOk x.sc x.aq x.rl && x.aq == 0 && x.sz == 3

/-- The floating-point type codes fp16, bf16 and fp32 (03 R85). -/
def fpType (t : BitVec 4) : Bool := t == 6 || t == 7 || t == 8

/-- Field rules of fop (05 R186; 03 R86: RM is 00 when RD is 1). -/
def fopOk (x : FormS3) : Bool := fpType x.ty && (x.rd == 0 || x.rm == 0)

/-- The element width of a type code (06 R197). -/
def etWidth (t : BitVec 4) : Nat :=
  match t.toNat with
  | 0 | 3 => 8
  | 1 | 4 | 6 | 7 => 16
  | _ => 32

/-- ET is one of the listed codes. -/
def etIn (l : List Nat) (x : FormV) : Bool := l.contains x.et.toNat

/-- RM must be 00 when the destination type is not a floating-point type (06 R206). -/
def rmOk (x : FormV) : Bool := x.rm == 0 || fpType x.et

/-- SAT = 1 with a floating-point ET is reserved (06 R206). -/
def satOk (x : FormV) : Bool := x.imm.extractLsb' 18 1 == 0 || !fpType x.et

/-- Shift counts (06 R211): SH is 0 with I = 0, and B is 0 with I = 1. -/
def shiftOk (x : FormV) : Bool :=
  if x.imm.extractLsb' 19 1 == 1 then x.b == 0 else x.imm.extractLsb' 0 6 == 0

/-- Field rules of vcmp (06 R201, R215). -/
def vcmpOk (x : FormV) : Bool :=
  (x.imm.extractLsb' 0 4).toNat ≤ 6 && (x.imm.extractLsb' 0 4 != 6 || fpType x.et)
    && (x.imm.extractLsb' 4 2).toNat < 32 / etWidth x.et && x.qf != 3 && (x.qf != 0 || x.c == 0)

/-- Field rules of vcvt (06 R204, R206, R220). -/
def vcvtOk (x : FormV) : Bool :=
  let st := x.imm.extractLsb' 0 4
  let ns := 256 / etWidth st
  let nd := 256 / etWidth x.et
  st.toNat ≤ 8 && st != x.et && (x.imm.extractLsb' 18 1 == 0 || (!fpType st && !fpType x.et))
    && (x.rm == 0 || fpType x.et || fpType st) && (ns == nd || x.d.toNat < 16)
    && (x.imm.extractLsb' 4 2).toNat < max ns nd / min ns nd

/-- Field rules of vbxpack (06 R221). -/
def vbxpackOk (x : FormV) : Bool :=
  let kf := x.imm.extractLsb' 2 2
  kf != 3 && (kf == 0 || (x.imm.extractLsb' 0 2).toNat ≤ 1) && (x.et == 8 || x.b == 0)

/-- EI is below the element count (06 R219). -/
def eiOk (x : FormV) : Bool :=
  (x.imm.extractLsb' 0 5).toNat < (if x.et == 9 then 2 else 256 / etWidth x.et)

/-- RL = 0 with SC ≠ 0 is reserved in form Q (08 R292). -/
def sendOk (x : FormQ) : Bool := x.sc.toNat ≤ 4 && (x.rl == 1 || x.sc == 0)

/-- The KD and FM combinations of sendw2 (08 R293). -/
def sendFmOk (x : FormQ) : Bool :=
  ((x.kd == 0 && x.fm.toNat ≤ 10) || ((x.kd == 5 || x.kd == 6) && x.fm == 15)) && (x.fm != 0 || x.b == 0)

/-- BF codes, and slots that BX8 has (03 R92). -/
def btOk (x : FormT) : Bool := x.bf == 0 || (x.bf == 2 && x.bt.toNat < 8)

/-- AF codes (03 R85). -/
def afOk (x : FormT) : Bool := x.af != 3

/-- NCOL is 1-32 (09 R317). -/
def ncolOk (x : FormT) : Bool := 1 ≤ x.imm.toNat && x.imm.toNat ≤ 32

/-- CNT is 1-16 (09 R317; 10 R344). -/
def cntOk (imm : BitVec 16) : Bool := 1 ≤ imm.toNat && imm.toNat ≤ 16

/-- SL is 0 or 1 with a BX8 or BX6 format (06 R221; 09 R320). -/
def slOk (x : FormT) : Bool := x.af == 0 || (x.imm.extractLsb' 0 2).toNat ≤ 1

/-- BOTH is 0 with a vector destination (09 R324). -/
def toutOk (x : FormT) : Bool := 24 ≤ x.d.toNat || x.imm.extractLsb' 3 1 == 0

/-- PG + NP + 1 ≤ 8 (03 R93), and an IF code (03 R85). -/
def pagesOk (x : FormL) : Bool := x.pg.toNat + x.np.toNat + 1 ≤ 8 && x.fi != 3

/-- OH is 00 for a tile sink and not 00 for a queue sink (10 R335). -/
def ohOk (x : FormL) : Bool := (x.imm.extractLsb' 8 2 == 0) == (x.d.toNat < 4)

/-- Scope, order and size of a CLU atomic (12 R391; 03 R96). -/
def atomicOk (x : FormA) : Bool := scopeOk x.sc x.aq x.rl && (x.sz == 2 || x.sz == 3)

/-- The formats that each collective accepts, and its wire format (13 R406, R407, R417). -/
def lkcollOk (x : FormK) : Bool :=
  let wf := x.imm.extractLsb' 2 2
  scopeOk x.sc x.aq x.rl
    && (match x.ko.toNat with
        | 0 => [0, 1].contains x.fm.toNat
        | 1 => [3, 10].contains x.fm.toNat
        | 2 | 3 | 4 => [0, 2].contains x.fm.toNat
        | 5 | 6 => [0, 1, 2, 9].contains x.fm.toNat
        | _ => x.fm == 0)
    && (wf == 0 || (wf == 1 && x.ko == 1 && x.fm == 3))

/-- The CFG addresses that 05 R157 and R158 assign. -/
def csrAssigned (n : Nat) : Bool :=
  n ≤ 0x08 || (0x10 ≤ n && n ≤ 0x14) || (0x18 ≤ n && n ≤ 0x1D) || (0x20 ≤ n && n ≤ 0x28) || (0x30 ≤ n && n ≤ 0x35)
    || n == 0x40 || n == 0x41 || (0x100 ≤ n && n ≤ 0x11F) || n == 0x200 || n == 0x210 || n == 0x211 || n == 0x220
    || (0x230 ≤ n && n ≤ 0x232) || (0x238 ≤ n && n ≤ 0x23F) || n == 0x240 || n == 0x250 || n == 0x260

/-- The trigger entry words and TRIG_ORDER (05 R157). -/
def isTriggerCsr (n : Nat) : Bool := (0x100 ≤ n && n < 0x120) || n == 0x40

/-- The CFG addresses whose csrr or csrw has a row of its own in the opcode table. -/
def ownCsrRow (write : Bool) (n : Nat) : Bool :=
  n == 0x11 || n == 0x200 || (write && (isTriggerCsr n || n == 0x231 || n == 0x260))

/-- The opcodes that 03 R99 assigns. -/
def opAssigned (op : Nat) : Bool :=
  (0x01 ≤ op && op ≤ 0x3D) || (0x40 ≤ op && op ≤ 0x6A) || (0x70 ≤ op && op ≤ 0x7B) || (0x80 ≤ op && op ≤ 0x8C)
    || (0x90 ≤ op && op ≤ 0x9D) || (0xA0 ≤ op && op ≤ 0xA8) || (0xB0 ≤ op && op ≤ 0xBB) || (0xC0 ≤ op && op ≤ 0xCE)
    || (0xD0 ≤ op && op ≤ 0xD4) || (0xD8 ≤ op && op ≤ 0xDC)

/-- The fields each instruction reads, from the instruction tables of the owning chapters. -/
def Instr.shape : Instr → Option Shape
  | .add _ => some ⟨.scalar, .scalar, .scalar, .zero, []⟩
  | .sub _ => some ⟨.scalar, .scalar, .scalar, .zero, []⟩
  | .mul _ => some ⟨.scalar, .scalar, .scalar, .zero, []⟩
  | .mulh _ => some ⟨.scalar, .scalar, .scalar, .zero, []⟩
  | .mulhn _ => some ⟨.scalar, .scalar, .scalar, .zero, []⟩
  | .div _ => some ⟨.scalar, .scalar, .scalar, .zero, []⟩
  | .divn _ => some ⟨.scalar, .scalar, .scalar, .zero, []⟩
  | .rem _ => some ⟨.scalar, .scalar, .scalar, .zero, []⟩
  | .remn _ => some ⟨.scalar, .scalar, .scalar, .zero, []⟩
  | .and _ => some ⟨.scalar, .scalar, .scalar, .zero, []⟩
  | .or _ => some ⟨.scalar, .scalar, .scalar, .zero, []⟩
  | .xor _ => some ⟨.scalar, .scalar, .scalar, .zero, []⟩
  | .andn _ => some ⟨.scalar, .scalar, .scalar, .zero, []⟩
  | .sll _ => some ⟨.scalar, .scalar, .scalar, .zero, []⟩
  | .srl _ => some ⟨.scalar, .scalar, .scalar, .zero, []⟩
  | .sra _ => some ⟨.scalar, .scalar, .scalar, .zero, []⟩
  | .rotl _ => some ⟨.scalar, .scalar, .scalar, .zero, []⟩
  | .rotr _ => some ⟨.scalar, .scalar, .scalar, .zero, []⟩
  | .min _ => some ⟨.scalar, .scalar, .scalar, .zero, []⟩
  | .max _ => some ⟨.scalar, .scalar, .scalar, .zero, []⟩
  | .minn _ => some ⟨.scalar, .scalar, .scalar, .zero, []⟩
  | .maxn _ => some ⟨.scalar, .scalar, .scalar, .zero, []⟩
  | .clz _ => some ⟨.scalar, .scalar, .zero, .zero, []⟩
  | .ctz _ => some ⟨.scalar, .scalar, .zero, .zero, []⟩
  | .popc _ => some ⟨.scalar, .scalar, .zero, .zero, []⟩
  | .addi _ => some ⟨.scalar, .scalar, .imm, .imm, [(31, 0)]⟩
  | .andi _ => some ⟨.scalar, .scalar, .imm, .imm, [(31, 0)]⟩
  | .ori _ => some ⟨.scalar, .scalar, .imm, .imm, [(31, 0)]⟩
  | .xori _ => some ⟨.scalar, .scalar, .imm, .imm, [(31, 0)]⟩
  | .slli _ => some ⟨.scalar, .scalar, .imm, .imm, [(31, 0)]⟩
  | .srli _ => some ⟨.scalar, .scalar, .imm, .imm, [(31, 0)]⟩
  | .srai _ => some ⟨.scalar, .scalar, .imm, .imm, [(31, 0)]⟩
  | .li _ => some ⟨.scalar, .imm, .imm, .imm, [(31, 0)]⟩
  | .bext _ => some ⟨.scalar, .scalar, .scalar, .zero, [(31, 26), (15, 0)]⟩
  | .bins _ => some ⟨.scalarReg, .scalar, .scalar, .zero, [(15, 0)]⟩
  | .sel _ => some ⟨.scalar, .scalar, .scalar, .flag, []⟩
  | .cmp _ => some ⟨.scalar, .scalar, .scalar, .zero, [(31, 26), (25, 23)]⟩
  | .cmpi _ => some ⟨.scalar, .scalar, .imm, .imm, [(31, 0)]⟩
  | .fopAdd _ => some ⟨.scalar, .scalar, .scalar, .zero, [(31, 26), (22, 21), (20, 20), (19, 16)]⟩
  | .fopSub _ => some ⟨.scalar, .scalar, .scalar, .zero, [(31, 26), (22, 21), (20, 20), (19, 16)]⟩
  | .fopMul _ => some ⟨.scalar, .scalar, .scalar, .zero, [(31, 26), (22, 21), (20, 20), (19, 16)]⟩
  | .fopFma _ => some ⟨.scalar, .scalar, .scalar, .scalar, [(31, 26), (22, 21), (20, 20), (19, 16)]⟩
  | .fopDiv _ => some ⟨.scalar, .scalar, .scalar, .zero, [(31, 26), (22, 21), (20, 20), (19, 16)]⟩
  | .fopSqrt _ => some ⟨.scalar, .scalar, .zero, .zero, [(31, 26), (22, 21), (20, 20), (19, 16)]⟩
  | .fopMin _ => some ⟨.scalar, .scalar, .scalar, .zero, [(31, 26), (22, 21), (20, 20), (19, 16)]⟩
  | .fopMax _ => some ⟨.scalar, .scalar, .scalar, .zero, [(31, 26), (22, 21), (20, 20), (19, 16)]⟩
  | .fopAbs _ => some ⟨.scalar, .scalar, .zero, .zero, [(31, 26), (22, 21), (20, 20), (19, 16)]⟩
  | .fopNeg _ => some ⟨.scalar, .scalar, .zero, .zero, [(31, 26), (22, 21), (20, 20), (19, 16)]⟩
  | .fopCvt _ => some ⟨.scalar, .scalar, .zero, .zero, [(31, 26), (22, 21), (20, 20), (19, 16), (3, 0)]⟩
  | .fopToi _ => some ⟨.scalar, .scalar, .zero, .zero, [(31, 26), (22, 21), (20, 20), (19, 16)]⟩
  | .fopTon _ => some ⟨.scalar, .scalar, .zero, .zero, [(31, 26), (22, 21), (20, 20), (19, 16)]⟩
  | .fopFromi _ => some ⟨.scalar, .scalar, .zero, .zero, [(31, 26), (22, 21), (20, 20), (19, 16)]⟩
  | .fopFromn _ => some ⟨.scalar, .scalar, .zero, .zero, [(31, 26), (22, 21), (20, 20), (19, 16)]⟩
  | .fopEq _ => some ⟨.scalar, .scalar, .scalar, .zero, [(31, 26), (22, 21), (20, 20), (19, 16), (25, 23)]⟩
  | .fopLt _ => some ⟨.scalar, .scalar, .scalar, .zero, [(31, 26), (22, 21), (20, 20), (19, 16), (25, 23)]⟩
  | .fopLe _ => some ⟨.scalar, .scalar, .scalar, .zero, [(31, 26), (22, 21), (20, 20), (19, 16), (25, 23)]⟩
  | .fopUn _ => some ⟨.scalar, .scalar, .scalar, .zero, [(31, 26), (22, 21), (20, 20), (19, 16), (25, 23)]⟩
  | .jmp _ => some ⟨.zero, .zero, .zero, .zero, [(31, 0)]⟩
  | .call _ => some ⟨.zero, .zero, .zero, .zero, [(31, 0)]⟩
  | .jr _ => some ⟨.zero, .scalar, .zero, .zero, []⟩
  | .callr _ => some ⟨.zero, .scalar, .zero, .zero, []⟩
  | .ret _ => some ⟨.zero, .zero, .zero, .zero, []⟩
  | .ldl _ => some ⟨.scalar, .base, .base, .imm, [(31, 30), (29, 29), (28, 27), (22, 0)]⟩
  | .stl _ => some ⟨.scalar, .base, .base, .imm, [(31, 30), (28, 27), (22, 0)]⟩
  | .ldc _ => some ⟨.scalar, .base, .base, .imm, [(31, 30), (29, 29), (28, 27), (26, 26), (22, 0)]⟩
  | .stc _ => some ⟨.scalar, .base, .base, .imm, [(31, 30), (28, 27), (26, 26), (22, 0)]⟩
  | .ldx _ => some ⟨.scalar, .base, .base, .imm, [(31, 30), (29, 29), (28, 27), (22, 0)]⟩
  | .stx _ => some ⟨.scalar, .base, .base, .imm, [(31, 30), (28, 27), (22, 0)]⟩
  | .fence _ => some ⟨.zero, .zero, .zero, .imm, []⟩
  | .csrr _ => some ⟨.scalar, .zero, .zero, .zero, [(15, 0)]⟩
  | .csrw _ => some ⟨.scalar, .scalar, .zero, .zero, [(31, 26), (15, 0)]⟩
  | .csrwSet _ => some ⟨.scalar, .scalar, .zero, .zero, [(31, 26), (15, 0)]⟩
  | .csrwClr _ => some ⟨.scalar, .scalar, .zero, .zero, [(31, 26), (15, 0)]⟩
  | .fpFlagsAccess true _ => some ⟨.scalar, .scalar, .zero, .zero, [(31, 26), (15, 0)]⟩
  | .fpFlagsAccess false _ => some ⟨.scalar, .zero, .zero, .zero, [(15, 0)]⟩
  | .predsAccess true _ => some ⟨.scalar, .scalar, .zero, .zero, [(31, 26), (15, 0)]⟩
  | .predsAccess false _ => some ⟨.scalar, .zero, .zero, .zero, [(15, 0)]⟩
  | .triggerEntryWrite _ => some ⟨.scalar, .scalar, .zero, .zero, [(31, 26), (15, 0)]⟩
  | .lbndWrite _ => some ⟨.scalar, .scalar, .zero, .zero, [(31, 26), (15, 0)]⟩
  | .bankwaitWrite _ => some ⟨.scalar, .scalar, .zero, .zero, [(31, 26), (15, 0)]⟩
  | .rpt _ => some ⟨.zero, .zero, .imm, .imm, [(31, 0)]⟩
  | .waitAll _ => some ⟨.scalar, .zero, .zero, .zero, [(31, 26), (15, 0)]⟩
  | .waitAny _ => some ⟨.scalar, .zero, .zero, .zero, [(31, 26), (15, 0)]⟩
  | .waitOsp _ => some ⟨.zero, .zero, .zero, .zero, [(31, 26), (15, 0)]⟩
  | .waitUntil _ => some ⟨.scalar, .scalar, .zero, .zero, [(31, 26)]⟩
  | .done _ => some ⟨.zero, .zero, .zero, .zero, []⟩
  | .post _ => some ⟨.zero, .scalar, .scalar, .zero, []⟩
  | .trap _ => some ⟨.zero, .scalar, .zero, .zero, [(15, 0)]⟩
  | .brk _ => some ⟨.zero, .zero, .zero, .zero, [(15, 0)]⟩
  | .nop _ => some ⟨.zero, .zero, .zero, .zero, []⟩
  | .tick _ => some ⟨.scalar, .scalar, .zero, .zero, []⟩
  | .vadd _ => some ⟨.vector, .vector, .vector, .zero, [(31, 29), (28, 28), (25, 24), (23, 20), (18, 18)]⟩
  | .vsub _ => some ⟨.vector, .vector, .vector, .zero, [(31, 29), (28, 28), (25, 24), (23, 20), (18, 18)]⟩
  | .vmul _ => some ⟨.vector, .vector, .vector, .zero, [(31, 29), (28, 28), (25, 24), (23, 20), (18, 18)]⟩
  | .vfma _ => some ⟨.vector, .vector, .vector, .vector, [(31, 29), (28, 28), (25, 24), (23, 20)]⟩
  | .vfms _ => some ⟨.vector, .vector, .vector, .vector, [(31, 29), (28, 28), (25, 24), (23, 20)]⟩
  | .vfnma _ => some ⟨.vector, .vector, .vector, .vector, [(31, 29), (28, 28), (25, 24), (23, 20)]⟩
  | .vmin _ => some ⟨.vector, .vector, .vector, .zero, [(31, 29), (28, 28), (23, 20)]⟩
  | .vmax _ => some ⟨.vector, .vector, .vector, .zero, [(31, 29), (28, 28), (23, 20)]⟩
  | .vabs _ => some ⟨.vector, .vector, .zero, .zero, [(31, 29), (28, 28), (23, 20), (18, 18)]⟩
  | .vneg _ => some ⟨.vector, .vector, .zero, .zero, [(31, 29), (28, 28), (23, 20), (18, 18)]⟩
  | .vand _ => some ⟨.vector, .vector, .vector, .zero, [(31, 29), (28, 28), (23, 20)]⟩
  | .vor _ => some ⟨.vector, .vector, .vector, .zero, [(31, 29), (28, 28), (23, 20)]⟩
  | .vxor _ => some ⟨.vector, .vector, .vector, .zero, [(31, 29), (28, 28), (23, 20)]⟩
  | .vshl _ => some ⟨.vector, .vector, .vector, .zero, [(31, 29), (28, 28), (23, 20), (19, 19), (5, 0)]⟩
  | .vshr _ => some ⟨.vector, .vector, .vector, .zero, [(31, 29), (28, 28), (23, 20), (19, 19), (5, 0)]⟩
  | .vsra _ => some ⟨.vector, .vector, .vector, .zero, [(31, 29), (28, 28), (23, 20), (19, 19), (5, 0)]⟩
  | .vcmp _ => some ⟨.pred, .vector, .vector, .flag, [(31, 29), (28, 28), (27, 26), (23, 20), (5, 4), (3, 0)]⟩
  | .vsel _ => some ⟨.vector, .vector, .vector, .zero, [(31, 29), (28, 28), (23, 20)]⟩
  | .vcvt _ => some ⟨.vector, .vector, .zero, .zero, [(31, 29), (28, 28), (25, 24), (23, 20), (18, 18), (5, 4), (3, 0)]⟩
  | .vbxpack _ => some ⟨.vectorReg, .vector, .vector, .zero, [(23, 20), (3, 2), (1, 0)]⟩
  | .vbxunpack _ => some ⟨.vector, .vector, .zero, .zero, [(31, 29), (28, 28), (25, 24), (23, 20), (4, 4), (1, 0)]⟩
  | .vrcp _ => some ⟨.vector, .vector, .zero, .zero, [(31, 29), (28, 28), (25, 24), (23, 20)]⟩
  | .vrsqrt _ => some ⟨.vector, .vector, .zero, .zero, [(31, 29), (28, 28), (25, 24), (23, 20)]⟩
  | .vexp2 _ => some ⟨.vector, .vector, .zero, .zero, [(31, 29), (28, 28), (25, 24), (23, 20)]⟩
  | .vlog2 _ => some ⟨.vector, .vector, .zero, .zero, [(31, 29), (28, 28), (25, 24), (23, 20)]⟩
  | .vsqrt _ => some ⟨.vector, .vector, .zero, .zero, [(31, 29), (28, 28), (25, 24), (23, 20)]⟩
  | .vdiv _ => some ⟨.vector, .vector, .vector, .zero, [(31, 29), (28, 28), (25, 24), (23, 20)]⟩
  | .vredsum _ => some ⟨.vector, .vector, .zero, .zero, [(31, 29), (28, 28), (25, 24), (23, 20)]⟩
  | .vredmax _ => some ⟨.vector, .vector, .zero, .zero, [(31, 29), (28, 28), (23, 20)]⟩
  | .vbcast _ => some ⟨.vector, .scalar, .zero, .zero, [(31, 29), (28, 28), (23, 20)]⟩
  | .vperm _ => some ⟨.vector, .vector, .vector, .zero, [(31, 29), (28, 28), (23, 20)]⟩
  | .vmovs _ => some ⟨.scalar, .vector, .zero, .zero, [(23, 20), (4, 0)]⟩
  | .vins _ => some ⟨.vectorReg, .scalar, .zero, .zero, [(23, 20), (4, 0)]⟩
  | .vld _ => some ⟨.vector, .base, .base, .imm, [(31, 30), (28, 27), (22, 0)]⟩
  | .vst _ => some ⟨.vector, .base, .base, .imm, [(31, 30), (28, 27), (22, 0)]⟩
  | .vldq _ => some ⟨.vector, .base, .base, .imm, [(31, 30), (28, 27), (22, 0)]⟩
  | .vstq _ => some ⟨.vector, .base, .base, .imm, [(31, 30), (28, 27), (22, 0)]⟩
  | .vplog _ => some ⟨.pred, .pred, .pred, .zero, [(2, 0)]⟩
  | .vpany _ => some ⟨.flag, .pred, .zero, .zero, [(31, 29), (28, 28)]⟩
  | .vpall _ => some ⟨.flag, .pred, .zero, .zero, [(31, 29), (28, 28)]⟩
  | .vpset _ => some ⟨.pred, .scalar, .zero, .zero, [(7, 0)]⟩
  | .vdot4 _ => some ⟨.vector, .vector, .vector, .vector, [(31, 29), (28, 28), (23, 20), (18, 18)]⟩
  | .vclass _ => some ⟨.vector, .vector, .zero, .zero, [(31, 29), (28, 28), (23, 20)]⟩
  | .sopen _ => some ⟨.zero, .base, .zero, .zero, [(2, 0)]⟩
  | .sgo _ => some ⟨.zero, .zero, .zero, .zero, [(2, 0)]⟩
  | .sstop _ => some ⟨.zero, .zero, .zero, .zero, [(31, 26), (2, 0)]⟩
  | .sstopClose _ => some ⟨.zero, .zero, .zero, .zero, [(31, 26), (2, 0)]⟩
  | .swait _ => some ⟨.scalar, .zero, .zero, .zero, [(2, 0)]⟩
  | .sstat _ => some ⟨.scalar, .zero, .zero, .zero, [(31, 26), (2, 0)]⟩
  | .sstatCnt _ => some ⟨.scalar, .zero, .zero, .zero, [(31, 26), (2, 0)]⟩
  | .cbinit _ => some ⟨.zero, .base, .zero, .zero, [(2, 0)]⟩
  | .cbwait _ => some ⟨.scalar, .zero, .zero, .zero, [(2, 0), (15, 4)]⟩
  | .cbrel _ => some ⟨.zero, .zero, .zero, .zero, [(2, 0), (15, 4)]⟩
  | .cbput _ => some ⟨.zero, .vector, .zero, .zero, [(19, 16), (2, 0)]⟩
  | .cbstat _ => some ⟨.scalar, .zero, .zero, .zero, [(2, 0)]⟩
  | .smig _ => some ⟨.scalar, .base, .base, .zero, [(1, 0)]⟩
  | .sinval _ => some ⟨.zero, .base, .base, .zero, []⟩
  | .sendw2 _ => some ⟨.zero, .scalar, .scalar, .scalar, [(31, 25), (24, 22), (21, 21), (20, 18), (14, 11), (6, 0)]⟩
  | .sendm _ => some ⟨.zero, .scalar, .scalar, .zero, [(31, 25), (21, 21), (20, 18)]⟩
  | .qflush _ => some ⟨.scalar, .zero, .zero, .zero, [(17, 15)]⟩
  | .qpeek _ => some ⟨.scalar, .zero, .zero, .zero, [(17, 15), (1, 0)]⟩
  | .qstat _ => some ⟨.scalar, .zero, .zero, .zero, []⟩
  | .qdrop _ => some ⟨.scalar, .zero, .zero, .zero, [(17, 15)]⟩
  | .rtget _ => some ⟨.scalar, .zero, .zero, .zero, [(31, 25)]⟩
  | .rtset _ => some ⟨.zero, .scalar, .zero, .zero, [(31, 25)]⟩
  | .tagset _ => some ⟨.zero, .zero, .zero, .zero, [(31, 25), (17, 15)]⟩
  | .dmqset _ => some ⟨.zero, .zero, .zero, .zero, [(31, 25), (7, 0)]⟩
  | .excq _ => some ⟨.scalar, .zero, .zero, .zero, [(0, 0)]⟩
  | .excqClr _ => some ⟨.scalar, .zero, .zero, .zero, [(0, 0)]⟩
  | .drain _ => some ⟨.scalar, .zero, .zero, .zero, [(31, 25), (21, 21), (20, 18), (17, 15), (0, 0)]⟩
  | .drainEnd _ => some ⟨.scalar, .zero, .zero, .zero, [(31, 25), (21, 21), (20, 18), (17, 15), (0, 0)]⟩
  | .bankpass _ => some ⟨.zero, .zero, .zero, .zero, [(31, 25), (21, 21), (20, 18), (2, 0)]⟩
  | .tldb _ => some ⟨.zero, .base, .zero, .zero, [(29, 26), (23, 22), (5, 0)]⟩
  | .tldbq _ => some ⟨.zero, .queue, .zero, .zero, [(29, 26), (23, 22), (5, 0)]⟩
  | .tmac _ => some ⟨.zero, .vectorOnly, .zero, .zero, [(31, 30), (29, 26), (25, 24), (23, 22), (21, 19), (1, 0)]⟩
  | .tmacq _ => some ⟨.zero, .queueOr0, .zero, .zero, [(31, 30), (29, 26), (25, 24), (23, 22), (21, 19), (4, 0)]⟩
  | .tmacl _ => some ⟨.zero, .base, .zero, .zero, [(31, 30), (29, 26), (25, 24), (23, 22), (21, 19), (4, 0)]⟩
  | .tgang _ => some ⟨.zero, .zero, .zero, .zero, [(21, 19), (2, 0)]⟩
  | .tclr _ => some ⟨.zero, .zero, .zero, .zero, [(31, 30)]⟩
  | .tadd _ => some ⟨.zero, .accum, .zero, .zero, [(31, 30)]⟩
  | .tnorm _ => some ⟨.zero, .scalar, .zero, .zero, [(31, 30), (0, 0)]⟩
  | .tnormMax _ => some ⟨.zero, .zero, .zero, .zero, [(31, 30), (0, 0)]⟩
  | .tmovTt _ => some ⟨.zero, .accum, .zero, .zero, [(31, 30), (3, 0)]⟩
  | .tmovOut _ => some ⟨.queue, .zero, .zero, .zero, [(31, 30), (3, 0)]⟩
  | .tmovIn _ => some ⟨.zero, .queue, .zero, .zero, [(31, 30), (3, 0)]⟩
  | .tsta _ => some ⟨.zero, .base, .zero, .zero, [(31, 30)]⟩
  | .tlda _ => some ⟨.zero, .base, .zero, .zero, [(31, 30)]⟩
  | .tout _ => some ⟨.vector, .zero, .zero, .zero, [(31, 30), (25, 24), (3, 0)]⟩
  | .texp _ => some ⟨.scalar, .zero, .zero, .zero, [(31, 30)]⟩
  | .lgl _ => some ⟨.zero, .base, .zero, .zero, [(31, 29), (28, 27), (26, 25)]⟩
  | .lglq _ => some ⟨.zero, .queue, .zero, .zero, [(31, 29), (28, 27), (26, 25)]⟩
  | .lsel _ => some ⟨.zero, .zero, .zero, .zero, [(31, 29), (15, 15), (9, 8), (6, 0)]⟩
  | .lselOff _ => some ⟨.zero, .zero, .zero, .zero, [(31, 29), (15, 15), (9, 8), (6, 0)]⟩
  | .lrun _ => some ⟨.latSink, .queueOr0, .zero, .zero, [(31, 29), (9, 8), (4, 0)]⟩
  | .lrunv _ => some ⟨.latSink, .vectorOnly, .zero, .zero, [(31, 29), (9, 8), (1, 0)]⟩
  | .lbound _ => some ⟨.zero, .zero, .zero, .zero, [(8, 0)]⟩
  | .lstatSt _ => some ⟨.scalar, .zero, .zero, .zero, [(2, 0)]⟩
  | .lstatTap _ => some ⟨.scalar, .zero, .zero, .zero, [(24, 20), (1, 0)]⟩
  | .lstatExp _ => some ⟨.scalar, .zero, .zero, .zero, [(1, 0)]⟩
  | .lfree _ => some ⟨.zero, .zero, .zero, .zero, [(31, 29), (0, 0)]⟩
  | .lfreeAll _ => some ⟨.zero, .zero, .zero, .zero, [(0, 0)]⟩
  | .lsum _ => some ⟨.scalar, .base, .zero, .zero, [(31, 29)]⟩
  | .barr _ => some ⟨.zero, .zero, .zero, .flag, [(31, 29)]⟩
  | .bwait _ => some ⟨.scalar, .zero, .zero, .zero, [(31, 29)]⟩
  | .barw _ => some ⟨.scalar, .zero, .zero, .flag, [(31, 29)]⟩
  | .bexcuse _ => some ⟨.scalar, .zero, .zero, .zero, [(31, 29)]⟩
  | .bgjoin _ => some ⟨.zero, .zero, .zero, .zero, [(31, 29)]⟩
  | .bgleave _ => some ⟨.zero, .zero, .zero, .zero, [(31, 29)]⟩
  | .cbr _ => some ⟨.zero, .zero, .zero, .flag, [(31, 29), (28, 28), (27, 26), (19, 0)]⟩
  | .cbrv _ => some ⟨.zero, .zero, .zero, .zero, [(31, 29), (28, 28), (27, 26), (25, 23), (22, 22), (21, 20), (19, 0)]⟩
  | .cbrres _ => some ⟨.scalar, .zero, .zero, .zero, [(31, 29)]⟩
  | .specstat _ => some ⟨.scalar, .zero, .zero, .zero, []⟩
  | .bmask _ => some ⟨.scalar, .scalar, .zero, .zero, [(31, 29)]⟩
  | .tcount _ => some ⟨.scalar, .scalar, .zero, .zero, [(31, 29)]⟩
  | .aadd _ => some ⟨.scalarReg, .base, .scalar, .zero, [(31, 29), (28, 28), (27, 27), (26, 26), (25, 24), (21, 0)]⟩
  | .aand _ => some ⟨.scalarReg, .base, .scalar, .zero, [(31, 29), (28, 28), (27, 27), (26, 26), (25, 24), (21, 0)]⟩
  | .aor _ => some ⟨.scalarReg, .base, .scalar, .zero, [(31, 29), (28, 28), (27, 27), (26, 26), (25, 24), (21, 0)]⟩
  | .axor _ => some ⟨.scalarReg, .base, .scalar, .zero, [(31, 29), (28, 28), (27, 27), (26, 26), (25, 24), (21, 0)]⟩
  | .amin _ => some ⟨.scalarReg, .base, .scalar, .zero, [(31, 29), (28, 28), (27, 27), (26, 26), (25, 24), (21, 0)]⟩
  | .amax _ => some ⟨.scalarReg, .base, .scalar, .zero, [(31, 29), (28, 28), (27, 27), (26, 26), (25, 24), (21, 0)]⟩
  | .aminn _ => some ⟨.scalarReg, .base, .scalar, .zero, [(31, 29), (28, 28), (27, 27), (26, 26), (25, 24), (21, 0)]⟩
  | .amaxn _ => some ⟨.scalarReg, .base, .scalar, .zero, [(31, 29), (28, 28), (27, 27), (26, 26), (25, 24), (21, 0)]⟩
  | .aswap _ => some ⟨.scalarReg, .base, .scalar, .zero, [(31, 29), (28, 28), (27, 27), (26, 26), (25, 24), (21, 0)]⟩
  | .acas _ => some ⟨.scalarReg, .base, .scalar, .scalar, [(31, 29), (28, 28), (27, 27), (26, 26), (25, 24), (21, 0)]⟩
  | .aincl _ => some ⟨.scalarReg, .base, .scalar, .zero, [(31, 29), (28, 28), (27, 27), (26, 26), (25, 24), (21, 0)]⟩
  | .afadd _ => some ⟨.zero, .base, .scalar, .zero, [(25, 24), (23, 22), (21, 0)]⟩
  | .afrd _ => some ⟨.scalarReg, .base, .zero, .zero, [(25, 24), (21, 0)]⟩
  | .afclr _ => some ⟨.scalarReg, .base, .zero, .zero, [(25, 24), (21, 0)]⟩
  | .afence _ => some ⟨.zero, .zero, .zero, .zero, [(25, 24)]⟩
  | .lkgrp _ => some ⟨.scalar, .base, .zero, .zero, [(31, 24)]⟩
  | .lkcollBcast _ => some ⟨.zero, .base, .base, .base, [(31, 24), (23, 20), (19, 16), (15, 15), (14, 14), (13, 11), (3, 0)]⟩
  | .lkcollFsum _ => some ⟨.zero, .base, .base, .base, [(31, 24), (23, 20), (19, 16), (15, 15), (14, 14), (13, 11), (3, 0)]⟩
  | .lkcollIsum _ => some ⟨.zero, .base, .base, .base, [(31, 24), (23, 20), (19, 16), (15, 15), (14, 14), (13, 11), (3, 0)]⟩
  | .lkcollMin _ => some ⟨.zero, .base, .base, .base, [(31, 24), (23, 20), (19, 16), (15, 15), (14, 14), (13, 11), (3, 0)]⟩
  | .lkcollMax _ => some ⟨.zero, .base, .base, .base, [(31, 24), (23, 20), (19, 16), (15, 15), (14, 14), (13, 11), (3, 0)]⟩
  | .lkcollAnd _ => some ⟨.zero, .base, .base, .base, [(31, 24), (23, 20), (19, 16), (15, 15), (14, 14), (13, 11), (3, 0)]⟩
  | .lkcollOr _ => some ⟨.zero, .base, .base, .base, [(31, 24), (23, 20), (19, 16), (15, 15), (14, 14), (13, 11), (3, 0)]⟩
  | .lkcollCell _ => some ⟨.zero, .base, .zero, .base, [(31, 24), (23, 20), (19, 16), (15, 15), (14, 14), (13, 11), (3, 0)]⟩
  | .lkwait _ => some ⟨.scalar, .zero, .zero, .zero, [(1, 0)]⟩
  | .lkstatSlot _ => some ⟨.scalar, .zero, .zero, .zero, [(4, 4), (1, 0)]⟩
  | .lkstatPort _ => some ⟨.scalar, .base, .zero, .zero, [(4, 4)]⟩
  | .lkseq _ => some ⟨.scalar, .zero, .zero, .zero, [(31, 24), (0, 0)]⟩
  | .lkseqSet _ => some ⟨.scalar, .base, .zero, .zero, [(31, 24), (0, 0)]⟩
  | .trapret _ => some ⟨.zero, .zero, .zero, .zero, [(0, 0)]⟩
  | .trapretSkip _ => some ⟨.zero, .zero, .zero, .zero, [(0, 0)]⟩
  | .halt _ => some ⟨.zero, .zero, .zero, .zero, [(15, 0)]⟩
  | .haltRgn _ => some ⟨.zero, .zero, .zero, .zero, [(15, 0)]⟩
  | .feat _ => some ⟨.scalarReg, .zero, .zero, .zero, [(15, 0)]⟩
  | .idle _ => some ⟨.zero, .zero, .zero, .zero, []⟩
  | .syscall _ => some ⟨.zero, .scalarReg, .zero, .zero, [(15, 0)]⟩
  | .syscallNotify _ => some ⟨.scalarReg, .scalarReg, .zero, .zero, [(15, 0)]⟩
  | .syscallStep _ => some ⟨.scalarReg, .scalarReg, .zero, .zero, [(15, 0)]⟩
  | .illegalOpcode _ => none
  | .waitTimeout _ => none
  | .triggerFire _ => none
  | .inboxTaskCreate _ => none
  | .storeBufferPerform _ => none
  | .streamItemRead _ _ => none
  | .streamItemWrite _ _ => none
  | .streamEnd _ _ => none
  | .walkRetry _ => none
  | .pageFaultTimeLimit _ => none
  | .engineSleep _ => none
  | .engineWake _ => none
  | .cbEntryFlit _ _ => none
  | .cbCreditArrival _ _ => none
  | .completionTokenArrival _ => none
  | .flitForward _ _ => none
  | .sumRound _ _ => none
  | .sumControlFlit _ _ => none
  | .renormRecord _ _ => none
  | .widthAdapt _ _ => none
  | .inboxAccept _ => none
  | .latticeStreamBlock _ => none
  | .episodeComplete _ => none
  | .treeResultArrival _ _ => none
  | .outcomeArrival _ _ => none
  | .coreRetire _ => none
  | .atomicServe _ => none
  | .detAcasStep _ => none
  | .collectiveHeaderFrame _ _ => none
  | .collectiveDataFrame _ _ => none
  | .collectiveCombine _ => none
  | .collectiveComplete _ => none
  | .collectiveUnreachable _ => none
  | .crownPartialFrame _ _ => none
  | .linkCreditFrame _ _ => none
  | .linkFrameResend _ => none
  | .drainTokenPush _ => none
  | .configStepSwitch _ _ => none
  | .launch _ => none
  | .preempt _ => none
  | .resume _ => none
  | .release _ => none
  | .cancel _ => none
  | .invalidate _ => none
  | .regionPlace _ _ => none
  | .stagingComplete _ => none
  | .commitTokenArrival _ => none
  | .loadAbort _ => none
  | .regionComplete _ => none
  | .coreHalt _ => none
  | .contextSaved _ => none
  | .regionEvict _ => none
  | .completionRecordWrite _ => none
  | .doorbell _ _ => none
  | .wqcfgWrite _ _ => none
  | .cqcfgWrite _ _ => none
  | .cqctlWrite _ _ => none
  | .qstatClear _ _ => none
  | .mgPcapWrite _ => none
  | .mgHdmWrite _ _ => none
  | .mgmtRegisterWrite _ _ => none
  | .fwload => none
  | .svnraise => none
  | .attest => none
  | .retlist => none
  | .retclear => none
  | .partset => none
  | .ready => none
  | .moduleReset _ => none
  | .correctedEccError _ => none
  | .uncorrectableError _ => none
  | .meshLinkCrcRetry _ _ => none
  | .linkPortDown _ _ => none
  | .thermalThrottle _ => none
  | .powerCapThrottle _ => none
  | .thermalTrip _ => none
  | .coolantFlowTrip _ => none
  | .waitUntilCycleReached _ => none
  | .brimLinkDown _ => none

/-- What each instruction demands of its field values beyond its shape, and the ranges of an event's arguments. -/
def Instr.extraOk : Instr → Bool
  | .add _ => true
  | .sub _ => true
  | .mul _ => true
  | .mulh _ => true
  | .mulhn _ => true
  | .div _ => true
  | .divn _ => true
  | .rem _ => true
  | .remn _ => true
  | .and _ => true
  | .or _ => true
  | .xor _ => true
  | .andn _ => true
  | .sll _ => true
  | .srl _ => true
  | .sra _ => true
  | .rotl _ => true
  | .rotr _ => true
  | .min _ => true
  | .max _ => true
  | .minn _ => true
  | .maxn _ => true
  | .clz _ => true
  | .ctz _ => true
  | .popc _ => true
  | .addi _ => true
  | .andi _ => true
  | .ori _ => true
  | .xori _ => true
  | .slli x => x.imm.toNat < 64
  | .srli x => x.imm.toNat < 64
  | .srai x => x.imm.toNat < 64
  | .li _ => true
  | .bext x => (x.sf.toNat ≤ 1 && (x.b == 0 || x.aux == 0))
  | .bins x => (x.b == 0 || x.aux == 0)
  | .sel _ => true
  | .cmp x => x.sf.toNat < 12
  | .cmpi x => x.sf.toNat < 12
  | .fopAdd x => x.sf == 0 && fopOk x
  | .fopSub x => x.sf == 1 && fopOk x
  | .fopMul x => x.sf == 2 && fopOk x
  | .fopFma x => x.sf == 3 && fopOk x
  | .fopDiv x => x.sf == 4 && fopOk x
  | .fopSqrt x => x.sf == 5 && fopOk x
  | .fopMin x => x.sf == 6 && fopOk x
  | .fopMax x => x.sf == 7 && fopOk x
  | .fopAbs x => x.sf == 8 && fopOk x
  | .fopNeg x => x.sf == 9 && fopOk x
  | .fopCvt x => x.sf == 10 && (fopOk x && fpType (x.aux.extractLsb' 0 4))
  | .fopToi x => x.sf == 11 && fopOk x
  | .fopTon x => x.sf == 12 && fopOk x
  | .fopFromi x => x.sf == 13 && fopOk x
  | .fopFromn x => x.sf == 14 && fopOk x
  | .fopEq x => x.sf == 15 && fopOk x
  | .fopLt x => x.sf == 16 && fopOk x
  | .fopLe x => x.sf == 17 && fopOk x
  | .fopUn x => x.sf == 18 && fopOk x
  | .jmp _ => true
  | .call _ => true
  | .jr _ => true
  | .callr _ => true
  | .ret _ => true
  | .ldl x => loadOk x
  | .stl x => storeOk x
  | .ldc x => loadOk x
  | .stc x => storeOk x
  | .ldx x => loadOk x
  | .stx x => storeOk x
  | .fence x => x.sc.toNat ≤ 4
  | .csrr x => csrAssigned x.aux.toNat && !ownCsrRow false x.aux.toNat
  | .csrw x => x.sf == 0 && csrAssigned x.aux.toNat && !ownCsrRow true x.aux.toNat
  | .csrwSet x => x.sf == 1 && csrAssigned x.aux.toNat && !ownCsrRow true x.aux.toNat
  | .csrwClr x => x.sf == 2 && csrAssigned x.aux.toNat && !ownCsrRow true x.aux.toNat
  | .fpFlagsAccess write x => (x.aux == 0x11) && x.sf.toNat ≤ (if write then 2 else 0)
  | .predsAccess write x => (x.aux == 0x200) && x.sf.toNat ≤ (if write then 2 else 0)
  | .triggerEntryWrite x => isTriggerCsr x.aux.toNat && (x.sf.toNat ≤ 2 && isTriggerCsr x.aux.toNat)
  | .lbndWrite x => x.aux == 0x231 && (x.sf.toNat ≤ 2 && x.aux == 0x231)
  | .bankwaitWrite x => x.aux == 0x260 && (x.sf.toNat ≤ 2 && x.aux == 0x260)
  | .rpt x => x.imm.toNat < 2 ^ 37
  | .waitAll x => x.sf == 0 && (0 < x.aux.toNat && x.aux.toNat < 256)
  | .waitAny x => x.sf == 1 && (0 < x.aux.toNat && x.aux.toNat < 256)
  | .waitOsp x => x.sf == 2 && (1 ≤ x.aux.toNat && x.aux.toNat ≤ 8)
  | .waitUntil x => x.sf == 3
  | .done _ => true
  | .post _ => true
  | .trap _ => true
  | .brk _ => true
  | .nop _ => true
  | .tick _ => true
  | .vadd x => (etIn [0,1,2,3,4,5,6,7,8] x && rmOk x && satOk x)
  | .vsub x => (etIn [0,1,2,3,4,5,6,7,8] x && rmOk x && satOk x)
  | .vmul x => (etIn [0,1,2,3,4,5,6,7,8] x && rmOk x && satOk x)
  | .vfma x => etIn [6,7,8] x
  | .vfms x => etIn [6,7,8] x
  | .vfnma x => etIn [6,7,8] x
  | .vmin x => etIn [0,1,2,3,4,5,6,7,8] x
  | .vmax x => etIn [0,1,2,3,4,5,6,7,8] x
  | .vabs x => (etIn [0,1,2,6,7,8] x && satOk x)
  | .vneg x => (etIn [0,1,2,6,7,8] x && satOk x)
  | .vand x => etIn [0,1,2,3,4,5] x
  | .vor x => etIn [0,1,2,3,4,5] x
  | .vxor x => etIn [0,1,2,3,4,5] x
  | .vshl x => (etIn [0,1,2,3,4,5] x && shiftOk x)
  | .vshr x => (etIn [0,1,2,3,4,5] x && shiftOk x)
  | .vsra x => (etIn [0,1,2,3,4,5] x && shiftOk x)
  | .vcmp x => (etIn [0,1,2,3,4,5,6,7,8] x && vcmpOk x)
  | .vsel x => etIn [0,1,2,3,4,5,6,7,8,9] x
  | .vcvt x => (etIn [0,1,2,3,4,5,6,7,8] x && vcvtOk x)
  | .vbxpack x => (etIn [6,7,8] x && vbxpackOk x)
  | .vbxunpack x => (etIn [6,7,8] x && (x.et == 8 || x.imm.extractLsb' 4 1 == 0))
  | .vrcp x => etIn [6,7,8] x
  | .vrsqrt x => etIn [6,7,8] x
  | .vexp2 x => etIn [6,7,8] x
  | .vlog2 x => etIn [6,7,8] x
  | .vsqrt x => etIn [6,7,8] x
  | .vdiv x => etIn [6,7,8] x
  | .vredsum x => (etIn [0,1,2,3,4,5,6,7,8] x && rmOk x)
  | .vredmax x => etIn [0,1,2,3,4,5,6,7,8] x
  | .vbcast x => etIn [0,1,2,3,4,5,6,7,8] x
  | .vperm x => etIn [0,1,2,3,4,5,6,7,8] x
  | .vmovs x => (etIn [0,1,2,3,4,5,6,7,8,9] x && eiOk x)
  | .vins x => (etIn [0,1,2,3,4,5,6,7,8,9] x && eiOk x)
  | .vld x => vloadOk x
  | .vst x => vstoreOk x
  | .vldq x => (vloadOk x && x.am == 1)
  | .vstq x => (vstoreOk x && x.am == 1)
  | .vplog x => (x.imm != 7 || x.b == 0)
  | .vpany _ => true
  | .vpall _ => true
  | .vpset _ => true
  | .vdot4 x => etIn [0,3] x
  | .vclass x => etIn [6,7,8] x
  | .sopen _ => true
  | .sgo _ => true
  | .sstop x => x.sf == 0
  | .sstopClose x => x.sf == 1
  | .swait _ => true
  | .sstat x => x.sf == 0
  | .sstatCnt x => x.sf == 1
  | .cbinit _ => true
  | .cbwait _ => true
  | .cbrel _ => true
  | .cbput x => x.ty.toNat < 9
  | .cbstat _ => true
  | .smig x => x.aux.toNat < 3
  | .sinval _ => true
  | .sendw2 x => (sendOk x && sendFmOk x)
  | .sendm x => sendOk x
  | .qflush _ => true
  | .qpeek x => x.imm.toNat < 3
  | .qstat _ => true
  | .qdrop _ => true
  | .rtget _ => true
  | .rtset x => x.tag.toNat < 112
  | .tagset x => x.tag.toNat < 112
  | .dmqset x => (x.tag.toNat < 112 && x.imm.toNat ≤ 128)
  | .excq x => x.imm.extractLsb' 0 1 == 0
  | .excqClr x => x.imm.extractLsb' 0 1 == 1
  | .drain x => x.imm.extractLsb' 0 1 == 0 && sendOk x
  | .drainEnd x => x.imm.extractLsb' 0 1 == 1 && (sendOk x && x.tag == 0)
  | .bankpass x => (sendOk x && x.rl == 1)
  | .tldb x => (btOk x && ncolOk x)
  | .tldbq x => (btOk x && ncolOk x)
  | .tmac x => (btOk x && afOk x && slOk x)
  | .tmacq x => (btOk x && afOk x && cntOk x.imm)
  | .tmacl x => (btOk x && afOk x && cntOk x.imm)
  | .tgang x => x.imm.toNat ≤ x.gn.toNat
  | .tclr _ => true
  | .tadd _ => true
  | .tnorm x => x.imm.extractLsb' 0 1 == 0
  | .tnormMax x => x.imm.extractLsb' 0 1 == 1
  | .tmovTt x => x.imm.extractLsb' 0 2 == 0
  | .tmovOut x => x.imm.extractLsb' 0 2 == 1
  | .tmovIn x => x.imm.extractLsb' 0 2 == 2
  | .tsta _ => true
  | .tlda _ => true
  | .tout x => (afOk x && slOk x && toutOk x)
  | .texp _ => true
  | .lgl x => pagesOk x
  | .lglq x => pagesOk x
  | .lsel x => x.imm.extractLsb' 15 1 == 0 && (x.imm.extractLsb' 8 2 != 0 && (x.imm.extractLsb' 0 7).toNat < 112)
  | .lselOff x => x.imm.extractLsb' 15 1 == 1 && (x.pg == 0 && x.imm == 0x8000)
  | .lrun x => (cntOk (x.imm &&& 0x1F) && ohOk x)
  | .lrunv x => ohOk x
  | .lbound x => x.imm.extractLsb' 0 8 != 0xFF
  | .lstatSt x => x.imm.extractLsb' 0 2 == 0
  | .lstatTap x => x.imm.extractLsb' 0 2 == 1
  | .lstatExp x => x.imm.extractLsb' 0 2 == 2
  | .lfree x => x.imm.extractLsb' 0 1 == 0
  | .lfreeAll x => x.imm.extractLsb' 0 1 == 1
  | .lsum _ => true
  | .barr _ => true
  | .bwait _ => true
  | .barw _ => true
  | .bexcuse _ => true
  | .bgjoin _ => true
  | .bgleave _ => true
  | .cbr x => x.hn != 3
  | .cbrv x => (x.hn != 3 && (x.qf == 1 || x.qf == 2))
  | .cbrres _ => true
  | .specstat _ => true
  | .bmask _ => true
  | .tcount _ => true
  | .aadd x => atomicOk x
  | .aand x => atomicOk x
  | .aor x => atomicOk x
  | .axor x => atomicOk x
  | .amin x => atomicOk x
  | .amax x => atomicOk x
  | .aminn x => atomicOk x
  | .amaxn x => atomicOk x
  | .aswap x => atomicOk x
  | .acas x => atomicOk x
  | .aincl x => atomicOk x
  | .afadd x => (x.sz == 3 && x.ft.toNat ≤ 1)
  | .afrd x => x.sz == 3
  | .afclr x => x.sz == 3
  | .afence x => x.sz == 3
  | .lkgrp _ => true
  | .lkcollBcast x => x.ko == 0 && lkcollOk x
  | .lkcollFsum x => x.ko == 1 && lkcollOk x
  | .lkcollIsum x => x.ko == 2 && lkcollOk x
  | .lkcollMin x => x.ko == 3 && lkcollOk x
  | .lkcollMax x => x.ko == 4 && lkcollOk x
  | .lkcollAnd x => x.ko == 5 && lkcollOk x
  | .lkcollOr x => x.ko == 6 && lkcollOk x
  | .lkcollCell x => x.ko == 7 && lkcollOk x
  | .lkwait _ => true
  | .lkstatSlot x => x.imm.extractLsb' 4 1 == 0
  | .lkstatPort x => x.imm.extractLsb' 4 1 == 1
  | .lkseq x => x.imm.extractLsb' 0 1 == 0
  | .lkseqSet x => x.imm.extractLsb' 0 1 == 1
  | .trapret x => x.code.extractLsb' 0 1 == 0
  | .trapretSkip x => x.code.extractLsb' 0 1 == 1
  | .halt x => x.code.extractLsb' 15 1 == 0
  | .haltRgn x => x.code.extractLsb' 15 1 == 1
  | .feat x => x.code.toNat ≤ 5
  | .idle _ => true
  | .syscall x => x.code.toNat < 0x8000
  | .syscallNotify x => x.code == 0x8000
  | .syscallStep x => x.code == 0x8001
  | .illegalOpcode w => !opAssigned (w.extractLsb' 56 8).toNat
  | .waitTimeout lid => lid < 1032192
  | .triggerFire lid => lid < 1032192
  | .inboxTaskCreate lid => lid < 1032192
  | .storeBufferPerform lid => lid < 1032192
  | .streamItemRead eng ctx => eng < 48 && ctx < 32
  | .streamItemWrite eng ctx => eng < 48 && ctx < 32
  | .streamEnd eng ctx => eng < 48 && ctx < 32
  | .walkRetry _ => true
  | .pageFaultTimeLimit _ => true
  | .engineSleep eng => eng < 48
  | .engineWake eng => eng < 48
  | .cbEntryFlit lid _ => lid < 1032192
  | .cbCreditArrival lid _ => lid < 1032192
  | .completionTokenArrival lid => lid < 1032192
  | .flitForward lid _ => lid < 1032192
  | .sumRound lid tag => lid < 1032192 && tag < 128
  | .sumControlFlit lid tag => lid < 1032192 && tag < 128
  | .renormRecord lid _ => lid < 1032192
  | .widthAdapt lid _ => lid < 1032192
  | .inboxAccept lid => lid < 1032192
  | .latticeStreamBlock lid => lid < 1032192
  | .episodeComplete _ => true
  | .treeResultArrival lid ch => lid < 1032192 && ch < 8
  | .outcomeArrival lid ch => lid < 1032192 && ch < 8
  | .coreRetire lid => lid < 1032192
  | .atomicServe cl => cl < 16128
  | .detAcasStep cl => cl < 16128
  | .collectiveHeaderFrame port _ => port < 96
  | .collectiveDataFrame port _ => port < 96
  | .collectiveCombine _ => true
  | .collectiveComplete _ => true
  | .collectiveUnreachable _ => true
  | .crownPartialFrame port _ => port < 96
  | .linkCreditFrame port _ => port < 96
  | .linkFrameResend port => port < 96
  | .drainTokenPush _ => true
  | .configStepSwitch _ _ => true
  | .launch q => q < 32768
  | .preempt q => q < 32768
  | .resume q => q < 32768
  | .release q => q < 32768
  | .cancel q => q < 32768
  | .invalidate q => q < 32768
  | .regionPlace _ _ => true
  | .stagingComplete _ => true
  | .commitTokenArrival lid => lid < 1032192
  | .loadAbort lid => lid < 1032192
  | .regionComplete _ => true
  | .coreHalt lid => lid < 1032192
  | .contextSaved _ => true
  | .regionEvict _ => true
  | .completionRecordWrite q => q < 32768
  | .doorbell q _ => q < 32768
  | .wqcfgWrite q _ => q < 32768
  | .cqcfgWrite q _ => q < 32768
  | .cqctlWrite q _ => q < 32768
  | .qstatClear q _ => q < 32768
  | .mgPcapWrite _ => true
  | .mgHdmWrite _ _ => true
  | .mgmtRegisterWrite _ _ => true
  | .fwload => true
  | .svnraise => true
  | .attest => true
  | .retlist => true
  | .retclear => true
  | .partset => true
  | .ready => true
  | .moduleReset _ => true
  | .correctedEccError lid => lid < 1032192
  | .uncorrectableError _ => true
  | .meshLinkCrcRetry lid _ => lid < 1032192
  | .linkPortDown port _ => port < 96
  | .thermalThrottle _ => true
  | .powerCapThrottle _ => true
  | .thermalTrip _ => true
  | .coolantFlowTrip _ => true
  | .waitUntilCycleReached lid => lid < 1032192
  | .brimLinkDown port => port < 96

end Sys2Proof
end

