-- ==== Sys2Proof/WellFormed.lean ====
section
/-! DEFINITION. Which instructions are well formed: the checks of 03 R102 that the word alone decides (RESERVED_FIELD), by the
tables of Machine/Encoding.lean, and the ranges of the arguments of events. -/

namespace Sys2Proof

/-- An instruction no check of 03 R102 refuses; for an event, arguments that name something that exists. -/
def Instr.wellFormed (i : Instr) : Bool :=
  i.extraOk &&
    match i.shape, i.word? with
    | some s, some w => s.ok w
    | _, _ => true

end Sys2Proof
end

