-- ==== Sys2Proof/Decode.lean ====
section
/-! DEFINITION. The decoder, total on any bytes, and the encoder (03 R80-R103). -/

namespace Sys2Proof

/-- Why bytes are no instruction: fewer than 8 of them, or a word that 03 R102 gives RESERVED_FIELD. A word whose OP is
unassigned decodes to Instr.illegalOpcode, the row of the table whose effect is the trap. -/
inductive DecodeError where
  | truncated
  | reservedField
  deriving DecidableEq, Repr

/-- The row of the table that a csrr word is: FP_FLAGS and PREDS have rows of their own. -/
def pickCsrr (w : Word) : Option Instr :=
  let x := FormS3.ofWord w
  if x.aux == 0x11 then some (.fpFlagsAccess false x)
  else if x.aux == 0x200 then some (.predsAccess false x)
  else some (.csrr x)

/-- The row of the table that a csrw word is (05 R189). -/
def pickCsrw (w : Word) : Option Instr :=
  let x := FormS3.ofWord w
  if x.aux == 0x11 then some (.fpFlagsAccess true x)
  else if x.aux == 0x200 then some (.predsAccess true x)
  else if isTriggerCsr x.aux.toNat then some (.triggerEntryWrite x)
  else if x.aux == 0x231 then some (.lbndWrite x)
  else if x.aux == 0x260 then some (.bankwaitWrite x)
  else if x.sf == 0 then some (.csrw x)
  else if x.sf == 1 then some (.csrwSet x)
  else if x.sf == 2 then some (.csrwClr x)
  else none

/-- The floating-point operation that SF selects (05 R186). -/
def pickFop (x : FormS3) : Option Instr :=
  match x.sf.toNat with
  | 0 => some (.fopAdd x)
  | 1 => some (.fopSub x)
  | 2 => some (.fopMul x)
  | 3 => some (.fopFma x)
  | 4 => some (.fopDiv x)
  | 5 => some (.fopSqrt x)
  | 6 => some (.fopMin x)
  | 7 => some (.fopMax x)
  | 8 => some (.fopAbs x)
  | 9 => some (.fopNeg x)
  | 10 => some (.fopCvt x)
  | 11 => some (.fopToi x)
  | 12 => some (.fopTon x)
  | 13 => some (.fopFromi x)
  | 14 => some (.fopFromn x)
  | 15 => some (.fopEq x)
  | 16 => some (.fopLt x)
  | 17 => some (.fopLe x)
  | 18 => some (.fopUn x)
  | _ => none

/-- Row 0x0 of the opcode map (03 R99), by the low digit of OP. -/
def pickRow0 (lo : Nat) (w : Word) : Option Instr :=
  match lo with
  | 0x1 => some (.add (.ofWord w))
  | 0x2 => some (.sub (.ofWord w))
  | 0x3 => some (.addi (.ofWord w))
  | 0x4 => some (.li (.ofWord w))
  | 0x5 => some (.mul (.ofWord w))
  | 0x6 => some (.mulh (.ofWord w))
  | 0x7 => some (.mulhn (.ofWord w))
  | 0x8 => some (.div (.ofWord w))
  | 0x9 => some (.divn (.ofWord w))
  | 0xA => some (.rem (.ofWord w))
  | 0xB => some (.remn (.ofWord w))
  | 0xC => some (.and (.ofWord w))
  | 0xD => some (.or (.ofWord w))
  | 0xE => some (.xor (.ofWord w))
  | 0xF => some (.andn (.ofWord w))
  | _ => none

/-- Row 0x1 of the opcode map (03 R99), by the low digit of OP. -/
def pickRow1 (lo : Nat) (w : Word) : Option Instr :=
  match lo with
  | 0x0 => some (.andi (.ofWord w))
  | 0x1 => some (.ori (.ofWord w))
  | 0x2 => some (.xori (.ofWord w))
  | 0x3 => some (.sll (.ofWord w))
  | 0x4 => some (.srl (.ofWord w))
  | 0x5 => some (.sra (.ofWord w))
  | 0x6 => some (.slli (.ofWord w))
  | 0x7 => some (.srli (.ofWord w))
  | 0x8 => some (.srai (.ofWord w))
  | 0x9 => some (.rotl (.ofWord w))
  | 0xA => some (.rotr (.ofWord w))
  | 0xB => some (.clz (.ofWord w))
  | 0xC => some (.ctz (.ofWord w))
  | 0xD => some (.popc (.ofWord w))
  | 0xE => some (.bext (.ofWord w))
  | 0xF => some (.bins (.ofWord w))
  | _ => none

/-- Row 0x2 of the opcode map (03 R99), by the low digit of OP. -/
def pickRow2 (lo : Nat) (w : Word) : Option Instr :=
  match lo with
  | 0x0 => some (.min (.ofWord w))
  | 0x1 => some (.max (.ofWord w))
  | 0x2 => some (.minn (.ofWord w))
  | 0x3 => some (.maxn (.ofWord w))
  | 0x4 => some (.sel (.ofWord w))
  | 0x5 => some (.cmp (.ofWord w))
  | 0x6 => some (.cmpi (.ofWord w))
  | 0x7 => pickFop (FormS3.ofWord w)
  | 0x8 => some (.jmp (.ofWord w))
  | 0x9 => some (.call (.ofWord w))
  | 0xA => some (.callr (.ofWord w))
  | 0xB => some (.ret (.ofWord w))
  | 0xC => some (.jr (.ofWord w))
  | 0xD => some (.ldl (.ofWord w))
  | 0xE => some (.stl (.ofWord w))
  | 0xF => some (.ldc (.ofWord w))
  | _ => none

/-- Row 0x3 of the opcode map (03 R99), by the low digit of OP. -/
def pickRow3 (lo : Nat) (w : Word) : Option Instr :=
  match lo with
  | 0x0 => some (.stc (.ofWord w))
  | 0x1 => some (.ldx (.ofWord w))
  | 0x2 => some (.stx (.ofWord w))
  | 0x3 => some (.fence (.ofWord w))
  | 0x4 => pickCsrr w
  | 0x5 => pickCsrw w
  | 0x6 => some (.rpt (.ofWord w))
  | 0x7 =>
    let x := FormS3.ofWord w
    if x.sf == 0 then some (.waitAll x)
    else if x.sf == 1 then some (.waitAny x)
    else if x.sf == 2 then some (.waitOsp x)
    else if x.sf == 3 then some (.waitUntil x)
    else none
  | 0x8 => some (.done (.ofWord w))
  | 0x9 => some (.post (.ofWord w))
  | 0xA => some (.trap (.ofWord w))
  | 0xB => some (.brk (.ofWord w))
  | 0xC => some (.nop (.ofWord w))
  | 0xD => some (.tick (.ofWord w))
  | _ => none

/-- Row 0x4 of the opcode map (03 R99), by the low digit of OP. -/
def pickRow4 (lo : Nat) (w : Word) : Option Instr :=
  match lo with
  | 0x0 => some (.vadd (.ofWord w))
  | 0x1 => some (.vsub (.ofWord w))
  | 0x2 => some (.vmul (.ofWord w))
  | 0x3 => some (.vfma (.ofWord w))
  | 0x4 => some (.vfms (.ofWord w))
  | 0x5 => some (.vfnma (.ofWord w))
  | 0x6 => some (.vmin (.ofWord w))
  | 0x7 => some (.vmax (.ofWord w))
  | 0x8 => some (.vabs (.ofWord w))
  | 0x9 => some (.vneg (.ofWord w))
  | 0xA => some (.vand (.ofWord w))
  | 0xB => some (.vor (.ofWord w))
  | 0xC => some (.vxor (.ofWord w))
  | 0xD => some (.vshl (.ofWord w))
  | 0xE => some (.vshr (.ofWord w))
  | 0xF => some (.vsra (.ofWord w))
  | _ => none

/-- Row 0x5 of the opcode map (03 R99), by the low digit of OP. -/
def pickRow5 (lo : Nat) (w : Word) : Option Instr :=
  match lo with
  | 0x0 => some (.vcmp (.ofWord w))
  | 0x1 => some (.vsel (.ofWord w))
  | 0x2 => some (.vcvt (.ofWord w))
  | 0x3 => some (.vbxpack (.ofWord w))
  | 0x4 => some (.vbxunpack (.ofWord w))
  | 0x5 => some (.vrcp (.ofWord w))
  | 0x6 => some (.vrsqrt (.ofWord w))
  | 0x7 => some (.vexp2 (.ofWord w))
  | 0x8 => some (.vlog2 (.ofWord w))
  | 0x9 => some (.vsqrt (.ofWord w))
  | 0xA => some (.vdiv (.ofWord w))
  | 0xB => some (.vredsum (.ofWord w))
  | 0xC => some (.vredmax (.ofWord w))
  | 0xD => some (.vbcast (.ofWord w))
  | 0xE => some (.vperm (.ofWord w))
  | 0xF => some (.vmovs (.ofWord w))
  | _ => none

/-- Row 0x6 of the opcode map (03 R99), by the low digit of OP. -/
def pickRow6 (lo : Nat) (w : Word) : Option Instr :=
  match lo with
  | 0x0 => some (.vins (.ofWord w))
  | 0x1 => some (.vld (.ofWord w))
  | 0x2 => some (.vst (.ofWord w))
  | 0x3 => some (.vldq (.ofWord w))
  | 0x4 => some (.vstq (.ofWord w))
  | 0x5 => some (.vplog (.ofWord w))
  | 0x6 => some (.vpany (.ofWord w))
  | 0x7 => some (.vpall (.ofWord w))
  | 0x8 => some (.vpset (.ofWord w))
  | 0x9 => some (.vdot4 (.ofWord w))
  | 0xA => some (.vclass (.ofWord w))
  | _ => none

/-- Row 0x7 of the opcode map (03 R99), by the low digit of OP. -/
def pickRow7 (lo : Nat) (w : Word) : Option Instr :=
  match lo with
  | 0x0 => some (.sopen (.ofWord w))
  | 0x1 => some (.sgo (.ofWord w))
  | 0x2 =>
    let x := FormS3.ofWord w
    if x.sf == 0 then some (.sstop x)
    else if x.sf == 1 then some (.sstopClose x)
    else none
  | 0x3 => some (.swait (.ofWord w))
  | 0x4 =>
    let x := FormS3.ofWord w
    if x.sf == 0 then some (.sstat x)
    else if x.sf == 1 then some (.sstatCnt x)
    else none
  | 0x5 => some (.cbinit (.ofWord w))
  | 0x6 => some (.cbwait (.ofWord w))
  | 0x7 => some (.cbrel (.ofWord w))
  | 0x8 => some (.cbput (.ofWord w))
  | 0x9 => some (.cbstat (.ofWord w))
  | 0xA => some (.smig (.ofWord w))
  | 0xB => some (.sinval (.ofWord w))
  | _ => none

/-- Row 0x8 of the opcode map (03 R99), by the low digit of OP. -/
def pickRow8 (lo : Nat) (w : Word) : Option Instr :=
  match lo with
  | 0x0 => some (.sendw2 (.ofWord w))
  | 0x1 => some (.sendm (.ofWord w))
  | 0x2 => some (.qflush (.ofWord w))
  | 0x3 => some (.qpeek (.ofWord w))
  | 0x4 => some (.qstat (.ofWord w))
  | 0x5 => some (.qdrop (.ofWord w))
  | 0x6 => some (.rtget (.ofWord w))
  | 0x7 => some (.rtset (.ofWord w))
  | 0x8 => some (.tagset (.ofWord w))
  | 0x9 => some (.dmqset (.ofWord w))
  | 0xA =>
    let x := FormQ.ofWord w
    if x.imm.extractLsb' 0 1 == 0 then some (.excq x)
    else if x.imm.extractLsb' 0 1 == 1 then some (.excqClr x)
    else none
  | 0xB =>
    let x := FormQ.ofWord w
    if x.imm.extractLsb' 0 1 == 0 then some (.drain x)
    else if x.imm.extractLsb' 0 1 == 1 then some (.drainEnd x)
    else none
  | 0xC => some (.bankpass (.ofWord w))
  | _ => none

/-- Row 0x9 of the opcode map (03 R99), by the low digit of OP. -/
def pickRow9 (lo : Nat) (w : Word) : Option Instr :=
  match lo with
  | 0x0 => some (.tldb (.ofWord w))
  | 0x1 => some (.tldbq (.ofWord w))
  | 0x2 => some (.tmac (.ofWord w))
  | 0x3 => some (.tmacq (.ofWord w))
  | 0x4 => some (.tmacl (.ofWord w))
  | 0x5 => some (.tgang (.ofWord w))
  | 0x6 => some (.tclr (.ofWord w))
  | 0x7 => some (.tadd (.ofWord w))
  | 0x8 =>
    let x := FormT.ofWord w
    if x.imm.extractLsb' 0 1 == 0 then some (.tnorm x)
    else if x.imm.extractLsb' 0 1 == 1 then some (.tnormMax x)
    else none
  | 0x9 =>
    let x := FormT.ofWord w
    if x.imm.extractLsb' 0 2 == 0 then some (.tmovTt x)
    else if x.imm.extractLsb' 0 2 == 1 then some (.tmovOut x)
    else if x.imm.extractLsb' 0 2 == 2 then some (.tmovIn x)
    else none
  | 0xA => some (.tsta (.ofWord w))
  | 0xB => some (.tlda (.ofWord w))
  | 0xC => some (.tout (.ofWord w))
  | 0xD => some (.texp (.ofWord w))
  | _ => none

/-- Row 0xA of the opcode map (03 R99), by the low digit of OP. -/
def pickRowA (lo : Nat) (w : Word) : Option Instr :=
  match lo with
  | 0x0 => some (.lgl (.ofWord w))
  | 0x1 => some (.lglq (.ofWord w))
  | 0x2 =>
    let x := FormL.ofWord w
    if x.imm.extractLsb' 15 1 == 0 then some (.lsel x)
    else if x.imm.extractLsb' 15 1 == 1 then some (.lselOff x)
    else none
  | 0x3 => some (.lrun (.ofWord w))
  | 0x4 => some (.lrunv (.ofWord w))
  | 0x5 => some (.lbound (.ofWord w))
  | 0x6 =>
    let x := FormL.ofWord w
    if x.imm.extractLsb' 0 2 == 0 then some (.lstatSt x)
    else if x.imm.extractLsb' 0 2 == 1 then some (.lstatTap x)
    else if x.imm.extractLsb' 0 2 == 2 then some (.lstatExp x)
    else none
  | 0x7 =>
    let x := FormL.ofWord w
    if x.imm.extractLsb' 0 1 == 0 then some (.lfree x)
    else if x.imm.extractLsb' 0 1 == 1 then some (.lfreeAll x)
    else none
  | 0x8 => some (.lsum (.ofWord w))
  | _ => none

/-- Row 0xB of the opcode map (03 R99), by the low digit of OP. -/
def pickRowB (lo : Nat) (w : Word) : Option Instr :=
  match lo with
  | 0x0 => some (.barr (.ofWord w))
  | 0x1 => some (.bwait (.ofWord w))
  | 0x2 => some (.barw (.ofWord w))
  | 0x3 => some (.bexcuse (.ofWord w))
  | 0x4 => some (.bgjoin (.ofWord w))
  | 0x5 => some (.bgleave (.ofWord w))
  | 0x6 => some (.cbr (.ofWord w))
  | 0x7 => some (.cbrv (.ofWord w))
  | 0x8 => some (.cbrres (.ofWord w))
  | 0x9 => some (.specstat (.ofWord w))
  | 0xA => some (.bmask (.ofWord w))
  | 0xB => some (.tcount (.ofWord w))
  | _ => none

/-- Row 0xC of the opcode map (03 R99), by the low digit of OP. -/
def pickRowC (lo : Nat) (w : Word) : Option Instr :=
  match lo with
  | 0x0 => some (.aadd (.ofWord w))
  | 0x1 => some (.aand (.ofWord w))
  | 0x2 => some (.aor (.ofWord w))
  | 0x3 => some (.axor (.ofWord w))
  | 0x4 => some (.amin (.ofWord w))
  | 0x5 => some (.amax (.ofWord w))
  | 0x6 => some (.aminn (.ofWord w))
  | 0x7 => some (.amaxn (.ofWord w))
  | 0x8 => some (.aswap (.ofWord w))
  | 0x9 => some (.acas (.ofWord w))
  | 0xA => some (.aincl (.ofWord w))
  | 0xB => some (.afadd (.ofWord w))
  | 0xC => some (.afrd (.ofWord w))
  | 0xD => some (.afclr (.ofWord w))
  | 0xE => some (.afence (.ofWord w))
  | _ => none

/-- Row 0xD of the opcode map (03 R99), by the low digit of OP. -/
def pickRowD (lo : Nat) (w : Word) : Option Instr :=
  match lo with
  | 0x0 => some (.lkgrp (.ofWord w))
  | 0x1 =>
    let x := FormK.ofWord w
    if x.ko == 0 then some (.lkcollBcast x)
    else if x.ko == 1 then some (.lkcollFsum x)
    else if x.ko == 2 then some (.lkcollIsum x)
    else if x.ko == 3 then some (.lkcollMin x)
    else if x.ko == 4 then some (.lkcollMax x)
    else if x.ko == 5 then some (.lkcollAnd x)
    else if x.ko == 6 then some (.lkcollOr x)
    else if x.ko == 7 then some (.lkcollCell x)
    else none
  | 0x2 => some (.lkwait (.ofWord w))
  | 0x3 =>
    let x := FormK.ofWord w
    if x.imm.extractLsb' 4 1 == 0 then some (.lkstatSlot x)
    else if x.imm.extractLsb' 4 1 == 1 then some (.lkstatPort x)
    else none
  | 0x4 =>
    let x := FormK.ofWord w
    if x.imm.extractLsb' 0 1 == 0 then some (.lkseq x)
    else if x.imm.extractLsb' 0 1 == 1 then some (.lkseqSet x)
    else none
  | 0x8 =>
    let x := FormY.ofWord w
    if x.code.extractLsb' 0 1 == 0 then some (.trapret x)
    else if x.code.extractLsb' 0 1 == 1 then some (.trapretSkip x)
    else none
  | 0x9 =>
    let x := FormY.ofWord w
    if x.code.extractLsb' 15 1 == 0 then some (.halt x)
    else if x.code.extractLsb' 15 1 == 1 then some (.haltRgn x)
    else none
  | 0xA => some (.feat (.ofWord w))
  | 0xB => some (.idle (.ofWord w))
  | 0xC =>
    let x := FormY.ofWord w
    if x.code.toNat < 0x8000 then some (.syscall x)
    else if x.code == 0x8000 then some (.syscallNotify x)
    else if x.code == 0x8001 then some (.syscallStep x)
    else none
  | _ => none

/-- The constructor that OP and the sub-function fields of a word select (03 R99; the tables of the owning chapters). -/
def pickInstr (w : Word) : Option Instr :=
  let lo := (w.extractLsb' 56 4).toNat
  match (w.extractLsb' 60 4).toNat with
  | 0x0 => pickRow0 lo w
  | 0x1 => pickRow1 lo w
  | 0x2 => pickRow2 lo w
  | 0x3 => pickRow3 lo w
  | 0x4 => pickRow4 lo w
  | 0x5 => pickRow5 lo w
  | 0x6 => pickRow6 lo w
  | 0x7 => pickRow7 lo w
  | 0x8 => pickRow8 lo w
  | 0x9 => pickRow9 lo w
  | 0xA => pickRowA lo w
  | 0xB => pickRowB lo w
  | 0xC => pickRowC lo w
  | 0xD => pickRowD lo w
  | _ => none

/-- Decoding one word: ILLEGAL_OPCODE first, then RESERVED_FIELD (03 R103). -/
def decodeWord (w : Word) : Except DecodeError Instr :=
  if opAssigned (w.extractLsb' 56 8).toNat then
    match pickInstr w with
    | some i => if i.wellFormed && i.word? == some w then .ok i else .error .reservedField
    | none => .error .reservedField
  else .ok (.illegalOpcode w)

/-- The word whose bytes are given, the lowest address first (03 R80: little-endian). -/
def wordOfBytes (b : List Byte) : Word :=
  BitVec.ofNat 64 (b.foldr (fun x n => x.toNat + 256 * n) 0)

/-- The bytes of a word in LOC, the lowest address first (03 R80). -/
def bytesOfWord (w : Word) : List Byte := (List.range 8).map fun k => w.extractLsb' (8 * k) 8

/-- Decoding the instruction at the head of a list of bytes, with the bytes after it. -/
def decodeBytes (b : List Byte) : Except DecodeError (Instr × List Byte) :=
  if b.length < 8 then .error .truncated
  else
    match decodeWord (wordOfBytes (b.take 8)) with
    | .ok i => .ok (i, b.drop 8)
    | .error e => .error e

/-- The words of a well-formed instruction: one word for an encoded instruction, none for an event. -/
def encode (i : Instr) : List Word := i.word?.toList

/-- The bytes of a well-formed instruction as LOC holds them. -/
def encodeBytes (i : Instr) : List Byte := (encode i).flatMap bytesOfWord

/-- The instruction the decoder reads from an instruction whose low nbits bits are w, the bits above them zero. -/
def decodeTableWord (nbits w : Nat) : Option Instr :=
  match decodeBytes (bytesOfWord (BitVec.ofNat 64 (w % 2 ^ nbits))) with
  | .ok (i, _) => some i
  | .error _ => none

end Sys2Proof
end

