-- ==== Sys2Proof/Machine/State.lean ====
section
/-! DEFINITION. The state of the machine as plain data: every piece of state the spec gives the module and its cores,
why a step may stop, and the state after reset. Numbers that only count or index are Nat; what software sees as a word
is a bit vector. -/

namespace Sys2Proof.Machine

/-! ## Flits, tasks and the task engine -/

/-- A flit (08 R264): payload, sideband and route tag. -/
structure Flit where
  payload : Quad
  side : BitVec 48
  tag : BitVec 7
  deriving DecidableEq, Repr

/-- A flit that an entry has looked up, with the entry under which it leaves (08 R296). -/
structure Held where
  flit : Flit
  entry : Word
  deriving DecidableEq, Repr

/-- The hold of an output or of a delay queue on an active message whose header it has passed (08 R268): the place that the
header came from, its tag, and the payload flits still to pass. -/
structure Hold where
  place : Nat
  tag : Nat
  left : Nat
  deriving DecidableEq, Repr

/-- A task record of the run queue (05 R161): its entry address, TASK_ID's ORIGIN and the word m0 of a posted task. -/
structure Task where
  entry : BitVec 16
  origin : BitVec 6
  m0 : Word
  deriving DecidableEq, Repr

/-- An active message in an inbox slot (05 R165): bits 63:0 of its header and its six payload words. -/
structure Msg where
  hdr : Word
  words : List Word
  deriving DecidableEq, Repr

/-- A wait in progress (05 R169): the CYCLE of its start and the TRAP_VAL that a timeout would deliver. timed is false
for a stall whose count never ends it (a page-fault stall of 07 R242, a stall on the core's own pipeline). -/
structure Wait where
  start : Nat
  val : Word
  timed : Bool
  deriving DecidableEq, Repr

/-- The repeat buffer while it runs (05 R170-R173): address of body word 0, the rpt word, the words held, the index of
the next body word, the iterations not finished minus 1. -/
structure Rpt where
  body : BitVec 16
  word : Word
  words : List Word
  idx : Nat
  left : Nat
  deriving DecidableEq, Repr

/-- What a trap delivers (05 R177). step is the step of a multi-step instruction (09 R307). -/
structure TrapInfo where
  code : BitVec 8
  val : Word
  sub : BitVec 16
  deriving DecidableEq, Repr

/-- An entry of the store buffer (04 R138): bytes for LOC of core lid, or a CLU atomic whose result nobody reads
(04 R147): opcode, width in bytes, operand and comparand. -/
inductive SbEntry where
  | store (lid addr : Nat) (bytes : List Byte)
  | atomic (op : BitVec 8) (lid addr width : Nat) (b c : Word)
  deriving DecidableEq, Repr

/-- The checkpoint of a collective branch (11 R366). -/
structure Ckpt where
  regs : Table Word
  flags : BitVec 8
  vregs : Table Vec
  vtags : Table (BitVec 72)
  preds : Word
  ras : List (BitVec 16)
  rasSp : BitVec 22
  pc : BitVec 16
  deriving DecidableEq, Repr

/-- A speculation in progress (11 R366-R370). -/
structure Spec where
  ckpt : Ckpt
  ch : Nat
  predicted : Bool
  target : BitVec 16
  fall : BitVec 16
  held : List (Nat × List Byte)
  flags : BitVec 7
  count : Nat
  deferred : Option (TrapInfo × BitVec 16)
  deriving DecidableEq, Repr

/-! ## Router (08) -/

/-- A block in a slot of a SUM entry (08 R278): elements and exponent of a BA40 block, or the four elements of an I32
flit, with the sideband marks that the fold keeps. -/
structure SumBlock where
  isI32 : Bool
  elems : List Int
  exp : Int
  exc : Bool
  rel : Bool
  dend : BitVec 4
  seq : BitVec 16
  bxTec : Option Bool
  special : Bool
  deriving DecidableEq, Repr

/-- What a contributor's slot of a SUM entry holds: the parts of a block still arriving, a whole block with the second
block of a BX4 flit behind it, or a drain or stop flit (08 R278-R280). -/
inductive SumSlot where
  | parts (fs : List Flit)
  | block (b : SumBlock) (more : Option SumBlock)
  | ctl (f : Flit)
  deriving DecidableEq, Repr

/-- The state of a SUM entry (08 R279): slots by CIX, round number q, running block, exponent T, the marks gathered over
the accumulation, its kind, and the flits formed and not yet sent. -/
structure SumState where
  slots : Table SumSlot
  q : Nat
  run : Option SumBlock
  exc : Bool
  rel : Bool
  dend : BitVec 4
  tec : Option Bool
  isI32 : Option Bool
  formed : List Held
  deriving DecidableEq, Repr

/-- A RENORM record of a route entry (08 R282): the target T and the block number Q, where it is there; the count of BA40
blocks passed and of the parts of the next one; the parts gathered of a block that it governs, and the flits formed and not yet
sent; and by how many accumulations the records that have arrived are behind the blocks that have left. -/
structure RenormRec where
  target : Option (Int × Nat)
  blocks : Nat
  part : Nat
  parts : List Held
  formed : List Held
  behind : Int
  deriving DecidableEq, Repr

/-- A width adapter's pending block and the flits it has formed and not yet sent (08 R283). -/
structure Adapter where
  pending : Option Flit
  formed : List Held
  deriving DecidableEq, Repr

/-- The router of a core (08 R267-R285). written lists the tags whose entries the program has written (08 R296). locked holds the outputs by their numbers, and the delay queue of entry t at 8 + t; turn
lists the services that outputs have given, as (output, place), the least recent first (R31). -/
structure Router where
  routes : Table Word
  qtags : Word
  exlog : Word
  ports : Table (List Flit)
  outq : List Flit
  delays : Table (List Held)
  sums : Table SumState
  renorms : Table RenormRec
  adapters : Table Adapter
  asm : List Flit
  inq : Table (List Flit)
  rtsetWait : Option Nat
  written : List Nat
  locked : Table Hold
  turn : List (Nat × Nat)
  deriving DecidableEq, Repr

/-! ## Streams and circular buffers as a core sees them (07) -/

/-- A state of a stream slot (07 R234). -/
inductive SlotState where
  | free | opened | run | paused | ended
  deriving DecidableEq, Repr

/-- A stream slot of a core (07 R234): its state, and the engine and context it is bound to. -/
structure Slot where
  st : SlotState
  eng : Nat
  ctx : Nat
  deriving DecidableEq, Repr

/-- A circular-buffer context of a core (07 R249-R252): its record; FILLED or FREE; head and tail entries; flits already
in the current entry; ERR with the FMT that raised it; EXC. -/
structure CbCtx where
  record : Word
  count : Nat
  head : Nat
  tail : Nat
  pos : Nat
  err : Option (BitVec 4)
  exc : Bool
  deriving DecidableEq, Repr

/-! ## Tensor macro and adder lattice (09, 10) -/

/-- A BA40 block (02 R66): 16 signed elements and an exponent. -/
structure Ba40 where
  elems : List Int
  exp : Int
  deriving DecidableEq, Repr

/-- The tensor macro of a core (09 R300). Element-store bytes and scale words are tables whose unlisted entries are 0;
the accumulator halves are at 2 * tile + half, unlisted ones cleared. join and gangOp hold the gang that a waiting tgang names
(head role, size minus 1) and a waiting gang operation. poison lists poisoned words: 0 to 511 of the element store, 512 to
639 of the scale store, then 11 words for each accumulator half (15 R460; log 19). -/
structure Tensor where
  elems : Table Byte
  scales : Table (BitVec 16)
  accs : Table Ba40
  gangq : List Flit
  gang : BitVec 8
  join : Option (Nat × Nat)
  gangOp : Option Word
  poison : List Nat
  deriving DecidableEq, Repr

/-- The last-run record of a lattice (10 R328): 32 exact tap sums and an exponent. -/
structure LastRun where
  taps : List Int
  exp : Int
  deriving DecidableEq, Repr

/-- The adder lattice of a core (10 R328, R329): rest holds the second half of an lrun block that still has to be pushed,
streamOut the units of a stream block, streamAt the block of the head flit that the stream runs next, loading the words that an lglq has taken; poison lists poisoned cells (15 R460). -/
structure Lattice where
  cells : Table Word
  lgd : Table Word
  budget : BitVec 4
  lbnd : BitVec 9
  lsel : Word
  rcnt : BitVec 16
  scnt : BitVec 16
  last : Option LastRun
  inq : List Flit
  rest : List Flit
  streamOut : List Flit
  streamAt : Nat
  loading : List Word
  poison : List Nat
  deriving DecidableEq, Repr

/-! ## Crown tree (11) -/

/-- The kind of a crown-tree operation (11 R355). -/
inductive TreeKind where
  | barrier | branch (or : Bool) | count
  deriving DecidableEq, Repr

/-- A member of a group: its region and its role id (11 R356). It keeps its place through a save and a resume (01 R27). -/
abbrev Member := Nat × Nat

/-- A member's contribution to an episode (11 R355). -/
structure Contribution where
  who : Member
  bit : Bool
  count : Nat
  kind : TreeKind
  deriving DecidableEq, Repr

/-- What one channel of a core holds (11 R358, R375-R381): the outstanding contribution with the SEQ of its episode and
the PC of its cbr; the latest barrier result not yet taken; the latest branch result; the results that a tcount and a
bexcuse wait for; a MIS result that awaits its trap; a link failure that awaits its trap (13 R411); the SEQ of the episode
that a bexcuse excuses. -/
structure Chan where
  out : Option TreeKind
  seq : BitVec 32
  bpc : BitVec 16
  barrier : Option Word
  branch : Word
  result : Option Word
  excuse : Option Word
  mis : Option (BitVec 32)
  linkFail : Option Word
  one : Option (BitVec 32)
  deriving DecidableEq, Repr

/-- What a module's wafer node sends for an episode of a group that spans modules (13 R411): the AND, the OR, the exact
count, the kind (none when no member contributed), whether the contributions differ in kind or operator, and the GKEY and
SEQ it goes by. -/
structure Partial where
  gkey : BitVec 32
  seq : BitVec 32
  and : Bool
  or : Bool
  count : Nat
  kind : Option TreeKind
  mis : Bool
  deriving DecidableEq, Repr

/-- What comes down the tree to a member: an episode's result word (11 R359), or the failure of a group that spans
modules, with its REASON and the SEQ of the episode (13 R411, R412). -/
inductive TreeMsg where
  | result (w : Word)
  | failed (reason : Nat) (seq : BitVec 32)
  deriving DecidableEq, Repr

/-- A crown-tree group (11 R356-R361), joined over every region that declares its KEY: its job, key and channel; the
link entry of a group that spans modules; the GID of each region; its members; the SEQ of the episode in progress or next
to begin, and whether one is in progress; its contributions and the members excused from it; the members that bexcuse
excuses from the next one; the standing excusals of bgleave, bmask and retirement; results on their way to members. For a
group that spans modules: the partials that have come by rank, whether this module's was sent and is asked back, the ranks that report held, and those that
this module has told that it is held. -/
structure Group where
  job : Nat
  key : Nat
  ch : Nat
  link : Option Nat
  gids : List (Nat × Nat)
  members : List Member
  seq : BitVec 32
  inEp : Bool
  contribs : List Contribution
  excused : List Member
  once : List Member
  left : List Member
  masked : List Member
  retired : List Member
  sending : List (Member × TreeMsg)
  partials : Table Partial
  sent : Bool
  asked : Bool
  held : List Nat
  told : List Nat
  deriving DecidableEq, Repr

/-! ## Link slots of a core (13) -/

/-- A collective slot of a core (13 R418). -/
structure CollSlot where
  st : BitVec 2
  ge : BitVec 8
  seq : BitVec 32
  flags : BitVec 7
  reason : BitVec 4
  deriving DecidableEq, Repr

/-- A completion token on its way to a core (01 R17): of a stream slot or of a collective slot. -/
inductive Token where
  | stream (n : Nat)
  | coll (n : Nat)
  deriving DecidableEq, Repr

/-- A scalar instruction that a trap of a body word found between two of its steps: its PC, the steps that stand, and the answer of an
atomic engine that it had not taken (05 R173). -/
structure Suspended where
  pc : BitVec 16
  progress : Nat
  answer : Option Word
  deriving DecidableEq, Repr

/-- A core (05 R152 and the tables of each engine chapter). opening holds the words that an sopen which waits for a context has
read, and MODE.TEC after them (07 R256). issued and rptIssued say that the instruction that stalls at the scalar port, or at the repeat
buffer, has issued: its guard has been read (03 R82). fetched is the word that the scalar port fetched last; an instruction that has
issued keeps it. -/
structure Core where
  regs : Table Word
  flags : BitVec 8
  pc : BitVec 16
  ras : List (BitVec 16)
  rasSp : BitVec 22
  rasFloor : BitVec 14
  runq : List Task
  inbox : Table Msg
  unbound : List Nat
  trig : Table Word
  trigOrder : Word
  trigBusy : BitVec 16
  lastSource : Option Bool
  rpt : Option Rpt
  rptState : Word
  rptWord : Word
  half : BitVec 8
  mode : BitVec 5
  fpFlags : BitVec 7
  waitLimit : BitVec 40
  prv : Bool
  pprv : Bool
  intrap : Bool
  trapCause : Word
  trapPc : BitVec 16
  trapVal : Word
  trapVec : BitVec 16
  scratch0 : Word
  scratch1 : Word
  coreRx : BitVec 11
  coreRy : BitVec 10
  regionId : BitVec 32
  dcl : BitVec 4
  hwp : BitVec 4
  spillBase : BitVec 14
  spillLim : BitVec 14
  spillOvf : Word
  codeLim : Nat
  dataBase : Nat
  dataLim : Nat
  cbufBase : Nat
  cbufLim : Nat
  wait : Option Wait
  rptWait : Option Wait
  progress : Nat
  rptProgress : Nat
  issued : Bool
  rptIssued : Bool
  fetched : Word
  suspended : Option Suspended
  sb : List SbEntry
  oldWords : Table (List Word)
  loc : List Host.Cell
  locPoison : List Nat
  live : Bool
  halted : Bool
  noTasks : Bool
  exitCode : BitVec 15
  bankWait : BitVec 8
  bgm : Word
  chans : Table Chan
  predictor : BitVec 8
  spec : Option Spec
  specCmt : BitVec 16
  specDis : BitVec 16
  specRun : BitVec 7
  specHeld : BitVec 6
  vregs : Table Vec
  vtags : Table (BitVec 72)
  preds : Word
  router : Router
  slots : Table Slot
  tokens : List Token
  opening : List Word
  cbs : Table CbCtx
  tensor : Tensor
  lattice : Lattice
  answer : Option Word
  colls : Table CollSlot
  eccWindow : Nat
  eccCount : Nat
  degraded : Bool
  deriving DecidableEq, Repr

/-! ## Engines outside the cores -/

/-- A request pending at a cluster atomic engine (12 R385, R386): opcode, LOC of core home at addr with its width, or
the cell number in addr; operands; the FP_FLAGS.EXC and FTZ of the core at issue; how often it was passed over. -/
structure AtomReq where
  op : BitVec 8
  home : Nat
  addr : Nat
  width : Nat
  b : Word
  c : Word
  dNonzero : Bool
  ft : BitVec 2
  exc : Bool
  ftz : Bool
  pass : Nat
  deriving DecidableEq, Repr

/-- The atomic engine of a cluster (12 R383): cells, hot lines as (logical id, line) least recently served first, line
and cell requests by logical id, the plain accesses to hot lines that wait for their turn (op 0 a load, whose PC is in b and whose
place, 1 the repeat buffer, in c; op 1 a store), promotion queues, and for the DET steps each core's count of passed barrier episodes,
whether it arrived at the next, the steps in which it issued an acas, and its held acas with the step each belongs to. -/
structure Cluster where
  cells : Table (BitVec 384)
  hot : List (Nat × Nat)
  lines : Table AtomReq
  plain : Table AtomReq
  cellReqs : Table AtomReq
  linePromo : List Nat
  cellPromo : List Nat
  det : Table Nat
  detUsed : Table Nat
  detHeld : Table AtomReq
  detStep : Table Nat
  deriving DecidableEq, Repr

/-- A window entry of a stream context (07 R231): a run of 4 KiB pages. -/
structure Window where
  pin : Bool
  w : Bool
  va : Nat
  count : Nat
  pa : Nat
  deriving DecidableEq, Repr

/-- A translation stall of a stream or of a scalar access (07 R242): cause, start, the CYCLE of the latest retry, and
whether the drained report was made. -/
structure Stall where
  cause : BitVec 8
  va : Nat
  write : Bool
  start : Nat
  lastTry : Nat
  drained : Bool
  deriving DecidableEq, Repr

/-- A stream context of a brim engine (07 R231-R240): the core and slot that opened it, the job's page table, the
descriptor words, the opener's TEC, items delivered or written, flits taken for the item in progress, windows by entry
number, the round-robin pointer, a stall, the latest cause, EXC and END, and the credits of a DIR 01 stream. -/
structure StreamCtx where
  lid : Nat
  slot : Nat
  region : Nat
  desc : List Word
  tec : Bool
  running : Bool
  closing : Bool
  ended : Bool
  items : Nat
  got : List Flit
  windows : Table Window
  rr : Nat
  stall : Option Stall
  cause : BitVec 8
  exc : Bool
  endCode : BitVec 2
  credits : Nat
  deriving DecidableEq, Repr

/-- A brim engine (07 R225-R246): its link, whether it was trained as two, and the second of the two, contexts, scalar translation store as (job, window) in entry order with its
round-robin pointer, and sleep. -/
structure Brim where
  linkUp : Bool
  split : Bool
  otherUp : Bool
  ctxs : Table StreamCtx
  scalar : Table (Nat × Window)
  srr : Nat
  asleep : Bool
  deriving DecidableEq, Repr

/-- A translation stall of a core's scalar path (07 R242): the core, its stall, and the report made of it. -/
structure ScalarStall where
  lid : Nat
  stall : Stall
  report : List Word
  deriving DecidableEq, Repr

/-- A page in migration (07 R247): the job and the page's address, its new PA, its size, and the bytes copied so far. -/
structure Migration where
  job : Nat
  va : Nat
  npa : Nat
  size : Nat
  copied : Nat
  deriving DecidableEq, Repr

/-- A hop entry of a collective packet (13 R409): the rank it names, OPH (0 forward, 1 combine, 2 deliver, 3 deliver and
forward) and LVL. -/
structure Hop where
  rank : Nat
  oph : Nat
  lvl : Nat
  deriving DecidableEq, Repr

/-- A collective packet's header (13 R409). -/
structure Packet where
  gkey : BitVec 32
  seq : BitVec 32
  chunk : Nat
  src : Nat
  ko : Nat
  fm : Nat
  wf : Nat
  hops : List Hop
  deriving DecidableEq, Repr

/-- A chunk that has arrived, in part or whole: its packet with the hop that this engine performs, its bytes, the EXC and
flags that came with it, whether no more of it will come, and whether it is its sender's last chunk (13 R409). -/
structure Arrival where
  packet : Packet
  hop : Hop
  bytes : List Byte
  exc : Bool
  flags : BitVec 7
  closed : Bool
  final : Bool
  deriving DecidableEq, Repr

/-- A link port (13 R399-R403; 15 R461): whether it is up, whether it trained to a switch, else the rank at the far end; L by rank
as it was measured at training; the number of the next frame received in
order and of the next frame sent, the frames sent and not acknowledged, oldest first, receive buffers to return and
returned, CRC retries since reset and in the present window, the packet whose data frames arrive with the hop performed
here, the packet whose header was sent last, and for whose collective the frames of some numbers were sent. -/
structure LinkPort where
  up : Bool
  switch : Bool
  rank : Nat
  lats : Table Nat
  rxNext : BitVec 8
  txNext : BitVec 8
  unacked : List (BitVec 512)
  owed : BitVec 8
  credits : Nat
  retries : BitVec 32
  window : Nat
  inWindow : Nat
  packet : Option (Packet × Hop)
  lastOut : Option Packet
  sentFor : List (BitVec 8 × Member)
  deriving DecidableEq, Repr

/-- A link context (13 R404): the job that holds it and its group table, word w of entry e at 20 * e + w. -/
structure LinkCtx where
  job : Nat
  words : Table Word
  deriving DecidableEq, Repr

/-- A collective of the module (13 R406-R413): the issuing role and its slot; the entry and SEQ it goes by; KO, FM, WF, the
count; the destination, or the first cell, and whether the source has been read (13 R410); the units that this module holds so
far; how many combines it has made, and the route on which its partial goes on after them (13 R409); what it has sent; whether the units are the result; the flags and EXC; a failure; the CYCLE since which no port reaches a
member. -/
structure Collective where
  who : Member
  slot : Nat
  job : Nat
  ge : Nat
  gkey : BitVec 32
  seq : BitVec 32
  ko : Nat
  fm : Nat
  wf : Nat
  count : Nat
  dst : Nat
  read : Bool
  units : List (List Byte)
  combined : Nat
  route : List Hop
  sentUp : Bool
  ready : Bool
  sentDown : Bool
  flags : BitVec 7
  exc : Bool
  fail : Option (BitVec 4)
  since : Option Nat
  deriving DecidableEq, Repr

/-! ## Regions, jobs, queues, management (14, 15) -/

/-- The states of a region (14 R426). -/
inductive RegionState where
  | empty | loading | staged | live | draining | frozen | saved
  deriving DecidableEq, Repr

/-- How a region ended: STATUS, INFO, ADDR and EXCW of its contribution to the job-end record (14 R422). -/
structure RegionEnd where
  status : BitVec 8
  info : BitVec 32
  addr : Word
  excw : Word
  cfgseq : Nat
  deriving DecidableEq, Repr

/-- A configuration step in progress (14 R437): the token not yet pushed, or pushed. -/
inductive StepState where
  | none | requested | pushed
  deriving DecidableEq, Repr

/-- A group record of an image with its member roles (11 R356, R382). -/
structure GroupRec where
  key : Nat
  gid : Nat
  link : Option Nat
  ch : Nat
  roles : List Nat
  deriving DecidableEq, Repr

/-- Where a flit leaves the fabric: an input queue, the inbox, the gang bus or the lattice input of a role's core, or the engine
of a brim port. -/
inductive Goal where
  | queue (role n : Nat)
  | inbox (role : Nat)
  | gang (role : Nat)
  | lattice (role : Nat)
  | engine (port : Nat)
  deriving DecidableEq, Repr

/-- A destination that a flit still owes (08 R289): the goal, the declared tag it arrives with, and the CIX of each SUM slot
before it, the next one first. -/
structure Owed where
  goal : Goal
  tag : Nat
  slots : List Nat
  deriving DecidableEq, Repr

/-- A flit saved out of a port buffer or delay queue, with what it owes; under is the entry that it was looked up under, where its tag
has another now (08 R296); left counts the payload flits of its message from it
on, where outputs ahead hold for them (08 R268, R289). -/
structure SavedFlit where
  flit : Flit
  owed : List Owed
  under : Option Word
  left : Nat
  deriving DecidableEq, Repr

/-- What a route entry holds beside flits that wait (08 R289). -/
inductive EntryState where
  | sum (s : SumState)
  | adapter (a : Adapter)
  | renorm (r : RenormRec)
  deriving DecidableEq, Repr

/-- The state of an entry saved, with what its flits owe; own is the role and the tag of an entry that the program wrote. -/
structure SavedEntry where
  own : Option (Nat × Nat)
  state : EntryState
  owed : List Owed
  deriving DecidableEq, Repr

/-- A region of a job (14 R426-R443): its leaf, state, rectangle and binding, its groups and the keys of all its images,
the configuration in force, the step, the passages, the fault record, what was saved of it, load attempts, the cores that
the commit token has still to reach, and its ending. laid lists the route entries written for it as (logical id, tag),
transit entries included; idle lists the roles without code. saved holds cores by role once it was evicted; savedStreams
contexts by 8 * role + slot; savedCells the atomic engines by role cluster, with roles for logical ids; savedFlits the flits
that its routers held, those ahead first, and savedEntries the states of its entries (08 R289). gathered holds the fault records of
a freeze that has not reached every core, by role, halts the exit codes of halt.rgn by role, and stopFrom the CYCLE of the first of
them (08 R287; 14 R446). latest is the CYCLE and the place in the order of 14 R427 of the latest event of the region. -/
structure Region where
  id : Nat
  job : Nat
  leaf : Nat
  st : RegionState
  resuming : Bool
  x0 : Nat
  y0 : Nat
  w : Nat
  h : Nat
  part : Nat
  bind : List Nat
  idle : List Nat
  ports : List Nat
  inject : List Inject
  keys : List Nat
  groups : List GroupRec
  laid : List (Nat × Nat)
  cfgseq : Nat
  step : StepState
  passages : List Nat
  fault : Option (List Word)
  saved : Table Core
  savedStreams : Table StreamCtx
  savedCells : Table Cluster
  savedFlits : List SavedFlit
  savedEntries : List SavedEntry
  evicted : Bool
  attempts : Nat
  pending : List Nat
  gathered : List (Nat × List Word)
  halts : List (Nat × Nat)
  stopFrom : Option Word
  latest : Option (Word × Nat)
  done : Option RegionEnd
  deriving DecidableEq, Repr

/-- A node of a job's tree after inheritance (14 R423; 01 R20), in depth-first order; parent is an index. -/
structure Node where
  va : Nat
  parent : Option Nat
  leaf : Bool
  cores : Nat
  brim : Nat
  lpg : Nat
  tch : Nat
  prio : Nat
  fdom : Nat
  pflim : Nat
  fring : Nat
  frn : Nat
  fvec : Nat
  images : List Nat
  deps : List Nat
  saveva : Nat
  arg : Word
  drole : Nat
  dqn : Nat
  deriving DecidableEq, Repr

/-- A resident job (14 R421-R425); linkTab is its link table image (13 R405). -/
structure Job where
  tag : Nat
  queue : Nat
  ptroot : Nat
  linkTab : List Byte
  parts : Nat
  nodes : List Node
  usesLink : Bool
  launch : Nat
  cancelled : Bool
  deriving DecidableEq, Repr

/-- What a completion record waits for in each region it names (14 R422): that the region has left SAVED; that it is EMPTY,
SAVED or FROZEN; that it is EMPTY. -/
inductive RecGoal where
  | leftSaved | quiet | empty
  deriving DecidableEq, Repr

/-- When a completion record may be written (14 R422): at once; once every region still named has reached a goal, froze
being a region that froze meanwhile; as the record of a job that has ended. -/
inductive RecWhen where
  | now
  | goal (g : RecGoal) (regions : List Nat) (froze : Option Nat)
  | jobEnd (job : Nat)
  deriving DecidableEq, Repr

/-- A completion record that waits to be written (14 R422; 15 R454). -/
structure Pending where
  words : List Word
  ready : RecWhen
  deriving DecidableEq, Repr

/-- The registers and records of a host queue (15 R452-R454). -/
structure Queue where
  wqcfg : Word
  cqcfg : Word
  cqctl : Word
  qerr : Bool
  cqtail : BitVec 16
  wqhead : BitVec 16
  tail : BitVec 16
  records : List Pending
  deriving DecidableEq, Repr

/-- The wafer controller's registers and boot state (15 R455-R466). -/
structure Mgmt where
  state : BitVec 4
  ready : Bool
  trip : Bool
  svn : BitVec 8
  runSvn : BitVec 8
  temp : Word
  power : BitVec 32
  pcap : Word
  rank : BitVec 10
  hdm : Table Word
  rankmap : Table (BitVec 96)
  parts : Table (BitVec 16)
  mbCmd : Word
  mbBusy : Bool
  mbResult : BitVec 8
  mbRespLen : Nat
  mbLen : Word
  mbAddr : Word
  mbXlen : Word
  mbReq : Table Byte
  mbRsp : Table Byte
  meas : Table (BitVec 256)
  firmware : List Byte
  stored : Option (List Byte)
  serial : BitVec 128
  waferOn : Bool
  deriving DecidableEq, Repr

/-- An entry of the retirement list (15 R459, R465). -/
inductive Retired where
  | core (lid : Nat)
  | meshLink (lid : Nat) (dir : Dir)
  | linkPort (port : Nat)
  deriving DecidableEq, Repr

/-- What the mapper's output for a region depends on (14 R431): IMGHASH of the leaf's first image and of the image routed, 0 for the
binding alone, the defect map with the retirement list appended (15 R459), and the rectangle. -/
structure MapKey where
  first : Nat
  image : Nat
  deadCores : List (Nat × Nat)
  deadLinks : List (Nat × Dir)
  missing : Table (BitVec 4)
  retired : List Retired
  x0 : Nat
  y0 : Nat
  w : Nat
  h : Nat
  deriving DecidableEq, Repr

/-- One move of the module's scheduler: a core issues, a core's repeat buffer issues, an event of the opcode table
happens, the stop of a region that a fault or halt.rgn began reaches all its cores (08 R287), a link frame without a body for the
machine arrives (13 R400, FTYPE 0 and 5), CYCLE advances, the power manager reads its sensors (15 R462), the host writes eight bytes to
a BAR (15 R451), or the host or another user of the memory devices writes memory, at a device address (log 1, log 2). -/
inductive Move where
  | core (lid : Nat)
  | rpt (lid : Nat)
  | event (i : Instr)
  | stop (region : Nat)
  | frame (port : Nat) (fr : BitVec 512)
  | elapse (n : Nat)
  | sensors (temp : BitVec 48) (watts : BitVec 32)
  | bar (bar off : Nat) (val : BitVec 64)
  | hostWrite (addr : Nat) (bytes : List Byte)
  | extWrite (addr : Nat) (bytes : List Byte)
  deriving DecidableEq, Repr, Inhabited

/-- The whole module. deadCores holds the dead cores of the defect map by physical column and row, dead the logical cores that they
make absent (01 R11). mapped holds what the mapper has given out, none for a rectangle on which it cannot route (14 R431). sched, ticks, cur and inRpt are the model's own (log 1): the moves to come, a counter for free
values, and the core whose instruction executes with the issue port it came from. ext holds the bytes of the memory devices and
extPoison their poisoned words, at device addresses (07 R227); migs holds migrations by the core that runs smig; queueTurn is the
host queue whose turn it is (14 R421). -/
structure State where
  sched : List Move
  ticks : Nat
  cur : Nat
  inRpt : Bool
  cycle : Word
  cores : Table Core
  clusters : Table Cluster
  brims : Table Brim
  ports : Table LinkPort
  ext : List Host.Cell
  extPoison : List Nat
  hostMem : List Host.Cell
  scalarStalls : List ScalarStall
  migs : Table Migration
  tokens : List (Nat × Token)
  linkCtxs : Table LinkCtx
  collectives : Table Collective
  arrivals : List Arrival
  groups : Table Group
  crownIn : List (BitVec 448)
  jobs : List Job
  regions : List Region
  queues : Table Queue
  queueTurn : Nat
  mg : Mgmt
  deadCores : List (Nat × Nat)
  dead : List Nat
  deadLinks : List (Nat × Dir)
  missing : Table (BitVec 4)
  retired : List Retired
  meshRetries : Table (Nat × Nat)
  raised : List Nat
  launches : Nat
  mapped : List (MapKey × Option Placement)
  deriving DecidableEq, Repr

/-- Why a step stops with a fault. -/
inductive Fault where
  /-- Raised by exec on an instruction of a core, or on an event, that names a core, engine, context, port, queue or
  cluster number the module does not have (01, 07 R225, 13 R399). Safe: the machine has no such step. -/
  | noSuchUnit
  deriving DecidableEq, Repr

/-- Why a step has no meaning. -/
inductive Refusal where
  /-- Raised by an arm of exec whose instruction has no meaning yet. Safe: nothing is claimed of it. -/
  | notModelled (mnemonic : String)
  deriving DecidableEq, Repr

/-! ## Reset -/

/-- A router with nothing in it and no valid route; every QTAGS field is 127 (08 R269). -/
def Router.reset : Router :=
  { routes := [], qtags := 0x7F7F7F7F7F7F7F7F, exlog := 0, ports := [], outq := [], delays := [], sums := [],
    renorms := [], adapters := [], asm := [], inq := [], rtsetWait := none, written := [], locked := [], turn := [] }

/-- The tensor macro after reset (09 R300). -/
def Tensor.reset : Tensor :=
  { elems := [], scales := [], accs := [], gangq := [], gang := 0, join := none, gangOp := none, poison := [] }

/-- The adder lattice after reset (10 R328, R329): LBND.BOUND is 254. -/
def Lattice.reset : Lattice :=
  { cells := [], lgd := [], budget := 0, lbnd := 254, lsel := 0, rcnt := 0, scnt := 0, last := none, inq := [],
    rest := [], streamOut := [], streamAt := 0, loading := [], poison := [] }

/-- A core before any region is loaded on it (05 R152, R160; log 5 for what the spec leaves open). -/
def Core.reset : Core :=
  { regs := [], flags := 1, pc := 0, ras := [], rasSp := 8192, rasFloor := 8192, runq := [], inbox := [],
    unbound := [], trig := [], trigOrder := 0xFEDCBA9876543210, trigBusy := 0, lastSource := none, rpt := none,
    rptState := 0, rptWord := 0, half := 0, mode := 0, fpFlags := 0, waitLimit := 0x8000000, prv := false,
    pprv := false, intrap := false, trapCause := 0, trapPc := 0, trapVal := 0, trapVec := 0, scratch0 := 0,
    scratch1 := 0, coreRx := 0, coreRy := 0, regionId := 0, dcl := 0, hwp := 15, spillBase := 8192,
    spillLim := 8192, spillOvf := 0, codeLim := 65536, dataBase := 65536, dataLim := 65536, cbufBase := 65536,
    cbufLim := 65536, wait := none, rptWait := none, progress := 0, rptProgress := 0, issued := false,
    rptIssued := false, fetched := 0, suspended := none, sb := [], oldWords := [],
    loc := [], locPoison := [], live := false, halted := false, noTasks := false, exitCode := 0,
    bankWait := 0, bgm := 0x4040404040404040, chans := [], predictor := 0, spec := none, specCmt := 0, specDis := 0,
    specRun := 0, specHeld := 0, vregs := [], vtags := [], preds := 0xFF, router := Router.reset, slots := [],
    tokens := [], opening := [], cbs := [], tensor := Tensor.reset, lattice := Lattice.reset, answer := none, colls := [],
    eccWindow := 0, eccCount := 0, degraded := false }

/-- A cluster atomic engine after reset (12 R383). -/
def Cluster.reset : Cluster :=
  { cells := [], hot := [], lines := [], plain := [], cellReqs := [], linePromo := [], cellPromo := [], det := [], detUsed := [],
    detHeld := [], detStep := [] }

/-- A brim engine after reset: its link is up and nothing is open. -/
def Brim.reset : Brim :=
  { linkUp := true, split := false, otherUp := true, ctxs := [], scalar := [], srr := 0, asleep := false }

/-- A link port before training (log 5). -/
def LinkPort.reset : LinkPort :=
  { up := false, switch := false, rank := 0, lats := [], rxNext := 0, txNext := 0, unacked := [], owed := 0, credits := 0,
    retries := 0, window := 0, inWindow := 0, packet := none, lastOut := none, sentFor := [] }

/-- A tree channel on which nothing has happened (11 R375). -/
def Chan.reset : Chan :=
  { out := none, seq := 0, bpc := 0, barrier := none, branch := 0, result := none, excuse := none, mis := none,
    linkFail := none, one := none }

/-- A host queue after reset (15 R452). -/
def Queue.reset : Queue :=
  { wqcfg := 0, cqcfg := 0, cqctl := 0, qerr := false, cqtail := 0, wqhead := 0, tail := 0, records := [] }

/-- The wafer controller after reset: boot step 1, MG_PCAP 28,000 (15 R462). -/
def Mgmt.reset : Mgmt :=
  { state := 1, ready := false, trip := false, svn := 0, runSvn := 0, temp := 0, power := 0, pcap := 28000, rank := 0,
    hdm := [], rankmap := [], parts := [], mbCmd := 0, mbBusy := false, mbResult := 0, mbRespLen := 0, mbLen := 0,
    mbAddr := 0, mbXlen := 0, mbReq := [], mbRsp := [], meas := [], firmware := [], stored := none, serial := 0,
    waferOn := true }

/-- The module right after reset: CYCLE 0, no job, every core without a region, memory with nothing listed. -/
def State.reset : State :=
  { sched := [], ticks := 0, cur := 0, inRpt := false, cycle := 0, cores := [], clusters := [], brims := [],
    ports := [], ext := [], extPoison := [], hostMem := [], scalarStalls := [], migs := [], tokens := [],
    linkCtxs := [], collectives := [], arrivals := [], groups := [], crownIn := [], jobs := [], regions := [], queues := [], queueTurn := 0,
    mg := Mgmt.reset,
    deadCores := [], dead := [], deadLinks := [], missing := [], retired := [], meshRetries := [], raised := [], launches := 0, mapped := [] }

end Sys2Proof.Machine
end

