-- ==== Sys2Proof/Machine/Table.lean ====
section
/-! DEFINITION. Tables: sparse data by number, as lists of (key, value) pairs with strictly rising keys. Registers,
memories, routes and the cores themselves are tables. -/

namespace Sys2Proof.Machine

/-- The value a table holds at key k, d where it lists none. -/
def Table.get {α : Type} (d : α) : Table α → Nat → α
  | [], _ => d
  | (k', v') :: t, k => if k = k' then v' else if k < k' then d else Table.get d t k

/-- The entry of a table at key k, if it lists one. -/
def Table.find {α : Type} : Table α → Nat → Option α
  | [], _ => none
  | (k', v') :: t, k => if k = k' then some v' else if k < k' then none else Table.find t k

/-- The table with value v at key k, listed whatever v is. -/
def Table.put {α : Type} (k : Nat) (v : α) : Table α → Table α
  | [] => [(k, v)]
  | (k', v') :: t =>
    if k < k' then (k, v) :: (k', v') :: t
    else if k = k' then (k, v) :: t
    else (k', v') :: Table.put k v t

/-- The table without key k. -/
def Table.erase {α : Type} (k : Nat) : Table α → Table α
  | [] => []
  | (k', v') :: t =>
    if k < k' then (k', v') :: t
    else if k = k' then t.dropWhile (fun e => decide (e.1 ≤ k))
    else (k', v') :: Table.erase k t

/-- The table with value v at key k, in the canonical form that lists no entry equal to the default d. -/
def Table.set {α : Type} [DecidableEq α] (d : α) (k : Nat) (v : α) (t : Table α) : Table α :=
  if v = d then Table.erase k t else Table.put k v t

/-- The keys of a table rise strictly, from above lo on. -/
def Table.rising {α : Type} : Option Nat → Table α → Bool
  | _, [] => true
  | none, (k, _) :: t => Table.rising (some k) t
  | some l, (k, _) :: t => decide (l < k) && Table.rising (some k) t

/-- The canonical form of a table whose unlisted keys read as d. -/
def Table.wf {α : Type} [DecidableEq α] (d : α) (t : Table α) : Bool :=
  Table.rising none t && t.all (fun e => decide (e.2 ≠ d))

end Sys2Proof.Machine
end

