-- ==== Sys2Proof/Machine/Bits.lean ====
section
/-! DEFINITION. Bit fields, byte order, and the accessors of registers, flits and cores that every meaning uses. -/

namespace Sys2Proof.Machine

/-! ## Bits and bytes -/

/-- Bits lo + n - 1 to lo of a word, as a number. -/
def bitsOf {w : Nat} (x : BitVec w) (lo n : Nat) : Nat := x.toNat / 2 ^ lo % 2 ^ n

/-- The word with bits lo + n - 1 to lo replaced by v. -/
def putBits {w : Nat} (x : BitVec w) (lo n v : Nat) : BitVec w :=
  BitVec.ofNat w (x.toNat - x.toNat / 2 ^ lo % 2 ^ n * 2 ^ lo + v % 2 ^ n * 2 ^ lo)

/-- A natural number of n bits read as two's complement. -/
def signed (n v : Nat) : Int := if v % 2 ^ n < 2 ^ (n - 1) then (v % 2 ^ n : Nat) else ((v % 2 ^ n : Nat) : Int) - 2 ^ n

/-- Trunc(v, n) of 00: the low n bits of an integer. -/
def trunc (n : Nat) (v : Int) : BitVec n := BitVec.ofInt n v

/-- Sat(v, lo, hi) of 00. -/
def sat (v lo hi : Int) : Int := if v < lo then lo else if hi < v then hi else v

/-- 1 for true and 0 for false. -/
def bit (b : Bool) : Nat := if b then 1 else 0

/-- The number that little-endian bytes hold. -/
def natOfBytes : List Byte → Nat
  | [] => 0
  | b :: bs => b.toNat + 256 * natOfBytes bs

/-- The n little-endian bytes of a number. -/
def bytesOfNat : Nat → Nat → List Byte
  | 0, _ => []
  | n + 1, v => BitVec.ofNat 8 v :: bytesOfNat n (v / 256)

/-- RNEq(v / 2^k) of 02 R55 and R68: the nearest integer, ties to even, symmetric in sign. -/
def rneNat (v k : Nat) : Nat :=
  let q := v / 2 ^ k
  let r := v % 2 ^ k
  if k = 0 then v
  else if 2 * r < 2 ^ k then q
  else if 2 ^ k < 2 * r then q + 1
  else q + q % 2

/-- RNE(v, k) of 02 R68 on an integer. -/
def rne (v : Int) (k : Nat) : Int := if v < 0 then -(rneNat v.natAbs k : Int) else rneNat v.natAbs k

/-! ## Flits (08 R264) -/

namespace Flit

/-- Format code, bits 47:44. -/
def fmt (f : Flit) : Nat := bitsOf f.side 44 4
/-- Exception bit 43. -/
def exc (f : Flit) : Bool := f.side.getLsbD 43
/-- Dimension-end bits 42:39. -/
def dend (f : Flit) : BitVec 4 := f.side.extractLsb' 39 4
/-- KIND, bits 38:36. -/
def kind (f : Flit) : Nat := bitsOf f.side 36 3
/-- Release bit 35. -/
def rel (f : Flit) : Bool := f.side.getLsbD 35
/-- Contribution index, bits 34:32. -/
def cix (f : Flit) : Nat := bitsOf f.side 32 3
/-- SCALE, bits 31:0. -/
def scale (f : Flit) : BitVec 32 := f.side.extractLsb' 0 32
/-- SEQ of a format other than BX: SCALE bits 31:16. -/
def seq (f : Flit) : Nat := bitsOf f.side 16 16

end Flit

/-- A flit from its fields (08 R264). -/
def mkFlit (fmt kind : Nat) (exc rel : Bool) (dend : BitVec 4) (cix : Nat) (scale : BitVec 32) (tag : BitVec 7)
    (payload : Quad) : Flit :=
  { payload, tag,
    side := BitVec.ofNat 48 (fmt % 16 * 2 ^ 44 + bit exc * 2 ^ 43 + dend.toNat * 2 ^ 39 + kind % 8 * 2 ^ 36
      + bit rel * 2 ^ 35 + cix % 8 * 2 ^ 32 + scale.toNat) }

/-- A flit with EXC where its sender's data is tainted when it is sent (02 R76). -/
def Flit.tainted (f : Flit) (exc : Bool) : Flit := if exc then { f with side := f.side ||| 0x80000000000 } else f

/-! ## Cores -/

/-- How many logical cores there are (00 R5). -/
def coreCount : Nat := 1032192

/-- The logical id of the core at (x, y) (00 R5). -/
def lidOf (x y : Nat) : Nat := y * 1152 + x

/-- A core of the module by logical id. -/
def State.core (s : State) (lid : Nat) : Core := Table.get Core.reset s.cores lid

/-- The module with a core replaced. -/
def State.setCore (s : State) (lid : Nat) (c : Core) : State := { s with cores := Table.put lid c s.cores }

/-- The core whose instruction executes. -/
def State.me (s : State) : Core := s.core s.cur

/-- The module with the executing core replaced. -/
def State.setMe (s : State) (c : Core) : State := s.setCore s.cur c

/-- The cluster of a core: cy * 144 + cx (00 R5). -/
def clusterOf (lid : Nat) : Nat := lid / 1152 / 8 * 144 + lid % 1152 / 8

/-- An atomic engine of the module. -/
def State.cluster (s : State) (cl : Nat) : Cluster := Table.get Cluster.reset s.clusters cl

/-- The module with an atomic engine replaced. -/
def State.setCluster (s : State) (cl : Nat) (e : Cluster) : State := { s with clusters := Table.put cl e s.clusters }

/-- A brim engine of the module. -/
def State.brim (s : State) (p : Nat) : Brim := Table.get Brim.reset s.brims p

/-- The module with a brim engine replaced. -/
def State.setBrim (s : State) (p : Nat) (b : Brim) : State := { s with brims := Table.put p b s.brims }

/-- A link port of the module. -/
def State.port (s : State) (p : Nat) : LinkPort := Table.get LinkPort.reset s.ports p

/-- The module with a link port replaced. -/
def State.setPort (s : State) (p : Nat) (b : LinkPort) : State := { s with ports := Table.put p b s.ports }

/-- A host queue of the module. -/
def State.queue (s : State) (q : Nat) : Queue := Table.get Queue.reset s.queues q

/-- The module with a host queue replaced. -/
def State.setQueue (s : State) (q : Nat) (b : Queue) : State := { s with queues := Table.put q b s.queues }

/-- A scalar register: s0 reads as zero (03 R83). -/
def Core.reg (c : Core) (n : Nat) : Word := if n = 0 then 0 else Table.get 0 c.regs n

/-- A write of a scalar register: a write of s0 is discarded (03 R83). -/
def Core.setReg (c : Core) (n : Nat) (v : Word) : Core := if n = 0 then c else { c with regs := Table.set 0 n v c.regs }

/-- A flag: f0 reads as true (03 R83). -/
def Core.flag (c : Core) (n : Nat) : Bool := n == 0 || c.flags.getLsbD n

/-- A write of a flag: a write of f0 is discarded (05 R155). -/
def Core.setFlag (c : Core) (n : Nat) (v : Bool) : Core :=
  if n = 0 then c else { c with flags := putBits c.flags n 1 (bit v) }

/-- A lane predicate: p0 is all ones (06 R196). -/
def Core.pred (c : Core) (n : Nat) : BitVec 8 := if n = 0 then 0xFF else c.preds.extractLsb' (8 * n) 8

/-- A write of a lane predicate: a write of p0 is discarded (06 R196). -/
def Core.setPred (c : Core) (n : Nat) (v : BitVec 8) : Core :=
  if n = 0 then c else { c with preds := putBits c.preds (8 * n) 8 v.toNat }

/-- A vector register (06 R196). -/
def Core.vreg (c : Core) (n : Nat) : Vec := Table.get 0 c.vregs n

/-- The two half tags of a vector register (06 R197). -/
def Core.vtag (c : Core) (n : Nat) : BitVec 72 := Table.get 0 c.vtags n

/-- A write of a vector register and its half tags. -/
def Core.setVreg (c : Core) (n : Nat) (v : Vec) (t : BitVec 72) : Core :=
  { c with vregs := Table.set 0 n v c.vregs, vtags := Table.set 0 n t c.vtags }

/-- The flits of an input queue, the head first. -/
def Core.queue (c : Core) (n : Nat) : List Flit := Table.get [] c.router.inq n

/-- An input queue replaced. -/
def Core.setQueue (c : Core) (n : Nat) (fs : List Flit) : Core :=
  { c with router := { c.router with inq := Table.set [] n fs c.router.inq } }

/-- A route entry (08 R271). -/
def Core.route (c : Core) (t : Nat) : Word := Table.get 0 c.router.routes t

/-- MODE.DET, MODE.TEC, MODE.FTZ and MODE.RM (05 R160). -/
def Core.det (c : Core) : Bool := c.mode.getLsbD 4
def Core.tec (c : Core) : Bool := c.mode.getLsbD 3
def Core.ftz (c : Core) : Bool := c.mode.getLsbD 2
def Core.rm (c : Core) : BitVec 2 := c.mode.extractLsb' 0 2

/-- FP_FLAGS.EXC (02 R75). -/
def Core.exc (c : Core) : Bool := c.fpFlags.getLsbD 6

/-- What FP_FLAGS reads as: the register with the flags held for a speculative path (02 R78). -/
def Core.fpFlagsRead (c : Core) : BitVec 7 :=
  match c.spec with
  | some sp => c.fpFlags ||| sp.flags
  | none => c.fpFlags

/-- The task that runs: the head of the run queue (05 R164). -/
def Core.task (c : Core) : Option Task := c.runq.head?

/-- The word of MEMORY at a byte address, from n little-endian cells. -/
def cellsAt (m : List Host.Cell) (a : Nat) : Nat → List Byte
  | 0 => []
  | n + 1 => Table.get 0 m a :: cellsAt m (a + 1) n

/-- Memory with bytes written from address a upward; in canonical form, a byte that is 0 is not listed. -/
def writeCells (m : List Host.Cell) (a : Nat) : List Byte → List Host.Cell
  | [] => m
  | b :: bs => writeCells (Table.set 0 a b m) (a + 1) bs

/-- The memory that holds some bytes from address 0 up. -/
def memoryOf (bytes : List Byte) : List Host.Cell := (bytes.zipIdx.map fun (b, a) => (a, b)).filter (·.2 != 0)

/-- The canonical form of a memory: addresses strictly rising, no listed byte equal to 0, what an unlisted byte reads. -/
def Memory.wf (m : List Host.Cell) : Bool := Table.wf (0 : Byte) m

end Sys2Proof.Machine
end

