-- ==== Sys2Proof/Machine/Float.lean ====
section
/-! DEFINITION. IEEE formats: decoding, exact operations with one rounding, conversions and the lane functions (02 R41-R49;
06 R212). A number is kept exactly as a sign, a natural significand and an exponent; an irrational result is kept as a
lower bound of its magnitude with a mark that something more follows. -/

namespace Sys2Proof.Machine

/-- An IEEE format by its exponent and fraction bits (02 R41). -/
structure FpFormat where
  ebits : Nat
  frac : Nat
  deriving DecidableEq, Repr

def fp32 : FpFormat := ⟨8, 23⟩
def fp16 : FpFormat := ⟨5, 10⟩
def bf16 : FpFormat := ⟨8, 7⟩

/-- The format of an element-type code 6 to 8 (03 R85). -/
def fpOf (ty : Nat) : FpFormat := if ty = 6 then fp16 else if ty = 7 then bf16 else fp32

namespace FpFormat

/-- The exponent bias. -/
def bias (f : FpFormat) : Int := 2 ^ (f.ebits - 1) - 1
/-- The exponent of the last place of a subnormal. -/
def qmin (f : FpFormat) : Int := 1 - f.bias - f.frac
/-- The exponent of the largest finite value's leading bit. -/
def emax (f : FpFormat) : Int := f.bias
/-- The exponent field of an infinity. -/
def top (f : FpFormat) : Nat := 2 ^ f.ebits - 1
/-- The width in bits. -/
def width (f : FpFormat) : Nat := 1 + f.ebits + f.frac
/-- A code from a sign and the bits below it. -/
def code (f : FpFormat) (neg : Bool) (low : Nat) : Nat := bit neg * 2 ^ (f.ebits + f.frac) + low
/-- The canonical NaN (02 R41, R45). -/
def nan (f : FpFormat) : Nat := f.top * 2 ^ f.frac + 2 ^ (f.frac - 1)
/-- An infinity. -/
def inf (f : FpFormat) (neg : Bool) : Nat := f.code neg (f.top * 2 ^ f.frac)
/-- The largest finite value of a sign. -/
def big (f : FpFormat) (neg : Bool) : Nat := f.code neg (f.top * 2 ^ f.frac - 1)

end FpFormat

/-- The value of an operand: a NaN, quiet or signalling; an infinity; or exactly (−1)^neg × m × 2^e. -/
inductive FpVal where
  | nan (signalling : Bool)
  | inf (neg : Bool)
  | fin (neg : Bool) (m : Nat) (e : Int)
  deriving DecidableEq, Repr

/-- A code read as a value; under FTZ a subnormal reads as zero of its sign (02 R44). -/
def fpDecode (f : FpFormat) (ftz : Bool) (v : Nat) : FpVal :=
  let fr := v % 2 ^ f.frac
  let ex := v / 2 ^ f.frac % 2 ^ f.ebits
  let neg := decide (v / 2 ^ (f.ebits + f.frac) % 2 = 1)
  if ex = f.top then
    if fr = 0 then .inf neg else .nan (decide (fr < 2 ^ (f.frac - 1)))
  else if ex = 0 then .fin neg (if ftz then 0 else fr) f.qmin
  else .fin neg (fr + 2 ^ f.frac) (f.qmin + ex - 1)

/-- A result code with the flags it raises. -/
abbrev FpRes := Nat × BitVec 7

def fNX : BitVec 7 := 1
def fUF : BitVec 7 := 2
def fOF : BitVec 7 := 4
def fDZ : BitVec 7 := 8
def fNV : BitVec 7 := 16
def fSA : BitVec 7 := 32

/-- The canonical NaN with NV. -/
def fpInvalid (f : FpFormat) : FpRes := (f.nan, fNV)

/-- The canonical NaN for NaN operands, with NV when one is signalling (02 R45). -/
def fpNan (f : FpFormat) (signalling : Bool) : FpRes := (f.nan, if signalling then fNV else 0)

/-- Whether a magnitude q + r / 2 (q the integer part, cmp the comparison of the rest with one half, 0 for no rest) rounds
up in a mode (02 R42): 0 RNE, 1 toward zero, 2 toward −∞, 3 toward +∞. -/
def roundsUp (rm : BitVec 2) (neg : Bool) (q : Nat) (half : Ordering) (exact : Bool) : Bool :=
  if exact then false
  else if rm = 0 then half == .gt || (half == .eq && q % 2 == 1)
  else if rm = 1 then false
  else if rm = 2 then neg
  else !neg

/-- m × 2^e, and more below its last place when sticky, as a multiple of 2^q: the multiple and whether it is inexact. -/
def roundMag (rm : BitVec 2) (neg sticky : Bool) (m : Nat) (e q : Int) : Nat × Bool :=
  if q ≤ e then (m * 2 ^ (e - q).toNat, sticky)
  else
    let k := (q - e).toNat
    let lo := m % 2 ^ k
    let hi := m / 2 ^ k
    let exact := lo == 0 && !sticky
    let half := compare (4 * lo + bit sticky) (2 * 2 ^ k)
    (if roundsUp rm neg hi half exact then hi + 1 else hi, !exact)

/-- A nonzero exact or sticky value rounded once into a format (02 R43, R44, R46): tininess after rounding, overflow on
the value rounded with an unbounded exponent. -/
def fpRound (f : FpFormat) (rm : BitVec 2) (ftz neg sticky : Bool) (m : Nat) (e : Int) : FpRes :=
  if m = 0 ∧ sticky = false then (f.code neg 0, 0)
  else
    let far := decide (e + Nat.log2 m < f.qmin - 2)
    let m' := if far then 1 else m
    let e' := if far then f.qmin - 3 else e
    let st := far || sticky
    let lead := e' + Nat.log2 m'
    let (m1, _) := roundMag rm neg st m' e' (lead - f.frac)
    let lead1 := if m1 = 2 ^ (f.frac + 1) then lead + 1 else lead
    let tiny := decide (lead1 < 1 - f.bias)
    if f.emax < lead1 then
      (if rm = 0 ∨ (rm = 2 ∧ neg = true) ∨ (rm = 3 ∧ neg = false) then f.inf neg else f.big neg, fOF ||| fNX)
    else if tiny && ftz then (f.code neg 0, fUF ||| fNX)
    else
      let q := max (lead - f.frac) f.qmin
      let (r, inexact) := roundMag rm neg st m' e' q
      (f.code neg ((q - f.qmin).toNat * 2 ^ f.frac + r),
        (if inexact then fNX else 0) ||| (if inexact && tiny then fUF else 0))

/-- A value rounded into a format: a NaN becomes the canonical NaN, an infinity stays. -/
def fpRoundVal (f : FpFormat) (rm : BitVec 2) (ftz : Bool) : FpVal → FpRes
  | .nan sig => fpNan f sig
  | .inf neg => (f.inf neg, 0)
  | .fin neg m e => fpRound f rm ftz neg false m e

/-! ## Exact arithmetic on finite values -/

/-- (−1)^neg × m as an integer. -/
def signedMag (neg : Bool) (m : Nat) : Int := if neg then -(m : Int) else m

/-- A rounded sum of two finite values; the sign of an exact zero is IEEE 754-2019's. -/
def fpSum (f : FpFormat) (rm : BitVec 2) (ftz : Bool) (na : Bool) (ma : Nat) (ea : Int) (nb : Bool) (mb : Nat)
    (eb : Int) : FpRes :=
  let e := min ea eb
  let t := signedMag na ma * 2 ^ (ea - e).toNat + signedMag nb mb * 2 ^ (eb - e).toNat
  if t = 0 then
    let neg := if na = nb then na else decide (rm = 2)
    (f.code neg 0, 0)
  else fpRound f rm ftz (decide (t < 0)) false t.natAbs e

/-- The sum of two values. -/
def fpAdd (f : FpFormat) (rm : BitVec 2) (ftz : Bool) : FpVal → FpVal → FpRes
  | .nan s, .nan t => fpNan f (s || t)
  | .nan s, _ => fpNan f s
  | _, .nan t => fpNan f t
  | .inf a, .inf b => if a = b then (f.inf a, 0) else fpInvalid f
  | .inf a, .fin .. => (f.inf a, 0)
  | .fin .., .inf b => (f.inf b, 0)
  | .fin na ma ea, .fin nb mb eb => fpSum f rm ftz na ma ea nb mb eb

/-- A value with its sign inverted. -/
def FpVal.neg : FpVal → FpVal
  | .nan s => .nan s
  | .inf a => .inf (!a)
  | .fin a m e => .fin (!a) m e

/-- Whether a value is a signalling NaN, a NaN, zero. -/
def FpVal.isSignalling : FpVal → Bool
  | .nan s => s
  | _ => false
def FpVal.isNan : FpVal → Bool
  | .nan _ => true
  | _ => false
def FpVal.isZero : FpVal → Bool
  | .fin _ m _ => m == 0
  | _ => false
def FpVal.isInf : FpVal → Bool
  | .inf _ => true
  | _ => false
def FpVal.isNeg : FpVal → Bool
  | .nan _ => false
  | .inf a => a
  | .fin a _ _ => a

/-- The product of two values. -/
def fpMul (f : FpFormat) (rm : BitVec 2) (ftz : Bool) (a b : FpVal) : FpRes :=
  if a.isNan || b.isNan then fpNan f (a.isSignalling || b.isSignalling)
  else if (a.isInf && b.isZero) || (a.isZero && b.isInf) then fpInvalid f
  else
    let neg := a.isNeg != b.isNeg
    match a, b with
    | .fin _ ma ea, .fin _ mb eb => fpRound f rm ftz neg false (ma * mb) (ea + eb)
    | _, _ => (f.inf neg, 0)

/-- a × b + c rounded once; 0 × ∞ raises NV whatever c is (05 R186; 06 R212). -/
def fpFma (f : FpFormat) (rm : BitVec 2) (ftz : Bool) (a b c : FpVal) : FpRes :=
  if (a.isInf && b.isZero) || (a.isZero && b.isInf) then fpInvalid f
  else if a.isNan || b.isNan || c.isNan then fpNan f (a.isSignalling || b.isSignalling || c.isSignalling)
  else
    let neg := a.isNeg != b.isNeg
    match a, b with
    | .fin _ ma ea, .fin _ mb eb => fpAdd f rm ftz (.fin neg (ma * mb) (ea + eb)) c
    | _, _ => fpAdd f rm ftz (.inf neg) c

/-- The quotient of two values. -/
def fpDiv (f : FpFormat) (rm : BitVec 2) (ftz : Bool) (a b : FpVal) : FpRes :=
  if a.isNan || b.isNan then fpNan f (a.isSignalling || b.isSignalling)
  else
    let neg := a.isNeg != b.isNeg
    match a, b with
    | .fin _ ma ea, .fin _ mb eb =>
      if mb = 0 then if ma = 0 then fpInvalid f else (f.inf neg, fDZ)
      else if ma = 0 then (f.code neg 0, 0)
      else
        let k := f.frac + 4 + Nat.log2 mb
        fpRound f rm ftz neg (ma * 2 ^ k % mb != 0) (ma * 2 ^ k / mb) (ea - eb - k)
    | .inf _, .inf _ => fpInvalid f
    | .inf _, _ => (f.inf neg, 0)
    | _, _ => (f.code neg 0, 0)

/-- The integer square root, from bit n - 1 down. -/
def isqrtFrom (v : Nat) : Nat → Nat → Nat
  | 0, r => r
  | n + 1, r => if (r + 2 ^ n) * (r + 2 ^ n) ≤ v then isqrtFrom v n (r + 2 ^ n) else isqrtFrom v n r

/-- The integer square root of a natural number. -/
def isqrt (v : Nat) : Nat := isqrtFrom v (Nat.log2 v / 2 + 1) 0

/-- m × 2^e with an even exponent. -/
def evenExp (m : Nat) (e : Int) : Nat × Int := if e % 2 = 0 then (m, e) else (2 * m, e - 1)

/-- The square root of a value. -/
def fpSqrt (f : FpFormat) (rm : BitVec 2) (ftz : Bool) : FpVal → FpRes
  | .nan s => fpNan f s
  | .inf false => (f.inf false, 0)
  | .inf true => fpInvalid f
  | .fin neg m e =>
    if m = 0 then (f.code neg 0, 0)
    else if neg then fpInvalid f
    else
      let (m, e) := evenExp m e
      let k := f.frac + 4
      let v := m * 2 ^ (2 * k)
      let r := isqrt v
      fpRound f rm ftz false (r * r != v) r (e / 2 - k)

/-- The reciprocal square root of a value (06 R212). -/
def fpRsqrt (f : FpFormat) (rm : BitVec 2) (ftz : Bool) : FpVal → FpRes
  | .nan s => fpNan f s
  | .inf false => (f.code false 0, 0)
  | .inf true => fpInvalid f
  | .fin neg m e =>
    if m = 0 then (f.inf neg, fDZ)
    else if neg then fpInvalid f
    else
      let (m, e) := evenExp m e
      let k := f.frac + 4 + Nat.log2 m
      let r := isqrt (2 ^ (2 * k) / m)
      fpRound f rm ftz false (r * r * m != 2 ^ (2 * k)) r (-(e / 2) - k)

/-! ## Powers and logarithms to base 2, to 256 bits below the point -/

/-- The fixed point of the functions, in bits. -/
def fnBits : Nat := 256

/-- ln 2 × 2^256, rounded down. -/
def ln2Fixed : Nat :=
  0xb17217f7d1cf79abc9e3b39803f2f6af40f343267298b62d8a0d175b8baafa2b

/-- The terms z^n / n! of the exponential series in fixed point, summed from term n on, t being term n - 1. -/
def expSeries (z : Nat) : Nat → Nat → Nat → Nat → Nat
  | 0, _, _, acc => acc
  | fuel + 1, n, t, acc =>
    let t' := t * z / 2 ^ fnBits / n
    expSeries z fuel (n + 1) t' (acc + t')

/-- 2^x × 2^256 for x = v / 2^256 in 0 to 1. -/
def exp2Fixed (v : Nat) : Nat :=
  expSeries (v * ln2Fixed / 2 ^ fnBits) 90 1 (2 ^ fnBits) (2 ^ fnBits)

/-- The series of the inverse hyperbolic tangent in fixed point: terms p / n for odd n, p the power of z. -/
def atanhSeries (z2 : Nat) : Nat → Nat → Nat → Nat → Nat
  | 0, _, _, acc => acc
  | fuel + 1, n, p, acc => atanhSeries z2 fuel (n + 2) (p * z2 / 2 ^ fnBits) (acc + p / n)

/-- log2(m / 2^k) × 2^256 for m / 2^k in 1 to 2, k = the place of m's leading bit. -/
def log2Fixed (m : Nat) : Nat :=
  let k := 2 ^ Nat.log2 m
  let z := (m - k) * 2 ^ fnBits / (m + k)
  2 * atanhSeries (z * z / 2 ^ fnBits) 90 1 z 0 * 2 ^ fnBits / ln2Fixed

/-- 2 to the power of a value (06 R212): exact for an integer, else irrational. -/
def fpExp2 (f : FpFormat) (rm : BitVec 2) (ftz : Bool) : FpVal → FpRes
  | .nan s => fpNan f s
  | .inf false => (f.inf false, 0)
  | .inf true => (f.code false 0, 0)
  | .fin neg m e =>
    if 0 ≤ e then fpRound f rm ftz false false 1 (signedMag neg m * 2 ^ (min e 300).toNat)
    else
      let k := (-e).toNat
      let x := signedMag neg m
      let n := x / 2 ^ k
      let r := (x % 2 ^ k).toNat
      if r = 0 then fpRound f rm ftz false false 1 n
      else fpRound f rm ftz false true (exp2Fixed (r * 2 ^ fnBits / 2 ^ k)) (n - fnBits)

/-- The logarithm to base 2 of a value (06 R212): exact for a power of two, else irrational. -/
def fpLog2 (f : FpFormat) (rm : BitVec 2) (ftz : Bool) : FpVal → FpRes
  | .nan s => fpNan f s
  | .inf false => (f.inf false, 0)
  | .inf true => fpInvalid f
  | .fin neg m e =>
    if m = 0 then (f.inf true, fDZ)
    else if neg then fpInvalid f
    else
      let n := e + Nat.log2 m
      if m = 2 ^ Nat.log2 m then fpRound f rm ftz (decide (n < 0)) false n.natAbs 0
      else
        let v := n * 2 ^ fnBits + log2Fixed m
        if v < 0 then fpRound f rm ftz true true (v.natAbs - 1) (-fnBits)
        else fpRound f rm ftz false true v.natAbs (-fnBits)

/-! ## Comparisons, minimum and maximum (02 R45; 05 R186) -/

/-- The order of two values that are not NaN; −0 and +0 are equal. -/
def fpCompare : FpVal → FpVal → Ordering
  | .inf a, .inf b => if a = b then .eq else if a then .lt else .gt
  | .inf a, _ => if a then .lt else .gt
  | _, .inf b => if b then .gt else .lt
  | .fin na ma ea, .fin nb mb eb =>
    let e := min ea eb
    compare (signedMag na ma * 2 ^ (ea - e).toNat) (signedMag nb mb * 2 ^ (eb - e).toNat)
  | _, _ => .eq

/-- The code of a value that a format holds exactly. -/
def fpExact (f : FpFormat) (v : FpVal) : Nat := (fpRoundVal f 1 false v).1

/-- IEEE 754-2019 minimum (max = false) or maximum: −0 orders below +0 (02 R45). -/
def fpMinMax (f : FpFormat) (isMax : Bool) (a b : FpVal) : FpRes :=
  if a.isNan || b.isNan then fpNan f (a.isSignalling || b.isSignalling)
  else
    let less := match fpCompare a b with
      | .lt => true
      | .gt => false
      | .eq => a.isNeg
    (fpExact f (if less != isMax then a else b), 0)

/-- Whether a compare holds, with its flags: 0 eq, 1 ne, 2 lt, 3 le, 4 gt, 5 ge, 6 un; the ordered ones raise NV for any
NaN, the others for a signalling NaN (05 R186; 06 R215). -/
def fpCondition (cc : Nat) (a b : FpVal) : Bool × BitVec 7 :=
  let un := a.isNan || b.isNan
  let sig := a.isSignalling || b.isSignalling
  let o := fpCompare a b
  let r := match cc with
    | 0 => !un && o == .eq
    | 1 => un || o != .eq
    | 2 => !un && o == .lt
    | 3 => !un && o != .gt
    | 4 => !un && o == .gt
    | 5 => !un && o != .lt
    | _ => un
  (r, if sig || (un && decide (2 ≤ cc) && decide (cc ≤ 5)) then fNV else 0)

/-- A value with its sign cleared or inverted; a NaN gives the canonical NaN (05 R186). -/
def fpSign (f : FpFormat) (absolute : Bool) (v : FpVal) : FpRes :=
  match v with
  | .nan s => fpNan f s
  | .inf a => (f.inf (!absolute && !a), 0)
  | .fin a m e => (fpExact f (.fin (!absolute && !a) m e), 0)

/-! ## Integers (02 R47, R49) -/

/-- A value rounded to an integer in a mode and saturated to lo..hi (02 R49). -/
def fpToInt (rm : BitVec 2) (lo hi : Int) : FpVal → Int × BitVec 7
  | .nan _ => (0, fNV)
  | .inf true => (lo, fNV)
  | .inf false => (hi, fNV)
  | .fin neg m e =>
    let far := decide (300 < e)
    let (r, inexact) := if e + Nat.log2 m < -4 ∧ m ≠ 0 then roundMag rm neg true 1 (-3) 0
      else roundMag rm neg false m (if far then 300 else e) 0
    let v := signedMag neg r
    if v < lo then (lo, fNV) else if hi < v then (hi, fNV) else (v, if inexact then fNX else 0)

/-- An integer rounded once into a format (02 R49). -/
def fpFromInt (f : FpFormat) (rm : BitVec 2) (ftz : Bool) (v : Int) : FpRes :=
  fpRound f rm ftz (decide (v < 0)) false v.natAbs 0

end Sys2Proof.Machine
end

