-- ==== Sys2Proof/Config.lean ====
section
/-! DEFINITION. What the spec leaves open, as constants without a body: no proof can know a value of one of them. Each is
named in the assumption log. -/

namespace Sys2Proof.Config

open Sys2Proof.Machine

/-- The next move when State.sched is empty, by State.ticks (log 1). -/
opaque schedule : Nat → Move

/-- Which of the words that a fetch may return it does return, by State.ticks (03 R80; log 8). -/
opaque fetchPick : Nat → Nat

/-- What a lattice cell holds once its graph is freed, by State.ticks and cell (10 R351; log 9). -/
opaque freedCell : Nat → Nat → Word

/-- The bytes of a save area, by State.ticks and offset (14 R441; log 10). -/
opaque saveByte : Nat → Nat → Byte

/-- Whether the signature of a signed object verifies (15 R456; log 11). -/
opaque sigOk : List Byte → Bool

/-- The security version that a firmware image carries (15 R456; log 11). -/
opaque imageSvn : List Byte → BitVec 8

/-- The module identity key's signature over a digest (15 R457, R465; log 11). -/
opaque identitySign : List Byte → List Byte

/-- The bytes of the boot ROM that MEAS0 is extended with, and of the signed defect map for MEAS2 (15 R457; log 11). -/
opaque bootRom : List Byte

/-- The module's identity certificate (15 R455, R456; log 11). -/
opaque identityCert : List Byte

/-- The TEC setting of the code of a BX4 flit that a width adapter forms from blocks of differing TECs, by the two (08 R283;
log 63). -/
opaque pairTec : Bool → Bool → Bool

/-- The defect map as it is signed (15 R457; log 11). -/
opaque signedDefectMap : List Byte

/-- Whether the host answers a read of one of its bytes (15 R465: HOSTERR; log 13). -/
opaque hostReadOk : Nat → Nat → Bool

end Sys2Proof.Config
end

