-- ==== Sys2Proof/Machine/Ext.lean ====
section
/-! DEFINITION. External memory: HDM decoding, poison, page walks and the translation stores (07 R225-R233, R246). -/

namespace Sys2Proof.Machine

/-! ## HDM ranges (07 R227; 15 R463) -/

/-- How many ways code IW of an HDM range means (15 R463). -/
def hdmWays (code : Nat) : Nat :=
  match code with
  | 0 => 1 | 1 => 2 | 2 => 3 | 3 => 4 | 4 => 6 | 5 => 8 | 6 => 12 | 7 => 16 | _ => 0

/-- Word w of HDM range i. -/
def hdmWord (m : Mgmt) (i w : Nat) : Word := Table.get 0 m.hdm (4 * i + w)

/-- Whether HDM range i is enabled and holds physical address pa. -/
def hdmHolds (m : Mgmt) (pa i : Nat) : Bool :=
  let base := bitsOf (hdmWord m i 0) 28 24 * 2 ^ 28
  let size := bitsOf (hdmWord m i 1) 28 24 * 2 ^ 28
  (hdmWord m i 0).getLsbD 63 && decide (base ≤ pa) && decide (pa < base + size)

/-- Target k of HDM range i: bit 7 valid, bit 6 half, bits 5:0 port (15 R463). -/
def hdmTarget (m : Mgmt) (i k : Nat) : Nat := bitsOf (hdmWord m i (2 + k / 8)) (8 * (k % 8)) 8

/-- The target that the interleave of CXL 3.x gives a physical address; 3, 6 and 12 ways divide by 3 above the low
bits (log 12, PRESUMED). -/
def hdmIndex (ways ig pa : Nat) : Nat :=
  let n := pa / (256 * 2 ^ ig)
  match ways with
  | 3 => n % 3
  | 6 => n / 2 % 3 * 2 + n % 2
  | 12 => n / 4 % 3 * 4 + n % 4
  | w => n % w

/-- The enabled HDM range that holds a physical address. -/
def hdmRange (m : Mgmt) (pa : Nat) : Option Nat := (List.range 16).find? (hdmHolds m pa)

/-- Ways, interleave granule in bytes and size of HDM range i. -/
def hdmIw (m : Mgmt) (i : Nat) : Nat := hdmWays (bitsOf (hdmWord m i 1) 0 4)
def hdmGranule (m : Mgmt) (i : Nat) : Nat := 256 * 2 ^ bitsOf (hdmWord m i 1) 4 4

/-- Which target of range i decodes a physical address that the range holds. -/
def hdmWay (m : Mgmt) (i pa : Nat) : Nat := hdmIndex (hdmIw m i) (bitsOf (hdmWord m i 1) 4 4) pa

/-- The target that decodes a physical address (07 R227): its port, with 64 added for the second half of a bifurcated one;
none when the address is undecoded. -/
def homeTarget (m : Mgmt) (pa : Nat) : Option Nat := (hdmRange m pa).map fun i => hdmTarget m i (hdmWay m i pa) % 128

/-- The home port of a physical address. -/
def homePort (m : Mgmt) (pa : Nat) : Option Nat := (homeTarget m pa).map (· % 64)

/-- Whether a physical address lies in no HDM range. -/
def undecoded (m : Mgmt) (pa : Nat) : Bool := (homePort m pa).isNone

/-- Bytes of each target of range i that one of its ways decodes. -/
def hdmPart (m : Mgmt) (i : Nat) : Nat := bitsOf (hdmWord m i 1) 28 24 * 2 ^ 28 / hdmIw m i

/-- How many of the first k ways of range i name a target. -/
def hdmTimes (m : Mgmt) (i k target : Nat) : Nat :=
  ((List.range k).filter fun j => hdmTarget m i j % 128 == target).length

/-- The device address at which range i begins on the target of its way k: behind what the enabled ranges before it, and its own
ways before k, decode there, as the decoders of a CXL device follow each other (07 R227; log 12, PRESUMED). -/
def hdmBegin (m : Mgmt) (i k : Nat) : Nat :=
  let target := hdmTarget m i k % 128
  ((List.range i).filter fun j => (hdmWord m j 0).getLsbD 63).foldl
    (fun n j => n + hdmTimes m j (hdmIw m j) target * hdmPart m j) (hdmTimes m i k target * hdmPart m i)

/-- The device address of a physical address (07 R227), with the target above it in bits 58:52: the address of its byte in
State.ext. An undecoded address has none and reads as 0 here. -/
def deviceAddr (m : Mgmt) (pa : Nat) : Nat :=
  match hdmRange m pa with
  | none => 0
  | some i =>
    let off := pa - bitsOf (hdmWord m i 0) 28 24 * 2 ^ 28
    let g := hdmGranule m i
    let k := hdmWay m i pa
    hdmTarget m i k % 128 * 2 ^ 52 + hdmBegin m i k + off / (g * hdmIw m i) * g + off % g

/-! ## Bytes of external memory -/

/-- Whether every byte from pa for n bytes has a home port whose link is up (07 R226). -/
def reachable (s : State) (pa n : Nat) : Bool :=
  (List.range n).all fun k =>
    match homeTarget s.mg (pa + k) with
    | some t => if t < 64 then (s.brim t).linkUp else (s.brim (t % 64)).otherUp
    | none => false

/-- The device addresses of n bytes at a physical address. -/
def deviceAddrs (m : Mgmt) (pa n : Nat) : List Nat := (List.range n).map fun k => deviceAddr m (pa + k)

/-- Whether a poisoned 8-byte word of a device meets the n bytes at pa. -/
def extPoisoned (s : State) (pa n : Nat) : Bool := (deviceAddrs s.mg pa n).any fun d => s.extPoison.contains (d / 8)

/-- The n bytes of external memory at a physical address. -/
def extBytes (s : State) (pa n : Nat) : List Byte := (deviceAddrs s.mg pa n).map (Table.get 0 s.ext)

/-- A read of n bytes at a physical address: none for poisoned or uncorrectable data (07 R226, R241). -/
def extRead (s : State) (pa n : Nat) : Option (List Byte) :=
  if reachable s pa n && !extPoisoned s pa n then some (extBytes s pa n) else none

/-- Bytes written at device addresses. -/
def writeDevices (mem : List Host.Cell) : List Nat → List Byte → List Host.Cell
  | d :: ds, b :: bs => writeDevices (Table.set 0 d b mem) ds bs
  | _, _ => mem

/-- Bytes written at device addresses. A word that is written whole is no longer poisoned (log 14). -/
def State.writeExt (s : State) (ds : List Nat) (bytes : List Byte) : State :=
  { s with
    ext := writeDevices s.ext ds bytes
    extPoison := s.extPoison.filter fun w => !((List.range 8).all fun k => ds.contains (8 * w + k)) }

/-- A write at a physical address: none when the home port does not accept it (07 R226, R241). -/
def extWrite (s : State) (pa : Nat) (bytes : List Byte) : Option State :=
  if reachable s pa bytes.length then some (s.writeExt (deviceAddrs s.mg pa bytes.length) bytes) else none

/-! ## Page walks (07 R228, R229) -/

/-- What a walk returns (07 R229). -/
inductive WalkResult where
  | leaf (pa size : Nat) (w : Bool)
  | notPresent
  | protection
  | poison
  deriving DecidableEq, Repr

/-- The walk of 07 R229 from level n - 1 down, at table t. -/
def walkFrom (s : State) (va : Nat) (write : Bool) : Nat → Nat → WalkResult
  | 0, _ => .protection
  | lvl + 1, t =>
    if undecoded s.mg t then .protection
    else
      match extRead s (t + 8 * (va / 2 ^ (12 + 9 * lvl) % 512)) 8 with
      | none => .poison
      | some bytes =>
        let e := natOfBytes bytes
        let pfn := e / 2 ^ 12 % 2 ^ 40
        let size := 2 ^ (12 + 9 * lvl)
        if e % 2 = 0 then .notPresent
        else if e / 16 % 256 ≠ 0 then .protection
        else if e / 8 % 2 = 0 then
          if lvl = 0 then .protection else walkFrom s va write lvl (pfn * 4096)
        else if 2 < lvl ∨ pfn % 2 ^ (9 * lvl) ≠ 0 then .protection
        else if e / 2 % 2 = 0 ∨ (write = true ∧ e / 4 % 2 = 0) then .protection
        else if undecoded s.mg (pfn * 4096 + va % size) then .protection
        else .leaf (pfn * 4096 + va % size) size (decide (e / 4 % 2 = 1))

/-- The walk of a virtual address from a page-table root (07 R229). -/
def walk (s : State) (root va : Nat) (write : Bool) : WalkResult := walkFrom s va write 5 root

/-! ## Windows and the scalar translation store (07 R231, R233) -/

/-- Whether a window entry holds a virtual address and permits the access. -/
def Window.permits (e : Window) (va : Nat) (write : Bool) : Bool :=
  decide (e.va ≤ va / 4096) && decide (va / 4096 < e.va + e.count) && (!write || e.w)

/-- The physical address that a window entry gives a virtual address it holds. -/
def Window.map (e : Window) (va : Nat) : Nat := (e.pa + (va / 4096 - e.va)) * 4096 + va % 4096

/-- The leaf page of a successful walk as an unpinned entry. -/
def Window.ofLeaf (va pa size : Nat) (w : Bool) : Window :=
  { pin := false, w, va := va / size * (size / 4096), count := size / 4096, pa := (pa - va % size) / 4096 }

/-- A woken engine holds no window and no scalar-store entry (07 R246). -/
def Brim.wake (b : Brim) : Brim :=
  if b.asleep then
    { b with asleep := false, scalar := [], srr := 0,
             ctxs := b.ctxs.map fun (n, c) => (n, { c with windows := [], rr := 0 }) }
  else b

/-- A translation of the scalar path at an engine (07 R233): its store first, then a walk whose success is installed. -/
def scalarXlate (s : State) (eng job root va : Nat) (write : Bool) : WalkResult × State :=
  let b := (s.brim eng).wake
  match b.scalar.find? (fun e => e.2.1 == job && e.2.2.permits va write) with
  | some (_, _, e) => (.leaf (e.map va) 4096 e.w, s.setBrim eng b)
  | none =>
    match walk s root va write with
    | .leaf pa size w =>
      let b := { b with scalar := Table.put (b.srr % 16) (job, Window.ofLeaf va pa size w) b.scalar, srr := (b.srr + 1) % 16 }
      (.leaf pa size w, s.setBrim eng b)
    | r => (r, s.setBrim eng b)

/-- Whether a page of a job that n bytes at an address meet is under migration: accesses to it wait (07 R247). -/
def State.frozenPage (s : State) (job va n : Nat) : Bool :=
  s.migs.any fun p => p.2.job == job && decide (va < p.2.va + p.2.size) && decide (p.2.va < va + n)

/-- The module without the migrations of some cores' smig: their pages are no longer frozen (07 R247). -/
def State.dropMigs (s : State) (lids : List Nat) : State := { s with migs := s.migs.filter fun p => !lids.contains p.1 }

/-! ## Reads and writes of a job's address space by the controllers -/

/-- A read by a controller in a job's address space, one page at a time within n bytes that cross no page. -/
def vaRead (s : State) (root va n : Nat) : Option (List Byte) :=
  if 2 ^ 57 ≤ va then none
  else
    match walk s root va false with
    | .leaf pa _ _ => extRead s pa n
    | _ => none

/-- A read of 8-byte words by a controller: n words at an 8-byte aligned address. -/
def vaWords (s : State) (root va : Nat) : Nat → Option (List Nat)
  | 0 => some []
  | n + 1 =>
    match vaRead s root va 8, vaWords s root (va + 8) n with
    | some b, some ws => some (natOfBytes b :: ws)
    | _, _ => none

/-- A write by a controller of bytes that cross no page. -/
def vaWrite (s : State) (root va : Nat) (bytes : List Byte) : Option State :=
  if 2 ^ 57 ≤ va then none
  else
    match walk s root va true with
    | .leaf pa _ _ => extWrite s pa bytes
    | _ => none

end Sys2Proof.Machine
end

