-- ==== Sys2Proof/Machine/Ops.lean ====
section
/-! DEFINITION. The operations that every meaning shares: regions and their fault records, taking a trap and returning
from one, the monad of one instruction with its ways to stop, the checks before an instruction, its retirement, and the
accesses to LOC, CLU and EXT. -/

namespace Sys2Proof.Machine

/-! ## Trap causes (05 R177) -/

def causeIllegal : BitVec 8 := 0x01
def causeReserved : BitVec 8 := 0x02
def causeFeature : BitVec 8 := 0x03
def causePrivilege : BitVec 8 := 0x04
def causeSoftware : BitVec 8 := 0x05
def causeBreakpoint : BitVec 8 := 0x06
def causeSyscall : BitVec 8 := 0x07
def causeLocRange : BitVec 8 := 0x08
def causeAlign : BitVec 8 := 0x09
def causeCluRange : BitVec 8 := 0x0A
def causeSpill : BitVec 8 := 0x0B
def causeUnderflow : BitVec 8 := 0x10
def causeTimeout : BitVec 8 := 0x11
def causeQueue : BitVec 8 := 0x12
def causeFmtMode : BitVec 8 := 0x18
def causeFmtTag : BitVec 8 := 0x19
def causeTranslation : BitVec 8 := 0x20
def causeProtection : BitVec 8 := 0x21
def causePoison : BitVec 8 := 0x22
def causeCapacity : BitVec 8 := 0x28
def causeLatRange : BitVec 8 := 0x29
def causeGroup : BitVec 8 := 0x30
def causeAtomic : BitVec 8 := 0x38
def causeLink : BitVec 8 := 0x40
def causeConfigUe : BitVec 8 := 0x48
def causeSoftError : BitVec 8 := 0x50

/-! ## Regions, roles and jobs -/

/-- Whether a region's binding holds a core (01 R25). -/
def Region.holds (r : Region) (lid : Nat) : Bool := r.bind.contains lid

/-- The region whose cores include lid. -/
def State.regionOf (s : State) (lid : Nat) : Option Region := s.regions.find? (·.holds lid)

/-- The role id of a core in its region (01 R25). -/
def Region.roleOf (r : Region) (lid : Nat) : Nat := r.bind.idxOf lid

/-- The job of a tag (14 R421). -/
def State.job (s : State) (tag : Nat) : Option Job := s.jobs.find? (·.tag == tag)

/-- The module with a region replaced, by its number. -/
def State.setRegion (s : State) (r : Region) : State :=
  { s with regions := s.regions.map fun r' => if r'.id = r.id then r else r' }

/-- The page-table root and tag of the job that a region belongs to. -/
def State.rootOf (s : State) (r : Region) : Nat := ((s.job r.job).map (·.ptroot)).getD 0

/-- The node of a job at a virtual address (14 R423). -/
def Job.node (j : Job) (va : Nat) : Option Node := j.nodes.find? (·.va == va)

/-- A region's leaf node. -/
def State.leafOf (s : State) (r : Region) : Option Node := (s.job r.job).bind (·.node r.leaf)

/-- The brim port that placement assigned to a core (07 R132; 14 R431). -/
def State.portOf (s : State) (lid : Nat) : Nat :=
  match s.regionOf lid with
  | some r => r.ports.getD (r.roleOf lid) 0
  | none => 0

/-! ## Groups of the crown tree (11 R356-R361) -/

/-- The member that a core is: its region and role. -/
def State.memberOf (s : State) (lid : Nat) : Option Member := (s.regionOf lid).map fun r => (r.id, r.roleOf lid)

/-- The core that a member's role is bound to. -/
def State.coreAt (s : State) (m : Member) : Option Nat := (s.regions.find? (·.id == m.1)).bind fun r => r.bind[m.2]?

/-- The group of a core's channel, with its number (11 R356). -/
def State.groupOf (s : State) (lid ch : Nat) : Option (Nat × Group) :=
  match s.memberOf lid with
  | some m => s.groups.find? fun p => p.2.ch == ch && p.2.members.contains m
  | none => none

/-- The members with a standing excusal (11 R360). -/
def Group.standing (g : Group) (m : Member) : Bool := g.left.contains m || g.masked.contains m || g.retired.contains m

/-- LEFT of TREE_STAT for a channel: a standing excusal (11 R375). -/
def State.leftOn (s : State) (lid ch : Nat) : Bool :=
  match s.memberOf lid, s.groupOf lid ch with
  | some m, some (_, g) => g.standing m
  | _, _ => false

/-- Whether a member's region has ended (11 R360). -/
def State.endedMember (s : State) (m : Member) : Bool :=
  !s.regions.any fun r => r.id == m.1 && r.done.isNone

/-- Whether some region of a group is not LIVE and has not ended (11 R361). -/
def Group.idle (g : Group) (s : State) : Bool :=
  s.regions.any fun r => g.gids.any (fun p => p.1 == r.id) && r.done.isNone && r.st != .live

/-- Whether the wait counts of class 7 on a group stand still: one of its regions that has not ended is not LIVE, or a
member module reports held (11 R361; 13 R411). -/
def Group.stopped (g : Group) (s : State) : Bool := !g.held.isEmpty || g.idle s

/-- The cores of a group's members. -/
def Group.cores (g : Group) (s : State) : List Nat := g.members.filterMap s.coreAt

/-- A class-7 wait on a channel starts its count again (11 R361). -/
def Core.restartWait (c : Core) (ch now : Nat) : Core :=
  let again (w : Wait) : Wait :=
    if bitsOf w.val 0 4 = 7 ∧ bitsOf w.val 8 3 = ch then { w with start := now } else w
  { c with wait := c.wait.map again, rptWait := c.rptWait.map again }

/-- The module s after a change from s0: where a group's counts stood still and no longer do, they start again from zero
(11 R361). -/
def restartWaits (s0 s : State) : State :=
  s.groups.foldl (fun s p =>
    let before := ((Table.find s0.groups p.1).map (·.stopped s0)).getD false
    if before && !p.2.stopped s then
      (p.2.cores s).foldl (fun s l => s.setCore l ((s.core l).restartWait p.2.ch s.cycle.toNat)) s
    else s) s

/-! ## Completion records and fault records (14 R422, R424; 08 R288; 01 R23) -/

/-- The four words of a completion record (14 R422). -/
def recordWords (tag rtype status cfgseq info : Nat) (addr excw : Word) : List Word :=
  [BitVec.ofNat 64 tag,
   BitVec.ofNat 64 (rtype % 256 + status % 256 * 2 ^ 8 + cfgseq % 2 ^ 16 * 2 ^ 16 + info % 2 ^ 32 * 2 ^ 32), addr, excw]

/-- The module with a completion record waiting at a queue (14 R422; 15 R454). -/
def State.post (s : State) (q : Nat) (words : List Word) (ready : RecWhen) : State :=
  let k := s.queue q
  s.setQueue q { k with records := k.records ++ [{ words, ready }] }

/-- A record's condition once region id has reached some goals; froze says that it reached them by freezing. -/
def RecWhen.reach (id : Nat) (goals : List RecGoal) (froze : Bool) : RecWhen → RecWhen
  | .goal g ids f =>
    if goals.contains g && ids.contains id then .goal g (ids.filter (· != id)) (if froze then some id else f)
    else .goal g ids f
  | w => w

/-- The module once region id has reached goals that completion records wait for (14 R422). -/
def State.reach (s : State) (id : Nat) (goals : List RecGoal) (froze : Bool) : State :=
  { s with queues := s.queues.map fun (q, k) =>
      (q, { k with records := k.records.map fun p => { p with ready := p.ready.reach id goals froze } }) }

/-- Word 7 of a fault record: the element with the lowest role id whose EXLOG recorded an event (08 R286). -/
def excWord (s : State) (r : Region) : Word :=
  match r.bind.find? (fun l => (s.core l).router.exlog.getLsbD 7) with
  | some l => BitVec.ofNat 64 (r.roleOf l + bitsOf (s.core l).router.exlog 0 7 * 2 ^ 32 + 2 ^ 63)
  | none => 0

/-- What a fault record says beside the place (08 R288). -/
structure FaultInfo where
  cause : Nat
  unit : Nat
  stall : Bool := false
  drained : Bool := false
  spec : Bool := false
  sub : Nat := 0
  task : Nat := 0
  pc : Nat := 0
  eng : Nat := 0
  ctx : Nat := 0
  tag : Nat := 0
  qn : Nat := 0
  fmt : Nat := 0
  kind : Nat := 0
  val : Word := 0
  opnd : Word := 0
  deriving DecidableEq, Repr

/-- The eight words of a fault record for a core of a region (08 R288), one fault gathered. -/
def faultRecord (s : State) (r : Region) (lid : Nat) (f : FaultInfo) : List Word :=
  let role := r.roleOf lid
  [BitVec.ofNat 64 (f.cause + f.unit * 2 ^ 8 + bit f.stall * 2 ^ 16 + bit f.drained * 2 ^ 17 + bit f.spec * 2 ^ 18
     + 2 ^ 24 + f.sub * 2 ^ 32),
   BitVec.ofNat 64 (lid % 1152 + lid / 1152 * 2 ^ 16 + role % r.w * 2 ^ 32 + role / r.w * 2 ^ 48),
   BitVec.ofNat 64 (r.id + role * 2 ^ 32),
   BitVec.ofNat 64 (f.task + f.pc * 2 ^ 16 + f.eng * 2 ^ 32 + f.ctx * 2 ^ 40),
   BitVec.ofNat 64 (f.tag + f.qn * 2 ^ 8 + f.fmt * 2 ^ 12 + f.kind * 2 ^ 16),
   f.val, f.opnd, excWord s r]

/-- The nearest node, from index i toward the root, that names a handler (01 R23). -/
def handlerFrom (nodes : List Node) : Nat → Nat → Option Node
  | 0, _ => none
  | fuel + 1, i =>
    match nodes[i]? with
    | none => none
    | some n =>
      if n.fring ≠ 0 then some n
      else
        match n.parent with
        | some p => handlerFrom nodes fuel p
        | none => none

/-- The node whose fault ring receives a region's reports (01 R23; 14 R423). -/
def handlerOf (j : Job) (leaf : Nat) : Option Node :=
  match j.node leaf with
  | none => none
  | some n => handlerFrom j.nodes (j.nodes.length + 1) (j.nodes.findIdx (·.va == n.fdom))

/-- MSI-X vector v raised; a vector above 2,047 raises nothing (15 R454). -/
def State.raise (s : State) (v : Nat) : State := if v ≤ 2047 then { s with raised := s.raised ++ [v] } else s

/-- Steps 1 to 4 of 14 R424: none when the ring is full or a read or write of it faults. -/
def ringAppend (s : State) (root : Nat) (n : Node) (record : List Word) : Option State := do
  let tailB ← vaRead s root n.fring 8
  let headB ← vaRead s root (n.fring + 8) 8
  let tail := natOfBytes tailB % 2 ^ 16
  let head := natOfBytes headB % 2 ^ 16
  if (tail + 1) % n.frn = head ∨ n.frn ≤ head then none
  let s ← vaWrite s root (n.fring + 64 + 64 * tail) (record.flatMap (fun w => bytesOfNat 8 w.toNat))
  let s ← vaWrite s root n.fring (bytesOfNat 2 ((tail + 1) % n.frn))
  return s.raise n.fvec

/-- DROPS of a ring rises by 1, where the control block can be written (14 R424). -/
def ringDrop (s : State) (root : Nat) (n : Node) : State :=
  match vaRead s root (n.fring + 16) 4 with
  | none => s
  | some b => (vaWrite s root (n.fring + 16) (bytesOfNat 4 (natOfBytes b + 1))).getD s

/-- A fault record or stall report goes to the fault ring of the region's domain, or to the job's completion ring as a
fault-report record (01 R23; 14 R422, R424). -/
def reportFault (s : State) (r : Region) (record : List Word) : State :=
  match s.job r.job with
  | none => s
  | some j =>
    let w0 := record.headD 0
    let direct (s : State) := s.post j.queue
      (recordWords j.tag 4 5 r.cfgseq (bitsOf w0 0 8 + bitsOf w0 16 3 * 2 ^ 16) (BitVec.ofNat 64 r.leaf)
        (record.getD 7 0)) .now
    match handlerOf j r.leaf with
    | none => direct s
    | some n =>
      match ringAppend s j.ptroot n record with
      | some s' => s'
      | none => direct (ringDrop s j.ptroot n)

/-- The cycles within which a stop reaches every core and router of a region (08 R287). -/
def Region.stopBound (r : Region) : Nat := 96 + 2 * max r.w r.h

/-- The entry of the lowest role in a list by roles. -/
def lowestRole {α : Type} (xs : List (Nat × α)) : Option (Nat × α) :=
  xs.foldl (fun m x => match m with
    | some y => if x.1 < y.1 then some x else m
    | none => some x) none

/-- A fault record once the freeze is complete: NFAULT counts the cores, and word 7 tells what EXLOG then holds (08 R286, R288). -/
def Region.frozenRecord (r : Region) (s : State) (record : List Word) : List Word :=
  (record.mapIdx fun k w =>
    if k = 0 then putBits w 24 8 (min 255 r.gathered.length) else if k = 7 then excWord s r else w)

/-- A region whose freeze has reached all its cores: it is FROZEN, and one fault record is written, of the gathered fault of the
lowest role (08 R287, R288; 14 R426). -/
def completeFreeze (s : State) (r : Region) : State :=
  match lowestRole r.gathered with
  | none => s
  | some (_, record) =>
    let record := r.frozenRecord s record
    let r' := { r with st := .frozen, fault := some record, gathered := [], halts := [], stopFrom := none }
    reportFault (((s.setRegion r').dropMigs r.bind).reach r.id [.quiet] true) r' record

/-- Whether an event of place k in the order of 14 R427 may be decided for a region: no event of a later place was decided in this
cycle. A fatal fault is 1, CANCEL 2, a pre-emption 3, the page-fault time limit 4, a completion 5, a step 6. -/
def Region.mayDecide (r : Region) (s : State) (k : Nat) : Bool :=
  match r.latest with
  | some (t, k') => t != s.cycle || decide (k' ≤ k)
  | none => true

/-- A fault fatal to a region, at a core whose router or core it is: the freeze begins, or gathers one more fault (08 R287). -/
def gatherFault (s : State) (r : Region) (lid : Nat) (f : FaultInfo) : State :=
  match r.st with
  | .live | .draining =>
    let role := r.roleOf lid
    if r.gathered.any (·.1 == role) then s
    else
      s.setRegion { r with
        gathered := r.gathered ++ [(role, faultRecord s r lid f)], stopFrom := r.stopFrom.or (some s.cycle) }
  | _ => s

/-- A region-fatal fault that a router, an engine or a link finds: one that comes after an event of a later place of the same cycle
comes again in the next (14 R427). -/
def freezeRegion (s : State) (r : Region) (lid : Nat) (f : FaultInfo) : State :=
  if r.mayDecide s 1 then gatherFault s r lid f else s

/-- A region-fatal fault that a core raises: the core stops. -/
def freezeAt (s : State) (lid : Nat) (f : FaultInfo) : State :=
  let s' := match s.regionOf lid with
    | some r => gatherFault s r lid f
    | none => s
  s'.setCore lid { s'.core lid with halted := true }

/-! ## Taking a trap and returning from one (05 R173, R176; 14 R445) -/

/-- The unit of a fault record that an opcode belongs to (08 R288; log 15). -/
def unitOf (op : Nat) : Nat :=
  if op < 0x40 then 0 else if op < 0x70 then 1 else if op < 0x80 then 2 else if op < 0x90 then 3
  else if op < 0xA0 then 4 else if op < 0xB0 then 5 else if op < 0xC0 then 6 else if op < 0xD0 then 7
  else if op < 0xD8 then 8 else 0

/-- RPT_STATE with ACT = 1 for a repeat buffer that is interrupted (05 R160, R173). -/
def Rpt.state (r : Rpt) (spc : BitVec 16) : Word :=
  BitVec.ofNat 64 (2 ^ 63 + r.idx % 8 * 2 ^ 48 + r.left % 2 ^ 12 * 2 ^ 32 + r.body.toNat * 2 ^ 16 + spc.toNat)

/-- Whether a trap is fatal to the region (05 R176). -/
def trapFatal (c : Core) (code : BitVec 8) : Bool :=
  code == causeConfigUe || code == causeSoftError || !c.trapVec.getLsbD 0 || c.intrap

/-- What a trap of a body word at pc leaves of the scalar instruction at the core's PC that stands between two of its steps: it goes on
from there when the core comes back to it (05 R173; log 71). -/
def Core.suspend (c : Core) (pc : BitVec 16) : Option Suspended :=
  if c.rpt.isSome && pc != c.pc && (c.progress != 0 || c.answer.isSome) then
    some { pc := c.pc, progress := c.progress, answer := c.answer }
  else none

/-- Trap entry on a core whose trap is not fatal (05 R173, R176). pc is the PC of the trapping instruction. -/
def Core.enterTrap (c : Core) (t : TrapInfo) (pc : BitVec 16) (spec : Bool) : Core :=
  { c with
    trapCause := BitVec.ofNat 64 (t.code.toNat + 256 * bit spec + 65536 * t.sub.toNat)
    trapPc := pc
    trapVal := t.val
    rptState := (c.rpt.map (·.state c.pc)).getD c.rptState
    rptWord := (c.rpt.map (·.word)).getD c.rptWord
    rpt := none
    pprv := c.prv
    prv := true
    intrap := true
    wait := none
    rptWait := none
    progress := 0
    rptProgress := 0
    issued := false
    rptIssued := false
    suspended := c.suspend pc
    answer := if (c.suspend pc).isSome then none else c.answer
    opening := []
    lattice := { c.lattice with rest := [], loading := [] }
    pc := c.trapVec &&& 0xFFF8 }

/-- The requests at an atomic engine whose answers core lid waits for are withdrawn. -/
def State.withdrawRequests (s : State) (lid : Nat) : State :=
  let cl := clusterOf lid
  let e := s.cluster cl
  let mine (t : Table AtomReq) : Bool := ((Table.find t lid).map (·.dNonzero)).getD false
  let e := if mine e.lines then
      { e with lines := Table.erase lid e.lines, linePromo := e.linePromo.filter (· != lid) }
    else e
  let e := if mine e.detHeld then
      { e with
        detHeld := Table.erase lid e.detHeld, detStep := Table.erase lid e.detStep, detUsed := Table.erase lid e.detUsed }
    else e
  let e := if mine e.cellReqs then
      { e with cellReqs := Table.erase lid e.cellReqs, cellPromo := e.cellPromo.filter (· != lid) }
    else e
  if e = s.cluster cl then s else s.setCluster cl e

/-- A trap of a body word at pc finds a request of the scalar port that has no answer yet: it is withdrawn, and the instruction at the
core's PC executes anew (05 R173; log 71). -/
def State.leaveScalar (s : State) (lid : Nat) (pc : BitVec 16) : State :=
  let c := s.core lid
  let e := s.cluster (clusterOf lid)
  let asked := (Table.find e.lines lid).isSome || (Table.find e.cellReqs lid).isSome || (Table.find e.detHeld lid).isSome
  if c.rpt.isSome && pc != c.pc && c.progress != 0 && c.answer.isNone && asked then
    (s.withdrawRequests lid).setCore lid { c with progress := 0 }
  else s

/-- The flit that a QUEUE_PROTOCOL, FORMAT_TAG or FORMAT_MODE trap of an instruction word concerns, with its queue: of an input queue,
the gang queue or the lattice input queue, the first flit at its head with the KIND or FMT that TRAP_VAL gives (05 R153; 06 R202;
08 R288). -/
def flitConcerned (c : Core) (t : TrapInfo) (word : Word) : Option (Nat × Flit) :=
  let low := bitsOf t.val 0 4
  let unit := unitOf (bitsOf word 56 8)
  let fits (f : Flit) : Bool := if t.code == causeQueue then decide (8 ≤ low) || f.kind == low else f.fmt == low
  let pick (n : Nat) (fs : List Flit) : Option (Nat × Flit) := ((fs.take 2).find? fits).map fun f => (n, f)
  if !([causeQueue, causeFmtTag, causeFmtMode].contains t.code) || bitsOf t.val 4 4 != 0 then none
  else
    match bitsOf t.val 11 53 with
    | 0 => pick (bitsOf t.val 8 3) (c.queue (bitsOf t.val 8 3))
    | 1 => if unit = 5 then pick 0 c.lattice.inq else none
    | 2 => if unit = 4 then pick 0 c.tensor.gangq else none
    | _ => none

/-- What the fault record of a fatal trap says beside the place (08 R288). -/
def trapFault (c : Core) (t : TrapInfo) (pc : BitVec 16) (spec : Bool) (word : Word) : FaultInfo :=
  let at_ := flitConcerned c t word
  { cause := t.code.toNat, unit := unitOf (bitsOf word 56 8), spec, sub := t.sub.toNat,
    task := (c.task.map (·.origin.toNat)).getD 0, pc := pc.toNat, val := t.val, opnd := word
    tag := (at_.map (·.2.tag.toNat)).getD 0, qn := (at_.map (·.1)).getD 0, fmt := (at_.map (·.2.fmt)).getD 0
    kind := (at_.map (·.2.kind)).getD 0 }

/-- TakeTrap of 05 R176 at core lid: the trap of the instruction word at pc. -/
def takeTrap (s : State) (lid : Nat) (t : TrapInfo) (pc : BitVec 16) (spec : Bool) (word : Word) : State :=
  let c := s.core lid
  if trapFatal c t.code then freezeAt s lid (trapFault c t pc spec word)
  else
    let s := s.leaveScalar lid pc
    s.setCore lid ((s.core lid).enterTrap t pc spec)

/-! ## One instruction as a computation -/

/-- The ways an instruction stops before it completes. trap: with the queue pops made so far standing (05 R176). wait: a
wait of 05 R169, the instruction without effect. pipe: a stall on the core's own pipeline, which no count ends. hold: a
wait of a step of a multi-step instruction, the steps before it standing. keep: a stall of such a step that no count
ends. page: a translation stall of the scalar path
(07 R242). turn: a load of a hot line whose turn at the engine is another's (12 R386). -/
inductive Stop where
  | trap (t : TrapInfo)
  | trapAt (t : TrapInfo) (pc : BitVec 16)
  | wait (val : Word)
  | pipe
  | hold (val : Word)
  | keep
  | page (cause : BitVec 8) (va : Nat) (write : Bool) (val : Word)
  | turn (home a : Nat)
  deriving DecidableEq, Repr

/-- What an instruction does to the PC when it retires: the next word, a target, nothing (it has set the
PC), the predicted target of a collective branch, or the word a trap handler returns to, which continues at a step when
it is a multi-step instruction. -/
inductive Next where
  | seq
  | goto (pc : BitVec 16)
  | fork (pc : BitVec 16)
  | keep
  | resume (pc : BitVec 16) (steps : Nat)
  deriving DecidableEq, Repr

/-- A computation of one instruction over the module's state. -/
abbrev Op (α : Type) := EStateM Stop State α

/-- The executing core. -/
def getMe : Op Core := do return (← get).me

/-- The executing core changed. -/
def modMe (f : Core → Core) : Op Unit := modify fun s => s.setMe (f s.me)

/-- A trap with SUB 0. -/
def trapWith {α : Type} (code : BitVec 8) (val : Word) : Op α := throw (.trap { code, val, sub := 0 })

/-- A wait of 05 R169 unless a condition holds. -/
def waitUnless (ok : Bool) (val : Word) : Op Unit := if ok then pure () else throw (.wait val)

/-- TRAP_VAL of a wait of a class, with a queue or channel in bits 10:8 and owner bits from 16 up (05 R169). -/
def waitVal (cls sel : Nat) (owner : Nat := 0) : Word := BitVec.ofNat 64 (cls + sel * 2 ^ 8 + owner * 2 ^ 16)

/-- The PC of the word that executes: the body word of a running repeat buffer, or PC (05 R173). -/
def Core.execPc (c : Core) (inRpt : Bool) : BitVec 16 :=
  match inRpt, c.rpt with
  | true, some r => r.body + BitVec.ofNat 16 (8 * r.idx)
  | _, _ => c.pc

/-- The repeat buffer after the body word at its position has issued (05 R170). -/
def Rpt.advance (r : Rpt) : Option Rpt :=
  if r.idx + 1 < r.words.length then some { r with idx := r.idx + 1 }
  else if r.left = 0 then none
  else some { r with idx := 0, left := r.left - 1 }

/-- One more instruction issued on a speculative path (11 R366). -/
def Spec.counted (sp : Spec) : Spec := { sp with count := sp.count + 1 }

/-- The core after an instruction completed: its wait is over, and the PC or the repeat buffer moves on. The PC has 16 bits: behind the
word at 0xFFF8 comes LOC 0, DESIGN CHOICE (log 73), since 03 R80 does not say what follows it. Unsafe where hardware traps there. -/
def Core.retire (c : Core) (inRpt : Bool) (n : Next) : Core :=
  let c :=
    match n with
    | .fork _ => c
    | _ => { c with spec := c.spec.map Spec.counted }
  if inRpt then { c with rpt := c.rpt.bind (·.advance), rptWait := none, rptProgress := 0, rptIssued := false }
  else
    { c with
      pc := match n with
        | .seq => c.pc + 8
        | .goto pc => pc
        | .fork pc => pc
        | .keep => c.pc
        | .resume pc _ => pc
      wait := none
      issued := false
      progress := match n with
        | .resume _ steps => steps
        | _ => 0 }

/-- A wait noted: one execution of an instruction is one wait, from the cycle in which it first stalls; a step that
follows a completed step starts a new one (05 R169; 09 R307). -/
def Core.noteWait (c : Core) (inRpt : Bool) (now : Nat) (val : Word) (timed fresh : Bool) : Core :=
  let old := if inRpt then c.rptWait else c.wait
  let start := match old with
    | some w => if fresh || !w.timed then now else w.start
    | none => now
  let w : Wait := { start, val, timed }
  if inRpt then { c with rptWait := some w } else { c with wait := some w }

/-- The module with the executing instruction noted as issued: its guard is read once (03 R82). -/
def State.markIssued (s : State) : State :=
  s.setMe (if s.inRpt then { s.me with rptIssued := true } else { s.me with issued := true })

/-- Whether the executing instruction has issued before and stalled since. -/
def State.hasIssued (s : State) : Bool := if s.inRpt then s.me.rptIssued else s.me.issued

/-- The progress of the instruction that executes: steps of a multi-step instruction that stand (09 R307). -/
def State.progress (s : State) : Nat := if s.inRpt then s.me.rptProgress else s.me.progress

/-- The progress set. -/
def setProgress (n : Nat) : Op Unit := do
  if (← get).inRpt then modMe fun c => { c with rptProgress := n } else modMe fun c => { c with progress := n }

/-- A scalar access stalls on a translation: the stall is noted, no count of a wait runs meanwhile, and at the first such stall a
report goes to the region's fault domain (07 R242). -/
def beginStall (s : State) (cause : BitVec 8) (va : Nat) (write : Bool) (val : Word) (word : Word) : State :=
  let c := s.me
  let now := s.cycle.toNat
  if s.scalarStalls.any (·.lid == s.cur) then s
  else
    let f : FaultInfo :=
      { cause := cause.toNat, unit := 2, stall := true, task := (c.task.map (·.origin.toNat)).getD 0
        pc := (c.execPc s.inRpt).toNat, eng := s.portOf s.cur, val, opnd := word }
    let report := ((s.regionOf s.cur).map fun r => faultRecord s r s.cur f).getD []
    let untimed : Wait := { start := now, val := 0, timed := false }
    let c' := if s.inRpt then { c with rptWait := some untimed } else { c with wait := some untimed }
    let s' := { s.setMe c' with scalarStalls := s.scalarStalls ++
      [{ lid := s.cur, stall := { cause, va, write, start := now, lastTry := now, drained := false }, report }] }
    match s.regionOf s.cur with
    | none => s'
    | some r => reportFault s' r report

/-- A trap of an instruction, taken at once, or deferred on a speculative path, where the core waits for the outcome (11 R370,
R371). -/
def deliverTrap (s : State) (t : TrapInfo) (pc : BitVec 16) (word : Word) : State :=
  let c := s.me
  match c.spec with
  | some sp =>
    s.setMe ({ c with spec := some { sp with deferred := some (t, pc) } }.noteWait s.inRpt s.cycle.toNat (waitVal 7 sp.ch) true
      false)
  | none => takeTrap s s.cur t pc false word

/-- Whether a body word of a core's repeat buffer is between two of its steps, or has pushed one half of a lattice block (09 R307; 10
R335). -/
def Core.midBody (c : Core) : Bool := c.rpt.isSome && (c.rptProgress != 0 || !c.lattice.rest.isEmpty)

/-- Whether a scalar instruction executes while a body word of the repeat buffer is between two of its steps. -/
def State.midBody (s : State) : Bool := !s.inRpt && s.me.midBody

/-- The request of the executing instruction's load of a hot line, by the PC of its word (12 R385). -/
def State.loadReq (s : State) (home a : Nat) : AtomReq :=
  { op := 0, home, addr := a, width := 0, b := (s.me.execPc s.inRpt).setWidth 64, c := BitVec.ofNat 64 (bit s.inRpt),
    dNonzero := false, ft := 0, exc := false, ftz := false, pass := 0 }

/-- A plain access of core lid pending at the engine of its home's cluster; one that is already there keeps its passes (12 R385,
R386). -/
def State.askTurn (s : State) (lid : Nat) (r : AtomReq) : State :=
  let e := s.cluster (clusterOf r.home)
  if (Table.find e.plain lid).map (fun q => { q with pass := 0 }) = some r then s
  else s.setCluster (clusterOf r.home) { e with plain := Table.put lid r e.plain }

/-- What the run of an instruction's computation makes of the module (05 R169, R176). s0 is the state before it. A trap of a scalar
instruction waits while a body word of the repeat buffer is between two of its steps: it stops the buffer between two issues
(05 R173). A load of a hot line whose turn is another's becomes a request of its own (12 R385). A translation stall keeps what the access did to its engine, which it woke (07 R246). -/
def finish (s0 : State) (word : Word) : EStateM.Result Stop State Next → Host.Outcome State Fault Refusal
  | .ok n s => .next (s.setMe (s.me.retire s.inRpt n))
  | .error (.trap t) s => .next (if s0.midBody then s0 else deliverTrap s t (s.me.execPc s.inRpt) word)
  | .error (.trapAt t pc) s => .next (if s0.midBody then s0 else deliverTrap s t pc word)
  | .error (.wait val) _ => .next (s0.setMe (s0.me.noteWait s0.inRpt s0.cycle.toNat val true false))
  | .error .pipe _ => .next s0
  | .error .keep s => .next s.markIssued
  | .error (.hold val) s =>
    let s' := s.markIssued
    .next (s'.setMe (s'.me.noteWait s.inRpt s.cycle.toNat val true (s.progress != s0.progress)))
  | .error (.turn home a) _ => .next (s0.askTurn s0.cur (s0.loadReq home a))
  | .error (.page cause va write val) s => .next (beginStall { s0 with brims := s.brims } cause va write val word)

/-! ## The checks before an instruction (03 R101-R107; 05 R172; 11 R366, R367) -/

/-- Whether an element-type code is fp16, bf16, fp32 or bx (03 R85, R106). -/
def fpType (t : Nat) : Bool := decide (6 ≤ t) && decide (t ≤ 9)

/-- The FEAT bit of the feature an instruction word belongs to (03 R106). -/
def featureOf (w : Word) : Option Nat :=
  let op := bitsOf w 56 8
  if 0x90 ≤ op ∧ op ≤ 0x9D then some 0
  else if 0xA0 ≤ op ∧ op ≤ 0xA8 then some 1
  else if 0xC0 ≤ op ∧ op ≤ 0xCE then some 3
  else if op = 0x27 then some 2
  else if [0x53, 0x54, 0x55, 0x56, 0x57, 0x58, 0x59, 0x5A].contains op then some 2
  else if op = 0x52 then if fpType (bitsOf w 20 4) || fpType (bitsOf w 0 4) then some 2 else none
  else if 0x40 ≤ op ∧ op ≤ 0x6A ∧ !([0x61, 0x62, 0x63, 0x64].contains op) then
    if fpType (bitsOf w 20 4) then some 2 else none
  else none

/-- The opcodes that execute only at supervisor privilege (03 R101). -/
def supervisorOnly (op : Nat) : Bool := [0x7A, 0x7B, 0x87, 0x88, 0x89, 0xBA, 0xD0, 0xD8, 0xD9].contains op

/-- The guard of a word (03 R82). -/
def guardHolds (c : Core) (w : Word) : Bool :=
  let g := bitsOf w 52 4
  if g < 8 then c.flag g else !c.flag (g - 8)

/-- Whether a register kind lists q0-q7 (03 R83). -/
def kindCanQueue : RegKind → Bool
  | .scalar => true
  | .vector => true
  | .queue => true
  | .queueOr0 => true
  | .latSink => true
  | _ => false

/-- Whether a D, A, B or C field that an instruction reads names a queue (03 R83). -/
def namesQueue (i : Instr) (w : Word) : Bool :=
  match i.shape with
  | none => false
  | some sh =>
    let q (k : RegKind) (v : Nat) : Bool := kindCanQueue k && decide (24 ≤ v)
    q sh.d (bitsOf w 47 5) || q sh.a (bitsOf w 42 5) || q sh.b (bitsOf w 37 5) || q sh.c (bitsOf w 32 5)

/-- The stall points of speculation (11 R367). -/
def specStalls (i : Instr) (w : Word) : Bool :=
  let op := bitsOf w 56 8
  (decide (0x2F ≤ op) && decide (op ≤ 0x33)) || [0x35, 0x37, 0x38, 0x39].contains op
    || (op == 0x34 && bitsOf w 0 16 == 0x200) || decide (0x70 ≤ op) || namesQueue i w

/-- Whether an instruction makes accesses of its core that a field naming a queue does not show: LOC accesses of the lane unit and the
tensor macro, and pops of the gang queue and the lattice input queue, whose field A is 0 (04 R124, R137, R141; 09 R306). -/
def hasAccess : Instr → Bool
  | .vld _ => true
  | .vst _ => true
  | .vldq _ => true
  | .vstq _ => true
  | .tldb _ => true
  | .tmacl _ => true
  | .tlda _ => true
  | .tsta _ => true
  | .tmacq x => x.a == 0
  | .lrun x => x.a == 0
  | _ => false

/-- Whether the body of a running repeat buffer holds an access to LOC or a field that names a queue (05 R172; 04 R137). -/
def Rpt.touches (r : Rpt) : Bool :=
  r.words.any fun w =>
    match pickInstr w with
    | some i => hasAccess i || namesQueue i w
    | none => false

/-- The scalar registers, flags and lane registers that an instruction may read and may write (06 R207). -/
structure Uses where
  regsRead : List Nat
  regsWritten : List Nat
  flagsRead : List Nat
  flagsWritten : List Nat
  vregsRead : List Nat
  vregsWritten : List Nat
  deriving DecidableEq, Repr

/-- The register that a field names, where its kind is one of the scalar registers; s0 is never written. -/
def scalarIn (k : RegKind) (v : Nat) : List Nat :=
  if (k == .scalar || k == .scalarReg || k == .base) && decide (1 ≤ v) && decide (v < 24) then [v] else []

/-- Whether a register kind is Vector (03 R83). -/
def kindVector : RegKind → Bool
  | .vector => true
  | .vectorReg => true
  | .vectorOnly => true
  | _ => false

/-- The lane register that a field names; in a body word, whose iterations step it, any of v0 to v15 (05 R170). -/
def vectorIn (body : Bool) (k : RegKind) (v : Nat) : List Nat :=
  if kindVector k && decide (v < 24) then if body && decide (v < 16) then List.range 16 else [v] else []

/-- The flag that a guard, or a field, names; f0 is never written. -/
def flagIn (v : Nat) : List Nat := if v % 8 = 0 then [] else [v % 8]

/-- What an instruction may read and write: its register fields, D counted both ways, the base of a post-update, its guard, and
the flag of a compare (03 R82-R84, R86, R87, R90). body says that it is a word of a repeat buffer. -/
def usesOf (body : Bool) (i : Instr) (w : Word) : Uses :=
  match i.shape with
  | none => ⟨[], [], [], [], [], []⟩
  | some sh =>
    let op := bitsOf w 56 8
    let d := scalarIn sh.d (bitsOf w 47 5)
    let a := scalarIn sh.a (bitsOf w 42 5)
    let memory := (decide (0x2D ≤ op) && decide (op ≤ 0x32)) || (decide (0x61 ≤ op) && decide (op ≤ 0x64))
    let lane := decide (0x40 ≤ op) && decide (op ≤ 0x6A)
    let f (k : RegKind) (v : Nat) : List Nat := if k = .flag then flagIn v else []
    let named := f sh.d (bitsOf w 47 5) ++ f sh.c (bitsOf w 32 5)
    let v := vectorIn body
    let vd := v sh.d (bitsOf w 47 5)
    let fd := match i with
      | .cmpi _ => bitsOf w 39 3
      | _ => if sh.x.contains (25, 23) then bitsOf w 23 3 else 0
    { regsRead := d ++ a ++ scalarIn sh.b (bitsOf w 37 5) ++ scalarIn sh.c (bitsOf w 32 5)
      regsWritten := d ++ if memory && bitsOf w 27 2 == 2 then a else []
      flagsRead := flagIn (bitsOf w 52 4) ++ if lane then [] else named
      flagsWritten := flagIn fd ++ if lane then named else []
      vregsRead := vd ++ v sh.a (bitsOf w 42 5) ++ v sh.b (bitsOf w 37 5) ++ v sh.c (bitsOf w 32 5)
      vregsWritten := vd }

/-- Whether two lists share a number. -/
def share (xs ys : List Nat) : Bool := xs.any ys.contains

/-- Whether an instruction reads what an earlier one writes, or writes what it reads or writes. -/
def Uses.clash (earlier later : Uses) : Bool :=
  share earlier.regsWritten (later.regsRead ++ later.regsWritten) || share earlier.regsRead later.regsWritten
    || share earlier.flagsWritten (later.flagsRead ++ later.flagsWritten) || share earlier.flagsRead later.flagsWritten
    || share earlier.vregsWritten (later.vregsRead ++ later.vregsWritten) || share earlier.vregsRead later.vregsWritten

/-- What the body words that a repeat buffer has still to issue read and write. -/
def Rpt.uses (r : Rpt) : List Uses :=
  (if r.left = 0 then r.words.drop r.idx else r.words).filterMap fun w => (pickInstr w).map (usesOf true · w)

/-- Whether a body word that has still to issue writes the flag of a word's guard (06 R207). -/
def Rpt.writesGuard (r : Rpt) (w : Word) : Bool := r.uses.any fun u => share u.flagsWritten (flagIn (bitsOf w 52 4))

/-- The control registers whose value body words may change: MODE and FP_FLAGS, FLAGS, RPT_STATE, RPT_WORD, PREDS, EXLOG (04 R133;
05 R172). -/
def csrAwaitsBody (addr : Nat) : Bool := [0x10, 0x11, 0x12, 0x25, 0x26, 0x200, 0x211].contains addr

/-- The control registers whose writing body words would see, which takes effect for what comes after it in program order: MODE,
FP_FLAGS, FLAGS, WAIT_LIMIT, the SPILL registers, STATUS, TRAP_VEC, RPT_STATE, RPT_WORD, PREDS, LBND, BANKWAIT (04 R129, R133; 05
R172). -/
def csrMeetsBody (addr : Nat) : Bool :=
  [0x10, 0x11, 0x12, 0x13, 0x18, 0x19, 0x1A, 0x20, 0x24, 0x25, 0x26, 0x200, 0x231, 0x260].contains addr

/-- The scalar instructions that wait for the repeat buffer to finish: those of 05 R172, 06 R199, 14 R446 and R448; a csrr or csrw of
a register that its body words change or see; a barrier arrival and the taking of its result, a release and an acquire (11 R364); and
one that a body word still to issue meets in a register or flag (06 R207). rtget, whose entry no body word changes, does not wait.
Beyond the list of R172: DEDUCED (log 85). Unsafe for a claim that such an instruction goes ahead of the body. -/
def rptStalls (r : Rpt) (i : Instr) (w : Word) : Bool :=
  let op := bitsOf w 56 8
  r.writesGuard w || (decide (0x40 ≤ op) && decide (op ≤ 0x6A)) || (decide (0x90 ≤ op) && decide (op ≤ 0xA8))
    || [0x36, 0x38, 0x3D, 0xD9, 0xDB].contains op
    || (op == 0x34 && csrAwaitsBody (bitsOf w 0 16)) || (op == 0x35 && csrMeetsBody (bitsOf w 0 16))
    || ((namesQueue i w || (decide (0x2D ≤ op) && decide (op ≤ 0x33))
        || (decide (0x70 ≤ op) && decide (op ≤ 0x8C) && op != 0x86)
        || (decide (0xB0 ≤ op) && decide (op ≤ 0xD4))) && r.touches)
    || r.uses.any (·.clash (usesOf false i w))

/-- The checks of 03 R103 after decoding, and what keeps a word from issuing; answers whether its guard holds. The guard is read
when the instruction issues, and not again while it stalls (03 R82). The checks come before the limit of 64 instructions on a
speculative path: DESIGN CHOICE (log 72). Unsafe for the 65th word of a path that fails one. -/
def checks (w : Word) : Op Bool := do
  let s ← get
  let c := s.me
  match featureOf w with
  | some f => if !c.dcl.getLsbD f then trapWith causeFeature w
  | none => pure ()
  if supervisorOnly (bitsOf w 56 8) && !c.prv then trapWith causePrivilege w
  if s.hasIssued then return true
  match c.spec with
  | some sp => if 64 ≤ sp.count then throw (.wait (waitVal 7 sp.ch))
  | none => pure ()
  match c.rpt with
  | some r => if !s.inRpt && r.writesGuard w then throw .pipe
  | none => pure ()
  return guardHolds c w

/-- The stalls that come before an instruction's operands (05 R172; 06 R207; 11 R367). -/
def stalls (i : Instr) (w : Word) : Op Unit := do
  let s ← get
  let c := s.me
  match c.spec with
  | some sp => if specStalls i w then throw (.wait (waitVal 7 sp.ch))
  | none => pure ()
  match c.rpt with
  | some r => if !s.inRpt && rptStalls r i w then throw .pipe
  | none => pure ()

/-- An instruction issued: the checks, then the stalls and its body where the guard holds; an instruction whose guard is false has
no effect (03 R104). -/
def issue (i : Instr) (body : Op Next) (s : State) : Host.Outcome State Fault Refusal :=
  if coreCount ≤ s.cur then .fault .noSuchUnit
  else
    let w := i.word?.getD 0
    match (checks w).run s with
    | .ok true _ => finish s.markIssued w ((do stalls i w; body).run s)
    | .ok false s' => finish s w (.ok .seq s')
    | .error e s' => finish s w (.error e s')

/-- An instruction issued whose effect leaves the PC to the next word. -/
def issueSeq (i : Instr) (body : Op Unit) (s : State) : Host.Outcome State Fault Refusal :=
  issue i (do body; return .seq) s

end Sys2Proof.Machine
end

