-- ==== Sys2Proof/Machine/Access.lean ====
section
/-! DEFINITION. The accesses of a core to LOC, CLU and EXT: alignment, range, spill redirection, bank gating, the store
buffer with its forwarding, held stores, poison, acquire and release (04; 11 R366; 14 R439; 15 R460). -/

namespace Sys2Proof.Machine

/-! ## LOC as its home (04 R135) -/

/-- The word of a core's LOC at an 8-byte aligned address. -/
def Core.locWord (c : Core) (a : Nat) : Word := BitVec.ofNat 64 (natOfBytes (cellsAt c.loc a 8))

/-- The word at address a noted as one that a fetch may still return (03 R80). -/
def Core.noteOld (c : Core) (a : Nat) : Core :=
  if a < c.codeLim then
    let old := Table.get [] c.oldWords a
    if old.contains (c.locWord a) then c else { c with oldWords := Table.set [] a (c.locWord a :: old) c.oldWords }
  else c

/-- Bytes written into a core's LOC: code words overwritten may still be fetched until the core discards them, and a word
written whole is no longer poisoned (15 R460). -/
def Core.writeLoc (c : Core) (a : Nat) (bytes : List Byte) : Core :=
  let first := a / 8
  let last := (a + bytes.length - 1) / 8
  let c := (List.range (last + 1 - first)).foldl (fun c k => c.noteOld (8 * (first + k))) c
  { c with
    loc := writeCells c.loc a bytes
    locPoison := c.locPoison.filter fun w => !(decide (a ≤ 8 * w) && decide (8 * w + 8 ≤ a + bytes.length)) }

/-- Whether a poisoned LOC word meets n bytes at a. -/
def Core.locPoisoned (c : Core) (a n : Nat) : Bool :=
  c.locPoison.any fun w => decide (w * 8 < a + n) && decide (a < w * 8 + 8)

/-! ## The store buffer (04 R138) -/

/-- The byte at an address of a core's LOC that the youngest entry of a store buffer holds, if one does. -/
def forwardByte (sb : List SbEntry) (lid a : Nat) : Option Byte :=
  sb.foldl (fun r e =>
    match e with
    | .store l b bytes => if l = lid ∧ b ≤ a ∧ a < b + bytes.length then bytes[a - b]? else r
    | .atomic .. => r) none

/-- Whether a buffered atomic meets n bytes at an address of a core's LOC. -/
def atomicPending (sb : List SbEntry) (lid a n : Nat) : Bool :=
  sb.any fun e =>
    match e with
    | .atomic _ l b w _ _ => l == lid && decide (b < a + n) && decide (a < b + w)
    | .store .. => false

/-- The bytes that a load of a core returns: for each the youngest buffered store, else its home (04 R136). -/
def loadBytes (s : State) (sb : List SbEntry) (lid a : Nat) : Nat → List Byte
  | 0 => []
  | n + 1 => (forwardByte sb lid a).getD (Table.get 0 (s.core lid).loc a) :: loadBytes s sb lid (a + 1) n

/-- Whether every byte of a load comes from the store buffer. -/
def allForwarded (sb : List SbEntry) (lid a n : Nat) : Bool :=
  (List.range n).all fun k => (forwardByte sb lid (a + k)).isSome

/-- The order in which two cores are compared: role ids in a DET region, else logical ids (01 R37). -/
def State.serveKey (s : State) (lid : Nat) : Nat :=
  match s.regionOf lid with
  | some r => if (s.core lid).det then r.roleOf lid else lid
  | none => lid

/-- Choose of 12 R386 among the ready requesters: the oldest promoted one, else the lowest. -/
def chooseReq (s : State) (promo ready : List Nat) : Option Nat :=
  match promo.find? ready.contains with
  | some l => some l
  | none => ready.foldl (fun b l =>
      match b with
      | none => some l
      | some m => if s.serveKey l < s.serveKey m then some l else some m) none

/-- The ready requests that were not chosen are passed over; at 64 passes one is promoted (12 R386; 01 R31). -/
def passOver (chosen : Nat) (ready : List Nat) (reqs : Table AtomReq) : Table AtomReq × List Nat :=
  let reqs' := reqs.map fun (l, r) => if ready.contains l && l != chosen then (l, { r with pass := r.pass + 1 }) else (l, r)
  (reqs', (reqs'.filter fun p => ready.contains p.1 && p.1 != chosen && p.2.pass == 64).map (·.1))

/-- Whether a requester's region lets its requests be performed (08 R287). -/
def State.serves (s : State) (lid : Nat) : Bool :=
  match s.regionOf lid with
  | some r => r.st == .live || r.st == .draining
  | none => false

/-- The line of a request: its home core and line number. -/
def AtomReq.line (r : AtomReq) : Nat × Nat := (r.home, r.addr / 64)

/-- Whether the region that holds a core is LIVE (14 R426). -/
def State.coreLive (s : State) (lid : Nat) : Bool :=
  match s.regionOf lid with
  | some r => r.st == .live
  | none => false

/-- Whether a core runs a task: its region is LIVE and the commit token has reached it (01 R40), it is not halted, it has a
task, and no translation stall holds it (07 R242). -/
def State.runsTask (s : State) (lid : Nat) : Bool :=
  let c := s.core lid
  s.coreLive lid && c.live && !c.halted && !c.runq.isEmpty && !s.scalarStalls.any (·.lid == lid)

/-- Whether a core may issue its next instruction: it runs a task, no deferred trap stops its path (11 R370), and the held stores of
a path that has committed have all entered the store buffer of 16 entries (04 R138; 11 R368): those beyond are still in the
speculative store buffer. A fault that it could raise comes before what was decided for its region in this cycle (14 R427). -/
def State.canIssue (s : State) (lid : Nat) : Bool :=
  let c := s.core lid
  s.runsTask lid && (s.regionOf lid).all (·.mayDecide s 1) && ((c.spec.map (fun sp => sp.deferred.isNone)).getD true) && decide (c.sb.length ≤ 16)

/-- Whether a core still makes the plain access of a request: its instruction stands at the same word, or its oldest buffered store
is the same. -/
def State.wants (s : State) (lid : Nat) (r : AtomReq) : Bool :=
  let c := s.core lid
  if r.op = 1 then
    match c.sb with
    | .store home a _ :: _ => home == r.home && a == r.addr
    | _ => false
  else
    let inRpt := r.c == 1
    s.canIssue lid && (if inRpt then c.rptIssued else c.issued) && (c.execPc inRpt).setWidth 64 == r.b

/-- The engine without the plain accesses that nobody makes any more. -/
def State.engine (s : State) (cl : Nat) : Cluster :=
  let e := s.cluster cl
  { e with plain := e.plain.filter fun p => s.wants p.1 p.2 }

/-- Whether an engine may perform a request now: its line is hot, and its core's region lets it (12 R386). -/
def lineReady (s : State) (e : Cluster) (p : Nat × AtomReq) : Bool := e.hot.contains p.2.line && s.serves p.1

/-- The cores whose line requests an engine may perform now, plain accesses among them: a core has one at a time (12 R385, R386). -/
def readyLines (s : State) (e : Cluster) : List Nat :=
  let lines := (e.lines.filter (lineReady s e)).map (·.1)
  lines ++ ((e.plain.filter fun p => lineReady s e p && (Table.find e.lines p.1).isNone).map (·.1))

/-- The engine once it has chosen the request of a core among the ready ones: the others are passed over (12 R386). -/
def Cluster.chosen (e : Cluster) (l : Nat) (ready : List Nat) : Cluster :=
  let (lines, up) := passOver l ready e.lines
  let (plain, up') := passOver l (ready.filter fun k => (Table.find e.lines k).isNone) e.plain
  { e with
    lines := Table.erase l lines, plain := Table.erase l plain, linePromo := e.linePromo.filter (· != l) ++ up ++ up' }

/-- The engine once it has served a line: that line is the latest served. -/
def Cluster.served (e : Cluster) (l : Nat × Nat) : Cluster :=
  if e.hot.contains l then { e with hot := e.hot.erase l ++ [l] } else e

/-- A plain access of core lid to a word of LOC of core home as a request to the engine while its line is hot: performed in the
engine's order, the ready requests beside it passed over; none where another request is served first, of this core's own too
(12 R385, R386). -/
def State.plainAccess (s : State) (lid home a : Nat) : Option State :=
  let cl := clusterOf home
  let e := s.engine cl
  if !e.hot.contains (home, a / 64) then some s
  else
    let ready := lid :: (readyLines s e).filter (· != lid)
    if (Table.find e.lines lid).isNone && chooseReq s e.linePromo ready == some lid then
      some (s.setCluster cl ((e.chosen lid ready).served (home, a / 64)))
    else none

/-- A load of n bytes at their home in LOC of core lid; val is the TRAP_VAL of a poisoned word (15 R460). -/
def homeLoad (lid a n : Nat) (val : Word) : Op (List Byte) := do
  let s ← get
  let c := s.me
  if atomicPending c.sb lid a n then throw .pipe
  if (s.core lid).locPoisoned a n && !allForwarded c.sb lid a n then trapWith causePoison val
  let bytes := loadBytes s c.sb lid a n
  if allForwarded c.sb lid a n then return bytes
  match s.plainAccess s.cur lid a with
  | some s' =>
    set s'
    return bytes
  | none => throw (.turn lid a)

/-- The youngest held store of a speculative path that meets n bytes at a. -/
def heldOver (held : List (Nat × List Byte)) (a n : Nat) : Option (Nat × List Byte) :=
  held.reverse.find? fun h => decide (h.1 < a + n) && decide (a < h.1 + h.2.length)

/-- Bank b of LOC is address bits 15:13; an access to a gated bank waits (14 R439). -/
def bankGate (a : Nat) : Op Unit := do
  let c ← getMe
  waitUnless (!c.bankWait.getLsbD (a / 8192)) (waitVal 6 0 (a / 8192))

/-- A load of the core's own LOC that lies in range, within one bank (04 R136, R138; 11 R366; 14 R439). -/
def locLoad (a n : Nat) (val : Word) : Op (List Byte) := do
  bankGate a
  let s ← get
  match s.me.spec with
  | none => homeLoad s.cur a n val
  | some sp =>
    match heldOver sp.held a n with
    | none => homeLoad s.cur a n val
    | some (b, bytes) =>
      if b ≤ a ∧ a + n ≤ b + bytes.length then return (bytes.drop (a - b)).take n
      else throw (.wait (waitVal 7 sp.ch))

/-- An entry put into the store buffer; a full buffer stalls the core (04 R138). -/
def pushSb (e : SbEntry) : Op Unit := do
  let c ← getMe
  if 16 ≤ c.sb.length then throw .pipe
  modMe fun c => { c with sb := c.sb ++ [e] }

/-- A store to the core's own LOC that lies in range, within one bank: into the store buffer, or held on a speculative
path (04 R138; 11 R366). -/
def locStore (a : Nat) (bytes : List Byte) : Op Unit := do
  bankGate a
  let s ← get
  match s.me.spec with
  | none => pushSb (.store s.cur a bytes)
  | some sp =>
    if 32 ≤ sp.held.length then throw (.wait (waitVal 7 sp.ch))
    modMe fun c => { c with spec := some { sp with held := sp.held ++ [(a, bytes)] } }

/-! ## EXT through the slow scalar path (04 R132; 07 R233, R241, R242) -/

/-- The physical address of a scalar access to EXT; val is its TRAP_VAL (07 R241). -/
def extXlate (va : Int) (write : Bool) (val : Word) : Op Nat := do
  if va < 0 ∨ 2 ^ 57 ≤ va then trapWith causeTranslation val
  let s ← get
  let (job, root) := match s.regionOf s.cur with
    | some r => (r.job, s.rootOf r)
    | none => (0, 0)
  if s.frozenPage job va.toNat 1 then throw (.wait (waitVal 6 0))
  let (r, s') := scalarXlate s (s.portOf s.cur) job root va.toNat write
  set s'
  match r with
  | .leaf pa _ _ => return pa
  | .protection => trapWith causeProtection val
  | .poison => trapWith causePoison val
  | .notPresent => throw (.page causeTranslation va.toNat write val)

/-- A load of n bytes from EXT. -/
def extLoad (va : Int) (n : Nat) (val : Word) : Op (List Byte) := do
  let pa ← extXlate va false val
  match extRead (← get) pa n with
  | some b => return b
  | none => trapWith causePoison val

/-- A store of bytes to EXT. -/
def extStore (va : Int) (bytes : List Byte) (val : Word) : Op Unit := do
  let pa ← extXlate va true val
  match extWrite (← get) pa bytes with
  | some s => set s
  | none => trapWith causePoison val

/-! ## Effective addresses of LOC accesses (04 R125, R127, R128) -/

/-- Where an ldl, stl, vld or vst address leads. -/
inductive Target where
  | loc (a : Nat)
  | ext (va : Int)
  deriving DecidableEq, Repr

/-- The alignment check (04 R125): TRAP_VAL is the effective address. -/
def checkAlign (ea : Int) (n : Nat) : Op Unit :=
  if ea % n = 0 then pure () else trapWith causeAlign (trunc 64 ea)

/-- The range of LOC and the redirection of the spill area; a redirected access stalls on a speculative path (04 R127,
R128; 05 R179). -/
def resolveLoc (ea : Int) : Op Target := do
  let c ← getMe
  let lim : Int := c.spillLim.toNat * 8
  if ea < 0 then trapWith causeLocRange (trunc 64 ea)
  if c.spillBase.toNat < c.spillLim.toNat ∧ lim ≤ ea ∧ ea < lim + 2 ^ 24 then
    if !c.spillOvf.getLsbD 0 then trapWith causeSpill (trunc 64 ea)
    match c.spec with
    | some sp => throw (.wait (waitVal 7 sp.ch))
    | none => pure ()
    return .ext ((bitsOf c.spillOvf 12 45 * 4096 : Nat) + (ea - lim))
  if 65536 ≤ ea then trapWith causeLocRange (trunc 64 ea)
  return .loc ea.toNat

/-- A load through a resolved address; val is the TRAP_VAL of its traps. -/
def loadAt (t : Target) (n : Nat) (val : Word) : Op (List Byte) :=
  match t with
  | .loc a => locLoad a n val
  | .ext va => extLoad va n val

/-- A store through a resolved address. -/
def storeAt (t : Target) (bytes : List Byte) (val : Word) : Op Unit :=
  match t with
  | .loc a => locStore a bytes
  | .ext va => extStore va bytes val

/-- One aligned load of at most 8 bytes at a LOC effective address: ldl and the accesses made as ldl (04 R128). -/
def ldlAt (ea : Int) (n : Nat) : Op (List Byte) := do
  checkAlign ea n
  let t ← resolveLoc ea
  loadAt t n (trunc 64 ea)

/-- One aligned store of at most 8 bytes at a LOC effective address. -/
def stlAt (ea : Int) (bytes : List Byte) : Op Unit := do
  checkAlign ea bytes.length
  let t ← resolveLoc ea
  storeAt t bytes (trunc 64 ea)

/-! ## CLU (04 R131) -/

/-- The core bound to role ci of the executing core's role cluster, unless that role lies outside the region or is an idle
role. -/
def clusterMate (s : State) (ci : Nat) : Option Nat :=
  match s.regionOf s.cur with
  | none => none
  | some r =>
    let role := r.roleOf s.cur
    let rx := role % r.w / 8 * 8 + ci % 8
    let ry := role / r.w / 8 * 8 + ci / 8
    if r.w ≤ rx ∨ r.h ≤ ry ∨ r.idle.contains (ry * r.w + rx) then none else r.bind[ry * r.w + rx]?

/-- The cluster index and LOC address of a CLU address, in STAY or SPREAD mode (04 R131). -/
def cluSplit (spread : Bool) (ea : Nat) : Nat × Nat :=
  if spread then (ea / 8 % 64, ea / 512 % 8192 * 8 + ea % 8) else (ea / 65536 % 64, ea % 65536)

/-- The home of an aligned CLU access. -/
def resolveClu (ea : Int) (spread : Bool) : Op (Nat × Nat) := do
  if ea < 0 ∨ 2 ^ 22 ≤ ea then trapWith causeCluRange (trunc 64 ea)
  let (ci, a) := cluSplit spread ea.toNat
  match clusterMate (← get) ci with
  | some lid => return (lid, a)
  | none => trapWith causeCluRange (trunc 64 ea)

/-! ## Acquire and release (04 R139-R142) -/

/-- Every acquire, release and fence discards the words fetched ahead (03 R80). -/
def discardFetched : Op Unit := modMe fun c => { c with oldWords := [] }

/-- Whether an entry of a store buffer is an access to LOC of core lid. -/
def SbEntry.isHome (e : SbEntry) (lid : Nat) : Bool :=
  match e with
  | .store l .. => l == lid
  | .atomic _ l .. => l == lid

/-- Whether a core has a cell operation that its engine has not acknowledged (12 R385). -/
def State.cellPending (s : State) (lid : Nat) : Bool :=
  (Table.find (s.cluster (clusterOf lid)).cellReqs lid).isSome

/-- The latest n frames that a port has sent were for a member's collective; numbers that they had before are forgotten. -/
def LinkPort.sentBy (p : LinkPort) (m : Member) (n : Nat) : LinkPort :=
  let now := (List.range n).map fun k => p.txNext - BitVec.ofNat 8 (k + 1)
  { p with sentFor := p.sentFor.filter (fun e => !now.contains e.1 && p.unacked.any fun f => f.extractLsb' 472 8 == e.1)
                        ++ now.map fun q => (q, m) }

/-- Whether a collective has still to send its partial, or its result (13 R407). -/
def Collective.sending (c : Collective) : Bool := c.fail.isNone && !c.sentUp && !c.sentDown

/-- Whether the link-edge sends of a core's collectives have been made, and their frames delivered (04 R139: SYSTEM; log 41). -/
def State.linksQuiet (s : State) (lid : Nat) : Bool :=
  match s.memberOf lid with
  | none => true
  | some m =>
    !(s.collectives.any fun c => c.2.who == m && c.2.sending)
      && s.ports.all fun p => p.2.unacked.all fun f => !p.2.sentFor.contains (f.extractLsb' 472 8, m)

/-- Whether a core holds no store of a speculative path, which is not performed before the path commits (04 R138; 11 R366). -/
def Core.holdsNone (c : Core) : Bool := (c.spec.map (·.held.isEmpty)).getD true

/-- Whether every earlier access of a core in the spaces of a scope is performed; EXT accesses perform at issue (04
R139, R140; log 3). -/
def State.scopePerformed (s : State) (lid scope : Nat) : Bool :=
  let c := s.core lid
  if scope = 0 then c.holdsNone && !c.sb.any (·.isHome lid)
  else c.holdsNone && c.sb.isEmpty && !s.cellPending lid && (scope != 4 || s.linksQuiet lid)

/-- A release at a scope: a wait of class 5 until its accesses are performed (04 R140; 05 R169). -/
def releaseAt (scope : Nat) : Op Unit := do
  let s ← get
  waitUnless (s.scopePerformed s.cur scope) (waitVal 5 0)
  discardFetched

/-- An acquire (04 R141): every access of the model is performed at issue or in order behind it. -/
def acquire : Op Unit := discardFetched

end Sys2Proof.Machine
end

