-- ==== Sys2Proof/Machine/Flags.lean ====
section
/-! DEFINITION. The sticky floating-point flags and the marks of tainted data: raising flags, their hold on a speculative
path, EXC, and EXLOG (02 R75-R78; 08 R285). -/

namespace Sys2Proof.Machine

def flagNX : BitVec 7 := 1
def flagUF : BitVec 7 := 2
def flagOF : BitVec 7 := 4
def flagDZ : BitVec 7 := 8
def flagNV : BitVec 7 := 16
def flagSA : BitVec 7 := 32
def flagEXC : BitVec 7 := 64

/-- Whether flags hold NV, DZ, OF or SA, each of which raises EXC (02 R75, R76). -/
def taints (f : BitVec 7) : Bool := f &&& (flagNV ||| flagDZ ||| flagOF ||| flagSA) != 0

/-- Flags with the EXC that they raise (02 R75). -/
def withExc (f : BitVec 7) : BitVec 7 := if taints f then f ||| flagEXC else f

/-- Flags ORed into FP_FLAGS, or held with a speculative path (02 R75, R78). -/
def Core.raiseFlags (c : Core) (f : BitVec 7) : Core :=
  match c.spec with
  | some sp => { c with spec := some { sp with flags := sp.flags ||| withExc f } }
  | none => { c with fpFlags := c.fpFlags ||| withExc f }

/-- Flags raised by the executing instruction. -/
def raise (f : BitVec 7) : Op Unit := modMe (·.raiseFlags f)

/-- An EXC event noted in EXLOG (08 R285): the count, and at the first event its tag, format, queue and path. -/
def logExc (log : Word) (f : Flit) (qn path : Nat) : Word :=
  let log := putBits log 48 16 (Nat.min 65535 (bitsOf log 48 16 + 1))
  if log.getLsbD 7 then log
  else
    putBits (putBits (putBits (putBits (putBits log 7 1 1) 0 7 f.tag.toNat) 44 4 f.fmt) 41 3 qn) 38 3 path

/-- A core after it consumed a flit: EXC enters FP_FLAGS and EXLOG, REL makes the pop an acquire (02 R76; 04 R141). -/
def Core.consume (c : Core) (f : Flit) (qn path : Nat) : Core :=
  let c := if f.exc then { c.raiseFlags flagEXC with router := { c.router with exlog := logExc c.router.exlog f qn path } }
    else c
  if f.rel then { c with oldWords := [] } else c

/-- A core after a flit was consumed apart from its instructions: what it raises is never held with a speculative path
(05 R165; 10 R341). -/
def Core.consumeNow (c : Core) (f : Flit) (qn path : Nat) : Core :=
  let c := if f.exc then
      { c with fpFlags := c.fpFlags ||| flagEXC, router := { c.router with exlog := logExc c.router.exlog f qn path } }
    else c
  if f.rel then { c with oldWords := [] } else c

end Sys2Proof.Machine
end

