-- ==== Sys2Proof/Machine/Operands.lean ====
section
/-! DEFINITION. The operand forms of every chapter: scalar and vector fields that name registers or queues, the checks of
a queue's head, pushes into the output queue, and effective addresses (03 R83-R84, R90; 05 R153, R154; 06 R202, R203;
02 R62; 08 R270). -/

namespace Sys2Proof.Machine

/-! ## Reading queues (05 R153; 02 R62) -/

/-- Whether an FMT code is a BX format, and whether it was sent in special mode (02 R60). -/
def isBx (fmt : Nat) : Bool := (decide (6 ≤ fmt) && decide (fmt ≤ 8)) || (decide (12 ≤ fmt) && decide (fmt ≤ 14))
def bxTec (fmt : Nat) : Bool := decide (12 ≤ fmt)

/-- The BX format, 0 BX4, 1 BX6, 2 BX8, of a BX FMT code (02 R60). -/
def bxKind (fmt : Nat) : Nat := 2 - (if bxTec fmt then fmt - 12 else fmt - 6)

/-- The FMT code of a BX format under a TEC setting (02 R60). -/
def bxFmt (kind : Nat) (tec : Bool) : Nat := (if tec then 14 else 8) - kind

/-- TRAP_VAL of a queue's protocol trap (05 R153): the KIND, bit 3 for a half-read flit, and the queue. -/
def queueVal (low n : Nat) : Word := BitVec.ofNat 64 (low + n * 2 ^ 8)

/-- The head flit of input queue n, waiting for one (05 R153, R169). -/
def headOf (n : Nat) : Op Flit := do
  match (← getMe).queue n with
  | f :: _ => return f
  | [] => throw (.wait (waitVal 1 n))

/-- The checks of a consumer other than a scalar read: the half mark, then KIND 0 (05 R153). -/
def checkData (f : Flit) (n : Nat) : Op Unit := do
  if (← getMe).half.getLsbD n then trapWith causeQueue (queueVal 8 n)
  if f.kind ≠ 0 then trapWith causeQueue (queueVal f.kind n)

/-- The format check of a consumer: a code it does not accept traps FORMAT_TAG, a BX code with the other TEC traps
FORMAT_MODE (02 R62). -/
def checkFmt (f : Flit) (n : Nat) (accepts : Nat → Bool) : Op Unit := do
  if !accepts f.fmt then trapWith causeFmtTag (queueVal f.fmt n)
  if isBx f.fmt && bxTec f.fmt != (← getMe).tec then trapWith causeFmtMode (queueVal f.fmt n)

/-- The head flit of queue n removed and consumed on a path of EXLOG (08 R285). -/
def popHead (n path : Nat) : Op Unit :=
  modMe fun c =>
    match c.queue n with
    | f :: rest => ({ c.setQueue n rest with half := putBits c.half n 1 0 }).consume f n path
    | [] => c

/-- A scalar read of qn (05 R153). -/
def popScalar (n : Nat) : Op Word := do
  let f ← headOf n
  if f.kind ≠ 0 then trapWith causeQueue (queueVal f.kind n)
  if isBx f.fmt then trapWith causeFmtTag (queueVal f.fmt n)
  if f.fmt = 0 then
    popHead n 0
    return f.payload.extractLsb' 0 64
  if (← getMe).half.getLsbD n then
    popHead n 0
    return f.payload.extractLsb' 64 64
  modMe fun c => { c with half := putBits c.half n 1 1 }
  return f.payload.extractLsb' 0 64

/-- A read of a Scalar field (03 R83). -/
def readS (r : BitVec 5) : Op Word := do
  if r.toNat < 24 then return (← getMe).reg r.toNat else popScalar (r.toNat - 24)

/-! ## Pushing (05 R154; 08 R270) -/

/-- The check of a push: its tag's own entry is valid and not a transit entry (08 R270). -/
def checkTag (tag : Nat) : Op Unit := do
  let c ← getMe
  if !(c.route tag).getLsbD 63 || decide (112 ≤ tag) then
    trapWith causeQueue (BitVec.ofNat 64 (2 ^ 6 + tag * 2 ^ 16))

/-- A wait for n free slots of the output queue, of class 2. Bits 10:8 of its TRAP_VAL are 0: DEDUCED, since the one output queue has
no number, though 05 R169 says that they give the queue and a write names qn (log 80). Unsafe: a handler could find n there. -/
def waitRoom (n : Nat) : Op Unit := do
  waitUnless (decide ((← getMe).router.outq.length + n ≤ 8)) (waitVal 2 0)

/-- Flits put into the output queue. -/
def pushFlits (fs : List Flit) : Op Unit :=
  modMe fun c => { c with router := { c.router with outq := c.router.outq ++ fs } }

/-- The output tag of queue register qn (08 R269). -/
def Core.qtag (c : Core) (n : Nat) : Nat := bitsOf c.router.qtags (8 * n) 7

/-- A W1 flit pushed through qn (05 R154). -/
def pushScalar (n : Nat) (v : Word) : Op Unit := do
  let c ← getMe
  checkTag (c.qtag n)
  waitRoom 1
  pushFlits [mkFlit 0 0 (c.fpFlagsRead.getLsbD 6) false 0 0 0 (BitVec.ofNat 7 (c.qtag n)) (v.setWidth 128)]

/-- A write of a Scalar field (03 R83; 05 R154). -/
def writeS (r : BitVec 5) (v : Word) : Op Unit :=
  if r.toNat < 24 then modMe (·.setReg r.toNat v) else pushScalar (r.toNat - 24) v

/-- Whether a destination field can take its result: a queue's tag is checked and n slots awaited, before the instruction
changes anything (05 R154, R176). -/
def destReady (r : BitVec 5) (n : Nat) : Op Unit := do
  if 24 ≤ r.toNat then
    checkTag ((← getMe).qtag (r.toNat - 24))
    waitRoom n

/-- The value of a Base or index field, which never names a queue (03 R83). -/
def readBase (r : BitVec 5) : Op Word := do return (← getMe).reg r.toNat

/-! ## Vector fields (06 R202, R203) -/

/-- The FMT codes that a vector read accepts (06 R202). -/
def vecAccepts (bx : Bool) (fmt : Nat) : Bool :=
  if bx then isBx fmt else (decide (1 ≤ fmt) && decide (fmt ≤ 5)) || fmt == 9 || fmt == 10

/-- The half tag that a flit gives the register half it fills (06 R197). -/
def halfTagOf (f : Flit) : BitVec 36 := BitVec.ofNat 4 f.fmt ++ f.scale

/-- A vector read of qn: both flits are checked before either is removed (06 R202). All checks of the earlier flit come before any of
the later one: DESIGN CHOICE, R202 gives no order between them (log 82). Unsafe: the cause is another where the two flits fail
different checks. -/
def popVector (n : Nat) (bx : Bool) : Op (Vec × BitVec 72) := do
  match (← getMe).queue n with
  | f :: g :: _ =>
    for h in [f, g] do
      checkData h n
      checkFmt h n (vecAccepts bx)
    popHead n 0
    popHead n 0
    return (g.payload ++ f.payload, if bx then halfTagOf g ++ halfTagOf f else 0)
  | _ => throw (.wait (waitVal 1 n))

/-- A read of a Vector field with its half tags. -/
def readV (r : BitVec 5) (bx : Bool) : Op (Vec × BitVec 72) := do
  if r.toNat < 24 then
    let c ← getMe
    return (c.vreg r.toNat, c.vtag r.toNat)
  else popVector (r.toNat - 24) bx

/-- The payload of a flit with the bits that its BX format leaves unused zero (02 R53; 08 R265). -/
def bxPayload (fmt : Nat) (payload : Quad) : Quad := if bxKind fmt = 1 then payload &&& BitVec.ofNat 128 (2 ^ 96 - 1) else payload

/-- SCALE of a BX flit with its unused bytes zero: only BX4 has a second block (02 R53). -/
def bxScale (fmt : Nat) (scale : BitVec 32) : BitVec 32 := if bxKind fmt = 0 then scale else scale &&& 0xFFFF0000

/-- A vector pushed through qn as two flits of an FMT with SCALE 0, or as BX halves under their tags, whose FMT is the half tag's
(06 R203). FORMAT_TAG comes before QUEUE_PROTOCOL of the tag, and both before the wait for two slots: DESIGN CHOICE, 06 R203 and 08 R270
put both only before anything is pushed (log 83). Unsafe: a push that fails both checks, or fails one of them while the queue is full,
could end otherwise. -/
def pushVector (n : Nat) (v : Vec) (tags : BitVec 72) (fmt : Option Nat) : Op Unit := do
  let tag := (← getMe).qtag n
  if fmt.isNone then
    for h in [0, 1] do
      let code := bitsOf tags (36 * h + 32) 4
      if !isBx code then trapWith causeFmtTag (BitVec.ofNat 64 (code + h * 2 ^ 8 + 2 ^ 11))
  checkTag tag
  waitRoom 2
  let exc := (← getMe).fpFlagsRead.getLsbD 6
  let flit (h : Nat) : Flit :=
    let half : Quad := v.extractLsb' (128 * h) 128
    match fmt with
    | some code => mkFlit code 0 exc false 0 0 0 (BitVec.ofNat 7 tag) half
    | none =>
      let code := bitsOf tags (36 * h + 32) 4
      mkFlit code 0 exc false 0 0 (bxScale code (tags.extractLsb' (36 * h) 32)) (BitVec.ofNat 7 tag) (bxPayload code half)
  pushFlits [flit 0, flit 1]

/-- A write of a Vector field: fmt is the FMT of a queue's flits, none for type bx (06 R198, R203). -/
def writeV (r : BitVec 5) (v : Vec) (tags : BitVec 72) (fmt : Option Nat) : Op Unit :=
  if r.toNat < 24 then modMe (·.setVreg r.toNat v tags) else pushVector (r.toNat - 24) v tags fmt

/-! ## Effective addresses (03 R90) -/

/-- The effective address of form M on unbounded integers; B is the index's value (03 R90; 05 R187). -/
def mAddress (x : FormM) (a b : Word) (size : Nat) : Int :=
  if x.am = 1 then a.toInt + b.toInt * size + x.disp.toInt
  else if x.am = 2 then a.toInt
  else a.toInt + x.disp.toInt

/-- The base register after a post-updating access (03 R90). -/
def postUpdate (x : FormM) : Op Unit :=
  if x.am = 2 then modMe fun c => c.setReg x.a.toNat (c.reg x.a.toNat + x.disp.signExtend 64) else pure ()

end Sys2Proof.Machine
end

