-- ==== Sys2Proof/Machine/Scalar.lean ====
section
/-! DEFINITION. The integer instructions of the task engine (05 R181-R184; 02 R47, R48). -/

namespace Sys2Proof.Machine

/-! ## What the instructions compute -/

/-- Division and remainder of 02 R48 on integers: divisor zero, then truncation toward zero. -/
def quotient (w : Nat) (a b : Int) : Int := if b = 0 then -1 else Int.tdiv a b % 2 ^ w
def remainder (a b : Int) : Int := if b = 0 then a else Int.tmod a b

/-- The number of leading zero bits of n bits (05 R182). -/
def leadingZeros (v : Nat) : Nat → Nat
  | 0 => 0
  | n + 1 => if v / 2 ^ n % 2 = 1 then 0 else 1 + leadingZeros v n

/-- The number of trailing zero bits of n bits (05 R182). -/
def trailingZeros (v : Nat) : Nat → Nat
  | 0 => 0
  | n + 1 => if v % 2 = 1 then 0 else 1 + trailingZeros (v / 2) n

/-- The number of one bits of n bits (05 R182). -/
def oneBits (v : Nat) : Nat → Nat
  | 0 => 0
  | n + 1 => v % 2 + oneBits (v / 2) n

/-- The shifts and rotates of 05 R181 by a count. -/
def shiftLeft (a : Word) (n : Nat) : Word := if 64 ≤ n then 0 else a <<< n
def shiftRight (a : Word) (n : Nat) : Word := if 64 ≤ n then 0 else a >>> n
def shiftArith (a : Word) (n : Nat) : Word := a.sshiftRight (Nat.min n 63)
def rotateLeft (a : Word) (n : Nat) : Word := shiftLeft a (n % 64) ||| shiftRight a ((64 - n % 64) % 64)
def rotateRight (a : Word) (n : Nat) : Word := shiftRight a (n % 64) ||| shiftLeft a ((64 - n % 64) % 64)

/-- bext of 05 R183 on a source, an offset and a width. -/
def extractField (sx : Bool) (a ofs wid : Nat) : Word :=
  if wid = 0 ∨ 64 ≤ ofs then 0
  else
    let f : Nat := a / 2 ^ ofs % 2 ^ wid
    if sx ∧ 2 ^ (wid - 1) ≤ f then trunc 64 ((f : Int) - 2 ^ wid) else BitVec.ofNat 64 f

/-- bins of 05 R183: none when the destination is not written. -/
def insertField (d a ofs wid : Nat) : Option Word :=
  if wid = 0 ∨ 64 ≤ ofs then none
  else
    let w := Nat.min wid (64 - ofs)
    some (BitVec.ofNat 64 (d - d / 2 ^ ofs % 2 ^ w * 2 ^ ofs + a % 2 ^ w * 2 ^ ofs))

/-- The compare conditions of 05 R184 by SF. -/
def condition (sf : Nat) (a b : Word) : Bool :=
  match sf with
  | 0 => a == b
  | 1 => a != b
  | 2 => decide (a.toInt < b.toInt)
  | 3 => decide (a.toInt ≤ b.toInt)
  | 4 => decide (b.toInt < a.toInt)
  | 5 => decide (b.toInt ≤ a.toInt)
  | 6 => decide (a.toNat < b.toNat)
  | 7 => decide (a.toNat ≤ b.toNat)
  | 8 => decide (b.toNat < a.toNat)
  | 9 => decide (b.toNat ≤ a.toNat)
  | 10 => a &&& b != 0
  | _ => a &&& b == 0

/-- A truth value as a word. -/
def truth (b : Bool) : Word := if b then 1 else 0

/-! ## Shapes -/

/-- sD := f sA sB (05 R181). -/
def binary (i : Instr) (x : FormS3) (f : Word → Word → Word) : State → Host.Outcome State Fault Refusal :=
  issueSeq i do
    let a ← readS x.a
    let b ← readS x.b
    writeS x.d (f a b)

/-- sD := f sA (05 R182). -/
def unary (i : Instr) (x : FormS3) (f : Word → Word) : State → Host.Outcome State Fault Refusal :=
  issueSeq i do
    let a ← readS x.a
    writeS x.d (f a)

/-- sD := f sA and the sign-extended immediate (05 R182). -/
def immediate (i : Instr) (x : FormSI) (f : Word → Word → Word) : State → Host.Outcome State Fault Refusal :=
  issueSeq i do
    let a ← readS x.a
    writeS x.d (f a (x.imm.signExtend 64))

/-- A compare's truth written to sD and, where FD names one, to a flag (05 R184). -/
def writeTruth (d : BitVec 5) (fd : BitVec 3) (v : Bool) : Op Unit := do
  writeS d (truth v)
  modMe (·.setFlag fd.toNat v)

/-- ofs and wid of bext and bins: from AUX, or from sB where B names a register (05 R183). -/
def fieldOf (x : FormS3) : Op (Nat × Nat) := do
  if x.b = 0 then return (bitsOf x.aux 0 8, bitsOf x.aux 8 8)
  let b ← readS x.b
  return (bitsOf b 0 8, bitsOf b 8 8)

/-! ## The instructions -/

/-- add: the sum modulo 2^64 (05 R181). -/
def execAdd (x : FormS3) : State → Host.Outcome State Fault Refusal :=
  binary (.add x) x (fun a b => a + b)

/-- sub: the difference modulo 2^64 (05 R181). -/
def execSub (x : FormS3) : State → Host.Outcome State Fault Refusal :=
  binary (.sub x) x (fun a b => a - b)

/-- mul: the low 64 bits of the product (05 R181). -/
def execMul (x : FormS3) : State → Host.Outcome State Fault Refusal :=
  binary (.mul x) x (fun a b => a * b)

/-- mulh: the high 64 bits of the signed product (05 R181). -/
def execMulh (x : FormS3) : State → Host.Outcome State Fault Refusal :=
  binary (.mulh x) x (fun a b => trunc 64 (a.toInt * b.toInt / 2 ^ 64))

/-- mulhn: the high 64 bits of the natural product (05 R181). -/
def execMulhn (x : FormS3) : State → Host.Outcome State Fault Refusal :=
  binary (.mulhn x) x (fun a b => BitVec.ofNat 64 (a.toNat * b.toNat / 2 ^ 64))

/-- div: the signed quotient (05 R181). -/
def execDiv (x : FormS3) : State → Host.Outcome State Fault Refusal :=
  binary (.div x) x (fun a b => trunc 64 (quotient 64 a.toInt b.toInt))

/-- divn: the natural quotient (05 R181). -/
def execDivn (x : FormS3) : State → Host.Outcome State Fault Refusal :=
  binary (.divn x) x (fun a b => trunc 64 (quotient 64 a.toNat b.toNat))

/-- rem: the signed remainder (05 R181). -/
def execRem (x : FormS3) : State → Host.Outcome State Fault Refusal :=
  binary (.rem x) x (fun a b => trunc 64 (remainder a.toInt b.toInt))

/-- remn: the natural remainder (05 R181). -/
def execRemn (x : FormS3) : State → Host.Outcome State Fault Refusal :=
  binary (.remn x) x (fun a b => trunc 64 (remainder a.toNat b.toNat))

/-- and (05 R181). -/
def execAnd (x : FormS3) : State → Host.Outcome State Fault Refusal :=
  binary (.and x) x (fun a b => a &&& b)

/-- or (05 R181). -/
def execOr (x : FormS3) : State → Host.Outcome State Fault Refusal :=
  binary (.or x) x (fun a b => a ||| b)

/-- xor (05 R181). -/
def execXor (x : FormS3) : State → Host.Outcome State Fault Refusal :=
  binary (.xor x) x (fun a b => a ^^^ b)

/-- andn: a and not b (05 R181). -/
def execAndn (x : FormS3) : State → Host.Outcome State Fault Refusal :=
  binary (.andn x) x (fun a b => a &&& ~~~b)

/-- sll (05 R181). -/
def execSll (x : FormS3) : State → Host.Outcome State Fault Refusal :=
  binary (.sll x) x (fun a b => shiftLeft a b.toNat)

/-- srl (05 R181). -/
def execSrl (x : FormS3) : State → Host.Outcome State Fault Refusal :=
  binary (.srl x) x (fun a b => shiftRight a b.toNat)

/-- sra (05 R181). -/
def execSra (x : FormS3) : State → Host.Outcome State Fault Refusal :=
  binary (.sra x) x (fun a b => shiftArith a b.toNat)

/-- rotl (05 R181). -/
def execRotl (x : FormS3) : State → Host.Outcome State Fault Refusal :=
  binary (.rotl x) x (fun a b => rotateLeft a b.toNat)

/-- rotr (05 R181). -/
def execRotr (x : FormS3) : State → Host.Outcome State Fault Refusal :=
  binary (.rotr x) x (fun a b => rotateRight a b.toNat)

/-- min: the signed minimum (05 R181). -/
def execMin (x : FormS3) : State → Host.Outcome State Fault Refusal :=
  binary (.min x) x (fun a b => if a.toInt ≤ b.toInt then a else b)

/-- max: the signed maximum (05 R181). -/
def execMax (x : FormS3) : State → Host.Outcome State Fault Refusal :=
  binary (.max x) x (fun a b => if a.toInt ≤ b.toInt then b else a)

/-- minn: the natural minimum (05 R181). -/
def execMinn (x : FormS3) : State → Host.Outcome State Fault Refusal :=
  binary (.minn x) x (fun a b => if a.toNat ≤ b.toNat then a else b)

/-- maxn: the natural maximum (05 R181). -/
def execMaxn (x : FormS3) : State → Host.Outcome State Fault Refusal :=
  binary (.maxn x) x (fun a b => if a.toNat ≤ b.toNat then b else a)

/-- clz (05 R182). -/
def execClz (x : FormS3) : State → Host.Outcome State Fault Refusal :=
  unary (.clz x) x (fun a => BitVec.ofNat 64 (leadingZeros a.toNat 64))

/-- ctz (05 R182). -/
def execCtz (x : FormS3) : State → Host.Outcome State Fault Refusal :=
  unary (.ctz x) x (fun a => BitVec.ofNat 64 (trailingZeros a.toNat 64))

/-- popc (05 R182). -/
def execPopc (x : FormS3) : State → Host.Outcome State Fault Refusal :=
  unary (.popc x) x (fun a => BitVec.ofNat 64 (oneBits a.toNat 64))

/-- addi (05 R182). -/
def execAddi (x : FormSI) : State → Host.Outcome State Fault Refusal :=
  immediate (.addi x) x (fun a b => a + b)

/-- andi (05 R182). -/
def execAndi (x : FormSI) : State → Host.Outcome State Fault Refusal :=
  immediate (.andi x) x (fun a b => a &&& b)

/-- ori (05 R182). -/
def execOri (x : FormSI) : State → Host.Outcome State Fault Refusal :=
  immediate (.ori x) x (fun a b => a ||| b)

/-- xori (05 R182). -/
def execXori (x : FormSI) : State → Host.Outcome State Fault Refusal :=
  immediate (.xori x) x (fun a b => a ^^^ b)

/-- slli (05 R182). -/
def execSlli (x : FormSI) : State → Host.Outcome State Fault Refusal :=
  immediate (.slli x) x (fun a n => shiftLeft a n.toNat)

/-- srli (05 R182). -/
def execSrli (x : FormSI) : State → Host.Outcome State Fault Refusal :=
  immediate (.srli x) x (fun a n => shiftRight a n.toNat)

/-- srai (05 R182). -/
def execSrai (x : FormSI) : State → Host.Outcome State Fault Refusal :=
  immediate (.srai x) x (fun a n => shiftArith a n.toNat)

/-- li: the sign-extended 47-bit immediate (05 R182). -/
def execLi (x : FormLI) : State → Host.Outcome State Fault Refusal :=
  issueSeq (.li x) do
    writeS x.d (x.imm.signExtend 64)

/-- bext (05 R183). -/
def execBext (x : FormS3) : State → Host.Outcome State Fault Refusal :=
  issueSeq (.bext x) do
    let a ← readS x.a
    let (ofs, wid) ← fieldOf x
    writeS x.d (extractField (x.sf == 1) a.toNat ofs wid)

/-- bins: sD is read as its old value after A and B (05 R183). -/
def execBins (x : FormS3) : State → Host.Outcome State Fault Refusal :=
  issueSeq (.bins x) do
    let a ← readS x.a
    let (ofs, wid) ← fieldOf x
    let old := (← getMe).reg x.d.toNat
    match insertField old.toNat a.toNat ofs wid with
    | some v => writeS x.d v
    | none => pure ()

/-- sel: sA where flag fC is true, else sB; both are read (05 R184). -/
def execSel (x : FormS3) : State → Host.Outcome State Fault Refusal :=
  issueSeq (.sel x) do
    let a ← readS x.a
    let b ← readS x.b
    writeS x.d (if (← getMe).flag x.c.toNat then a else b)

/-- cmp (05 R184). -/
def execCmp (x : FormS3) : State → Host.Outcome State Fault Refusal :=
  issueSeq (.cmp x) do
    let a ← readS x.a
    let b ← readS x.b
    writeTruth x.d x.fd (condition x.sf.toNat a b)

/-- cmpi (05 R184). -/
def execCmpi (x : FormC) : State → Host.Outcome State Fault Refusal :=
  issueSeq (.cmpi x) do
    let a ← readS x.a
    writeTruth x.d x.fd (condition x.sf.toNat a (x.imm.signExtend 64))

end Sys2Proof.Machine
end

