-- ==== Sys2Proof/Machine/Fop.lean ====
section
/-! DEFINITION. The scalar floating-point operations of fop (05 R186). -/

namespace Sys2Proof.Machine

/-- The rounding mode of a fop: RM, or MODE.RM when RD = 1 (05 R186). -/
def fopRm (c : Core) (x : FormS3) : BitVec 2 := if x.rd = 1 then c.rm else x.rm

/-- An operand of type TY: the low bits of its register, a subnormal read as zero under MODE.FTZ (02 R44; 05 R186). -/
def fopVal (c : Core) (x : FormS3) (a : Word) : FpVal :=
  let f := fpOf x.ty.toNat
  fpDecode f c.ftz (a.toNat % 2 ^ f.width)

/-- A result's flags raised and its code written, zero-extended (05 R186). -/
def fopWrite (d : BitVec 5) (r : FpRes) : Op Unit := do
  destReady d 1
  raise r.2
  writeS d (BitVec.ofNat 64 r.1)

/-- A fop of one operand: g gets the format, the rounding mode, MODE.FTZ and the operand. -/
def fopUnary (i : Instr) (x : FormS3) (g : FpFormat → BitVec 2 → Bool → FpVal → FpRes) :
    State → Host.Outcome State Fault Refusal :=
  issueSeq i do
    let a ← readS x.a
    let c ← getMe
    fopWrite x.d (g (fpOf x.ty.toNat) (fopRm c x) c.ftz (fopVal c x a))

/-- A fop of two operands. -/
def fopBinary (i : Instr) (x : FormS3) (g : FpFormat → BitVec 2 → Bool → FpVal → FpVal → FpRes) :
    State → Host.Outcome State Fault Refusal :=
  issueSeq i do
    let a ← readS x.a
    let b ← readS x.b
    let c ← getMe
    fopWrite x.d (g (fpOf x.ty.toNat) (fopRm c x) c.ftz (fopVal c x a) (fopVal c x b))

/-- A conversion of a fop to a 64-bit integer in lo..hi (02 R49). -/
def fopInt (i : Instr) (x : FormS3) (lo hi : Int) : State → Host.Outcome State Fault Refusal :=
  issueSeq i do
    let a ← readS x.a
    let c ← getMe
    let r := fpToInt (fopRm c x) lo hi (fopVal c x a)
    destReady x.d 1
    raise r.2
    writeS x.d (trunc 64 r.1)

/-- A conversion of an integer to TY (02 R49). -/
def fopFrom (i : Instr) (x : FormS3) (g : Word → Int) : State → Host.Outcome State Fault Refusal :=
  issueSeq i do
    let a ← readS x.a
    let c ← getMe
    fopWrite x.d (fpFromInt (fpOf x.ty.toNat) (fopRm c x) c.ftz (g a))

/-- A compare of a fop by condition code; its truth goes to sD and, where FD names one, to a flag (05 R184, R186). -/
def fopCompare (i : Instr) (x : FormS3) (cc : Nat) : State → Host.Outcome State Fault Refusal :=
  issueSeq i do
    let a ← readS x.a
    let b ← readS x.b
    let c ← getMe
    let r := fpCondition cc (fopVal c x a) (fopVal c x b)
    destReady x.d 1
    raise r.2
    writeTruth x.d x.fd r.1

/-- fop.add (05 R186). -/
def execFopAdd (x : FormS3) : State → Host.Outcome State Fault Refusal :=
  fopBinary (.fopAdd x) x (fpAdd)

/-- fop.sub (05 R186). -/
def execFopSub (x : FormS3) : State → Host.Outcome State Fault Refusal :=
  fopBinary (.fopSub x) x (fun f rm z a b => fpAdd f rm z a b.neg)

/-- fop.mul (05 R186). -/
def execFopMul (x : FormS3) : State → Host.Outcome State Fault Refusal :=
  fopBinary (.fopMul x) x (fpMul)

/-- fop.div (05 R186). -/
def execFopDiv (x : FormS3) : State → Host.Outcome State Fault Refusal :=
  fopBinary (.fopDiv x) x (fpDiv)

/-- fop.fma: a × b + c rounded once (05 R186). -/
def execFopFma (x : FormS3) : State → Host.Outcome State Fault Refusal :=
  issueSeq (.fopFma x) do
    let a ← readS x.a
    let b ← readS x.b
    let e ← readS x.c
    let c ← getMe
    fopWrite x.d (fpFma (fpOf x.ty.toNat) (fopRm c x) c.ftz (fopVal c x a) (fopVal c x b) (fopVal c x e))

/-- fop.sqrt (05 R186). -/
def execFopSqrt (x : FormS3) : State → Host.Outcome State Fault Refusal :=
  fopUnary (.fopSqrt x) x fpSqrt

/-- fop.min (05 R186). -/
def execFopMin (x : FormS3) : State → Host.Outcome State Fault Refusal :=
  fopBinary (.fopMin x) x (fun f _ _ a b => fpMinMax f false a b)

/-- fop.max (05 R186). -/
def execFopMax (x : FormS3) : State → Host.Outcome State Fault Refusal :=
  fopBinary (.fopMax x) x (fun f _ _ a b => fpMinMax f true a b)

/-- fop.abs (05 R186). -/
def execFopAbs (x : FormS3) : State → Host.Outcome State Fault Refusal :=
  fopUnary (.fopAbs x) x (fun f _ _ a => fpSign f true a)

/-- fop.neg (05 R186). -/
def execFopNeg (x : FormS3) : State → Host.Outcome State Fault Refusal :=
  fopUnary (.fopNeg x) x (fun f _ _ a => fpSign f false a)

/-- fop.cvt: the target type is AUX bits 3:0 (05 R186). -/
def execFopCvt (x : FormS3) : State → Host.Outcome State Fault Refusal :=
  fopUnary (.fopCvt x) x (fun _ rm z a => fpRoundVal (fpOf (bitsOf x.aux 0 4)) rm z a)

/-- fop.toi (05 R186). -/
def execFopToi (x : FormS3) : State → Host.Outcome State Fault Refusal :=
  fopInt (.fopToi x) x (-(2 ^ 63)) (2 ^ 63 - 1)

/-- fop.ton (05 R186). -/
def execFopTon (x : FormS3) : State → Host.Outcome State Fault Refusal :=
  fopInt (.fopTon x) x 0 (2 ^ 64 - 1)

/-- fop.fromi (05 R186). -/
def execFopFromi (x : FormS3) : State → Host.Outcome State Fault Refusal :=
  fopFrom (.fopFromi x) x (fun a => a.toInt)

/-- fop.fromn (05 R186). -/
def execFopFromn (x : FormS3) : State → Host.Outcome State Fault Refusal :=
  fopFrom (.fopFromn x) x (fun a => a.toNat)

/-- fop.eq (05 R186). -/
def execFopEq (x : FormS3) : State → Host.Outcome State Fault Refusal :=
  fopCompare (.fopEq x) x 0

/-- fop.lt (05 R186). -/
def execFopLt (x : FormS3) : State → Host.Outcome State Fault Refusal :=
  fopCompare (.fopLt x) x 2

/-- fop.le (05 R186). -/
def execFopLe (x : FormS3) : State → Host.Outcome State Fault Refusal :=
  fopCompare (.fopLe x) x 3

/-- fop.un (05 R186). -/
def execFopUn (x : FormS3) : State → Host.Outcome State Fault Refusal :=
  fopCompare (.fopUn x) x 6

end Sys2Proof.Machine
end

