-- ==== Sys2Proof/Machine/Frame.lean ====
section
/-! DEFINITION. The frames of Mbapin Link: their layout, the CRC, receipt in order, sending, the choice of a port, and the
packet header of a collective (13 R400-R402, R409). -/

namespace Sys2Proof.Machine

/-! ## CRC and layout (13 R400) -/

/-- One bit of CRC-32C in its reflected form (log 23, PRESUMED). -/
def crcStep (crc : BitVec 32) (b : Bool) : BitVec 32 :=
  (crc >>> 1) ^^^ (if crc.getLsbD 0 != b then 0x82F63B78 else 0)

/-- CRC-32C over bits 479:0 of a frame, bit 0 first (log 23). -/
def crc32c (bits : BitVec 480) : BitVec 32 :=
  ~~~((List.range 480).foldl (fun crc i => crcStep crc (bits.getLsbD i)) (~~~0))

/-- Fields of a frame. -/
def frCrc (fr : BitVec 512) : BitVec 32 := fr.extractLsb' 480 32
def frSeq (fr : BitVec 512) : BitVec 8 := fr.extractLsb' 472 8
def frAck (fr : BitVec 512) : BitVec 8 := fr.extractLsb' 464 8
def frType (fr : BitVec 512) : Nat := bitsOf fr 456 8
def frCred (fr : BitVec 512) : Nat := bitsOf fr 448 8
def frBody (fr : BitVec 512) : BitVec 448 := fr.extractLsb' 0 448

/-- A frame from its fields. -/
def mkFrame (seq ack : BitVec 8) (ftype : Nat) (cred : BitVec 8) (body : BitVec 448) : BitVec 512 :=
  let low : BitVec 480 := seq ++ ack ++ BitVec.ofNat 8 ftype ++ cred ++ body
  crc32c low ++ low

/-! ## Receipt and sending (13 R401) -/

/-- The frames of a port still unacknowledged after an ACK: those after the one it names. -/
def afterAck (ack : BitVec 8) (fs : List (BitVec 512)) : List (BitVec 512) :=
  match fs.findIdx? (fun f => frSeq f == ack) with
  | some i => fs.drop (i + 1)
  | none => fs

/-- Whether a port keeps a received frame: a right CRC, a known FTYPE and the next number in order (13 R401). -/
def LinkPort.accepts (p : LinkPort) (fr : BitVec 512) : Bool :=
  p.up && frCrc fr == crc32c (fr.extractLsb' 0 480) && decide (frType fr ≤ 5) && frSeq fr == p.rxNext

/-- A port after it kept a frame: the acknowledgement and the returned buffers are taken, and its own buffer is owed. -/
def LinkPort.took (p : LinkPort) (fr : BitVec 512) : LinkPort :=
  { p with rxNext := p.rxNext + 1, unacked := afterAck (frAck fr) p.unacked, credits := p.credits + frCred fr,
           owed := p.owed + 1 }

/-- A frame sent on a port. -/
def sendFrame (s : State) (p ftype : Nat) (body : BitVec 448) : State :=
  let k := s.port p
  let fr := mkFrame k.txNext (k.rxNext - 1) ftype k.owed body
  s.setPort p { k with txNext := k.txNext + 1, unacked := k.unacked ++ [fr], owed := 0 }

/-- The event of a frame of a type at a port: f is given the state after its receipt and its body; a frame that the port
discards changes nothing. -/
def frameEvent (port ftype : Nat) (fr : BitVec 512) (s : State) (f : State → BitVec 448 → State) :
    Host.Outcome State Fault Refusal :=
  if 96 ≤ port then .fault .noSuchUnit
  else if (s.port port).accepts fr && frType fr == ftype then
    .next (f (s.setPort port ((s.port port).took fr)) (frBody fr))
  else .next s

/-! ## Which port reaches a rank (13 R402) -/

/-- The set ports of the rank-map mask of a rank. -/
def maskPorts (s : State) (rank : Nat) : List Nat := (List.range 96).filter (Table.get 0 s.mg.rankmap rank).getLsbD

/-- The ports that reach a rank: the set ports of its mask that are up. -/
def portsTo (s : State) (rank : Nat) : List Nat := (maskPorts s rank).filter fun p => (s.port p).up

/-- The port on which chunk c to a rank leaves: the (c mod k)-th of the k set ports of the mask; none while that one is not up. -/
def portFor (s : State) (rank chunk : Nat) : Option Nat :=
  let ps := maskPorts s rank
  ps[chunk % ps.length]?.filter fun p => (s.port p).up

/-! ## Packet headers (13 R409) -/

/-- The body of a collective header frame. -/
def Packet.body (p : Packet) : BitVec 448 :=
  let hops := (p.hops.take 15).mapIdx fun i h => (h.rank + h.oph * 2 ^ 10 + h.lvl * 2 ^ 12) * 2 ^ (208 + 16 * i)
  BitVec.ofNat 448 (p.gkey.toNat + p.seq.toNat * 2 ^ 32 + p.chunk * 2 ^ 64 + p.src * 2 ^ 80 + p.ko * 2 ^ 104
    + p.fm * 2 ^ 108 + p.wf * 2 ^ 112 + (min p.hops.length 15) * 2 ^ 114 + hops.foldl (· + ·) 0)

/-- A collective header frame's body read as a packet. -/
def packetOf (b : BitVec 448) : Packet :=
  let hop (i : Nat) : Hop :=
    { rank := bitsOf b (208 + 16 * i) 10, oph := bitsOf b (218 + 16 * i) 2, lvl := bitsOf b (220 + 16 * i) 4 }
  { gkey := b.extractLsb' 0 32, seq := b.extractLsb' 32 32, chunk := bitsOf b 64 16, src := bitsOf b 80 10,
    ko := bitsOf b 104 4, fm := bitsOf b 108 4, wf := bitsOf b 112 2, hops := (List.range (bitsOf b 114 4)).map hop }

/-! ## Group tables (13 R404) -/

/-- Word w of entry ge of a job's group table; 0 where the job holds no link context. -/
def State.geWord (s : State) (job ge w : Nat) : Word :=
  match s.linkCtxs.find? (fun p => p.2.job == job) with
  | some (_, c) => Table.get 0 c.words (20 * ge + w)
  | none => 0

/-- The module with words of entry ge of a job's group table replaced; without a link context nothing is written. -/
def State.setGeWords (s : State) (job ge : Nat) (ws : List (Nat × Word)) : State :=
  { s with linkCtxs := s.linkCtxs.map fun (n, c) =>
      if c.job = job then
        (n, { c with words := ws.foldl (fun t (w, v) => Table.set 0 (20 * ge + w) v t) c.words })
      else (n, c) }

/-- V, KIND, SCHED, OPMASK and GKEY of word 16 (13 R404). -/
def geValid (w16 : Word) : Bool := w16.getLsbD 63
def geKind (w16 : Word) : Nat := bitsOf w16 61 2
def geSched (w16 : Word) : Bool := w16.getLsbD 60
def geAllows (w16 : Word) (ko : Nat) : Bool := w16.getLsbD (32 + ko)
def geKey (w16 : Word) : BitVec 32 := w16.setWidth 32

/-- The member ranks of an entry in ascending order; f gives its words. -/
def membersOf (f : Nat → Word) : List Nat := (List.range 1024).filter fun r => (f (r / 64)).getLsbD (r % 64)

/-- Whether entry ge of a job may be used on this module: valid, with SELF in its MEMBERS (13 R405, R412). -/
def State.geUsable (s : State) (job ge : Nat) : Bool :=
  let r := s.mg.rank.toNat
  geValid (s.geWord job ge 16) && (s.geWord job ge (r / 64)).getLsbD (r % 64)

/-- An idle or a management frame (13 R400, R401): it takes its place in the order and brings its ACK and returned buffers. What a
management frame says beside them the spec does not state. -/
def State.plainFrame (s : State) (port : Nat) (fr : BitVec 512) : State :=
  if port < 96 ∧ (s.port port).accepts fr ∧ (frType fr = 0 ∨ frType fr = 5) then s.setPort port ((s.port port).took fr) else s

/-- LINK_CREDIT_FRAME (13 R400): returned buffers. -/
def execLinkCreditFrame (port : Nat) (fr : BitVec 512) (s : State) : Host.Outcome State Fault Refusal :=
  frameEvent port 4 fr s fun s _ => s

/-- Retries of a port in the window of 2^30 cycles that holds the present CYCLE (15 R458, R461). -/
def LinkPort.countRetry (p : LinkPort) (now : Nat) : LinkPort :=
  let w := now / 2 ^ 30
  { p with retries := p.retries + 1, window := w, inWindow := if p.window = w then p.inWindow + 1 else 1 }

/-- LINK_FRAME_RESEND (13 R401; 15 R461): every unacknowledged frame is sent again in order, each a CRC retry. -/
def execLinkFrameResend (port : Nat) (s : State) : Host.Outcome State Fault Refusal :=
  if 96 ≤ port then .fault .noSuchUnit
  else
    let p := s.port port
    if p.up then
      .next (s.setPort port (p.unacked.foldl (fun p _ => p.countRetry s.cycle.toNat) p))
    else .next s

end Sys2Proof.Machine
end

