-- ==== Sys2Proof/Machine/Csr.lean ====
section
/-! DEFINITION. The control registers: what each reads as, which bits a csrw may change and at which privilege, and the
write itself (05 R156-R160, R189 and the register tables of the other chapters). -/

namespace Sys2Proof.Machine

/-! ## Reading -/

/-- The inbox message of the running task, if it was created for one (05 R156). -/
def Core.message (c : Core) : Option Msg :=
  match c.task with
  | some t => if bitsOf t.origin 4 2 = 1 then Table.find c.inbox (bitsOf t.origin 0 4) else none
  | none => none

/-- The message register mk (05 R156). -/
def Core.msgReg (c : Core) (k : Nat) : Word :=
  match c.message with
  | some m => m.words.getD k 0
  | none => if k = 0 then (c.task.map (·.m0)).getD 0 else 0

/-- FEAT: in a core with MODE.DET = 1 HWP reads as DCL (03 R108). -/
def Core.featReg (c : Core) : Word :=
  BitVec.ofNat 64 (c.dcl.toNat + 2 ^ 8 * (if c.det then c.dcl else c.hwp).toNat)

/-- The bits of a mark over the eight tree channels. -/
def Core.chanMask (c : Core) (p : Chan → Bool) : Nat :=
  (List.range 8).foldl (fun r n => r + bit (p (Table.get Chan.reset c.chans n)) * 2 ^ n) 0

/-- TREE_STAT of a core (11 R375). -/
def State.treeStat (s : State) (lid : Nat) : Word :=
  let c := s.core lid
  let left := (List.range 8).foldl (fun r n => r + bit (s.leftOn lid n) * 2 ^ n) 0
  BitVec.ofNat 64
    (c.chanMask (·.out.isSome) + left * 2 ^ 8 + c.chanMask (·.one.isSome) * 2 ^ 16
      + c.chanMask (·.mis.isSome) * 2 ^ 24 + ((c.spec.map (·.ch)).getD 0) * 2 ^ 32 + bit c.spec.isSome * 2 ^ 35
      + c.predictor.toNat * 2 ^ 40)

/-- The value of the control register at an address that decoding accepts (05 R157, R158). -/
def csrValue (s : State) (addr : Nat) : Word :=
  let c := s.me
  match addr with
  | 0x00 => BitVec.ofNat 64 (s.cur % 1152)
  | 0x01 => BitVec.ofNat 64 (s.cur / 1152)
  | 0x02 => c.coreRx.setWidth 64
  | 0x03 => c.coreRy.setWidth 64
  | 0x04 => c.regionId.setWidth 64
  | 0x05 => BitVec.ofNat 64 ((c.task.map (·.origin.toNat)).getD 0)
  | 0x06 => c.featReg
  | 0x07 => s.cycle
  | 0x08 => (c.message.map (·.hdr)).getD 0
  | 0x10 => c.mode.setWidth 64
  | 0x11 => c.fpFlagsRead.setWidth 64
  | 0x12 => (c.flags ||| 1).setWidth 64
  | 0x13 => c.waitLimit.setWidth 64
  | 0x14 => c.bgm
  | 0x18 => c.spillBase.setWidth 64 <<< 3
  | 0x19 => c.spillLim.setWidth 64 <<< 3
  | 0x1A => c.spillOvf
  | 0x1B => c.rasSp.setWidth 64 <<< 3
  | 0x1C => c.rasFloor.setWidth 64 <<< 3
  | 0x1D => BitVec.ofNat 64 c.ras.length
  | 0x20 => BitVec.ofNat 64 (bit c.prv + 2 * bit c.pprv + 4 * bit c.intrap)
  | 0x21 => c.trapCause
  | 0x22 => c.trapPc.setWidth 64
  | 0x23 => c.trapVal
  | 0x24 => c.trapVec.setWidth 64
  | 0x25 => c.rptState
  | 0x26 => c.rptWord
  | 0x27 => c.scratch0
  | 0x28 => c.scratch1
  | 0x40 => c.trigOrder
  | 0x41 => c.trigBusy.setWidth 64
  | 0x200 => c.preds
  | 0x210 => c.router.qtags
  | 0x211 => c.router.exlog
  | 0x220 => c.tensor.gang.setWidth 64
  | 0x230 => c.lattice.budget.setWidth 64
  | 0x231 => c.lattice.lbnd.setWidth 64
  | 0x232 => c.lattice.lsel
  | 0x240 => s.treeStat s.cur
  | 0x250 => s.mg.rank.setWidth 64
  | 0x260 => c.bankWait.setWidth 64
  | a =>
    if 0x30 ≤ a ∧ a ≤ 0x35 then c.msgReg (a - 0x30)
    else if 0x100 ≤ a ∧ a ≤ 0x11F then Table.get 0 c.trig (a - 0x100)
    else if 0x238 ≤ a ∧ a ≤ 0x23F then Table.get 0 c.lattice.lgd (a - 0x238)
    else 0

/-! ## Writing -/

/-- The bits of a control register that a csrw may change (05 R160, R162; 02 R75; 04 R129; 06 R199; 10 R329; 11 R374; 14
R439). -/
def csrMask (addr : Nat) : Word :=
  match addr with
  | 0x10 => 0xF
  | 0x11 => 0x7F
  | 0x12 => 0xFE
  | 0x13 => 0xFFFFFFFFFF
  | 0x14 => 0x4040404040404040
  | 0x18 => 0x1FFF8
  | 0x19 => 0x1FFF8
  | 0x1A => 0x01FFFFFFFFFFF001
  | 0x1B => 0x1FFFFF8
  | 0x1C => 0x1FFF8
  | 0x20 => 0x6
  | 0x21 => 0xFFFF01FF
  | 0x22 => 0xFFFF
  | 0x23 => 0xFFFFFFFFFFFFFFFF
  | 0x24 => 0xFFF9
  | 0x25 => 0x80070FFFFFFFFFFF
  | 0x26 => 0xFFFFFFFFFFFFFFFF
  | 0x27 => 0xFFFFFFFFFFFFFFFF
  | 0x28 => 0xFFFFFFFFFFFFFFFF
  | 0x40 => 0xFFFFFFFFFFFFFFFF
  | 0x200 => 0xFFFFFFFFFFFFFF00
  | 0x231 => 0x1FF
  | 0x260 => 0xFF
  | a =>
    if 0x100 ≤ a ∧ a ≤ 0x11F then if a % 2 = 0 then 0xFFF8FFFFFC00FFFF else 0xFFFF0000
    else 0

/-- The registers written only at supervisor privilege; TRAP_VEC is one once its V bit is set (05 R159). -/
def csrSv (c : Core) (addr : Nat) : Bool :=
  [0x14, 0x18, 0x19, 0x1A, 0x1B, 0x1C, 0x20, 0x21, 0x22, 0x23, 0x25, 0x26, 0x27, 0x28, 0x40].contains addr
    || (addr == 0x24 && c.trapVec.getLsbD 0) || (decide (0x100 ≤ addr) && decide (addr ≤ 0x11F))

/-- SCRATCH0 and SCRATCH1 are read only at supervisor privilege (05 R159, R160). -/
def csrSo (addr : Nat) : Bool := addr == 0x27 || addr == 0x28

/-- Whether TRIG_ORDER's nibbles are a permutation of 0-15 (05 R160). -/
def isPermutation (v : Word) : Bool :=
  (List.range 16).all fun n => (List.range 16).any fun i => bitsOf v (4 * i) 4 == n

/-- The values that a writable field does not take (04 R129; 05 R160, R162). -/
def csrValueOk (addr : Nat) (v : Word) : Bool :=
  if addr = 0x18 ∨ addr = 0x19 then decide (v.toNat ≤ 65536)
  else if addr = 0x40 then isPermutation v
  else if 0x100 ≤ addr ∧ addr ≤ 0x11F ∧ addr % 2 = 0 then bitsOf v 56 3 != 7 && bitsOf v 0 3 == 0
  else true

/-- The core with a control register written; the value has passed its checks. -/
def Core.setCsr (c : Core) (addr : Nat) (v : Word) : Core :=
  match addr with
  | 0x10 => { c with mode := v.setWidth 5 }
  | 0x11 => { c with fpFlags := v.setWidth 7 }
  | 0x12 => { c with flags := v.setWidth 8 ||| 1 }
  | 0x13 => { c with waitLimit := v.setWidth 40 }
  | 0x14 => { c with bgm := v }
  | 0x18 => { c with spillBase := (v >>> 3).setWidth 14 }
  | 0x19 => { c with spillLim := (v >>> 3).setWidth 14 }
  | 0x1A => { c with spillOvf := v }
  | 0x1B => { c with rasSp := (v >>> 3).setWidth 22 }
  | 0x1C => { c with rasFloor := (v >>> 3).setWidth 14 }
  | 0x20 => { c with pprv := v.getLsbD 1, intrap := v.getLsbD 2 }
  | 0x21 => { c with trapCause := v }
  | 0x22 => { c with trapPc := v.setWidth 16 }
  | 0x23 => { c with trapVal := v }
  | 0x24 => { c with trapVec := v.setWidth 16 }
  | 0x25 => { c with rptState := v }
  | 0x26 => { c with rptWord := v }
  | 0x27 => { c with scratch0 := v }
  | 0x28 => { c with scratch1 := v }
  | 0x40 => { c with trigOrder := v }
  | 0x200 => { c with preds := v }
  | 0x231 => { c with lattice := { c.lattice with lbnd := v.setWidth 9 } }
  | 0x260 => { c with bankWait := v.setWidth 8 }
  | a => if 0x100 ≤ a ∧ a ≤ 0x11F then { c with trig := Table.set 0 (a - 0x100) v c.trig } else c

/-! ## The instructions -/

/-- csrr: sD := the register (05 R189). -/
def csrReadOp (i : Instr) (x : FormS3) : State → Host.Outcome State Fault Refusal :=
  issueSeq i do
    let s ← get
    let addr := x.aux.toNat
    if csrSo addr && !s.me.prv then trapWith causePrivilege (i.word?.getD 0)
    writeS x.d (csrValue s addr)

/-- csrw in one of its forms: old is read, the new value is checked and written, then sD := old (05 R159, R189). PRIVILEGE of the
configuration access comes after the guard and before operand A is read: DEDUCED, 05 R178 does not list it (log 81). Unsafe: a csrw that
fails it has not popped its queue, and one whose guard is false does not trap. -/
def csrWriteOp (i : Instr) (x : FormS3) (f : Word → Word → Word) : State → Host.Outcome State Fault Refusal :=
  issueSeq i do
    let addr := x.aux.toNat
    let word := i.word?.getD 0
    let c ← getMe
    if csrSv c addr && !c.prv then trapWith causePrivilege word
    let a ← readS x.a
    let old := csrValue (← get) addr
    let new := f old a
    let new := if addr = 0x12 then new ||| 1 else new
    if (new ^^^ old) &&& ~~~csrMask addr != 0 || !csrValueOk addr new then trapWith causeReserved word
    destReady x.d 1
    modMe (·.setCsr addr new)
    writeS x.d old

/-- The new value of a csrw by SF (05 R189). -/
def csrForm (sf : Nat) (old a : Word) : Word := if sf = 1 then old ||| a else if sf = 2 then old &&& ~~~a else a

/-- csrr (05 R189). -/
def execCsrr (x : FormS3) : State → Host.Outcome State Fault Refusal := csrReadOp (.csrr x) x

/-- csrw (05 R189). -/
def execCsrw (x : FormS3) : State → Host.Outcome State Fault Refusal := csrWriteOp (.csrw x) x (fun _ a => a)

/-- csrw.set (05 R189). -/
def execCsrwSet (x : FormS3) : State → Host.Outcome State Fault Refusal :=
  csrWriteOp (.csrwSet x) x (fun old a => old ||| a)

/-- csrw.clr (05 R189). -/
def execCsrwClr (x : FormS3) : State → Host.Outcome State Fault Refusal :=
  csrWriteOp (.csrwClr x) x (fun old a => old &&& ~~~a)

/-- A csrr or csrw of FP_FLAGS, in order behind every earlier instruction that raises flags (02 R77; 05 R189). -/
def execFpFlagsAccess (write : Bool) (x : FormS3) : State → Host.Outcome State Fault Refusal :=
  if write then csrWriteOp (.fpFlagsAccess write x) x (csrForm x.sf.toNat) else csrReadOp (.fpFlagsAccess write x) x

/-- A csrr or csrw of PREDS, in order behind every earlier lane instruction (06 R199). -/
def execPredsAccess (write : Bool) (x : FormS3) : State → Host.Outcome State Fault Refusal :=
  if write then csrWriteOp (.predsAccess write x) x (csrForm x.sf.toNat) else csrReadOp (.predsAccess write x) x

/-- A csrw of a trigger entry word or of TRIG_ORDER; a busy entry stays busy (05 R162, R189). -/
def execTriggerEntryWrite (x : FormS3) : State → Host.Outcome State Fault Refusal :=
  csrWriteOp (.triggerEntryWrite x) x (csrForm x.sf.toNat)

/-- A csrw of LBND (10 R329, R349). -/
def execLbndWrite (x : FormS3) : State → Host.Outcome State Fault Refusal :=
  csrWriteOp (.lbndWrite x) x (csrForm x.sf.toNat)

/-- A csrw of BANKWAIT (14 R439). -/
def execBankwaitWrite (x : FormS3) : State → Host.Outcome State Fault Refusal :=
  csrWriteOp (.bankwaitWrite x) x (csrForm x.sf.toNat)

end Sys2Proof.Machine
end

