-- ==== Sys2Proof/Machine/Control.lean ====
section
/-! DEFINITION. Control transfer, the repeat buffer, waits, tasks, memory instructions and the system instructions of the
task engine, and the task engine's own events (05 R161-R179, R185-R195; 14 R444-R448 in part). -/

namespace Sys2Proof.Machine

/-! ## Fetching (03 R80) -/

/-- The words that a fetch at an aligned address may return: the word in LOC, the word with the core's buffered stores,
and words overwritten since the core last discarded what it fetched ahead. -/
def fetchChoices (s : State) (lid a : Nat) : List Word :=
  let c := s.core lid
  let now := c.locWord a
  let buffered := BitVec.ofNat 64 (natOfBytes (loadBytes s c.sb lid a 8))
  now :: (buffered :: Table.get [] c.oldWords a).filter (fun w => w != now)

/-- The word that a fetch returns: the only choice, or the free choice among them (03 R80; log 8). -/
def fetchWord (s : State) (lid a : Nat) : Word :=
  match fetchChoices s lid a with
  | [w] => w
  | ws => ws.getD (Config.fetchPick s.ticks % ws.length) 0

/-- The word at the scalar port of a core: an instruction that has issued keeps the word that it issued with (03 R82). -/
def State.wordAt (s : State) (lid : Nat) : Word :=
  let c := s.core lid
  if c.issued then c.fetched else fetchWord s lid c.pc.toNat

/-- The word that a core executes, of its repeat buffer or its scalar port. -/
def State.portWord (s : State) (lid : Nat) (next : Rpt → Word) (inRpt : Bool) : Word :=
  match inRpt, (s.core lid).rpt with
  | true, some r => next r
  | _, _ => s.wordAt lid

/-- The word of a refill, which sees every store the core made (05 R173). -/
def refillWord (s : State) (lid a : Nat) : Word := BitVec.ofNat 64 (natOfBytes (loadBytes s (s.core lid).sb lid a 8))

/-! ## Tasks (05 R161, R164, R192) -/

/-- The task at the head of the run queue starts (05 R161). -/
def Core.startTask (c : Core) : Core :=
  match c.runq with
  | t :: _ => { c with pc := t.entry, prv := false, ras := [], rasSp := c.rasFloor.setWidth 22 }
  | [] => c

/-- A task appended to the run queue; it starts when no task runs (05 R164). -/
def Core.appendTask (c : Core) (t : Task) : Core :=
  if c.runq.isEmpty then { c with runq := [t] }.startTask else { c with runq := c.runq ++ [t] }

/-- The running task ends (05 R192) and the next one starts. -/
def Core.endTask (c : Core) : Core :=
  match c.runq with
  | [] => c
  | t :: rest =>
    let o := t.origin.toNat
    let c := if o < 16 then { c with trigBusy := putBits c.trigBusy o 1 0 } else c
    let c := if 16 ≤ o ∧ o < 32 then { c with inbox := Table.erase (o - 16) c.inbox } else c
    let c := if c.intrap then { c with intrap := false, prv := false, rptState := putBits c.rptState 63 1 0 } else c
    { c with ras := [], runq := rest }.startTask

/-! ## Control transfer (05 R174, R185) -/

/-- A target relative to the PC, in words, modulo 2^16 (03 R89). -/
def relTarget (pc : BitVec 16) (ofs : Int) : BitVec 16 := trunc 16 (pc.toNat + 8 * ofs)

/-- Waits for a repeat buffer whose body accesses memory or queues, before a spill or refill (05 R172). -/
def waitBody : Op Unit := do
  match (← getMe).rpt with
  | some r => if r.touches then throw .pipe
  | none => pure ()

/-- Push of 05 R174: a full store spills its oldest entry. -/
def pushReturn (ra : BitVec 16) : Op Unit := do
  let c ← getMe
  if c.ras.length < 16 then modMe fun c => { c with ras := ra :: c.ras }
  else
    waitBody
    stlAt (c.rasSp.toNat * 8 : Nat) (bytesOfNat 8 ((c.ras.getLast?.getD 0).toNat))
    modMe fun c => { c with rasSp := c.rasSp + 1, ras := ra :: c.ras.dropLast }

/-- Pop of 05 R174: an empty store refills from the spill area. -/
def popReturn : Op (BitVec 16) := do
  let c ← getMe
  match c.ras with
  | ra :: rest =>
    modMe fun c => { c with ras := rest }
    return ra
  | [] =>
    if c.rasSp = c.rasFloor.setWidth 22 then trapWith causeUnderflow (BitVec.ofNat 64 (c.rasFloor.toNat * 8))
    waitBody
    let b ← ldlAt ((c.rasSp - 1).toNat * 8 : Nat) 8
    modMe fun c => { c with rasSp := c.rasSp - 1 }
    return BitVec.ofNat 16 (natOfBytes b)

/-- The checks of a register target: ALIGN, then LOC_RANGE (05 R185). -/
def checkTarget (a : Word) : Op (BitVec 16) := do
  if a.toNat % 8 ≠ 0 then trapWith causeAlign a
  if 65536 ≤ a.toNat then trapWith causeLocRange a
  return a.setWidth 16

/-- jmp (05 R185). -/
def execJmp (x : FormJ) : State → Host.Outcome State Fault Refusal :=
  issue (.jmp x) do
    let c ← getMe
    return .goto (relTarget c.pc x.ofs.toInt)

/-- call (05 R185). -/
def execCall (x : FormJ) : State → Host.Outcome State Fault Refusal :=
  issue (.call x) do
    let c ← getMe
    pushReturn (c.pc + 8)
    return .goto (relTarget c.pc x.ofs.toInt)

/-- jr (05 R185). -/
def execJr (x : FormS3) : State → Host.Outcome State Fault Refusal :=
  issue (.jr x) do
    let a ← readS x.a
    return .goto (← checkTarget a)

/-- callr (05 R185). -/
def execCallr (x : FormS3) : State → Host.Outcome State Fault Refusal :=
  issue (.callr x) do
    let a ← readS x.a
    let t ← checkTarget a
    let c ← getMe
    pushReturn (c.pc + 8)
    return .goto t

/-- ret (05 R185). -/
def execRet (x : FormS3) : State → Host.Outcome State Fault Refusal :=
  issue (.ret x) do
    let t ← popReturn
    return .goto t

/-! ## Loads, stores and fences (05 R187, R188) -/

/-- The width in bytes that SZ gives (03 R90). -/
def sizeOf (sz : BitVec 2) : Nat := 2 ^ sz.toNat

/-- The effective address of an M-form instruction, its base and index read. -/
def addressOf (x : FormM) (size : Nat) : Op Int := do
  let a ← readBase x.a
  let b ← readBase x.b
  return mAddress x a b size

/-- The register value of a loaded value, sign-extended where SG asks for it (05 R187). -/
def loadValue (x : FormM) (bytes : List Byte) : Word :=
  let n := 8 * sizeOf x.sz
  if x.sg = 1 then trunc 64 (signed n (natOfBytes bytes)) else BitVec.ofNat 64 (natOfBytes bytes)

/-- A load: the access by get, which is given the address and the width; AQ makes it an acquire, RL with AQ also a release of
earlier accesses (04 R141; 05 R187). The release drain stands between ALIGN and the range: DEDUCED, 05 R178 gives the drain no place
(log 81). Unsafe: a misaligned access traps at once, one out of range only after the drain. -/
def loadOp (i : Instr) (x : FormM) (get : Int → Nat → Op (List Byte)) : State → Host.Outcome State Fault Refusal :=
  issueSeq i do
    let n := sizeOf x.sz
    let ea ← addressOf x n
    checkAlign ea n
    if x.rl = 1 then releaseAt x.sc.toNat
    let bytes ← get ea n
    writeS x.d (loadValue x bytes)
    if x.aq = 1 then acquire
    postUpdate x

/-- A store: the access by put; RL makes it a release (04 R141; 05 R187). A D field that names a queue is waited for and popped as a
source, before ALIGN and the range: DEDUCED, since 05 R178 names A, B, C and X only (log 58). Unsafe: a store that traps has
popped the queue. The release drain stands between ALIGN and the range, as for a load (log 81). -/
def storeOp (i : Instr) (x : FormM) (put : Int → List Byte → Op Unit) : State → Host.Outcome State Fault Refusal :=
  issueSeq i do
    let n := sizeOf x.sz
    let ea ← addressOf x n
    let v ← readS x.d
    checkAlign ea n
    if x.rl = 1 then releaseAt x.sc.toNat
    put ea (bytesOfNat n v.toNat)
    postUpdate x

/-- A CLU load at its home (04 R131). -/
def cluLoad (spread : Bool) (ea : Int) (n : Nat) : Op (List Byte) := do
  let (lid, a) ← resolveClu ea spread
  homeLoad lid a n (BitVec.ofNat 64 a)

/-- A CLU store into the store buffer (04 R138). -/
def cluStore (spread : Bool) (ea : Int) (bytes : List Byte) : Op Unit := do
  let (lid, a) ← resolveClu ea spread
  pushSb (.store lid a bytes)

/-- ldl (05 R187). -/
def execLdl (x : FormM) : State → Host.Outcome State Fault Refusal := loadOp (.ldl x) x ldlAt

/-- stl (05 R187). -/
def execStl (x : FormM) : State → Host.Outcome State Fault Refusal := storeOp (.stl x) x stlAt

/-- ldc (05 R187). -/
def execLdc (x : FormM) : State → Host.Outcome State Fault Refusal := loadOp (.ldc x) x (cluLoad (x.cm == 1))

/-- stc (05 R187). -/
def execStc (x : FormM) : State → Host.Outcome State Fault Refusal := storeOp (.stc x) x (cluStore (x.cm == 1))

/-- ldx (05 R187; 04 R132). -/
def execLdx (x : FormM) : State → Host.Outcome State Fault Refusal :=
  loadOp (.ldx x) x (fun ea n => extLoad ea n (trunc 64 ea))

/-- stx (05 R187; 04 R132). -/
def execStx (x : FormM) : State → Host.Outcome State Fault Refusal :=
  storeOp (.stx x) x (fun ea bytes => extStore ea bytes (trunc 64 ea))

/-- Whether a fence may complete (04 R142): the store buffer drained for a full fence, the scope's accesses performed for a
release fence, and in every case the core's LOC stores. -/
def fenceDone (s : State) (x : FormM) : Bool :=
  let c := s.me
  let home := !c.sb.any (·.isHome s.cur)
  if x.aq = 1 ∧ x.rl = 0 then home
  else if x.aq = 0 ∧ x.rl = 1 then home && s.scopePerformed s.cur x.sc.toNat
  else c.sb.isEmpty && s.scopePerformed s.cur x.sc.toNat

/-- fence (05 R188; 04 R142). -/
def execFence (x : FormM) : State → Host.Outcome State Fault Refusal :=
  issueSeq (.fence x) do
    waitUnless (fenceDone (← get) x) (waitVal 5 0)
    discardFetched

/-! ## The repeat buffer (05 R170-R173) -/

/-- The opcodes that a body word may have (05 R171). -/
def bodyAllowed (op : Nat) : Bool :=
  (decide (0x40 ≤ op) && decide (op ≤ 0x6A) && !([0x5F, 0x66, 0x67].contains op))
    || (decide (0x90 ≤ op) && decide (op ≤ 0x9D) && op != 0x95) || op == 0xA3 || op == 0xA4

/-- The n body words from address a up, each checked (05 R171); fetch gives a word. -/
def bodyWords (fetch : State → Nat → Nat → Word) (a : Nat) : Nat → Op (List Word)
  | 0 => return []
  | n + 1 => do
    let s ← get
    let c := s.me
    let pc := BitVec.ofNat 16 a
    if c.codeLim ≤ a then throw (.trapAt { code := causeLocRange, val := BitVec.ofNat 64 a, sub := 0 } pc)
    if c.locPoisoned a 8 then throw (.trapAt { code := causePoison, val := BitVec.ofNat 64 a, sub := 0 } pc)
    let w := fetch s s.cur a
    if !bodyAllowed (bitsOf w 56 8) then throw (.trapAt { code := causeReserved, val := w, sub := 0 } pc)
    return w :: (← bodyWords fetch (a + 8) n)

/-- LEN and CNT of an rpt word, as counts (05 R170). -/
def rptLen (w : Word) : Nat := bitsOf w 0 3 + 1
def rptCnt (w : Word) : Nat := bitsOf w 3 12 + 1

/-- A register field of a body word in iteration i (05 R170): a vector register steps modulo 16. -/
def strideReg (w : Word) (lo : Nat) (reads : Bool) (stride : Int) (i : Nat) : Word :=
  let v := bitsOf w lo 5
  if reads && decide (v < 16) then putBits w lo 5 (((v : Int) + i * stride) % 16).toNat else w

/-- Whether a body word reads its B field: a shift by an immediate and vbxpack of 16 elements do not (06 R205, R221). -/
def readsB (w : Word) : Bool :=
  let op := bitsOf w 56 8
  !((decide (0x4D ≤ op) && decide (op ≤ 0x4F) && w.getLsbD 19) || (op == 0x53 && bitsOf w 20 4 != 8))

/-- A body word with its fields adjusted for iteration i under the strides of an rpt word (05 R170). -/
def strideWord (rpt w : Word) (i : Nat) : Word :=
  match (pickInstr w).bind (·.shape) with
  | none => w
  | some sh =>
    let st (lo n : Nat) : Int := signed n (bitsOf rpt lo n)
    let w := strideReg w 47 (kindVector sh.d) (st 15 4) i
    let w := strideReg w 42 (kindVector sh.a) (st 19 4) i
    let w := strideReg w 37 (kindVector sh.b && readsB w) (st 23 4) i
    let w := strideReg w 32 (kindVector sh.c) (st 27 4) i
    let tensor := decide (0x90 ≤ bitsOf w 56 8) && decide (bitsOf w 56 8 ≤ 0x9D)
    let w := if tensor && sh.x.contains (31, 30) then putBits w 30 2 ((bitsOf w 30 2 + i * bitsOf rpt 31 2) % 4) else w
    if tensor && sh.x.contains (29, 26) then
      putBits w 26 4 (((bitsOf w 26 4 : Int) + i * st 33 4) % 16).toNat
    else w

/-- The word that a running repeat buffer issues next (05 R170). -/
def Rpt.next (r : Rpt) : Word :=
  strideWord r.word (r.words.getD r.idx 0) (rptCnt r.word - 1 - r.left)

/-- rpt (05 R170-R172): the body words are fetched and checked; scalar issue continues behind them. -/
def execRpt (x : FormSI) : State → Host.Outcome State Fault Refusal :=
  issue (.rpt x) do
    let c ← getMe
    let word := (Instr.rpt x).word?.getD 0
    let body := c.pc + 8
    let words ← bodyWords fetchWord body.toNat (rptLen word)
    modMe fun c =>
      { c with
        rpt := some { body, word, words, idx := 0, left := rptCnt word - 1 }
        rptState := putBits c.rptState 63 1 0, rptWait := none, rptProgress := 0, rptIssued := false }
    return .goto (c.pc + BitVec.ofNat 16 (8 * (rptLen word + 1)))

/-- The repeat buffer refilled from RPT_STATE and RPT_WORD (05 R173), from the position behind IDX when skip is set. The
core's ACT bit is cleared and its PC set to SPC. -/
def resumeRpt (skip : Bool) : Op Unit := do
  let c ← getMe
  let st := c.rptState
  let len := rptLen c.rptWord
  let idx := bitsOf st 48 3 + bit skip
  let left := bitsOf st 32 12
  let body := st.extractLsb' 16 16
  let resume (idx left : Nat) : Op Unit := do
    let words ← bodyWords refillWord body.toNat len
    modMe fun c => { c with rpt := some { body, word := c.rptWord, words, idx, left } }
  if idx < len then resume idx left
  else if 0 < left then resume 0 (left - 1)
  modMe fun c =>
    { c with rptState := putBits c.rptState 63 1 0, pc := st.extractLsb' 0 16, oldWords := [], rptWait := none, rptIssued := false }

/-- A core that stops for a context swap while its repeat buffer runs: RPT_STATE and RPT_WORD record the position as in a trap of a
scalar instruction, and the words are not kept (05 R173). -/
def Core.haltRpt (c : Core) : Core :=
  match c.rpt with
  | some r => { c with rptState := r.state c.pc, rptWord := r.word, rpt := some { r with words := [] } }
  | none => c

/-- The repeat buffer of a core that resumes refilled from LOC, at the position where the halt left it, under the checks of 05 R171; a
failure traps with RPT_STATE kept (05 R173). -/
def State.refillRpt (s : State) (lid : Nat) : State :=
  let c := s.core lid
  match c.rpt with
  | some r =>
    if !r.words.isEmpty then s
    else
      match (bodyWords refillWord r.body.toNat (rptLen r.word)).run { s with cur := lid, inRpt := true } with
      | .ok words _ =>
        s.setCore lid { c with rpt := some { r with words }, rptState := putBits c.rptState 63 1 0, oldWords := [] }
      | .error (.trapAt t pc) _ => takeTrap (s.setCore lid { c with rpt := none, rptProgress := 0 }) lid t pc false r.word
      | .error _ _ => s
  | none => s

/-! ## Waits, tasks, traps (05 R191-R195) -/

/-- The mask of the queues of a mask that hold a flit (05 R191). -/
def queueMask (c : Core) (mask : Nat) : Nat :=
  (List.range 8).foldl
    (fun r n => r + bit (decide (mask / 2 ^ n % 2 = 1) && !(c.queue n).isEmpty) * 2 ^ n) 0

/-- wait.all and wait.any: sD := the mask of the queues that hold a flit (05 R191). -/
def waitQueues (i : Instr) (x : FormS3) (ok : Nat → Nat → Bool) : State → Host.Outcome State Fault Refusal :=
  issueSeq i do
    let mask := bitsOf x.aux 0 8
    let have_ := queueMask (← getMe) mask
    waitUnless (ok have_ mask) (waitVal 3 0)
    writeS x.d (BitVec.ofNat 64 have_)

/-- wait.all (05 R191). -/
def execWaitAll (x : FormS3) : State → Host.Outcome State Fault Refusal := waitQueues (.waitAll x) x (fun h m => h == m)

/-- wait.any (05 R191). -/
def execWaitAny (x : FormS3) : State → Host.Outcome State Fault Refusal := waitQueues (.waitAny x) x (fun h _ => h != 0)

/-- wait.osp (05 R191). -/
def execWaitOsp (x : FormS3) : State → Host.Outcome State Fault Refusal :=
  issueSeq (.waitOsp x) do
    let c ← getMe
    waitUnless (decide (c.router.outq.length + bitsOf x.aux 0 4 ≤ 8)) (waitVal 3 0)

/-- wait.until (05 R191). -/
def execWaitUntil (x : FormS3) : State → Host.Outcome State Fault Refusal :=
  issueSeq (.waitUntil x) do
    let a ← readS x.a
    let s ← get
    waitUnless (decide (a.toNat ≤ s.cycle.toNat)) (waitVal 3 0)
    writeS x.d s.cycle

/-- done (05 R192). -/
def execDone (x : FormS3) : State → Host.Outcome State Fault Refusal :=
  issue (.done x) do
    modMe (·.endTask)
    return .keep

/-- post (05 R193). -/
def execPost (x : FormS3) : State → Host.Outcome State Fault Refusal :=
  issueSeq (.post x) do
    let a ← readS x.a
    let b ← readS x.b
    let c ← getMe
    if a.toNat % 8 ≠ 0 then trapWith causeAlign a
    if c.codeLim ≤ a.toNat then trapWith causeLocRange a
    waitUnless (decide (c.runq.length < 32)) (waitVal 4 0)
    modMe (·.appendTask { entry := a.setWidth 16, origin := 0x20, m0 := b })

/-- trap (05 R194). -/
def execTrap (x : FormS3) : State → Host.Outcome State Fault Refusal :=
  issueSeq (.trap x) do
    let a ← readS x.a
    throw (.trap { code := causeSoftware, val := a, sub := x.aux })

/-- brk (05 R194). -/
def execBrk (x : FormS3) : State → Host.Outcome State Fault Refusal :=
  issueSeq (.brk x) do
    throw (.trap { code := causeBreakpoint, val := 0, sub := x.aux })

/-- nop (05 R194). -/
def execNop (x : FormS3) : State → Host.Outcome State Fault Refusal := issueSeq (.nop x) (pure ())

/-- tick: every earlier instruction has completed, the repeat buffer included (05 R195). A store has completed when it is in the
store buffer, an atomic with D = s0 too, and a cell operation when it is at its engine: DEDUCED (log 64). Unsafe where a tick waits
for their performing. -/
def execTick (x : FormS3) : State → Host.Outcome State Fault Refusal :=
  issueSeq (.tick x) do
    let a ← readS x.a
    writeS x.d ((← get).cycle - a)

/-- A fetched word whose OP is unassigned traps ILLEGAL_OPCODE, whatever its guard, and changes nothing else (03 R102,
R103). -/
def execIllegalOpcode (w : BitVec 64) (s : State) : Host.Outcome State Fault Refusal :=
  if coreCount ≤ s.cur then .fault .noSuchUnit
  else .next (if s.midBody then s else deliverTrap s { code := causeIllegal, val := w, sub := 0 } (s.me.execPc s.inRpt) w)

/-! ## System instructions of the task engine (14 R444-R448) -/

/-- Whether a word is a multi-step instruction, which continues at a step (14 R445; 09 R307). -/
def isMultiStep (w : Word) : Bool :=
  match pickInstr w with
  | some (.tmacq _) => true
  | some (.tldbq _) => true
  | some (.tmacl _) => true
  | some (.tmovTt x) => x.imm.getLsbD 3
  | some (.tmovOut x) => x.imm.getLsbD 3
  | some (.tmovIn x) => x.imm.getLsbD 3
  | some (.lrun _) => true
  | _ => false

/-- The step at which a word that a trap handler returns to continues (14 R445): TRAP_VAL bits 29:24 of a multi-step word,
unless its trap was ALIGN or LOC_RANGE. -/
def returnStep (c : Core) (w : Word) : Nat :=
  let code := BitVec.ofNat 8 c.trapCause.toNat
  if isMultiStep w && code != causeAlign && code != causeLocRange then bitsOf c.trapVal 24 6 else 0

/-- Whether the trap that a handler returns from was that of the body word at RPT_STATE's position, and not of a scalar
instruction that stopped the buffer between two issues (05 R173; 14 R445). -/
def Core.trapInBody (c : Core) : Bool :=
  c.trapPc == c.rptState.extractLsb' 16 16 + BitVec.ofNat 16 (8 * bitsOf c.rptState 48 3)

/-- The scalar instruction at the PC of a core that comes back to it after a trap of a body word: what was suspended, if it is that
instruction (05 R173; log 71). -/
def Core.comesBack (c : Core) : Option Suspended := c.suspended.filter fun x => x.pc == c.pc

/-- trapret of 14 R445, the return beside TakeTrap: privilege and INTRAP, then the repeat buffer from RPT_STATE or the
PC. -/
def trapReturn (skip : Bool) : Op Next := do
  let c ← getMe
  modMe fun c => { c with prv := c.pprv, intrap := false }
  if c.rptState.getLsbD 63 then
    resumeRpt skip
    if !skip && c.trapInBody then
      modMe fun c => { c with rptProgress := (c.rpt.map (fun r => returnStep c r.next)).getD 0 }
    let c ← getMe
    modMe fun c => { c with suspended := none, answer := (c.comesBack.map (·.answer)).getD c.answer }
    return .resume c.pc ((c.comesBack.map (·.progress)).getD 0)
  if skip then return .goto (c.trapPc + 8)
  let s ← get
  return .resume c.trapPc (returnStep c (fetchWord s s.cur c.trapPc.toNat))

/-- trapret (14 R445). -/
def execTrapret (x : FormY) : State → Host.Outcome State Fault Refusal := issue (.trapret x) (trapReturn false)

/-- trapret.skip (14 R445). -/
def execTrapretSkip (x : FormY) : State → Host.Outcome State Fault Refusal :=
  issue (.trapretSkip x) (trapReturn true)

/-- idle has the effect of done on every visible state (14 R448). -/
def execIdle (x : FormY) : State → Host.Outcome State Fault Refusal :=
  issue (.idle x) do
    modMe (·.endTask)
    return .keep

end Sys2Proof.Machine
end

