-- ==== Sys2Proof/Machine/Gang.lean ====
section
/-! DEFINITION. Gangs of tensor macros: who belongs to one, the barrier of a gang operation, and the traps that the head
passes on (09 R311-R315). -/

namespace Sys2Proof.Machine

/-- GANG of a member at a position of a gang of size + 1 (09 R304). -/
def gangReg (pos size : Nat) : BitVec 8 := BitVec.ofNat 8 (2 ^ 7 + pos * 2 ^ 4 + size)

/-- The cores of the gang of size + 1 roles in which core lid has position pos, the head first; none when the gang leaves
the region (09 R311). -/
def gangRoles (s : State) (lid pos size : Nat) : Option (List Nat) :=
  match s.regionOf lid with
  | none => none
  | some r =>
    let role := r.roleOf lid
    if role % r.w < pos ∨ r.w ≤ role % r.w - pos + size then none
    else (List.range (size + 1)).mapM fun k => r.bind[role - pos + k]?

/-- The wait at the barrier of a gang and of a tgang (09 R312, R313). -/
def gangWait : Word := waitVal 6 0 16

/-- Whether a wait is that of a step after the barrier. -/
def gangStepWait (val : Word) : Bool := !(bitsOf val 0 4 == 6 && val.getLsbD 20)

/-- Whether a core's gang operation issued from its repeat buffer: while that runs no other tensor instruction issues
(05 R172). -/
def gangPort (c : Core) : Bool := c.rpt.isSome

/-- The tensor macro of a core changed. -/
def Core.modTensor (c : Core) (f : Tensor → Tensor) : Core := { c with tensor := f c.tensor }

/-- A QUEUE_PROTOCOL trap of a gang member whose operation waits at the barrier (09 R313, R314). -/
def gangTrap (val : Word) (s : State) (lid : Nat) : State :=
  let c := s.core lid
  let s := s.setCore lid (c.modTensor fun t => { t with gangOp := none })
  takeTrap s lid { code := causeQueue, val, sub := 0 } (c.execPc (gangPort c)) false (c.tensor.gangOp.getD 0)

/-- The members of a core's gang other than itself that wait at the barrier of a gang operation. -/
def gangOthers (s : State) (lid : Nat) : List Nat :=
  let g := (s.core lid).tensor.gang
  if g.getLsbD 7 then
    (((gangRoles s lid (bitsOf g 4 3) (bitsOf g 0 3)).getD []).filter fun l =>
      l != lid && (s.core l).tensor.gangOp.isSome)
  else []

/-- The trap of the other members when the head traps in step i of a gang operation (09 R314). -/
def gangOthersTrap (s : State) (lid i : Nat) : State :=
  if (s.core lid).tensor.gangOp.isSome && bitsOf (s.core lid).tensor.gang 4 3 == 0 then
    (gangOthers s lid).foldl (gangTrap (BitVec.ofNat 64 (2 ^ 13 + 2 ^ 15 + i * 2 ^ 24))) s
  else s

end Sys2Proof.Machine
end

