-- ==== Sys2Proof/Machine/TaskEvents.lean ====
section
/-! DEFINITION. What the task engine does by itself: the end of a wait, the picker, the inbox, and the end of a
speculation (05 R163-R169; 11 R361, R368, R371). -/

namespace Sys2Proof.Machine

/-! ## The end of a speculation (11 R368) -/

/-- A speculation discarded: the checkpoint's registers come back, the path's stores, flags and deferred trap are dropped,
and the PC is given (11 R368). -/
def Core.discardSpec (c : Core) (pc : BitVec 16) : Core :=
  match c.spec with
  | none => c
  | some sp =>
    { c with
      regs := sp.ckpt.regs, flags := sp.ckpt.flags, vregs := sp.ckpt.vregs, vtags := sp.ckpt.vtags,
      preds := sp.ckpt.preds, ras := sp.ckpt.ras, rasSp := sp.ckpt.rasSp, rpt := none, wait := none, rptWait := none,
      progress := 0, rptProgress := 0, issued := false, rptIssued := false, spec := none, specDis := c.specDis + 1,
      specRun := BitVec.ofNat 7 sp.count, specHeld := BitVec.ofNat 6 sp.held.length, pc }

/-! ## WAIT_TIMEOUT (05 R169) -/

/-- Whether a wait of a core has reached WAIT_LIMIT (05 R160, R169); a core that an atomic engine has answered waits no
more. -/
def State.expired (s : State) (lid : Nat) (w : Wait) : Bool :=
  let c := s.core lid
  let limit := if c.waitLimit = 0 then 2 ^ 40 else c.waitLimit.toNat
  let stopped := bitsOf w.val 0 4 == 7 &&
    (match s.groupOf lid (bitsOf w.val 8 3) with
     | some (_, g) => g.stopped s
     | none => false)
  w.timed && c.answer.isNone && !stopped && decide (limit ≤ (s.cycle - BitVec.ofNat 64 w.start).toNat)

/-- What an instruction had put into other units while it waited is withdrawn, since it has no effect (05 R169): a gang
join or gang operation, an rtset's hold on its entry, a migration, a request at the atomic engine whose answer it waits for, the last
only where the instruction is not a word of the repeat buffer. A barrier arrival, other contributions and excusals stand (11 R371,
R378). -/
def State.withdraw (s : State) (lid : Nat) (inRpt : Bool) : State :=
  let c := s.core lid
  let s := (s.dropMigs [lid]).setCore lid
    { c with
      tensor := { c.tensor with join := none, gangOp := none },
      router := { c.router with rtsetWait := none }, answer := if inRpt then c.answer else none }
  if inRpt then s else s.withdrawRequests lid

/-- WAIT_TIMEOUT at the scalar port or the repeat buffer of a core; a speculating core discards its speculation first, and
TRAP_PC is then the cbr's (05 R169; 11 R371). -/
def timeoutAt (s : State) (lid : Nat) (inRpt : Bool) (w : Wait) : State :=
  let s := (if gangStepWait w.val then gangOthersTrap s lid (bitsOf w.val 24 6) else s).withdraw lid (inRpt && (s.core lid).spec.isNone)
  let c := s.core lid
  let t : TrapInfo := { code := causeTimeout, val := w.val, sub := 0 }
  match c.spec with
  | some sp =>
    let s' := s.setCore lid (c.discardSpec sp.ckpt.pc)
    takeTrap s' lid t sp.ckpt.pc false (fetchWord s' lid sp.ckpt.pc.toNat)
  | none => takeTrap s lid t (c.execPc inRpt) false (s.portWord lid Rpt.next inRpt)

/-- The core with its expired wait ended by WAIT_TIMEOUT; unchanged when none has expired, or while a body word of the repeat
buffer is between two of its steps (05 R173). -/
def timeout (s : State) (lid : Nat) : State :=
  let c := s.core lid
  match c.rptWait.filter (s.expired lid), c.wait.filter (s.expired lid) with
  | some w, _ => timeoutAt s lid true w
  | none, some w => if c.midBody then s else timeoutAt s lid false w
  | none, none => s

/-- WAIT_TIMEOUT (05 R169); a path that a deferred trap has stopped waits for its outcome and comes to its limit as well
(11 R371). -/
def execWaitTimeout (lid : Nat) (s : State) : Host.Outcome State Fault Refusal :=
  if coreCount ≤ lid then .fault .noSuchUnit
  else .next (if s.runsTask lid then timeout s lid else s)

/-! ## The picker (05 R163, R164) -/

/-- The flags that the picker tests: those of the checkpoint while the core speculates (11 R366). -/
def Core.pickFlags (c : Core) : BitVec 8 :=
  match c.spec with
  | some sp => sp.ckpt.flags
  | none => c.flags

/-- Words 0 and 1 of trigger entry n (05 R162). -/
def Core.trigWord (c : Core) (n w : Nat) : Word := Table.get 0 c.trig (2 * n + w)

/-- Ready(n) of 05 R163. -/
def Core.ready (c : Core) (n : Nat) : Bool :=
  let w0 := c.trigWord n 0
  let flags := (List.range 7).all fun k =>
    !w0.getLsbD (33 + k) || (c.pickFlags.getLsbD (k + 1) == w0.getLsbD (26 + k))
  let queues := (List.range 8).all fun j => !w0.getLsbD (40 + j) || !(c.queue j).isEmpty
  let head := match (c.queue (bitsOf w0 53 3)).head? with
    | none => !(w0.getLsbD 59 || w0.getLsbD 61)
    | some h =>
      (!w0.getLsbD 59 || h.kind == bitsOf w0 56 3) && (!w0.getLsbD 61 || h.seq == bitsOf (c.trigWord n 1) 16 16)
  let need := match bitsOf w0 51 2 with
    | 0 => 0 | 1 => 1 | 2 => 2 | _ => 8
  w0.getLsbD 63 && !c.trigBusy.getLsbD n && flags && queues && head && decide (c.router.outq.length + need ≤ 8)

/-- The entry at a priority position of TRIG_ORDER (05 R160). -/
def Core.trigAt (c : Core) (i : Nat) : Nat := bitsOf c.trigOrder (4 * i) 4

/-- The position of the first ready entry (05 R164). -/
def Core.firstReady (c : Core) : Option Nat := (List.range 16).find? fun i => c.ready (c.trigAt i)

/-- TRIG_ORDER with the entry at position i moved to position 15 (05 R164). -/
def rotateOrder (order : Word) (i : Nat) : Word :=
  let lo := order.toNat % 2 ^ (4 * i)
  let n := bitsOf order (4 * i) 4
  BitVec.ofNat 64 (lo + order.toNat / 2 ^ (4 * i + 4) * 2 ^ (4 * i) + n * 2 ^ 60)

/-- Whether the picker of a core may create a task (05 R164; 14 R440, R446). -/
def State.picks (s : State) (lid : Nat) : Bool :=
  let c := s.core lid
  s.coreLive lid && c.live && !c.halted && !c.noTasks && decide (c.runq.length < 32)

/-- The entry at position i fires: BUSY, the task, SEQINC and ROT (05 R164). -/
def Core.fire (c : Core) (i : Nat) : Core :=
  let n := c.trigAt i
  let w0 := c.trigWord n 0
  let w1 := c.trigWord n 1
  let c := { c with
    trigBusy := putBits c.trigBusy n 1 1
    lastSource := some true
    trig := if w0.getLsbD 60 then Table.set 0 (2 * n + 1) (putBits w1 16 16 (bitsOf w1 16 16 + 1)) c.trig else c.trig
    trigOrder := if w0.getLsbD 62 then rotateOrder c.trigOrder i else c.trigOrder }
  c.appendTask { entry := w0.setWidth 16, origin := BitVec.ofNat 6 n, m0 := 0 }

/-- TRIGGER_FIRE (05 R164): the first ready entry, when the trigger table has the turn. -/
def execTriggerFire (lid : Nat) (s : State) : Host.Outcome State Fault Refusal :=
  if coreCount ≤ lid then .fault .noSuchUnit
  else
    let c := s.core lid
    match c.firstReady with
    | some i =>
      if s.picks lid && (c.unbound.isEmpty || c.lastSource != some true) then .next (s.setCore lid (c.fire i))
      else .next s
    | none => .next s

/-- The unbound message at the inbox head bound to a new task (05 R164, R165). -/
def Core.bindMessage (c : Core) (k : Nat) (rest : List Nat) : Core :=
  let handler := ((Table.find c.inbox k).map (·.hdr)).getD 0
  { c with unbound := rest, lastSource := some false }.appendTask
    { entry := handler.setWidth 16, origin := BitVec.ofNat 6 (16 + k), m0 := 0 }

/-- INBOX_TASK_CREATE (05 R164): when the inbox has the turn. -/
def execInboxTaskCreate (lid : Nat) (s : State) : Host.Outcome State Fault Refusal :=
  if coreCount ≤ lid then .fault .noSuchUnit
  else
    let c := s.core lid
    match c.unbound with
    | k :: rest =>
      if s.picks lid && (c.firstReady.isNone || c.lastSource == some true) then .next (s.setCore lid (c.bindMessage k rest))
      else .next s
    | [] => .next s

/-- The lowest free inbox slot (05 R165). -/
def Core.freeSlot (c : Core) : Option Nat := (List.range 16).find? fun k => (Table.find c.inbox k).isNone

/-- INBOX_ACCEPT (05 R165; 08 R268): the message in the assembly buffer enters the lowest free slot; each of its flits is
consumed there (08 R285). -/
def execInboxAccept (lid : Nat) (s : State) : Host.Outcome State Fault Refusal :=
  if coreCount ≤ lid then .fault .noSuchUnit
  else
    let c := s.core lid
    match c.router.asm, c.freeSlot with
    | [h, a, b, d], some k =>
      if s.coreLive lid && c.live && !c.noTasks then
        let word (f : Flit) (i : Nat) : Word := f.payload.extractLsb' (64 * i) 64
        let m : Msg := { hdr := word h 0, words := [a, b, d].flatMap (fun f => [word f 0, word f 1]) }
        let c := { c with
          router := { c.router with asm := [] }, inbox := Table.put k m c.inbox, unbound := c.unbound ++ [k] }
        .next (s.setCore lid ([h, a, b, d].foldl (fun c f => c.consumeNow f 0 2) c))
      else .next s
    | _, _ => .next s

/-- WAIT_UNTIL_CYCLE_REACHED (05 R191): the wait.until on which a core is stalled executes again. -/
def execWaitUntilCycleReached (lid : Nat) (s : State) : Host.Outcome State Fault Refusal :=
  if coreCount ≤ lid then .fault .noSuchUnit
  else
    match decodeWord (s.wordAt lid) with
    | .ok (.waitUntil x) =>
      if s.canIssue lid && (s.core lid).wait.isSome then execWaitUntil x { s with cur := lid, inRpt := false } else .next s
    | _ => .next s

end Sys2Proof.Machine
end

