-- ==== Sys2Proof/Machine/Tree.lean ====
section
/-! DEFINITION. The crown tree: episodes and their results, excusal, barriers, counts, the collective branch with its
outcome, and groups that span modules (11 R355-R382; 13 R411; 12 R390 for the steps that barriers count). -/

namespace Sys2Proof.Machine

/-! ## Contributions and episodes (11 R358, R360) -/

/-- The group with an episode in progress: one that begins excuses the members with a standing excusal and those that a
bexcuse named. -/
def Group.begin (g : Group) : Group :=
  if g.inEp then g
  else { g with inEp := true, excused := g.members.filter (fun m => g.standing m || g.once.contains m), once := [] }

/-- A contribution made to the episode in progress. -/
def Group.contribute (g : Group) (c : Contribution) : Group :=
  let g := g.begin
  { g with contribs := g.contribs ++ [c] }

/-- Whether a member has contributed to the episode in progress. -/
def Group.contributed (g : Group) (m : Member) : Bool := g.contribs.any (·.who == m)

/-- Whether every member has contributed, is excused, or has left with its region (11 R358, R360; 01 R32). -/
def Group.allIn (g : Group) (s : State) : Bool :=
  g.members.all fun m => g.contributed m || g.excused.contains m || s.endedMember m

/-- One contribution as a partial. -/
def Contribution.alone (c : Contribution) : Partial :=
  { gkey := 0, seq := 0, and := c.bit, or := c.bit, count := c.count, kind := some c.kind, mis := false }

/-- Two partials merged: kinds or operators that differ are a mismatch (11 R358). -/
def Partial.merge (a b : Partial) : Partial :=
  { a with
    and := a.and && b.and, or := a.or || b.or, count := a.count + b.count
    kind := a.kind.orElse fun _ => b.kind
    mis := a.mis || b.mis || (a.kind.isSome && b.kind.isSome && a.kind != b.kind) }

/-- The partial of no contribution: AND 1, OR 0, kind none (11 R358). -/
def Partial.none (gkey seq : BitVec 32) : Partial :=
  { gkey, seq, and := true, or := false, count := 0, kind := Option.none, mis := false }

/-- What this module's contributors give: contributions of excused members are absent (11 R358). -/
def Group.gathered (g : Group) (gkey : BitVec 32) : Partial :=
  (g.contribs.filter (fun c => !g.excused.contains c.who)).foldl (fun p c => p.merge c.alone) (Partial.none gkey g.seq)

/-- KIND of a result word (11 R359). -/
def kindCode : Option TreeKind → Nat
  | none => 0
  | some .barrier => 1
  | some (.branch _) => 2
  | some .count => 3

/-- TAKEN of a result (11 R358). -/
def Partial.taken (p : Partial) : Bool :=
  match p.kind with
  | some (.branch or) => if or then p.or else p.and
  | _ => false

/-- The result word of an episode (11 R358, R359), XSELF clear. -/
def Partial.word (p : Partial) : Word :=
  let low :=
    if p.mis then 2 ^ 19
    else min p.count 65535 + bit p.and * 2 ^ 16 + bit p.or * 2 ^ 17 + bit p.taken * 2 ^ 18 + kindCode p.kind * 2 ^ 21
  BitVec.ofNat 64 (low + p.seq.toNat * 2 ^ 32)

/-- Fields of a result word (11 R359). -/
def resSeq (w : Word) : BitVec 32 := w.extractLsb' 32 32
def resKind (w : Word) : Nat := bitsOf w 21 3
def resXself (w : Word) : Bool := w.getLsbD 20
def resMis (w : Word) : Bool := w.getLsbD 19
def resTaken (w : Word) : Bool := w.getLsbD 18

/-- A core passes a barrier episode on ch0, counted at its cluster (12 R390). -/
def State.passBarrier (s : State) (lid : Nat) : State :=
  let e := s.cluster (clusterOf lid)
  s.setCluster (clusterOf lid) { e with det := Table.set 0 lid (Table.get 0 e.det lid + 1) e.det }

/-- A member passes a barrier episode on ch0; one whose region is evicted passes it in the engine that is saved with the region (12
R390, R398). -/
def State.passMember (s : State) (m : Member) : State :=
  match s.coreAt m, s.regions.find? (·.id == m.1) with
  | some lid, _ => s.passBarrier lid
  | none, some r =>
    let rc := m.2 / r.w / 8 * 144 + m.2 % r.w / 8
    match Table.find r.savedCells rc with
    | some e => s.setRegion { r with savedCells := Table.put rc { e with det := Table.set 0 m.2 (Table.get 0 e.det m.2 + 1) e.det } r.savedCells }
    | none => s
  | none, none => s

/-- The end of the episode in progress of group n: a message leaves for every member whose region has not ended, with
XSELF for the excused ones; an excused member passes a barrier episode on ch0 now (11 R358-R360; 12 R390). -/
def finishEpisode (s : State) (n : Nat) (g : Group) (msg : TreeMsg) : State :=
  let live := g.members.filter fun m => !s.endedMember m
  let mine (m : Member) : TreeMsg :=
    match msg with
    | .result w => .result (if g.excused.contains m then w ||| 0x100000 else w)
    | f => f
  let passes : List Member :=
    match msg with
    | .result w =>
      if g.ch = 0 ∧ resKind w = 1 then live.filter g.excused.contains else []
    | .failed .. => []
  let s := passes.foldl State.passMember s
  let g := { g with
    seq := g.seq + 1, inEp := false, contribs := [], excused := [], sent := false, asked := false, partials := []
    sending := g.sending ++ live.map (fun m => (m, mine m)) }
  { s with groups := Table.put n g s.groups }

/-! ## Groups across modules (13 R411; log 24 for the body of a crown frame) -/

/-- A crown frame's body: what it says (0 a partial, 1 a result, 2 held, 3 no longer held, 4 a failure,
5 a partial asked back, 6 a partial given back), the ranks it comes from and goes to, the entry, channel and KEY of the group, a
partial, and a result word. A count from 2^20 on saturates as one of 2^20 - 1 does, at 65,535 (11 R358). -/
def crownBody (what src dst : Nat) (g : Group) (p : Partial) (w : Word) : BitVec 448 :=
  BitVec.ofNat 448 (p.gkey.toNat + p.seq.toNat * 2 ^ 32 + min p.count (2 ^ 20 - 1) * 2 ^ 64 + bit p.and * 2 ^ 84
    + bit p.or * 2 ^ 85 + kindCode p.kind * 2 ^ 86
    + bit (match p.kind with | some (.branch or) => or | _ => false) * 2 ^ 88 + bit p.mis * 2 ^ 89 + what * 2 ^ 90
    + src * 2 ^ 93 + dst * 2 ^ 103 + g.link.getD 0 % 2 ^ 8 * 2 ^ 113 + g.ch % 2 ^ 3 * 2 ^ 121 + w.toNat * 2 ^ 128
    + g.key % 2 ^ 32 * 2 ^ 192)

/-- The partial in a crown frame's body. -/
def crownPartial (b : BitVec 448) : Partial :=
  let kind : Option TreeKind :=
    match bitsOf b 86 2 with
    | 0 => none
    | 1 => some .barrier
    | 2 => some (.branch (b.getLsbD 88))
    | _ => some .count
  { gkey := b.extractLsb' 0 32, seq := b.extractLsb' 32 32, and := b.getLsbD 84, or := b.getLsbD 85,
    count := bitsOf b 64 20, kind, mis := b.getLsbD 89 }

/-- A crown frame sent to a rank, where a port reaches it. -/
def sendCrown (s : State) (what dst : Nat) (g : Group) (p : Partial) (w : Word) : State :=
  match portFor s dst 0 with
  | some port => sendFrame s port 3 (crownBody what s.mg.rank.toNat dst g p w)
  | none => s

/-- The ranks of the entry that a group spans. -/
def Group.ranks (g : Group) (s : State) : List Nat :=
  match g.link with
  | some ge => membersOf (s.geWord g.job ge)
  | none => []

/-- GKEY of the entry that a group spans. -/
def Group.gkey (g : Group) (s : State) : BitVec 32 :=
  match g.link with
  | some ge => geKey (s.geWord g.job ge 16)
  | none => 0

/-- The module of lowest rank forms the result once every rank's partial is there and a port reaches every other rank; a GKEY or
SEQ that differs fails the episode at every member (13 R411). -/
def formAcross (s : State) (n : Nat) (g : Group) (ranks : List Nat) : State :=
  match ranks.mapM (fun r => Table.find g.partials r) with
  | none => s
  | some ps =>
    let others := ranks.filter (· != s.mg.rank.toNat)
    let none' := Partial.none (g.gkey s) g.seq
    if !others.all (fun r => (portFor s r 0).isSome) then s
    else if ps.all (fun p => p.gkey == g.gkey s && p.seq == g.seq) then
      let w := (ps.foldl Partial.merge none').word
      finishEpisode (others.foldl (fun s r => sendCrown s 1 r g none' w) s) n g (.result w)
    else
      let toward (r : Nat) : Partial := { none' with seq := ((Table.find g.partials r).map (·.seq)).getD g.seq }
      finishEpisode (others.foldl (fun s r => sendCrown s 4 r g (toward r) 2) s) n g (.failed 2 g.seq)

/-- A crown frame's body taken by the group it names, if this module has it; a failure names the episode that it ends by the SEQ that
its receiver has for it, so that one which comes late does nothing. -/
def crownTake (s : State) (n : Nat) (g : Group) (b : BitVec 448) : State :=
  let src := bitsOf b 93 10
  let put (g : Group) : State := { s with groups := Table.put n g s.groups }
  match bitsOf b 90 3 with
  | 0 => put { g with partials := Table.put src (crownPartial b) g.partials }
  | 1 => finishEpisode s n g (.result (b.extractLsb' 128 64))
  | 2 => put { g with held := src :: g.held.filter (· != src) }
  | 3 => restartWaits s (put { g with held := g.held.filter (· != src) })
  | 4 => if (crownPartial b).seq = g.seq then finishEpisode s n g (.failed (bitsOf b 128 4) g.seq) else s
  | 5 =>
    if (Table.find g.partials src).isSome then
      sendCrown (put { g with partials := Table.erase src g.partials }) 6 src g (Partial.none (g.gkey s) g.seq) 0
    else s
  | 6 => put { g with sent := false, asked := false }
  | _ => s

/-- Whether a crown frame's body names a group by its entry, channel and KEY. -/
def Group.namedIn (g : Group) (b : BitVec 448) : Bool :=
  g.link == some (bitsOf b 113 8) && g.ch == bitsOf b 121 3 && g.key == bitsOf b 192 32

/-- The group that a crown frame's body names: the one with its GKEY, else one that its sender is a member of, whose GKEY then
disagrees (13 R411; log 24). -/
def State.crownGroup (s : State) (b : BitVec 448) : Option (Nat × Group) :=
  let named := s.groups.filter fun p => p.2.namedIn b
  (named.find? fun p => p.2.gkey s == b.extractLsb' 0 32).or
    (named.find? fun p => (p.2.ranks s).contains (bitsOf b 93 10))

/-- The crown frames that came before the group they name was there are taken now. -/
def crownPending (s : State) : State :=
  s.crownIn.foldl (fun s b =>
    match s.crownGroup b with
    | some (n, g) => crownTake s n g b
    | none => { s with crownIn := s.crownIn ++ [b] }) { s with crownIn := [] }

/-- CROWN_PARTIAL_FRAME (13 R411). -/
def execCrownPartialFrame (port : Nat) (fr : BitVec 512) (s : State) : Host.Outcome State Fault Refusal :=
  frameEvent port 3 fr s fun s b =>
    if bitsOf b 103 10 ≠ s.mg.rank.toNat then s else crownPending { s with crownIn := s.crownIn ++ [b] }

/-- The other ranks of a group that a report must reach and that a port reaches now: "held" where one of its regions here is not
LIVE, "no longer held" for those that were told so where all are LIVE again (13 R411). -/
def Group.toTell (g : Group) (s : State) : List Nat :=
  ((g.ranks s).filter (· != s.mg.rank.toNat)).filter fun r => g.told.contains r != g.idle s && (portFor s r 0).isSome

/-- A group that spans modules reports to the ranks that it can reach; the others are told once a port reaches them (13 R411). -/
def reportHeld (s : State) (n : Nat) (g : Group) : State :=
  let idle := g.idle s
  let ranks := g.toTell s
  let s := ranks.foldl (fun s r => sendCrown s (if idle then 2 else 3) r g (Partial.none (g.gkey s) g.seq) 0) s
  let told := if idle then g.told ++ ranks else g.told.filter (!ranks.contains ·)
  { s with groups := Table.put n { g with told } s.groups }

/-- The other ranks that the rank map reaches now. -/
def State.ranksReached (s : State) : List Nat :=
  (s.mg.rankmap.map (·.1)).filter fun r => r != s.mg.rank.toNat && (portFor s r 0).isSome

/-- The episode of a group that spans modules, all local members being in: an entry that cannot be used fails it at every member,
so every rank is told, since the entry names none (log 24); the lowest rank keeps its partial, any other sends it there, once a
port reaches that rank (13 R411). -/
def completeAcross (s : State) (n : Nat) (g : Group) (ge : Nat) : State :=
  let self := s.mg.rank.toNat
  if !s.geUsable g.job ge then
    let none' := Partial.none (g.gkey s) g.seq
    finishEpisode (s.ranksReached.foldl (fun s r => sendCrown s 4 r g none' 1) s) n g (.failed 1 g.seq)
  else
    let ranks := g.ranks s
    let p := g.gathered (g.gkey s)
    match ranks with
    | [] => s
    | low :: _ =>
      if low = self then
        let g := { g with partials := Table.put self p g.partials }
        formAcross { s with groups := Table.put n g s.groups } n g ranks
      else if g.sent || (portFor s low 0).isNone then s
      else sendCrown { s with groups := Table.put n { g with sent := true } s.groups } 0 low g p 0

/-- EPISODE_COMPLETE (11 R358): once every member that is not excused has contributed, the root forms the result. A bexcuse
that leaves no member to wait for begins and ends an episode. -/
def execEpisodeComplete (g : Nat) (s : State) : Host.Outcome State Fault Refusal :=
  match Table.find s.groups g with
  | none => .next s
  | some gr =>
    if gr.link.isSome && !(gr.toTell s).isEmpty then .next (reportHeld s g gr)
    else if !gr.inEp && gr.once.isEmpty then .next s
    else
      let gr := gr.begin
      if !gr.allIn s then .next s
      else
        match gr.link with
        | some ge => .next (completeAcross s g gr ge)
        | none => .next (finishEpisode s g gr (.result (gr.gathered 0).word))

/-! ## Results at a core (11 R359, R368, R371, R377) -/

/-- A channel of a core. -/
def Core.chan (c : Core) (ch : Nat) : Chan := Table.get Chan.reset c.chans ch

/-- A core with a channel replaced. -/
def Core.setChan (c : Core) (ch : Nat) (k : Chan) : Core := { c with chans := Table.set Chan.reset ch k c.chans }

/-- TRAP_VAL of GROUP_FAULT (11 R377). -/
def groupVal (reason ch : Nat) (seq : BitVec 32) : Word := BitVec.ofNat 64 (reason + ch * 2 ^ 8 + seq.toNat * 2 ^ 32)

/-- TRAP_VAL of LINK_GROUP (13 R412). -/
def linkVal (reason ge : Nat) (seq : BitVec 32) : Word := BitVec.ofNat 64 (reason + ge * 2 ^ 8 + seq.toNat * 2 ^ 32)

/-- A speculation committed: the held stores enter the store buffer in order, the held flags FP_FLAGS, and a deferred trap
is taken with SPEC = 1 (11 R368, R370). -/
def commitSpec (s : State) (lid : Nat) (sp : Spec) : State :=
  let c := s.core lid
  let c := { c with
    sb := c.sb ++ sp.held.map (fun h => SbEntry.store lid h.1 h.2), fpFlags := c.fpFlags ||| sp.flags, spec := none
    specCmt := c.specCmt + 1, specRun := BitVec.ofNat 7 sp.count, specHeld := BitVec.ofNat 6 sp.held.length }
  let s := s.setCore lid c
  match sp.deferred with
  | some (t, pc) => takeTrap s lid t pc true (fetchWord s lid pc.toNat)
  | none => s

/-- A speculation discarded, and a trap of its cbr taken (11 R368, R371). -/
def trapAtBranch (s : State) (lid : Nat) (sp : Spec) (t : TrapInfo) : State :=
  let s := s.setCore lid ((s.core lid).discardSpec sp.ckpt.pc)
  takeTrap s lid t sp.ckpt.pc false (fetchWord s lid sp.ckpt.pc.toNat)

/-- The outcome w of the branch episode that a core speculates on (11 R368). -/
def resolveSpec (s : State) (lid : Nat) (sp : Spec) (w : Word) : State :=
  if resMis w then trapAtBranch s lid sp { code := causeGroup, val := groupVal 2 sp.ch (resSeq w), sub := 0 }
  else if resTaken w = sp.predicted then commitSpec s lid sp
  else s.setCore lid ((s.core lid).discardSpec (if sp.predicted then sp.fall else sp.target))

/-- The speculation of a core on a channel's outstanding branch. -/
def Core.specOn (c : Core) (ch : Nat) (k : Chan) : Option Spec := c.spec.filter fun sp => sp.ch == ch && sp.ckpt.pc == k.bpc

/-- A channel with a branch result from whose episode its core was excused (11 R381). -/
def Chan.takeBranch (k : Chan) (w : Word) : Chan := if resXself w && resKind w == 2 then { k with branch := w } else k

/-- A channel on which a MIS result awaits its trap, where w is one (11 R377). -/
def Chan.takeMis (k : Chan) (w : Word) : Chan := if resMis w then { k with mis := some (resSeq w) } else k

/-- A channel after a result of an episode reached its core: the bexcuse that named the episode has its result, the
outstanding contribution to it is outstanding no more, a MIS result of a kind other than a branch awaits its trap, one for a bexcuse
that does not wait any more as well, and a branch result is kept where the core contributed to a branch or was excused from one
(11 R371, R377-R381). waits says that the core stands in the bexcuse. -/
def Chan.take (k : Chan) (waits : Bool) (w : Word) : Chan :=
  let k :=
    if k.one ≠ some (resSeq w) then k
    else if waits then { k with one := none, excuse := some w }
    else { k with one := none }.takeMis w
  match k.out with
  | some kind =>
    if k.seq = resSeq w then
      let k := { k with out := none }
      match kind with
      | .barrier => ({ k with barrier := some w }.takeMis w).takeBranch w
      | .count => ({ k with result := some w }.takeMis w).takeBranch w
      | .branch _ => if resXself w then k.takeBranch w else { k with branch := w }
    else k.takeBranch w
  | none => k.takeBranch w

/-- The predictor after an outcome: entry PC[5:3] of the cbr (11 R365). -/
def Core.learn (c : Core) (pc : BitVec 16) (taken : Bool) : Core :=
  { c with predictor := putBits c.predictor (bitsOf pc 3 3) 1 (bit taken) }

/-- A result word reaches a core (11 R359, R368, R371). A member that is excused from a branch episode receives no outcome
and does not branch. -/
def deliverResult (s : State) (lid ch : Nat) (w : Word) : State :=
  let c := s.core lid
  let k := c.chan ch
  let inBexcuse := c.progress == 2 && c.wait.map (·.val) == some (waitVal 7 ch)
  let s' := s.setCore lid (c.setChan ch (k.take inBexcuse w))
  if k.seq ≠ resSeq w then s'
  else
    match k.out with
    | some .barrier => if ch = 0 ∧ resXself w = false then s'.passBarrier lid else s'
    | some (.branch _) =>
      if resXself w then s'
      else
        let s' := s'.setCore lid ((s'.core lid).learn k.bpc (resTaken w))
        match c.specOn ch k with
        | some sp => resolveSpec s' lid sp w
        | none => s'
    | _ => s'

/-- The failure of a group that spans modules reaches a core: the speculation on it traps at its cbr, else the failure
awaits the next instruction that names the channel (13 R411). -/
def deliverFailure (s : State) (lid ch reason : Nat) (seq : BitVec 32) : State :=
  let c := s.core lid
  let k := c.chan ch
  let ge := (((s.groupOf lid ch).bind (·.2.link)).getD 0)
  let val := linkVal reason ge seq
  let done := { k with out := if k.seq = seq then none else k.out, one := if k.one = some seq then none else k.one }
  match c.specOn ch k with
  | some sp => trapAtBranch (s.setCore lid (c.setChan ch done)) lid sp { code := causeLink, val, sub := 0 }
  | none => s.setCore lid (c.setChan ch { done with linkFail := some val })

/-- The first message on its way to a member. -/
def Group.nextFor (g : Group) (m : Member) : Option TreeMsg := (g.sending.find? (·.1 == m)).map (·.2)

/-- The group without the first message to a member. -/
def Group.dropFor (g : Group) (m : Member) : Group :=
  match g.nextFor m with
  | some x => { g with sending := g.sending.erase (m, x) }
  | none => g

/-- Whether a message is the outcome of a core's outstanding collective branch. -/
def isOutcome (k : Chan) (m : TreeMsg) : Bool :=
  let branch := match k.out with
    | some (.branch _) => true
    | _ => false
  branch && (match m with
    | .result w => k.seq == resSeq w
    | .failed _ seq => k.seq == seq)

/-- The next message on a channel reaches its core, while the core's region is LIVE or DRAINING; outcome selects which of
the two events takes it. -/
def treeArrival (outcome : Bool) (lid ch : Nat) (s : State) : Host.Outcome State Fault Refusal :=
  if coreCount ≤ lid ∨ 8 ≤ ch then .fault .noSuchUnit
  else
    match s.memberOf lid, s.groupOf lid ch, s.regionOf lid with
    | some m, some (n, g), some r =>
      match g.nextFor m with
      | some msg =>
        if isOutcome ((s.core lid).chan ch) msg == outcome && (r.st == .live || r.st == .draining) then
          let s := { s with groups := Table.put n (g.dropFor m) s.groups }
          match msg with
          | .result w => .next (deliverResult s lid ch w)
          | .failed reason seq => .next (deliverFailure s lid ch reason seq)
        else .next s
      | none => .next s
    | _, _, _ => .next s

/-- TREE_RESULT_ARRIVAL (11 R359). -/
def execTreeResultArrival (lid ch : Nat) (s : State) : Host.Outcome State Fault Refusal := treeArrival false lid ch s

/-- OUTCOME_ARRIVAL (11 R368). -/
def execOutcomeArrival (lid ch : Nat) (s : State) : Host.Outcome State Fault Refusal := treeArrival true lid ch s

/-! ## The checks of a channel (11 R377) -/

/-- The executing core's channel changed. -/
def modChan (ch : Nat) (f : Chan → Chan) : Op Unit := modMe fun c => c.setChan ch (f (c.chan ch))

/-- The member and the group of a channel after the checks of 11 R377: BGM.V, a failed group that spans modules, a MIS
result that awaits its trap. -/
def needChan (ch : Nat) : Op (Member × Nat × Group) := do
  let s ← get
  let c := s.me
  if !c.bgm.getLsbD (8 * ch + 7) then trapWith causeGroup (groupVal 1 ch 0)
  match (c.chan ch).linkFail with
  | some val =>
    modChan ch fun k => { k with linkFail := none }
    trapWith causeLink val
  | none => pure ()
  match (c.chan ch).mis with
  | some seq =>
    modChan ch fun k => { k with mis := none }
    trapWith causeGroup (groupVal 2 ch seq)
  | none => pure ()
  match s.memberOf s.cur, s.groupOf s.cur ch with
  | some m, some (n, g) => return (m, n, g)
  | _, _ => trapWith causeGroup (groupVal 1 ch 0)

/-- A class-7 wait on a channel (05 R169). -/
def treeWait (ch : Nat) : Word := waitVal 7 ch

/-- A contribution waits while the channel's previous one is outstanding (11 R358). -/
def waitPrevious (ch : Nat) : Op Unit := do
  waitUnless (((← getMe).chan ch).out.isNone) (treeWait ch)

/-- A contribution sent up the tree (11 R355, R358); the group is read anew. -/
def contribute (ch : Nat) (kind : TreeKind) (b : Bool) (count : Nat) : Op Unit := do
  let s ← get
  match s.memberOf s.cur, s.groupOf s.cur ch with
  | some m, some (n, g) =>
    let g := g.contribute { who := m, bit := b, count, kind }
    set { s with groups := Table.put n g s.groups }
    modChan ch fun k => { k with out := some kind, seq := g.seq, bpc := s.me.pc }
  | _, _ => pure ()

/-! ## Barriers (11 R364, R378) -/

/-- A barrier arrival: the previous episode, the release of 11 R364, then the contribution. -/
def arrive (x : FormB) (g : Group) : Op Unit := do
  let ch := x.ch.toNat
  waitPrevious ch
  releaseAt (if g.link.isSome then 4 else 3)
  let b := (← getMe).flag x.c.toNat
  contribute ch .barrier b (bit b)

/-- barr (11 R378). -/
def execBarr (x : FormB) : State → Host.Outcome State Fault Refusal :=
  issueSeq (.barr x) do
    let (_, _, g) ← needChan x.ch.toNat
    arrive x g

/-- The barrier result taken: an acquire (11 R364, R378). -/
def takeBarrier (x : FormB) (w : Word) : Op Unit := do
  writeS x.d w
  modChan x.ch.toNat fun k => { k with barrier := none }
  acquire

/-- bwait (11 R378). -/
def execBwait (x : FormB) : State → Host.Outcome State Fault Refusal :=
  issueSeq (.bwait x) do
    let ch := x.ch.toNat
    let _ ← needChan ch
    let k := (← getMe).chan ch
    if k.out = some .barrier then throw (.wait (treeWait ch))
    match k.barrier with
    | some w => takeBarrier x w
    | none => trapWith causeGroup (groupVal 3 ch 0)

/-- barw (11 R363, R378): the arrival stands once it is made. -/
def execBarw (x : FormB) : State → Host.Outcome State Fault Refusal :=
  issueSeq (.barw x) do
    let ch := x.ch.toNat
    let (_, _, g) ← needChan ch
    if (← get).progress = 0 then
      arrive x g
      setProgress 1
    let k := (← getMe).chan ch
    if k.out = some .barrier then throw (.hold (treeWait ch))
    match k.barrier with
    | some w => takeBarrier x w
    | none => trapWith causeGroup (groupVal 3 ch 0)

/-! ## Excusal (11 R360, R379) -/

/-- A group replaced. -/
def putGroup (n : Nat) (g : Group) : Op Unit := modify fun s => { s with groups := Table.put n g s.groups }

/-- bexcuse (11 R379); a MIS result that it receives traps (11 R377). Its progress is 2 once the excusal is made. -/
def execBexcuse (x : FormB) : State → Host.Outcome State Fault Refusal :=
  issueSeq (.bexcuse x) do
    let ch := x.ch.toNat
    let (m, n, g) ← needChan ch
    if (← get).progress = 0 then
      if g.inEp && g.contributed m then trapWith causeGroup (groupVal 4 ch g.seq)
      if ((← getMe).chan ch).one.isNone then
        putGroup n (if g.inEp then { g with excused := m :: g.excused.filter (· != m) }
          else { g with once := m :: g.once.filter (· != m) })
        modChan ch fun k => { k with one := some g.seq, excuse := none }
      setProgress 2
    match ((← getMe).chan ch).excuse with
    | some w =>
      if resMis w then
        modChan ch fun k => { k with excuse := none }
        trapWith causeGroup (groupVal 2 ch (resSeq w))
      writeS x.d w
      modChan ch fun k => { k with excuse := none }
    | none => throw (.hold (treeWait ch))

/-- bgleave (11 R379). -/
def execBgleave (x : FormB) : State → Host.Outcome State Fault Refusal :=
  issueSeq (.bgleave x) do
    let (m, n, g) ← needChan x.ch.toNat
    putGroup n { g with left := m :: g.left.filter (· != m) }

/-- bgjoin (11 R379): on a channel where LEFT is 1 it waits while an episode is in progress in which the core is excused. It ends
the excusal of bgleave and bexcuse; one of bmask ends at bmask (11 R360). -/
def execBgjoin (x : FormB) : State → Host.Outcome State Fault Refusal :=
  issueSeq (.bgjoin x) do
    let ch := x.ch.toNat
    let (m, n, g) ← needChan ch
    if g.standing m then
      waitUnless (!(g.inEp && g.excused.contains m)) (treeWait ch)
      putGroup n { g with left := g.left.filter (· != m), once := g.once.filter (· != m) }
      modChan ch fun k => { k with one := none }

/-- bmask (11 R379). -/
def execBmask (x : FormB) : State → Host.Outcome State Fault Refusal :=
  issueSeq (.bmask x) do
    let ch := x.ch.toNat
    let (me, n, g) ← needChan ch
    let a ← readS x.a
    if a &&& 0x7FFFFFFFFFF00000 != 0 then trapWith causeReserved a
    let m : Member := (me.1, bitsOf a 0 20)
    if !g.members.contains m then trapWith causeGroup (groupVal 5 ch 0)
    destReady x.d 1
    let rest := g.masked.filter (· != m)
    putGroup n { g with masked := if a.getLsbD 63 then m :: rest else rest }
    writeS x.d (BitVec.ofNat 64 (bit (g.masked.contains m)))

/-! ## The collective branch (11 R365, R366, R380) -/

/-- The prediction of a hint (11 R365). -/
def predict (c : Core) (ch hint : Nat) : Bool :=
  if hint = 2 then c.bgm.getLsbD (8 * ch + 6) && c.predictor.getLsbD (bitsOf c.pc 3 3) else hint == 1

/-- The checkpoint of a core (11 R366). -/
def Core.checkpoint (c : Core) : Ckpt :=
  { regs := c.regs, flags := c.flags, vregs := c.vregs, vtags := c.vtags, preds := c.preds, ras := c.ras,
    rasSp := c.rasSp, pc := c.pc }

/-- Collective of 11 R380: the contribution, the checkpoint, and the predicted path. A running repeat buffer is waited for: the
checkpoint holds the vector registers, tags and predicates that its lane instructions, which are earlier ones, still write (06
R207; 11 R366; log 25). -/
def branchOp (i : Instr) (x : FormB) (cond : Core → Bool) : State → Host.Outcome State Fault Refusal :=
  issue i do
    let ch := x.ch.toNat
    let _ ← needChan ch
    waitPrevious ch
    let c ← getMe
    if c.rpt.isSome then throw .pipe
    let b := cond c
    contribute ch (.branch (x.bo == 1)) b (bit b)
    let pred := predict c ch x.hn.toNat
    let target := relTarget c.pc x.ofs.toInt
    let fall := c.pc + 8
    modMe fun d => { d with
      spec := some { ckpt := c.checkpoint, ch, predicted := pred, target, fall, held := [], flags := 0, count := 0,
                     deferred := none } }
    return .fork (if pred then target else fall)

/-- cbr (11 R365, R380). -/
def execCbr (x : FormB) : State → Host.Outcome State Fault Refusal :=
  branchOp (.cbr x) x fun c => c.flag x.c.toNat

/-- The bit of cbrv: ANY or ALL of a predicate's lanes under its polarity (11 R365). -/
def branchPred (x : FormB) (c : Core) : Bool :=
  let p := if x.pn = 1 then ~~~c.pred x.pr.toNat else c.pred x.pr.toNat
  if x.qf = 1 then p != 0 else p == 0xFF

/-- cbrv (11 R365, R380). -/
def execCbrv (x : FormB) : State → Host.Outcome State Fault Refusal := branchOp (.cbrv x) x (branchPred x)

/-- cbrres (11 R381). -/
def execCbrres (x : FormB) : State → Host.Outcome State Fault Refusal :=
  issueSeq (.cbrres x) do
    let ch := x.ch.toNat
    let _ ← needChan ch
    let k := (← getMe).chan ch
    match k.out with
    | some (.branch _) => throw (.wait (treeWait ch))
    | _ => writeS x.d k.branch

/-! ## Counts and statistics (11 R381) -/

/-- tcount (11 R381): the operand is read when the count is sent and popped when the instruction completes. -/
def execTcount (x : FormB) : State → Host.Outcome State Fault Refusal :=
  issueSeq (.tcount x) do
    let ch := x.ch.toNat
    if (← get).progress = 0 then
      let _ ← needChan ch
      let s ← get
      let a ← readS x.a
      set s
      waitPrevious ch
      contribute ch .count (a != 0) (min a.toNat 65535)
      modChan ch fun k => { k with result := none }
      setProgress 1
    else
      let _ ← needChan ch
    match ((← getMe).chan ch).result with
    | some w =>
      destReady x.d 1
      let _ ← readS x.a
      modChan ch fun k => { k with result := none }
      writeS x.d w
    | none => throw (.hold (treeWait ch))

/-- The word of specstat (11 R381). -/
def specWord (c : Core) : Word :=
  let (held, run) := match c.spec with
    | some sp => (sp.held.length, sp.count)
    | none => (c.specHeld.toNat, c.specRun.toNat)
  BitVec.ofNat 64 (c.specCmt.toNat + c.specDis.toNat * 2 ^ 16 + run * 2 ^ 32 + held * 2 ^ 40
    + bit c.spec.isSome * 2 ^ 48)

/-- specstat (11 R381). -/
def execSpecstat (x : FormB) : State → Host.Outcome State Fault Refusal :=
  issueSeq (.specstat x) do
    writeS x.d (specWord (← getMe))

end Sys2Proof.Machine
end

