-- ==== Sys2Proof/Machine/Atomic.lean ====
section
/-! DEFINITION. The cluster atomic engine: CLU atomics, fixed-point cells, the order of service, the DET steps of acas, and
the store buffer's performance at its homes (12 R383-R397; 04 R138, R147). -/

namespace Sys2Proof.Machine

/-! ## The operations (12 R393) -/

/-- The new value of a CLU atomic of w bits on old, b and c; none where nothing is written (12 R393). -/
def atomicNew (op w old b c : Nat) : Option Nat :=
  let s (v : Nat) : Int := signed w v
  match op with
  | 0xC0 => some ((old + b) % 2 ^ w)
  | 0xC1 => some (old &&& b)
  | 0xC2 => some (old ||| b)
  | 0xC3 => some (old ^^^ b)
  | 0xC4 => some (if s b < s old then b else old)
  | 0xC5 => some (if s old < s b then b else old)
  | 0xC6 => some (min old b)
  | 0xC7 => some (max old b)
  | 0xC8 => some b
  | 0xC9 => if old = c ∧ b ≠ old then some b else none
  | _ => if old < b then some (old + 1) else none

/-- A CLU atomic performed at the home of its line: the old value and the module after it (12 R393). -/
def performLine (s : State) (r : AtomReq) : Nat × State :=
  let w := 8 * r.width
  let c := s.core r.home
  let old := natOfBytes (cellsAt c.loc r.addr r.width)
  match atomicNew r.op.toNat w old (r.b.toNat % 2 ^ w) (r.c.toNat % 2 ^ w) with
  | some v => (old, s.setCore r.home (c.writeLoc r.addr (bytesOfNat r.width v)))
  | none => (old, s)

/-! ## Cells (12 R384, R394, R395) -/

def cellK (v : BitVec 384) : Int := signed 320 (bitsOf v 0 320)
def cellCnt (v : BitVec 384) : Nat := bitsOf v 320 43
def cellNan (v : BitVec 384) : Bool := v.getLsbD 383
def cellPinf (v : BitVec 384) : Bool := v.getLsbD 382
def cellNinf (v : BitVec 384) : Bool := v.getLsbD 381
def cellExc (v : BitVec 384) : Bool := v.getLsbD 380

/-- A cell from its fields. -/
def mkCell (nan pinf ninf exc : Bool) (cnt : Nat) (k : Int) : BitVec 384 :=
  BitVec.ofNat 384 ((trunc 320 k).toNat + cnt * 2 ^ 320 + bit exc * 2 ^ 380 + bit ninf * 2 ^ 381 + bit pinf * 2 ^ 382
    + bit nan * 2 ^ 383)

/-- The addend of an afadd (12 R394). -/
def cellAddend (ft : BitVec 2) (ftz : Bool) (b : Word) : FpVal :=
  if ft = 0 then fpDecode fp32 ftz (bitsOf b 0 32) else fpDecode bf16 ftz (bitsOf b 0 16)

/-- A cell after an afadd (12 R394). -/
def cellAdd (v : BitVec 384) (x : FpVal) (exc : Bool) : BitVec 384 :=
  let cnt := min (cellCnt v + 1) (2 ^ 42)
  let e := cellExc v || exc
  match x with
  | .nan _ => mkCell true (cellPinf v) (cellNinf v) e cnt (cellK v)
  | .inf false => mkCell (cellNan v) true (cellNinf v) e cnt (cellK v)
  | .inf true => mkCell (cellNan v) (cellPinf v) true e cnt (cellK v)
  | .fin neg m ex =>
    mkCell (cellNan v) (cellPinf v) (cellNinf v) e cnt (cellK v + signedMag neg (m * 2 ^ (ex + 149).toNat))

/-- What afrd delivers of a cell, with its flags (12 R395). -/
def cellRead (ftz : Bool) (v : BitVec 384) : FpRes :=
  let r : FpRes :=
    if cellNan v || (cellPinf v && cellNinf v) || cellCnt v == 2 ^ 42 then (fp32.nan, fNV)
    else if cellPinf v then (fp32.inf false, 0)
    else if cellNinf v then (fp32.inf true, 0)
    else fpRound fp32 0 ftz (decide (cellK v < 0)) false (cellK v).natAbs (-149)
  (r.1, if cellExc v then r.2 ||| flagEXC else r.2)

/-- A cell request performed: the answer (result in bits 31:0, flags above) and the cell's new value (12 R394, R395). -/
def performCell (r : AtomReq) (v : BitVec 384) : Word × BitVec 384 :=
  if r.op = 0xCB then (0, cellAdd v (cellAddend r.ft r.ftz r.b) r.exc)
  else
    let (x, f) := cellRead r.ftz v
    (BitVec.ofNat 64 (x + f.toNat * 2 ^ 32), if r.op = 0xCD then 0 else v)

/-! ## The order of service (12 R385, R386) -/

/-- The lines of the engine's pending requests, plain accesses among them. -/
def Cluster.pendingLines (e : Cluster) : List (Nat × Nat) := (e.lines ++ e.plain).map (·.2.line)

/-- A line brought into the hot-line store; a full store evicts the least recently served line without a request (12
R385). -/
def Cluster.fill (e : Cluster) (l : Nat × Nat) : Cluster :=
  if e.hot.contains l then e
  else if e.hot.length < 64 then { e with hot := e.hot ++ [l] }
  else
    match e.hot.find? (fun h => !e.pendingLines.contains h) with
    | some h => { e with hot := e.hot.erase h ++ [l] }
    | none => e

/-- A core's request answered: one whose result a core waits for gets its answer, a buffered one leaves the store
buffer. -/
def answerLine (s : State) (lid : Nat) (r : AtomReq) (old : Nat) : State :=
  let c := s.core lid
  if r.dNonzero then s.setCore lid { c with answer := some (BitVec.ofNat 64 old) } else s.setCore lid { c with sb := c.sb.tail }

/-- A request that meets a poisoned word is not performed (15 R460; log 74): an instruction that waits for its answer executes again
and traps, and a buffered one leaves the store buffer and traps at the instruction at the core's PC, or freezes the region where the
core runs no task. -/
def poisonedLine (s : State) (lid : Nat) (r : AtomReq) : State :=
  let c := s.core lid
  if r.dNonzero then
    let e := s.cluster (clusterOf lid)
    (s.setCluster (clusterOf lid) { e with detUsed := Table.erase lid e.detUsed }).setCore lid { c with progress := 0 }
  else
    let t : TrapInfo := { code := causePoison, val := BitVec.ofNat 64 r.addr, sub := 0 }
    let s := s.setCore lid { c with sb := c.sb.tail }
    if s.runsTask lid then takeTrap s lid t c.pc false (s.wordAt lid) else freezeAt s lid (trapFault c t c.pc false 0)

/-- A line request performed at the home of its line and answered. -/
def performRequest (s : State) (lid : Nat) (r : AtomReq) : State :=
  if (s.core r.home).locPoisoned r.addr r.width then poisonedLine s lid r
  else
    let (old, s) := performLine s r
    answerLine s lid r old

/-- At most one line request performed at engine cl (12 R386); a plain access that is chosen is performed by its core's own step. -/
def serveLine (s : State) (cl : Nat) : State :=
  let e := s.engine cl
  let e := (e.lines.map (·.2.line)).foldl Cluster.fill e
  let ready := readyLines s e
  match chooseReq s e.linePromo ready with
  | none => s.setCluster cl e
  | some l =>
    match Table.find e.lines l with
    | none => s.setCluster cl e
    | some r => performRequest (s.setCluster cl ((e.chosen l ready).served r.line)) l r

/-- Whether an outstanding .cell collective that has read its source holds a cell of engine cl (13 R410). -/
def State.cellHeld (s : State) (cl n : Nat) : Bool :=
  s.collectives.any fun p =>
    p.2.ko == 7 && p.2.read && decide (p.2.dst ≤ n) && decide (n < p.2.dst + p.2.count)
      && (match s.coreAt p.2.who with
          | some lid => clusterOf lid == cl
          | none => false)

/-- At most one cell request performed at engine cl (12 R386). -/
def serveCell (s : State) (cl : Nat) : State :=
  let e := s.cluster cl
  let ready := (e.cellReqs.filter fun p => s.serves p.1 && !s.cellHeld cl p.2.addr).map (·.1)
  match chooseReq s e.cellPromo ready with
  | none => s
  | some l =>
    match Table.find e.cellReqs l with
    | none => s
    | some r =>
      let (reqs, promoted) := passOver l ready e.cellReqs
      let (ans, v) := performCell r (Table.get 0 e.cells r.addr)
      let e := { e with
        cellReqs := Table.erase l reqs, cellPromo := e.cellPromo.filter (· != l) ++ promoted
        cells := Table.set 0 r.addr v e.cells }
      let s := s.setCluster cl e
      if r.dNonzero then s.setCore l { s.core l with answer := some ans } else s

/-- The number of clusters (12 R383). -/
def clusterCount : Nat := 16128

/-- ATOMIC_SERVE (12 R386). -/
def execAtomicServe (cl : Nat) (s : State) : Host.Outcome State Fault Refusal :=
  if clusterCount ≤ cl then .fault .noSuchUnit else .next (serveCell (serveLine s cl) cl)

/-! ## The DET steps of acas (12 R390) -/

/-- The step that a core is in: one more than the barrier episodes on ch0 that it has passed. -/
def State.detStep (s : State) (lid : Nat) : Nat := Table.get 0 (s.cluster (clusterOf lid)).det lid + 1

/-- The step that a held acas belongs to: the one that was current when the engine received it. -/
def Cluster.heldStep (e : Cluster) (lid : Nat) : Nat := Table.get 0 e.detStep lid

/-- An acas held by the engine. -/
def Cluster.hold (e : Cluster) (lid step : Nat) (r : AtomReq) : Cluster :=
  { e with detHeld := Table.put lid r e.detHeld, detStep := Table.set 0 lid step e.detStep }

/-- A held acas dropped. -/
def Cluster.unhold (e : Cluster) (lid : Nat) : Cluster :=
  { e with detHeld := Table.erase lid e.detHeld, detStep := Table.erase lid e.detStep }

/-- Whether a core has an acas of a step held, has arrived at that step's barrier, or has passed it. -/
def State.detIn (s : State) (cl step lid : Nat) : Bool :=
  let e := s.cluster cl
  let arrived := ((s.core lid).chan 0).out == some .barrier
  decide (step < s.detStep lid) || ((Table.find e.detHeld lid).isSome && e.heldStep lid == step)
    || (decide (s.detStep lid = step) && arrived)

/-- Whether a member is excused from the barrier episode on ch0 that is in progress or comes next: a standing excusal made while one is
in progress counts from the next one on (11 R360). -/
def Group.outOfBarrier (g : Group) (m : Member) : Bool :=
  let barrier := g.contribs.any fun c => c.kind == .barrier
  if g.inEp && barrier then g.excused.contains m else g.standing m || (!g.inEp && g.once.contains m)

/-- Whether every member of the ch0 group in a cluster that is not excused is in a step (12 R390). -/
def State.detReady (s : State) (cl step lid : Nat) : Bool :=
  match s.groupOf lid 0 with
  | none => true
  | some (_, g) =>
    g.members.all fun m =>
      match s.coreAt m with
      | none => true
      | some l =>
        clusterOf l != cl || g.outOfBarrier m || s.detIn cl step l

/-- The keys of held requests in ascending role id. -/
def insertKey (s : State) (l : Nat) : List Nat → List Nat
  | [] => [l]
  | m :: rest => if s.serveKey l ≤ s.serveKey m then l :: m :: rest else m :: insertKey s l rest

/-- A held acas performed and answered. -/
def performHeld (cl : Nat) (s : State) (lid : Nat) : State :=
  let e := s.engine cl
  match Table.find e.detHeld lid with
  | none => s
  | some r => performRequest (s.setCluster cl (((e.unhold lid).fill r.line).served r.line)) lid r

/-- DET_ACAS_STEP (12 R390). -/
def execDetAcasStep (cl : Nat) (s : State) : Host.Outcome State Fault Refusal :=
  if clusterCount ≤ cl then .fault .noSuchUnit
  else
    let held := (s.cluster cl).detHeld.map (·.1)
    match held with
    | [] => .next s
    | l :: rest =>
      let e := s.cluster cl
      let step := rest.foldl (fun m k => min m (e.heldStep k)) (e.heldStep l)
      if s.detReady cl step l && s.serves l then
        let batch := (held.filter fun k => e.heldStep k == step).foldl (fun o k => insertKey s k o) []
        .next (batch.foldl (performHeld cl) s)
      else .next s

/-! ## The store buffer (04 R138, R147) -/

/-- A buffered atomic as a request. -/
def bufferedReq (op : BitVec 8) (home addr width : Nat) (b c : Word) : AtomReq :=
  { op, home, addr, width, b, c, dNonzero := false, ft := 0, exc := false, ftz := false, pass := 0 }

/-- The oldest entry of a core's store buffer: a store is performed at its home, a hot line in the engine's order; an atomic goes to the engine, once, and
leaves the buffer when the engine has performed it. -/
def performOldest (s : State) (lid : Nat) : State :=
  let c := s.core lid
  match c.sb with
  | [] => s
  | .store home a bytes :: rest =>
    match s.plainAccess lid home a with
    | none => s.askTurn lid (bufferedReq 1 home a 0 0 0)
    | some s =>
      let s := s.setCore lid { c with sb := rest }
      s.setCore home ((s.core home).writeLoc a bytes)
  | .atomic op home addr width b d :: _ =>
    let cl := clusterOf lid
    let e := s.cluster cl
    if (Table.find e.lines lid).isSome || (Table.find e.detHeld lid).isSome then s
    else if op = 0xC9 && c.det then
      s.setCluster cl (e.hold lid (s.detStep lid) (bufferedReq op home addr width b d))
    else s.setCluster cl { e with lines := Table.put lid (bufferedReq op home addr width b d) e.lines }

/-- STORE_BUFFER_PERFORM (04 R138). -/
def execStoreBufferPerform (lid : Nat) (s : State) : Host.Outcome State Fault Refusal :=
  if coreCount ≤ lid then .fault .noSuchUnit else .next (if s.serves lid then performOldest s lid else s)

/-! ## The CLU atomics (12 R391-R393) -/

/-- A wait on the cluster's engine (12 R390, R393). -/
def engineWait : Word := waitVal 6 0

/-- The operands of a CLU atomic: the effective address, B, and C for acas. -/
def atomicOperands (x : FormA) (cas : Bool) : Op (Int × Word × Word) := do
  let a ← readBase x.a
  let b ← readS x.b
  let c ← if cas then readS x.c else pure 0
  return (a.toInt + x.disp.toInt, b, c)

/-- The forms that a DET region forbids (12 R389). -/
def detForbids (op : BitVec 8) (d : BitVec 5) : Bool := op == 0xC8 || op == 0xCA || (op != 0xC9 && d != 0)

/-- The checks and the DET bookkeeping of a CLU atomic at its home (12 R389, R390, R392; 15 R460). -/
def atomicChecks (x : FormA) (op : BitVec 8) (lid a n : Nat) : Op Unit := do
  let s ← get
  let c := s.me
  if c.det && detForbids op x.d then trapWith causeAtomic 2
  if c.det && op == 0xC9 && Table.get 0 (s.cluster (clusterOf s.cur)).detUsed s.cur == s.detStep s.cur then
    trapWith causeAtomic 4
  if (s.core lid).locPoisoned a n then trapWith causePoison (BitVec.ofNat 64 a)

/-- The step's acas of a DET core noted (12 R390). -/
def noteAcas (op : BitVec 8) : Op Unit := do
  let s ← get
  if s.me.det && op == 0xC9 then
    let cl := clusterOf s.cur
    let e := s.cluster cl
    set (s.setCluster cl { e with detUsed := Table.set 0 s.cur (s.detStep s.cur) e.detUsed })

/-- A line request at the engine for the executing core. -/
def requestLine (r : AtomReq) : Op Unit := do
  let s ← get
  let cl := clusterOf s.cur
  let e := s.cluster cl
  if s.me.det && r.op == 0xC9 then set (s.setCluster cl (e.hold s.cur (s.detStep s.cur) r))
  else set (s.setCluster cl { e with lines := Table.put s.cur r e.lines })

/-- The engine's answer to the executing core, waited for. -/
def takeAnswer : Op Word := do
  match (← getMe).answer with
  | some w =>
    modMe fun c => { c with answer := none }
    return w
  | none => throw (.hold engineWait)

/-- A CLU atomic (04 R141, R147; 12 R393). With D = s0 and AQ = 0 it enters the store buffer; else it drains the buffer,
goes to the engine and completes with the answer. Its operands are popped when it completes. -/
def atomicOp (i : Instr) (x : FormA) (op : BitVec 8) : State → Host.Outcome State Fault Refusal :=
  issueSeq i do
    let s0 ← get
    let (ea, b, c) ← atomicOperands x (op == 0xC9)
    let n := if x.sz = 2 then 4 else 8
    if s0.progress = 0 then
      checkAlign ea n
      let (lid, a) ← resolveClu ea (x.cm == 1)
      atomicChecks x op lid a n
      if x.rl = 1 then releaseAt x.sc.toNat
      if x.d = 0 ∧ x.aq = 0 then
        waitUnless (decide ((← getMe).sb.length < 16)) engineWait
        noteAcas op
        pushSb (.atomic op lid a n b c)
        return
      waitUnless (← getMe).sb.isEmpty engineWait
      set s0
      if x.rl = 1 then discardFetched
      noteAcas op
      requestLine { op, home := lid, addr := a, width := n, b, c, dNonzero := true, ft := 0, exc := false, ftz := false,
                    pass := 0 }
      setProgress 1
      throw (.hold engineWait)
    match (← getMe).answer with
    | some w =>
      modMe fun c => { c with answer := none }
      writeS x.d w
      if x.aq = 1 then acquire
    | none =>
      set s0
      throw (.hold engineWait)

/-- aadd (12 R393). -/
def execAadd (x : FormA) : State → Host.Outcome State Fault Refusal := atomicOp (.aadd x) x 0xC0
/-- aand (12 R393). -/
def execAand (x : FormA) : State → Host.Outcome State Fault Refusal := atomicOp (.aand x) x 0xC1
/-- aor (12 R393). -/
def execAor (x : FormA) : State → Host.Outcome State Fault Refusal := atomicOp (.aor x) x 0xC2
/-- axor (12 R393). -/
def execAxor (x : FormA) : State → Host.Outcome State Fault Refusal := atomicOp (.axor x) x 0xC3
/-- amin (12 R393). -/
def execAmin (x : FormA) : State → Host.Outcome State Fault Refusal := atomicOp (.amin x) x 0xC4
/-- amax (12 R393). -/
def execAmax (x : FormA) : State → Host.Outcome State Fault Refusal := atomicOp (.amax x) x 0xC5
/-- aminn (12 R393). -/
def execAminn (x : FormA) : State → Host.Outcome State Fault Refusal := atomicOp (.aminn x) x 0xC6
/-- amaxn (12 R393). -/
def execAmaxn (x : FormA) : State → Host.Outcome State Fault Refusal := atomicOp (.amaxn x) x 0xC7
/-- aswap (12 R393). -/
def execAswap (x : FormA) : State → Host.Outcome State Fault Refusal := atomicOp (.aswap x) x 0xC8
/-- acas (12 R390, R393). -/
def execAcas (x : FormA) : State → Host.Outcome State Fault Refusal := atomicOp (.acas x) x 0xC9
/-- aincl (12 R393). -/
def execAincl (x : FormA) : State → Host.Outcome State Fault Refusal := atomicOp (.aincl x) x 0xCA

/-! ## Cell instructions (12 R392, R394-R396) -/

/-- The cell number of a cell instruction, 0-255 (12 R392). -/
def cellNumber (x : FormA) : Op Nat := do
  let a ← readBase x.a
  let n := a.toInt + x.disp.toInt
  if n < 0 ∨ 256 ≤ n then trapWith causeAtomic (1 ||| (trunc 48 n).setWidth 64 <<< 16)
  return n.toNat

/-- A cell request of the executing core, once the engine has acknowledged the previous one (12 R385). -/
def requestCell (op : BitVec 8) (n : Nat) (b : Word) (ft : BitVec 2) (exc answer : Bool) : Op Unit := do
  let s ← get
  let cl := clusterOf s.cur
  let e := s.cluster cl
  waitUnless (Table.find e.cellReqs s.cur).isNone engineWait
  let r : AtomReq :=
    { op, home := s.cur, addr := n, width := 0, b, c := 0, dNonzero := answer, ft, exc, ftz := s.me.ftz, pass := 0 }
  set (s.setCluster cl { e with cellReqs := Table.put s.cur r e.cellReqs })

/-- afadd (12 R394): NV and EXC are the core's at issue. -/
def execAfadd (x : FormA) : State → Host.Outcome State Fault Refusal :=
  issueSeq (.afadd x) do
    let b ← readS x.b
    let n ← cellNumber x
    let c ← getMe
    let nv := (cellAddend x.ft c.ftz b).isSignalling
    requestCell 0xCB n b x.ft (c.fpFlagsRead.getLsbD 6 || nv) false
    if nv then raise flagNV

/-- A cell read: the request, then its answer with its flags (12 R395). -/
def cellReadOp (x : FormA) (op : BitVec 8) : Op Unit := do
  if (← get).progress = 0 then
    let n ← cellNumber x
    requestCell op n 0 0 false true
    setProgress 1
    throw (.hold engineWait)
  let w ← takeAnswer
  raise (w.extractLsb' 32 7)
  writeS x.d (w &&& 0xFFFFFFFF)

/-- afrd (12 R395). -/
def execAfrd (x : FormA) : State → Host.Outcome State Fault Refusal := issueSeq (.afrd x) (cellReadOp x 0xCC)

/-- afclr (12 R395): with D = s0 it clears only. -/
def execAfclr (x : FormA) : State → Host.Outcome State Fault Refusal :=
  issueSeq (.afclr x) do
    if x.d = 0 then
      let n ← cellNumber x
      requestCell 0xCD n 0 0 false false
    else cellReadOp x 0xCD

/-- afence (12 R396). -/
def execAfence (x : FormA) : State → Host.Outcome State Fault Refusal :=
  issueSeq (.afence x) do
    let s ← get
    let atomics := s.me.sb.any fun e =>
      match e with
      | .atomic .. => true
      | .store .. => false
    waitUnless (!atomics && !s.cellPending s.cur) engineWait

end Sys2Proof.Machine
end

