-- ==== Sys2Proof/Machine/Block.lean ====
section
/-! DEFINITION. BX blocks and BA40 blocks: packing, unpacking, layout in flits, vector halves and memory, tensor products,
alignment and addition (02 R50-R71). -/

namespace Sys2Proof.Machine

/-! ## BX blocks (02 R50-R54) -/

/-- A BX block: E, M, and sixteen elements as (sign, magnitude). -/
structure BxBlock where
  e : Nat
  m : Nat
  elems : List (Bool × Nat)
  deriving DecidableEq, Repr

/-- Magnitude bits of a BX format, 0 BX4, 1 BX6, 2 BX8. -/
def bxMag (kind : Nat) : Nat := 2 * kind + 3

/-- Lane width of a BX format. -/
def bxWidth (kind : Nat) : Nat := 2 * kind + 4

/-- The element field of a block, from element j at lane j up (02 R51). -/
def bxFieldFrom (kind : Nat) : List (Bool × Nat) → Nat
  | [] => 0
  | (s, v) :: rest => bit s * 2 ^ bxMag kind + v % 2 ^ bxMag kind + 2 ^ bxWidth kind * bxFieldFrom kind rest

/-- The element field of a block (02 R51). -/
def BxBlock.field (b : BxBlock) (kind : Nat) : Nat := bxFieldFrom kind b.elems

/-- E in bits 7:0 and M in bits 15:8 (02 R54). -/
def BxBlock.scaleWord (b : BxBlock) : Nat := b.e + 256 * b.m

/-- A block from its element field, E and M (02 R51). -/
def bxOf (kind field e m : Nat) : BxBlock :=
  { e, m,
    elems := (List.range 16).map fun j =>
      let v := field / 2 ^ (bxWidth kind * j) % 2 ^ bxWidth kind
      (decide (2 ^ bxMag kind ≤ v), v % 2 ^ bxMag kind) }

/-- A block from its element field and its scale word (02 R54). -/
def bxOfScale (kind field scale : Nat) : BxBlock := bxOf kind field (scale % 256) (scale / 256 % 256)

/-- The canonical zero block of positive sign (02 R57). -/
def bxZero : BxBlock := { e := 0, m := 0xFF, elems := List.replicate 16 (false, 0) }

/-- Whether a block is special (02 R52). -/
def BxBlock.special (b : BxBlock) (tec : Bool) : Bool := tec && b.e == 255

/-- μ of element j's pair. -/
def BxBlock.mu (b : BxBlock) (j : Nat) : Nat := b.m / 2 ^ (j / 2) % 2

/-- The exact values of a block's elements (02 R50, R52, R58). -/
def BxBlock.values (b : BxBlock) (kind : Nat) (tec : Bool) : List FpVal :=
  b.elems.mapIdx fun j (s, v) =>
    if b.special tec then if v = 0 then .inf s else .nan false
    else .fin s v ((b.e : Int) - 127 - b.mu j - (bxMag kind - 1))

/-- The signed scaled magnitudes (−1)^s × a′ of a block; zero in a special block (02 R50, R65). -/
def BxBlock.scaled (b : BxBlock) (tec : Bool) : List Int :=
  b.elems.mapIdx fun j (s, v) => if b.special tec then 0 else signedMag s (v * 2 ^ (1 - b.mu j))

/-! ## Packing (02 R55-R57) -/

/-- RNEq of a finite value's magnitude over 2^k; 0 for a NaN or an infinity. -/
def rneOver (k : Int) : FpVal → Nat
  | .fin _ m e => if k ≤ e then m * 2 ^ (e - k).toNat else rneNat m (k - e).toNat
  | _ => 0

/-- Whether a finite value is a multiple of 2^k. -/
def multipleOf (k : Int) : FpVal → Bool
  | .fin _ m e => decide (k ≤ e) || m % 2 ^ (k - e).toNat == 0
  | _ => true

/-- Whether a value's magnitude is below 2^k; a NaN packs as zero (02 R55). -/
def belowPow (k : Int) : FpVal → Bool
  | .fin _ m e => m == 0 || decide (e + Nat.log2 m < k)
  | .nan _ => true
  | .inf _ => false

/-- What a pair of elements packs to at exponent E: μ, both magnitudes, and their flags (02 R55, R57). -/
structure PackedPair where
  mu : Nat
  a : Nat
  b : Nat
  flags : BitVec 7
  deriving DecidableEq, Repr

/-- NX and UF of one finite element packed in units of 2^u (02 R57). -/
def packFlags (u : Int) (v : FpVal) : BitVec 7 :=
  (if multipleOf u v then 0 else fNX) ||| (if !v.isZero && !v.isNan && !v.isInf && rneOver u v == 0 then fUF else 0)

/-- The loop body of 02 R55 for one pair. -/
def packPair (m : Nat) (e : Int) (a b : FpVal) : PackedPair :=
  let u1 := e - 128 - (m - 1)
  let u0 := e - 127 - (m - 1)
  if belowPow (e - 127) a && belowPow (e - 127) b && rneOver u1 a != 2 ^ m && rneOver u1 b != 2 ^ m then
    { mu := 1, a := rneOver u1 a, b := rneOver u1 b, flags := packFlags u1 a ||| packFlags u1 b }
  else { mu := 0, a := rneOver u0 a, b := rneOver u0 b, flags := packFlags u0 a ||| packFlags u0 b }

/-- The loop body of 02 R55 for eight pairs. -/
def packPairs (m : Nat) (e : Int) : List FpVal → List PackedPair
  | a :: b :: rest => packPair m e a b :: packPairs m e rest
  | _ => []

/-- The sign that a value packs with: a NaN packs with sign 0 (02 R55). -/
def packSign (v : FpVal) : Bool := v.isNeg

/-- A block of packed pairs at exponent E; cap is the largest magnitude delivered, which an infinity takes (02 R56). -/
def packedBlock (e : Nat) (cap : Nat) (xs : List FpVal) (ps : List PackedPair) : BxBlock :=
  let mags := ps.flatMap fun p => [p.a, p.b]
  { e
    m := ps.reverse.foldl (fun m p => 2 * m + p.mu) 0
    elems := (xs.zip mags).map fun (v, g) => (packSign v, if v.isInf then cap else Nat.min g cap) }

/-- The flags of packed pairs, with NV for a NaN input in finite mode (02 R57). -/
def packedFlags (xs : List FpVal) (ps : List PackedPair) : BitVec 7 :=
  ps.foldl (fun f p => f ||| p.flags) 0 ||| (if xs.any (·.isNan) then fNV else 0)

/-- Overflow and SpecialBlock in special mode (02 R56). The flags are those that R56 lists: whether R57's NX and UF are raised for its
finite elements too is left open, and the model raises neither: DESIGN CHOICE (log 65). Unsafe for claims about NX and UF of a
special block. -/
def specialBlock (m : Nat) (xs : List FpVal) : BxBlock × BitVec 7 :=
  let big (v : FpVal) : Bool := decide (2 ^ m ≤ rneOver (254 - 127 - (m - 1)) v)
  let toInf (v : FpVal) : Bool := v.isInf || big v
  ({ e := 255, m := 0, elems := xs.map fun v => if toInf v then (v.isNeg, 0) else (false, 1) },
    (if xs.any big then fOF ||| fNX else 0)
      ||| (if xs.any (fun v => v.isSignalling || (!v.isNan && !toInf v)) then fNV else 0))

/-- Overflow of 02 R56. -/
def packOverflow (m : Nat) (tec : Bool) (xs : List FpVal) : BxBlock × BitVec 7 :=
  if tec then specialBlock m xs
  else
    let ps := packPairs m 255 xs
    (packedBlock 255 (2 ^ m - 1) xs ps, packedFlags xs ps ||| fOF ||| fSA ||| fNX)

/-- The loop of 02 R55 from exponent e, with fuel for the exponents that remain. -/
def packFrom (m : Nat) (tec : Bool) (xs : List FpVal) : Nat → Nat → BxBlock × BitVec 7
  | 0, _ => packOverflow m tec xs
  | fuel + 1, e =>
    let ps := packPairs m e xs
    if ps.any (fun p => p.a == 2 ^ m || p.b == 2 ^ m) then packFrom m tec xs fuel (e + 1)
    else (packedBlock e (2 ^ m - 1) xs ps, packedFlags xs ps)

/-- The smallest exponent at which every value lies below 2^(E − 126). -/
def packStart (xs : List FpVal) : Nat :=
  xs.foldl (fun r v =>
    match v with
    | .fin _ m e => if m = 0 then r else Nat.max r (e + Nat.log2 m + 127).toNat
    | _ => r) 0

/-- Pack of 02 R55 for a BX format. -/
def bxPack (kind : Nat) (tec : Bool) (xs : List FpVal) : BxBlock × BitVec 7 :=
  let m := bxMag kind
  let emax := if tec then 254 else 255
  if tec && xs.any (fun v => v.isNan || v.isInf) then specialBlock m xs
  else if xs.any (·.isInf) then packOverflow m tec xs
  else packFrom m tec xs (emax + 1 - packStart xs) (packStart xs)

/-! ## BX blocks in flits and vector halves (02 R53) -/

/-- The SCALE of a flit of one block: E and M in the upper bytes. -/
def bxScale1 (b : BxBlock) : BitVec 32 := BitVec.ofNat 32 (b.e * 2 ^ 24 + b.m * 2 ^ 16)

/-- The blocks that a payload and SCALE hold in a BX format, the earlier first (02 R53). -/
def bxBlocks (kind : Nat) (payload : Quad) (scale : BitVec 32) : List BxBlock :=
  let b0 := bxOf kind (bitsOf payload 0 (16 * bxWidth kind)) (bitsOf scale 24 8) (bitsOf scale 16 8)
  if kind = 0 then [b0, bxOf 0 (bitsOf payload 64 64) (bitsOf scale 8 8) (bitsOf scale 0 8)] else [b0]

/-- The payload and SCALE of blocks in a BX format: two blocks for BX4, one otherwise (02 R53). -/
def bxHalf (kind : Nat) (bs : List BxBlock) : Quad × BitVec 32 :=
  match bs with
  | [a, b] =>
    (BitVec.ofNat 128 (a.field kind + b.field kind * 2 ^ 64),
      BitVec.ofNat 32 (a.e * 2 ^ 24 + a.m * 2 ^ 16 + b.e * 2 ^ 8 + b.m))
  | a :: _ => (BitVec.ofNat 128 (a.field kind), bxScale1 a)
  | [] => (0, 0)

/-! ## BA40 blocks (02 R66-R71) -/

/-- A BA40 block of zeros, whose exponent takes part in alignment as −32768. -/
def Ba40.zero : Ba40 := { elems := List.replicate 16 0, exp := -32768 }

/-- Whether every element is 0. -/
def Ba40.isZero (b : Ba40) : Bool := b.elems.all (· == 0)

/-- The exponent with which a block takes part in alignment (02 R68). -/
def Ba40.alignExp (b : Ba40) : Int := if b.isZero then -32768 else b.exp

/-- Elements rounded by k places, and whether a nonzero bit went. -/
def rneAll (k : Nat) (xs : List Int) : List Int × Bool := (xs.map (rne · k), xs.any fun v => v % 2 ^ k != 0)

/-- A result of BA40 arithmetic: the block, its flags, and whether a RENORM event happened. -/
structure Ba40Sum where
  block : Ba40
  flags : BitVec 7
  renorm : Bool
  deriving DecidableEq, Repr

/-- The renormalisation loop of 02 R68, R69 at exponent g. -/
def renormLoop : Nat → List Int → Int → BitVec 7 → Bool → Ba40Sum
  | 0, t, g, f, r => { block := { elems := t, exp := g }, flags := f, renorm := r }
  | fuel + 1, t, g, f, r =>
    if t.any (fun v => decide (2 ^ 38 ≤ v.natAbs)) then
      if 32767 ≤ g then
        { block := { elems := t.map fun v => if v = 0 then 0 else if v < 0 then -(2 ^ 38 - 1) else 2 ^ 38 - 1,
                     exp := 32767 },
          flags := f ||| fOF ||| fSA, renorm := r }
      else
        let (t', x) := rneAll 1 t
        renormLoop fuel t' (g + 1) (f ||| (if x then fNX else 0)) true
    else { block := { elems := t, exp := g }, flags := f, renorm := r }

/-- AddBA40 of 02 R68, R69 with its flags. -/
def addBa40 (a b : Ba40) : Ba40Sum :=
  let e := a.alignExp
  let f := b.alignExp
  let g := max e f
  let (i, x) := rneAll (g - e).toNat a.elems
  let (j, y) := rneAll (g - f).toNat b.elems
  renormLoop 64 (List.zipWith (· + ·) i j) g (if x || y then fNX else 0) (decide (e < f))

/-- A block aligned up to exponent t (08 R279): a zero block and one already there stay. -/
def preAlign (b : Ba40) (t : Int) : Ba40 × Bool :=
  if b.isZero || decide (t ≤ b.exp) then (b, false)
  else
    let (xs, inexact) := rneAll (t - b.exp).toNat b.elems
    ({ elems := xs, exp := t }, inexact)

/-- The BA40 block of a BX block's scaled magnitudes; a special block enters as zero (08 R278; 02 R65). -/
def BxBlock.toBa40 (b : BxBlock) (kind : Nat) (tec : Bool) : Ba40 :=
  if b.special tec then Ba40.zero else { elems := b.scaled tec, exp := (b.e : Int) - 127 - bxMag kind }

/-- The exact values of a BA40 block's elements (02 R71). -/
def Ba40.values (b : Ba40) : List FpVal := b.elems.map fun v => .fin (decide (v < 0)) v.natAbs b.exp

/-- The element field of a BA40 block (02 R66). -/
def ba40Field : List Int → Nat
  | [] => 0
  | v :: rest => (BitVec.ofInt 40 v).toNat + 2 ^ 40 * ba40Field rest

/-- A BA40 block from its element field and exponent bits (02 R66). -/
def ba40Of (field e : Nat) : Ba40 :=
  { elems := (List.range 16).map fun j => signed 40 (field / 2 ^ (40 * j)), exp := signed 16 e }

/-- The five payloads of a BA40 block (02 R66). -/
def Ba40.parts (b : Ba40) : List Quad := (List.range 5).map fun p => BitVec.ofNat 128 (ba40Field b.elems / 2 ^ (128 * p))

/-- SCALE bits 15:0 of a BA40 flit (02 R66). -/
def Ba40.expBits (b : Ba40) : BitVec 16 := BitVec.ofInt 16 b.exp

/-- The element field of payloads, part 0 first. -/
def partsField : List Quad → Nat
  | [] => 0
  | q :: rest => q.toNat + 2 ^ 128 * partsField rest

/-- A BA40 block from its five flits (02 R66). -/
def ba40OfFlits (fs : List Flit) : Ba40 :=
  ba40Of (partsField (fs.map (·.payload))) (((fs.head?).map fun f => bitsOf f.side 0 16).getD 0)

/-- The 88-byte memory record of a BA40 block (02 R66). -/
def Ba40.record (b : Ba40) : List Byte :=
  bytesOfNat 80 (ba40Field b.elems) ++ bytesOfNat 8 b.expBits.toNat

/-- A BA40 block from its memory record (02 R66; 09 R323). -/
def ba40OfRecord (bytes : List Byte) : Ba40 :=
  ba40Of (natOfBytes (bytes.take 80)) (natOfBytes ((bytes.drop 80).take 2))

/-! ## Tensor products (02 R64, R65) -/

/-- The exact sum of one column and its exponent. -/
def columnSum (a : List Int) (ea : Int) (b : List Int) (eb : Int) : Int × Int :=
  ((List.zipWith (· * ·) a b).foldl (· + ·) 0, ea + eb)

/-- One half's contribution from its sixteen column sums (02 R64), and whether a nonzero bit went. -/
def halfContribution (ps : List (Int × Int)) : Ba40 × Bool :=
  let nz := ps.filter (fun p => p.1 != 0)
  match nz with
  | [] => (Ba40.zero, false)
  | p :: rest =>
    let f := rest.foldl (fun m q => max m q.2) p.2 - 18
    ({ elems := ps.map fun (v, e) => if f ≤ e then v * 2 ^ (e - f).toNat else rne v (f - e).toNat, exp := f },
      ps.any fun (v, e) => decide (e < f) && v % 2 ^ (f - e).toNat != 0)

end Sys2Proof.Machine
end

