-- ==== Sys2Proof/Machine/Lane.lean ====
section
/-! DEFINITION. The lane unit (06 R196-R224): predication, element arithmetic, compares, moves, conversions, block packing,
reductions, and vector loads and stores. -/

namespace Sys2Proof.Machine

/-! ## Elements and lanes (06 R197, R200) -/

/-- The element width of ET (06 R197). -/
def vWidth (x : FormV) : Nat := etWidth x.et

/-- The element count of a width. -/
def laneCount (w : Nat) : Nat := 256 / w

/-- Element j of a vector (06 R197). -/
def elemOf (v : Vec) (w j : Nat) : Nat := bitsOf v (w * j) w

/-- Elements joined, element 0 at the low end. -/
def joinFrom (w : Nat) : List Nat → Nat
  | [] => 0
  | v :: rest => v % 2 ^ w + 2 ^ w * joinFrom w rest

/-- A vector from its elements. -/
def vecOf (w : Nat) (xs : List Nat) : Vec := BitVec.ofNat 256 (joinFrom w xs)

/-- The lane of element j (06 R197). -/
def laneOf (w j : Nat) : Nat := j / (laneCount w / 8)

/-- Whether PR and PN select lane k (06 R200). -/
def vSel (x : FormV) (c : Core) (k : Nat) : Bool := (c.pred x.pr.toNat).getLsbD k == (x.pn == 0)

/-- The use act of the predicate: f gives each element of a selected lane with its flags, another keeps its old bits (06
R200, R211). -/
def laneMap (c : Core) (x : FormV) (w : Nat) (old : Vec) (f : Nat → Nat × BitVec 7) : Vec × BitVec 7 :=
  (List.range (laneCount w)).foldr
    (fun j (v, fl) =>
      let r := if vSel x c (laneOf w j) then f j else (elemOf old w j, 0)
      (BitVec.ofNat 256 (r.1 % 2 ^ w + 2 ^ w * v.toNat), fl ||| r.2)) ((0 : Vec), 0)

/-- The FMT of a queue destination by the type written (06 R203). -/
def laneFmt (et : Nat) : Nat :=
  match et with
  | 8 => 3
  | 7 => 4
  | 6 => 5
  | 2 | 5 => 2
  | 0 | 3 => 9
  | _ => 1

/-- The old value of a destination: a queue has none (06 R203). -/
def oldOf (c : Core) (d : BitVec 5) : Vec := if d.toNat < 24 then c.vreg d.toNat else 0

/-- A result of a type other than bx written with its flags; its tags become 0 (06 R198, R203). -/
def laneWrite (d : BitVec 5) (fmt : Nat) (r : Vec × BitVec 7) : Op Unit := do
  destReady d 2
  raise r.2
  writeV d r.1 0 (some fmt)

/-- A vector source, read only when the instruction has it. -/
def readIf (has : Bool) (r : BitVec 5) : Op Vec := do if has then return (← readV r false).1 else return 0

/-- An element-wise instruction of n vector sources A, B, C (06 R211). -/
def laneOp (i : Instr) (x : FormV) (n : Nat) (f : Core → Nat → Nat → Nat → Nat × BitVec 7) :
    State → Host.Outcome State Fault Refusal :=
  issueSeq i do
    let a ← readIf (decide (1 ≤ n)) x.a
    let b ← readIf (decide (2 ≤ n)) x.b
    let e ← readIf (decide (3 ≤ n)) x.c
    let c ← getMe
    let w := vWidth x
    laneWrite x.d (laneFmt x.et.toNat)
      (laneMap c x w (oldOf c x.d) fun j => f c (elemOf a w j) (elemOf b w j) (elemOf e w j))

/-! ## Integer elements (02 R47; 06 R211) -/

/-- Whether a type code is signed. -/
def etSigned (et : Nat) : Bool := decide (et < 3)

/-- An element read as ET reads it. -/
def etInt (et w v : Nat) : Int := if etSigned et then signed w v else (v % 2 ^ w : Nat)

/-- The bounds of an integer type. -/
def etLo (et w : Nat) : Int := if etSigned et then -(2 ^ (w - 1)) else 0
def etHi (et w : Nat) : Int := if etSigned et then 2 ^ (w - 1) - 1 else 2 ^ w - 1

/-- Fix of 06 R211: saturated with SA, or wrapped. -/
def fixInt (et w : Nat) (saturate : Bool) (v : Int) : Nat × BitVec 7 :=
  if saturate then
    let r := sat v (etLo et w) (etHi et w)
    ((r % 2 ^ w).toNat, if r = v then 0 else fSA)
  else ((v % 2 ^ w).toNat, 0)

/-- SAT of the immediate (06 R205). -/
def vSat (x : FormV) : Bool := x.imm.getLsbD 18

/-- An element of a floating-point type as a value under MODE.FTZ. -/
def elemVal (c : Core) (et v : Nat) : FpVal := fpDecode (fpOf et) c.ftz v

/-- An operation with an integer and a floating-point meaning, by ET (06 R211, R212). -/
def byType (x : FormV) (fi : Int → Int → Int)
    (ff : FpFormat → BitVec 2 → Bool → FpVal → FpVal → FpRes) (c : Core) (a b : Nat) : Nat × BitVec 7 :=
  let et := x.et.toNat
  let w := vWidth x
  if fpType et then ff (fpOf et) x.rm c.ftz (elemVal c et a) (elemVal c et b)
  else fixInt et w (vSat x) (fi (etInt et w a) (etInt et w b))

/-- A floating-point operation of three operands. -/
def byFp (x : FormV) (ff : FpFormat → BitVec 2 → Bool → FpVal → FpVal → FpVal → FpRes) (c : Core) (a b d : Nat) :
    Nat × BitVec 7 :=
  let et := x.et.toNat
  ff (fpOf et) x.rm c.ftz (elemVal c et a) (elemVal c et b) (elemVal c et d)

/-- 1, for a reciprocal. -/
def fpOne : FpVal := .fin false 1 0

/-- vadd (06 R211, R212). -/
def execVadd (x : FormV) : State → Host.Outcome State Fault Refusal :=
  laneOp (.vadd x) x 2 fun c a b _ => byType x (· + ·) fpAdd c a b

/-- vsub (06 R211, R212). -/
def execVsub (x : FormV) : State → Host.Outcome State Fault Refusal :=
  laneOp (.vsub x) x 2 fun c a b _ => byType x (· - ·) (fun f rm z a b => fpAdd f rm z a b.neg) c a b

/-- vmul (06 R211, R212). -/
def execVmul (x : FormV) : State → Host.Outcome State Fault Refusal :=
  laneOp (.vmul x) x 2 fun c a b _ => byType x (· * ·) fpMul c a b

/-- vmin (06 R211, R212). -/
def execVmin (x : FormV) : State → Host.Outcome State Fault Refusal :=
  laneOp (.vmin x) x 2 fun c a b _ => byType x min (fun f _ _ a b => fpMinMax f false a b) c a b

/-- vmax (06 R211, R212). -/
def execVmax (x : FormV) : State → Host.Outcome State Fault Refusal :=
  laneOp (.vmax x) x 2 fun c a b _ => byType x max (fun f _ _ a b => fpMinMax f true a b) c a b

/-- vabs (06 R211, R212). -/
def execVabs (x : FormV) : State → Host.Outcome State Fault Refusal :=
  laneOp (.vabs x) x 1 fun c a _ _ => byType x (fun a _ => (a.natAbs : Int)) (fun f _ _ a _ => fpSign f true a) c a 0

/-- vneg (06 R211, R212). -/
def execVneg (x : FormV) : State → Host.Outcome State Fault Refusal :=
  laneOp (.vneg x) x 1 fun c a _ _ => byType x (fun a _ => -a) (fun f _ _ a _ => fpSign f false a) c a 0

/-- vfma (06 R212). -/
def execVfma (x : FormV) : State → Host.Outcome State Fault Refusal :=
  laneOp (.vfma x) x 3 fun c a b d => byFp x (fpFma) c a b d

/-- vfms (06 R212). -/
def execVfms (x : FormV) : State → Host.Outcome State Fault Refusal :=
  laneOp (.vfms x) x 3 fun c a b d => byFp x (fun f rm z a b d => fpFma f rm z a b d.neg) c a b d

/-- vfnma (06 R212). -/
def execVfnma (x : FormV) : State → Host.Outcome State Fault Refusal :=
  laneOp (.vfnma x) x 3 fun c a b d => byFp x (fun f rm z a b d => fpFma f rm z a.neg b d) c a b d

/-- vand (06 R211). -/
def execVand (x : FormV) : State → Host.Outcome State Fault Refusal :=
  laneOp (.vand x) x 2 fun _ a b _ => (a &&& b, 0)

/-- vor (06 R211). -/
def execVor (x : FormV) : State → Host.Outcome State Fault Refusal :=
  laneOp (.vor x) x 2 fun _ a b _ => (a ||| b, 0)

/-- vxor (06 R211). -/
def execVxor (x : FormV) : State → Host.Outcome State Fault Refusal :=
  laneOp (.vxor x) x 2 fun _ a b _ => (a ^^^ b, 0)

/-- A shift by SH, or by the elements of B when I = 0; f gets the width, the element and the count (06 R211). -/
def laneShift (i : Instr) (x : FormV) (f : Nat → Nat → Nat → Nat) : State → Host.Outcome State Fault Refusal :=
  laneOp i x (if x.imm.getLsbD 19 then 1 else 2) fun _ a b _ =>
    (f (vWidth x) a (if x.imm.getLsbD 19 then bitsOf x.imm 0 6 else b), 0)

/-- vshl (06 R211). -/
def execVshl (x : FormV) : State → Host.Outcome State Fault Refusal :=
  laneShift (.vshl x) x fun w a s => if w ≤ s then 0 else a * 2 ^ s % 2 ^ w

/-- vshr (06 R211). -/
def execVshr (x : FormV) : State → Host.Outcome State Fault Refusal :=
  laneShift (.vshr x) x fun w a s => if w ≤ s then 0 else a / 2 ^ s

/-- vsra (06 R211). -/
def execVsra (x : FormV) : State → Host.Outcome State Fault Refusal :=
  laneShift (.vsra x) x fun w a s => (signed w a / 2 ^ Nat.min s (w - 1) % 2 ^ w).toNat

/-- vrcp (06 R212). -/
def execVrcp (x : FormV) : State → Host.Outcome State Fault Refusal :=
  laneOp (.vrcp x) x 1 fun c a _ _ => byFp x (fun f rm z a _ _ => (fun f rm z a => fpDiv f rm z fpOne a) f rm z a) c a 0 0

/-- vrsqrt (06 R212). -/
def execVrsqrt (x : FormV) : State → Host.Outcome State Fault Refusal :=
  laneOp (.vrsqrt x) x 1 fun c a _ _ => byFp x (fun f rm z a _ _ => fpRsqrt f rm z a) c a 0 0

/-- vexp2 (06 R212). -/
def execVexp2 (x : FormV) : State → Host.Outcome State Fault Refusal :=
  laneOp (.vexp2 x) x 1 fun c a _ _ => byFp x (fun f rm z a _ _ => fpExp2 f rm z a) c a 0 0

/-- vlog2 (06 R212). -/
def execVlog2 (x : FormV) : State → Host.Outcome State Fault Refusal :=
  laneOp (.vlog2 x) x 1 fun c a _ _ => byFp x (fun f rm z a _ _ => fpLog2 f rm z a) c a 0 0

/-- vsqrt (06 R212). -/
def execVsqrt (x : FormV) : State → Host.Outcome State Fault Refusal :=
  laneOp (.vsqrt x) x 1 fun c a _ _ => byFp x (fun f rm z a _ _ => fpSqrt f rm z a) c a 0 0

/-- vdiv (06 R212). -/
def execVdiv (x : FormV) : State → Host.Outcome State Fault Refusal :=
  laneOp (.vdiv x) x 2 fun c a b _ => byFp x (fun f rm z a b _ => fpDiv f rm z a b) c a b 0

/-- The class bit of an element (06 R214). -/
def classOf (f : FpFormat) (v : Nat) : Nat :=
  match fpDecode f false v with
  | .inf true => 0
  | .fin true m _ => if m = 0 then 3 else if m < 2 ^ f.frac then 2 else 1
  | .fin false m _ => if m = 0 then 4 else if m < 2 ^ f.frac then 5 else 6
  | .inf false => 7
  | .nan true => 8
  | .nan false => 9

/-- vclass (06 R214). -/
def execVclass (x : FormV) : State → Host.Outcome State Fault Refusal :=
  laneOp (.vclass x) x 1 fun _ a _ _ => (2 ^ classOf (fpOf x.et.toNat) a, 0)

/-- Lane k of vdot4: the exact sum, then Fix over 32 bits (06 R213). -/
def dotLane (et : Nat) (saturate : Bool) (a b e : Vec) (k : Nat) : Nat × BitVec 7 :=
  let et32 := if etSigned et then 2 else 5
  let t := (List.range 4).foldl
    (fun t i => t + etInt et 8 (elemOf a 8 (4 * k + i)) * etInt et 8 (elemOf b 8 (4 * k + i))) (etInt et32 32 (elemOf e 32 k))
  fixInt et32 32 saturate t

/-- vdot4: a queue destination takes FMT 2 (06 R213). -/
def execVdot4 (x : FormV) : State → Host.Outcome State Fault Refusal :=
  issueSeq (.vdot4 x) do
    let a ← readIf true x.a
    let b ← readIf true x.b
    let e ← readIf true x.c
    let c ← getMe
    laneWrite x.d 2 (laneMap c x 32 (oldOf c x.d) fun k => dotLane x.et.toNat (vSat x) a b e k)

/-! ## Compares, selection and predicates (06 R201, R215-R217) -/

/-- Whether a compare of integers holds, by CC. -/
def intCondition (cc : Nat) (a b : Int) : Bool :=
  match cc with
  | 0 => decide (a = b)
  | 1 => decide (a ≠ b)
  | 2 => decide (a < b)
  | 3 => decide (a ≤ b)
  | 4 => decide (b < a)
  | _ => decide (b ≤ a)

/-- A compare of one element, with its flags (06 R215). -/
def elemCompare (x : FormV) (c : Core) (a b : Nat) : Bool × BitVec 7 :=
  let et := x.et.toNat
  let cc := bitsOf x.imm 0 4
  if fpType et then fpCondition cc (elemVal c et a) (elemVal c et b)
  else (intCondition cc (etInt et (vWidth x) a) (etInt et (vWidth x) b), 0)

/-- The predicate and flags of vcmp (06 R215). -/
def compareLanes (x : FormV) (c : Core) (a b : Vec) : Nat × BitVec 7 :=
  let w := vWidth x
  let el := bitsOf x.imm 4 2
  (List.range 8).foldl
    (fun (p, fl) k =>
      if vSel x c k then
        let j := k * (laneCount w / 8) + el
        let r := elemCompare x c (elemOf a w j) (elemOf b w j)
        (p + bit r.1 * 2 ^ k, fl ||| r.2)
      else (p, fl)) (0, 0)

/-- The OR or AND of a predicate over the selected lanes (06 R201, R217). -/
def quantified (x : FormV) (c : Core) (all : Bool) (p : Nat) : Bool :=
  if all then (List.range 8).all fun k => !vSel x c k || decide (p / 2 ^ k % 2 = 1)
  else (List.range 8).any fun k => vSel x c k && decide (p / 2 ^ k % 2 = 1)

/-- vcmp (06 R201, R215). -/
def execVcmp (x : FormV) : State → Host.Outcome State Fault Refusal :=
  issueSeq (.vcmp x) do
    let a ← readIf true x.a
    let b ← readIf true x.b
    let c ← getMe
    let r := compareLanes x c a b
    raise r.2
    modMe (·.setPred x.d.toNat (BitVec.ofNat 8 r.1))
    if x.qf != 0 then modMe (·.setFlag x.c.toNat (quantified x c (x.qf == 2) r.1))

/-- vsel (06 R216). -/
def execVsel (x : FormV) : State → Host.Outcome State Fault Refusal :=
  issueSeq (.vsel x) do
    let bx := x.et == 9
    let (a, ta) ← readV x.a bx
    let (b, tb) ← readV x.b bx
    let c ← getMe
    if bx then
      let pick {n : Nat} (u v : BitVec (n + n)) : BitVec (n + n) :=
        (if vSel x c 4 then u else v).extractLsb' n n ++ (if vSel x c 0 then u else v).extractLsb' 0 n
      writeV x.d (pick (n := 128) a b) (pick (n := 36) ta tb) none
    else
      let w := vWidth x
      let r := vecOf w ((List.range (laneCount w)).map fun j => elemOf (if vSel x c (laneOf w j) then a else b) w j)
      writeV x.d r 0 (some (laneFmt x.et.toNat))

/-- The combination of two predicates by LO (06 R217). -/
def predLogic (lo : Nat) (a b : BitVec 8) : BitVec 8 :=
  match lo with
  | 0 => a &&& b
  | 1 => a ||| b
  | 2 => a ^^^ b
  | 3 => a &&& ~~~b
  | 4 => a ||| ~~~b
  | 5 => ~~~(a &&& b)
  | 6 => ~~~(a ||| b)
  | _ => ~~~a

/-- vplog (06 R217). -/
def execVplog (x : FormV) : State → Host.Outcome State Fault Refusal :=
  issueSeq (.vplog x) do
    let c ← getMe
    modMe (·.setPred x.d.toNat (predLogic (bitsOf x.imm 0 3) (c.pred x.a.toNat) (c.pred x.b.toNat)))

/-- vpany (06 R217). -/
def execVpany (x : FormV) : State → Host.Outcome State Fault Refusal :=
  issueSeq (.vpany x) do
    let c ← getMe
    modMe (·.setFlag x.d.toNat (quantified x c false (c.pred x.a.toNat).toNat))

/-- vpall (06 R217). -/
def execVpall (x : FormV) : State → Host.Outcome State Fault Refusal :=
  issueSeq (.vpall x) do
    let c ← getMe
    modMe (·.setFlag x.d.toNat (quantified x c true (c.pred x.a.toNat).toNat))

/-- vpset (06 R217). -/
def execVpset (x : FormV) : State → Host.Outcome State Fault Refusal :=
  issueSeq (.vpset x) do
    let a ← readS x.a
    modMe (·.setPred x.d.toNat (a.setWidth 8 ||| x.imm.setWidth 8))

/-! ## Moves and permutes (06 R218, R219) -/

/-- vbcast (06 R218). -/
def execVbcast (x : FormV) : State → Host.Outcome State Fault Refusal :=
  issueSeq (.vbcast x) do
    let a ← readS x.a
    let c ← getMe
    laneWrite x.d (laneFmt x.et.toNat) (laneMap c x (vWidth x) (oldOf c x.d) fun _ => (a.toNat % 2 ^ (vWidth x), 0))

/-- vperm (06 R218). -/
def execVperm (x : FormV) : State → Host.Outcome State Fault Refusal :=
  issueSeq (.vperm x) do
    let a ← readIf true x.a
    let b ← readIf true x.b
    let c ← getMe
    let w := vWidth x
    laneWrite x.d (laneFmt x.et.toNat)
      (laneMap c x w (oldOf c x.d) fun j => (elemOf a w (elemOf b w j % laneCount w), 0))

/-- vmovs: an element, or a half tag for type bx (06 R219). -/
def execVmovs (x : FormV) : State → Host.Outcome State Fault Refusal :=
  issueSeq (.vmovs x) do
    let bx := x.et == 9
    let (a, t) ← readV x.a bx
    let ei := bitsOf x.imm 0 5
    let et := x.et.toNat
    if bx then writeS x.d (BitVec.ofNat 64 (bitsOf t (36 * ei) 36))
    else writeS x.d (trunc 64 (etInt et (vWidth x) (elemOf a (vWidth x) ei)))

/-- vins: an element, or a half tag for type bx (06 R219). -/
def execVins (x : FormV) : State → Host.Outcome State Fault Refusal :=
  issueSeq (.vins x) do
    let a ← readS x.a
    let c ← getMe
    let ei := bitsOf x.imm 0 5
    let v := c.vreg x.d.toNat
    if x.et = 9 then
      if 2 ^ 36 ≤ a.toNat then trapWith causeReserved a
      modMe (·.setVreg x.d.toNat v (putBits (c.vtag x.d.toNat) (36 * ei) 36 a.toNat))
    else modMe (·.setVreg x.d.toNat (putBits v ((vWidth x) * ei) (vWidth x) a.toNat) 0)

/-! ## Conversion (06 R220) -/

/-- One element converted from ST to ET (06 R220). -/
def convertElem (x : FormV) (c : Core) (v : Nat) : Nat × BitVec 7 :=
  let st := bitsOf x.imm 0 4
  let et := x.et.toNat
  let ws := etWidth (x.imm.extractLsb' 0 4)
  if fpType st then
    if fpType et then fpRoundVal (fpOf et) x.rm c.ftz (elemVal c st v)
    else
      let r := fpToInt x.rm (etLo et (vWidth x)) (etHi et (vWidth x)) (elemVal c st v)
      ((r.1 % 2 ^ (vWidth x)).toNat, r.2)
  else if fpType et then fpFromInt (fpOf et) x.rm c.ftz (etInt st ws v)
  else fixInt et (vWidth x) (vSat x) (etInt st ws v)

/-- vcvt: H names the part of the side that has more elements (06 R220). -/
def execVcvt (x : FormV) : State → Host.Outcome State Fault Refusal :=
  issueSeq (.vcvt x) do
    let a ← readIf true x.a
    let c ← getMe
    let ws := etWidth (x.imm.extractLsb' 0 4)
    let ns := laneCount ws
    let nd := laneCount (vWidth x)
    let h := bitsOf x.imm 4 2
    let old := oldOf c x.d
    laneWrite x.d (laneFmt x.et.toNat) (laneMap c x (vWidth x) old fun j =>
      if ns < nd then
        if h * ns ≤ j ∧ j < h * ns + ns then convertElem x c (elemOf a ws (j - h * ns)) else (elemOf old (vWidth x) j, 0)
      else convertElem x c (elemOf a ws (if nd < ns then h * nd + j else j)))

/-! ## Block packing (06 R221, R222) -/

/-- The half tag of an FMT and SCALE (06 R197). -/
def halfTag (fmt : Nat) (scale : BitVec 32) : BitVec 36 := BitVec.ofNat 4 fmt ++ scale

/-- A half of a vector register with a block packed into slot sl of the register (06 R221). -/
def packHalf (kind fmt sl : Nat) (b : BxBlock) (half : Quad) (tag : BitVec 36) : Quad × BitVec 36 :=
  if kind = 0 then
    let (f, sc) := if bitsOf tag 32 4 = fmt then (half, tag.extractLsb' 0 32) else bxHalf 0 [bxZero, bxZero]
    if sl % 2 = 0 then
      (putBits f 0 64 (b.field 0), halfTag fmt (putBits (putBits sc 24 8 b.e) 16 8 b.m))
    else (putBits f 64 64 (b.field 0), halfTag fmt (putBits (putBits sc 8 8 b.e) 0 8 b.m))
  else (BitVec.ofNat 128 (b.field kind), halfTag fmt (bxScale1 b))

/-- vbxpack (06 R221). -/
def execVbxpack (x : FormV) : State → Host.Outcome State Fault Refusal :=
  issueSeq (.vbxpack x) do
    let wide := x.et == 8
    let a ← readIf true x.a
    let b ← readIf wide x.b
    let c ← getMe
    let et := x.et.toNat
    let value (j : Nat) : FpVal :=
      elemVal c et (if wide && decide (8 ≤ j) then elemOf b 32 (j - 8) else elemOf a (vWidth x) j)
    let kind := bitsOf x.imm 2 2
    let sl := bitsOf x.imm 0 2
    let h := if kind = 0 then sl / 2 else sl
    let (block, fl) := bxPack kind c.tec ((List.range 16).map value)
    let v := c.vreg x.d.toNat
    let t := c.vtag x.d.toNat
    let r := packHalf kind (bxFmt kind c.tec) sl block (v.extractLsb' (128 * h) 128) (t.extractLsb' (36 * h) 36)
    raise fl
    modMe (·.setVreg x.d.toNat (putBits v (128 * h) 128 r.1.toNat) (putBits t (36 * h) 36 r.2.toNat))

/-- The half that vbxunpack reads (06 R222). -/
def unpackHalf (sl fmt0 : Nat) : Nat := if sl = 0 ∨ (sl = 1 ∧ (fmt0 = 8 ∨ fmt0 = 14)) then 0 else 1

/-- vbxunpack (06 R222). DESIGN CHOICE, log 66: where SL = 1 reads half 1 beside a half 0 that is not BX4, and half 1 holds a BX4
code, two blocks stand in 'the whole of half 1': block 0 is read. -/
def execVbxunpack (x : FormV) : State → Host.Outcome State Fault Refusal :=
  issueSeq (.vbxunpack x) do
    let (a, t) ← readV x.a true
    let c ← getMe
    let sl := bitsOf x.imm 0 2
    let h := unpackHalf sl (bitsOf t 32 4)
    let fmt := bitsOf t (36 * h + 32) 4
    let val := BitVec.ofNat 64 (fmt + h * 2 ^ 8 + 2 ^ 11)
    if !isBx fmt then trapWith causeFmtTag val
    if bxTec fmt != c.tec then trapWith causeFmtMode val
    let kind := bxKind fmt
    if 2 ≤ sl ∧ kind ≠ 0 then trapWith causeReserved ((Instr.vbxunpack x).word?.getD 0)
    let blocks := bxBlocks kind (a.extractLsb' (128 * h) 128) (t.extractLsb' (36 * h) 32)
    let part := if kind = 0 ∧ (h = 0 ∨ 2 ≤ sl) then sl % 2 else 0
    let vals := (blocks.getD part bxZero).values kind c.tec
    let et := x.et.toNat
    let base := if et = 8 then 8 * bitsOf x.imm 4 1 else 0
    laneWrite x.d (laneFmt et) (laneMap c x (vWidth x) (oldOf c x.d) fun j =>
      fpRoundVal (fpOf et) x.rm c.ftz (vals.getD (base + j) (.fin false 0 0)))

/-! ## Reductions (02 R72, R73; 06 R223) -/

/-- One level of the tree: a node with one absent child passes the other's value (02 R73). -/
def treeLevel (f : Nat → Nat → FpRes) : List (Option Nat) → List (Option Nat) × BitVec 7
  | some a :: some b :: rest =>
    let r := f a b
    let (xs, fl) := treeLevel f rest
    (some r.1 :: xs, fl ||| r.2)
  | a :: b :: rest =>
    let (xs, fl) := treeLevel f rest
    ((a <|> b) :: xs, fl)
  | xs => (xs, 0)

/-- The fixed tree over 2^n leaves (02 R72). -/
def treeReduce (f : Nat → Nat → FpRes) : Nat → List (Option Nat) → BitVec 7 → Option Nat × BitVec 7
  | 0, xs, fl => (xs.headD none, fl)
  | n + 1, xs, fl =>
    let (ys, fl') := treeLevel f xs
    treeReduce f n ys (fl ||| fl')

/-- A reduction into element 0 (06 R223): step combines two elements of ET. -/
def laneReduce (i : Instr) (x : FormV) (step : Core → Nat → Nat → FpRes) : State → Host.Outcome State Fault Refusal :=
  issueSeq i do
    let a ← readIf true x.a
    let c ← getMe
    let w := vWidth x
    let leaves := (List.range (laneCount w)).map fun j => if vSel x c (laneOf w j) then some (elemOf a w j) else none
    let r := treeReduce (step c) 5 leaves 0
    laneWrite x.d (laneFmt x.et.toNat) (BitVec.ofNat 256 (r.1.getD 0), r.2)

/-- vredsum (06 R223). -/
def execVredsum (x : FormV) : State → Host.Outcome State Fault Refusal :=
  laneReduce (.vredsum x) x fun c a b =>
    byType x (· + ·) fpAdd c a b

/-- vredmax (06 R223). -/
def execVredmax (x : FormV) : State → Host.Outcome State Fault Refusal :=
  laneReduce (.vredmax x) x fun c a b =>
    byType x max (fun f _ _ a b => fpMinMax f true a b) c a b

/-! ## Vector loads and stores (06 R224) -/

/-- What a multiple of 32 is asked of, the effective addresses of a vector access and the width of each part: four 8-byte
parts, or eight 4-byte lanes at a stride (06 R224). -/
def vectorParts (x : FormM) (strided : Bool) : Op (Int × List Int × Nat) := do
  let a ← readBase x.a
  let b ← readBase x.b
  if strided then return (0, (List.range 8).map fun (k : Nat) => a.toInt + x.disp.toInt + (k : Int) * b.toInt, 4)
  let ea := mAddress x a b 32
  return (ea, (List.range 4).map fun (k : Nat) => ea + 8 * (k : Int), 8)

/-- Every address checked for alignment, then for range and redirection, before any access (06 R224; 04 R128). -/
def vectorTargets (base : Int) (eas : List Int) (n : Nat) : Op (List (Target × Word)) := do
  checkAlign base 32
  for ea in eas do checkAlign ea n
  eas.mapM fun ea => do return (← resolveLoc ea, trunc 64 ea)

/-- What a redirected store of n bytes must pass before any part is stored (07 R241). -/
def checkStore (n : Nat) (p : Target × Word) : Op Unit := do
  match p.1 with
  | .loc _ => pure ()
  | .ext va =>
    let pa ← extXlate va true p.2
    if !reachable (← get) pa n then trapWith causePoison p.2

/-- vld and vldq (06 R224). -/
def vectorLoad (i : Instr) (x : FormM) (strided : Bool) : State → Host.Outcome State Fault Refusal :=
  issueSeq i do
    let (base, eas, n) ← vectorParts x strided
    let targets ← vectorTargets base eas n
    if x.rl = 1 then releaseAt x.sc.toNat
    let parts ← targets.mapM fun p => loadAt p.1 n p.2
    writeV x.d (BitVec.ofNat 256 (natOfBytes parts.flatten)) 0 (some 1)
    if x.aq = 1 then acquire
    postUpdate x

/-- vst and vstq: in address or lane order, so a later lane stands over an earlier one (06 R224). -/
def vectorStore (i : Instr) (x : FormM) (strided : Bool) : State → Host.Outcome State Fault Refusal :=
  issueSeq i do
    let (base, eas, n) ← vectorParts x strided
    let v := (← readV x.d false).1
    let targets ← vectorTargets base eas n
    if x.rl = 1 then releaseAt x.sc.toNat
    for p in targets do checkStore n p
    for (k, p) in (List.range 8).zip targets do
      storeAt p.1 (bytesOfNat n (bitsOf v (8 * n * k) (8 * n))) p.2
    postUpdate x

/-- vld (06 R224). -/
def execVld (x : FormM) : State → Host.Outcome State Fault Refusal := vectorLoad (.vld x) x false

/-- vst (06 R224). -/
def execVst (x : FormM) : State → Host.Outcome State Fault Refusal := vectorStore (.vst x) x false

/-- vldq (06 R224). -/
def execVldq (x : FormM) : State → Host.Outcome State Fault Refusal := vectorLoad (.vldq x) x true

/-- vstq (06 R224). -/
def execVstq (x : FormM) : State → Host.Outcome State Fault Refusal := vectorStore (.vstq x) x true

end Sys2Proof.Machine
end

