-- ==== Sys2Proof/Machine/Wafer.lean ====
section
/-! DEFINITION. The geometry of the wafer: fields and seams, the spare column of each group of columns, the repair of a row
segment, bypass links, and the cycles of a hop (01 R9-R13). -/

namespace Sys2Proof.Machine

/-- The column of a logical core within its field, lx (01 R13). -/
def localX (lid : Nat) : Nat := lid % 1152 % 96

/-- The field column and the row of a logical core (01 R13). -/
def fieldX (lid : Nat) : Nat := lid % 1152 / 96
def rowOf (lid : Nat) : Nat := lid / 1152

/-- The dead positions of a row segment, ascending: of row y of group g of field column fx (01 R11). Dead cores are given by
their physical column on the wafer, 0 to 1,199, and their row. -/
def segmentDead (dead : List (Nat × Nat)) (fx g y : Nat) : List Nat :=
  (List.range 25).filter fun d => dead.contains (100 * fx + 25 * g + d, y)

/-- The position within its group of 25 columns that logical position k maps to (01 R11). -/
def repairedAt (ds : List Nat) (k : Nat) : Nat :=
  match ds with
  | [] => k
  | d :: _ => if k < d then k else k + 1

/-- The physical column in its field of a logical core (01 R10, R11). -/
def physColumn (dead : List (Nat × Nat)) (lid : Nat) : Nat :=
  let g := localX lid / 24
  25 * g + repairedAt (segmentDead dead (fieldX lid) g (rowOf lid)) (localX lid % 24)

/-- Whether a dead core is repaired out: it is the lowest one of its segment (01 R11). -/
def repairedOut (dead : List (Nat × Nat)) (col y : Nat) : Bool :=
  (segmentDead dead (col / 100) (col % 100 / 25) y).head? == some (col % 25)

/-- The logical cores that are absent: position p - 1 for each dead core at p beyond the lowest of its segment (01 R11). -/
def absentCores (dead : List (Nat × Nat)) : List Nat :=
  dead.filterMap fun (col, y) =>
    if 1200 ≤ col ∨ 896 ≤ y ∨ repairedOut dead col y then none
    else some (lidOf (96 * (col / 100) + 24 * (col % 100 / 25) + (col % 25 - 1)) y)

/-- The physical column on the wafer of a logical core. -/
def waferColumn (dead : List (Nat × Nat)) (lid : Nat) : Nat := 100 * fieldX lid + physColumn dead lid

/-- The physical columns strictly between a logical core and its neighbour to the east. -/
def between (dead : List (Nat × Nat)) (lid : Nat) : List Nat :=
  let a := waferColumn dead lid
  (List.range (waferColumn dead (lid + 1) - (a + 1))).map (a + 1 + ·)

/-- Whether no bypass link joins a core to its neighbour to the east: two dead cores lie side by side between them (01 R12). -/
def eastBlocked (dead : List (Nat × Nat)) (lid : Nat) : Bool :=
  (between dead lid).any fun c => dead.contains (c, rowOf lid) && dead.contains (c + 1, rowOf lid)

/-- The cycles of a hop to the neighbour to the east: one a core passed, none for a repaired-out core, which is crossed on a bypass
link, and three over a seam (01 R9, R12). -/
def eastCycles (dead : List (Nat × Nat)) (lid : Nat) : Nat :=
  1 + ((between dead lid).filter fun c => !repairedOut dead c (rowOf lid)).length + (if localX lid = 95 then 2 else 0)

/-- The cycles of a hop to the neighbour to the south: a field has 128 rows (01 R9, R10). -/
def southCycles (lid : Nat) : Nat := if rowOf lid % 128 = 127 then 3 else 1

end Sys2Proof.Machine
end

