-- ==== Sys2Proof/Machine/Router.lean ====
section
/-! DEFINITION. The router: route entries, the places where flits wait, forwarding with all its destinations, in-fabric
sums, RENORM records and width adapters (08 R264-R287; 07 R239, R250-R252). -/

namespace Sys2Proof.Machine

/-! ## Route entries (08 R271, R272) -/

def entV (e : Word) : Bool := e.getLsbD 63
def entOmask (e : Word) : Nat := bitsOf e 55 8
def entLqn (e : Word) : Nat := bitsOf e 52 3
def entRte (e : Word) : Bool := e.getLsbD 51
def entRetag (e : Word) : Nat := bitsOf e 44 7
def entOp (e : Word) : Nat := bitsOf e 41 3
def entArg (e : Word) : Nat := bitsOf e 38 3
def entCixe (e : Word) : Bool := e.getLsbD 37
def entOcix (e : Word) : Nat := bitsOf e 34 3
def entDmd (e : Word) : Nat := bitsOf e 26 8
def entAtag (e : Word) : Nat := bitsOf e 19 7
def entRen (e : Word) : Bool := e.getLsbD 18
def entAcc (e : Word) : Nat := bitsOf e 6 12

/-- The rules of one entry by itself (08 R272). -/
def entryOk (e : Word) : Bool :=
  let op := entOp e
  let arg := entArg e
  decide (op ≤ 3) && (if op = 1 then decide (1 ≤ arg) else if op = 2 then decide (arg ≤ 2) else arg == 0)
    && (entAcc e == 0 || decide (op < 2)) && (entOmask e != 0 || !entV e || op == 3) && decide (entDmd e ≤ 128)
    && bitsOf e 0 6 == 0

/-- Whether entry t of a router may become e (08 R272): the rules of the entry, and the sums over the router's valid
entries. -/
def entryFits (rt : Router) (t : Nat) (e : Word) : Bool :=
  let valid := (Table.set 0 t e rt.routes).filter fun p => entV p.2
  entryOk e && decide ((valid.map fun p => entDmd p.2).foldl (· + ·) 0 ≤ 128)
    && decide ((valid.filter fun p => entOp p.2 == 1).length ≤ 4)

/-! ## Places (08 R267) -/

/-- The number of a direction in the order N, E, S, W. -/
def dirNum : Dir → Nat
  | .north => 0
  | .east => 1
  | .south => 2
  | .west => 3

/-- The port at which a neighbour receives what leaves in a direction. -/
def opposite : Nat → Nat
  | 0 => 2
  | 1 => 3
  | 2 => 0
  | _ => 1

/-- A number for a place, for the hold of an output on a message (08 R268). -/
def placeNum : Place → Nat
  | .port d => dirNum d
  | .out => 4
  | .delay t => 8 + t
  | .formed t => 136 + t

/-- The SUM entry of a tag with nothing in it. -/
def SumState.reset : SumState :=
  { slots := [], q := 0, run := none, exc := false, rel := false, dend := 0, tec := none, isI32 := none, formed := [] }

/-- The record of an entry that no RENORM flit has reached. -/
def RenormRec.reset : RenormRec := { target := none, blocks := 0, part := 0, parts := [], formed := [], behind := 0 }

/-- An adapter with nothing in it. -/
def Adapter.reset : Adapter := { pending := none, formed := [] }

def Router.sum (rt : Router) (t : Nat) : SumState := Table.get SumState.reset rt.sums t
def Router.setSum (rt : Router) (t : Nat) (v : SumState) : Router := { rt with sums := Table.set SumState.reset t v rt.sums }
def Router.renorm (rt : Router) (t : Nat) : RenormRec := Table.get RenormRec.reset rt.renorms t
def Router.setRenorm (rt : Router) (t : Nat) (v : RenormRec) : Router :=
  { rt with renorms := Table.set RenormRec.reset t v rt.renorms }
def Router.adapter (rt : Router) (t : Nat) : Adapter := Table.get Adapter.reset rt.adapters t
def Router.setAdapter (rt : Router) (t : Nat) (v : Adapter) : Router :=
  { rt with adapters := Table.set Adapter.reset t v rt.adapters }

/-- Five gathered parts of a BA40 block pre-aligned to T; a block formed from several flits ORs their EXC and REL (08 R282;
02 R76; 04 R144). -/
def preAligned (t : Int) (parts : List Held) : List Held :=
  let fs := parts.map (·.flit)
  let b := (preAlign (ba40OfFlits fs) t).1
  let exc := fs.any (·.exc)
  let rel := fs.any (·.rel)
  List.zipWith (fun h p =>
    let f := h.flit
    { h with flit :=
      { f with payload := p, side := putBits (putBits (putBits f.side 0 16 b.expBits.toNat) 43 1 (bit exc)) 35 1 (bit rel) } })
    parts b.parts

/-- Whether the record of a pre-aligning entry governs the block that comes next (08 R282). -/
def RenormRec.governs (n : RenormRec) : Option Int :=
  match n.target with
  | some (t, q) => if n.part = 0 ∧ q = n.blocks then some t else none
  | none => none

/-- A pre-aligning entry after a block has left: the count rises, and wraps with its record cleared (08 R282). -/
def RenormRec.counted (n : RenormRec) (acc : Nat) : RenormRec :=
  if n.blocks = acc then
    { n with blocks := 0, part := 0, target := none, behind := if acc = 0 then 0 else n.behind + 1 }
  else { n with blocks := n.blocks + 1, part := 0 }

/-- A pre-aligning entry after one part has left as it came. -/
def RenormRec.passed (n : RenormRec) (acc : Nat) : RenormRec :=
  if n.part = 4 then n.counted acc else { n with part := n.part + 1 }

/-- A pre-aligning entry after it gathered one more part of a block that it pre-aligns to T. -/
def RenormRec.gathered (n : RenormRec) (acc : Nat) (t : Int) (h : Held) : RenormRec :=
  if n.parts.length < 4 then { n with parts := n.parts ++ [h] }
  else { (n.counted acc) with parts := [], formed := preAligned t (n.parts ++ [h]) }

/-- A record (T, Q) arrives: one whose block has left, in this accumulation or an earlier one, has no effect. An accumulation
sends its records with Q from 1 to ACC, so the last of them says that the next accumulation's follow (08 R279, R282). -/
def RenormRec.note (n : RenormRec) (acc : Nat) (t : Int) (q : Nat) : RenormRec :=
  let late := decide (0 < n.behind) || decide (q < n.blocks) || (q == n.blocks && decide (0 < n.part))
  { n with behind := if q = acc then n.behind - 1 else n.behind, target := if late then n.target else some (t, q) }

/-- The flits that a SUM, adapter or pre-aligning entry has formed and not yet sent. -/
def Router.formed (rt : Router) (t : Nat) : List Held := (rt.sum t).formed ++ (rt.adapter t).formed ++ (rt.renorm t).formed

/-- A flit with the entry of its tag, under which it leaves (08 R273, R296). -/
def Router.lookup (rt : Router) (f : Flit) : Held := { flit := f, entry := Table.get 0 rt.routes f.tag.toNat }

/-- The flits in a place, the head first. What an entry formed leaves under the entry that formed it, and a RENORM flit under
that of its own tag. -/
def Router.flits (rt : Router) : Place → List Held
  | .port d => (Table.get [] rt.ports (dirNum d)).map rt.lookup
  | .out => rt.outq.map rt.lookup
  | .delay t => Table.get [] rt.delays t
  | .formed t => (rt.formed t).map fun h => if h.flit.tag.toNat = t then h else rt.lookup h.flit

/-- The router with flit k of a place removed; only a port or the output queue has one removed that is not its
head. -/
def Router.drop (rt : Router) (k : Nat) : Place → Router
  | .port d => { rt with ports := Table.set [] (dirNum d) ((Table.get [] rt.ports (dirNum d)).eraseIdx k) rt.ports }
  | .out => { rt with outq := rt.outq.eraseIdx k }
  | .delay t => { rt with delays := Table.set [] t (Table.get [] rt.delays t).tail rt.delays }
  | .formed t =>
    let s := rt.sum t
    let a := rt.adapter t
    let n := rt.renorm t
    if !s.formed.isEmpty then rt.setSum t { s with formed := s.formed.tail }
    else if !a.formed.isEmpty then rt.setAdapter t { a with formed := a.formed.tail }
    else rt.setRenorm t { n with formed := n.formed.tail }

/-- The module with the router of a core changed. -/
def State.modRouter (s : State) (lid : Nat) (f : Router → Router) : State :=
  s.setCore lid { s.core lid with router := f (s.core lid).router }

/-! ## Whose flits they are (08 R271, R287) -/

/-- The neighbour of a core in a direction, within the wafer: the next logical core of its row or column. Repair keeps these
neighbours joined, over bypass links where a repaired-out core lies between (01 R11-R13; 09 R318, the placement of the patch; log
75). -/
def neighbour (lid dir : Nat) : Option Nat :=
  let x := lid % 1152
  let y := lid / 1152
  match dir with
  | 0 => if y = 0 then none else some (lid - 1152)
  | 1 => if x = 1151 then none else some (lid + 1)
  | 2 => if y = 895 then none else some (lid + 1152)
  | _ => if x = 0 then none else some (lid - 1)

/-- The region that laid an entry, else the one that holds the core. -/
def State.holderOf (s : State) (lid tag : Nat) : Option Region :=
  (s.regions.find? (fun r => r.laid.contains (lid, tag))).or (s.regionOf lid)

/-- The region with an entry at a neighbour that sends flits here with a tag. -/
def State.feederOf (s : State) (lid tag : Nat) : Option Region :=
  (List.range 4).findSome? fun d => (neighbour lid d).bind fun n =>
    (s.core n).router.routes.findSome? fun (t, e) =>
      if entV e && e.getLsbD (62 - opposite d) && (if entRte e then entRetag e else t) == tag then s.holderOf n t else none

/-- The region that the flits of a tag at a router belong to: the one that laid the entry, the one that holds the core, else the one
that sends them there (08 R271, R273, R287). -/
def State.ownerOf (s : State) (lid tag : Nat) : Option Region := (s.holderOf lid tag).or (s.feederOf lid tag)

/-- Whether a region's flits move: not when it is FROZEN or SAVED (08 R287, R289). -/
def Region.moving (r : Region) : Bool := r.st == .live || r.st == .draining

/-- Whether a flit at a core's router moves: its region's flits do (08 R287). -/
def State.moves (s : State) (lid : Nat) (f : Flit) : Bool := ((s.ownerOf lid f.tag.toNat).map (·.moving)).getD false

/-! ## Destinations -/

/-- Where one output of an entry leads. -/
inductive Sink where
  | port (lid dir : Nat)
  | stream (eng ctx : Nat)
  | credit (eng ctx : Nat)
  | queue (n : Nat)
  | buffer (n : Nat)
  | bufferCredit (n : Nat)
  | inbox
  | gang
  | lattice
  | link (port : Nat)
  | nowhere
  deriving DecidableEq, Repr

/-- Fields of stream descriptor word 5 (07 R235). -/
def StreamCtx.word (c : StreamCtx) (n : Nat) : Word := c.desc.getD n 0
def StreamCtx.fmt (c : StreamCtx) : Nat := bitsOf (c.word 5) 0 4
def StreamCtx.dir (c : StreamCtx) : Nat := bitsOf (c.word 5) 4 2
def StreamCtx.tag (c : StreamCtx) : Nat := bitsOf (c.word 5) 8 7
def StreamCtx.ctag (c : StreamCtx) : Nat := bitsOf (c.word 5) 44 7
/-- The count of dimension d. -/
def StreamCtx.cnt (c : StreamCtx) (d : Nat) : Nat := bitsOf (c.word (d + 1)) 0 16 + 1
/-- All items of a stream. -/
def StreamCtx.total (c : StreamCtx) : Nat := c.cnt 0 * c.cnt 1 * c.cnt 2 * c.cnt 3
/-- Flits that carry one item; a BX4 flit carries two (07 R237). -/
def StreamCtx.flitsPerItem (c : StreamCtx) : Nat := if c.fmt = 10 then 5 else 1
/-- Items that one group of flits carries. -/
def StreamCtx.itemsPerGroup (c : StreamCtx) : Nat := if c.fmt = 8 then 2 else 1

/-- The brim port whose attachment core a flit leaves the wafer at, by edge: 0 north, 1 east, 2 south, 3 west (07 R225). -/
def portAtEdge (x y dir : Nat) : Option Nat :=
  let along (first count step base z : Nat) : Option Nat :=
    if base ≤ z ∧ (z - base) % step < 8 ∧ (z - base) / step < count then some (first + (z - base) / step) else none
  match dir with
  | 0 => along 0 16 72 32 x
  | 2 => along 16 16 72 32 x
  | 3 => along 32 8 112 52 y
  | _ => along 40 8 112 52 y

/-- The link port whose attachment core a flit leaves the wafer at, by edge (13 R399). -/
def linkPortAt (x dir : Nat) : Option Nat :=
  if 16 ≤ x % 24 then
    match dir with
    | 0 => some (x / 24)
    | 2 => some (48 + x / 24)
    | _ => none
  else none

/-- Whether the link from a core in a direction is dead (08 R284; 15 R461), or has no bypass over the dead cores that it would
cross (01 R12). -/
def State.linkDead (s : State) (lid dir : Nat) : Bool :=
  s.deadLinks.any (fun p => p.1 == lid && dirNum p.2 == dir)
    || (dir == 1 && eastBlocked s.deadCores lid) || (dir == 3 && eastBlocked s.deadCores (lid - 1))

/-- The cycles of a hop from a core in a direction (01 R9, R12). -/
def State.hopCycles (s : State) (lid dir : Nat) : Nat :=
  match dir with
  | 0 => southCycles (lid - 1152)
  | 1 => eastCycles s.deadCores lid
  | 2 => southCycles lid
  | _ => eastCycles s.deadCores (lid - 1)

/-- The sink of a flit that leaves the wafer edge at an engine: the write stream, or the stream that takes its credit, of the
region of its route, whose path the mapper binds to the tag there (08 R274). -/
def engineSink (s : State) (own : Option Region) (p : Nat) (f : Flit) : Sink :=
  let ctxs := (s.brim p).ctxs.filter fun e => (own.map (·.id)) == some e.2.region
  match ctxs.find? (fun e => e.2.dir == 2 && e.2.tag == f.tag.toNat) with
  | some (n, _) => .stream p n
  | none =>
    match ctxs.find? (fun e => e.2.dir == 1 && e.2.ctag == f.tag.toNat) with
    | some (n, _) => if f.kind = 5 then .credit p n else .nowhere
    | none => .nowhere

/-- ROLE, ITAG, CTAG, ENTRIES and flits per entry of a circular-buffer record (07 R249). -/
def CbCtx.producer (b : CbCtx) : Bool := b.record.getLsbD 50
def CbCtx.ctag (b : CbCtx) : Nat := bitsOf b.record 43 7
def CbCtx.itag (b : CbCtx) : Nat := bitsOf b.record 36 7
def CbCtx.esz (b : CbCtx) : Nat := bitsOf b.record 28 8 + 1
def CbCtx.nent (b : CbCtx) : Nat := bitsOf b.record 16 12 + 1
def CbCtx.base (b : CbCtx) : Nat := bitsOf b.record 0 16

/-- The local queue of an entry, or the circular-buffer context bound to the flit's declared tag (07 R250, R252, R259). -/
def localSink (c : Core) (e : Word) (f : Flit) : Sink :=
  match c.cbs.find? (fun p => !p.2.producer && p.2.itag == f.tag.toNat) with
  | some (n, _) => .buffer n
  | none =>
    match c.cbs.find? (fun p => p.2.producer && p.2.ctag == f.tag.toNat) with
    | some (n, _) => if f.kind = 5 then .bufferCredit n else .queue (entLqn e)
    | none => .queue (entLqn e)

/-- A flit as it leaves an entry (08 R273). -/
def leaving (e : Word) (f : Flit) : Flit :=
  { f with
    tag := if entRte e then BitVec.ofNat 7 (entRetag e) else f.tag
    side := if entCixe e then putBits f.side 32 3 (entOcix e) else f.side }

/-- Output o of an entry, 0 N to 3 W, 4 the local queue, 5 the inbox, 6 the gang bus, 7 the lattice input. -/
def sinkOf (s : State) (lid : Nat) (h : Held) (o : Nat) : Sink :=
  let f := leaving h.entry h.flit
  match o with
  | 4 => localSink (s.core lid) h.entry f
  | 5 => .inbox
  | 6 => .gang
  | 7 => .lattice
  | _ =>
    match neighbour lid o with
    | some n => if s.linkDead lid o || s.dead.contains n then .nowhere else .port n (opposite o)
    | none =>
      match portAtEdge (lid % 1152) (lid / 1152) o, linkPortAt (lid % 1152) o with
      | some p, _ => engineSink s (s.ownerOf lid h.flit.tag.toNat) p f
      | none, some p => .link p
      | none, none => .nowhere

/-- The outputs that OMASK selects, N first. -/
def outputsOf (e : Word) : List Nat := (List.range 8).filter fun o => e.getLsbD (62 - o)

/-- The FMT that a write stream takes (07 R239). -/
def StreamCtx.fmtCode (c : StreamCtx) : Nat := if 6 ≤ c.fmt ∧ c.fmt ≤ 8 then bxFmt (8 - c.fmt) c.tec else c.fmt

/-- The formats that a circular-buffer consumer accepts (07 R251). -/
def bufferAccepts (fmt : Nat) : Bool := (decide (1 ≤ fmt) && decide (fmt ≤ 5)) || fmt == 9

/-- Whether a sink has room for a flit (08 R267; 07 R239, R250). The flits of a stopped region, which stay in a port buffer, do not
keep those of other regions out of it (08 R287; log 60). A link-edge engine takes no flit of a route: no endpoint of 08 R291 names
one (13 R399; log 70). -/
def Sink.room (s : State) (lid : Nat) (f : Flit) : Sink → Bool
  | .port n d => decide (((Table.get [] (s.core n).router.ports d).filter (s.moves n)).length < 2)
  | .stream p n =>
    match Table.find (s.brim p).ctxs n with
    | some c =>
      c.running && !c.closing && !c.ended && c.stall.isNone && decide (c.got.length < c.flitsPerItem)
        && decide (c.items < c.total)
    | none => false
  | .credit _ _ => true
  | .queue n => decide (((s.core lid).queue n).length < 8)
  | .buffer n =>
    match Table.find (s.core lid).cbs n with
    | some b => (s.core lid).live && bufferAccepts f.fmt && decide (b.count < b.nent)
    | none => false
  | .bufferCredit _ => (s.core lid).live
  | .inbox => decide ((s.core lid).router.asm.length < 4)
  | .gang => (s.core lid).live && decide ((s.core lid).tensor.gangq.length < 8)
  | .lattice => (s.core lid).live && decide ((s.core lid).lattice.inq.length < 8)
  | .link _ => false
  | .nowhere => false

/-- Whether a flit may not enter the assembly buffer at all (08 R268). -/
def Sink.refuses (s : State) (lid : Nat) (f : Flit) : Sink → Bool
  | .inbox =>
    let n := (s.core lid).router.asm.length
    if n = 0 then !(f.kind == 1 && f.fmt == 11) else decide (n < 4) && !(f.kind == 0 && f.fmt == 11)
  | _ => false

/-- A circular buffer after a flit's sixteen bytes are performed in LOC (07 R250, R251). -/
def Core.bufferFlit (c : Core) (n : Nat) (b : CbCtx) (f : Flit) : Core :=
  let pos := b.pos + 1
  let full := pos == b.esz
  let b' := { b with
    exc := b.exc || f.exc
    pos := if full then 0 else pos
    count := if full then b.count + 1 else b.count
    tail := if full then (b.tail + 1) % b.nent else b.tail }
  let c := c.writeLoc (b.base + 16 * (b.tail * b.esz + b.pos)) (bytesOfNat 16 f.payload.toNat)
  { c with
    cbs := Table.put n b' c.cbs
    router := if f.exc then { c.router with exlog := logExc c.router.exlog f n 3 } else c.router
    oldWords := if f.rel then [] else c.oldWords }

/-- The fault of a flit whose format a write stream does not take (07 R239). -/
def streamFormat (s : State) (f : Flit) : Sink → Option (BitVec 8)
  | .stream p n =>
    match Table.find (s.brim p).ctxs n with
    | some c =>
      if f.fmt = c.fmtCode then none
      else if isBx f.fmt && decide (6 ≤ c.fmt) && decide (c.fmt ≤ 8) && bxKind f.fmt == 8 - c.fmt then some causeFmtMode
      else some causeFmtTag
    | none => none
  | _ => none

/-- The module with a flit in a sink that has room. -/
def Sink.deliver (s : State) (lid : Nat) (f : Flit) : Sink → State
  | .port n d => s.modRouter n fun rt => { rt with ports := Table.set [] d (Table.get [] rt.ports d ++ [f]) rt.ports }
  | .stream p n =>
    match Table.find (s.brim p).ctxs n with
    | some c =>
      s.setBrim p { s.brim p with
        ctxs := Table.put n { c with got := c.got ++ [f], exc := c.exc || f.exc } (s.brim p).ctxs }
    | none => s
  | .credit p n =>
    match Table.find (s.brim p).ctxs n with
    | some c =>
      s.setBrim p { s.brim p with
        ctxs := Table.put n { c with credits := c.credits + bitsOf f.payload 0 64 } (s.brim p).ctxs }
    | none => s
  | .queue n => s.setCore lid ((s.core lid).setQueue n ((s.core lid).queue n ++ [f]))
  | .buffer n =>
    match Table.find (s.core lid).cbs n with
    | some b => s.setCore lid ((s.core lid).bufferFlit n b f)
    | none => s
  | .bufferCredit n =>
    match Table.find (s.core lid).cbs n with
    | some b =>
      s.setCore lid { s.core lid with
        cbs := Table.put n { b with count := b.count + bitsOf f.payload 0 64 } (s.core lid).cbs }
    | none => s
  | .inbox => s.modRouter lid fun rt => { rt with asm := rt.asm ++ [f] }
  | .gang => s.setCore lid { s.core lid with tensor := { (s.core lid).tensor with gangq := (s.core lid).tensor.gangq ++ [f] } }
  | .lattice =>
    s.setCore lid { s.core lid with lattice := { (s.core lid).lattice with inq := (s.core lid).lattice.inq ++ [f] } }
  | .link _ => s
  | .nowhere => s

/-! ## What moving a flit comes to -/

/-- What an attempt to move a flit comes to. -/
inductive Moved where
  | stay
  | moved (s : State)
  | fault (cause : BitVec 8) (tag qn fmt kind : Nat)
  | badFormat (eng ctx : Nat) (cause : BitVec 8) (f : Flit)
  deriving DecidableEq, Repr

/-- A router fault freezes the region of its entry (08 R287, R288): UNIT 3, the tag, the port or CIX in QN. -/
def routerFault (s : State) (lid : Nat) (r : Region) (cause : BitVec 8) (tag qn fmt kind : Nat) : State :=
  freezeRegion s r lid { cause := cause.toNat, unit := 3, tag, qn, fmt, kind }

/-- The counters of item k (07 R237). -/
def StreamCtx.index (c : StreamCtx) (k d : Nat) : Nat :=
  match d with
  | 0 => k % c.cnt 0
  | 1 => k / c.cnt 0 % c.cnt 1
  | 2 => k / (c.cnt 0 * c.cnt 1) % c.cnt 2
  | _ => k / (c.cnt 0 * c.cnt 1 * c.cnt 2) % c.cnt 3

/-- The next item's counters as sstat.cnt gives them (07 R258). DESIGN CHOICE, log 67: where no item is left, each is 0. -/
def StreamCtx.counters (c : StreamCtx) : Word :=
  BitVec.ofNat 64 ([0, 1, 2, 3].foldl (fun r d => r + c.index c.items d * 2 ^ (16 * d)) 0)

/-- The freeze for a flit whose format its write stream does not take: the record names the engine, the slot and the item
counters (07 R239). -/
def streamFormatFault (s : State) (r : Region) (lid eng ctx : Nat) (cause : BitVec 8) (f : Flit) : State :=
  match Table.find (s.brim eng).ctxs ctx with
  | some c =>
    freezeRegion s ((s.regionOf c.lid).getD r) c.lid
      { cause := cause.toNat, unit := 2, eng, ctx := c.slot, tag := f.tag.toNat, fmt := f.fmt, kind := f.kind,
        opnd := c.counters }
  | none => routerFault s lid r cause f.tag.toNat 0 f.fmt f.kind

/-- The module after an attempt to move a flit. -/
def Moved.settle (m : Moved) (s : State) (lid : Nat) (r : Region) : State :=
  match m with
  | .stay => s
  | .moved s' => s'
  | .fault cause tag qn fmt kind => routerFault s lid r cause tag qn fmt kind
  | .badFormat eng ctx cause f => streamFormatFault s r lid eng ctx cause f

/-! ## Leaving an entry (08 R268, R273, R275; 01 R31) -/

/-- The number of the head of an output's hold table for the delay queue of entry t. -/
def delayHold (t : Nat) : Nat := 8 + t

/-- Whether an output or delay queue may pass a flit from a place: no message of another place holds it; the message of a region
that stands still holds nothing (08 R268, R287). -/
def State.passes (s : State) (lid : Nat) (p : Place) (o : Nat) : Bool :=
  match Table.find (s.core lid).router.locked o with
  | none => true
  | some h => h.place == placeNum p || !(((s.ownerOf lid h.tag).map (·.moving)).getD false)

/-- The hold of an output or delay queue after it passed a flit: three payload flits follow a header (08 R268). -/
def holdAfter (p : Place) (f : Flit) (l : Table Hold) (o : Nat) : Table Hold :=
  if f.kind = 1 then Table.put o { place := placeNum p, tag := f.tag.toNat, left := 3 } l
  else
    match Table.find l o with
    | some h =>
      if h.place = placeNum p ∧ h.tag = f.tag.toNat then
        if h.left ≤ 1 then Table.erase o l else Table.put o { h with left := h.left - 1 } l
      else l
    | none => l

/-- The sinks of a flit that leaves an entry. -/
def sinksOf (s : State) (lid : Nat) (h : Held) : List Sink :=
  (outputsOf h.entry).map (sinkOf s lid h)

/-- Whether every output of a flit's entry can pass it at once (08 R275). -/
def State.canLeave (s : State) (lid : Nat) (p : Place) (h : Held) : Bool :=
  (sinksOf s lid h).all (·.room s lid (leaving h.entry h.flit)) && (outputsOf h.entry).all (s.passes lid p)

/-- Whether a place is one that an entry's own results leave from. -/
def ownResult (p : Place) (f : Flit) : Bool :=
  match p with
  | .formed t => f.tag.toNat == t
  | _ => false

/-- Whether a place is before the delay queue of an entry. -/
def beforeDelay (p : Place) (f : Flit) : Bool :=
  match p with
  | .delay _ => false
  | _ => !ownResult p f

/-- Whether a flit would leave its entry next, its entry's delay queue being behind it (08 R267). -/
def atOutputs (p : Place) (h : Held) : Bool := !(beforeDelay p h.flit && decide (1 ≤ entDmd h.entry))

/-- Whether the next move of a flit is to the outputs of its entry as it is, and not into a delay queue, a slot, a gather or an
adapter (08 R267, R278-R283). -/
def Router.emits (rt : Router) (p : Place) (h : Held) : Bool :=
  let f := h.flit
  let t := f.tag.toNat
  let n := rt.renorm t
  let a := rt.adapter t
  entV h.entry && f.kind != 7 &&
    (ownResult p f || (atOutputs p h &&
      match entOp h.entry with
      | 0 => !entRen h.entry || (n.formed.isEmpty && n.parts.isEmpty && (f.kind != 0 || f.fmt != 10 || n.governs.isNone))
      | 1 => false
      | 2 => a.formed.isEmpty && a.pending.isNone && (f.kind != 0 || (isBx f.fmt && bxKind f.fmt == entArg h.entry))
      | _ => entOmask h.entry != 0))

/-- The first flit of a place that moves, with its position, its entry and its region: those before it belong to regions that
stand still (08 R287). -/
def State.nextAt (s : State) (lid : Nat) (p : Place) : Option (Nat × Held × Region) :=
  ((s.core lid).router.flits p).zipIdx.findSome? fun (h, k) =>
    match s.ownerOf lid h.flit.tag.toNat with
    | some r => if r.moving then some (k, h, r) else none
    | none => none

/-- The places of a router that may hold flits. -/
def Router.places (rt : Router) : List Place :=
  [.port .north, .port .east, .port .south, .port .west, .out] ++ rt.delays.map (fun e => .delay e.1)
    ++ ((rt.sums.map (·.1) ++ rt.adapters.map (·.1) ++ rt.renorms.map (·.1)).eraseDups).map .formed

/-- The outputs that the next flit of a place is ready for. -/
def State.readyFor (s : State) (lid : Nat) (p : Place) : List Nat :=
  match s.nextAt lid p with
  | some (_, h, _) => if (s.core lid).router.emits p h && s.canLeave lid p h then outputsOf h.entry else []
  | none => []

/-- When the next flit of a place has its turn among those that contend for its outputs: at the latest service that one of these
outputs gave the place, and before every place that was served, where none gave it one (01 R31; log 61). -/
def Router.turnOf (rt : Router) (p : Place) (outs : List Nat) : Nat :=
  outs.foldl (fun m o => if rt.turn.contains (o, placeNum p) then max m (512 + rt.turn.idxOf (o, placeNum p)) else m) (placeNum p)

/-- The services of the outputs of a router after some of them have passed a flit of a place (01 R31). -/
def servedBy (p : Place) (outs : List Nat) (turn : List (Nat × Nat)) : List (Nat × Nat) :=
  let now := outs.map fun o => (o, placeNum p)
  turn.filter (fun e => !now.contains e) ++ now

/-- Whether no place that is ready for one of some outputs comes before a place (01 R31; 08 R268). -/
def State.hasTurn (s : State) (lid : Nat) (p : Place) (outs : List Nat) : Bool :=
  let rt := (s.core lid).router
  rt.places.all fun q =>
    placeNum q == placeNum p || decide (rt.turnOf p outs < rt.turnOf q (s.readyFor lid q))
      || !(s.readyFor lid q).any outs.contains

/-- The write stream among sinks that would take a flit whose format is not its own, with the fault (07 R239). -/
def badStream (s : State) (lid : Nat) (f : Flit) (sinks : List Sink) : Option (Nat × Nat × BitVec 8) :=
  sinks.findSome? fun k =>
    match k, streamFormat s f k with
    | .stream eng ctx, some cause => if k.room s lid f then some (eng, ctx, cause) else none
    | _, _ => none

/-- Whether an output refuses a flit that it may pass: one that waits for the message of another place has not reached the assembly
buffer (08 R268). -/
def State.refusesAt (s : State) (lid : Nat) (p : Place) (h : Held) : Bool :=
  (outputsOf h.entry).any fun o => s.passes lid p o && (sinkOf s lid h o).refuses s lid (leaving h.entry h.flit)

/-- The next flit of a place leaves through every output of its entry at once, in the place's turn, or stays; one that a write stream
does not take for its format is a fault (08 R268, R275; 07 R239). -/
def emitFlit (s : State) (lid : Nat) (p : Place) (k : Nat) (h : Held) : Moved :=
  let f' := leaving h.entry h.flit
  let outs := outputsOf h.entry
  let sinks := sinksOf s lid h
  if s.refusesAt lid p h then .fault causeQueue h.flit.tag.toNat (min 7 (placeNum p)) h.flit.fmt h.flit.kind
  else
    match badStream s lid f' sinks with
    | some (eng, ctx, cause) => .badFormat eng ctx cause f'
    | none =>
      if !(s.canLeave lid p h && s.hasTurn lid p outs) then .stay
      else
        let s := s.modRouter lid fun rt =>
          let rt := rt.drop k p
          { rt with locked := outs.foldl (holdAfter p h.flit) rt.locked, turn := servedBy p outs rt.turn }
        .moved (sinks.foldl (fun s k => k.deliver s lid f') s)

/-! ## SUM entries (08 R278-R280) -/

/-- A block or I32 flit as a SUM entry's slot holds it (08 R278). -/
def sumBlockOf (f : Flit) (b : Ba40) (tec : Option Bool) (special last : Bool) : SumBlock :=
  { isI32 := false, elems := b.elems, exp := b.exp, exc := f.exc || special, rel := f.rel,
    dend := if last then f.dend else 0, seq := if tec.isSome then 0 else BitVec.ofNat 16 f.seq, bxTec := tec, special }

/-- Whether a slot's contribution is I32, and the TEC of a BX one; none for a drain or stop flit. -/
def SumSlot.nature : SumSlot → Option (Bool × Option Bool)
  | .parts _ => some (false, none)
  | .block b _ => some (b.isI32, b.bxTec)
  | .ctl _ => none

/-- The fault of a contribution that does not go with those of its accumulation: I32 beside blocks, or another TEC (08 R278). -/
def SumState.clash (sm : SumState) (isI32 : Bool) (tec : Option Bool) : Option (BitVec 8) :=
  let others := sm.slots.filterMap fun e => e.2.nature
  let tecs := sm.tec.toList ++ others.filterMap (·.2)
  if (sm.isI32.toList ++ others.map (·.1)).any (· != isI32) then some causeFmtTag
  else if tec.toList.any fun a => tecs.any (· != a) then some causeFmtMode
  else none

/-- What an empty slot of a SUM entry holds once a data flit has entered it; a fault cause when the flit may not (08 R278). -/
def SumState.fill (sm : SumState) (f : Flit) : Except (BitVec 8) SumSlot :=
  let held (isI32 : Bool) (tec : Option Bool) (slot : SumSlot) : Except (BitVec 8) SumSlot :=
    match sm.clash isI32 tec with
    | some cause => .error cause
    | none => .ok slot
  if f.fmt = 10 then held false none (.parts [f])
  else if f.fmt = 2 then
    held true none (.block
      { isI32 := true, elems := (List.range 4).map fun j => (bitsOf f.payload (32 * j) 32 : Int), exp := 0, exc := f.exc,
        rel := f.rel, dend := f.dend, seq := BitVec.ofNat 16 f.seq, bxTec := none, special := false } none)
  else if isBx f.fmt then
    let tec := bxTec f.fmt
    let kind := bxKind f.fmt
    let blk (b : BxBlock) (last : Bool) := sumBlockOf f (b.toBa40 kind tec) (some tec) (b.special tec) last
    match bxBlocks kind f.payload f.scale with
    | [a, b] => held false (some tec) (.block (blk a false) (some (blk b true)))
    | a :: _ => held false (some tec) (.block (blk a true) none)
    | [] => .error causeFmtTag
  else .error causeFmtTag

/-- A slot that gathers the parts of a BA40 block once a data flit has entered it (08 R278). -/
def nextPart (fs : List Flit) (f : Flit) : Except (BitVec 8) SumSlot :=
  if f.fmt ≠ 10 ∨ (fs.head?.map fun g => bitsOf g.side 0 16) ≠ some (bitsOf f.side 0 16) then .error causeFmtTag
  else if fs.length < 4 then .ok (.parts (fs ++ [f]))
  else
    let all := fs ++ [f]
    let b := sumBlockOf f (ba40OfFlits all) none false true
    .ok (.block { b with exc := all.any (·.exc), rel := all.any (·.rel),
                         seq := BitVec.ofNat 16 ((all.head?.map (·.seq)).getD 0) } none)

/-- What the slot of a contributor holds once a flit has entered it; a fault cause when the flit may not; none while the flit
waits, as a drain or stop flit does behind a block of which parts are still to come (08 R278-R280). -/
def SumState.after (sm : SumState) (f : Flit) : Option (Except (BitVec 8) SumSlot) :=
  let control := f.kind = 3 ∨ f.kind = 6
  if f.kind ≠ 0 ∧ ¬control then some (.error causeQueue)
  else
    match Table.find sm.slots f.cix with
    | none => some (if control then .ok (.ctl f) else sm.fill f)
    | some (.parts fs) => if control then none else some (nextPart fs f)
    | some _ => none

/-- A flit enters its slot of a SUM entry, or waits (08 R278, R279). -/
def sumAccept (s : State) (lid : Nat) (p : Place) (k : Nat) (h : Held) : Moved :=
  let f := h.flit
  let t := f.tag.toNat
  let sm := (s.core lid).router.sum t
  if entArg h.entry < f.cix then .stay
  else
    match sm.after f with
    | none => .stay
    | some (.error cause) => .fault cause t f.cix f.fmt f.kind
    | some (.ok slot) =>
      .moved (s.modRouter lid fun rt => (rt.drop k p).setSum t { sm with slots := Table.put f.cix slot sm.slots })

/-- The blocks of every slot in ascending CIX, when every slot holds one. -/
def SumState.blocks (sm : SumState) (k : Nat) : Option (List (SumBlock × Option SumBlock)) :=
  (List.range k).mapM fun c =>
    match Table.find sm.slots c with
    | some (.block b more) => some (b, more)
    | _ => none

/-- The running block of a SUM entry while a round is added: elements, exponent, and whether R69 saturated. -/
structure SumFold where
  elems : List Int
  exp : Int
  sat : Bool
  deriving DecidableEq, Repr

/-- One contribution added in round q (08 R279): T is the running exponent at the start of the round. -/
def sumAdd (q : Nat) (t : Int) (r : Option SumFold) (b : SumBlock) : Option SumFold :=
  let j : Ba40 := { elems := b.elems, exp := b.exp }
  let j := if q = 0 then j else (preAlign j t).1
  match r with
  | none => some { elems := j.elems, exp := j.exp, sat := false }
  | some r =>
    let a := addBa40 { elems := r.elems, exp := r.exp } j
    some { elems := a.block.elems, exp := a.block.exp, sat := r.sat || a.flags &&& fSA != 0 }

/-- One I32 contribution added modulo 2^32 (08 R279). -/
def sumAdd32 (r : Option SumFold) (b : SumBlock) : Option SumFold :=
  match r with
  | none => some { elems := b.elems, exp := 0, sat := false }
  | some r => some { r with elems := List.zipWith (fun x y => (x + y) % 2 ^ 32) r.elems b.elems }

/-- The flits of a SUM result (08 R280). -/
def sumResult (t : Nat) (isI32 : Bool) (r : SumFold) (exc rel : Bool) (dend : BitVec 4) (seq : BitVec 16) : List Flit :=
  let tag := BitVec.ofNat 7 t
  if isI32 then
    let payload := r.elems.reverse.foldl (fun n v => n * 2 ^ 32 + (v % 2 ^ 32).toNat) 0
    [mkFlit 2 0 exc rel dend 0 (seq ++ (0 : BitVec 16)) tag (BitVec.ofNat 128 payload)]
  else
    let b : Ba40 := { elems := r.elems, exp := r.exp }
    b.parts.mapIdx fun i q => mkFlit 10 0 exc rel (if i = 4 then dend else 0) 0 (seq ++ b.expBits) tag q

/-- SumRound of 08 R279 on SUM entry t, e, whose slots all hold blocks: the entry after it. -/
def sumRoundOn (sm : SumState) (t : Nat) (e : Word) (bs : List (SumBlock × Option SumBlock)) : SumState :=
  let blocks := bs.map (·.1)
  let isI32 := blocks.any (·.isI32)
  let start : Option SumFold := sm.run.map fun b => { elems := b.elems, exp := b.exp, sat := false }
  let texp := (sm.run.map (·.exp)).getD 0
  let r := (blocks.foldl (fun r b => if isI32 then sumAdd32 r b else sumAdd sm.q texp r b) start).getD
    { elems := [], exp := 0, sat := false }
  let exc := sm.exc || r.sat || blocks.any (·.exc)
  let rel := sm.rel || blocks.any (·.rel)
  let dend := blocks.foldl (fun d b => d ||| b.dend) sm.dend
  let slots := (bs.mapIdx fun c b => (c, b.2)).filterMap fun p => p.2.map fun m => (p.1, SumSlot.block m none)
  let out (f : Flit) : Held := { flit := f, entry := e }
  if sm.q = entAcc e then
    { SumState.reset with
      slots, formed := (sumResult t isI32 r exc rel dend ((blocks.head?.map (·.seq)).getD 0)).map out }
  else
    let renorm :=
      if entRen e && !isI32 then
        [mkFlit 15 2 exc rel 0 0 0 (BitVec.ofNat 7 (entAtag e))
          (BitVec.ofNat 128 ((BitVec.ofInt 16 r.exp).toNat + (sm.q + 1) * 2 ^ 16))]
      else []
    { slots, q := sm.q + 1, exc, rel, dend, tec := (sm.tec.toList ++ blocks.filterMap (·.bxTec)).head?, isI32 := some isI32,
      formed := renorm.map out,
      run := some { isI32, elems := r.elems, exp := r.exp, exc, rel, dend, seq := 0, bxTec := none, special := false } }

/-- A SUM entry that holds blocks or a partial accumulation (08 R296). -/
def SumState.busy (sm : SumState) : Bool := !sm.slots.isEmpty || sm.q != 0 || sm.run.isSome

/-! ## Forwarding (08 R267, R273, R275) -/

/-- A flit enters the delay queue of its entry (08 R267, R268, R275, R296). -/
def toDelay (s : State) (lid : Nat) (p : Place) (k : Nat) (h : Held) : Moved :=
  let rt := (s.core lid).router
  let t := h.flit.tag.toNat
  let q := Table.get [] rt.delays t
  if entDmd h.entry ≤ q.length ∨ rt.rtsetWait = some t ∨ !s.passes lid p (delayHold t) then .stay
  else
    .moved (s.modRouter lid fun rt =>
      let rt := rt.drop k p
      { rt with delays := Table.set [] t (Table.get [] rt.delays t ++ [h]) rt.delays
                locked := holdAfter p h.flit rt.locked (delayHold t) })

/-- An OP 0 entry. REN = 1 counts the BA40 blocks that pass, gathers the parts of one that its record governs, and lets nothing
overtake them (08 R282; 01 R19; log 62). -/
def forwardPlain (s : State) (lid : Nat) (p : Place) (k : Nat) (h : Held) : Moved :=
  let t := h.flit.tag.toNat
  let acc := entAcc h.entry
  let n := (s.core lid).router.renorm t
  let set (n : RenormRec) (s : State) : State := s.modRouter lid (·.setRenorm t n)
  if !entRen h.entry then emitFlit s lid p k h
  else if !n.formed.isEmpty then .stay
  else if h.flit.kind ≠ 0 ∨ h.flit.fmt ≠ 10 then if n.parts.isEmpty then emitFlit s lid p k h else .stay
  else
    match (if n.parts.isEmpty then n.governs else n.target.map (·.1)) with
    | some t' => .moved (set (n.gathered acc t' h) (s.modRouter lid (·.drop k p)))
    | none =>
      match emitFlit s lid p k h with
      | .moved s' => .moved (set (n.passed acc) s')
      | m => m

/-- The next flit of a place moves on (08 R267, R273); adapters and RENORM records have events of their own. DESIGN CHOICE, log 77:
a flit of KIND 7 raises QUEUE_PROTOCOL. -/
def forward (s : State) (lid : Nat) (p : Place) (k : Nat) (h : Held) : Moved :=
  let f := h.flit
  if !entV h.entry ∨ f.kind = 7 then .fault causeQueue f.tag.toNat (min 7 (placeNum p)) f.fmt f.kind
  else if ownResult p f then emitFlit s lid p k h
  else if !atOutputs p h then toDelay s lid p k h
  else
    match entOp h.entry with
    | 0 => forwardPlain s lid p k h
    | 1 => sumAccept s lid p k h
    | 2 => if f.kind ≠ 0 && (s.core lid).router.emits p h then emitFlit s lid p k h else .stay
    | _ => if f.kind ≠ 2 && entOmask h.entry != 0 then emitFlit s lid p k h else .stay

/-- The sinks of a flit that leaves its entry next, for the events that name one kind of them. -/
def headSinks (s : State) (lid : Nat) (p : Place) (h : Held) : List Sink :=
  if (s.core lid).router.emits p h then sinksOf s lid h else []

/-- Whether a sink is a circular-buffer consumer, or takes a producer's credit. -/
def Sink.isBuffer : Sink → Bool
  | .buffer _ => true
  | _ => false
def Sink.isCredit : Sink → Bool
  | .bufferCredit _ => true
  | _ => false

/-- A place of a router that exists (08 R267). -/
def placeOk : Place → Bool
  | .delay t => decide (t < 128)
  | .formed t => decide (t < 128)
  | _ => true

/-- An event at a place of a core's router: f is given the place's next flit, its position and its region. -/
def placeEvent (lid : Nat) (p : Place) (s : State) (f : Nat → Held → Region → State) : Host.Outcome State Fault Refusal :=
  if coreCount ≤ lid ∨ !placeOk p then .fault .noSuchUnit
  else
    match s.nextAt lid p with
    | some (k, h, r) => .next (f k h r)
    | none => .next s

/-- FLIT_FORWARD (08 R273). -/
def execFlitForward (lid : Nat) (p : Place) (s : State) : Host.Outcome State Fault Refusal :=
  placeEvent lid p s fun k h r =>
    if (headSinks s lid p h).any (fun k => k.isBuffer || k.isCredit) then s else (forward s lid p k h).settle s lid r

/-- CB_ENTRY_FLIT (07 R250, R251): a flit of a format that the consumer does not accept stays and sets ERR. -/
def execCbEntryFlit (lid : Nat) (p : Place) (s : State) : Host.Outcome State Fault Refusal :=
  placeEvent lid p s fun k h r =>
    match (headSinks s lid p h).find? (·.isBuffer) with
    | some (.buffer n) =>
      match Table.find (s.core lid).cbs n with
      | some b =>
        if bufferAccepts h.flit.fmt then (forward s lid p k h).settle s lid r
        else s.setCore lid
          { s.core lid with cbs := Table.put n { b with err := some (BitVec.ofNat 4 h.flit.fmt) } (s.core lid).cbs }
      | none => s
    | _ => s

/-- CB_CREDIT_ARRIVAL (07 R252). -/
def execCbCreditArrival (lid : Nat) (p : Place) (s : State) : Host.Outcome State Fault Refusal :=
  placeEvent lid p s fun k h r =>
    if (headSinks s lid p h).any (·.isCredit) then (forward s lid p k h).settle s lid r else s

/-! ## SUM, RENORM and adapter events (08 R279-R283) -/

/-- An event at the entry of a tag that f answers. -/
def entryEvent (lid tag : Nat) (s : State) (f : Core → Word → Region → State) : Host.Outcome State Fault Refusal :=
  if coreCount ≤ lid ∨ 128 ≤ tag then .fault .noSuchUnit
  else
    match s.ownerOf lid tag with
    | some r => .next (if r.moving && entV ((s.core lid).route tag) then f (s.core lid) ((s.core lid).route tag) r else s)
    | none => .next s

/-- SUM_ROUND (08 R279). -/
def execSumRound (lid tag : Nat) (s : State) : Host.Outcome State Fault Refusal :=
  entryEvent lid tag s fun c e _ =>
    let sm := c.router.sum tag
    if entOp e ≠ 1 ∨ !sm.formed.isEmpty then s
    else
      match sm.blocks (entArg e + 1) with
      | none => s
      | some bs => s.modRouter lid (·.setSum tag (sumRoundOn sm tag e bs))

/-- SUM_CONTROL_FLIT (08 R280): every CIX holds a drain or stop flit, so no round is partly filled; the accumulation under way
stands. -/
def execSumControlFlit (lid tag : Nat) (s : State) : Host.Outcome State Fault Refusal :=
  entryEvent lid tag s fun c e _ =>
    let sm := c.router.sum tag
    let ctls := (List.range (entArg e + 1)).mapM fun k =>
      match Table.find sm.slots k with
      | some (.ctl f) => some f
      | _ => none
    match ctls with
    | some (f :: rest) =>
      if entOp e ≠ 1 ∨ !sm.formed.isEmpty then s
      else
        let g := mkFlit f.fmt f.kind (f.exc || rest.any (·.exc)) (f.rel || rest.any (·.rel)) f.dend 0 f.scale
          (BitVec.ofNat 7 tag) f.payload
        s.modRouter lid (·.setSum tag { sm with slots := [], formed := [{ flit := g, entry := e }] })
    | _ => s

/-- RENORM_RECORD (08 R282): the record of the data tag is written, then the flit is forwarded or absorbed. -/
def execRenormRecord (lid : Nat) (p : Place) (s : State) : Host.Outcome State Fault Refusal :=
  placeEvent lid p s fun k h r =>
    let f := h.flit
    if !entV h.entry ∨ entOp h.entry ≠ 3 ∨ f.kind ≠ 2 ∨ !atOutputs p h then s
    else
      let d := entAtag h.entry
      let note (s : State) : State := s.modRouter lid fun rt =>
        rt.setRenorm d ((rt.renorm d).note (entAcc (Table.get 0 rt.routes d)) (signed 16 (bitsOf f.payload 0 16))
          (bitsOf f.payload 16 12))
      if entOmask h.entry = 0 then note (s.modRouter lid (·.drop k p))
      else
        match emitFlit s lid p k h with
        | .moved s' => note s'
        | m => m.settle s lid r

/-- One BX block repacked into a format (02 R59), with the EXC that it raises. -/
def repack (src dst : Nat) (tec : Bool) (b : BxBlock) : BxBlock × Bool :=
  let (b', fl) := bxPack dst tec (b.values src tec)
  (b', taints fl)

/-- A flit of repacked blocks; a BX4 flit takes two (08 R283). -/
def adaptedFlit (dst : Nat) (tec : Bool) (f : Flit) (exc rel : Bool) (dend : BitVec 4) (bs : List BxBlock) : Flit :=
  let (payload, scale) := bxHalf dst bs
  mkFlit (bxFmt dst tec) 0 exc rel dend f.cix scale f.tag payload

/-- The flits and the pending block that a BX flit leaves an adapter with (08 R283): each block is unpacked and repacked under the
format and TEC of its own flit, and the code of a pair whose TECs differ is open (log 63). -/
def adaptFlit (dst : Nat) (pending : Option Flit) (f : Flit) : List Flit × Option Flit :=
  let blocks (g : Flit) : List (BxBlock × Bool) :=
    (bxBlocks (bxKind g.fmt) g.payload g.scale).map (repack (bxKind g.fmt) dst (bxTec g.fmt))
  let first (g : Flit) : BxBlock × Bool := (blocks g).headD (bxZero, false)
  let tec := bxTec f.fmt
  if dst = 0 then
    match pending with
    | some g =>
      let tec := if bxTec g.fmt = tec then tec else Config.pairTec (bxTec g.fmt) tec
      ([adaptedFlit 0 tec f (g.exc || f.exc || (first g).2 || (first f).2) (g.rel || f.rel) f.dend [(first g).1, (first f).1]],
        none)
    | none => if f.dend = 0 then ([], some f) else ([adaptedFlit 0 tec f (f.exc || (first f).2) f.rel f.dend [(first f).1, bxZero]], none)
  else
    let ps := blocks f
    (ps.mapIdx fun i p => adaptedFlit dst tec f (f.exc || p.2) f.rel (if i + 1 = ps.length then f.dend else 0) [p.1], none)

/-- WIDTH_ADAPT (08 R283): a data flit that is not BX is a fault, one of the target format passes as it is, and any other is
repacked. What passes as it is waits while a block of an earlier flit is pending (01 R19; log 76). -/
def execWidthAdapt (lid : Nat) (p : Place) (s : State) : Host.Outcome State Fault Refusal :=
  placeEvent lid p s fun k h r =>
    let f := h.flit
    let t := f.tag.toNat
    let a := (s.core lid).router.adapter t
    if !entV h.entry ∨ entOp h.entry ≠ 2 ∨ f.kind ≠ 0 ∨ ownResult p f ∨ !atOutputs p h ∨ !a.formed.isEmpty then s
    else if !isBx f.fmt then routerFault s lid r causeFmtTag t (min 7 (placeNum p)) f.fmt f.kind
    else if bxKind f.fmt = entArg h.entry then
      if a.pending.isSome then s else (emitFlit s lid p k h).settle s lid r
    else
      let (fs, pending) := adaptFlit (entArg h.entry) a.pending f
      s.modRouter lid fun rt =>
        (rt.drop k p).setAdapter t { pending, formed := fs.map fun g => { flit := g, entry := h.entry } }

end Sys2Proof.Machine
end

