-- ==== Sys2Proof/Machine/Stream.lean ====
section
/-! DEFINITION. Streams at a brim engine: descriptors and their checks, extents, windows, translation with its stalls, the
reading and writing of items, retries and invalidation (07 R231-R244). -/

namespace Sys2Proof.Machine

/-! ## Descriptors (07 R235) -/

/-- Sidebands and shape of a descriptor: fields of its words. -/
def StreamCtx.base (c : StreamCtx) : Nat := bitsOf (c.word 0) 0 57
def StreamCtx.stride (c : StreamCtx) (d : Nat) : Int := signed 48 (bitsOf (c.word (d + 1)) 16 48)
def StreamCtx.ndim (c : StreamCtx) : Nat := bitsOf (c.word 5) 6 2 + 1
def StreamCtx.acq (c : StreamCtx) : Bool := (c.word 5).getLsbD 16
def StreamCtx.scope (c : StreamCtx) : Nat := bitsOf (c.word 5) 18 3
def StreamCtx.nent (c : StreamCtx) : Nat := bitsOf (c.word 5) 24 12 + 1
def StreamCtx.esz (c : StreamCtx) : Nat := bitsOf (c.word 5) 36 8 + 1
def StreamCtx.sqm (c : StreamCtx) : Nat := bitsOf (c.word 5) 51 2
def StreamCtx.seq0 (c : StreamCtx) : Nat := bitsOf (c.word 6) 0 16
def StreamCtx.isBx (c : StreamCtx) : Bool := decide (6 ≤ c.fmt) && decide (c.fmt ≤ 8)

/-- The BX format of a stream (02 R60). -/
def StreamCtx.kind (c : StreamCtx) : Nat := 8 - c.fmt

/-- A stream context as sopen or the loader makes it, with nothing delivered. -/
def StreamCtx.ofDesc (lid slot region : Nat) (desc : List Word) (tec : Bool) : StreamCtx :=
  let c : StreamCtx :=
    { lid, slot, region, desc, tec, running := false, closing := false, ended := false, items := 0, got := [],
      windows := [], rr := 0, stall := none, cause := 0, exc := false, endCode := 0, credits := 0 }
  { c with credits := if c.dir = 1 then c.nent else 0 }

/-- The byte offset in memory of the element field and of the scale word of block b of the group layout (02 R54). -/
def blockOffsets (kind b : Nat) : Nat × Nat :=
  let w := bxWidth kind
  (b / 8 * (16 * w + 16) + 2 * w * (b % 8), b / 8 * (16 * w + 16) + 16 * w + 2 * (b % 8))

/-- The bytes of one item that is no BX block (07 R237). -/
def StreamCtx.itemBytes (c : StreamCtx) : Nat := if c.fmt = 0 then 8 else if c.fmt = 10 then 88 else 16

/-- The lowest and the highest offset that the corners of the nest reach, in bytes or blocks (07 R232). -/
def StreamCtx.corners (c : StreamCtx) : Int × Int :=
  let reach (d : Nat) : Int := c.stride d * ((c.cnt d : Nat) - 1 : Int)
  ([0, 1, 2, 3].foldl (fun r d => r + min 0 (reach d)) 0, [0, 1, 2, 3].foldl (fun r d => r + max 0 (reach d)) 0)

/-- The extent of a stream: the VAs of its lowest and highest item byte (07 R232). -/
def StreamCtx.extent (c : StreamCtx) : Int × Int :=
  let (lo, hi) := c.corners
  if c.isBx then
    ((c.base + (blockOffsets c.kind lo.toNat).1 : Nat), (c.base + (blockOffsets c.kind hi.toNat).2 + 1 : Nat))
  else (c.base + lo, c.base + hi + c.itemBytes - 1)

/-! ## The checks of a descriptor (07 R236) -/

/-- Whether every reserved bit of a descriptor is 0 (07 R235). -/
def StreamCtx.reservedOk (c : StreamCtx) : Bool :=
  let w5 := c.word 5
  bitsOf (c.word 0) 57 7 == 0 && bitsOf w5 53 11 == 0 && bitsOf w5 21 3 == 0 && !w5.getLsbD 15 && c.word 7 == 0
    && bitsOf (c.word 6) 16 48 == 0

/-- Step 1 of 07 R236; a reserved scope is a reserved value (03 R85; log 16). -/
def StreamCtx.fieldsOk (c : StreamCtx) : Bool :=
  c.reservedOk && decide (c.dir < 3) && decide (c.sqm < 3) && decide (c.fmt < 11)
    && decide (c.scope < 5)
    && (c.dir != 1 || (decide (1 ≤ c.fmt) && decide (c.fmt ≤ 5)) || c.fmt == 9)
    && (List.range 4).all (fun d => decide (d < c.ndim) || c.word (d + 1) == 0)
    && !(c.sqm != 0 && c.isBx) && (c.dir == 1 || (c.ctag == 0 && c.esz == 1 && c.nent == 1))
    && !(c.fmt == 8 && c.cnt 0 % 2 != 0) && !(c.dir == 1 && c.total % c.esz != 0)

/-- Step 2: the value of an ALIGN trap, if one is due. -/
def StreamCtx.badAlign (c : StreamCtx) : Option Word :=
  if c.base % 8 ≠ 0 then some (BitVec.ofNat 64 c.base)
  else if c.isBx then if c.corners.1 < 0 then some (trunc 64 c.corners.1) else none
  else ((List.range c.ndim).find? fun d => c.stride d % 8 != 0).map fun d => trunc 64 (c.stride d)

/-- Step 3: the offending bound. -/
def StreamCtx.badExtent (c : StreamCtx) : Option Word :=
  let (lo, hi) := c.extent
  if lo < 0 then some (trunc 64 lo) else if 2 ^ 57 ≤ hi then some (trunc 64 hi) else none

/-- Step 4: another context of the engine that is not free holds the tag that this stream takes flits or credits on. -/
def StreamCtx.tagHeld (c : StreamCtx) (b : Brim) : Bool :=
  b.ctxs.any fun e =>
    (c.dir == 2 && e.2.dir == 2 && e.2.tag == c.tag) || (c.dir == 1 && e.2.dir == 1 && e.2.ctag == c.ctag)

/-- Steps 1 to 3 of 07 R236: the first failure; word is the instruction word. -/
def StreamCtx.check (c : StreamCtx) (word : Word) : Option (BitVec 8 × Word) :=
  if !c.fieldsOk then some (causeReserved, word)
  else
    match c.badAlign, c.badExtent with
    | some v, _ => some (causeAlign, v)
    | none, some v => some (causeTranslation, v)
    | none, none => none

/-! ## Windows (07 R231, R232) -/

/-- Runs of pages, the latest first, with one more page that has been walked; joined says that the latest run ends at
the page before. -/
def extendRuns (runs : List Window) (joined : Bool) (page pa : Nat) (w : Bool) : List Window :=
  match runs with
  | r :: rest =>
    if joined && r.w == w && decide (r.pa + r.count = pa) && decide (r.count < 2 ^ 20) then
      { r with count := r.count + 1 } :: rest
    else { pin := true, w, va := page, count := 1, pa } :: runs
  | [] => [{ pin := true, w, va := page, count := 1, pa }]

/-- The pages of an extent walked in ascending order, n of them from page on, until an eighth run is complete. -/
def walkRuns (s : State) (root : Nat) (write : Bool) : Nat → Nat → Bool → List Window → List Window
  | 0, _, _, runs => runs
  | n + 1, page, joined, runs =>
    match walk s root (page * 4096) write with
    | .leaf pa _ w =>
      let runs' := extendRuns runs joined page (pa / 4096) w
      if 8 < runs'.length then runs else walkRuns s root write n (page + 1) true runs'
    | _ => walkRuns s root write n (page + 1) false runs

/-- The windows of a stream when it is opened or resumes (07 R232). -/
def StreamCtx.withWindows (c : StreamCtx) (s : State) (root : Nat) : StreamCtx :=
  let (lo, hi) := c.extent
  let first := lo.toNat / 4096
  let runs := (walkRuns s root (c.dir == 2) (hi.toNat / 4096 + 1 - first) first false []).reverse
  { c with windows := runs.mapIdx fun i w => (i, w), rr := 0 }

/-- A translation for an item (07 R231): the lowest-numbered window that permits it, else a walk whose leaf is installed
unpinned in round-robin order, unless every entry is pinned. -/
def StreamCtx.xlate (c : StreamCtx) (s : State) (root va : Nat) (write : Bool) : Except WalkResult (Nat × StreamCtx) :=
  match c.windows.find? (fun e => e.2.permits va write) with
  | some (_, e) => .ok (e.map va, c)
  | none =>
    match walk s root va write with
    | .leaf pa size w =>
      let free := (List.range 8).filter fun i => !((Table.find c.windows i).map (·.pin)).getD false
      match free[c.rr % free.length]? with
      | some i => .ok (pa, { c with windows := Table.put i (Window.ofLeaf va pa size w) c.windows, rr := c.rr + 1 })
      | none => .ok (pa, c)
    | r => .error r

/-- An access cut where it crosses a page. -/
def pagePieces (va n : Nat) : List (Nat × Nat) :=
  let k := 4096 - va % 4096
  if n ≤ k then [(va, n)] else [(va, k), (va + k, n - k)]

/-- What an access of an item comes to: its physical pieces, or the outcome that stops it with the VA. -/
inductive ItemAccess where
  | pieces (ps : List (Nat × Nat)) (c : StreamCtx)
  | stop (r : WalkResult) (va : Nat) (c : StreamCtx)
  deriving DecidableEq, Repr

/-- The pieces of an item's accesses translated in order. -/
def StreamCtx.xlateAll (s : State) (root : Nat) (write : Bool) : StreamCtx → List (Nat × Nat) → ItemAccess
  | c, [] => .pieces [] c
  | c, (va, n) :: rest =>
    match c.xlate s root va write with
    | .error r => .stop r va c
    | .ok (pa, c) =>
      match StreamCtx.xlateAll s root write c rest with
      | .pieces ps c => .pieces ((pa, n) :: ps) c
      | stop => stop

/-! ## Items (07 R237) -/

/-- The offset o of item k. -/
def StreamCtx.offset (c : StreamCtx) (k : Nat) : Int :=
  [0, 1, 2, 3].foldl (fun r d => r + (c.index k d : Nat) * c.stride d) 0

/-- DEND of item k. -/
def StreamCtx.dendOf (c : StreamCtx) (k : Nat) : BitVec 4 :=
  BitVec.ofNat 4 ((List.range 4).foldl
    (fun r d => r + bit ((List.range (d + 1)).all fun j => c.index k j + 1 == c.cnt j) * 2 ^ d) 0)

/-- The memory of the group of items at counter k: virtual addresses and lengths, in the order of the flit's fields. -/
def StreamCtx.places (c : StreamCtx) (k : Nat) : List (Nat × Nat) :=
  if c.isBx then
    (List.range c.itemsPerGroup).flatMap fun j =>
      let (e, sc) := blockOffsets c.kind (c.offset (k + j)).toNat
      [(c.base + e, 2 * bxWidth c.kind), (c.base + sc, 2)]
  else [((c.base + c.offset k).toNat, c.itemBytes)]

/-- SEQ of the flit with number n of the item at counter k (07 R237). -/
def StreamCtx.seqOf (c : StreamCtx) (k n : Nat) : Nat :=
  (match c.sqm with
   | 1 => c.seq0 + n
   | 2 => c.seq0 + k / c.cnt 0
   | _ => 0) % 2 ^ 16

/-- The number of flits that the items before counter k are carried by. -/
def StreamCtx.flitsBefore (c : StreamCtx) (k : Nat) : Nat := k / c.itemsPerGroup * c.flitsPerItem

/-- The flits of the items at counter k, from the bytes of its places (07 R237, R238). -/
def StreamCtx.flitsOf (c : StreamCtx) (k : Nat) (data : List (List Byte)) : List Flit :=
  let tag := BitVec.ofNat 7 c.tag
  let seq (i : Nat) : Nat := c.seqOf k (c.flitsBefore k + i) * 2 ^ 16
  let blob (i : Nat) : Nat := natOfBytes (data.getD i [])
  if c.isBx then
    let blocks := (List.range c.itemsPerGroup).map fun j => bxOfScale c.kind (blob (2 * j)) (blob (2 * j + 1))
    let (payload, scale) := bxHalf c.kind blocks
    [mkFlit c.fmtCode 0 false false (c.dendOf (k + c.itemsPerGroup - 1)) 0 scale tag payload]
  else if c.fmt = 10 then
    let b := ba40OfRecord (data.getD 0 [])
    b.parts.mapIdx fun i q =>
      mkFlit 10 0 false false (if i = 4 then c.dendOf k else 0) 0 (BitVec.ofNat 32 (seq i + b.expBits.toNat)) tag q
  else [mkFlit c.fmt 0 false false (c.dendOf k) 0 (BitVec.ofNat 32 (seq 0)) tag (BitVec.ofNat 128 (blob 0))]

/-- The bytes that the flits of the items at counter k write at its places (07 R239). -/
def StreamCtx.bytesOf (c : StreamCtx) (fs : List Flit) : List (List Byte) :=
  let f := fs.headD { payload := 0, side := 0, tag := 0 }
  if c.isBx then
    (bxBlocks c.kind f.payload f.scale).flatMap fun b =>
      [bytesOfNat (2 * bxWidth c.kind) (b.field c.kind), bytesOfNat 2 b.scaleWord]
  else if c.fmt = 10 then [(ba40OfFlits fs).record]
  else [bytesOfNat c.itemBytes f.payload.toNat]

/-! ## The engine's contexts -/

/-- A stream context of an engine, if it is not free. -/
def State.ctx (s : State) (eng n : Nat) : Option StreamCtx := Table.find (s.brim eng).ctxs n

/-- The module with a stream context replaced. -/
def State.setCtx (s : State) (eng n : Nat) (c : StreamCtx) : State :=
  s.setBrim eng { s.brim eng with ctxs := Table.put n c (s.brim eng).ctxs }

/-- The page-table root of the job whose region holds a core. -/
def State.rootAt (s : State) (lid : Nat) : Nat := ((s.regionOf lid).map s.rootOf).getD 0

/-- A slot of a core (07 R234). -/
def Core.slot (c : Core) (n : Nat) : Slot := Table.get { st := .free, eng := 0, ctx := 0 } c.slots n

/-- A slot of a core replaced; a FREE slot is not listed. -/
def Core.setSlot (c : Core) (n : Nat) (v : Slot) : Core :=
  { c with slots := if v.st == .free then Table.erase n c.slots else Table.put n v c.slots }

/-- What the fault record or stall report of a stream says (07 R239, R242; 08 R288). -/
def StreamCtx.report (c : StreamCtx) (eng : Nat) (cause : BitVec 8) (va : Nat) : FaultInfo :=
  { cause := cause.toNat, unit := 2, eng, ctx := c.slot, val := BitVec.ofNat 64 va, opnd := c.counters }

/-- A fault of a stream that is fatal to its region (07 R241). -/
def streamFatal (s : State) (eng : Nat) (c : StreamCtx) (cause : BitVec 8) (va : Nat) : State :=
  freezeAt s c.lid (c.report eng cause va)

/-- A stream stalls at an item (07 R242): the first stall sends a report, a failed retry none. -/
def streamStall (s : State) (eng n : Nat) (c : StreamCtx) (cause : BitVec 8) (va : Nat) (write : Bool) : State :=
  let now := s.cycle.toNat
  match c.stall with
  | some st => s.setCtx eng n { c with stall := some { st with cause, va, write, lastTry := now }, cause }
  | none =>
    let s := s.setCtx eng n
      { c with stall := some { cause, va, write, start := now, lastTry := now, drained := false }, cause }
    match s.regionOf c.lid with
    | some r => reportFault s r (faultRecord s r c.lid { c.report eng cause va with stall := true })
    | none => s

/-- The module after a translation stopped an item (07 R241). -/
def streamStop (s : State) (eng n : Nat) (c : StreamCtx) (r : WalkResult) (va : Nat) (write : Bool) : State :=
  match r with
  | .poison => streamFatal s eng c causePoison va
  | .protection => streamStall s eng n c causeProtection va write
  | _ => streamStall s eng n c causeTranslation va write

/-- A stream enters ENDED: its completion token goes to its core (07 R240, R257). -/
def streamFinish (s : State) (eng n : Nat) (c : StreamCtx) (code : BitVec 2) : State :=
  let s := s.setCtx eng n
    { c with running := false, closing := false, ended := true, endCode := code, got := [], stall := none }
  let k := s.core c.lid
  let s := s.setCore c.lid (k.setSlot c.slot { k.slot c.slot with st := .ended })
  { s with tokens := s.tokens ++ [(c.lid, .stream c.slot)] }

/-- Whether an item has been issued and not completed: a read in delivery, or a write whose flits have all been taken
(07 R257). -/
def StreamCtx.issued (c : StreamCtx) : Bool :=
  if c.dir = 2 then decide (c.flitsPerItem ≤ c.got.length) else !c.got.isEmpty

/-! ## Reading and writing an item -/

/-- The bytes of an item's pieces read. -/
def readPieces (s : State) : List (Nat × Nat) → Option (List Byte)
  | [] => some []
  | (pa, n) :: rest => do
    let a ← extRead s pa n
    let b ← readPieces s rest
    return a ++ b

/-- Bytes written to an item's pieces. -/
def writePieces (s : State) : List (Nat × Nat) → List Byte → Option State
  | [], _ => some s
  | (pa, n) :: rest, bytes => do
    let s ← extWrite s pa (bytes.take n)
    writePieces s rest (bytes.drop n)

/-- Bytes divided among fields of given lengths. -/
def splitBytes : List (Nat × Nat) → List Byte → List (List Byte)
  | [], _ => []
  | (_, n) :: rest, bytes => bytes.take n :: splitBytes rest (bytes.drop n)

/-- Whether some access of a stream's next item meets a page under migration, on which it waits (07 R247). -/
def StreamCtx.frozen (c : StreamCtx) (s : State) : Bool :=
  match s.regionOf c.lid with
  | some r => (c.places c.items).any fun p => s.frozenPage r.job p.1 p.2
  | none => false

/-- The next item of a read stream is read: its flits wait for delivery, or the stream stalls or faults (07 R238, R241, R247). -/
def streamRead (s : State) (eng n : Nat) (c : StreamCtx) : State :=
  let places := c.places c.items
  if c.frozen s then s else
  match StreamCtx.xlateAll s (s.rootAt c.lid) false c (places.flatMap fun p => pagePieces p.1 p.2) with
  | .stop r va c => streamStop s eng n c r va false
  | .pieces ps c =>
    match readPieces s ps with
    | none => streamFatal s eng c causePoison ((places.head?.map (·.1)).getD 0)
    | some bytes => s.setCtx eng n { c with stall := none, got := c.flitsOf c.items (splitBytes places bytes) }

/-- Where a stream's flits enter the mesh (08 R274). -/
def State.injectOf (s : State) (c : StreamCtx) : Option Inject := do
  let r ← s.regionOf c.lid
  r.inject.find? fun j => j.role == r.roleOf c.lid && j.tag == c.tag

/-- Whether the next flit of a read stream must have a credit: it is the first of a circular-buffer entry (07 R238). -/
def StreamCtx.beginsEntry (c : StreamCtx) : Bool := c.dir == 1 && c.items % c.esz == 0

/-- The next flit of a read stream enters the mesh where there is room; an item is complete with its last flit (07
R238). -/
def streamDeliver (s : State) (eng n : Nat) (c : StreamCtx) : State :=
  match c.got, s.injectOf c with
  | f :: rest, some j =>
    let port := dirNum j.dir
    if 2 ≤ (Table.get [] (s.core j.lid).router.ports port).length ∨ (c.beginsEntry ∧ c.credits = 0) then s
    else
      let s := s.modRouter j.lid fun rt =>
        { rt with ports := Table.set [] port (Table.get [] rt.ports port ++ [{ f with tag := BitVec.ofNat 7 j.inTag }]) rt.ports }
      s.setCtx eng n
        { c with got := rest, credits := if c.beginsEntry then c.credits - 1 else c.credits,
                 items := if rest.isEmpty then c.items + c.itemsPerGroup else c.items }
  | _, _ => s

/-- The item of a write stream whose flits have all been taken is written (07 R239, R241, R247). -/
def streamWrite (s : State) (eng n : Nat) (c : StreamCtx) : State :=
  let places := c.places c.items
  if c.frozen s then s else
  match StreamCtx.xlateAll s (s.rootAt c.lid) true c (places.flatMap fun p => pagePieces p.1 p.2) with
  | .stop r va c => streamStop s eng n c r va true
  | .pieces ps c =>
    match writePieces s ps (c.bytesOf c.got).flatten with
    | none => streamFatal s eng c causePoison ((places.head?.map (·.1)).getD 0)
    | some s => s.setCtx eng n { c with stall := none, got := [], items := c.items + c.itemsPerGroup }

/-! ## Retries and invalidation (07 R242, R244) -/

/-- A retry of a stalled stream's walk: a success ends the stall and installs its window. -/
def streamRetry (s : State) (eng n : Nat) : State :=
  match s.ctx eng n with
  | none => s
  | some c =>
    match c.stall with
    | none => s
    | some st =>
      match c.xlate s (s.rootAt c.lid) st.va st.write with
      | .ok (_, c) => s.setCtx eng n { c with stall := none }
      | .error r => streamStop s eng n c r st.va st.write

/-- A retry of a stalled scalar access: unless the page is still absent, the access executes again (07 R242). -/
def scalarRetry (s : State) (lid : Nat) : State :=
  { s with scalarStalls := s.scalarStalls.filterMap fun x =>
      if x.lid = lid then
        match walk s (s.rootAt lid) x.stall.va x.stall.write with
        | .notPresent => some { x with stall := { x.stall with lastTry := s.cycle.toNat } }
        | _ => none
      else some x }

/-- A range of pages that an invalidation covers: pages lo to hi - 1. -/
structure PageRange where
  lo : Nat
  hi : Nat
  deriving DecidableEq, Repr

/-- Whether a window holds a page of a range. -/
def Window.meets (w : Window) (g : PageRange) : Bool := decide (w.va < g.hi) && decide (g.lo < w.va + w.count)

/-- The pages at the start of a pinned window that still translate as one run (07 R244; log 17). -/
def rewalkRun (s : State) (root : Nat) (write : Bool) : Nat → Nat → Option Window → Option Window
  | 0, _, run => run
  | n + 1, page, run =>
    match walk s root (page * 4096) write with
    | .leaf pa _ w =>
      match run with
      | none => rewalkRun s root write n (page + 1) (some { pin := true, w, va := page, count := 1, pa := pa / 4096 })
      | some r =>
        if r.w = w ∧ r.pa + r.count = pa / 4096 then
          rewalkRun s root write n (page + 1) (some { r with count := r.count + 1 })
        else run
    | _ => run

/-- A stream context after an invalidation: overlapping windows are dropped, pinned ones walked again in place. -/
def StreamCtx.shoot (c : StreamCtx) (s : State) (root : Nat) (g : PageRange) : StreamCtx :=
  { c with windows := c.windows.filterMap fun e =>
      if e.2.meets g then
        if e.2.pin then (rewalkRun s root (c.dir == 2) e.2.count e.2.va none).map fun w => (e.1, w) else none
      else some e }

/-- The job of a stream context. -/
def State.ctxJob (s : State) (c : StreamCtx) : Option Nat := (s.regionOf c.lid).map (·.job)

/-- One awake engine takes an invalidation (07 R244 steps 2 to 5). -/
def shootEngine (job root : Nat) (g : PageRange) (s : State) (eng : Nat) : State :=
  let b := s.brim eng
  if b.asleep then s
  else
    let s := s.setBrim eng
      { b with
        scalar := b.scalar.filter fun e => !(e.2.1 == job && e.2.2.meets g)
        ctxs := b.ctxs.map fun e => (e.1, if s.ctxJob e.2 = some job then e.2.shoot s root g else e.2) }
    let s := (b.ctxs.filter fun e => s.ctxJob e.2 == some job).foldl (fun s e => streamRetry s eng e.1) s
    (s.scalarStalls.filter fun x => s.portOf x.lid == eng && (s.regionOf x.lid).map (·.job) == some job).foldl
      (fun s x => scalarRetry s x.lid) s

/-- The shoot-down of 07 R244 over all 48 engines. -/
def shootDown (s : State) (job root : Nat) (g : PageRange) : State :=
  (List.range 48).foldl (shootEngine job root g) s

/-- The pages that meet the range of n bytes at va, the whole address space when n = 0 (07 R262). -/
def pagesOf (va n : Nat) : PageRange :=
  if n = 0 then { lo := 0, hi := 2 ^ 45 } else { lo := va / 4096, hi := (va + n - 1) / 4096 + 1 }

end Sys2Proof.Machine
end

