-- ==== Sys2Proof/Machine/Brim.lean ====
section
/-! DEFINITION. The brim instructions and the events of the brim engines: stream slots, circular buffers, migration,
invalidation, items, ends, tokens, retries and sleep (07 R234-R263). -/

namespace Sys2Proof.Machine

/-! ## Stream slots (07 R234, R256-R258) -/

/-- The code of a slot state. -/
def SlotState.code : SlotState → Nat
  | .free => 0
  | .opened => 1
  | .run => 2
  | .paused => 3
  | .ended => 4

/-- A use of a slot that its state does not allow (07 R234). -/
def slotMisuse {α : Type} (st : SlotState) (n : Nat) : Op α :=
  trapWith causeQueue (BitVec.ofNat 64 (st.code + 2 ^ 4 + n * 2 ^ 8))

/-- A wait of a brim instruction on a slot or, from 8 up, on a circular buffer (07 R255). -/
def brimWait (n : Nat) : Word := waitVal 6 0 n

/-- TRAP_VAL of a wait inside a brim instruction: class 6 with the slot or context (07 R255), but the wait of a gated LOC access, which
has class 6 of its own, keeps its bank (14 R439). DEDUCED: R255 and R439 both claim bits 18:16 of an sopen or cbinit whose record lies
in a gated bank (log 79). Unsafe: a handler reads one or the other. -/
def brimVal (n : Nat) (v : Word) : Word := if bitsOf v 0 4 = 6 then v else brimWait n

/-- A brim instruction: whatever it waits for, its wait has class 6 and names its slot or context (07 R255). -/
def issueBrim (i : Instr) (n : Nat) (body : Op Unit) : State → Host.Outcome State Fault Refusal :=
  issueSeq i (tryCatch body fun e =>
    match e with
    | .wait v => throw (.wait (brimVal n v))
    | .hold v => throw (.hold (brimVal n v))
    | e => throw e)

/-- n words of the core's LOC at an address, under the ALIGN and LOC_RANGE checks (04 R125, R127). -/
def locWords (a : Word) (n : Nat) : Op (List Word) := do
  if a.toNat % 8 ≠ 0 then trapWith causeAlign a
  if 65536 < a.toNat + 8 * n then trapWith causeLocRange a
  (List.range n).mapM fun k => do
    return BitVec.ofNat 64 (natOfBytes (← locLoad (a.toNat + 8 * k) 8 a))

/-- The stream of a slot, with the slot and its context. -/
def slotStream (s : State) (n : Nat) : Option (Slot × StreamCtx) :=
  let sl := s.me.slot n
  (s.ctx sl.eng sl.ctx).map fun c => (sl, c)

/-- The stream of slot n changed. -/
def modStream (n : Nat) (st : SlotState) (f : StreamCtx → StreamCtx) : Op Unit := do
  let s ← get
  match slotStream s n with
  | none => pure ()
  | some (sl, c) =>
    set (s.setCtx sl.eng sl.ctx (f c))
    modMe fun k => k.setSlot n { sl with st }

/-- The descriptor words of an sopen and MODE.TEC with them, read once: while the instruction waits for a context, the words that it
has read stand (07 R256). -/
def sopenWords (a : Word) : Op (List Word) := do
  let c ← getMe
  if !c.opening.isEmpty then return c.opening
  let ws ← locWords a 8
  return ws ++ [BitVec.ofNat 64 (bit (← getMe).tec)]

/-- sopen (07 R256). -/
def execSopen (x : FormS3) : State → Host.Outcome State Fault Refusal :=
  issueBrim (.sopen x) (bitsOf x.aux 0 3) do
    let n := bitsOf x.aux 0 3
    let a ← readBase x.a
    let s ← get
    let st := (s.me.slot n).st
    if st ≠ .free then slotMisuse st n
    let ws ← sopenWords a
    let c := StreamCtx.ofDesc s.cur n (((s.regionOf s.cur).map (·.id)).getD 0) (ws.take 8) ((ws.getD 8 0).getLsbD 0)
    match c.check (x.word 0x70) with
    | some (cause, v) => trapWith cause v
    | none => pure ()
    let eng := s.portOf s.cur
    if c.tagHeld (s.brim eng) then slotMisuse st n
    match (List.range 32).find? (fun k => (s.ctx eng k).isNone) with
    | none =>
      modMe fun m => { m with opening := ws }
      throw (.hold (brimWait n))
    | some k =>
      modify fun s => (s.setBrim eng (s.brim eng).wake).setCtx eng k (c.withWindows s (s.rootAt s.cur))
      modMe fun m => { m.setSlot n { st := .opened, eng, ctx := k } with opening := [] }

/-- sgo (07 R257, R240). -/
def execSgo (x : FormS3) : State → Host.Outcome State Fault Refusal :=
  issueBrim (.sgo x) (bitsOf x.aux 0 3) do
    let n := bitsOf x.aux 0 3
    let s ← get
    match (s.me.slot n).st with
    | .run => pure ()
    | .free => slotMisuse .free n
    | .ended => slotMisuse .ended n
    | .opened | .paused =>
      match slotStream s n with
      | none => pure ()
      | some (_, c) =>
        if c.acq then
          waitUnless (s.scopePerformed s.cur c.scope) (brimWait n)
          discardFetched
        modStream n .run fun c => { c with running := true }

/-- sstop (07 R257). -/
def execSstop (x : FormS3) : State → Host.Outcome State Fault Refusal :=
  issueBrim (.sstop x) (bitsOf x.aux 0 3) do
    let n := bitsOf x.aux 0 3
    match ((← getMe).slot n).st with
    | .run => modStream n .paused fun c => { c with running := false }
    | .ended => pure ()
    | st => slotMisuse st n

/-- sstop.close (07 R257): at once when no item is issued, else when the issued items are performed. -/
def execSstopClose (x : FormS3) : State → Host.Outcome State Fault Refusal :=
  issueBrim (.sstopClose x) (bitsOf x.aux 0 3) do
    let n := bitsOf x.aux 0 3
    let s ← get
    match (s.me.slot n).st with
    | .free => slotMisuse .free n
    | .ended => pure ()
    | _ =>
      match slotStream s n with
      | none => pure ()
      | some (sl, c) =>
        if c.issued then set (s.setCtx sl.eng sl.ctx { c with closing := true })
        else set (streamFinish s sl.eng sl.ctx c 2)

/-- The status of a slot's stream (07 R258). -/
def streamStatus (s : State) (n : Nat) : Word :=
  match (s.me.slot n).st, slotStream s n with
  | .free, _ => 0
  | _, none => 0
  | st, some (sl, c) =>
    BitVec.ofNat 64 (st.code + c.endCode.toNat * 2 ^ 4 + bit c.exc * 2 ^ 6 + bit c.stall.isSome * 2 ^ 7
      + c.cause.toNat * 2 ^ 8 + sl.eng * 2 ^ 16 + sl.ctx * 2 ^ 22 + c.items % 2 ^ 32 * 2 ^ 32)

/-- The module with the stream of the executing core's slot n freed. -/
def State.freeSlot (s : State) (n : Nat) : State :=
  let sl := s.me.slot n
  let b := s.brim sl.eng
  let s := s.setBrim sl.eng { b with ctxs := Table.erase sl.ctx b.ctxs }
  s.setMe { s.me.setSlot n { st := .free, eng := 0, ctx := 0 } with tokens := s.me.tokens.erase (.stream n) }

/-- swait (07 R258). -/
def execSwait (x : FormS3) : State → Host.Outcome State Fault Refusal :=
  issueBrim (.swait x) (bitsOf x.aux 0 3) do
    let n := bitsOf x.aux 0 3
    let s ← get
    let st := (s.me.slot n).st
    if st = .free then slotMisuse st n
    waitUnless (st == .ended && s.me.tokens.contains (.stream n)) (brimWait n)
    destReady x.d 1
    let v := streamStatus s n
    if v.getLsbD 6 then raise flagEXC
    modify (·.freeSlot n)
    acquire
    writeS x.d v

/-- sstat (07 R258). -/
def execSstat (x : FormS3) : State → Host.Outcome State Fault Refusal :=
  issueBrim (.sstat x) (bitsOf x.aux 0 3) do
    writeS x.d (streamStatus (← get) (bitsOf x.aux 0 3))

/-- sstat.cnt (07 R258); a FREE slot has no counters and reads as 0. DESIGN CHOICE, log 67: a stream whose items are all done has no next
item, and its counters read as 0. -/
def execSstatCnt (x : FormS3) : State → Host.Outcome State Fault Refusal :=
  issueBrim (.sstatCnt x) (bitsOf x.aux 0 3) do
    let s ← get
    let n := bitsOf x.aux 0 3
    writeS x.d (match (s.me.slot n).st, slotStream s n with
      | .free, _ => 0
      | _, some (_, c) => c.counters
      | _, none => 0)

/-! ## Circular buffers (07 R249-R252, R259-R261) -/

/-- A circular-buffer context of a core, none while it is unset. -/
def Core.cb (c : Core) (n : Nat) : Option CbCtx := Table.find c.cbs n

/-- The code of a context's role in the TRAP_VAL of a misuse (07 R255). -/
def cbRole : Option CbCtx → Nat
  | none => 0
  | some b => if b.producer then 2 else 1

/-- A misuse of a circular-buffer context (07 R255). -/
def cbMisuse {α : Type} (b : Option CbCtx) (n : Nat) : Op α :=
  trapWith causeQueue (BitVec.ofNat 64 (cbRole b + 2 ^ 5 + n * 2 ^ 8))

/-- A context set up from a record: FILLED 0 or FREE NENT + 1, head and tail 0 (07 R252, R259). -/
def CbCtx.ofRecord (w : Word) : CbCtx :=
  let b : CbCtx := { record := w, count := 0, head := 0, tail := 0, pos := 0, err := none, exc := false }
  { b with count := if b.producer then b.nent else 0 }

/-- Whether a consumer's buffer lies outside the carve-out (07 R249; 04 R118). -/
def CbCtx.outside (b : CbCtx) (c : Core) : Bool :=
  !b.producer && (decide (b.base < c.cbufBase) || decide (c.cbufLim < b.base + 16 * b.nent * b.esz))

/-- Whether a context holds a filled entry, a partly written entry or unused credits (07 R259). -/
def CbCtx.inUse (b : CbCtx) : Bool := b.count != 0 || b.pos != 0

/-- cbinit: the traps of the record's address come first, then those of 07 R259 in its order (05 R178). -/
def execCbinit (x : FormS3) : State → Host.Outcome State Fault Refusal :=
  issueBrim (.cbinit x) (bitsOf x.aux 0 3 + 8) do
    let n := bitsOf x.aux 0 3
    let a ← readBase x.a
    let ws ← locWords a 1
    let c ← getMe
    if ((c.cb n).map (·.inUse)).getD false then cbMisuse (c.cb n) n
    let b := CbCtx.ofRecord (ws.headD 0)
    if b.outside c then trapWith causeLocRange (BitVec.ofNat 64 b.base)
    if bitsOf b.record 54 10 ≠ 0 then trapWith causeReserved (x.word 0x75)
    modMe fun c => { c with cbs := Table.put n b c.cbs }

/-- The consumer context of a cbwait or cbrel (07 R260). -/
def cbConsumer (n : Nat) : Op CbCtx := do
  let c ← getMe
  match c.cb n with
  | some b => if b.producer then cbMisuse (c.cb n) n else return b
  | none => cbMisuse none n

/-- cbwait (07 R251, R260). A FORMAT_TAG leaves ERR set, so each later cbwait of the context traps again until cbinit sets the context
up anew. DEDUCED: R251 says only that the next cbwait traps (log 84). Unsafe: a second cbwait could pass. -/
def execCbwait (x : FormS3) : State → Host.Outcome State Fault Refusal :=
  issueBrim (.cbwait x) (bitsOf x.aux 0 3 + 8) do
    let n := bitsOf x.aux 0 3
    let count := bitsOf x.aux 4 12 + 1
    let b ← cbConsumer n
    if b.nent < count then cbMisuse (some b) n
    match b.err with
    | some fmt => trapWith causeFmtTag (BitVec.ofNat 64 (fmt.toNat + n * 2 ^ 8 + 2 ^ 12))
    | none => pure ()
    waitUnless (decide (count ≤ b.count)) (brimWait (n + 8))
    destReady x.d 1
    if b.exc then raise flagEXC
    modMe fun c => { c with cbs := Table.put n { b with exc := false } c.cbs }
    acquire
    writeS x.d (BitVec.ofNat 64 (b.base + 16 * b.head * b.esz))

/-- A wait of a brim instruction for room in the output queue, of class 6 (07 R255). -/
def brimRoom (k n : Nat) : Op Unit := do
  waitUnless (decide ((← getMe).router.outq.length + k ≤ 8)) (brimWait (n + 8))

/-- cbrel (07 R252, R260). -/
def execCbrel (x : FormS3) : State → Host.Outcome State Fault Refusal :=
  issueBrim (.cbrel x) (bitsOf x.aux 0 3 + 8) do
    let n := bitsOf x.aux 0 3
    let count := bitsOf x.aux 4 12 + 1
    let b ← cbConsumer n
    if b.count < count then cbMisuse (some b) n
    checkTag b.ctag
    brimRoom 1 n
    modMe fun c => { c with
      cbs := Table.put n { b with count := b.count - count, head := (b.head + count) % b.nent } c.cbs }
    pushFlits [mkFlit 15 5 ((← getMe).fpFlagsRead.getLsbD 6) false 0 0 0 (BitVec.ofNat 7 b.ctag) (BitVec.ofNat 128 count)]

/-- The entries that two more flits begin (07 R261). -/
def CbCtx.begins (b : CbCtx) : Nat := bit (b.pos == 0) + bit ((b.pos + 1) % b.esz == 0)

/-- The producer context of a cbput (07 R261). -/
def cbProducer (n : Nat) : Op CbCtx := do
  let c ← getMe
  match c.cb n with
  | some b => if b.producer then return b else cbMisuse (c.cb n) n
  | none => cbMisuse none n

/-- cbput (07 R261): what its source field waits for and traps comes before its own traps (05 R178). -/
def execCbput (x : FormS3) : State → Host.Outcome State Fault Refusal :=
  issueBrim (.cbput x) (bitsOf x.aux 0 3 + 8) do
    let n := bitsOf x.aux 0 3
    let (v, _) ← readV x.a false
    let b ← cbProducer n
    checkTag b.itag
    waitUnless (decide (b.begins ≤ b.count)) (brimWait (n + 8))
    brimRoom 2 n
    modMe fun c => { c with
      cbs := Table.put n { b with count := b.count - b.begins, pos := (b.pos + 2) % b.esz } c.cbs }
    let exc := (← getMe).fpFlagsRead.getLsbD 6
    let flit (h : Nat) : Flit :=
      mkFlit (laneFmt x.ty.toNat) 0 exc false 0 0 0 (BitVec.ofNat 7 b.itag) (v.extractLsb' (128 * h) 128)
    pushFlits [flit 0, flit 1]

/-- The word of cbstat (07 R261). -/
def cbStatus : Option CbCtx → Word
  | none => 0
  | some b => BitVec.ofNat 64 (b.count % 2 ^ 13 + b.pos % 2 ^ 12 * 2 ^ 16 + bit b.producer * 2 ^ 28 + 2 ^ 29
      + bit b.err.isSome * 2 ^ 32 + bit b.exc * 2 ^ 33)

/-- cbstat (07 R261). -/
def execCbstat (x : FormS3) : State → Host.Outcome State Fault Refusal :=
  issueBrim (.cbstat x) (bitsOf x.aux 0 3 + 8) do
    writeS x.d (cbStatus ((← getMe).cb (bitsOf x.aux 0 3)))

/-! ## Migration and invalidation (07 R244, R247, R248, R262) -/

/-- A leaf entry: where it lies, its 8 bytes, and the page that it maps. -/
structure LeafEntry where
  addr : Nat
  entry : Nat
  pa : Nat
  size : Nat
  deriving DecidableEq, Repr

/-- The leaf entry of a virtual address, from level n - 1 down at table t. -/
def leafEntry (s : State) (va : Nat) : Nat → Nat → Option LeafEntry
  | 0, _ => none
  | lvl + 1, t =>
    let addr := t + 8 * (va / 2 ^ (12 + 9 * lvl) % 512)
    if undecoded s.mg t then none
    else
      match extRead s addr 8 with
      | none => none
      | some bytes =>
        let e := natOfBytes bytes
        let pfn := e / 2 ^ 12 % 2 ^ 40
        if e % 2 = 0 ∨ e / 16 % 256 ≠ 0 then none
        else if e / 8 % 2 = 0 then leafEntry s va lvl (pfn * 4096)
        else if 2 < lvl ∨ pfn % 2 ^ (9 * lvl) ≠ 0 then none
        else some { addr, entry := e, pa := pfn * 4096, size := 2 ^ (12 + 9 * lvl) }

/-- The job and page-table root of the executing core. -/
def State.myJob (s : State) : Nat × Nat :=
  match s.regionOf s.cur with
  | some r => (r.job, s.rootOf r)
  | none => (0, 0)

/-- The migration that the executing core has under way for a page to a new PA. -/
def State.myMig (s : State) (va npa size : Nat) : Option Migration :=
  (Table.find s.migs s.cur).filter fun m => m.job == s.myJob.1 && m.va == va && m.npa == npa && m.size == size

/-- The start of Migrate (07 R247): the page is frozen at every engine, whose windows stay as they are (07 R248), or the outcome of a
walk that finds no such page or of a page that is under migration. A walk that meets poison, a reserved bit or a table that is not
decoded finds no page, and a leaf with R = 0 is migrated like any other: DESIGN CHOICE (log 68). -/
def startMig (s : State) (va npa size : Nat) : State × Option Nat :=
  let s := s.dropMigs [s.cur]
  let (job, root) := s.myJob
  match leafEntry s va 5 root with
  | none => (s, some 1)
  | some l =>
    if l.size ≠ size then (s, some 1)
    else if s.frozenPage job va size then (s, some 2)
    else
      ({ s with migs := Table.put s.cur { job, va, npa, size, copied := 0 } s.migs }, none)

/-- The end of Migrate: the leaf entry names the new PA, old translations are shot down, and the page is no longer frozen. A write of
the entry that the home port does not accept is DST_FAULT, the copies standing: DESIGN CHOICE (log 68). -/
def endMig (s : State) (l : LeafEntry) (m : Migration) : State × Option Nat :=
  let s := s.dropMigs [s.cur]
  match extWrite s l.addr (bytesOfNat 8 (l.entry - l.pa + m.npa / 4096 * 4096)) with
  | none => (s, some 4)
  | some s => (shootDown s m.job s.myJob.2 (pagesOf m.va m.size), some 0)

/-- The next 256-byte block of a migration copied; the last one ends it, and an abort unfreezes the page (07 R247, R248). -/
def copyBlock (s : State) (m : Migration) : State × Option Nat :=
  match leafEntry s m.va 5 s.myJob.2 with
  | none => (s.dropMigs [s.cur], some 1)
  | some l =>
    match extRead s (l.pa + m.copied) 256 with
    | none => (s.dropMigs [s.cur], some 3)
    | some bytes =>
      match extWrite s (m.npa + m.copied) bytes with
      | none => (s.dropMigs [s.cur], some 4)
      | some s =>
        if m.size ≤ m.copied + 256 then endMig s l m
        else ({ s with migs := Table.put s.cur { m with copied := m.copied + 256 } s.migs }, none)

/-- Migrate of 07 R247, one step of it: the start, or one block. The outcome is none while the page is still under migration. -/
def migrate (s : State) (va npa size : Nat) : State × Option Nat :=
  match s.myMig va npa size with
  | none => startMig s va npa size
  | some m => copyBlock s m

/-- smig (07 R262): it waits for the outcome, a block of the page at each execution (log 18). -/
def execSmig (x : FormS3) : State → Host.Outcome State Fault Refusal :=
  issueBrim (.smig x) 0 do
    let a ← readBase x.a
    let b ← readBase x.b
    let size := 2 ^ (12 + 9 * bitsOf x.aux 0 2)
    if a.toNat % size ≠ 0 then trapWith causeAlign a
    if b.toNat % size ≠ 0 then trapWith causeAlign b
    if 2 ^ 57 ≤ a.toNat then trapWith causeTranslation a
    destReady x.d 1
    let (s', code) := migrate (← get) a.toNat b.toNat size
    set s'
    match code with
    | some k => writeS x.d (BitVec.ofNat 64 k)
    | none => throw (.hold (brimWait 0))

/-- sinval (07 R262): one that meets a page under migration waits for the migration to end. -/
def execSinval (x : FormS3) : State → Host.Outcome State Fault Refusal :=
  issueBrim (.sinval x) 0 do
    let a ← readBase x.a
    let b ← readBase x.b
    let s ← get
    let g := pagesOf a.toNat b.toNat
    waitUnless (!s.frozenPage s.myJob.1 (4096 * g.lo) (4096 * (g.hi - g.lo))) (brimWait 0)
    modify fun s => shootDown s s.myJob.1 s.myJob.2 g

/-! ## Events -/

/-- Whether the streams of a context's region run: its region is LIVE and its core has been committed. -/
def State.streamsRun (s : State) (c : StreamCtx) : Bool := s.coreLive c.lid && (s.core c.lid).live

/-- Whether the issued items of a context's region may complete: the region is LIVE or DRAINING (07 R263). -/
def State.streamsFinish (s : State) (c : StreamCtx) : Bool :=
  match s.regionOf c.lid with
  | some r => r.moving
  | none => false

/-- An event at a stream context. -/
def ctxEvent (eng n : Nat) (s : State) (f : StreamCtx → State) : Host.Outcome State Fault Refusal :=
  if 48 ≤ eng ∨ 32 ≤ n then .fault .noSuchUnit
  else
    match s.ctx eng n with
    | some c => .next (if c.ended then s else f c)
    | none => .next s

/-- STREAM_ITEM_READ (07 R237, R238): a stream that holds no flits reads its next item; then its next flit enters the
mesh. -/
def execStreamItemRead (eng ctx : Nat) (s : State) : Host.Outcome State Fault Refusal :=
  ctxEvent eng ctx s fun c =>
    if c.dir = 2 ∨ c.stall.isSome then s
    else if c.got.isEmpty then
      if c.running && !c.closing && decide (c.items < c.total) && s.streamsRun c then
        let s' := streamRead s eng ctx c
        match s'.ctx eng ctx with
        | some c' => streamDeliver s' eng ctx c'
        | none => s'
      else s
    else if s.streamsRun c || (s.streamsFinish c && decide (c.got.length < c.flitsPerItem)) then streamDeliver s eng ctx c
    else s

/-- STREAM_ITEM_WRITE (07 R239). -/
def execStreamItemWrite (eng ctx : Nat) (s : State) : Host.Outcome State Fault Refusal :=
  ctxEvent eng ctx s fun c =>
    if c.dir = 2 && c.stall.isNone && c.issued && s.streamsFinish c then streamWrite s eng ctx c else s

/-- STREAM_END (07 R240, R257). -/
def execStreamEnd (eng ctx : Nat) (s : State) : Host.Outcome State Fault Refusal :=
  ctxEvent eng ctx s fun c =>
    if c.issued || !s.streamsFinish c then s
    else if c.closing then streamFinish s eng ctx c 2
    else if c.running && decide (c.total ≤ c.items) then streamFinish s eng ctx c 1
    else s

/-- COMPLETION_TOKEN_ARRIVAL (01 R17; 07 R240; 13): the first token on its way to a core arrives. -/
def execCompletionTokenArrival (lid : Nat) (s : State) : Host.Outcome State Fault Refusal :=
  if coreCount ≤ lid then .fault .noSuchUnit
  else
    match s.tokens.find? (fun t => t.1 == lid) with
    | some t =>
      .next ({ s with tokens := s.tokens.erase t }.setCore lid
        { s.core lid with tokens := (s.core lid).tokens ++ [t.2] })
    | none => .next s

/-- Whether a stall is due for a retry: 16,384 cycles after the latest one (07 R242). -/
def Stall.due (st : Stall) (now : Nat) : Bool := decide (st.lastTry + 16384 ≤ now)

/-- WALK_RETRY (07 R242). -/
def execWalkRetry (site : WalkSite) (s : State) : Host.Outcome State Fault Refusal :=
  match site with
  | .stream eng ctx =>
    ctxEvent eng ctx s fun c =>
      match c.stall with
      | some st => if st.due s.cycle.toNat && s.streamsRun c then streamRetry s eng ctx else s
      | none => s
  | .scalar lid =>
    if coreCount ≤ lid then .fault .noSuchUnit
    else
      match s.scalarStalls.find? (·.lid == lid) with
      | some x => .next (if x.stall.due s.cycle.toNat && s.coreLive lid then scalarRetry s lid else s)
      | none => .next s

/-- ENGINE_SLEEP (07 R246). -/
def execEngineSleep (eng : Nat) (s : State) : Host.Outcome State Fault Refusal :=
  if 48 ≤ eng then .fault .noSuchUnit
  else
    let b := s.brim eng
    if b.ctxs.isEmpty && !s.scalarStalls.any (fun x => s.portOf x.lid == eng) then
      .next (s.setBrim eng { b with asleep := true })
    else .next s

/-- ENGINE_WAKE (07 R246). -/
def execEngineWake (eng : Nat) (s : State) : Host.Outcome State Fault Refusal :=
  if 48 ≤ eng then .fault .noSuchUnit else .next (s.setBrim eng (s.brim eng).wake)

end Sys2Proof.Machine
end

