-- ==== Sys2Proof/Machine/Sha.lean ====
section
/-! DEFINITION. The SHA-256 digest that 03 R122, 10 R352, 14 R431 and 15 R456 and R457 name, over a list of bytes. -/

namespace Sys2Proof.Machine

/-- The 64 additive constants, eight to a row, the first in its top bits. -/
def shaRows : List (BitVec 256) :=
  [0x428a2f9871374491b5c0fbcfe9b5dba53956c25b59f111f1923f82a4ab1c5ed5,
   0xd807aa9812835b01243185be550c7dc372be5d7480deb1fe9bdc06a7c19bf174,
   0xe49b69c1efbe47860fc19dc6240ca1cc2de92c6f4a7484aa5cb0a9dc76f988da,
   0x983e5152a831c66db00327c8bf597fc7c6e00bf3d5a7914706ca635114292967,
   0x27b70a852e1b21384d2c6dfc53380d13650a7354766a0abb81c2c92e92722c85,
   0xa2bfe8a1a81a664bc24b8b70c76c51a3d192e819d6990624f40e3585106aa070,
   0x19a4c1161e376c082748774c34b0bcb5391c0cb34ed8aa4a5b9cca4f682e6ff3,
   0x748f82ee78a5636f84c878148cc7020890befffaa4506cebbef9a3f7c67178f2]

/-- The digest of nothing hashed yet. -/
def shaStart : BitVec 256 := 0x6a09e667bb67ae853c6ef372a54ff53a510e527f9b05688c1f83d9ab5be0cd19

/-- Word k of a digest, the first in its top bits. -/
def shaLane (v : BitVec 256) (k : Nat) : BitVec 32 := v.extractLsb' (224 - 32 * k) 32

/-- The exclusive or of a word rotated right by each of some amounts. -/
def shaSpin (x : BitVec 32) (ns : List Nat) : BitVec 32 := ns.foldl (fun r n => r ^^^ x.rotateRight n) 0

/-- A message of n bytes with its padding: a set bit, zeros, and its length in bits in the last 8 bytes of a 64-byte block. -/
def shaPad (m : List Byte) : List Byte :=
  let zeros := List.replicate ((119 - m.length % 64) % 64) 0
  m ++ 0x80 :: zeros ++ (bytesOfNat 8 (8 * m.length)).reverse

/-- The schedule of a block, the latest word first: n words more than are given. -/
def shaSchedule : Nat → List (BitVec 32) → List (BitVec 32)
  | 0, ws => ws
  | n + 1, ws =>
    let back (k : Nat) : BitVec 32 := ws.getD (k - 1) 0
    let low := shaSpin (back 15) [7, 18] ^^^ (back 15 >>> 3)
    let high := shaSpin (back 2) [17, 19] ^^^ (back 2 >>> 10)
    shaSchedule n ((back 16 + low + back 7 + high) :: ws)

/-- One round on the eight lanes of a digest; kw is the sum of the round's constant and schedule word. -/
def shaTurn (v : BitVec 256) (kw : BitVec 32) : BitVec 256 :=
  let l := shaLane v
  let pick := l 6 ^^^ (l 4 &&& (l 5 ^^^ l 6))
  let most := (l 0 &&& l 1) ||| (l 2 &&& (l 0 ||| l 1))
  let t := l 7 + pick + shaSpin (l 4) [6, 11, 25] + kw
  (t + most + shaSpin (l 0) [2, 13, 22]) ++ v.extractLsb' 160 96 ++ (l 3 + t) ++ v.extractLsb' 32 96

/-- A digest after one 64-byte block. -/
def shaAbsorb (v : BitVec 256) (block : List Byte) : BitVec 256 :=
  let words := (List.range 16).map fun k => BitVec.ofNat 32 (natOfBytes ((block.drop (4 * k)).take 4).reverse)
  let schedule := (shaSchedule 48 words.reverse).reverse
  let consts := shaRows.flatMap fun r => (List.range 8).map (shaLane r)
  let u := (consts.zip schedule).foldl (fun u p => shaTurn u (p.1 + p.2)) v
  (List.range 8).foldl (fun d k => d + (((shaLane v k + shaLane u k).setWidth 256) <<< (224 - 32 * k))) 0

/-- A digest after n blocks of a padded message. -/
def shaBlocks : Nat → BitVec 256 → List Byte → BitVec 256
  | 0, v, _ => v
  | n + 1, v, m => shaBlocks n (shaAbsorb v (m.take 64)) (m.drop 64)

/-- The 32 bytes of a message's digest. -/
def sha256 (m : List Byte) : List Byte :=
  let p := shaPad m
  (bytesOfNat 32 (shaBlocks (p.length / 64) shaStart p).toNat).reverse

end Sys2Proof.Machine
end

