-- ==== Sys2Proof/Machine/Tensor.lean ====
section
/-! DEFINITION. The tensor instructions: tiles, accumulators, multi-step operations and gangs (09 R300-R325). -/

namespace Sys2Proof.Machine

/-! ## Stores and accumulators (09 R300-R303) -/

/-- The BX format that a BF field names (03 R92). -/
def bfKind (bf : Nat) : Nat := if bf = 0 then 0 else 2

/-- The byte address in the element store and the scale word of column n of a slot (09 R301). -/
def columnPlace (kind slot n : Nat) : Nat × Nat :=
  if kind = 0 then (256 * slot + 8 * n, 32 * slot + n) else (512 * slot + 16 * n, 64 * slot + n)

/-- Column n of a slot read in a format. -/
def Tensor.column (t : Tensor) (kind slot n : Nat) : BxBlock :=
  let (a, k) := columnPlace kind slot n
  bxOfScale kind (natOfBytes (cellsAt t.elems a (2 * bxWidth kind))) (Table.get 0 t.scales k).toNat

/-- Column n of a slot written. -/
def Tensor.setColumn (t : Tensor) (kind slot n : Nat) (b : BxBlock) : Tensor :=
  let (a, k) := columnPlace kind slot n
  { t with
    elems := writeCells t.elems a (bytesOfNat (2 * bxWidth kind) (b.field kind))
    scales := Table.set 0 k (BitVec.ofNat 16 b.scaleWord) t.scales
    poison := t.poison.filter fun w => !(decide (a ≤ 8 * w) && decide (8 * w < a + 2 * bxWidth kind)) }

/-- Columns from a list written from column n on. -/
def Tensor.setColumns (t : Tensor) (kind slot : Nat) : Nat → List BxBlock → Tensor
  | _, [] => t
  | n, b :: bs => Tensor.setColumns (t.setColumn kind slot n b) kind slot (n + 1) bs

/-- Half h of accumulator tile at. -/
def Tensor.acc (t : Tensor) (tile h : Nat) : Ba40 := Table.get Ba40.zero t.accs (2 * tile + h)

/-- The words of the poison list that an accumulator half occupies. -/
def accWords (tile h : Nat) : Nat := 640 + 11 * (2 * tile + h)

/-- Half h of accumulator tile at written whole. -/
def Tensor.setAcc (t : Tensor) (tile h : Nat) (b : Ba40) : Tensor :=
  { t with
    accs := Table.set Ba40.zero (2 * tile + h) b t.accs
    poison := t.poison.filter fun w => !(decide (accWords tile h ≤ w) && decide (w < accWords tile h + 11)) }

/-- The executing core's tensor macro changed. -/
def modT (f : Tensor → Tensor) : Op Unit := modMe (·.modTensor f)

/-- Whether words of the macro from lo on are poisoned. -/
def Tensor.poisoned (t : Tensor) (lo n : Nat) : Bool := t.poison.any fun w => decide (lo ≤ w) && decide (w < lo + n)

/-- A consumer of poisoned words of the macro traps DATA_POISON (15 R460; log 19). -/
def needWords (lo n : Nat) : Op Unit := do
  if (← getMe).tensor.poisoned lo n then trapWith causePoison (BitVec.ofNat 64 (8 * lo))

/-- A consumer of an accumulator tile. -/
def needAcc (tile : Nat) : Op Unit := needWords (accWords tile 0) 22

/-! ## LOC operands (09 R310) -/

/-- The checks of the address of a LOC operand of n bytes (09 R310). -/
def tensorRange (a : Word) (n : Nat) : Op Nat := do
  if a.toInt % 8 ≠ 0 then trapWith causeAlign a
  if a.toInt < 0 then trapWith causeLocRange a
  let c ← getMe
  let top := if c.spillBase.toNat < c.spillLim.toNat then min 65536 (8 * c.spillLim.toNat) else 65536
  if top < a.toNat + n then trapWith causeLocRange (BitVec.ofNat 64 (max a.toNat top))
  return a.toNat

/-- A LOC operand of n bytes that is accessed as a whole: the checks of its address, and its banks (09 R310; 14 R439). -/
def tensorLoc (a : Word) (n : Nat) : Op Nat := do
  let a ← tensorRange a n
  bankGate a
  bankGate (a + n - 1)
  return a

/-- n bytes of LOC from an even address, n even; val is the TRAP_VAL of a poisoned word. -/
def locSpan (a n : Nat) (val : Word) : Op (List Byte) := do
  return (← (List.range (n / 2)).mapM fun k => locLoad (a + 2 * k) 2 val).flatten

/-- Block b of a BX tensor in LOC (02 R54). -/
def locBlock (a kind b : Nat) (val : Word) : Op BxBlock := do
  let (e, sc) := blockOffsets kind b
  let f ← locSpan (a + e) (2 * bxWidth kind) val
  let w ← locSpan (a + sc) 2 val
  return bxOfScale kind (natOfBytes f) (natOfBytes w)

/-! ## Steps (09 R307) -/

/-- Step i of a multi-step instruction: a trap names the step, a wait keeps the steps before it. -/
def inStep (i : Nat) (x : Op Unit) : Op Unit :=
  tryCatch x fun e =>
    match e with
    | .trap t => throw (.trap { t with val := t.val ||| BitVec.ofNat 64 (i * 2 ^ 24) })
    | .wait v => throw (.hold (v ||| BitVec.ofNat 64 (i * 2 ^ 24)))
    | e => throw e

/-- The steps of a multi-step instruction from the first that has not been done. -/
def runSteps (n : Nat) (step : Nat → Op Unit) : Op Unit := do
  for i in (List.range n).drop (← get).progress do
    inStep i (step i)
    setProgress (i + 1)

/-! ## Tile loads (09 R319) -/

/-- NCOL (09 R317). -/
def tNcol (x : FormT) : Nat := bitsOf x.imm 0 6

/-- CNT (09 R317). -/
def tCnt (x : FormT) : Nat := bitsOf x.imm 0 5

/-- The macro with columns from NCOL on of a slot cleared to canonical zero blocks. -/
def Tensor.fillZero (t : Tensor) (kind slot ncol : Nat) : Tensor :=
  t.setColumns kind slot ncol (List.replicate (32 - ncol) bxZero)

/-- The scale words of a slot written whole are no longer poisoned. -/
def Tensor.scalesWritten (t : Tensor) (kind slot : Nat) : Tensor :=
  let lo := 512 + (if kind = 0 then 8 * slot else 16 * slot)
  { t with poison := t.poison.filter fun w => !(decide (lo ≤ w) && decide (w < lo + 8)) }

/-- tldb (09 R302, R319). -/
def execTldb (x : FormT) : State → Host.Outcome State Fault Refusal :=
  issueSeq (.tldb x) do
    let kind := bfKind x.bf.toNat
    let slot := x.bt.toNat
    let v ← readBase x.a
    let a ← tensorLoc v ((tNcol x + 7) / 8 * (16 * bxWidth kind + 16))
    let bs ← (List.range (tNcol x)).mapM fun n => locBlock a kind n v
    modT fun t => (((t.setColumns kind slot 0 bs).fillZero kind slot (tNcol x)).scalesWritten kind slot)

/-- The head flit of queue n as a BX flit of a format, checked (09 R319; 02 R62; 05 R153). -/
def bxHead (n kind : Nat) : Op Flit := do
  let f ← headOf n
  checkData f n
  checkFmt f n fun fmt => isBx fmt && bxKind fmt == kind
  return f

/-- The block that step i takes from a BX flit: BX4 flits carry two (02 R53). -/
def stepBlock (kind i : Nat) (f : Flit) : BxBlock :=
  (bxBlocks kind f.payload f.scale).getD (if kind = 0 then i % 2 else 0) bxZero

/-- Whether the flit that step i of n takes its block from is popped after it (09 R307). -/
def stepPops (kind i n : Nat) : Bool := kind != 0 || i % 2 == 1 || i + 1 == n

/-- tldbq (09 R319). -/
def execTldbq (x : FormT) : State → Host.Outcome State Fault Refusal :=
  issueSeq (.tldbq x) do
    let n := x.a.toNat - 24
    let kind := bfKind x.bf.toNat
    let slot := x.bt.toNat
    runSteps (tNcol x) fun i => do
      let f ← bxHead n kind
      modT fun t => t.setColumn kind slot i (stepBlock kind i f)
      if stepPops kind i (tNcol x) then popHead n 0
    modT fun t => t.fillZero kind slot (tNcol x)

/-! ## The tensor operation (09 R305) -/

/-- What an A block is multiplied as: its format and its TEC. -/
structure ABlock where
  kind : Nat
  tec : Bool
  block : BxBlock
  deriving DecidableEq, Repr

/-- The contribution of an A block and columns of B to one half, with its flags (02 R64, R65). -/
def contribution (a : ABlock) (bKind : Nat) (bTec : Bool) (cols : List BxBlock) : Ba40 × BitVec 7 :=
  let zero := List.replicate 16 (0 : Int)
  let sa := a.block.special a.tec
  let av := if sa then zero else a.block.scaled a.tec
  let sums := cols.map fun b =>
    columnSum av ((a.block.e : Int) - 127 - bxMag a.kind) (if b.special bTec then zero else b.scaled bTec)
      ((b.e : Int) - 127 - bxMag bKind)
  let (j, nx) := halfContribution sums
  (j, (if nx then flagNX else 0) ||| (if sa || cols.any (·.special bTec) then flagNV else 0))

/-- Block i of a tensor operation on a core, by the fields of the word w of its instruction (09 R305). -/
def Core.tensorStep (c : Core) (w : Word) (i : Nat) (a : ABlock) : Core :=
  let tile := bitsOf w 30 2
  let kind := bfKind (bitsOf w 22 2)
  let slot := (bitsOf w 26 4 + i) % (if kind = 0 then 16 else 8)
  [0, 1].foldl (fun c h =>
    let (j, f) := contribution a kind c.tec ((List.range 16).map fun n => c.tensor.column kind slot (16 * h + n))
    let r := addBa40 (c.tensor.acc tile h) j
    (c.modTensor fun t => t.setAcc tile h r.block).raiseFlags (f ||| r.flags)) c

/-- Whether step i of an operation reads a poisoned word of a core's macro: a column, a scale word or AT. -/
def Core.tensorPoison (c : Core) (w : Word) (i : Nat) : Option Nat :=
  let tile := bitsOf w 30 2
  let slot8 := bitsOf w 22 2 != 0
  let slot := (bitsOf w 26 4 + i) % (if slot8 then 8 else 16)
  let es := if slot8 then (64 * slot, 64) else (32 * slot, 32)
  let sc := if slot8 then (512 + 16 * slot, 8) else (512 + 8 * slot, 8)
  ([es, sc, (accWords tile 0, 22)].find? fun r => c.tensor.poisoned r.1 r.2).map (·.1)

/-- The members of the gang operation of the executing core besides itself, once all have issued it; none for an
ordinary operation. A member that is not the head waits here until the head has done every step (09 R313). -/
def gangBarrier (x : FormT) (w : Word) (cnt sl : Nat) : Op (List Nat) := do
  if x.gn = 0 then return []
  let g := (← getMe).tensor.gang
  let size := bitsOf g 0 3
  if !g.getLsbD 7 || size != x.gn.toNat then
    trapWith causeQueue (BitVec.ofNat 64 (2 ^ 13 + size + x.gn.toNat * 2 ^ 4))
  let pos := bitsOf g 4 3
  if pos ≠ 0 ∧ (x.a ≠ 0 ∨ sl ≠ 0) then trapWith causeReserved w
  modT fun t => { t with gangOp := some w }
  let s ← get
  let at_ := BitVec.ofNat 64 (s.progress * 2 ^ 24)
  if pos ≠ 0 then throw (.hold (gangWait ||| at_))
  match gangRoles s s.cur 0 size with
  | none => throw (.hold (gangWait ||| at_))
  | some ls =>
    let here := ls.mapIdx fun k l =>
      ((s.core l).tensor.gang == gangReg k size) && (s.core l).tensor.gangOp.isSome
    if !here.all id then throw (.hold (gangWait ||| at_))
    let same (l : Nat) : Bool :=
      let v := (s.core l).tensor.gangOp.getD 0
      bitsOf v 56 8 == bitsOf w 56 8 && bitsOf v 24 2 == bitsOf w 24 2 && (bitsOf w 56 8 == 0x92 || bitsOf v 0 5 == cnt)
    let others := ls.drop 1
    if !others.all same then
      let val : Word := BitVec.ofNat 64 (2 ^ 13 + 2 ^ 14)
      modify fun s => others.foldl (gangTrap val) s
      modT fun t => { t with gangOp := none }
      trapWith causeQueue val
    return others

/-- A gang member after a step: the step stands, and its wait starts anew. -/
def Core.gangStepped (c : Core) (i : Nat) : Core :=
  if gangPort c then { c with rptProgress := i + 1, rptWait := none } else { c with progress := i + 1, wait := none }

/-- A gang member after the operation: its instruction completes. -/
def Core.gangDone (c : Core) : Core := (c.modTensor fun t => { t with gangOp := none }).retire (gangPort c) .seq

/-- A member's own trap on a poisoned word before a step (15 R460). -/
def memberPoison (i : Nat) (l addr : Nat) (s : State) : State :=
  let c := s.core l
  let s := s.setCore l (c.modTensor fun t => { t with gangOp := none })
  takeTrap s l { code := causePoison, val := BitVec.ofNat 64 (8 * addr + i * 2 ^ 24), sub := 0 } (c.execPc (gangPort c))
    false (c.tensor.gangOp.getD 0)

/-- A trap of the head in step i reaches every other member (09 R314). -/
def headStep (others : List Nat) (i : Nat) (x : Op Unit) : Op Unit :=
  tryCatch x fun e => do
    match e with
    | .trap _ =>
      modify fun s => if others.isEmpty then s else gangOthersTrap s s.cur i
      modT fun t => { t with gangOp := none }
    | _ => pure ()
    throw e

/-- A tensor operation of n blocks: read gives block i and done ends its step (09 R305, R307, R313, R314). -/
def tensorOp (w : Word) (n : Nat) (others : List Nat) (read : Nat → Op ABlock) (done : Nat → Op Unit) : Op Unit := do
  for i in (List.range n).drop (← get).progress do
    inStep i (headStep others i do
      let s ← get
      match others.findSome? fun l => ((s.core l).tensorPoison ((s.core l).tensor.gangOp.getD 0) i).map fun a => (l, a) with
      | some (l, a) =>
        set (memberPoison i l a s)
        throw (.hold (gangWait ||| BitVec.ofNat 64 (i * 2 ^ 24)))
      | none => pure ()
      match s.me.tensorPoison w i with
      | some a => trapWith causePoison (BitVec.ofNat 64 (8 * a))
      | none => pure ()
      let a ← read i
      modMe fun c => c.tensorStep w i a
      modify fun s => others.foldl (fun s l =>
        let c := s.core l
        s.setCore l (((c.tensorStep (c.tensor.gangOp.getD 0) i a)).gangStepped i)) s
      done i)
    setProgress (i + 1)
  modify fun s => others.foldl (fun s l => s.setCore l (s.core l).gangDone) s
  modT fun t => { t with gangOp := none }

/-- The block of slot sl of a vector register with its half tag checked (09 R320; 06 R203, R221). -/
def vectorBlock (r : BitVec 5) (kind sl : Nat) : Op BxBlock := do
  let c ← getMe
  let h := if kind = 0 then sl / 2 else sl
  let tag := bitsOf (c.vtag r.toNat) (36 * h) 36
  let fmt := tag / 2 ^ 32
  let val : Word := BitVec.ofNat 64 (fmt + h * 2 ^ 8 + 2 ^ 11)
  if !(isBx fmt && bxKind fmt == kind) then trapWith causeFmtTag val
  if bxTec fmt != c.tec then trapWith causeFmtMode val
  return (bxBlocks kind ((c.vreg r.toNat).extractLsb' (128 * h) 128) (BitVec.ofNat 32 tag)).getD
    (if kind = 0 then sl % 2 else 0) bxZero

/-- tmac (09 R320). -/
def execTmac (x : FormT) : State → Host.Outcome State Fault Refusal :=
  issueSeq (.tmac x) do
    let w := x.word 0x92
    let kind := x.af.toNat
    let sl := bitsOf x.imm 0 2
    let others ← gangBarrier x w 1 sl
    tensorOp w 1 others
      (fun _ => do return { kind, tec := (← getMe).tec, block := ← vectorBlock x.a kind sl })
      (fun _ => pure ())

/-- The head flit of the gang queue as a BX flit of a format, checked (09 R315). -/
def gangHead (kind : Nat) : Op Flit := do
  match (← getMe).tensor.gangq with
  | [] => throw (.wait (waitVal 1 0 ||| 0x1000))
  | f :: _ =>
    if f.kind ≠ 0 then trapWith causeQueue (queueVal f.kind 0)
    checkFmt f 0 fun fmt => isBx fmt && bxKind fmt == kind
    return f

/-- The head flit of the gang queue consumed (09 R315). -/
def popGang : Op Unit :=
  modMe fun c =>
    match c.tensor.gangq with
    | f :: rest => (c.modTensor fun t => { t with gangq := rest }).consume f 0 4
    | [] => c

/-- tmacq (09 R320). -/
def execTmacq (x : FormT) : State → Host.Outcome State Fault Refusal :=
  issueSeq (.tmacq x) do
    let w := x.word 0x93
    let kind := x.af.toNat
    let others ← gangBarrier x w (tCnt x) 0
    let n := x.a.toNat - 24
    tensorOp w (tCnt x) others
      (fun i => do
        let f ← if x.a = 0 then gangHead kind else bxHead n kind
        return { kind, tec := bxTec f.fmt, block := stepBlock kind i f })
      (fun i => if stepPops kind i (tCnt x) then (if x.a = 0 then popGang else popHead n 0) else pure ())

/-- tmacl (09 R307, R310, R320): a member that is not the head reads no LOC; a block in a gated bank is waited for in its step (14
R439). -/
def execTmacl (x : FormT) : State → Host.Outcome State Fault Refusal :=
  issueSeq (.tmacl x) do
    let w := x.word 0x94
    let kind := x.af.toNat
    let follows := x.gn != 0 && bitsOf (← getMe).tensor.gang 4 3 != 0
    let v ← readBase x.a
    let a ← if follows then pure 0 else tensorRange v ((blockOffsets kind (tCnt x - 1)).2 + 2)
    let others ← gangBarrier x w (tCnt x) 0
    tensorOp w (tCnt x) others
      (fun i => do return { kind, tec := (← getMe).tec, block := ← locBlock a kind i v })
      (fun _ => pure ())

/-- tgang (09 R312). -/
def execTgang (x : FormT) : State → Host.Outcome State Fault Refusal :=
  issueSeq (.tgang x) do
    let g := x.gn.toNat
    let p := bitsOf x.imm 0 3
    let rx := (← getMe).coreRx.toNat % 8
    if rx < p ∨ 7 < rx - p + g then trapWith causeReserved (x.word 0x95)
    if g = 0 then modT fun t => { t with gang := 0, join := none }
    else
      let s ← get
      let head := ((s.regionOf s.cur).map fun r => r.roleOf s.cur - p).getD 0
      modT fun t => { t with join := some (head, g) }
      let s ← get
      match gangRoles s s.cur p g with
      | none => throw (.hold gangWait)
      | some ls =>
        if !ls.all (fun l => (s.core l).tensor.join == some (head, g)) then throw (.hold gangWait)
        let joined (c : Core) (k : Nat) : Core := c.modTensor fun t => { t with gang := gangReg k g, join := none }
        set ((ls.mapIdx fun k l => (k, l)).foldl (fun s q =>
          let c := s.core q.2
          s.setCore q.2 (if q.2 = s.cur then joined c q.1 else (joined c q.1).retire (gangPort c) .seq)) s)

/-! ## Accumulators (09 R321-R325) -/

/-- tclr (09 R321). -/
def execTclr (x : FormT) : State → Host.Outcome State Fault Refusal :=
  issueSeq (.tclr x) do
    modT fun t => (t.setAcc x.tile.toNat 0 Ba40.zero).setAcc x.tile.toNat 1 Ba40.zero

/-- tadd (09 R321). -/
def execTadd (x : FormT) : State → Host.Outcome State Fault Refusal :=
  issueSeq (.tadd x) do
    let d := x.tile.toNat
    let a := x.a.toNat
    needAcc d
    needAcc a
    let t := (← getMe).tensor
    let r0 := addBa40 (t.acc d 0) (t.acc a 0)
    let r1 := addBa40 (t.acc d 1) (t.acc a 1)
    modT fun t => (t.setAcc d 0 r0.block).setAcc d 1 r1.block
    raise (r0.flags ||| r1.flags)

/-- A half raised to a target exponent (09 R321). -/
def normHalf (b : Ba40) (target : Int) : Ba40 × Bool :=
  if !b.isZero && decide (b.exp < target) then
    ({ elems := (rneAll (target - b.exp).toNat b.elems).1, exp := target }, (rneAll (target - b.exp).toNat b.elems).2)
  else (b, false)

/-- Both halves of a tile raised to a target. -/
def normTile (tile : Nat) (target : Int) : Op Unit := do
  let t := (← getMe).tensor
  let r0 := normHalf (t.acc tile 0) target
  let r1 := normHalf (t.acc tile 1) target
  modT fun t => (t.setAcc tile 0 r0.1).setAcc tile 1 r1.1
  raise (if r0.2 || r1.2 then flagNX else 0)

/-- tnorm (09 R321). -/
def execTnorm (x : FormT) : State → Host.Outcome State Fault Refusal :=
  issueSeq (.tnorm x) do
    needAcc x.tile.toNat
    let v ← readS x.a
    if v.toInt < -32768 ∨ 32767 < v.toInt then trapWith causeReserved v
    normTile x.tile.toNat v.toInt

/-- tnorm.max (09 R321). -/
def execTnormMax (x : FormT) : State → Host.Outcome State Fault Refusal :=
  issueSeq (.tnormMax x) do
    let tile := x.tile.toNat
    needAcc tile
    let t := (← getMe).tensor
    match ([t.acc tile 0, t.acc tile 1].filter fun b => !b.isZero).map (·.exp) with
    | [] => pure ()
    | e :: es => normTile tile (es.foldl max e)

/-- The halves that a tmov or tout names, in order (09 R322). -/
def tHalves (x : FormT) : List Nat := if x.imm.getLsbD 3 then [0, 1] else [bitsOf x.imm 2 1]

/-- A consumer of one half of an accumulator tile. -/
def needHalf (tile h : Nat) : Op Unit := needWords (accWords tile h) 11

/-- tmov.tt (09 R307, R322). -/
def execTmovTt (x : FormT) : State → Host.Outcome State Fault Refusal :=
  issueSeq (.tmovTt x) do
    runSteps (tHalves x).length fun i => do
      let h := (tHalves x).getD i 0
      needHalf x.a.toNat h
      modT fun t => t.setAcc x.tile.toNat h (t.acc x.a.toNat h)

/-- The five flits of a BA40 block that a core sends (02 R66; 09 R322). -/
def ba40Flits (b : Ba40) (exc : Bool) (tag : BitVec 7) : List Flit :=
  b.parts.map fun q => mkFlit 10 0 exc false 0 0 (b.expBits.setWidth 32) tag q

/-- tmov.out (09 R322). -/
def execTmovOut (x : FormT) : State → Host.Outcome State Fault Refusal :=
  issueSeq (.tmovOut x) do
    let n := x.d.toNat - 24
    runSteps (tHalves x).length fun i => do
      let h := (tHalves x).getD i 0
      needHalf x.tile.toNat h
      let tag := (← getMe).qtag n
      checkTag tag
      waitRoom 5
      let c ← getMe
      pushFlits (ba40Flits (c.tensor.acc x.tile.toNat h) (c.fpFlagsRead.getLsbD 6) (BitVec.ofNat 7 tag))

/-- The checks of the five flits of a BA40 block in queue n (09 R322). -/
def checkBa40 (fs : List Flit) (n : Nat) : Op Unit := do
  for f in fs do
    checkData f n
    checkFmt f n (· == 10)
  let e (f : Flit) : Nat := bitsOf f.side 0 16
  if fs.any fun f => e f != (fs.head?.map e).getD 0 then trapWith causeFmtTag (queueVal 10 n ||| 0x1000)

/-- tmov.in (09 R322). -/
def execTmovIn (x : FormT) : State → Host.Outcome State Fault Refusal :=
  issueSeq (.tmovIn x) do
    let n := x.a.toNat - 24
    runSteps (tHalves x).length fun i => do
      let fs := ((← getMe).queue n).take 5
      waitUnless (fs.length == 5) (waitVal 1 n)
      checkBa40 fs n
      for _ in fs do popHead n 0
      modT fun t => t.setAcc x.tile.toNat ((tHalves x).getD i 0) (ba40OfFlits fs)

/-- tsta (09 R323): a full store buffer stalls it between two of its 22 stores (04 R138). -/
def execTsta (x : FormT) : State → Host.Outcome State Fault Refusal :=
  issueSeq (.tsta x) do
    let a ← tensorLoc (← readBase x.a) 176
    needAcc x.tile.toNat
    let t := (← getMe).tensor
    let bytes := (t.acc x.tile.toNat 0).record ++ (t.acc x.tile.toNat 1).record
    for k in (List.range 22).drop (← get).progress do
      if 16 ≤ (← getMe).sb.length then
        setProgress k
        throw .keep
      locStore (a + 8 * k) ((bytes.drop (8 * k)).take 8)

/-- tlda (09 R323). -/
def execTlda (x : FormT) : State → Host.Outcome State Fault Refusal :=
  issueSeq (.tlda x) do
    let v ← readBase x.a
    let a ← tensorLoc v 176
    let words ← (List.range 22).mapM fun k => locLoad (a + 8 * k) 8 v
    let bytes := words.flatten
    modT fun t => (t.setAcc x.tile.toNat 0 (ba40OfRecord (bytes.take 88))).setAcc x.tile.toNat 1
      (ba40OfRecord (bytes.drop 88))

/-- The flits of tout to a queue (09 R324). -/
def toutFlits (kind fmt : Nat) (exc : Bool) (tag : BitVec 7) (bs : List BxBlock) : List Flit :=
  let flit (xs : List BxBlock) : Flit :=
    mkFlit fmt 0 exc false 0 0 (bxHalf kind xs).2 tag (bxHalf kind xs).1
  if kind = 0 then [flit (if bs.length = 2 then bs else bs ++ [bxZero])] else bs.map fun b => flit [b]

/-- tout (09 R324). -/
def execTout (x : FormT) : State → Host.Outcome State Fault Refusal :=
  issueSeq (.tout x) do
    let kind := x.af.toNat
    for h in tHalves x do needHalf x.tile.toNat h
    let c ← getMe
    let fmt := bxFmt kind c.tec
    let packed := (tHalves x).map fun h => bxPack kind c.tec (c.tensor.acc x.tile.toNat h).values
    let flags := packed.foldl (fun f p => f ||| p.2) 0
    if x.d.toNat < 24 then
      let sl := bitsOf x.imm 0 2
      let h := if kind = 0 then sl / 2 else sl
      let v := c.vreg x.d.toNat
      let t := c.vtag x.d.toNat
      let r := packHalf kind fmt sl ((packed.map (·.1)).headD bxZero) (v.extractLsb' (128 * h) 128)
        (t.extractLsb' (36 * h) 36)
      raise flags
      modMe (·.setVreg x.d.toNat (putBits v (128 * h) 128 r.1.toNat) (putBits t (36 * h) 36 r.2.toNat))
    else
      destReady x.d (if kind = 0 then 1 else packed.length)
      raise flags
      pushFlits (toutFlits kind fmt ((← getMe).fpFlagsRead.getLsbD 6) (BitVec.ofNat 7 (c.qtag (x.d.toNat - 24)))
        (packed.map (·.1)))

/-- The word of texp (09 R325). -/
def expWord (a b : Ba40) : Word :=
  let big (t : Ba40) : Nat := bit (t.elems.any fun v => decide (2 ^ 38 ≤ v.natAbs))
  BitVec.ofNat 64 (a.expBits.toNat + b.expBits.toNat * 2 ^ 16 + big a * 2 ^ 32 + big b * 2 ^ 33
    + bit a.isZero * 2 ^ 34 + bit b.isZero * 2 ^ 35)

/-- texp (09 R325). -/
def execTexp (x : FormT) : State → Host.Outcome State Fault Refusal :=
  issueSeq (.texp x) do
    needAcc x.tile.toNat
    let t := (← getMe).tensor
    writeS x.d (expWord (t.acc x.tile.toNat 0) (t.acc x.tile.toNat 1))

end Sys2Proof.Machine
end

