-- ==== Sys2Proof/Machine/Lattice.lean ====
section
/-! DEFINITION. The adder lattice: cells, graphs and their loading, running a block, sinks, stream mode and the lattice
instructions (10 R328-R352). -/

namespace Sys2Proof.Machine

/-! ## Descriptors and pages (10 R329) -/

/-- LGDp (10 R329). -/
def Lattice.graph (t : Lattice) (p : Nat) : Word := Table.get 0 t.lgd p

/-- The number of pages, the input format, FE and NCELL of a descriptor. -/
def lgdPages (d : Word) : Nat := bitsOf d 61 2 + 1
def lgdKind (d : Word) : Nat := bitsOf d 59 2
def lgdFe (d : Word) : Int := signed 16 (bitsOf d 32 16)
def lgdCells (d : Word) : Nat := bitsOf d 16 10

/-- The graph that occupies page p, by its first page. -/
def Lattice.owner (t : Lattice) (p : Nat) : Option Nat :=
  (List.range 8).find? fun g => (t.graph g).getLsbD 63 && decide (g ≤ p) && decide (p < g + lgdPages (t.graph g))

/-- PGMAP (10 R350). -/
def Lattice.pageMap (t : Lattice) : Nat := (List.range 8).foldl (fun r p => r + bit (t.owner p).isSome * 2 ^ p) 0

/-- The executing core's lattice changed. -/
def modL (f : Lattice → Lattice) : Op Unit := modMe fun c => { c with lattice := f c.lattice }

/-- The cells of a graph in order. -/
def Lattice.cellsOf (t : Lattice) (pg : Nat) : List Word :=
  (List.range (lgdCells (t.graph pg))).map fun k => Table.get 0 t.cells (128 * pg + k)

/-- Whether a cell of a graph is poisoned (15 R460). -/
def Lattice.poisonIn (t : Lattice) (pg : Nat) : Option Nat :=
  t.poison.find? fun k => decide (128 * pg ≤ k) && decide (k < 128 * pg + lgdCells (t.graph pg))

/-! ## Running a block (10 R330-R333) -/

/-- The width that a WID code means (10 R331). -/
def cellWidth (wid : Nat) : Nat :=
  match wid with
  | 0 => 8 | 1 => 12 | 2 => 16 | 3 => 20 | 4 => 24 | 5 => 32 | _ => 40

/-- Op of 10 R333. -/
def cellOperand (vals lanes : List Int) (src sh : Nat) (neg : Bool) : Int :=
  let x := if src < 512 then vals.getD src 0 else if src ≤ 527 then lanes.getD (src - 512) 0 else 0
  (if neg then -x else x) * 2 ^ sh

/-- The value of a cell before and after it saturates. -/
def cellValue (vals lanes : List Int) (w : Word) : Int × Int :=
  let v := cellOperand vals lanes (bitsOf w 54 10) (bitsOf w 49 5) (w.getLsbD 48)
    + cellOperand vals lanes (bitsOf w 38 10) (bitsOf w 33 5) (w.getLsbD 32)
  let n := cellWidth (bitsOf w 29 3)
  (v, sat v (-2 ^ (n - 1)) (2 ^ (n - 1) - 1))

/-- The cells evaluated in ascending order: their values and how many saturated. -/
def runCells (lanes : List Int) : List Word → List Int → Nat → List Int × Nat
  | [], vals, n => (vals, n)
  | w :: ws, vals, n =>
    let (v, x) := cellValue vals lanes w
    runCells lanes ws (vals ++ [x]) (n + bit (x != v))

/-- The 32 tap sums. -/
def tapSums (cells : List Word) (vals : List Int) : List Int :=
  (List.range 32).map fun t =>
    (List.zipWith (fun w v => if w.getLsbD 28 && bitsOf w 23 5 == t then v else 0) cells vals).foldl (· + ·) 0

/-- What running one block gives (10 R333): tap sums, exponent before renormalisation, the two output halves, flags, and
how many inputs and cells saturated. -/
structure BlockRun where
  taps : List Int
  exp : Int
  out : List Ba40
  flags : BitVec 7
  high : Nat
  sat : Nat
  deriving DecidableEq, Repr

/-- The input lanes of a block (10 R333). -/
def blockLanes (b : BxBlock) (tec : Bool) : List Int :=
  if b.special tec then List.replicate 16 0 else b.scaled tec

/-- The TRAP_VAL of LATTICE_RANGE, when an input exceeds BOUND and TRP is set (10 R333). -/
def rangeTrap (lbnd : BitVec 9) (lanes : List Int) : Option Word :=
  let bound := bitsOf lbnd 0 8
  if lbnd.getLsbD 8 then
    (lanes.findIdx? fun x => decide (bound < x.natAbs)).map fun k =>
      BitVec.ofNat 64 (k + (lanes.getD k 0).natAbs * 2 ^ 8 + bound * 2 ^ 16)
  else none

/-- RunBlock of 10 R333 for a graph on a block whose range does not trap. -/
def runBlock (t : Lattice) (pg : Nat) (b : BxBlock) (tec : Bool) : BlockRun :=
  let d := t.graph pg
  let bound : Int := (bitsOf t.lbnd 0 8 : Nat)
  let lanes := (blockLanes b tec).map fun x => sat x (-bound) bound
  let high := ((blockLanes b tec).filter fun x => decide (bound < x.natAbs)).length
  let cells := t.cellsOf pg
  let (vals, nsat) := runCells lanes cells [] 0
  let taps := tapSums cells vals
  let e : Int := b.e + lgdFe d
  let outs := [renormLoop 64 (taps.take 16) e 0 false, renormLoop 64 (taps.drop 16) e 0 false]
  { taps, exp := e, out := outs.map (·.block), high, sat := nsat,
    flags := (if b.special tec then flagNV else 0) ||| (if high != 0 || nsat != 0 then flagSA else 0)
      ||| outs.foldl (fun f r => f ||| r.flags) 0 }

/-- The counters after a block. -/
def Lattice.counted (t : Lattice) (r : BlockRun) : Lattice :=
  { t with rcnt := BitVec.ofNat 16 (min 65535 (t.rcnt.toNat + r.high))
           scnt := BitVec.ofNat 16 (min 65535 (t.scnt.toNat + r.sat)) }

/-! ## Loading graphs (10 R338, R339, R346) -/

/-- A load under way: first page, page count, input format. -/
structure GraphSpec where
  pg : Nat
  np : Nat
  kind : Nat
  deriving DecidableEq, Repr

/-- TRAP_VAL of LATTICE_CAPACITY (10 R338). -/
def capacityVal (t : Lattice) (g : GraphSpec) (ncell reason cell : Nat) : Word :=
  BitVec.ofNat 64 (reason + ncell * 2 ^ 4 + g.pg * 2 ^ 16 + (g.np - 1) * 2 ^ 20 + t.budget.toNat * 2 ^ 24 + cell * 2 ^ 32)

/-- The REASON that a header fails for, in ascending order (10 R338). -/
def headerReason (t : Lattice) (g : GraphSpec) (h : Word) : Option Nat :=
  let n := bitsOf h 16 10
  let fe := signed 16 (bitsOf h 48 16)
  if n = 0 ∨ 128 * g.np < n then some 1
  else if t.budget.toNat < g.pg + g.np then some 2
  else if (List.range g.np).any fun k => (t.owner (g.pg + k)).isSome then some 3
  else if bitsOf h 26 22 ≠ 0 ∨ bitsOf h 0 16 ≠ 0 ∨ fe < -32000 ∨ 32000 < fe then some 5
  else none

/-- The REASON that cell k fails for (10 R331, R338). -/
def cellReason (k : Nat) (w : Word) : Option Nat :=
  let srcs := [bitsOf w 54 10, bitsOf w 38 10]
  if srcs.any fun s => decide (k ≤ s) && decide (s < 512) then some 4
  else if srcs.any (fun s => decide (528 ≤ s) && s != 1023) || bitsOf w 0 23 != 0 || bitsOf w 29 3 == 7
      || (!w.getLsbD 28 && bitsOf w 23 5 != 0) then some 5
  else none

/-- The check of word k of an image, the header being word 0 (10 R338). -/
def checkImageWord (g : GraphSpec) (header : Word) (k : Nat) (w : Word) : Op Unit := do
  let t := (← getMe).lattice
  let n := bitsOf header 16 10
  match if k = 0 then headerReason t g w else cellReason (k - 1) w with
  | some r =>
    modL fun t => { t with loading := [] }
    trapWith causeCapacity (capacityVal t g n r (if k = 0 then 0 else k - 1))
  | none => pure ()

/-- The checks of a whole image (10 R338). -/
def checkImage (g : GraphSpec) (words : List Word) : Op Unit := do
  for k in List.range words.length do
    checkImageWord g (words.headD 0) k (words.getD k 0)

/-- Words written from a key on, each listed unless it is 0. -/
def putWords : Nat → List Word → Table Word → Table Word
  | _, [], t => t
  | k, w :: ws, t => putWords (k + 1) ws (Table.set 0 k w t)

/-- The lattice with a checked image loaded (10 R346). -/
def Lattice.loadGraph (t : Lattice) (g : GraphSpec) (words : List Word) : Lattice :=
  let h := words.headD 0
  let n := words.length - 1
  { t with
    cells := putWords (128 * g.pg) (words.drop 1) t.cells
    poison := t.poison.filter fun k => !(decide (128 * g.pg ≤ k) && decide (k < 128 * g.pg + n))
    lgd := Table.set 0 g.pg (BitVec.ofNat 64 (2 ^ 63 + (g.np - 1) * 2 ^ 61 + g.kind * 2 ^ 59 + bitsOf h 48 16 * 2 ^ 32
      + bitsOf h 16 10 * 2 ^ 16)) t.lgd
    loading := [] }

/-- What an lgl or lglq loads into. -/
def graphSpec (x : FormL) : GraphSpec := { pg := x.pg.toNat, np := x.np.toNat + 1, kind := x.fi.toNat }

/-- lgl (10 R338). -/
def execLgl (x : FormL) : State → Host.Outcome State Fault Refusal :=
  issueSeq (.lgl x) do
    let v ← readBase x.a
    let a ← tensorLoc v 8
    let word (k : Nat) : Op Word := do return BitVec.ofNat 64 (natOfBytes (← locLoad (a + 8 * k) 8 v))
    let header ← word 0
    let n := bitsOf header 16 10
    let _ ← tensorLoc v (8 + 8 * n)
    let words := header :: (← (List.range n).mapM fun k => word (k + 1))
    checkImage (graphSpec x) words
    modL fun t => t.loadGraph (graphSpec x) words

/-- The head flit of queue n as one or two words (10 R339). -/
def wordFlit (n : Nat) : Op Flit := do
  let f ← headOf n
  checkData f n
  checkFmt f n (· ≤ 1)
  return f

/-- Words of an image taken as they arrive, each checked, none beyond the last cell (10 R339). -/
def takeWords (g : GraphSpec) : List Word → Op Unit
  | [] => pure ()
  | w :: ws => do
    let have_ := (← getMe).lattice.loading
    if have_.isEmpty || decide (have_.length ≤ bitsOf (have_.headD 0) 16 10) then
      modL fun t => { t with loading := have_ ++ [w] }
      checkImageWord g (have_.headD w) have_.length w
      takeWords g ws

/-- One flit of an image taken; a wait keeps the words taken before it. -/
def lglqFlit (g : GraphSpec) (n : Nat) : Op Unit :=
  inStep 0 do
    let f ← tryCatch (wordFlit n) fun e => do
      match e with
      | .trap _ => modL fun t => { t with loading := [] }
      | _ => pure ()
      throw e
    popHead n 0
    takeWords g (f.payload.extractLsb' 0 64 :: if f.fmt = 1 then [f.payload.extractLsb' 64 64] else [])

/-- Whether every word of the image has been taken. -/
def imageTaken (ws : List Word) : Bool := !ws.isEmpty && decide (bitsOf (ws.headD 0) 16 10 < ws.length)

/-- lglq (10 R339). -/
def execLglq (x : FormL) : State → Host.Outcome State Fault Refusal :=
  issueSeq (.lglq x) do
    let g := graphSpec x
    for _ in List.range 513 do
      if !imageTaken (← getMe).lattice.loading then
        lglqFlit g (x.a.toNat - 24)
        setProgress (← getMe).lattice.loading.length
    modL fun t => t.loadGraph g t.loading

/-! ## Sinks (10 R335) -/

/-- A QUEUE_PROTOCOL trap of the lattice's own (10 R345). -/
def latticeTrap {α : Type} (reason pg : Nat) : Op α :=
  trapWith causeQueue (BitVec.ofNat 64 (2 ^ 30 + pg + reason * 2 ^ 8))

/-- The graph that an instruction names (10 R345). -/
def needGraph (pg : Nat) : Op Unit := do
  if !((← getMe).lattice.graph pg).getLsbD 63 then latticeTrap 1 pg

/-- The five flits of each output half that OH selects (10 R335). -/
def outFlits (r : BlockRun) (oh : Nat) (exc : Bool) (tag : BitVec 7) : List Flit :=
  (List.range 2).flatMap fun h => if oh / 2 ^ h % 2 = 1 then ba40Flits (r.out.getD h Ba40.zero) exc tag else []

/-- A queue sink: its tag is checked at issue (08 R270). -/
def sinkTag (d : Nat) : Op Unit := do
  if 24 ≤ d then checkTag ((← getMe).qtag (d - 24))

/-- One block checked, run and sent to its sink: into a tile, or its first unit into the output queue; the second unit of a queue sink
stays in rest (10 R333-R335). -/
def latticeBlock (x : FormL) (b : BxBlock) (exc : Bool) : Op Unit := do
  let c ← getMe
  let pg := x.pg.toNat
  let d := x.d.toNat
  if 24 ≤ d then waitRoom 5 else needAcc d
  match c.lattice.poisonIn pg with
  | some k => trapWith causePoison (BitVec.ofNat 64 (8 * k))
  | none => pure ()
  match rangeTrap c.lattice.lbnd (blockLanes b c.tec) with
  | some v => trapWith causeLatRange v
  | none => pure ()
  let r := runBlock c.lattice pg b c.tec
  if 24 ≤ d then
    let fs := outFlits r (bitsOf x.imm 8 2) (exc || taints r.flags) (BitVec.ofNat 7 (c.qtag (d - 24)))
    let sent := c.fpFlagsRead.getLsbD 6
    pushFlits ((fs.take 5).map (·.tainted sent))
    modL fun t => { t with rest := fs.drop 5 }
  else
    let t := c.tensor
    let r0 := addBa40 (t.acc d 0) (r.out.getD 0 Ba40.zero)
    let r1 := addBa40 (t.acc d 1) (r.out.getD 1 Ba40.zero)
    modT fun t => (t.setAcc d 0 r0.block).setAcc d 1 r1.block
    raise (r0.flags ||| r1.flags)

/-- What a run leaves once its outputs have all been sent: its flags, its counts and the record of its taps (10 R333, R334, R350). -/
def blockRan (x : FormL) (b : BxBlock) : Op Unit := do
  let c ← getMe
  let r := runBlock c.lattice x.pg.toNat b c.tec
  modL fun t => { t.counted r with last := some { taps := r.taps, exp := r.exp } }
  raise r.flags

/-- The second unit of a block pushed once there is room for it; EXC is that of its block and of the core as it is sent (10 R334,
R335; 02 R76). -/
def pushRest : Op Unit := do
  let fs := (← getMe).lattice.rest
  if !fs.isEmpty then
    waitRoom 5
    let sent := (← getMe).fpFlagsRead.getLsbD 6
    pushFlits (fs.map (·.tainted sent))
    modL fun t => { t with rest := [] }

/-- The head flit of the lattice input queue as a BX flit of a format, checked (10 R347); an empty queue is a wait with
bit 11 (05 R169). -/
def latticeHead (kind : Nat) : Op Flit := do
  match (← getMe).lattice.inq with
  | [] => throw (.wait (waitVal 1 0 ||| 0x800))
  | f :: _ =>
    if f.kind ≠ 0 then trapWith causeQueue (queueVal f.kind 0)
    checkFmt f 0 fun fmt => isBx fmt && bxKind fmt == kind
    return f

/-- The head flit of the lattice input queue consumed. -/
def popLattice : Op Unit :=
  modMe fun c =>
    match c.lattice.inq with
    | f :: rest => ({ c with lattice := { c.lattice with inq := rest } }).consume f 0 5
    | [] => c

/-- The flit that step i of an lrun used popped, where the step uses it last (10 R347). -/
def lrunPop (x : FormL) (kind i : Nat) : Op Unit :=
  if stepPops kind i (bitsOf x.imm 0 5) then (if x.a = 0 then popLattice else popHead (x.a.toNat - 24) 5) else pure ()

/-- A block of lrun or lrunv: run, unless its first unit is out already, its second unit sent, and what the run leaves (10 R335,
R337). -/
def blockStep (x : FormL) (b : BxBlock) (exc : Bool) : Op Unit := do
  if (← getMe).lattice.rest.isEmpty then latticeBlock x b exc
  pushRest
  blockRan x b

/-- Step i of an lrun (10 R347). -/
def lrunStep (x : FormL) (i : Nat) : Op Unit := do
  needGraph x.pg.toNat
  let kind := lgdKind ((← getMe).lattice.graph x.pg.toNat)
  let f ← if x.a = 0 then latticeHead kind else bxHead (x.a.toNat - 24) kind
  blockStep x (stepBlock kind i f) f.exc
  lrunPop x kind i

/-- lrun (10 R345, R347): a trap names the step that it continues at. -/
def execLrun (x : FormL) : State → Host.Outcome State Fault Refusal :=
  issueSeq (.lrun x) do
    inStep (← get).progress do
      if x.a = 0 ∧ (← getMe).lattice.lsel.getLsbD 63 then latticeTrap 3 x.pg.toNat
      sinkTag x.d.toNat
    runSteps (bitsOf x.imm 0 5) (lrunStep x)

/-- The step of an lrunv (10 R347). -/
def lrunvStep (x : FormL) : Op Unit := do
  let kind := lgdKind ((← getMe).lattice.graph x.pg.toNat)
  blockStep x (← vectorBlock x.a kind (bitsOf x.imm 0 2)) false

/-- lrunv (10 R347). -/
def execLrunv (x : FormL) : State → Host.Outcome State Fault Refusal :=
  issueSeq (.lrunv x) do
    needGraph x.pg.toNat
    let kind := lgdKind ((← getMe).lattice.graph x.pg.toNat)
    if kind ≠ 0 ∧ 2 ≤ bitsOf x.imm 0 2 then trapWith causeReserved (x.word 0xA4)
    sinkTag x.d.toNat
    runSteps 1 fun _ => lrunvStep x

/-! ## The other lattice instructions (10 R348-R352) -/

/-- The block of an lrun or lrunv whose second half has still to be pushed finished, at a halt (10 R337): its step stands. -/
def finishBlock : Instr → Op Unit
  | .lrun x => do
    let k := (← get).progress
    lrunStep x k
    setProgress (k + 1)
  | .lrunv x => do
    lrunvStep x
    setProgress 1
  | _ => pure ()

/-- The module with the lattice block in progress of a core finished; none while its output queue has no room for it (10 R337). -/
def State.finishLattice (s : State) (lid : Nat) : Option State :=
  let c := s.core lid
  if c.lattice.rest.isEmpty then some s
  else
    let w := match c.rpt with
      | some r => r.next
      | none => s.wordAt lid
    match (pickInstr w).map fun i => (finishBlock i).run { s with cur := lid, inRpt := c.rpt.isSome } with
    | some (.ok _ s') => some { s' with cur := s.cur, inRpt := s.inRpt }
    | _ => none

/-- A wait of lsel until the stream block in progress has been pushed; a BX4 flit of which one block has run is still in progress (10
R348). -/
def streamPushed : Op Unit := do
  let t := (← getMe).lattice
  waitUnless (t.streamOut.isEmpty && t.streamAt == 0) (waitVal 6 0)

/-- lsel (10 R348). -/
def execLsel (x : FormL) : State → Host.Outcome State Fault Refusal :=
  issueSeq (.lsel x) do
    let tag := bitsOf x.imm 0 7
    needGraph x.pg.toNat
    checkTag tag
    streamPushed
    modL fun t => { t with
      lsel := BitVec.ofNat 64 (2 ^ 63 + x.pg.toNat * 2 ^ 10 + bitsOf x.imm 8 2 * 2 ^ 8 + tag) }

/-- lsel.off (10 R348). -/
def execLselOff (x : FormL) : State → Host.Outcome State Fault Refusal :=
  issueSeq (.lselOff x) do
    streamPushed
    modL fun t => { t with lsel := 0 }

/-- lbound (10 R349). -/
def execLbound (x : FormL) : State → Host.Outcome State Fault Refusal :=
  issueSeq (.lbound x) do
    modL fun t => { t with lbnd := BitVec.ofNat 9 (bitsOf x.imm 0 9) }

/-- The lattice status word (10 R350). -/
def latticeStatus (t : Lattice) : Word :=
  BitVec.ofNat 64 (t.rcnt.toNat + t.scnt.toNat * 2 ^ 16 + t.pageMap * 2 ^ 32 + bit (t.lsel.getLsbD 63) * 2 ^ 40
    + t.inq.length * 2 ^ 44)

/-- lstat.st (10 R350). -/
def execLstatSt (x : FormL) : State → Host.Outcome State Fault Refusal :=
  issueSeq (.lstatSt x) do
    destReady x.d 1
    let t := (← getMe).lattice
    if x.imm.getLsbD 2 then modL fun t => { t with rcnt := 0, scnt := 0 }
    writeS x.d (latticeStatus t)

/-- lstat.tap (10 R350). -/
def execLstatTap (x : FormL) : State → Host.Outcome State Fault Refusal :=
  issueSeq (.lstatTap x) do
    let r := (← getMe).lattice.last
    writeS x.d (trunc 64 ((r.map fun l => l.taps.getD x.ot.toNat 0).getD 0))

/-- lstat.exp (10 R350). -/
def execLstatExp (x : FormL) : State → Host.Outcome State Fault Refusal :=
  issueSeq (.lstatExp x) do
    let r := (← getMe).lattice.last
    writeS x.d ((r.map fun l => BitVec.ofNat 64 ((BitVec.ofInt 16 l.exp).toNat + 2 ^ 16)).getD 0)

/-- What the cells of a graph hold once it is freed: nothing keeps their contents (10 R351; log 9). -/
def freeCells (ticks first : Nat) : Nat → Table Word → Table Word
  | 0, t => t
  | n + 1, t => freeCells ticks (first + 1) n (Table.set 0 first (Config.freedCell ticks first) t)

/-- The lattice with the graph at first page g freed (10 R351). -/
def Lattice.freeGraph (t : Lattice) (ticks g : Nat) : Lattice :=
  { t with lgd := Table.set 0 g (putBits (t.graph g) 63 1 0) t.lgd
           cells := freeCells ticks (128 * g) (lgdCells (t.graph g)) t.cells }

/-- Graphs freed, unless one is bound to the stream (10 R340, R351). -/
def freeGraphs (pg : Nat) (gs : List Nat) : Op Unit := do
  let s ← get
  let t := s.me.lattice
  if t.lsel.getLsbD 63 && gs.contains (bitsOf t.lsel 10 3) then latticeTrap 2 pg
  modL fun t => gs.foldl (fun t g => t.freeGraph s.ticks g) t

/-- lfree (10 R351). -/
def execLfree (x : FormL) : State → Host.Outcome State Fault Refusal :=
  issueSeq (.lfree x) do
    freeGraphs x.pg.toNat ((← getMe).lattice.owner x.pg.toNat).toList

/-- lfree.all (10 R351). -/
def execLfreeAll (x : FormL) : State → Host.Outcome State Fault Refusal :=
  issueSeq (.lfreeAll x) do
    let t := (← getMe).lattice
    freeGraphs x.pg.toNat ((List.range 8).filter fun g => (t.graph g).getLsbD 63)

/-- The graph image as loaded (10 R352). -/
def Lattice.image (t : Lattice) (pg : Nat) : List Byte :=
  let d := t.graph pg
  bytesOfNat 8 (bitsOf d 32 16 * 2 ^ 48 + lgdCells d * 2 ^ 16) ++ (t.cellsOf pg).flatMap fun w => bytesOfNat 8 w.toNat

/-- lsum (10 R352). -/
def execLsum (x : FormL) : State → Host.Outcome State Fault Refusal :=
  issueSeq (.lsum x) do
    let v ← readBase x.a
    let a ← tensorLoc v 32
    needGraph x.pg.toNat
    destReady x.d 1
    let t := (← getMe).lattice
    match t.poisonIn x.pg.toNat with
    | some k => trapWith causePoison (BitVec.ofNat 64 (8 * k))
    | none => pure ()
    let digest := sha256 (t.image x.pg.toNat)
    for k in List.range 4 do
      locStore (a + 8 * k) ((digest.drop (8 * k)).take 8)
    writeS x.d (BitVec.ofNat 64 (lgdCells (t.graph x.pg.toNat)))

/-! ## Stream mode (10 R341, R342) -/

/-- A fault of the lattice stream that is fatal to the region (10 R342). -/
def streamLatticeFault (s : State) (lid : Nat) (f : Flit) (cause : BitVec 8) (val : Word) : State :=
  freezeAt s lid { cause := cause.toNat, unit := 5, tag := f.tag.toNat, fmt := f.fmt, kind := f.kind, val }

/-- The block of a flit that the stream runs next, and whether it is its last (10 R341). -/
def Lattice.streamBlock (t : Lattice) (f : Flit) : BxBlock × Bool :=
  let bs := bxBlocks (lgdKind (t.graph (bitsOf t.lsel 10 3))) f.payload f.scale
  (bs.getD t.streamAt bxZero, decide (bs.length ≤ t.streamAt + 1))

/-- Why a flit may not enter the stream, if it may not (10 R342; 15 R460). -/
def streamReject (c : Core) (f : Flit) : Option (BitVec 8 × Word) :=
  let pg := bitsOf c.lattice.lsel 10 3
  let kind := lgdKind (c.lattice.graph pg)
  if f.kind ≠ 0 then some (causeQueue, 0)
  else if !(isBx f.fmt && bxKind f.fmt == kind) then some (causeFmtTag, 0)
  else if bxTec f.fmt != c.tec then some (causeFmtMode, 0)
  else
    match c.lattice.poisonIn pg with
    | some k => some (causePoison, BitVec.ofNat 64 (8 * k))
    | none => (rangeTrap c.lattice.lbnd (blockLanes (c.lattice.streamBlock f).1 c.tec)).map fun v => (causeLatRange, v)

/-- The last of a list of flits takes a DEND. -/
def withDend (dend : BitVec 4) : List Flit → List Flit
  | [] => []
  | [f] => [{ f with side := putBits f.side 39 4 dend.toNat }]
  | f :: fs => f :: withDend dend fs

/-- What the lattice sends for one block of a stream flit: the halves that OH selects, with the flit's REL, the EXC of the flit and
the block, and the flit's DEND on the last part of its last block (10 R341). -/
def Lattice.streamUnits (t : Lattice) (f : Flit) (r : BlockRun) (last : Bool) : List Flit :=
  let out := outFlits r (bitsOf t.lsel 8 2) (f.exc || taints r.flags) (BitVec.ofNat 7 (bitsOf t.lsel 0 7))
  let out := out.map fun g => { g with side := putBits g.side 35 1 (bit f.rel) }
  if last then withDend f.dend out else out

/-- The lattice after it ran the next block of the flit at the head of its input queue: what it will push, its counters and its
core's flags; the flit is consumed after its last block (10 R341). -/
def Core.streamFlit (c : Core) (f : Flit) (rest : List Flit) : Core :=
  let t := c.lattice
  let (b, last) := t.streamBlock f
  let r := runBlock t (bitsOf t.lsel 10 3) b c.tec
  let c := { c with
    fpFlags := c.fpFlags ||| withExc r.flags
    lattice := { t.counted r with streamOut := t.streamUnits f r last, streamAt := if last then 0 else t.streamAt + 1
                                  inq := if last then rest else t.inq } }
  if last then c.consumeNow f 0 5 else c

/-- The next unit of a stream block pushed, tainted as its core is when it is sent (10 R341; 02 R76). -/
def Core.pushStream (c : Core) (n : Nat) : Core :=
  { c with
    router := { c.router with outq := c.router.outq ++ (c.lattice.streamOut.take n).map fun f =>
      if f.kind = 0 then f.tainted (c.fpFlags.getLsbD 6) else f }
    lattice := { c.lattice with streamOut := c.lattice.streamOut.drop n } }

/-- LATTICE_STREAM_BLOCK (10 R341): the next unit of a block is pushed, or the next block of the head flit of the lattice input
queue is run. -/
def execLatticeStreamBlock (lid : Nat) (s : State) : Host.Outcome State Fault Refusal :=
  if coreCount ≤ lid then .fault .noSuchUnit
  else
    let c := s.core lid
    let sel := c.lattice.lsel
    if !(s.coreLive lid && c.live) then .next s
    else
      match c.lattice.streamOut with
      | f :: _ =>
        let n := if f.kind = 0 then 5 else 1
        .next (if c.router.outq.length + n ≤ 8 then s.setCore lid (c.pushStream n) else s)
      | [] =>
        match c.lattice.inq with
        | [] => .next s
        | f :: rest =>
          if !sel.getLsbD 63 then .next s
          else if f.kind = 3 ∨ f.kind = 6 then
            .next (s.setCore lid (({ c with
              lattice := { c.lattice with
                inq := rest, streamOut := [{ f with tag := BitVec.ofNat 7 (bitsOf sel 0 7) }] } }).consumeNow f 0 5))
          else
            match streamReject c f with
            | some (cause, v) => .next (streamLatticeFault s lid f cause v)
            | none => .next (s.setCore lid (c.streamFlit f rest))

end Sys2Proof.Machine
end

