-- ==== Sys2Proof/Machine/Image.lean ====
section
/-! DEFINITION. The Zogus region image: reading it from EXT memory, the checks by which the loader rejects it with the offset of
the first failing byte, and what its sections make of a core (03 R119-R123; 01 R38; 05 R162; 07 R236, R249, R467; 08
R290, R291; 09 R326; 10 R354; 11 R356, R382; 12 R389). -/

namespace Sys2Proof.Machine

/-! ## Reading -/

/-- n bytes of a job's address space from va, one page at a time. -/
def vaSpanFrom (s : State) (root : Nat) : Nat → Nat → Nat → Option (List Byte)
  | 0, _, n => if n = 0 then some [] else none
  | k + 1, va, n =>
    if n = 0 then some []
    else
      let m := min n (4096 - va % 4096)
      match vaRead s root va m, vaSpanFrom s root k (va + m) (n - m) with
      | some a, some b => some (a ++ b)
      | _, _ => none

/-- n bytes of a job's address space; none when one of them cannot be read. -/
def vaSpan (s : State) (root va n : Nat) : Option (List Byte) := vaSpanFrom s root (n / 4096 + 2) va n

/-- The little-endian number in n bytes at an offset. -/
def natAt (b : List Byte) (off n : Nat) : Nat := natOfBytes ((b.drop off).take n)

/-- Bytes as 8-byte words. -/
def wordsIn (b : List Byte) : List Word := (List.range (b.length / 8)).map fun k => BitVec.ofNat 64 (natAt b (8 * k) 8)

/-- An image as it was read: its address and its bytes. -/
structure Image where
  va : Nat
  bytes : List Byte
  deriving DecidableEq, Repr

/-- An entry of the section table (03 R120). -/
structure ImageSection where
  ty : Nat
  off : Nat
  size : Nat
  cls : Nat
  deriving DecidableEq, Repr

/-- The image at an address: FILESIZE bytes, and the header at least. -/
def readImage (s : State) (root va : Nat) : Option Image := do
  let head ← vaSpan s root va 128
  let all ← vaSpan s root va (natAt head 32 8)
  return { va, bytes := if all.length < 128 then head else all }

/-! ## The header and the sections (03 R119-R121) -/

namespace Image

/-- Header fields. -/
def flags (i : Image) : Nat := natAt i.bytes 8 4
def feats (i : Image) : Nat := natAt i.bytes 12 4
def w (i : Image) : Nat := natAt i.bytes 16 2
def h (i : Image) : Nat := natAt i.bytes 18 2
def nclass (i : Image) : Nat := natAt i.bytes 20 2
def nsect (i : Image) : Nat := natAt i.bytes 22 2
def sectOff (i : Image) : Nat := natAt i.bytes 24 8
def fileSize (i : Image) : Nat := natAt i.bytes 32 8

/-- DET and TEC of FLAGS. -/
def det (i : Image) : Bool := i.flags % 2 == 1
def tec (i : Image) : Bool := i.flags / 2 % 2 == 1

/-- The section table. -/
def sections (i : Image) : List ImageSection :=
  (List.range i.nsect).map fun k =>
    let o := i.sectOff + 32 * k
    { ty := natAt i.bytes o 4, off := natAt i.bytes (o + 8) 8, size := natAt i.bytes (o + 16) 8,
      cls := natAt i.bytes (o + 24) 4 }

/-- The bytes of a section. -/
def body (i : Image) (t : ImageSection) : List Byte := (i.bytes.drop t.off).take t.size

/-- The class of a section that concerns the whole region. -/
def whole : Nat := 0xFFFFFFFF

/-- The sections of a type and class. -/
def sectionsOf (i : Image) (ty cls : Nat) : List ImageSection := i.sections.filter fun t => t.ty == ty && t.cls == cls

/-- The bytes of the first section of a type and class; none where there is none. DESIGN CHOICE, log 69: 03 R121 does not say which
of several ROLEMAP, TRIGGERS, GRAPH, STREAMS, CBUFS or GROUPS sections counts, and the first of the table does; of CLASS_DATA,
LGRAPHS and BTILES every section is loaded. -/
def data (i : Image) (ty cls : Nat) : List Byte := ((i.sectionsOf ty cls).head?.map i.body).getD []

/-- The bytes of every section of a type and class, in the order of the table. -/
def bodies (i : Image) (ty cls : Nat) : List (List Byte) := (i.sectionsOf ty cls).map i.body

/-- The bytes of the sections of a type and class that stand before one in the table. -/
def before (i : Image) (t : ImageSection) : List (List Byte) :=
  ((i.sections.takeWhile (· != t)).filter fun u => u.ty == t.ty && u.cls == t.cls).map i.body

/-- ROLEMAP: the class of each role. -/
def roleMap (i : Image) : List Nat :=
  let b := i.data 4 whole
  (List.range (b.length / 2)).map fun k => natAt b (2 * k) 2

/-- The class of a role; none for an idle role. -/
def classOf (i : Image) (role : Nat) : Option Nat := (i.roleMap[role]?).filter (· != 0xFFFF)

/-- The eight words of a class's LAYOUT. -/
def layout (i : Image) (cls : Nat) : List Nat := (List.range 8).map fun k => natAt (i.data 3 cls) (4 * k) 4

/-- The idle roles. -/
def idle (i : Image) : List Nat := (List.range (i.w * i.h)).filter fun k => (i.classOf k).isNone

end Image

/-! ## Where an image fails (03 R123; log 31) -/

/-- The offsets of the bytes of an n-byte field in which a bit outside a mask is set. -/
def strayBytes (b : List Byte) (off n mask : Nat) : List Nat :=
  (List.range n).filterMap fun k =>
    if natAt b (off + k) 1 &&& (255 ^^^ (mask / 2 ^ (8 * k) % 256)) = 0 then none else some (off + k)

/-- The offsets of the bytes of an n-byte field that differ from a value. -/
def wrongBytes (b : List Byte) (off n v : Nat) : List Nat :=
  (List.range n).filterMap fun k => if natAt b (off + k) 1 = v / 2 ^ (8 * k) % 256 then none else some (off + k)

/-- The offsets of the bytes of a word at an offset in which a bit outside a mask is set. -/
def strayWord (w mask : Word) (off : Nat) : List Nat :=
  (List.range 8).filterMap fun k => if bitsOf (w &&& ~~~mask) (8 * k) 8 = 0 then none else some (off + k)

/-- The offset when a check fails. -/
def failAt (ok : Bool) (off : Nat) : List Nat := if ok then [] else [off]

/-- The lowest offset. -/
def lowest : List Nat → Option Nat
  | [] => none
  | x :: xs => some (xs.foldl min x)

/-- The failing offsets of the header and of IMGHASH (03 R119, R122). DESIGN CHOICE, log 69: values of WIDTH, HEIGHT and NCLASS
outside 03 R119, a section table that ends beyond FILESIZE, and a FILESIZE below 128 reject the image, though 03 R123 names none of
them. -/
def Image.headerFaults (i : Image) : List Nat :=
  let b := i.bytes
  let hashed := b.take 40 ++ List.replicate 32 0 ++ b.drop 72
  wrongBytes b 0 4 0x0049525A ++ wrongBytes b 4 2 0x0200 ++ wrongBytes b 6 2 128 ++ strayBytes b 8 4 0x1F
    ++ strayBytes b 12 4 0xF ++ failAt (decide (1 ≤ i.w) && decide (i.w ≤ 1152)) 16
    ++ failAt (decide (1 ≤ i.h) && decide (i.h ≤ 896)) 18 ++ failAt (decide (1 ≤ i.nclass) && decide (i.nclass ≤ 65534)) 20
    ++ failAt (decide (i.sectOff + 32 * i.nsect ≤ i.fileSize)) 24 ++ failAt (decide (128 ≤ i.fileSize)) 32
    ++ failAt (sha256 hashed == (b.drop 40).take 32) 40 ++ strayBytes b 72 56 0

/-- Whether a section type is per class (03 R121). -/
def perClass (ty : Nat) : Bool := [1, 2, 3, 5, 7, 8, 10, 11].contains ty

/-- Whether two sections share a byte. -/
def ImageSection.meets (a b : ImageSection) : Bool := decide (max a.off b.off < min (a.off + a.size) (b.off + b.size))

/-- The failing offsets of entry k of the section table (03 R120, R121, R123). DESIGN CHOICE, log 69: a section of a type that is
ignored is held to R120 like every section, and its CLASS to nothing. -/
def Image.entryFaults (i : Image) (k : Nat) (t : ImageSection) : List Nat :=
  let ts := i.sections
  let o := i.sectOff + 32 * k
  failAt (decide (t.ty ≠ 0) && !(decide (13 ≤ t.ty) && decide (t.ty ≤ 0x0FFF))) o ++ strayBytes i.bytes (o + 4) 4 0
    ++ failAt (t.off % 8 == 0 && !(ts.take k).any t.meets) (o + 8) ++ failAt (decide (t.off + t.size ≤ i.fileSize)) (o + 16)
    ++ failAt (decide (0x1000 ≤ t.ty) || (if perClass t.ty then decide (t.cls < i.nclass) else t.cls == Image.whole)) (o + 24)
    ++ strayBytes i.bytes (o + 28) 4 0
    ++ failAt (!(t.ty == 1 || t.ty == 3) || !(ts.take k).any (fun u => u.ty == t.ty && u.cls == t.cls)) o

/-- The failing offsets of the section table (03 R120, R121, R123). -/
def Image.tableFaults (i : Image) : List Nat :=
  i.sections.zipIdx.flatMap (fun p => i.entryFaults p.2 p.1)
    ++ failAt ((List.range i.nclass).all fun c => !(i.sectionsOf 1 c).isEmpty && !(i.sectionsOf 3 c).isEmpty) 20
    ++ failAt (!(i.sectionsOf 4 Image.whole).isEmpty) 22

/-- The failing offsets of a LAYOUT (03 R118). -/
def layoutFaults (b : List Byte) (off : Nat) : List Nat :=
  let v (k : Nat) : Nat := natAt b (4 * k) 4
  failAt (b.length == 32) off ++ (strayBytes b 28 4 0).map (off + ·)
    ++ (List.range 7).flatMap fun k => failAt (v k % 8 == 0 && decide (v k ≤ 65536) && (k == 0 || decide (v (k - 1) ≤ v k))) (off + 4 * k)

/-- The CLASS_DATA records of a section's bytes: offset, LOC address and bytes; fuel bounds them. -/
def dataRecords (b : List Byte) : Nat → Nat → List (Nat × Nat × List Byte)
  | 0, _ => []
  | k + 1, o =>
    if b.length < o + 16 then []
    else
      let n := natAt b (o + 8) 8
      (o, natAt b o 8, (b.drop (o + 16)).take n) :: dataRecords b k (o + 16 + (n + 7) / 8 * 8)

/-- The failing offsets of CLASS_DATA: a record that leaves the section or LOC, or padding that is not zero (03 R121). DESIGN CHOICE,
log 69: 03 R123 names no malformed CLASS_DATA; such a record rejects the image, and bytes at the end of the section that are too few
for a record are ignored. -/
def dataFaults (b : List Byte) (off : Nat) : List Nat :=
  (dataRecords b b.length 0).flatMap fun (o, a, _) =>
    let n := natAt b (o + 8) 8
    failAt (decide (o + 16 + (n + 7) / 8 * 8 ≤ b.length) && decide (a + n ≤ 65536)) (off + o)
      ++ (strayBytes b (o + 16 + n) ((8 - n % 8) % 8) 0).map (off + ·)

/-- The failing offsets of TRIGGERS (05 R162). -/
def triggerFaults (b : List Byte) (off : Nat) : List Nat :=
  failAt (b.length == 264) off ++ failAt (isPermutation (BitVec.ofNat 64 (natAt b 256 8))) (off + 256)
    ++ (List.range 16).flatMap fun n =>
      let w0 := BitVec.ofNat 64 (natAt b (16 * n) 8)
      ((strayBytes b (16 * n) 8 (csrMask 0x100).toNat ++ strayBytes b (16 * n + 8) 8 (csrMask 0x101).toNat).map (off + ·))
        ++ failAt (bitsOf w0 0 3 == 0) (off + 16 * n) ++ failAt (bitsOf w0 56 3 != 7) (off + 16 * n + 7)

/-! ## GRAPH (08 R290, R291) -/

/-- A route record: its offset, header word, source and destination endpoint words. -/
structure RouteRec where
  off : Nat
  header : Word
  srcs : List Word
  dsts : List Word
  deriving DecidableEq, Repr

def RouteRec.tag (r : RouteRec) : Nat := bitsOf r.header 0 7
def RouteRec.op (r : RouteRec) : Nat := bitsOf r.header 24 3
def RouteRec.dmd (r : RouteRec) : Nat := bitsOf r.header 56 8
def endKind (e : Word) : Nat := bitsOf e 29 3
def endRole (w : Nat) (e : Word) : Nat := bitsOf e 16 10 * w + bitsOf e 0 11

/-- The route records of a GRAPH section's words, and the offset of one that the section cuts short. -/
def routeRecs : Nat → Nat → List Word → List RouteRec × List Nat
  | 0, _, _ => ([], [])
  | _ + 1, _, [] => ([], [])
  | k + 1, off, header :: rest =>
    let n := (bitsOf header 7 1 * 256 + bitsOf header 8 8) % 512
    let nsrc := if n = 0 then 512 else n
    let ndst := bitsOf header 16 8
    if rest.length < nsrc + ndst then ([], [off])
    else
      let (rs, bad) := routeRecs k (off + 8 * (1 + nsrc + ndst)) (rest.drop (nsrc + ndst))
      ({ off, header, srcs := rest.take nsrc, dsts := (rest.drop nsrc).take ndst } :: rs, bad)

/-- The routes of an image. -/
def Image.routes (i : Image) : List RouteRec :=
  let ws := wordsIn (i.data 6 Image.whole)
  (routeRecs ws.length 0 ws).1

/-- The failing offsets of an endpoint word. -/
def endFaults (w h : Nat) (kinds : List Nat) (off : Nat) (e : Word) : List Nat :=
  strayWord e 0xFFFF07FF off ++ failAt (kinds.contains (endKind e)) (off + 3)
    ++ failAt (decide (bitsOf e 0 11 < w)) off ++ failAt (decide (bitsOf e 16 10 < h)) (off + 2)

/-- The failing offsets of a route record (08 R290, R291); seen lists the tags declared before it. -/
def RouteRec.faults (r : RouteRec) (w h base : Nat) (seen : List Nat) : List Nat :=
  let o := base + r.off
  let sum := r.op == 1
  failAt (decide (r.tag ≤ 111) && !seen.contains r.tag && (!sum || decide (2 ≤ r.srcs.length))) o
    ++ failAt (!r.dsts.isEmpty) (o + 2)
    ++ failAt (decide (r.op ≤ 2) && bitsOf r.header 29 3 == 0
        && (if r.op = 2 then decide (bitsOf r.header 27 2 ≤ 2) else bitsOf r.header 27 2 == 0)) (o + 3)
    ++ failAt (bitsOf r.header 32 4 == 0 && (sum || bitsOf r.header 36 12 == 0)) (o + 4)
    ++ failAt ((sum || !r.header.getLsbD 55) && decide (bitsOf r.header 48 7 ≤ 111)) (o + 6) ++ failAt (decide (r.dmd ≤ 128)) (o + 7)
    ++ r.srcs.zipIdx.flatMap (fun (e, k) => endFaults w h [0, 1, 2] (o + 8 + 8 * k) e)
    ++ r.dsts.zipIdx.flatMap (fun (e, k) => endFaults w h [0, 2, 3, 4, 5] (o + 8 + 8 * (r.srcs.length + k)) e)

/-- The failing offsets of a GRAPH section. -/
def graphFaults (i : Image) (b : List Byte) (off : Nat) : List Nat :=
  let (rs, cut) := routeRecs (b.length / 8) 0 (wordsIn b)
  failAt (b.length % 8 == 0) (off + b.length / 8 * 8) ++ cut.map (off + ·)
    ++ rs.zipIdx.flatMap fun (r, k) => r.faults i.w i.h off ((rs.take k).map (·.tag))

/-- QTAGS of a role: the tags of the routes that name it with a queue (08 R269). -/
def Image.qtags (i : Image) (role : Nat) : Word :=
  i.routes.foldl (fun q r =>
    r.srcs.foldl (fun q e => if endKind e = 0 ∧ endRole i.w e = role then putBits q (8 * bitsOf e 26 3) 7 r.tag else q) q)
    0x7F7F7F7F7F7F7F7F

/-! ## STREAMS and CBUFS (07 R236, R249, R253, R467) -/

/-- The declared streams of a class: whether GO is set, and the descriptor. -/
def streamRecs (b : List Byte) : List (Bool × List Word) :=
  (List.range (b.length / 72)).map fun k =>
    (natAt b (72 * k) 1 % 2 == 1, (List.range 8).map fun j => BitVec.ofNat 64 (natAt b (72 * k + 8 + 8 * j) 8))

/-- Whether two streams of one class cannot both be open (07 R467). -/
def tagClash (a b : StreamCtx) : Bool :=
  (a.dir == 2 && b.dir == 2 && a.tag == b.tag) || (a.dir == 1 && b.dir == 1 && a.ctag == b.ctag)

/-- The bits of a descriptor's words that are not reserved (07 R235). -/
def descMask : List Word :=
  [0x01FFFFFFFFFFFFFF, -1, -1, -1, -1, 0x001FFFFFFF1F7FFF, 0xFFFF, 0]

/-- The bytes of a descriptor that fail steps 1 to 3 of 07 R236, each by its first: a value that its field or its direction does not
take, or a BASE, stride or extent. -/
def StreamCtx.failingBytes (c : StreamCtx) : List Nat :=
  let w5 := c.word 5
  let circular := c.dir == 1
  let fs := failAt (decide (c.dir < 3) && decide (c.fmt < 11) && (!circular || (decide (1 ≤ c.fmt) && decide (c.fmt ≤ 5)) || c.fmt == 9)) 40
    ++ failAt (decide (c.scope < 5)) 42 ++ failAt (decide (c.sqm < 3) && !(c.sqm != 0 && c.isBx)) 46
    ++ (List.range 4).flatMap (fun d => if d < c.ndim then [] else strayWord (c.word (d + 1)) 0 (8 * (d + 1)))
    ++ (if circular then failAt (c.total % c.esz == 0) 44 else strayWord (w5 &&& 0x0007FFFFFF000000) 0 40)
    ++ failAt (!(c.fmt == 8 && c.cnt 0 % 2 != 0)) 8 ++ failAt (c.base % 8 == 0) 0
    ++ (if c.isBx then [] else (List.range 4).flatMap fun d => failAt (c.word (d + 1) &&& 0x70000 == 0) (8 * (d + 1) + 2))
  if fs.isEmpty && c.reservedOk then failAt ((c.check 0).isNone) 0 else fs

/-- The failing offsets of a STREAMS section: a reserved byte, the first byte of a value that a descriptor may not have, its BASE where
the extent or a corner fails, or the later of two records that clash. DESIGN CHOICE, log 69: a ninth record rejects the image. -/
def streamFaults (tec : Bool) (b : List Byte) (off : Nat) : List Nat :=
  let cs := (streamRecs b).map fun p => StreamCtx.ofDesc 0 0 0 p.2 tec
  failAt (b.length % 72 == 0) (off + b.length / 72 * 72) ++ failAt (decide (b.length ≤ 8 * 72)) (off + 8 * 72)
    ++ cs.zipIdx.flatMap fun (c, k) =>
      (strayBytes b (72 * k) 8 1).map (off + ·)
        ++ ((c.desc.zip descMask).zipIdx.flatMap fun (p, j) => strayWord p.1 p.2 (off + 72 * k + 8 + 8 * j))
        ++ (c.failingBytes.map fun b => off + 72 * k + 8 + b) ++ failAt (!(cs.take k).any (tagClash c)) (off + 72 * k)

/-- The failing offsets of a CBUFS section. DESIGN CHOICE, log 69: 07 R254 has vzas reject two records of one context and a producer
with a BASE; the loader accepts them, and the later record stands. -/
def cbufFaults (layout : List Nat) (b : List Byte) (off : Nat) : List Nat :=
  failAt (b.length % 8 == 0) (off + b.length / 8 * 8) ++ (wordsIn b).zipIdx.flatMap fun (w, k) =>
    let c := CbCtx.ofRecord w
    (strayBytes b (8 * k) 8 0x003FFFFFFFFFFFFF).map (off + ·)
      ++ failAt (c.producer || (c.base % 16 == 0 && decide (layout.getD 3 0 ≤ c.base)
          && decide (c.base + 16 * c.nent * c.esz ≤ layout.getD 4 0))) (off + 8 * k)

/-! ## GROUPS (11 R356, R382) -/

/-- The group records of an image: members are the roles inside the rectangle that are not idle. -/
def Image.groups (i : Image) : List GroupRec :=
  let b := i.data 9 Image.whole
  (List.range (b.length / 16)).map fun k =>
    let w0 := BitVec.ofNat 64 (natAt b (16 * k) 8)
    let w1 := BitVec.ofNat 64 (natAt b (16 * k + 8) 8)
    { key := bitsOf w0 32 32, gid := bitsOf w0 24 8, link := if w0.getLsbD 23 then some (bitsOf w0 8 8) else none
      ch := bitsOf w0 0 3
      roles := (List.range (i.w * i.h)).filter fun r =>
        (i.classOf r).isSome && decide (bitsOf w1 0 11 ≤ r % i.w) && decide (r % i.w ≤ bitsOf w1 16 11)
          && decide (bitsOf w1 32 10 ≤ r / i.w) && decide (r / i.w ≤ bitsOf w1 48 10) }

/-- The role clusters that a group has members in. -/
def GroupRec.clusters (g : GroupRec) (w : Nat) : List Nat := (g.roles.map fun r => r / w / 8 * 144 + r % w / 8).eraseDups

/-- The failing offsets of a GROUPS section; tch is the region's tree-channel mask. Records that name one group count once.
DESIGN CHOICE, log 69: a GID above 63, which vzas does not give, rejects the image. -/
def groupFaults (i : Image) (tch : Nat) (b : List Byte) (off : Nat) : List Nat :=
  let gs := i.groups
  failAt (b.length % 16 == 0) (off + b.length / 16 * 16) ++ gs.zipIdx.flatMap fun (g, k) =>
    let w1 := BitVec.ofNat 64 (natAt b (16 * k + 8) 8)
    let before := (gs.take k).filter (·.ch == g.ch)
    let o := off + 16 * k
    let name (x : GroupRec) : Nat × Nat := (x.key, if x.key = 0 then x.gid else 0)
    let crowded := (g.clusters i.w).any fun c =>
      let there := ((before.filter fun x => (x.clusters i.w).contains c).map name).eraseDups
      !there.contains (name g) && decide (4 ≤ there.length)
    (strayBytes b (16 * k) 8 0xFFFFFFFF3F80FF07 ++ strayBytes b (16 * k + 8) 8 0x03FF03FF07FF07FF).map (off + ·)
      ++ failAt (tch / 2 ^ g.ch % 2 == 1 && !before.any (fun x => x.roles.any g.roles.contains) && !crowded) o
      ++ failAt (decide (bitsOf w1 0 11 ≤ bitsOf w1 16 11) && decide (bitsOf w1 16 11 < i.w)
          && decide (bitsOf w1 32 10 ≤ bitsOf w1 48 10) && decide (bitsOf w1 48 10 < i.h)) (o + 8)

/-- BGM of a role (11 R374): PEN is 1 on every channel. -/
def Image.bgm (i : Image) (role : Nat) : Word :=
  i.groups.foldl (fun m g => if g.roles.contains role then putBits m (8 * g.ch) 8 (2 ^ 7 + 2 ^ 6 + g.gid % 64) else m)
    0x4040404040404040

/-! ## LGRAPHS and BTILES (09 R326; 10 R338, R354) -/

/-- A graph record of a LGRAPHS section: its offset, what it loads into, and the words of its image. -/
structure GraphRec where
  off : Nat
  spec : GraphSpec
  words : List Word
  deriving DecidableEq, Repr

/-- The graph records of a LGRAPHS section's words, and the offset of one that the section cuts short. -/
def graphRecs : Nat → Nat → List Word → List GraphRec × List Nat
  | k + 1, off, r :: header :: rest =>
    let n := bitsOf header 16 10
    if rest.length < n then ([], [off])
    else
      let (gs, bad) := graphRecs k (off + 8 * (n + 2)) (rest.drop n)
      ({ off, spec := { pg := bitsOf r 0 3, np := bitsOf r 3 2 + 1, kind := bitsOf r 5 2 }, words := header :: rest.take n } :: gs, bad)
  | _, off, [_] => ([], [off])
  | _, _, _ => ([], [])

/-- The failing offsets of cell k of a graph: reserved bits, a TAP without TE, a reserved WID, and the sources (10 R331, R338). -/
def cellFaults (k : Nat) (w : Word) (off : Nat) : List Nat :=
  let source (s : Nat) : Bool := !(decide (k ≤ s) && decide (s < 512)) && !(decide (528 ≤ s) && s != 1023)
  strayWord w 0xFFFFFFFFFF800000 off ++ (if w.getLsbD 28 then [] else strayWord (w &&& 0xF800000) 0 off)
    ++ failAt (bitsOf w 29 3 != 7) (off + 3) ++ failAt (source (bitsOf w 38 10)) (off + 4) ++ failAt (source (bitsOf w 54 10)) (off + 6)

/-- The failing offsets of the graphs on a lattice that holds those before them; lpg is the region's page budget. -/
def graphsFail (b : List Byte) (off lpg : Nat) : Lattice → List GraphRec → List Nat
  | _, [] => []
  | t, g :: gs =>
    let o := off + g.off
    let stray := strayWord (g.words.headD 0) 0xFFFF000003FF0000 (o + 8)
    let header := stray ++ match headerReason t g.spec (g.words.headD 0) with
      | some 1 => [o + 10]
      | some 5 => if stray.isEmpty then [o + 14] else []
      | some _ => [o]
      | none => []
    let cells := (g.words.drop 1).zipIdx.flatMap fun (w, k) => cellFaults k w (o + 16 + 8 * k)
    (strayBytes b g.off 8 0x7F).map (off + ·) ++ failAt (g.spec.kind != 3 && decide (g.spec.pg + g.spec.np ≤ lpg)) o ++ header ++ cells
      ++ graphsFail b off lpg (t.loadGraph g.spec g.words) gs

/-- The graphs of a LGRAPHS section. -/
def graphsIn (b : List Byte) : List GraphRec × List Nat := graphRecs (b.length / 8) 0 (wordsIn b)

/-- A lattice without the graphs that occupy a page from pg to pg + np - 1. -/
def Lattice.makeRoom (t : Lattice) (pg np : Nat) : Lattice :=
  { t with lgd := t.lgd.filter fun e => !(decide (e.1 < pg + np) && decide (pg < e.1 + lgdPages e.2)) }

/-- A lattice with the graphs of some LGRAPHS sections loaded over what their pages held. -/
def Lattice.withGraphs (t : Lattice) (bs : List (List Byte)) : Lattice :=
  (bs.flatMap fun b => (graphsIn b).1).foldl (fun t g => (t.makeRoom g.spec.pg g.spec.np).loadGraph g.spec g.words) t

/-- The failing offsets of a LGRAPHS section of a class whose earlier sections are given (10 R354). -/
def lgraphFaults (lpg : Nat) (before : List (List Byte)) (b : List Byte) (off : Nat) : List Nat :=
  failAt (b.length % 8 == 0) (off + b.length / 8 * 8) ++ (graphsIn b).2.map (off + ·)
    ++ graphsFail b off lpg (({ Lattice.reset with budget := 8 } : Lattice).withGraphs before) (graphsIn b).1

/-- A tile record of a BTILES section: its offset, format kind, slot and column count. -/
structure TileRec where
  off : Nat
  kind : Nat
  slot : Nat
  ncol : Nat
  deriving DecidableEq, Repr

/-- The bytes of a tile image: eight columns a group (09 R302). -/
def tileBytes (kind ncol : Nat) : Nat := (ncol + 7) / 8 * (16 * bxWidth kind + 16)

/-- The tile records of a BTILES section, and the offset of one with a reserved value or cut short. -/
def tileRecs (b : List Byte) : Nat → Nat → List TileRec × List Nat
  | 0, _ => ([], [])
  | k + 1, o =>
    if b.length ≤ o then ([], [])
    else
      let header := BitVec.ofNat 64 (natAt b o 8)
      let bf := bitsOf header 4 2
      let t : TileRec := { off := o, kind := bfKind bf, slot := bitsOf header 0 4, ncol := bitsOf header 6 6 }
      if (bf ≠ 0 ∧ bf ≠ 2) ∨ t.ncol = 0 ∨ 32 < t.ncol ∨ (bf = 2 ∧ 8 ≤ t.slot)
          ∨ b.length < o + 8 + tileBytes t.kind t.ncol then ([], [o])
      else if header &&& ~~~0xFFF ≠ 0 then ([], strayWord header 0xFFF o)
      else
        let (ts, bad) := tileRecs b k (o + 8 + tileBytes t.kind t.ncol)
        (t :: ts, bad)

/-- Block n of the tile image at an offset (02 R54). -/
def tileBlock (b : List Byte) (off kind n : Nat) : BxBlock :=
  let (e, sc) := blockOffsets kind n
  bxOfScale kind (natAt b (off + e) (2 * bxWidth kind)) (natAt b (off + sc) 2)

/-! ## The DET scan (12 R389) and the whole check -/

/-- The words that the DET scan rejects, and those with OP 0xC9, by offset. -/
def detFaults (i : Image) : List Nat :=
  let code := (i.sections.filter (·.ty == 1)).flatMap fun t =>
    (wordsIn (i.body t)).zipIdx.map fun (w, k) => (t.off + 8 * k, w)
  let busy := (List.range (i.w * i.h)).filter fun r => (i.classOf r).isSome
  let covered := i.groups.any fun g => g.ch == 0 && busy.all g.roles.contains
  let cas := if covered then [] else code.filter fun p => bitsOf p.2 56 8 == 0xC9
  let forbidden := code.filter fun p =>
    let op := bitsOf p.2 56 8
    op == 0xC8 || op == 0xCA || (decide (0xC0 ≤ op) && decide (op ≤ 0xC7) && bitsOf p.2 47 5 != 0)
  if !i.det then [] else if cas.isEmpty then forbidden.map (·.1) else (lowest (cas.map (·.1))).toList

/-- The failing offsets of a section's content. -/
def Image.contentFaults (i : Image) (tch lpg : Nat) (t : ImageSection) : List Nat :=
  let b := i.body t
  match t.ty with
  | 2 => dataFaults b t.off
  | 3 => layoutFaults b t.off
  | 4 => failAt (b.length == 2 * (i.w * i.h)) t.off ++ (List.range (b.length / 2)).flatMap fun k =>
      failAt (decide (natAt b (2 * k) 2 < i.nclass) || natAt b (2 * k) 2 == 0xFFFF) (t.off + 2 * k)
  | 5 => triggerFaults b t.off
  | 6 => graphFaults i b t.off
  | 7 => streamFaults i.tec b t.off
  | 8 => cbufFaults (i.layout t.cls) b t.off
  | 9 => groupFaults i tch b t.off
  | 10 => lgraphFaults lpg (i.before t) b t.off
  | 11 => (tileRecs b b.length 0).2.map (t.off + ·)
  | _ => []

/-- The failing offsets of the contents of the sections whose entries pass. -/
def Image.sectionFaults (i : Image) (tch lpg : Nat) : List Nat :=
  i.sections.zipIdx.flatMap fun (t, k) => if (i.entryFaults k t).isEmpty then i.contentFaults tch lpg t else []

/-- The offset of the first failing byte of an image, for a region with a tree-channel mask and a page budget; none for an image that
passes (03 R123; 01 R38; 10 R354). A header that fails comes first; the DET scan reads only an image that passes otherwise. -/
def Image.reject (i : Image) (tch lpg : Nat) : Option Nat :=
  (lowest i.headerFaults).or ((lowest (i.tableFaults ++ i.sectionFaults tch lpg)).or (lowest (detFaults i)))

/-! ## What an image makes of a core (14 R433, R438) -/

/-- MODE of every core of the region (05 R160; 14 R450). -/
def Image.mode (i : Image) : BitVec 5 :=
  BitVec.ofNat 5 (i.flags / 8 % 4 + i.flags / 4 % 2 * 4 + i.flags / 2 % 2 * 8 + i.flags % 2 * 16)

/-- The trigger table and TRIG_ORDER of a class (05 R162). -/
def Image.triggers (i : Image) (cls : Nat) : Table Word :=
  let b := i.data 5 cls
  (List.range 32).foldl (fun t k => Table.set 0 k (BitVec.ofNat 64 (natAt b (8 * k) 8)) t) []

def Image.trigOrder (i : Image) (cls : Nat) : Word :=
  let b := i.data 5 cls
  if b.length = 264 then BitVec.ofNat 64 (natAt b 256 8) else 0xFEDCBA9876543210

/-- The circular-buffer contexts of a class (07 R249). -/
def Image.buffers (i : Image) (cls : Nat) : Table CbCtx :=
  (wordsIn (i.data 8 cls)).foldl (fun t w => Table.put (bitsOf w 51 3) (CbCtx.ofRecord w) t) []

/-- A core with the code and data of a class in its LOC. DESIGN CHOICE, log 69: CLASS_CODE is written from LOC 0 whatever its SIZE, past
CODE_LIM too, up to the end of LOC; 03 R121 and R123 hold its SIZE to nothing. -/
def Core.withCode (c : Core) (i : Image) (cls : Nat) : Core :=
  let records := (i.sectionsOf 2 cls).flatMap fun t => (dataRecords (i.body t) t.size 0).map (·.2)
  let c := c.writeLoc 0 ((i.data 1 cls).take 65536)
  let c := records.foldl (fun c (p : Nat × List Byte) => c.writeLoc p.1 p.2) c
  { c with oldWords := [] }

/-- A tensor macro with the B tiles of a BTILES section loaded. -/
def Tensor.withTilesOf (t : Tensor) (b : List Byte) : Tensor :=
  (tileRecs b b.length 0).1.foldl (fun t r =>
    ((t.setColumns r.kind r.slot 0 ((List.range r.ncol).map (tileBlock b (r.off + 8) r.kind))).fillZero r.kind r.slot
      r.ncol).scalesWritten r.kind r.slot) t

/-- A tensor macro with the B tiles of a class loaded (09 R326). -/
def Tensor.withTiles (t : Tensor) (i : Image) (cls : Nat) : Tensor := (i.bodies 11 cls).foldl Tensor.withTilesOf t

/-- A core with what an image gives the control registers and bounds of a role's class. -/
def Core.withConfig (c : Core) (i : Image) (role : Nat) : Core :=
  let cls := (i.classOf role).getD 0xFFFF
  let l := i.layout cls
  { c with
    mode := i.mode, dcl := BitVec.ofNat 4 i.feats, coreRx := BitVec.ofNat 11 (role % i.w),
    coreRy := BitVec.ofNat 10 (role / i.w), bgm := i.bgm role, codeLim := l.getD 0 0, dataBase := l.getD 1 0,
    dataLim := l.getD 2 0, cbufBase := l.getD 3 0, cbufLim := l.getD 4 0
    spillBase := BitVec.ofNat 14 (l.getD 5 0 / 8), spillLim := BitVec.ofNat 14 (l.getD 6 0 / 8)
    rasFloor := BitVec.ofNat 14 (l.getD 5 0 / 8), rasSp := BitVec.ofNat 22 (l.getD 5 0 / 8), ras := []
    trig := i.triggers cls, trigOrder := i.trigOrder cls, trigBusy := 0, lastSource := none, cbs := i.buffers cls, slots := []
    bankWait := 0, router := { c.router with qtags := i.qtags role } }

/-- A core before a load writes its configuration: reset values, with the LOC bytes and the error counts of its hardware and
the router that other regions may cross (05 R152; log 32). -/
def Core.blank (c : Core) : Core :=
  { Core.reset with
    loc := c.loc, locPoison := c.locPoison, hwp := c.hwp, eccWindow := c.eccWindow, eccCount := c.eccCount
    degraded := c.degraded, router := c.router }

/-- A core as a first load makes it (14 R433): id is the region's number, lpg its lattice budget. -/
def Core.loaded (c : Core) (i : Image) (role id lpg : Nat) : Core :=
  let cls := (i.classOf role).getD 0xFFFF
  let c := (c.blank.withConfig i role).withCode i cls
  { c with
    regionId := BitVec.ofNat 32 id
    tensor := Tensor.reset.withTiles i cls
    lattice := ({ Lattice.reset with budget := BitVec.ofNat 4 lpg }).withGraphs (i.bodies 10 cls) }

/-- A core as a step commit makes it (14 R438). -/
def Core.stepped (c : Core) (i : Image) (role : Nat) : Core :=
  let cls := (i.classOf role).getD 0xFFFF
  let c := (c.withConfig i role).withCode i cls
  { c with
    regs := [], flags := 1
    tensor := { c.tensor.withTiles i cls with gang := 0 }
    lattice := { c.lattice.withGraphs (i.bodies 10 cls) with lsel := 0 } }

end Sys2Proof.Machine
end

