-- ==== Sys2Proof/Machine/Link.lean ====
section
/-! DEFINITION. The link-edge engines: group tables, collectives over their fixed tree, the packets that carry them, and the
link instructions (13 R404-R419). -/

namespace Sys2Proof.Machine

/-! ## Group table entries (13 R404, R405) -/

/-- Sub-entry i of an entry whose word 18 is given. -/
def geSub (w18 : Word) (i : Nat) : Nat := bitsOf w18 (8 * i) 8

/-- The number of sub-entries. -/
def geNsub (w18 : Word) : Nat := bitsOf w18 32 3

/-- Whether a list has no repeats. -/
def noRepeats : List Nat → Bool
  | [] => true
  | x :: xs => !xs.contains x && noRepeats xs

/-- The checks of 13 R405 on an entry's words w, with the group table it stands in and this module's rank. Only the first of them
asks for V. -/
def geOk (rank : Nat) (table : Nat → Nat → Word) (w : Nat → Word) : Bool :=
  let w16 := w 16
  let w18 := w 18
  let self := !(geValid w16 && geKind w16 == 1) || (membersOf w).contains rank
  let sched := !geSched w16 || !geAllows w16 1
  let reserved := bitsOf w16 48 12 == 0 && decide (geKind w16 ≤ 1) && bitsOf (w 17) 42 22 == 0 && bitsOf w18 35 29 == 0
    && w 19 == 0
  let shape :=
    if geKind w16 = 0 then bitsOf w18 0 35 == 0
    else
      let n := geNsub w18
      let subs := (List.range n).map (geSub w18)
      let members := subs.flatMap fun e => membersOf (table e)
      decide (2 ≤ n) && decide (n ≤ 4) && subs.all (fun e => geValid (table e 16) && geKind (table e 16) == 0)
        && noRepeats members && (membersOf w).all members.contains && members.all (membersOf w).contains
  self && sched && reserved && shape

/-- The job of the executing core. -/
def State.jobTag (s : State) : Nat := ((s.regionOf s.cur).map (·.job)).getD 0

/-- Whether a job holds a link context (13 R404). -/
def State.hasLink (s : State) (job : Nat) : Bool := s.linkCtxs.any (·.2.job == job)

/-- Whether a collective of the module is outstanding on an entry. -/
def State.geBusy (s : State) (job ge : Nat) : Bool := s.collectives.any fun p => p.2.job == job && p.2.ge == ge

/-- The words of an entry as they are installed: SELF is not taken (13 R404). -/
def geInstall (ws : List Word) : List (Nat × Word) :=
  if geValid (ws.getD 16 0) then
    ws.mapIdx fun i w => (i, if i = 17 then w &&& 0xFFFFFFFF else w)
  else (List.range 20).map fun i => (i, 0)

/-- lkgrp (13 R416). -/
def execLkgrp (x : FormK) : State → Host.Outcome State Fault Refusal :=
  issueSeq (.lkgrp x) do
    let a ← readBase x.a
    let ge := x.ge.toNat
    let ws ← (List.range 20).mapM fun k => do
      return BitVec.ofNat 64 (natOfBytes (← ldlAt ((a.toNat + 8 * k : Nat) : Int) 8))
    let s ← get
    let job := s.jobTag
    if !s.hasLink job then trapWith causeLink (linkVal 1 ge 0)
    if !geOk s.mg.rank.toNat (s.geWord job) (fun i => ws.getD i 0) || s.geBusy job ge then
      trapWith causeLink (linkVal 6 ge 0)
    destReady x.d 1
    modify fun s => s.setGeWords job ge (geInstall ws)
    writeS x.d (s.geWord job ge 16)

/-- An entry that a link instruction uses: REASON 1 unless it is valid with SELF in its MEMBERS (13 R412). -/
def needEntry (ge : Nat) : Op Nat := do
  let s ← get
  if !s.geUsable s.jobTag ge then trapWith causeLink (linkVal 1 ge 0)
  return s.jobTag

/-- The SEQ counter of an entry (13 R404). -/
def State.geSeq (s : State) (job ge : Nat) : BitVec 32 := (s.geWord job ge 17).setWidth 32

/-- lkseq (13 R419). -/
def execLkseq (x : FormK) : State → Host.Outcome State Fault Refusal :=
  issueSeq (.lkseq x) do
    let job ← needEntry x.ge.toNat
    let s ← get
    writeS x.d ((s.geSeq job x.ge.toNat).setWidth 64)

/-- lkseq.set (13 R419). -/
def execLkseqSet (x : FormK) : State → Host.Outcome State Fault Refusal :=
  issueSeq (.lkseqSet x) do
    let a ← readBase x.a
    let ge := x.ge.toNat
    let job ← needEntry ge
    let s ← get
    if s.geBusy job ge then trapWith causeLink (linkVal 6 ge 0)
    destReady x.d 1
    modify fun s => s.setGeWords job ge [(17, a &&& 0xFFFFFFFF)]
    writeS x.d ((s.geSeq job ge).setWidth 64)

/-! ## Units (13 R406-R408) -/

/-- The bytes of one unit. -/
def unitSize (ko fm : Nat) : Nat := if ko = 7 then 48 else if fm = 0 then 8 else if fm = 10 then 88 else 16

/-- A unit split into lanes of w bytes. -/
def lanesOf (w : Nat) (b : List Byte) : List Nat := (List.range (b.length / w)).map fun i => natOfBytes ((b.drop (w * i)).take w)

/-- One lane of an exact operation (13 R406). -/
def combineLane (ko w x y : Nat) : Nat :=
  let s (v : Nat) : Int := signed w v
  match ko with
  | 2 => (x + y) % 2 ^ w
  | 3 => if s y < s x then y else x
  | 4 => if s x < s y then y else x
  | 5 => x &&& y
  | _ => x ||| y

/-- Two cells combined (13 R406). -/
def combineCells (a b : BitVec 384) : BitVec 384 :=
  mkCell (cellNan a || cellNan b) (cellPinf a || cellPinf b) (cellNinf a || cellNinf b) (cellExc a || cellExc b)
    (min (cellCnt a + cellCnt b) (2 ^ 42)) (cellK a + cellK b)

/-- Two units combined, with the flags raised (13 R406, R407). Of a broadcast the partial of the lower member index stands: at the
root it is the source of member index 0. -/
def combineUnit (ko fm : Nat) (a b : List Byte) : List Byte × BitVec 7 :=
  if ko = 0 then (a, 0)
  else if ko = 7 then
    (bytesOfNat 48 (combineCells (BitVec.ofNat 384 (natOfBytes a)) (BitVec.ofNat 384 (natOfBytes b))).toNat, 0)
  else if ko = 1 ∧ fm = 10 then
    let r := addBa40 (ba40OfRecord a) (ba40OfRecord b)
    (r.block.record, r.flags)
  else if ko = 1 then
    let rs := List.zipWith (fun x y => fpAdd fp32 0 false (fpDecode fp32 false x) (fpDecode fp32 false y))
      (lanesOf 4 a) (lanesOf 4 b)
    (rs.flatMap (fun r => bytesOfNat 4 r.1), rs.foldl (fun f r => f ||| r.2) 0)
  else
    let w := if fm = 2 then 4 else 8
    ((List.zipWith (combineLane ko (8 * w)) (lanesOf w a) (lanesOf w b)).flatMap (bytesOfNat w), 0)

/-- Units combined pairwise. -/
def combineUnits (ko fm : Nat) (a b : List (List Byte)) : List (List Byte) × BitVec 7 :=
  let rs := List.zipWith (combineUnit ko fm) a b
  (rs.map (·.1), rs.foldl (fun f r => f ||| r.2) 0)

/-- A unit of FP32 rounded to BF16, as FP32 values again, with its flags (13 R407: WF = 01). -/
def narrowUnit (a : List Byte) : List Byte × BitVec 7 :=
  let rs := (lanesOf 4 a).map fun v => fpRoundVal bf16 0 false (fpDecode fp32 false v)
  (rs.flatMap (fun r => bytesOfNat 4 (r.1 * 2 ^ 16)), rs.foldl (fun f r => f ||| r.2) 0)

/-- Units as a member sends them, or as the root's result (13 R407). -/
def narrowUnits (wf : Nat) (us : List (List Byte)) : List (List Byte) × BitVec 7 :=
  if wf = 1 then
    let rs := us.map narrowUnit
    (rs.map (·.1), rs.foldl (fun f r => f ||| r.2) 0)
  else (us, 0)

/-- A unit on the link: with WF = 01 the BF16 halves of its elements (13 R407). -/
def wireUnit (wf : Nat) (u : List Byte) : List Byte :=
  if wf = 1 then (lanesOf 4 u).flatMap fun v => bytesOfNat 2 (v / 2 ^ 16) else u

/-- A unit from the link: BF16 widens exactly to FP32 (13 R407). -/
def unwireUnit (wf : Nat) (u : List Byte) : List Byte :=
  if wf = 1 then (lanesOf 2 u).flatMap fun v => bytesOfNat 4 (v * 2 ^ 16) else u

/-- The bytes of one unit on the link. -/
def wireSize (ko fm wf : Nat) : Nat := if wf = 1 then 8 else unitSize ko fm

/-! ## The tree of a collective (13 R407) -/

/-- The pairs of the fixed tree over ranks in order, as (level, at, from). -/
def treePairs (base : Nat) (ms : List Nat) : List (Nat × Nat × Nat) :=
  (List.range 10).flatMap fun l =>
    (List.range ms.length).filterMap fun i =>
      if i % 2 ^ (l + 1) = 0 then
        match ms[i]?, ms[i + 2 ^ l]? with
        | some a, some b => some (base + l, a, b)
        | _, _ => none
      else none

/-- Ranks in ascending order. -/
def insertNat (x : Nat) : List Nat → List Nat
  | [] => [x]
  | y :: ys => if x ≤ y then x :: y :: ys else y :: insertNat x ys

/-- The pairs of an entry's tree: within each sub-entry first for a nested one, then over their lowest ranks (13 R407). -/
def State.gePairs (s : State) (job ge : Nat) : List (Nat × Nat × Nat) :=
  let w16 := s.geWord job ge 16
  let w18 := s.geWord job ge 18
  if geKind w16 = 1 then
    let groups := (List.range (geNsub w18)).map fun i => membersOf (s.geWord job (geSub w18 i))
    groups.flatMap (treePairs 0) ++ treePairs 10 ((groups.filterMap (·.head?)).foldl (fun o x => insertNat x o) [])
  else treePairs 0 (membersOf (s.geWord job ge))

/-! ## The route of a packet (13 R409) -/

/-- The pairs at which a rank combines, in their order. -/
def combinesAt (pairs : List (Nat × Nat × Nat)) (r : Nat) : List (Nat × Nat × Nat) := pairs.filter (·.2.1 == r)

/-- The pair on which a rank's partial goes on; none for the root. -/
def parentOf (pairs : List (Nat × Nat × Nat)) (r : Nat) : Option (Nat × Nat × Nat) := pairs.find? (·.2.2 == r)

/-- The way up of a rank's partial: a combine at its parent, and on from there where that is the parent's last combine. -/
def upRoute (pairs : List (Nat × Nat × Nat)) : Nat → Nat → List Hop
  | 0, _ => []
  | fuel + 1, r =>
    match parentOf pairs r with
    | none => []
    | some (lvl, at_, _) =>
      { rank := at_, oph := 1, lvl := lvl % 16 } ::
        if (combinesAt pairs at_).getLast? = some (lvl, at_, r) then upRoute pairs fuel at_ else []

/-- The ranks from the root down to a rank, the root left out. -/
def downPath (pairs : List (Nat × Nat × Nat)) : Nat → Nat → List Nat
  | 0, _ => []
  | fuel + 1, r =>
    match parentOf pairs r with
    | none => []
    | some (_, at_, _) => downPath pairs fuel at_ ++ [r]

/-- The ranks that receive a result, those of the highest level first. -/
def receivers (pairs : List (Nat × Nat × Nat)) : List Nat := (pairs.map (·.2.2)).reverse

/-- The routes on which the root sends a result: one to every rank that passes it on to none, over the pairs, which delivers it
where no route before it did (13 R407, R409). -/
def downRoutes (pairs : List (Nat × Nat × Nat)) : List (List Hop) :=
  let ends := (receivers pairs).filter fun r => (combinesAt pairs r).isEmpty
  (ends.foldl (fun (p : List (List Hop) × List Nat) e =>
    let path := downPath pairs 16 e
    let hop (r : Nat) : Hop :=
      { rank := r, oph := if r = e then 2 else if p.2.contains r then 0 else 3, lvl := 0 }
    (p.1 ++ [path.map hop], path ++ p.2)) ([], [])).1

/-! ## Chunks and packets (13 R409) -/

/-- How many units chunk k of a collective holds. -/
def chunkUnits (count k : Nat) : Nat := min 48 (count - 48 * k)

/-- The number of chunks. -/
def chunkCount (count : Nat) : Nat := (count + 47) / 48

/-- The body of a data frame of at most three 16-byte pieces, the last filled up with zeros (13 R400). Where the flags are, whether it is
the last of its chunk, whether that is the last chunk, and whether its last eight bytes are filling: DESIGN CHOICE, log 26. -/
def dataBody (fm : Nat) (exc : Bool) (flags : BitVec 7) (final : Bool) (bytes : List Byte) (last : Bool) : BitVec 448 :=
  BitVec.ofNat 448 (natOfBytes bytes + fm * 2 ^ 384 + bit exc * 2 ^ 388 + ((bytes.length + 15) / 16 - 1) * 2 ^ 389
    + flags.toNat * 2 ^ 391 + bit last * 2 ^ 398 + bit final * 2 ^ 399 + bit (bytes.length % 16 == 8) * 2 ^ 400)

/-- Bytes cut into data frames of three pieces. -/
def dataBodies (fm : Nat) (exc : Bool) (flags : BitVec 7) (final : Bool) : Nat → List Byte → List (BitVec 448)
  | 0, _ => []
  | fuel + 1, bs =>
    if bs.length ≤ 48 then [dataBody fm exc flags final bs true]
    else dataBody fm exc flags final (bs.take 48) false :: dataBodies fm exc flags final fuel (bs.drop 48)

/-- A packet's header on a port, unless it was the last one sent there. -/
def sendHeader (s : State) (port : Nat) (p : Packet) : State :=
  if (s.port port).lastOut = some p then s
  else
    let s := sendFrame s port 1 p.body
    s.setPort port { s.port port with lastOut := some p }

/-- The port on which a packet leaves for its next hop. -/
def nextPort (s : State) (p : Packet) : Option Nat := p.hops.head?.bind fun h => portFor s h.rank p.chunk

/-- A chunk sent to the first rank of its packet. -/
def sendChunk (s : State) (p : Packet) (exc : Bool) (flags : BitVec 7) (final : Bool) (bytes : List Byte) : State :=
  match nextPort s p with
  | none => s
  | some port => (dataBodies p.fm exc flags final bytes.length bytes).foldl (fun s b => sendFrame s port 2 b) (sendHeader s port p)

/-- The packet of chunk k of a collective on a route. -/
def Collective.packet (c : Collective) (self k : Nat) (hops : List Hop) : Packet :=
  { gkey := c.gkey, seq := c.seq, chunk := k, src := self, ko := c.ko, fm := c.fm, wf := c.wf, hops }

/-- Whether every chunk of a collective has a port to the first hop of a route now; one that has none delays the collective
(13 R412). -/
def canSend (s : State) (c : Collective) (route : List Hop) : Bool :=
  (List.range (chunkCount c.count)).all fun k => (nextPort s (c.packet 0 k route)).isSome

/-- A collective's units sent on a route; its ports remember for whom the frames are (04 R139). -/
def sendUnits (s : State) (c : Collective) (route : List Hop) : State :=
  let n := chunkCount c.count
  let s' := (List.range n).foldl (fun s k =>
    sendChunk s (c.packet s.mg.rank.toNat k route) c.exc c.flags (k + 1 == n)
      (((c.units.drop (48 * k)).take 48).flatMap (wireUnit c.wf))) s
  { s' with ports := s'.ports.map fun (p, b) => (p, b.sentBy c.who ((b.txNext - (s.port p).txNext).toNat)) }

/-- Whether an arrival is of a packet at a hop. -/
def Arrival.isOf (a : Arrival) (p : Packet) (h : Hop) : Bool := a.packet == p && a.hop == h

/-- Whether an engine passes a packet on at a hop: OPH 0 and 3. -/
def Hop.passes (h : Hop) : Bool := h.oph == 0 || h.oph == 3

/-- Whether a packet whose header or data comes has no port on which it can be passed on now: its frame is not taken yet. -/
def stuck (s : State) (p : Packet) (h : Hop) : Bool := h.passes && !p.hops.isEmpty && (nextPort s p).isNone

/-- COLLECTIVE_HEADER_FRAME (13 R409): the head hop entry names this engine and is popped; a packet that only passes on, or
passes on as well, has its header sent to the next rank. -/
def execCollectiveHeaderFrame (port : Nat) (fr : BitVec 512) (s : State) : Host.Outcome State Fault Refusal :=
  let q := packetOf (frBody fr)
  let waits := match q.hops with
    | h :: rest => h.rank == s.mg.rank.toNat && stuck s { q with hops := rest } h
    | [] => false
  if decide (port < 96) && waits then .next s
  else
    frameEvent port 1 fr s fun s _ =>
      match q.hops with
      | h :: rest =>
        let p := { q with hops := rest }
        if h.rank ≠ s.mg.rank.toNat then s.setPort port { s.port port with packet := none }
        else
          let s := s.setPort port { s.port port with packet := some (p, h) }
          if h.passes then
            match nextPort s p with
            | some out => sendHeader s out p
            | none => s
          else s
      | [] => s.setPort port { s.port port with packet := none }

/-- The bytes of a data frame without the filling. -/
def dataPieces (b : BitVec 448) : List Byte := bytesOfNat (16 * (bitsOf b 389 2 + 1) - 8 * bit (b.getLsbD 400)) (bitsOf b 0 384)

/-- A data frame's units joined to the chunk of its packet. -/
def joinData (s : State) (p : Packet) (h : Hop) (b : BitVec 448) : State :=
  let more (a : Arrival) : Arrival :=
    { a with bytes := a.bytes ++ dataPieces b, exc := a.exc || b.getLsbD 388, flags := a.flags ||| b.extractLsb' 391 7,
             closed := a.closed || b.getLsbD 398, final := a.final || b.getLsbD 399 }
  if s.arrivals.any (·.isOf p h) then
    { s with arrivals := s.arrivals.map fun a => if a.isOf p h then more a else a }
  else
    { s with arrivals := s.arrivals ++
        [more { packet := p, hop := h, bytes := [], exc := false, flags := 0, closed := false, final := false }] }

/-- COLLECTIVE_DATA_FRAME (13 R409). -/
def execCollectiveDataFrame (port : Nat) (fr : BitVec 512) (s : State) : Host.Outcome State Fault Refusal :=
  let waits := match (s.port port).packet with
    | some (p, h) => stuck s p h
    | none => false
  if decide (port < 96) && waits then .next s
  else
    frameEvent port 2 fr s fun s b =>
      match (s.port port).packet with
      | none => s
      | some (p, h) =>
        let s := if h.oph = 0 then s else joinData s p h b
        if h.passes then
          match nextPort s p with
          | some out => sendFrame (sendHeader s out p) out 2 b
          | none => s
        else s

/-! ## Progress of a collective (13 R407-R412) -/

/-- The arrivals of a collective. -/
def State.arrived (s : State) (c : Collective) : List Arrival :=
  s.arrivals.filter fun a => a.packet.gkey == c.gkey && a.packet.seq == c.seq

/-- The length of chunk k of a collective. -/
def Collective.chunkBytes (c : Collective) (k : Nat) : Nat := chunkUnits c.count k * wireSize c.ko c.fm c.wf

/-- Whether an arrival disagrees with a collective in KO, FM, WF or count (13 R412). -/
def Collective.disagrees (c : Collective) (a : Arrival) : Bool :=
  a.packet.ko != c.ko || a.packet.fm != c.fm || a.packet.wf != c.wf || decide (chunkCount c.count ≤ a.packet.chunk)
    || decide (c.chunkBytes a.packet.chunk < a.bytes.length)
    || (a.closed && (decide (a.bytes.length < c.chunkBytes a.packet.chunk) || a.final != (a.packet.chunk + 1 == chunkCount c.count)))

/-- The whole units that came for an operation at a level from a rank, with their EXC and flags and the route that is left. -/
def Collective.received (c : Collective) (as : List Arrival) (want : Arrival → Bool) :
    Option (List (List Byte) × Bool × BitVec 7 × List Hop) := do
  let cs ← (List.range (chunkCount c.count)).mapM fun k =>
    as.find? fun a => want a && a.packet.chunk == k && a.bytes.length == c.chunkBytes k
  let n := wireSize c.ko c.fm c.wf
  let units := (cs.mapIdx fun k a =>
    (List.range (chunkUnits c.count k)).map fun i => unwireUnit c.wf ((a.bytes.drop (n * i)).take n)).flatten
  return (units, cs.any (·.exc), cs.foldl (fun f a => f ||| a.flags) 0, (cs.head?.map (·.packet.hops)).getD [])

/-- A collective replaced. -/
def State.setColl (s : State) (n : Nat) (c : Collective) : State := { s with collectives := Table.put n c s.collectives }

/-- The Combine at this engine of the partial that came from a rank; the route left in its packet is the one on which this
engine's partial goes on (13 R407-R409). -/
def Collective.combine (c : Collective) (units : List (List Byte)) (exc : Bool) (flags : BitVec 7) (route : List Hop) :
    Collective :=
  let (us, f) := combineUnits c.ko c.fm c.units units
  { c with
    units := us, combined := c.combined + 1, route, flags := c.flags ||| flags ||| f, exc := c.exc || exc || taints f }

/-- A collective whose combines at this engine are made: the root has the result; any other member sends its partial on, on the
route of the packet that it combined last, or, as its originating engine, on the one derived from the entry (13 R407, R409). -/
def collectiveUp (s : State) (n : Nat) (c : Collective) (pairs : List (Nat × Nat × Nat)) : State :=
  let self := s.mg.rank.toNat
  let (us, f) := narrowUnits c.wf c.units
  if (parentOf pairs self).isNone then s.setColl n { c with units := us, flags := c.flags ||| f, ready := true }
  else
    let route := if c.combined = 0 then upRoute pairs 16 self else c.route
    if c.sentUp || !canSend s c route then s
    else
      let c' := { c with flags := c.flags ||| f, sentUp := true }
      sendUnits (s.setColl n c') { c' with units := us } route

/-- The result sent down the pairs by the root; a member that it is delivered to has been passed over on the way where others
follow (13 R407, R409). -/
def collectiveDown (s : State) (n : Nat) (c : Collective) (pairs : List (Nat × Nat × Nat)) : State :=
  let routes := if (parentOf pairs s.mg.rank.toNat).isNone then downRoutes pairs else []
  if routes.all (canSend s c) then routes.foldl (fun s r => sendUnits s c r) (s.setColl n { c with sentDown := true }) else s

/-- The cells of a .cell collective that another one of the same cluster holds between its read and its write (13 R410). -/
def State.cellsBusy (s : State) (lid dst count : Nat) : Bool :=
  s.collectives.any fun p =>
    p.2.ko == 7 && p.2.read && (s.coreAt p.2.who).map clusterOf == some (clusterOf lid) && decide (p.2.dst < dst + count)
      && decide (dst < p.2.dst + p.2.count)

/-- The cells that a .cell collective contributes. -/
def cellUnits (s : State) (lid a n : Nat) : List (List Byte) :=
  (List.range n).map fun i => bytesOfNat 48 (Table.get 0 (s.cluster (clusterOf lid)).cells (a + i)).toNat

/-- Whether some cell among units carries EXC. -/
def unitsExc (units : List (List Byte)) : Bool := units.any fun u => cellExc (BitVec.ofNat 384 (natOfBytes u))

/-- The read of a .cell collective that another one had held back, once the cells are free (13 R410). -/
def collectiveRead (s : State) (n : Nat) (c : Collective) : State :=
  match s.coreAt c.who with
  | none => s
  | some lid =>
    if s.cellsBusy lid c.dst c.count then s
    else
      let units := cellUnits s lid c.dst c.count
      s.setColl n { c with units, read := true, exc := c.exc || unitsExc units }

/-- What a collective does next: it reads its source, fails on a disagreement, sends a result on, takes a delivered result,
combines, or sends its partial. -/
def collectiveStep (s : State) (n : Nat) (c : Collective) : State :=
  let as := s.arrived c
  let pairs := s.gePairs c.job c.ge
  let mine := combinesAt pairs s.mg.rank.toNat
  if !c.read then collectiveRead s n c
  else if as.any c.disagrees then s.setColl n { c with fail := some 4 }
  else if c.ready then (if c.sentDown then s else collectiveDown s n c pairs)
  else
    match c.received as (fun a => a.hop.oph == 2 || a.hop.oph == 3) with
    | some (us, exc, flags, _) => s.setColl n { c with units := us, exc, flags, ready := true, sentDown := true }
    | none =>
      match mine[c.combined]? with
      | some (lvl, _, child) =>
        match c.received as (fun a => a.hop.oph == 1 && a.hop.lvl == lvl % 16 && a.packet.src == child) with
        | some (us, exc, flags, route) => s.setColl n (c.combine us exc flags route)
        | none => s
      | none => collectiveUp s n c pairs

/-- COLLECTIVE_COMBINE (13 R409): collective c takes its next step. -/
def execCollectiveCombine (c : Nat) (s : State) : Host.Outcome State Fault Refusal :=
  match Table.find s.collectives c with
  | some k => .next (if k.fail.isSome then s else collectiveStep s c k)
  | none => .next s

/-- The destination of a collective written: LOC of its core, or the cells of its cluster (13 R410, R417). -/
def writeResult (s : State) (lid : Nat) (c : Collective) : State :=
  if c.ko = 7 then
    let e := s.cluster (clusterOf lid)
    let cells := (c.units.mapIdx fun i u => (c.dst + i, BitVec.ofNat 384 (natOfBytes u))).foldl
      (fun t p => Table.set 0 p.1 p.2 t) e.cells
    s.setCluster (clusterOf lid) { e with cells }
  else s.setCore lid ((s.core lid).writeLoc c.dst c.units.flatten)

/-- A slot's final word: flags and EXC, or the failure (13 R408, R418). -/
def Collective.slotAfter (c : Collective) : CollSlot :=
  { st := if c.fail.isSome then 3 else 2, ge := BitVec.ofNat 8 c.ge, seq := c.seq
    flags := if c.fail.isSome then 0 else if c.exc then c.flags ||| flagEXC else c.flags
    reason := c.fail.getD 0 }

/-- A collective that ended: the destination is written unless it failed, then the completion token is sent (13 R410,
R412). -/
def endCollective (s : State) (n : Nat) (c : Collective) (lid : Nat) : State :=
  let s := if c.fail.isSome then s else writeResult s lid c
  let k := s.core lid
  let s := s.setCore lid { k with colls := Table.put c.slot c.slotAfter k.colls }
  { s with
    collectives := Table.erase n s.collectives
    arrivals := s.arrivals.filter fun a => !(a.packet.gkey == c.gkey && a.packet.seq == c.seq)
    tokens := s.tokens ++ [(lid, .coll c.slot)] }

/-- Whether a collective has ended at this module. -/
def Collective.over (c : Collective) : Bool := c.fail.isSome || (c.ready && c.sentDown)

/-- COLLECTIVE_COMPLETE (13 R410, R413): while its core is placed and its region LIVE or DRAINING. -/
def execCollectiveComplete (c : Nat) (s : State) : Host.Outcome State Fault Refusal :=
  match Table.find s.collectives c with
  | some k =>
    match s.coreAt k.who with
    | some lid => .next (if k.over && s.serves lid then endCollective s c k lid else s)
    | none => .next s
  | none => .next s

/-- COLLECTIVE_UNREACHABLE (13 R412): the cycles since no port reaches some member are counted; at 2^20 the collective
fails. -/
def execCollectiveUnreachable (c : Nat) (s : State) : Host.Outcome State Fault Refusal :=
  match Table.find s.collectives c with
  | none => .next s
  | some k =>
    let cut := (membersOf (s.geWord k.job k.ge)).any fun r => r != s.mg.rank.toNat && (portsTo s r).isEmpty
    let now := s.cycle.toNat
    if !cut then .next (s.setColl c { k with since := none })
    else
      match k.since with
      | none => .next (s.setColl c { k with since := some now })
      | some t =>
        .next (if k.fail.isNone && decide (t + 2 ^ 20 ≤ now) && !(k.ready && k.sentDown) then s.setColl c { k with fail := some 5 } else s)

/-! ## lkcoll, lkwait, lkstat (13 R415-R418) -/

/-- A collective slot of a core, FREE until a lkcoll takes it. -/
def CollSlot.free : CollSlot := { st := 0, ge := 0, seq := 0, flags := 0, reason := 0 }

def Core.coll (c : Core) (k : Nat) : CollSlot := (Table.find c.colls k).getD CollSlot.free

/-- The status word of a slot (13 R418). -/
def CollSlot.word (c : CollSlot) : Word :=
  BitVec.ofNat 64 (c.st.toNat + c.flags.toNat * 2 ^ 8 + c.reason.toNat * 2 ^ 16 + c.seq.toNat * 2 ^ 32)

/-- The QUEUE_PROTOCOL trap of a slot in the wrong state (13 R417). -/
def collMisuse (k : Nat) (st : BitVec 2) : Op Unit :=
  trapWith causeQueue (BitVec.ofNat 64 (2 ^ 21 + k * 2 ^ 8 + st.toNat))

/-- The wait on a collective slot (13 R415). -/
def collWait (k : Nat) : Word := waitVal 6 0 k

/-- The LOC checks of source and destination: ALIGN for both, then LOC_RANGE (13 R417). -/
def checkSpans (a b : Word) (ko fm n : Nat) : Op Unit := do
  let al := if fm = 0 ∨ fm = 10 then 8 else 16
  let len := n * unitSize ko fm
  if a.toNat % al ≠ 0 then trapWith causeAlign a
  if b.toNat % al ≠ 0 then trapWith causeAlign b
  if 65536 < a.toNat + len then trapWith causeLocRange a
  if 65536 < b.toNat + len then trapWith causeLocRange b

/-- The source units of a collective as they stand at its home now (13 R410). -/
def sourceUnits (s : State) (ko fm a n : Nat) : List (List Byte) :=
  if ko = 7 then cellUnits s s.cur a n
  else (List.range n).map fun i => cellsAt s.me.loc (a + unitSize ko fm * i) (unitSize ko fm)

/-- The number for a new collective: above every one in use. -/
def State.freshColl (s : State) : Nat := s.collectives.foldl (fun m p => max m (p.1 + 1)) 0

/-- lkcoll (13 R417). -/
def collOp (i : Instr) (x : FormK) : State → Host.Outcome State Fault Refusal :=
  issueSeq i do
    let a ← readBase x.a
    let b ← readBase x.b
    let c ← readBase x.c
    let k := bitsOf x.imm 0 2
    let ge := x.ge.toNat
    let ko := x.ko.toNat
    let fm := x.fm.toNat
    let slot := (← getMe).coll k
    if slot.st ≠ 0 then collMisuse k slot.st
    if c = 0 ∨ 4096 < c.toNat then trapWith causeReserved c
    let n := c.toNat
    if ko = 7 then
      if 256 < a.toNat + n then trapWith causeAtomic (1 ||| (a.setWidth 48).setWidth 64 <<< 16)
    else checkSpans a b ko fm n
    let job ← needEntry ge
    let s ← get
    let w16 := s.geWord job ge 16
    if !geAllows w16 ko || (ko == 1 && geSched w16) then trapWith causeLink (linkVal 3 ge 0)
    if ko ≠ 7 ∧ s.me.locPoisoned a.toNat (n * unitSize ko fm) then trapWith causePoison a
    if x.aq = 1 then waitUnless (s.scopePerformed s.cur x.sc.toNat) (collWait k)
    let seq := s.geSeq job ge
    let read := !(ko == 7 && s.cellsBusy s.cur a.toNat n)
    let units := if read then sourceUnits s ko fm a.toNat n else []
    let exc := s.me.fpFlagsRead.getLsbD 6 || (ko == 7 && unitsExc units)
    let coll : Collective :=
      { who := (s.memberOf s.cur).getD (0, 0), slot := k, job, ge, gkey := geKey w16, seq, ko, fm
        wf := bitsOf x.imm 2 2, count := n, dst := if ko = 7 then a.toNat else b.toNat, read, units, combined := 0
        route := [], sentUp := false, ready := false, sentDown := false, flags := 0, exc, fail := none, since := none }
    set ((s.setGeWords job ge [(17, (seq + 1).setWidth 64)]).setColl s.freshColl coll)
    modMe fun c => { c with
      colls := Table.put k { CollSlot.free with st := 1, ge := x.ge, seq } c.colls, tokens := c.tokens.erase (.coll k) }

/-- lkcoll.bcast (13 R406, R417). -/
def execLkcollBcast (x : FormK) : State → Host.Outcome State Fault Refusal := collOp (.lkcollBcast x) x
/-- lkcoll.fsum (13 R407, R417). -/
def execLkcollFsum (x : FormK) : State → Host.Outcome State Fault Refusal := collOp (.lkcollFsum x) x
/-- lkcoll.isum (13 R406, R417). -/
def execLkcollIsum (x : FormK) : State → Host.Outcome State Fault Refusal := collOp (.lkcollIsum x) x
/-- lkcoll.min (13 R406, R417). -/
def execLkcollMin (x : FormK) : State → Host.Outcome State Fault Refusal := collOp (.lkcollMin x) x
/-- lkcoll.max (13 R406, R417). -/
def execLkcollMax (x : FormK) : State → Host.Outcome State Fault Refusal := collOp (.lkcollMax x) x
/-- lkcoll.and (13 R406, R417). -/
def execLkcollAnd (x : FormK) : State → Host.Outcome State Fault Refusal := collOp (.lkcollAnd x) x
/-- lkcoll.or (13 R406, R417). -/
def execLkcollOr (x : FormK) : State → Host.Outcome State Fault Refusal := collOp (.lkcollOr x) x
/-- lkcoll.cell (13 R406, R417). -/
def execLkcollCell (x : FormK) : State → Host.Outcome State Fault Refusal := collOp (.lkcollCell x) x

/-- A slot freed, with the token that its command sent. -/
def freeSlotOf (k : Nat) : Op Unit :=
  modMe fun c => { c with colls := Table.erase k c.colls, tokens := c.tokens.erase (.coll k) }

/-- lkwait (13 R408, R418): the wait observes the completion token, an acquire; flags and EXC are ORed as they were received. -/
def execLkwait (x : FormK) : State → Host.Outcome State Fault Refusal :=
  issueSeq (.lkwait x) do
    let k := bitsOf x.imm 0 2
    let c ← getMe
    let slot := c.coll k
    if slot.st = 0 then collMisuse k 0
    waitUnless (decide (2 ≤ slot.st.toNat) && c.tokens.contains (.coll k)) (collWait k)
    if slot.st = 3 then
      freeSlotOf k
      trapWith causeLink (linkVal slot.reason.toNat slot.ge.toNat slot.seq)
    destReady x.d 1
    freeSlotOf k
    writeS x.d slot.word
    modMe fun c => { c with fpFlags := c.fpFlags ||| slot.flags }
    acquire

/-- lkstat.slot (13 R418). -/
def execLkstatSlot (x : FormK) : State → Host.Outcome State Fault Refusal :=
  issueSeq (.lkstatSlot x) do
    writeS x.d ((← getMe).coll (bitsOf x.imm 0 2)).word

/-- The ranks that the rank map reaches through a port (13 R418). -/
def ranksThrough (m : Mgmt) (port : Nat) : List Nat := (m.rankmap.filter (·.2.getLsbD port)).map (·.1)

/-- L as lkstat.port reports it: that to the rank at the far end of a cable, else the largest to any rank that the rank map reaches
through the port (13 R418). -/
def LinkPort.latency (p : LinkPort) (m : Mgmt) (port : Nat) : Nat :=
  if p.switch then (ranksThrough m port).foldl (fun l r => max l (Table.get 0 p.lats r)) 0 else Table.get 0 p.lats p.rank

/-- The state word of a link port (13 R418). -/
def portWord (m : Mgmt) (port : Nat) (p : LinkPort) : Word :=
  let low :=
    if p.up then 1 + (if p.switch then 0 else p.rank % 2 ^ 10) * 2 ^ 4 + p.latency m port % 2 ^ 16 * 2 ^ 16 else 0
  BitVec.ofNat 64 (low + bit p.switch * 2 + p.retries.toNat * 2 ^ 32)

/-- lkstat.port (13 R418). -/
def execLkstatPort (x : FormK) : State → Host.Outcome State Fault Refusal :=
  issueSeq (.lkstatPort x) do
    let a ← readBase x.a
    if 96 ≤ a.toNat then trapWith causeReserved a
    let s ← get
    writeS x.d (portWord s.mg a.toNat (s.port a.toNat))

end Sys2Proof.Machine
end

