-- ==== Sys2Proof/Machine/Launch.lean ====
section
/-! DEFINITION. Work-queue entries, the walk of a job's tree of region control blocks with its checks, and the LAUNCH that
makes a job and its regions (14 R421-R425; 01 R20, R21, R33; 11 R357; 13 R405). -/

namespace Sys2Proof.Machine

/-! ## Work-queue entries (14 R421, R422; 15 R452-R454) -/

/-- 2^LOG of a ring's configuration register (15 R452). -/
def ringSize (cfg : Word) : Nat := 2 ^ bitsOf cfg 4 4

/-- The host address of a ring (15 R452). -/
def ringBase (cfg : Word) : Nat := bitsOf cfg 12 52 * 4096

/-- Whether a queue's completion ring is full (15 R454). -/
def Queue.full (k : Queue) : Bool := (k.cqtail.toNat + 1) % ringSize k.cqcfg == bitsOf k.cqctl 0 16 % ringSize k.cqcfg

/-- A work-queue entry: TYPE, JOBTAG, ARG0, ARG1, and whether every byte that must be zero is. -/
structure QueueEntry where
  ty : Nat
  tag : Nat
  arg0 : Nat
  arg1 : Nat
  clean : Bool
  deriving DecidableEq, Repr

/-- The entry in 64 bytes (14 R421). -/
def entryOf (b : List Byte) : QueueEntry :=
  let ty := natAt b 0 2
  { ty, tag := natAt b 8 8, arg0 := natAt b 16 8, arg1 := natAt b 24 8
    clean := natAt b 2 6 == 0 && natAt b 32 32 == 0 && (ty == 6 || natAt b 24 8 == 0) }

/-- The next entry of a queue: the module accepts entries, the ring is in use and holds one, and the completion ring has
room (14 R421; 15 R452-R455). -/
def State.nextEntry (s : State) (q : Nat) : Option QueueEntry :=
  let k := s.queue q
  if s.mg.ready && s.mg.waferOn && k.wqcfg.getLsbD 0 && !k.full && k.wqhead != k.tail then
    some (entryOf (cellsAt s.hostMem (ringBase k.wqcfg + 64 * k.wqhead.toNat) 64))
  else none

/-- How many turns a queue is away from the one whose turn it is (14 R421). -/
def State.turnsTo (s : State) (q : Nat) : Nat := (q + 32768 - s.queueTurn) % 32768

/-- Whether a queue is served next: no queue between the one whose turn it is and this one has an entry to take (14 R421). -/
def State.servesNext (s : State) (q : Nat) : Bool :=
  s.queues.all fun e => decide (s.turnsTo q ≤ s.turnsTo e.1) || (s.nextEntry e.1).isNone

/-- The entry taken from its queue; the turn passes to the next queue (14 R421). -/
def State.takeEntry (s : State) (q : Nat) : State :=
  let k := s.queue q
  { s.setQueue q { k with wqhead := BitVec.ofNat 16 ((k.wqhead.toNat + 1) % ringSize k.wqcfg) } with queueTurn := (q + 1) % 32768 }

/-- The record of an entry that cannot act (14 R422). -/
def badEntry (s : State) (q : Nat) (e : QueueEntry) : State :=
  s.post q (recordWords e.tag (if e.ty = 1 then 1 else 2) 15 0 0 0 0) .now

/-- The event of an entry of a type, at the queue that is served next: act is given the state after the entry was taken. An entry of an unknown TYPE, or with a
byte that must be zero, cannot act, whichever event takes it. -/
def queueEvent (ty q : Nat) (s : State) (act : State → QueueEntry → State) : Host.Outcome State Fault Refusal :=
  if 32768 ≤ q then .fault .noSuchUnit
  else
    match (s.nextEntry q).filter fun _ => s.servesNext q with
    | none => .next s
    | some e =>
      let known := decide (1 ≤ e.ty) && decide (e.ty ≤ 6)
      if e.ty ≠ ty ∧ known then .next s
      else if !known || !e.clean then .next (badEntry (s.takeEntry q) q e)
      else .next (act (s.takeEntry q) e)

/-! ## Nodes (14 R423, R425; 01 R20) -/

/-- Why a job is rejected: STATUS, INFO and ADDR of its record (14 R422). -/
structure Reject where
  status : Nat
  info : Nat
  addr : Nat
  deriving DecidableEq, Repr

/-- REJECT_NODE of a node. -/
def rejectNode (va : Nat) : Reject := { status := 1, info := 0, addr := va }

/-- The words of the root, which names the page table that every other address of the job is translated by: ARG0 read as a
physical address (log 30). -/
def rootWords (s : State) (va : Nat) : Option (List Word) :=
  if va % 128 = 0 then (extRead s va 128).map wordsIn else none

/-- The words of a node. -/
def nodeWords (s : State) (root va : Nat) : Option (List Word) :=
  if va % 128 = 0 ∧ va < 2 ^ 57 then (vaSpan s root va 128).map wordsIn else none

/-- The bits that each word of a node may set, by kind and place in the tree (14 R423). -/
def nodeMask (leaf isRoot : Bool) : List Word :=
  let va : Word := 0x01FFFFFFFFFFFFFF
  let r (m : Word) : Word := if isRoot then m else 0
  let l (m : Word) : Word := if leaf then m else 0
  [0xFFFFFF, va, 0x000007FFFFFFFFFF, va, va, 0xFFFFFFFF, 0xFFFFF, r 0x000FFFFFFFFFF000, r va,
    r 0xFFFFFFFFFFFFFFFF, r 0xFFFFF, l va, l va, l 0xFFFFFFFFFFFFFFFF, l 0x7FFFFF, l 0xF1F]

/-- The limits that a node's attributes are held to: its parent's values, or the widest ones at the root (01 R20). -/
def rootLimits : Node :=
  { va := 0, parent := none, leaf := false, cores := 1032192, brim := 255, lpg := 8, tch := 255, prio := 7, fdom := 0,
    pflim := 2000, fring := 0, frn := 0, fvec := 0, images := [], deps := [], saveva := 0, arg := 0, drole := 0, dqn := 0 }

/-- The virtual addresses of node i and its ancestors. -/
def lineage (nodes : List Node) : Nat → Nat → List Nat
  | 0, _ => []
  | k + 1, i =>
    match nodes[i]? with
    | none => []
    | some n => n.va :: (match n.parent with
      | some p => lineage nodes k p
      | none => [])

/-- A node from its words, its attributes inherited: none when a check of 14 R425 fails that concerns this node alone. lists
gives the addresses of its children or images, and of its dependences. -/
def makeNode (nodes : List Node) (va : Nat) (parent : Option Nat) (ws : List Word) (images deps : List Nat) : Option Node :=
  let w (k : Nat) : Word := ws.getD k 0
  let isRoot := parent.isNone
  let leaf := bitsOf (w 0) 0 8 == 2
  let up := ((parent.bind (nodes[·]?))).getD rootLimits
  let ov (b v inherited : Nat) : Nat := if (w 0).getLsbD b then v else inherited
  let n : Node :=
    { va, parent, leaf
      cores := ov 16 (bitsOf (w 2) 0 20) up.cores
      brim := ov 17 (bitsOf (w 2) 20 8) up.brim
      lpg := ov 18 (bitsOf (w 2) 28 4) up.lpg
      tch := ov 19 (bitsOf (w 2) 32 8) up.tch
      prio := ov 20 (bitsOf (w 2) 40 3) up.prio
      fdom := ov 21 (if w 3 = 0 then va else (w 3).toNat) up.fdom
      pflim := ov 22 (if w 6 = 0 then 2000 else (w 6).toNat) up.pflim
      fring := (w 4).toNat, frn := bitsOf (w 5) 0 16, fvec := bitsOf (w 5) 16 16
      images, deps, saveva := (w 12).toNat, arg := w 13, drole := bitsOf (w 14) 0 20, dqn := bitsOf (w 14) 20 3 }
  let shape := (bitsOf (w 0) 0 8 == 1 || leaf) && (w 0).getLsbD 23 == isRoot
    && (if leaf then bitsOf (w 0) 8 8 == 0 else bitsOf (w 0) 8 8 != 0)
    && (List.zipWith (fun x m => x &&& ~~~m == 0) ws (nodeMask leaf isRoot)).all id
  let limits := decide (1 ≤ n.cores) && decide (n.cores ≤ up.cores) && decide (n.brim ≤ up.brim) && decide (n.lpg ≤ up.lpg)
    && decide (n.tch &&& up.tch = n.tch) && decide (n.prio ≤ up.prio)
    && (va :: (parent.map (lineage nodes nodes.length)).getD []).contains n.fdom && decide (w 6 ≤ 1000000)
  let fields := (w 4).toNat % 64 == 0 && (w 4 == 0 || decide (2 ≤ n.frn))
  let atRoot := !isRoot || (bitsOf (w 0) 16 7 == 127 && (w 9 != 0 || w 10 != 0))
  let atLeaf := !leaf || (w 12 != 0 && decide (1 ≤ bitsOf (w 15) 0 5) && decide (bitsOf (w 15) 0 5 ≤ 16))
  if shape && limits && fields && atRoot && atLeaf then some n else none

/-- n addresses of 8 bytes in a list of a job's memory. -/
def addressList (s : State) (root va n : Nat) : Option (List Nat) :=
  (vaSpan s root va (8 * n)).map fun b => (wordsIn b).map (·.toNat)

/-- A node visited: the node and the addresses of its children. -/
def visitNode (s : State) (root : Nat) (nodes : List Node) (va : Nat) (parent : Option Nat) (ws : List Word) :
    Option (Node × List Nat) := do
  let w (k : Nat) : Word := ws.getD k 0
  let leaf := bitsOf (w 0) 0 8 == 2
  let links ← addressList s root (bitsOf (w 1) 0 57) (if leaf then bitsOf (w 15) 0 5 else bitsOf (w 0) 8 8)
  let deps ← if leaf then addressList s root (bitsOf (w 11) 0 57) (bitsOf (w 15) 8 4) else some []
  let n ← makeNode nodes va parent ws (if leaf then links else []) deps
  return (n, if leaf then [] else links)

/-- The walk of the tree in depth-first order (01 R21): fuel bounds the nodes, which lie 128 bytes apart. -/
def walkNodes (s : State) (root : Nat) : Nat → List (Nat × Option Nat) → List Node → Except Reject (List Node)
  | 0, _, ns => .ok ns
  | _ + 1, [], ns => .ok ns
  | k + 1, (va, p) :: rest, ns =>
    if ns.any (·.va == va) then .error (rejectNode va)
    else
      match (nodeWords s root va).bind (visitNode s root ns va p) with
      | none => .error (rejectNode va)
      | some (n, kids) => walkNodes s root k (kids.map (fun v => (v, some ns.length)) ++ rest) (ns ++ [n])

/-! ## Checks over the tree (14 R425) -/

/-- An image of a leaf read and checked, and held against the leaf's core budget. DESIGN CHOICE, log 69: an image whose header or
FILESIZE bytes cannot be read is rejected with REJECT_IMAGE and INFO 0. -/
def leafImage (s : State) (root : Nat) (n : Node) (va : Nat) : Except Reject Image :=
  match readImage s root va with
  | none => .error { status := 2, info := 0, addr := va }
  | some i =>
    match i.reject n.tch n.lpg with
    | some off => .error { status := 2, info := off, addr := va }
    | none => if n.cores < i.w * i.h then .error (rejectNode n.va) else .ok i

/-- A leaf with its images. -/
structure LeafImages where
  node : Node
  images : List Image
  deriving DecidableEq, Repr

/-- Every leaf in depth-first order: its dependences are leaves of the job, its images pass. -/
def checkLeaves (s : State) (root : Nat) (nodes : List Node) : List Node → Except Reject (List LeafImages)
  | [] => .ok []
  | n :: rest => do
    if !n.leaf then checkLeaves s root nodes rest
    else if !n.deps.all (fun d => nodes.any fun m => m.leaf && m.va == d) then .error (rejectNode n.va)
    else
      let images ← n.images.mapM (leafImage s root n)
      return { node := n, images } :: (← checkLeaves s root nodes rest)

/-- The group records of a leaf's images. -/
def LeafImages.groups (l : LeafImages) : List GroupRec := l.images.flatMap (·.groups)

/-- The first leaf whose records give a KEY another channel than a record before it did (11 R357). -/
def keyConflict : List (Nat × Nat) → List LeafImages → Option Nat
  | _, [] => none
  | seen, l :: rest =>
    let mine := (l.groups.filter (·.key != 0)).map fun g => (g.key, g.ch)
    if mine.any (fun p => (seen ++ mine).any fun q => q.1 == p.1 && q.2 != p.2) then some l.node.va
    else keyConflict (seen ++ mine) rest

/-- The leaves that a leaf depends on, at any distance up to k. -/
def reaches (leaves : List LeafImages) : Nat → List Nat → List Nat
  | 0, vs => vs
  | k + 1, vs => reaches leaves k (vs ++ ((leaves.filter fun l => vs.contains l.node.va).flatMap (·.node.deps))).eraseDups

/-- The first leaf that depends on itself (01 R33). -/
def depCycle (leaves : List LeafImages) : Option Nat :=
  (leaves.find? fun l => (reaches leaves leaves.length l.node.deps).contains l.node.va).map (·.node.va)

/-- The records of a link table image: entry index and 20 words (13 R405). -/
def linkRecords (b : List Byte) : List (Nat × List Word) :=
  (List.range (natAt b 0 8 % 512)).map fun k =>
    (natAt b (8 + 168 * k) 8, wordsIn ((b.drop (16 + 168 * k)).take 160))

/-- A group table with records installed in order; none when one fails its checks (13 R405). -/
def installRecords (rank : Nat) : Table Word → List (Nat × List Word) → Option (Table Word)
  | t, [] => some t
  | t, (ge, ws) :: rest =>
    if 256 ≤ ge ∨ !geOk rank (fun e k => Table.get 0 t (20 * e + k)) (fun k => ws.getD k 0) then none
    else installRecords rank ((geInstall ws).foldl (fun t p => Table.set 0 (20 * ge + p.1) p.2 t) t) rest

/-- The link table image at an address, if it passes its checks (13 R405). -/
def readLinkTable (s : State) (root va : Nat) : Option (List Byte) := do
  let header ← vaSpan s root va 8
  let n := natAt header 0 8
  if n = 0 ∨ 256 < n then none
  else
    let b ← vaSpan s root va (8 + 168 * n)
    let _ ← installRecords s.mg.rank.toNat [] (linkRecords b)
    return b

/-! ## LAUNCH (14 R422, R425) -/

/-- A job that passed its walk: its root's words, its leaves with their images, its link table image. -/
structure Walked where
  words : List Word
  nodes : List Node
  leaves : List LeafImages
  linkTab : List Byte
  deriving DecidableEq, Repr

/-- The walk of 01 R21 and 14 R425 from a root. -/
def walkJob (s : State) (va : Nat) : Except Reject Walked :=
  match rootWords s va with
  | none => .error (rejectNode va)
  | some ws =>
    let root := (ws.getD 7 0).toNat
    let linkVa := (ws.getD 8 0).toNat
    match visitNode s root [] va none ws with
    | none => .error (rejectNode va)
    | some (n, kids) => do
      let nodes ← walkNodes s root (2 ^ 50) (kids.map fun v => (v, some 0)) [n]
      let leaves ← checkLeaves s root nodes nodes
      let linkTab := if linkVa = 0 then some [] else readLinkTable s root linkVa
      match keyConflict [] leaves, depCycle leaves, linkTab with
      | none, none, some linkTab => return { words := ws, nodes, leaves, linkTab }
      | some v, _, _ => .error (rejectNode v)
      | none, some v, _ => .error (rejectNode v)
      | none, none, none => .error (rejectNode va)

/-- A number for a new region: above every one in use (log 33). -/
def State.freshRegion (s : State) : Nat := s.regions.foldl (fun m r => max m (r.id + 1)) 1

/-- The region of a leaf, EMPTY and waiting (14 R426). -/
def newRegion (id job : Nat) (l : LeafImages) : Region :=
  { id, job, leaf := l.node.va, st := .empty, resuming := false, x0 := 0, y0 := 0, w := (l.images.head?.map (·.w)).getD 0,
    h := (l.images.head?.map (·.h)).getD 0, part := 0, bind := [], idle := [], ports := [], inject := [],
    keys := ((l.groups.map (·.key)).filter (· != 0)).eraseDups, groups := [], laid := [], cfgseq := 0, step := .none,
    passages := [], fault := none, saved := [], savedStreams := [], savedCells := [], savedFlits := [], savedEntries := [], evicted := false,
    attempts := 0, pending := [], gathered := [], halts := [], stopFrom := none, latest := none, done := none }

/-- The module with a job that passed its walk. -/
def State.addJob (s : State) (tag q : Nat) (w : Walked) : State :=
  let word (k : Nat) : Word := w.words.getD k 0
  let job : Job :=
    { tag, queue := q, ptroot := (word 7).toNat, linkTab := w.linkTab, parts := (word 9).toNat + (word 10).toNat * 2 ^ 64
      nodes := w.nodes, usesLink := word 8 != 0 || w.leaves.any (fun l => l.groups.any (·.link.isSome)), launch := s.launches
      cancelled := false }
  let base := s.freshRegion
  { s with jobs := s.jobs ++ [job], launches := s.launches + 1
           regions := s.regions ++ w.leaves.mapIdx fun k l => newRegion (base + k) tag l }

/-- A LAUNCH entry acts (14 R422, R425). -/
def launchJob (q : Nat) (s : State) (e : QueueEntry) : State :=
  if s.jobs.any (·.tag == e.tag) then badEntry s q e
  else
    match walkJob s e.arg0 with
    | .error r => s.post q (recordWords e.tag 1 r.status 0 r.info (BitVec.ofNat 64 r.addr) 0) .now
    | .ok w => (s.addJob e.tag q w).post q (recordWords e.tag 1 0 0 0 0 0) .now

/-- LAUNCH (14 R425). -/
def execLaunch (q : Nat) (s : State) : Host.Outcome State Fault Refusal := queueEvent 1 q s (launchJob q)

end Sys2Proof.Machine
end

