-- ==== Sys2Proof/Machine/Message.lean ====
section
/-! DEFINITION. The router instructions (08 R292-R299). -/

namespace Sys2Proof.Machine

/-- The executing core's router changed. -/
def modRt (f : Router → Router) : Op Unit := modMe fun c => { c with router := f c.router }

/-- The release of a send with RL = 1 (08 R293; 04 R144). -/
def sendRelease (x : FormQ) : Op Unit := if x.rl = 1 then releaseAt x.sc.toNat else pure ()

/-- Payload of sendw2 (08 R293). -/
def sendPayload (x : FormQ) (a b : Word) : Quad :=
  let v : Quad := if x.fm = 0 then a.setWidth 128 else b ++ a
  if x.fm = 7 then v &&& 0xFFFFFFFFFFFFFFFFFFFFFFFF else v

/-- sendw2 (08 R293). -/
def execSendw2 (x : FormQ) : State → Host.Outcome State Fault Refusal :=
  issueSeq (.sendw2 x) do
    let a ← readS x.a
    let b ← readS x.b
    let e ← readS x.c
    checkTag x.tag.toNat
    sendRelease x
    waitRoom 1
    let c ← getMe
    let fm := x.fm.toNat
    let isBx := decide (6 ≤ fm) && decide (fm ≤ 8)
    let fmt := if isBx then bxFmt (8 - fm) c.tec else fm
    let scale : BitVec 32 := e.setWidth 32
    pushFlits [mkFlit fmt x.kd.toNat (c.fpFlagsRead.getLsbD 6) (x.rl == 1) (x.imm.setWidth 4) (bitsOf x.imm 4 3)
      (if isBx then bxScale fmt scale else scale) x.tag (sendPayload x a b)]

/-- sendm (08 R294). -/
def execSendm (x : FormQ) : State → Host.Outcome State Fault Refusal :=
  issueSeq (.sendm x) do
    let a ← readS x.a
    let b ← readS x.b
    let words ← (List.range 6).mapM fun k => do
      return BitVec.ofNat 64 (natOfBytes (← ldlAt ((b.toNat + 8 * k : Nat) : Int) 8))
    checkTag x.tag.toNat
    sendRelease x
    waitRoom 4
    let exc := (← getMe).fpFlagsRead.getLsbD 6
    let flit (kind : Nat) (rel : Bool) (q : Quad) : Flit := mkFlit 11 kind exc rel 0 0 0 x.tag q
    let w (k : Nat) : Word := words.getD k 0
    pushFlits [flit 1 (x.rl == 1) (a.setWidth 128), flit 0 false (w 1 ++ w 0), flit 0 false (w 3 ++ w 2),
      flit 0 false (w 5 ++ w 4)]

/-! ## Queues (08 R295) -/

/-- qflush (08 R295). -/
def execQflush (x : FormQ) : State → Host.Outcome State Fault Refusal :=
  issueSeq (.qflush x) do
    let n := x.qn.toNat
    destReady x.d 1
    let c ← getMe
    modMe fun c => { c.setQueue n [] with half := putBits c.half n 1 0 }
    writeS x.d (BitVec.ofNat 64 (c.queue n).length)

/-- View 2 of qpeek without the count: the sideband, the tag and the half mark of the head (08 R295). -/
def headView (c : Core) (n : Nat) (f : Flit) : Nat :=
  f.side.toNat + f.tag.toNat * 2 ^ 48 + bit (c.half.getLsbD n) * 2 ^ 59

/-- What qpeek gives of a queue (08 R295). -/
def peekView (c : Core) (n view : Nat) : Word :=
  match c.queue n with
  | [] => 0
  | f :: rest =>
    match view with
    | 0 => f.payload.extractLsb' 0 64
    | 1 => f.payload.extractLsb' 64 64
    | _ => BitVec.ofNat 64 (headView c n f + (rest.length + 1) * 2 ^ 55)

/-- qpeek (08 R295). -/
def execQpeek (x : FormQ) : State → Host.Outcome State Fault Refusal :=
  issueSeq (.qpeek x) do
    writeS x.d (peekView (← getMe) x.qn.toNat (bitsOf x.imm 0 2))

/-- The word of qstat (08 R295). -/
def queueStatus (c : Core) : Word :=
  let counts := (List.range 8).foldl (fun r n => r + (c.queue n).length * 2 ^ (4 * n)) 0
  BitVec.ofNat 64 (counts + (8 - c.router.outq.length) * 2 ^ 32 + c.half.toNat * 2 ^ 36 + c.inbox.length * 2 ^ 44)

/-- qstat (08 R295). -/
def execQstat (x : FormQ) : State → Host.Outcome State Fault Refusal :=
  issueSeq (.qstat x) do
    writeS x.d (queueStatus (← getMe))

/-- qdrop; a bank-ownership token hands its bank over (08 R295; 14 R439). -/
def execQdrop (x : FormQ) : State → Host.Outcome State Fault Refusal :=
  issueSeq (.qdrop x) do
    let n := x.qn.toNat
    let f ← headOf n
    destReady x.d 1
    let view := headView (← getMe) n f
    popHead n 1
    if f.kind = 4 then
      modMe fun c => { c with bankWait := putBits c.bankWait (bitsOf f.payload 0 3) 1 0, oldWords := [] }
    writeS x.d (BitVec.ofNat 64 view)

/-! ## Route entries and tags (08 R296) -/

/-- rtget (08 R296). -/
def execRtget (x : FormQ) : State → Host.Outcome State Fault Refusal :=
  issueSeq (.rtget x) do
    writeS x.d ((← getMe).route x.tag.toNat)

/-- Entry t written as e after the checks of 08 R296; s0 is the state before the instruction, in which it waits while its
delay queue admits no further flit. -/
def writeEntry (s0 : State) (t : Nat) (e : Word) : Op Unit := do
  let c ← getMe
  let old := c.route t
  if !entryFits c.router t e then trapWith causeReserved e
  if (entOp old = 1 ∧ (c.router.sum t).busy) ∨ (entOp old = 2 ∧ (c.router.adapter t).pending.isSome) then
    trapWith causeQueue (BitVec.ofNat 64 (2 ^ 6 + 2 ^ 7 + t * 2 ^ 16))
  if entDmd e ≠ entDmd old ∧ Table.get [] c.router.delays t ≠ [] then
    set s0
    modRt fun rt => { rt with rtsetWait := some t }
    throw (.hold (BitVec.ofNat 64 (6 + t * 2 ^ 16)))
  modRt fun rt => { rt with routes := Table.set 0 t e rt.routes, written := t :: rt.written.filter (· != t), rtsetWait := none }

/-- rtset (08 R296). -/
def execRtset (x : FormQ) : State → Host.Outcome State Fault Refusal :=
  issueSeq (.rtset x) do
    let s0 ← get
    let a ← readS x.a
    writeEntry s0 x.tag.toNat a

/-- dmqset (08 R296). -/
def execDmqset (x : FormQ) : State → Host.Outcome State Fault Refusal :=
  issueSeq (.dmqset x) do
    let s0 ← get
    let t := x.tag.toNat
    writeEntry s0 t (putBits ((← getMe).route t) 26 8 (bitsOf x.imm 0 8))

/-- tagset (08 R296). -/
def execTagset (x : FormQ) : State → Host.Outcome State Fault Refusal :=
  issueSeq (.tagset x) do
    modRt fun rt => { rt with qtags := putBits rt.qtags (8 * x.qn.toNat) 7 x.tag.toNat }

/-! ## EXLOG, drains and banks (08 R297-R299) -/

/-- excq (08 R297). -/
def execExcq (x : FormQ) : State → Host.Outcome State Fault Refusal :=
  issueSeq (.excq x) do
    writeS x.d (← getMe).router.exlog

/-- excq.clr (08 R297). -/
def execExcqClr (x : FormQ) : State → Host.Outcome State Fault Refusal :=
  issueSeq (.excqClr x) do
    destReady x.d 1
    let log := (← getMe).router.exlog
    modRt fun rt => { rt with exlog := 0 }
    writeS x.d log

/-- The passage of a drain token with payload c reported to the field controller, which counts it for the configuration in
force (08 R298; 14 R437). -/
def reportPassage (c : Nat) (s : State) : State :=
  match s.regionOf s.cur with
  | some r =>
    if r.step ≠ .pushed ∨ c ≠ r.cfgseq then s else
    let role := r.roleOf s.cur
    s.setRegion { r with passages := if r.passages.contains role then r.passages else r.passages ++ [role] }
  | none => s

/-- drain (08 R298): onward says whether the token is sent on. -/
def drainOp (i : Instr) (x : FormQ) (onward : Bool) : State → Host.Outcome State Fault Refusal :=
  issueSeq i do
    let n := x.qn.toNat
    let f ← headOf n
    if (← getMe).half.getLsbD n then trapWith causeQueue (queueVal 8 n)
    if f.kind ≠ 3 then trapWith causeQueue (queueVal f.kind n)
    if onward then
      checkTag x.tag.toNat
      sendRelease x
      waitRoom (if 24 ≤ x.d.toNat then 2 else 1)
    destReady x.d 1
    popHead n 0
    writeS x.d (BitVec.ofNat 64 (bitsOf f.payload 0 32))
    modify (reportPassage (bitsOf f.payload 0 128))
    if onward then
      pushFlits [mkFlit 15 3 ((← getMe).fpFlagsRead.getLsbD 6) (x.rl == 1) 0 0 0 x.tag f.payload]

/-- drain (08 R298). -/
def execDrain (x : FormQ) : State → Host.Outcome State Fault Refusal := drainOp (.drain x) x true

/-- drain.end (08 R298). -/
def execDrainEnd (x : FormQ) : State → Host.Outcome State Fault Refusal := drainOp (.drainEnd x) x false

/-- bankpass (08 R299; 04 R146). -/
def execBankpass (x : FormQ) : State → Host.Outcome State Fault Refusal :=
  issueSeq (.bankpass x) do
    checkTag x.tag.toNat
    sendRelease x
    waitRoom 1
    let s ← get
    let role := ((s.regionOf s.cur).map (·.roleOf s.cur)).getD 0
    pushFlits [mkFlit 15 4 (s.me.fpFlagsRead.getLsbD 6) true 0 0 0 x.tag
      (BitVec.ofNat 128 (bitsOf x.imm 0 3 + role * 2 ^ 32))]

end Sys2Proof.Machine
end

