-- ==== Sys2Proof/Machine/Queues.lean ====
section
/-! DEFINITION. The host's work queues and completion rings: the queue registers, doorbells, and the writing of completion
records (14 R422; 15 R451-R454). -/

namespace Sys2Proof.Machine

/-! ## Completion records (14 R422; 15 R454) -/

/-- Whether a record may be written. -/
def Pending.isReady (p : Pending) : Bool :=
  match p.ready with
  | .now => true
  | .goal _ ids _ => ids.isEmpty
  | .jobEnd _ => true

/-- The words of a record as it is written: a pre-emption that met a frozen region names it (14 R422; 01 R34). -/
def recordOf (s : State) (p : Pending) : List Word :=
  match p.ready with
  | .goal .quiet _ (some id) =>
    let excw := (((s.regions.find? (·.id == id)).bind (·.fault)).getD []).getD 7 0
    [p.words.headD 0, p.words.getD 1 0 ||| 0xB00, BitVec.ofNat 64 id, excw]
  | _ => p.words

/-- The module without a job whose end record has been written. -/
def State.dropJob (s : State) (tag : Nat) : State :=
  { s with
    jobs := s.jobs.filter (·.tag != tag)
    regions := s.regions.filter (·.job != tag)
    groups := s.groups.filter (·.2.job != tag)
    collectives := s.collectives.filter (·.2.job != tag)
    linkCtxs := s.linkCtxs.filter (·.2.job != tag) }

/-- What follows the writing of a record. -/
def afterRecord (s : State) (p : Pending) : State :=
  match p.ready with
  | .jobEnd tag => s.dropJob tag
  | _ => s

/-- A record written at CQTAIL, CQTAIL advanced, and the vector raised where VE is set (15 R454). -/
def writeRecord (s : State) (q : Nat) (p : Pending) : State :=
  let k := s.queue q
  let bytes := (recordOf s p).flatMap fun w => bytesOfNat 8 w.toNat
  let s := { s with hostMem := writeCells s.hostMem (ringBase k.cqcfg + 32 * k.cqtail.toNat) bytes }
  let s := s.setQueue q
    { k with cqtail := BitVec.ofNat 16 ((k.cqtail.toNat + 1) % ringSize k.cqcfg), records := k.records.erase p }
  let s := if k.cqctl.getLsbD 31 then s.raise (bitsOf k.cqctl 16 11) else s
  afterRecord s p

/-- COMPLETION_RECORD_WRITE (15 R454): the first record that may be written, where the ring has room. -/
def execCompletionRecordWrite (q : Nat) (s : State) : Host.Outcome State Fault Refusal :=
  if 32768 ≤ q then .fault .noSuchUnit
  else
    let k := s.queue q
    match k.records.find? (·.isReady) with
    | some p => .next (if k.full || !s.mg.waferOn then s else writeRecord s q p)
    | none => .next s

/-! ## Queue registers (15 R452, R453) -/

/-- A queue changed by a write of the host. -/
def queueWrite (q : Nat) (s : State) (f : Queue → Queue) : Host.Outcome State Fault Refusal :=
  if 32768 ≤ q then .fault .noSuchUnit else .next (s.setQueue q (f (s.queue q)))

/-- A refused write sets QERR. -/
def Queue.refused (k : Queue) : Queue := { k with qerr := true }

/-- Whether a queue's ring is in use: EN, which CQCFG reads from WQCFG (log 27). -/
def Queue.en (k : Queue) : Bool := k.wqcfg.getLsbD 0

/-- DOORBELL (15 R453, R455). -/
def execDoorbell (q : Nat) (val : BitVec 64) (s : State) : Host.Outcome State Fault Refusal :=
  queueWrite q s fun k =>
    if s.mg.state = 15 ∨ !k.en ∨ 2 ^ 16 ≤ val.toNat ∨ ringSize k.wqcfg ≤ val.toNat then k.refused
    else { k with tail := val.setWidth 16 }

/-- The writable bits of WQCFG (15 R452). -/
def wqcfgMask : Word := 0xFFFFFFFFFFFFF0F1

/-- The writable bits of CQCFG: EN is that of WQCFG (log 27). -/
def cqcfgMask : Word := 0xFFFFFFFFFFFFF0F0

/-- Whether LOG of a ring's configuration is in its range (15 R452). -/
def logOk (v : Word) : Bool := decide (4 ≤ bitsOf v 4 4)

/-- WQCFG_WRITE (15 R452). -/
def execWqcfgWrite (q : Nat) (val : BitVec 64) (s : State) : Host.Outcome State Fault Refusal :=
  queueWrite q s fun k =>
    if !logOk val ∨ (k.en ∧ val.getLsbD 0) then k.refused else { k with wqcfg := val &&& wqcfgMask }

/-- CQCFG_WRITE (15 R452). -/
def execCqcfgWrite (q : Nat) (val : BitVec 64) (s : State) : Host.Outcome State Fault Refusal :=
  queueWrite q s fun k => if !logOk val ∨ k.en then k.refused else { k with cqcfg := val &&& cqcfgMask }

/-- CQCTL_WRITE (15 R452, R454). -/
def execCqctlWrite (q : Nat) (val : BitVec 64) (s : State) : Host.Outcome State Fault Refusal :=
  queueWrite q s fun k => { k with cqctl := val &&& 0x87FFFFFF }

/-- QSTAT_CLEAR (15 R452): QERR is cleared by a write of 1. -/
def execQstatClear (q : Nat) (val : BitVec 64) (s : State) : Host.Outcome State Fault Refusal :=
  queueWrite q s fun k => if val.getLsbD 32 then { k with qerr := false } else k

/-- QSTAT as the host reads it: a ring that no LOG has configured is not full (15 R452). -/
def Queue.qstat (k : Queue) : Word :=
  BitVec.ofNat 64 (bit (logOk k.cqcfg && k.full) * 2 ^ 33 + bit k.qerr * 2 ^ 32 + k.cqtail.toNat * 2 ^ 16 + k.wqhead.toNat)

/-- CQCFG as the host reads it (15 R452; log 27). -/
def Queue.cqcfgRead (k : Queue) : Word := putBits k.cqcfg 0 1 (bit k.en)

/-- The register of a queue that the host reads at an offset of its 32 bytes of BAR 2 (15 R452). -/
def Queue.word (k : Queue) (off : Nat) : Word :=
  if off = 0 then k.wqcfg else if off = 8 then k.cqcfgRead else if off = 16 then k.cqctl else if off = 24 then k.qstat else 0

/-- What a read of the doorbell returns: the last tail accepted (15 R453). -/
def Queue.doorbell (k : Queue) : Word := k.tail.setWidth 64

end Sys2Proof.Machine
end

