-- ==== Sys2Proof/Machine/Mapper.lean ====
section
/-! DEFINITION. What a placement's route entries do: the paths of a flit from an entry on, the tree of a sum, imbalances at
reconvergent joins, the return routes of RENORM flits, and whether the entries realise the image's GRAPH (01 R28, R29; 08
R271, R274, R277, R281, R282, R284, R290); and what a flit in the routers still owes (08 R289). -/

namespace Sys2Proof.Machine

/-! ## Hardware that the mapper may use (01 R11; 03 R107; 15 R459) -/

/-- Whether a logical core is absent: by the defect map, or retired. -/
def State.absent (s : State) (lid : Nat) : Bool := s.dead.contains lid || s.retired.contains (.core lid)

/-! ## Paths -/

/-- A route entry by its router and tag. -/
abbrev Site := Nat × Nat

/-- A path of a flit: the entries passed and the places entered, latest first, cycles, the depths of the delay queues passed, the CIX
and the tag it bears; none for a CIX that the sender gives. -/
structure Path where
  sites : List Site
  places : List (Nat × Nat)
  cycles : Nat
  depths : List (Site × Nat)
  cix : Option Nat
  tag : Nat
  deriving DecidableEq, Repr

/-- Where a path ends: at a goal, or in a slot of a SUM entry. -/
inductive PathEnd where
  | goal (g : Goal)
  | slot (site : Site)
  deriving DecidableEq, Repr

/-- A path on which nothing has been passed, from a place of a router. -/
def Path.start (lid place tag : Nat) (cix : Option Nat) : Path :=
  { sites := [], places := [(lid, place)], cycles := 0, depths := [], cix, tag }

/-- A path after it has left an entry. -/
def Path.leave (p : Path) (lid tag : Nat) (e : Word) : Path :=
  { p with
    sites := (lid, tag) :: p.sites
    cix := if entCixe e then some (entOcix e) else p.cix
    tag := if entRte e then entRetag e else tag }

/-- The goal of a local output of an entry on a core of a region. -/
def localGoal (role : Nat) (e : Word) (o : Nat) : Goal :=
  match o with
  | 4 => .queue role (entLqn e)
  | 5 => .inbox role
  | 6 => .gang role
  | _ => .lattice role

/-- Whether the tag of a flit suits the border of a region's rectangle that a hop may cross: the declared tag on entering, a transit
tag outside (08 R274); nothing is asked where no declared tag is given. -/
def borderOk (r : Region) (declared : Option Nat) (lid n tag : Nat) : Bool :=
  match declared with
  | none => true
  | some d => if r.holds n then r.holds lid || tag == d else decide (112 ≤ tag)

/-- The ends of the paths of a flit from entry tag of a router on, with each path; none where one breaks off: at an invalid entry,
at an absent core, over a dead link, or by not ending within a number of hops. through says that the flit is the entry's own
result, and leaves it. -/
def pathsFrom (s : State) (r : Region) (declared : Option Nat) : Nat → Bool → Nat → Nat → Path → Option (List (PathEnd × Path))
  | 0, _, _, _, _ => none
  | k + 1, through, lid, tag, p =>
    let e := (s.core lid).route tag
    if !entV e || entOp e == 3 then none
    else
      if entOp e = 1 ∧ !through then some [(.slot (lid, tag), p)]
      else
        let p := if through then p else { p with depths := ((lid, tag), entDmd e) :: p.depths }
        let p := p.leave lid tag e
        ((outputsOf e).mapM fun o =>
          if 4 ≤ o then if r.holds lid then some [(PathEnd.goal (localGoal (r.roleOf lid) e o), p)] else none
          else
            match neighbour lid o with
            | some n =>
              if s.linkDead lid o || s.absent n || !borderOk r declared lid n p.tag then none
              else
                pathsFrom s r declared k false n p.tag
                  { p with cycles := p.cycles + s.hopCycles lid o, places := (n, opposite o) :: p.places }
            | none => (portAtEdge (lid % 1152) (lid / 1152) o).map fun q => [(PathEnd.goal (.engine q), p)]).map List.flatten

/-! ## Joins (08 R277) -/

/-- A way of a source's flits to a join: whether the source is an engine, its role, the cycles of the way, and the depths of the
delay queues on it. -/
structure Feed where
  engine : Bool
  role : Nat
  cycles : Nat
  depths : List (Site × Nat)
  deriving DecidableEq, Repr

/-- A feed carried on along a path. -/
def Feed.along (f : Feed) (p : Path) : Feed := { f with cycles := f.cycles + p.cycles, depths := p.depths ++ f.depths }

/-- The imbalance that the mapper reports of a join for the feeds of one source: the difference in cycles of the longest and the
shortest (08 R277). -/
def imbalance (fs : List Feed) : Nat :=
  let cs := fs.map (·.cycles)
  cs.foldl max 0 - cs.foldl min (cs.headD 0)

/-- The delay-matching depth of a way on the entries that another way to the join does not pass. -/
def Feed.apartFrom (f g : Feed) : Nat :=
  ((f.depths.filter fun d => !(g.depths.any (·.1 == d.1))).map (·.2)).foldl (· + ·) 0

/-- Whether the shorter paths to a join have, apart from the longest, a depth of at least its imbalance, for every source that feeds
it more than once (01 R29; 08 R277). -/
def joinOk (fs : List Feed) : Bool :=
  fs.all fun f =>
    let same := fs.filter fun g => g.engine == f.engine && g.role == f.role
    let top := same.foldl (fun m x => max m x.cycles) 0
    same.all fun g => g.cycles == top || same.all fun l => l.cycles != top || decide (imbalance same ≤ g.apartFrom l)

/-- The waits of a path's flits: each place waits for the next (01 R28). -/
def waitsOf (places : List (Nat × Nat)) : List ((Nat × Nat) × (Nat × Nat)) := places.tail.zip places

/-- Whether no places wait for each other in a circle: n rounds drop the waits for places that wait for none (01 R28). -/
def noCircle {α : Type} [BEq α] : Nat → List (α × α) → Bool
  | 0, ws => ws.isEmpty
  | n + 1, ws => noCircle n (ws.filter fun w => ws.any (·.1 == w.2))

/-! ## Sums (08 R281) -/

/-- An input of a node of a sum's tree: a contributor in order of declaration, or an earlier node. -/
inductive SumInput where
  | source (i : Nat)
  | node (j : Nat)
  deriving DecidableEq, Repr

/-- The groups of eight inputs of a level. -/
def groupsOf8 (ins : List SumInput) : List (List SumInput) := (List.range ((ins.length + 7) / 8)).map fun g => (ins.drop (8 * g)).take 8

/-- The inputs of the next level: for each group its node's output, numbered from base on, or its single input passed up. -/
def nextLevel : Nat → List (List SumInput) → List SumInput
  | _, [] => []
  | base, [x] :: gs => x :: nextLevel base gs
  | base, _ :: gs => .node base :: nextLevel (base + 1) gs

/-- The nodes of the tree over some inputs, each as its inputs by CIX, the root last (08 R281). -/
def sumNodes : Nat → Nat → List SumInput → List (List SumInput)
  | 0, _, _ => []
  | k + 1, base, ins =>
    if ins.length ≤ 1 then []
    else
      let gs := groupsOf8 ins
      let built := gs.filter fun g => decide (2 ≤ g.length)
      built ++ sumNodes k (base + built.length) (nextLevel base gs)

/-- The tree of a sum of n contributors. -/
def sumTree (n : Nat) : List (List SumInput) := sumNodes 4 0 ((List.range n).map .source)

/-! ## Sources and destinations (08 R274, R290, R291; 07 R225) -/

/-- A source or the output of a node: the entry it starts at, whether it is the entry's own result, its path and its feeds. -/
structure Origin where
  site : Site
  through : Bool
  path : Path
  feeds : List Feed
  deriving DecidableEq, Repr

/-- The core of a role. -/
def Region.coreOf (r : Region) (role : Nat) : Nat := r.bind.getD role 0

/-- Whether a point at which placement injects the flits of a role's engine is an attachment core of that engine, with the declared tag
inside the rectangle and a transit tag outside (07 R225; 08 R274). -/
def Region.injectOk (r : Region) (x : Inject) : Bool :=
  let d := dirNum x.dir
  (neighbour x.lid d).isNone && decide (x.lid < coreCount)
    && portAtEdge (x.lid % 1152) (x.lid / 1152) d == some (r.ports.getD x.role 0)
    && (if r.holds x.lid then x.inTag == x.tag else decide (112 ≤ x.inTag))

/-- Where the flits of a source endpoint start: at the output queue of its core, or where placement injects those of the engine of
its role (07 R225; 08 R274). -/
def originOf (r : Region) (tag : Nat) (e : Word) : Option Origin :=
  let role := endRole r.w e
  if endKind e ≤ 1 then
    some { site := (r.coreOf role, tag), through := false, path := Path.start (r.coreOf role) 4 tag none
           feeds := [{ engine := false, role, cycles := 0, depths := [] }] }
  else
    match r.inject.filter fun x => x.role == role && x.tag == tag with
    | [x] =>
      if r.injectOk x then
        some { site := (x.lid, x.inTag), through := false, path := Path.start x.lid (dirNum x.dir) x.inTag none
               feeds := [{ engine := true, role, cycles := 0, depths := [] }] }
      else none
    | _ => none

/-- The goal of a destination endpoint. -/
def goalOf (r : Region) (e : Word) : Goal :=
  let role := endRole r.w e
  match endKind e with
  | 0 => .queue role (bitsOf e 26 3)
  | 3 => .inbox role
  | 4 => .gang role
  | 5 => .lattice role
  | _ => .engine (r.ports.getD role 0)

/-- What is known of a route laid: its entries, the feeds of each goal, and which places wait for which. -/
structure Laid where
  sites : List Site
  ends : List (Goal × List Feed)
  waits : List ((Nat × Nat) × (Nat × Nat))
  deriving DecidableEq, Repr

/-- The entries of a path's sites. -/
def Path.entries (p : Path) (s : State) : List Word := p.sites.map fun x => (s.core x.1).route x.2

/-- Whether a path that ends at a goal keeps what its route declares: the declared tag on arrival, the depth at the destination's
entry, and its width adapter, one and at the destination's router (08 R273, R277, R290). -/
def endOk (s : State) (rec : RouteRec) (g : Goal) (p : Path) : Bool :=
  let es := p.entries s
  let adapts (e : Word) : Bool := entOp e == 2
  p.tag == rec.tag && decide (rec.dmd ≤ entDmd (es.headD 0))
    && (if rec.op = 2 then
          (es.filter adapts).length == 1 && es.all (fun e => !adapts e || entArg e == bitsOf rec.header 27 2)
            && (match g with
                | .engine _ => true
                | _ => adapts (es.headD 0))
        else !es.any adapts)

/-- The goals that one origin of a route reaches: just those it declares, none twice. -/
def goalsFrom (s : State) (r : Region) (rec : RouteRec) (fuel : Nat) (o : Origin) : Option Laid := do
  let ends ← pathsFrom s r (some rec.tag) fuel o.through o.site.1 o.site.2 o.path
  let gs ← ends.mapM fun (x, p) =>
    match x with
    | .goal g => if endOk s rec g p then some (g, p) else none
    | .slot _ => none
  let want := rec.dsts.map (goalOf r)
  if gs.length == want.length && want.all (fun g => gs.any (·.1 == g)) then
    return { sites := gs.flatMap fun x => x.2.sites, ends := gs.map fun x => (x.1, o.feeds.map (·.along x.2))
             waits := gs.flatMap fun x => waitsOf x.2.places }
  else none

/-- ACC and RTAG of a sum's record. -/
def RouteRec.acc (rec : RouteRec) : Nat := bitsOf rec.header 36 12
def RouteRec.rtag (rec : RouteRec) : Option Nat := if rec.header.getLsbD 55 then some (bitsOf rec.header 48 7) else none

/-- Whether no two lists share a member. -/
def disjointLists (ls : List (List (Nat × Nat))) : Bool :=
  ls.zipIdx.all fun (a, i) => (ls.drop (i + 1)).all fun b => !a.any b.contains

/-- The place of what an entry forms, as a path's start. -/
def formedAt (site : Site) : Nat × Nat := (site.1, 136 + site.2)

/-- One node of a sum laid: its inputs come to one SUM entry, each to the slot of its CIX, a core's own flits to that of CIX 0 where
the path sets none; the entry counts its inputs and has no delay queue, which they would share, and only the root accumulates. At
most five inputs come over places of their own, so that none stands behind another that waits for it; more have to share (01 R28;
08 R267, R279, R281; log 78). Answers the node's output, the entries passed, and the paths of the inputs. -/
def nodeLaid (s : State) (r : Region) (rec : RouteRec) (fuel : Nat) (root : Bool) (ins : List Origin) :
    Option (Origin × List Path) := do
  let ends ← ins.zipIdx.mapM fun (o, c) => do
    match ← pathsFrom s r (some rec.tag) fuel o.through o.site.1 o.site.2 o.path with
    | [(.slot site, p)] => if p.cix.getD 0 == c then some (site, p, o.feeds.map (·.along p)) else none
    | _ => none
  let site := (ends.head?.map (·.1)).getD (0, 0)
  let e := (s.core site.1).route site.2
  let feeds := ends.flatMap fun x => x.2.2
  if ends.all (·.1 == site) && entArg e + 1 == ins.length && entAcc e == (if root then rec.acc else 0)
      && entRen e == (root && rec.rtag.isSome) && (rec.rtag.isNone || !root || some (entAtag e) == rec.rtag)
      && entDmd e == 0 && (decide (5 < ins.length) || disjointLists (ends.map fun x => x.2.1.places)) && joinOk feeds then
    return ({ site, through := true, path := Path.start site.1 (136 + site.2) site.2 (some 0), feeds }, ends.map fun x => x.2.1)
  else none

/-- The nodes of a sum laid one after another. -/
def nodesLaid (s : State) (r : Region) (rec : RouteRec) (fuel : Nat) (srcs : List Origin) :
    List (List SumInput) → List (Origin × List Path) → Option (List (Origin × List Path))
  | [], done => some done
  | ins :: rest, done => do
    let os ← ins.mapM fun x =>
      match x with
      | .source i => srcs[i]?
      | .node j => (done[j]?).map (·.1)
    let n ← nodeLaid s r rec fuel rest.isEmpty os
    nodesLaid s r rec fuel srcs rest (done ++ [n])

/-! ## RENORM (08 R282) -/

/-- The data entries that the OP 3 entries of a return route name, from an entry on, with the return route's entries and the waits of
its places. -/
def returnFrom (s : State) (r : Region) : Nat → Nat × Nat → Nat → Option (List Site × List Site × List ((Nat × Nat) × (Nat × Nat)))
  | 0, _, _ => none
  | k + 1, place, tag =>
    let lid := place.1
    let e := (s.core lid).route tag
    if !entV e || !r.holds lid || (entOp e != 0 && entOp e != 3) then none
    else
      let tag' := if entRte e then entRetag e else tag
      let here := if entOp e = 3 then [(lid, entAtag e)] else []
      (outputsOf e).foldlM (fun acc o =>
        match (if o < 4 then neighbour lid o else none) with
        | some n =>
          if s.linkDead lid o || s.absent n then none
          else (returnFrom s r k (n, opposite o) tag').map fun x =>
            (acc.1 ++ x.1, acc.2.1 ++ x.2.1, acc.2.2 ++ (place, (n, opposite o)) :: x.2.2)
        | none => none) (here, [(lid, tag)], [])

/-- Whether the entry before the root on a contributor's path, and it alone, pre-aligns, where the route declares renorm=; the
entries that do are answered. -/
def renormSites (s : State) (rec : RouteRec) (root : Bool) (p : Path) : Option (List Site) :=
  let ren := p.sites.filter fun x => entOp ((s.core x.1).route x.2) == 0 && entRen ((s.core x.1).route x.2)
  let last := p.sites.head?.filter fun x => entOp ((s.core x.1).route x.2) == 0
  let want := if root && rec.rtag.isSome then last.toList else []
  if ren == want && ren.all (fun x => entAcc ((s.core x.1).route x.2) == rec.acc) then some want else none

/-- A sum laid: its tree, the way from the root to its destinations, and the return route to the routers that send the root its
contributions. -/
def sumLaid (s : State) (r : Region) (rec : RouteRec) (fuel : Nat) (srcs : List Origin) : Option Laid := do
  let nodes ← nodesLaid s r rec fuel srcs (sumTree srcs.length) []
  let root ← nodes.getLast?
  let out ← goalsFrom s r rec fuel root.1
  let rens ← nodes.zipIdx.mapM fun (n, j) => n.2.mapM (renormSites s rec (j + 1 == nodes.length))
  let want := rens.flatten.flatten
  let back ← match rec.rtag with
    | some t => returnFrom s r fuel (formedAt root.1.site) t
    | none => some ([], [], [])
  if back.1.length == want.length && want.all back.1.contains && (nodes.map (·.1.site)).eraseDups.length == nodes.length then
    return { out with
      sites := out.sites ++ nodes.map (·.1.site) ++ nodes.flatMap (fun n => n.2.flatMap (·.sites)) ++ back.2.1
      waits := out.waits ++ back.2.2 ++ nodes.flatMap fun n =>
        n.2.flatMap fun p => waitsOf (formedAt n.1.site :: p.places) }
  else none

/-- A route of the GRAPH laid. -/
def routeLaid (s : State) (r : Region) (fuel : Nat) (rec : RouteRec) : Option Laid := do
  let srcs ← rec.srcs.mapM (originOf r rec.tag)
  if rec.op = 1 then sumLaid s r rec fuel srcs
  else
    let ls ← srcs.mapM fun o => do
      let l ← goalsFrom s r rec fuel o
      if l.sites.all fun x => !entRen ((s.core x.1).route x.2) then some l else none
    return { sites := ls.flatMap (·.sites), ends := ls.flatMap (·.ends), waits := ls.flatMap (·.waits) }

/-! ## The whole GRAPH (01 R28, R29) -/

/-- The role that a goal lies at, for the goals that a core reads. -/
def Goal.role : Goal → Option Nat
  | .queue r _ => some r
  | .inbox r => some r
  | .gang r => some r
  | .lattice r => some r
  | .engine _ => none

/-- The tag that the routes of a tag lead to outside the cores: the return tag of a sum's RENORM flits. -/
def tagAfter (rs : List RouteRec) (t : Nat) : Option Nat := ((rs.find? fun x => x.tag == t && x.op == 1).bind (·.rtag))

/-- The tags that a tag leads to within k steps. -/
def tagsAfter (rs : List RouteRec) : Nat → Nat → List Nat
  | 0, _ => []
  | k + 1, t =>
    match tagAfter rs t with
    | some u => u :: tagsAfter rs k u
    | none => []

/-- Whether the tag graph of an image outside cores has no cycle (01 R28, R29). -/
def acyclicTags (rs : List RouteRec) : Bool := rs.all fun x => !(tagsAfter rs 112 x.tag).contains x.tag

/-- Whether the route entries that a region laid, in force in s, realise its image's GRAPH: each route its own entries and every entry
a route's; every source reaches every destination and nothing else; joins balanced; no cycle of tags, and no places that wait for each
other in a circle (01 R28, R29; 08 R271-R290). -/
def realises (s : State) (r : Region) (i : Image) : Bool :=
  let rs := i.routes
  let fuel := r.laid.length + 1
  match rs.mapM (routeLaid s r fuel) with
  | none => false
  | some ls =>
    let sites := ls.map fun l => l.sites.eraseDups
    let feeds (role : Nat) : List Feed := ls.flatMap fun l => (l.ends.filter fun x => x.1.role == some role).flatMap (·.2)
    let waits := (ls.flatMap (·.waits)).eraseDups
    acyclicTags rs && r.inject.all r.injectOk && noCircle (waits.length + 1) waits && disjointLists sites && r.laid.all (fun x => sites.any (·.contains x))
      && (List.range r.bind.length).all fun k => joinOk (feeds k)

/-! ## What a flit still owes (08 R289) -/

/-- The destinations of a flit from an entry on, through the SUM entries on its way; k bounds those, fuel the hops of each way. -/
def owedFrom (s : State) (r : Region) (fuel : Nat) : Nat → Bool → Site → Nat → List Owed
  | 0, _, _, _ => []
  | k + 1, through, site, cix =>
    match pathsFrom s r none fuel through site.1 site.2 (Path.start site.1 0 site.2 (some cix)) with
    | none => []
    | some ends => ends.flatMap fun (x, p) =>
      match x with
      | .goal g => [{ goal := g, tag := p.tag, slots := [] }]
      | .slot n => (owedFrom s r fuel k true n 0).map fun o => { o with slots := p.cix.getD cix :: o.slots }

/-- What a flit of a KIND owes from an entry on: a RENORM flit what the blocks owe that its records have still to reach (08 R282). -/
def owedBy (s : State) (r : Region) (fuel : Nat) (kind : Nat) (through : Bool) (site : Site) (cix : Nat) (depth : Nat) : List Owed :=
  if kind = 2 then
    match returnFrom s r fuel (site.1, 0) site.2 with
    | some (datas, _, _) => datas.flatMap fun d => owedFrom s r fuel depth false d 0
    | none => []
  else owedFrom s r fuel depth through site cix

/-- The most entries that a flit has still to pass from an entry on. -/
def farFrom (s : State) (r : Region) (fuel : Nat) : Nat → Bool → Site → Nat
  | 0, _, _ => 0
  | k + 1, through, site =>
    match pathsFrom s r none fuel through site.1 site.2 (Path.start site.1 0 site.2 none) with
    | none => 0
    | some ends => (ends.map fun (x, p) => p.sites.length + (match x with
        | .goal _ => 0
        | .slot n => 1 + farFrom s r fuel k true n)).foldl max 0

/-- The most entries that a flit of a KIND has still to pass from an entry on. -/
def farBy (s : State) (r : Region) (fuel : Nat) (kind : Nat) (through : Bool) (site : Site) (depth : Nat) : Nat :=
  if kind = 2 then ((returnFrom s r fuel (site.1, 0) site.2).map fun x => x.2.1.length).getD 0 else farFrom s r fuel depth through site

end Sys2Proof.Machine
end

