-- ==== Sys2Proof/Machine/Region.lean ====
section
/-! DEFINITION. The life of a region: how it ends and frees its cores, placement, the two-phase load with its commit, quiescence
and completion, configuration steps (14 R426-R438, R443; 01 R22-R33, R40; 13 R404, R405). -/

namespace Sys2Proof.Machine

/-! ## Hardware (03 R108) and jobs -/

/-- The features a core's hardware has (03 R108). -/
def State.hwpOf (s : State) (lid : Nat) : BitVec 4 := ~~~Table.get 0 s.missing lid

/-- Whether no job is resident: none whose job-end record is still to be written (14 R422). -/
def State.noJob (s : State) : Bool := s.jobs.isEmpty

/-! ## Retirement (11 R373; 15 R459) -/

/-- Whether a core is retired (15 R459). -/
def State.isRetired (s : State) (lid : Nat) : Bool := s.retired.contains (.core lid)

/-- A core retired: it enters the list, runs no further task, and is excused from the episodes that begin later. -/
def retireCore (s : State) (lid : Nat) : State :=
  let groups := match s.memberOf lid with
    | some m => s.groups.map fun (p : Nat × Group) =>
        (p.1, if p.2.members.contains m then { p.2 with retired := m :: p.2.retired.filter (· != m) } else p.2)
    | none => s.groups
  { s with retired := s.retired ++ [Retired.core lid], groups }.setCore lid { s.core lid with live := false }

/-- A core degraded while no region holds it is retired at once (15 R459). -/
def retireFree (s : State) (lid : Nat) : State :=
  if (s.core lid).degraded && !s.isRetired lid && (s.regionOf lid).isNone then retireCore s lid else s

/-- The module with the degraded cores among some that a region has left retired (15 R459). -/
def State.retireLeft (s : State) (lids : List Nat) : State := lids.foldl retireFree s

/-! ## Freeing cores -/

/-- A router without the entries of some tags and without their flits. -/
def Router.strip (rt : Router) (tags : List Nat) : Router :=
  let keepKey {α : Type} (t : Table α) : Table α := t.filter fun e => !tags.contains e.1
  let ports := rt.ports.map fun (p, fs) => (p, fs.filter fun f => !tags.contains f.tag.toNat)
  { rt with
    routes := keepKey rt.routes, ports := ports.filter (fun e => !e.2.isEmpty), delays := keepKey rt.delays
    sums := keepKey rt.sums, renorms := keepKey rt.renorms, adapters := keepKey rt.adapters
    written := rt.written.filter fun t => !tags.contains t, locked := rt.locked.filter fun e => !tags.contains e.2.tag }

/-- The router of a core that a region leaves: what other regions laid across it stays. -/
def Router.vacate (rt : Router) (tags : List Nat) : Router :=
  let rt := rt.strip (List.range 112 ++ tags)
  { rt with qtags := Router.reset.qtags, exlog := 0, outq := [], asm := [], inq := [], rtsetWait := none }

/-- The tags of the entries that a region laid at a core. -/
def Region.tagsAt (r : Region) (lid : Nat) : List Nat := (r.laid.filter (·.1 == lid)).map (·.2)

/-- The clusters that hold a region's cores. -/
def Region.clusters (r : Region) : List Nat := (r.bind.map clusterOf).eraseDups

/-- The module with the stream contexts of a region's cores free. -/
def State.closeContexts (s : State) (r : Region) : State :=
  { s with brims := s.brims.map fun (p, b) => (p, { b with ctxs := b.ctxs.filter fun e => !r.bind.contains e.2.lid }) }

/-- The module without a region's hold on its cores: cores, transit entries, engine contexts, stalls, tokens on their way and
atomic engines are free; LOC keeps its bytes (log 32). -/
def State.vacate (s : State) (r : Region) : State :=
  let mine (l : Nat) : Bool := r.bind.contains l
  let s := r.bind.foldl (fun s l =>
    let c := s.core l
    s.setCore l { c.blank with router := c.router.vacate (r.tagsAt l) }) s
  let transit := ((r.laid.map (·.1)).filter (fun l => !mine l)).eraseDups
  let s := transit.foldl (fun s l => s.modRouter l fun rt => rt.strip (r.tagsAt l)) s
  { (s.closeContexts r).dropMigs r.bind with
    scalarStalls := s.scalarStalls.filter fun x => !mine x.lid
    tokens := s.tokens.filter fun t => !mine t.1
    clusters := s.clusters.filter fun e => !r.clusters.contains e.1 }

/-- A region without a binding. -/
def Region.unbound (r : Region) : Region := { r with bind := [], ports := [], inject := [], laid := [], pending := [] }

/-! ## Endings (14 R422, R436) -/

/-- The exit code of a region: of the lowest role id that halted with a nonzero code (14 R446). -/
def State.exitCode (s : State) (r : Region) : Nat :=
  ((r.bind.map fun l => (s.core l).exitCode.toNat).find? (· != 0)).getD 0

/-- The words of a job's end record, from how its regions ended, in depth-first order (14 R422). -/
def jobEndWords (job : Job) (rs : List Region) : List Word :=
  let ends := rs.filterMap (·.done)
  let of (r : Region) (e : RegionEnd) : List Word :=
    recordWords job.tag 3 e.status.toNat e.cfgseq e.info.toNat (if e.status = 9 then 0 else BitVec.ofNat 64 r.leaf) e.excw
  let pick (p : RegionEnd → Bool) : Option (Region × RegionEnd) :=
    (rs.filterMap fun r => r.done.map fun e => (r, e)).find? fun x => p x.2
  if job.cancelled then recordWords job.tag 3 9 ((ends.head?.map (·.cfgseq)).getD 0) 0 0 ((ends.head?.map (·.excw)).getD 0)
  else
    match pick (fun e => e.status != 0), pick (fun e => e.info != 0) with
    | some (r, e), _ => of r e
    | none, some (r, e) => of r e
    | none, none => recordWords job.tag 3 0 ((ends.head?.map (·.cfgseq)).getD 0) 0 0 ((ends.head?.map (·.excw)).getD 0)

/-- The regions of a job, in depth-first order of their leaves. -/
def State.regionsOf (s : State) (job : Nat) : List Region := s.regions.filter (·.job == job)

/-- A job whose regions have all ended gets its end record (14 R422). -/
def State.endJob (s : State) (tag : Nat) : State :=
  match s.job tag with
  | none => s
  | some j =>
    let rs := s.regionsOf tag
    if rs.all (·.done.isSome) then s.post j.queue (jobEndWords j rs) (.jobEnd tag) else s

/-- A region ends with a status and goes EMPTY (14 R422, R426): its exit code is its INFO when it ends OK. -/
def endRegion (s : State) (r : Region) (status info : Nat) : State :=
  let e : RegionEnd :=
    { status := BitVec.ofNat 8 status, info := BitVec.ofNat 32 (if status = 0 then s.exitCode r else info),
      addr := BitVec.ofNat 64 r.leaf, excw := excWord s r, cfgseq := r.cfgseq }
  let s' := s.vacate r
  let s' := { s' with collectives := s'.collectives.filter fun c => c.2.who.1 != r.id }
  let s' := s'.setRegion
    { r.unbound with st := .empty, resuming := false, step := .none, passages := [], saved := [], savedStreams := [],
                     savedCells := [], savedFlits := [], savedEntries := [], evicted := false, gathered := [], halts := [],
                     stopFrom := none, done := some e }
  restartWaits s (((s'.retireLeft r.bind).reach r.id [.leftSaved, .quiet, .empty] false).endJob r.job)

/-! ## Stops and the order of events (08 R287; 14 R427, R446) -/

/-- A stop that has reached every core and router of a region: FROZEN where a fault began it, else HALTED with the code of the
lowest role that executed halt.rgn in it (08 R287; 14 R427, R446). -/
def completeStop (s : State) (r : Region) : State :=
  match r.gathered, lowestRole r.halts with
  | [], some (_, code) => endRegion s r 6 code
  | _, _ => completeFreeze s r

/-- Whether a stop of a region may complete: it reaches the cores after the cycle in which it began, and every fault of that cycle is
gathered (01 R35; 08 R287). -/
def Region.stopReaches (r : Region) (s : State) : Bool := (r.stopFrom.map fun t => t != s.cycle).getD false

/-- The stops of some regions complete. -/
def completeStops (s : State) (ids : List Nat) : State :=
  ids.foldl (fun s id =>
    match s.regions.find? (·.id == id) with
    | some r => if r.stopReaches s then completeStop s r else s
    | none => s) s

/-- A region for which an event of place k has been decided. -/
def Region.decided (r : Region) (s : State) (k : Nat) : Region := { r with latest := some (s.cycle, k) }

/-! ## Loads that abort (14 R433, R434) -/

/-- A region leaves LOADING or STAGED without a commit: EMPTY for a first load, SAVED for a resume, in place or evicted as
it was. -/
def unload (s : State) (r : Region) : State :=
  let s' :=
    if r.resuming && !r.evicted then (s.closeContexts r).setRegion { r with st := .saved, pending := [] }
    else
      let back : RegionState := if r.resuming then .saved else .empty
      ((s.vacate r).setRegion { r.unbound with st := back, groups := [] }).retireLeft r.bind
  s'.reach r.id (if r.resuming then [.quiet] else [.quiet, .empty]) false

/-- An uncorrectable error before commit aborts a load (14 R434): the first time it may be tried again, the second ends the
region LOAD_UE. -/
def abortLoad (s : State) (r : Region) : State :=
  if 0 < r.attempts then endRegion s r 4 0
  else
    match r.st with
    | .live => s.setRegion { r with attempts := 1 }
    | _ => unload s { r with attempts := 1 }

/-! ## Whether a region may be placed (14 R429; 01 R22, R33; 11 R357; 13 R404) -/

/-- Whether a region waits to be placed. -/
def Region.waiting (r : Region) : Bool :=
  (r.st == .empty && r.done.isNone) || (r.st == .saved && r.resuming)

/-- The regions joined to those of a list by a key, that wait or are being loaded: k rounds. -/
def joinUnit (all : List Region) : Nat → List Region → List Region
  | 0, u => u
  | k + 1, u =>
    joinUnit all k (u ++ all.filter fun r =>
      !(u.any (·.id == r.id)) && (r.waiting || r.st == .loading || r.st == .staged)
        && u.any fun x => x.keys.any r.keys.contains)

/-- The unit that a region is placed and committed with (11 R357). -/
def State.unitOf (s : State) (r : Region) : List Region :=
  let all := s.regionsOf r.job
  joinUnit all all.length [r]

/-- The regions that a region's leaf declares as dependences. -/
def State.depsOf (s : State) (r : Region) : List Region :=
  match s.leafOf r with
  | some n => n.deps.filterMap fun d => (s.regionsOf r.job).find? (·.leaf == d)
  | none => []

/-- Whether a region ended with a status other than OK. -/
def Region.failed (r : Region) : Bool := (r.done.map (·.status != 0)).getD false

/-- Whether the dependences of a region allow its placement. -/
def State.depsMet (s : State) (r : Region) : Bool := (s.depsOf r).all fun d => d.st == .live || (d.done.isSome && !d.failed)

/-- Whether a region counts against its ancestors' budgets (01 R22). -/
def Region.resident (r : Region) : Bool :=
  match r.st with
  | .empty => false
  | .saved => false
  | _ => true

/-- Whether a region's leaf lies at or under a node. -/
def Job.under (j : Job) (node leaf : Nat) : Bool :=
  (lineage j.nodes j.nodes.length (j.nodes.findIdx (·.va == leaf))).contains node

/-- Whether every node's budget holds its resident regions with those of a unit (01 R22). -/
def State.budgetsAllow (s : State) (j : Job) (unit : List Region) : Bool :=
  j.nodes.all fun n =>
    let counted := (s.regionsOf j.tag).filter fun r => (r.resident || unit.any (·.id == r.id)) && j.under n.va r.leaf
    decide ((counted.map fun r => r.w * r.h).foldl (· + ·) 0 ≤ n.cores)

/-- Whether a job has its link context, needs none, or may take one (13 R404). -/
def State.linkAllows (s : State) (j : Job) : Bool := !j.usesLink || s.hasLink j.tag || decide (s.linkCtxs.length < 16)

/-- The partition entry p as columns and rows of cores: x from, x to, y from, y to (15 R464). -/
def State.partBounds (s : State) (p : Nat) : Option (Nat × Nat × Nat × Nat) :=
  let e := Table.get 0 s.mg.parts p
  if e.getLsbD 15 then
    some (96 * bitsOf e 0 4, 96 * (bitsOf e 7 4 + 1), 128 * bitsOf e 4 3, 128 * (bitsOf e 11 3 + 1))
  else none

/-- Whether a placement's rectangle is one of 14 R430: aligned, in a defined partition that the job allows. -/
def rectOk (s : State) (j : Job) (r : Region) (pl : Placement) : Bool :=
  pl.x0 % 8 == 0 && pl.y0 % 8 == 0 && decide (pl.part < 84) && decide (j.parts / 2 ^ pl.part % 2 = 1)
    && match s.partBounds pl.part with
       | some (xa, xb, ya, yb) =>
         decide (xa ≤ pl.x0) && decide (pl.x0 + r.w ≤ xb) && decide (ya ≤ pl.y0) && decide (pl.y0 + r.h ≤ yb)
       | none => false

/-- Whether a placement's binding is one of 14 R430: each role on a present core of its canonical cluster with the declared
features, no core twice, no cluster held by another region (01 R25; 03 R107; 04 R130; 12 R383), and for the tensor feature
each row of a role cluster on one logical row from west to east (09 R311). -/
def bindOk (s : State) (r : Region) (feats : Nat) (pl : Placement) : Bool :=
  let n := r.w * r.h
  let canon (k : Nat) : Nat := clusterOf (lidOf (pl.x0 + k % r.w) (pl.y0 + k / r.w))
  let at_ (k : Nat) : Nat := pl.bind.getD k 0
  let held := (s.regions.filter (·.id != r.id)).flatMap (·.bind.map clusterOf)
  decide (pl.bind.length = n) && decide (pl.ports.length = n) && pl.ports.all (fun p => decide (p < 48)) && noRepeats pl.bind
    && (List.range n).all (fun k =>
      decide (clusterOf (at_ k) = canon k) && !s.absent (at_ k) && decide (feats &&& (s.hwpOf (at_ k)).toNat = feats)
        && !held.contains (canon k))
    && (feats % 2 == 0 || (List.range n).all fun k =>
      k % r.w % 8 == 0 || (decide (at_ k / 1152 = at_ (k - 1) / 1152) && decide (at_ (k - 1) < at_ k)))

/-- The module with a placement's route entries written: a region's tags on its cores, transit tags elsewhere where no other region
uses them, no output over a dead link or to an absent core; none where one may not be (08 R271, R272, R284; 01 R29). -/
def layRoutes (s : State) (pl : Placement) : Option State :=
  let lay (s : State) (p : Nat × Nat × BitVec 64) : Option State :=
    let (lid, tag, e) := p
    let rt := (s.core lid).router
    let fits := decide (lid < coreCount) && decide (tag < 128) && !s.absent lid && entV e && entryFits rt tag e
      && (if tag < 112 then pl.bind.contains lid else !entV (Table.get 0 rt.routes tag) && entOp e == 0)
      && (outputsOf e).all fun o => decide (4 ≤ o) || (!s.linkDead lid o && !((neighbour lid o).map s.absent).getD false)
    if fits then some (s.modRouter lid fun rt => { rt with routes := Table.set 0 tag e rt.routes }) else none
  pl.routes.foldlM lay (pl.bind.foldl (fun s l => s.modRouter l fun rt => rt.strip (List.range 112)) s)

/-- Whether a placement's route entries may be written. -/
def routesOk (s : State) (pl : Placement) : Bool := (layRoutes s pl).isSome

/-! ## Stream contexts (07 R234, R263, R467) -/

/-- The lowest free context of an engine (07 R234). -/
def Brim.freeCtx (b : Brim) : Option Nat := (List.range 32).find? fun n => (Table.find b.ctxs n).isNone

/-- A stream opened at an engine, with its windows built; none when the engine has no context or the tag is held (07 R232, R467). -/
def openOn (eng : Nat) (s : State) (c : StreamCtx) : Option State := do
  let b := s.brim eng
  let n ← b.freeCtx
  if c.tagHeld b then none else return (s.setBrim eng b.wake).setCtx eng n (c.withWindows s (s.rootAt c.lid))

/-- A stream opened at the engine of its core. -/
def openAt (s : State) (c : StreamCtx) : Option State := openOn (s.portOf c.lid) s c

/-- The declared streams of a region's roles (07 R253). -/
def declaredStreams (i : Image) (r : Region) : List StreamCtx :=
  (List.range (r.w * r.h)).flatMap fun role =>
    match i.classOf role with
    | none => []
    | some cls => (streamRecs (i.data 7 cls)).mapIdx fun slot p =>
        { StreamCtx.ofDesc (r.bind.getD role 0) slot r.id p.2 i.tec with running := p.1 }

/-- The saved streams of a region on the cores of its binding. -/
def savedContexts (r : Region) : List StreamCtx :=
  r.savedStreams.map fun (k, c) => { c with lid := r.bind.getD (k / 8) 0, region := r.id }

/-- Streams opened one after another. -/
def openAll (s : State) (cs : List StreamCtx) : Option State := cs.foldlM openAt s

/-- The streams that a region opens when it is placed. -/
def Region.streams (r : Region) (i : Image) : List StreamCtx := if r.resuming then savedContexts r else declaredStreams i r

/-- Whether some assignment of engines to cores gives every stream of those cores a context without a conflict of tags (07 R467). -/
def assignable : List (List StreamCtx) → State → Bool
  | [], _ => true
  | cs :: rest, s => (List.range 48).any fun eng =>
    match cs.foldlM (openOn eng) s with
    | some s' => assignable rest s'
    | none => false

/-- Streams by the cores that own them. -/
def byCore (cs : List StreamCtx) : List (List StreamCtx) := (cs.map (·.lid)).eraseDups.map fun l => cs.filter (·.lid == l)

/-- The slots of a core bound to the contexts that its streams have; first says that they are newly declared. -/
def bindSlots (s : State) (lid : Nat) (first : Bool) (c : Core) : Core :=
  s.brims.foldl (fun c (p : Nat × Brim) =>
    p.2.ctxs.foldl (fun c (e : Nat × StreamCtx) =>
      if e.2.lid = lid then
        let st := if first then (if e.2.running then SlotState.run else .opened) else (c.slot e.2.slot).st
        c.setSlot e.2.slot { st, eng := p.1, ctx := e.1 }
      else c) c) c

/-! ## Placement (14 R429-R431; 01 R24, R25) -/

/-- The image of configuration c of a region's leaf. -/
def State.imageOf (s : State) (r : Region) (c : Nat) : Option Image := do
  let n ← s.leafOf r
  let va ← n.images[c - 1]?
  readImage s (s.rootOf r) va

/-- The job's link context taken, with its link table image installed and measured (13 R404, R405; 15 R457). -/
def extendMeas (m : Mgmt) (i : Nat) (v : List Byte) : Mgmt :=
  let old := (List.range 32).map fun k => (Table.get 0 m.meas i).extractLsb' (8 * k) 8
  { m with meas := Table.set 0 i (BitVec.ofNat 256 (natOfBytes (sha256 (old ++ sha256 v)))) m.meas }

def State.takeLink (s : State) (j : Job) : State :=
  if !j.usesLink || s.hasLink j.tag then s
  else
    let n := ((List.range 16).find? fun n => (Table.find s.linkCtxs n).isNone).getD 0
    let words := (installRecords s.mg.rank.toNat [] (linkRecords j.linkTab)).getD []
    let s := { s with linkCtxs := Table.put n { job := j.tag, words } s.linkCtxs }
    if j.linkTab.isEmpty then s else { s with mg := extendMeas s.mg 4 j.linkTab }

/-- A region that stayed in place takes its own cores again, where all are present (14 R442), with the engines it had, or others that
the mapper assigns where those have no context (07 R467). Its saved contexts stand until it commits (14 R434). -/
def placeBack (s : State) (r : Region) (ports : List Nat) : Option State :=
  if r.bind.any s.absent || r.attempts != 0 then none
  else
    let s0 := s.setRegion { r with st := .loading }
    (openAll s0 (savedContexts r)).or do
      let i ← s.imageOf r (max 1 r.cfgseq)
      let r' := { r with st := .loading, ports }
      if ports.length == r.bind.length && ports.all (fun p => decide (p < 48)) && realises (s.setRegion r') r' i then
        openAll (s.setRegion r') (savedContexts r')
      else none

/-- What a placement's output depends on for a region and a configuration of it (14 R431). -/
def State.mapKey (s : State) (r : Region) (c x0 y0 : Nat) : Option MapKey := do
  let first ← s.imageOf r 1
  let image ← s.imageOf r c
  return { first := natAt first.bytes 40 32, image := natAt image.bytes 40 32, deadCores := s.deadCores, deadLinks := s.deadLinks
           missing := s.missing, retired := s.retired, x0, y0, w := r.w, h := r.h }

/-- The mapper's output in a placement, and the role binding in it. -/
def mapperOutput (pl : Placement) : Placement := { pl with links := [] }
def bindingOf (pl : Placement) : Placement := { pl with ports := [], routes := [], inject := [], links := [] }

/-- Whether the mapper may answer out for a key: it gives one answer for each, with one binding and one assignment of ports, and the
ports are those that 07 R467 has it choose (14 R431; log 7). -/
def State.mapperGives (s : State) (key : MapKey) (out : Option Placement) : Bool :=
  s.mapped.all fun (k, o) => k != key ||
    match o, out with
    | some a, some b => a.bind != b.bind || a.ports != b.ports || a == b
    | none, none => true
    | _, _ => false

/-- Whether the mapper may give a placement for a key: its binding is that of the first image on the rectangle (14 R431, R432). -/
def State.mayAnswer (s : State) (key : MapKey) (pl : Placement) : Bool :=
  s.mapperGives key (some (mapperOutput pl))
    && s.mapped.all fun (k, o) => k != { key with image := 0 } || o == some (bindingOf pl)

/-- The module once the mapper has answered out for a key. -/
def State.noteMapped (s : State) (key : MapKey) (out : Option Placement) : State :=
  if s.mapped.contains (key, out) then s else { s with mapped := (key, out) :: s.mapped }

/-- The module once the mapper has given a placement for a key. -/
def State.noteAnswer (s : State) (key : MapKey) (pl : Placement) : State :=
  (s.noteMapped key (some (mapperOutput pl))).noteMapped { key with image := 0 } (some (bindingOf pl))

/-- A region bound as a placement says. -/
def Region.bound (r : Region) (pl : Placement) : Region :=
  { r with
    st := .loading, x0 := pl.x0, y0 := pl.y0, part := pl.part, bind := pl.bind, ports := pl.ports, inject := pl.inject
    laid := pl.routes.map fun p => (p.1, p.2.1) }

/-- A region bound to a placement's rectangle: LOADING, its routes laid as its image's GRAPH has them; none where the placement breaks a
rule, or a transit entry that it needs is held. -/
def routedOn (s : State) (j : Job) (r : Region) (pl : Placement) (i : Image) : Option State := do
  if rectOk s j r pl && bindOk s r i.feats pl then
    let s := (← layRoutes s pl).setRegion (r.bound pl)
    if realises s (r.bound pl) i then return s else none
  else none

/-- A region placed on a rectangle, other than that of a load that was aborted: its streams are opened. -/
def placeOn (s : State) (j : Job) (r : Region) (pl : Placement) (i : Image) : Option State := do
  if r.attempts != 0 && pl.x0 == r.x0 && pl.y0 == r.y0 then none
  else openAll (← routedOn s j r pl i) ((r.bound pl).streams i)

/-! ## The search for a rectangle (14 R429, R430; 07 R467) -/

/-- The rectangles of a job's allowed partitions that could take W x H roles: partition, x and y (14 R430). -/
def candidates (s : State) (j : Job) (r : Region) : List (Nat × Nat × Nat) :=
  (List.range 84).flatMap fun p =>
    match (if j.parts / 2 ^ p % 2 = 1 then s.partBounds p else none) with
    | none => []
    | some (xa, xb, ya, yb) =>
      if xb < xa + r.w ∨ yb < ya + r.h then []
      else
        (List.range ((yb - ya - r.h) / 8 + 1)).flatMap fun dy =>
          (List.range ((xb - xa - r.w) / 8 + 1)).map fun dx => (p, xa + 8 * dx, ya + 8 * dy)

/-- Whether the cores of a rectangle could take the roles of an image: enough of each cluster are present with its features, and for
the tensor feature enough on each of enough rows (01 R25; 03 R107; 04 R130; 09 R311). -/
def bindable (s : State) (r : Region) (feats x0 y0 : Nat) : Bool :=
  let good (x y : Nat) : Bool := !s.absent (lidOf x y) && decide (feats &&& (s.hwpOf (lidOf x y)).toNat = feats)
  let inRow (cx y : Nat) : Nat := ((List.range 8).filter fun dx => good (x0 + 8 * cx + dx) y).length
  (List.range ((r.w + 7) / 8)).all fun cx => (List.range ((r.h + 7) / 8)).all fun cy =>
    let cols := min 8 (r.w - 8 * cx)
    let rows := min 8 (r.h - 8 * cy)
    let counts := (List.range 8).map fun dy => inRow cx (y0 + 8 * cy + dy)
    if feats % 2 = 1 then decide (rows ≤ (counts.map (· / cols)).foldl (· + ·) 0)
    else decide (rows * cols ≤ counts.foldl (· + ·) 0)

/-- Whether a cluster of a rectangle is held by another region. -/
def rectHeld (s : State) (r : Region) (x0 y0 : Nat) : Bool :=
  let held := (s.regions.filter (·.id != r.id)).flatMap (·.bind.map clusterOf)
  (List.range ((r.w + 7) / 8)).any fun cx => (List.range ((r.h + 7) / 8)).any fun cy =>
    held.contains (clusterOf (lidOf (x0 + 8 * cx) (y0 + 8 * cy)))

/-- The mapper's answer for a region on a rectangle: one that comes with an event, or that there is no routing. -/
def State.answerFor (s : State) (r : Region) (tried : List Tried) (p x0 y0 : Nat) : Option (Option Placement) :=
  match (tried.find? fun x => x.region == r.id && x.part == p && x.x0 == x0 && x.y0 == y0).map (·.out) with
  | some out => some out
  | none => do
    let key ← s.mapKey r (max 1 r.cfgseq) x0 y0
    if s.mapped.contains (key, none) then return none else none

/-- The roles of a region at the cores of a rectangle where repair leaves them. -/
def Region.standing (r : Region) (x0 y0 : Nat) : Region :=
  { r with bind := (List.range (r.w * r.h)).map fun k => lidOf (x0 + k % r.w) (y0 + k / r.w) }

/-- Whether a rectangle is kept from a region by the contexts or transit entries that it needs there, or because the mapper finds no
routing (07 R467; 08 R284). -/
def answerBars (s : State) (r : Region) (i : Image) (tried : List Tried) (p x0 y0 : Nat) : Bool :=
  let r' := r.standing x0 y0
  !assignable (byCore (r'.streams i)) (s.setRegion r')
    || match s.answerFor r tried p x0 y0 with
       | some none => true
       | some (some pl) => pl.x0 == x0 && pl.y0 == y0 && pl.part == p && (layRoutes s pl).isNone
       | none => false

/-- Whether a region cannot take a rectangle now. -/
def unusable (s : State) (r : Region) (i : Image) (tried : List Tried) (c : Nat × Nat × Nat) : Bool :=
  let (p, x0, y0) := c
  rectHeld s r x0 y0 || !bindable s r i.feats x0 y0 || (r.attempts != 0 && x0 == r.x0 && y0 == r.y0)
    || answerBars s r i tried p x0 y0

/-- The module with every other region's cores, transit entries and contexts free. -/
def State.emptied (s : State) (r : Region) : State := (s.regions.filter (·.id != r.id)).foldl (fun s x => (s.vacate x).setRegion x.unbound) s

/-- Whether no rectangle of its allowed partitions could hold a region, even with every core and every context free (14 R430; 07
R467). -/
def unplaceable (s : State) (j : Job) (r : Region) (tried : List Tried) : Bool :=
  match s.imageOf r (max 1 r.cfgseq) with
  | none => false
  | some i =>
    (candidates s j r).all fun (p, x0, y0) =>
      !bindable s r i.feats x0 y0 || answerBars (s.emptied r) r i tried p x0 y0

/-- Whether an answer of the mapper for a rectangle can be one: a placement there that keeps the rules with everything else free, or
that there is no routing, of an image that has routes (14 R430, R431; 08 R284). -/
def answerOk (s : State) (r : Region) (i : Image) (x : Tried) : Bool :=
  match x.out, s.job r.job with
  | none, _ => !i.routes.isEmpty
  | some pl, some j => pl.x0 == x.x0 && pl.y0 == x.y0 && pl.part == x.part && (routedOn (s.emptied r) j r pl i).isSome
  | some _, none => false

/-- The mapper's answers that come with an event, noted; none where one is none of its answers, or differs from an earlier one. -/
def noteTried (s : State) (tried : List Tried) : Option State :=
  tried.foldlM (fun s x => do
    let r ← s.regions.find? (·.id == x.region)
    let i ← s.imageOf r (max 1 r.cfgseq)
    let key ← s.mapKey r (max 1 r.cfgseq) x.x0 x.y0
    if !answerOk s r i x then none
    else
      match x.out with
      | some pl => if s.mayAnswer key pl then return s.noteAnswer key pl else none
      | none => if s.mapperGives key none then return s.noteMapped key none else none) s

/-- A region placed by the mapper's answer for the first rectangle, in ascending y and then x, that it can take (14 R430, R431). -/
def placeAt (s : State) (j : Job) (r : Region) (tried : List Tried) (pl : Placement) : Option State := do
  let i ← s.imageOf r (max 1 r.cfgseq)
  let key ← s.mapKey r (max 1 r.cfgseq) pl.x0 pl.y0
  let before := (candidates s j r).filter fun c => decide (c.2.2 < pl.y0) || (c.2.2 == pl.y0 && decide (c.2.1 < pl.x0))
  if s.mayAnswer key pl && before.all (unusable s r i tried) then (placeOn s j r pl i).map (·.noteAnswer key pl) else none

/-! ## Saved router state on a new placement (08 R289) -/

/-- How many SUM entries a way may pass (08 R281), and a bound for the hops of a way of a region. -/
def sumDepth : Nat := 5
def Region.hops (r : Region) : Nat := r.laid.length + 1

/-- The entries that the program wrote, restored on the cores of the new placement; none where one does not fit there (08 R289). -/
def rewriteEntries (s : State) (r : Region) : Option State :=
  r.saved.foldlM (fun s (role, c) => c.router.written.foldlM (fun s t =>
    let lid := r.coreOf role
    let e := Table.get 0 c.router.routes t
    if entryFits (s.core lid).router t e then
      some (s.modRouter lid fun rt => { rt with routes := Table.set 0 t e rt.routes, written := t :: rt.written })
    else none) s) s

/-- The entries of a region that may hold the state of a saved entry: the one that the program wrote, or those of its operation whose
flits owe the same. -/
def entriesFor (s : State) (r : Region) (x : SavedEntry) : List Site :=
  match x.own with
  | some (role, t) => [(r.coreOf role, t)]
  | none => r.laid.filter fun t =>
    let e := (s.core t.1).route t.2
    (match x.state with
     | .sum _ => entOp e == 1
     | .adapter _ => entOp e == 2
     | .renorm _ => entOp e == 0 && entRen e) && owedBy s r r.hops 0 true t 0 sumDepth == x.owed

/-- A flit that an entry formed, as the entry it is restored to forms it: a RENORM flit goes on the return tag of that entry. -/
def reformed (tag : Nat) (e : Word) (h : Held) : Held :=
  { flit := { h.flit with tag := BitVec.ofNat 7 (if h.flit.kind = 2 then entAtag e else tag) }, entry := e }

/-- The states of saved entries under the first entry of the new placement that each may belong to and no other has. -/
def restoreEntries (s : State) (r : Region) : Option State := do
  let (s, _) ← r.savedEntries.foldlM (fun (acc : State × List Site) (x : SavedEntry) =>
    let (s, used) := acc
    match (entriesFor s r x).filter fun t => !used.contains t with
    | (lid, tag) :: _ =>
      let own := reformed tag ((s.core lid).route tag)
      some (s.modRouter lid (fun rt =>
        match x.state with
        | .sum m => rt.setSum tag { m with formed := m.formed.map own }
        | .adapter a => rt.setAdapter tag { a with formed := a.formed.map own }
        | .renorm n => rt.setRenorm tag { n with formed := n.formed.map own, parts := n.parts.map own }), (lid, tag) :: used)
    | [] => none) (s, [])
  return s

/-- Outputs held for the rest of a message: from a place of a router along its way to where a flit of it already is (08 R268). -/
def holdAlong (left : Nat) : Nat → Nat → Nat → Nat → State → State
  | 0, _, _, _, s => s
  | k + 1, lid, place, tag, s =>
    let e := (s.core lid).route tag
    let put (o : Nat) (s : State) : State := s.modRouter lid fun rt => { rt with locked := Table.put o { place, tag, left } rt.locked }
    if place < 8 ∧ 1 ≤ entDmd e then
      let s := put (delayHold tag) s
      if (Table.get [] (s.core lid).router.delays tag).isEmpty then holdAlong left k lid (delayHold tag) tag s else s
    else
      let tag' := if entRte e then entRetag e else tag
      (outputsOf e).foldl (fun s o =>
        let s := put o s
        match (if o < 4 then neighbour lid o else none) with
        | some n =>
          if (Table.get [] (s.core n).router.ports (opposite o)).any (·.tag.toNat == tag') then s
          else holdAlong left k n (opposite o) tag' s
        | none => s) s

/-- A saved flit put at a place (0 to 3 a port buffer, 4 the delay queue) of an entry where it owes the same, which has room; placed
lists those before it, with their entries, places and distances, and none of them that owes a goal with it is behind it. -/
def putFlit (r : Region) (x : SavedFlit) (lid place tag : Nat) (acc : State × List (SavedFlit × Site × Nat × Nat)) :
    Option (State × List (SavedFlit × Site × Nat × Nat)) :=
  let (s, placed) := acc
  let rt := (s.core lid).router
  let far := farBy s r r.hops x.flit.kind false (lid, tag) sumDepth
  let meets (y : SavedFlit) : Bool := y.owed.any fun o => x.owed.any fun o' => o.goal == o'.goal && o.tag == o'.tag
  let ordered := placed.all fun (y, site, p, d) =>
    !meets y || (decide (d ≤ far) && (site != (lid, tag) || p == 4 || p == place))
  let f := { x.flit with tag := BitVec.ofNat 7 tag }
  let port := Table.get [] rt.ports place
  let delay := Table.get [] rt.delays tag
  let fits := if place < 4 then decide (port.length < 2) else place == 4 && decide (delay.length < entDmd (rt.lookup f).entry)
  let known := r.laid.contains (lid, tag) || (r.bind.contains lid && rt.written.contains tag)
  if known && owedBy s r r.hops f.kind false (lid, tag) f.cix sumDepth == x.owed && fits && ordered then
    let s := s.modRouter lid fun rt =>
      if place < 4 then { rt with ports := Table.set [] place (port ++ [f]) rt.ports }
      else
        let h := rt.lookup f
        { rt with delays := Table.set [] tag (delay ++ [{ h with entry := x.under.getD h.entry }]) rt.delays }
    some (s, placed ++ [(x, (lid, tag), place, far)])
  else none

/-- The flits that a region's routers held put back on its new routes, each once and in their order, the states of its entries with
them, and the holds of messages that are half over (08 R268, R289; log 34). -/
def placeFlits (s : State) (r : Region) (pl : Placement) : Option State := do
  let s ← restoreEntries (← rewriteEntries s r) r
  if pl.links.map (·.1) != List.range r.savedFlits.length then none
  else
    let (s, placed) ← (r.savedFlits.zip pl.links).foldlM (fun acc x => putFlit r x.1 x.2.2.1 x.2.2.2.1 x.2.2.2.2 acc) (s, [])
    let s := placed.foldl (fun s (x, site, place, _) =>
      if x.left = 0 then s else holdAlong x.left 256 site.1 (if place < 4 then place else delayHold site.2) site.2 s) s
    return (r.saved.foldl (fun s (role, c) =>
      let lead := c.router.outq.takeWhile fun f => f.kind == 0 && f.fmt == 11
      match lead with
      | f :: _ => holdAlong lead.length 256 (r.coreOf role) 4 f.tag.toNat s
      | [] => s) s)

/-- One region of a unit placed. -/
def placeOne (s : State) (j : Job) (tried : List Tried) (id : Nat) (pl : Placement) : Option State := do
  let r ← s.regions.find? (·.id == id)
  if !r.waiting then none
  else if r.st == .saved && !r.evicted then placeBack s r pl.ports
  else
    let s ← placeAt s j r tried pl
    if r.resuming then placeFlits s (← s.regions.find? (·.id == id)) pl else return s

/-- The regions of a unit placed at once, where the rules allow it (14 R429). -/
def placeAll (s : State) (j : Job) (unit : List Region) (tried : List Tried) (pls : List (Nat × Placement)) : Option State :=
  let asked := unit.filter (·.waiting)
  if asked.all (fun r => pls.any (·.1 == r.id)) && noRepeats (pls.map (·.1)) && pls.all (fun p => asked.any (·.id == p.1))
      && asked.all s.depsMet && s.budgetsAllow j asked && s.linkAllows j then do
    let s ← noteTried s tried
    let s ← pls.foldlM (fun s p => placeOne s j tried p.1 p.2) s
    return s.takeLink j
  else none

/-- Whether a waiting region comes before another in the order of 14 R429: the higher priority, the earlier LAUNCH, the earlier leaf. -/
def State.comesBefore (s : State) (a b : Region) : Bool :=
  let prio (r : Region) : Nat := ((s.leafOf r).map (·.prio)).getD 0
  let launch (r : Region) : Nat := ((s.job r.job).map (·.launch)).getD 0
  let place (r : Region) : Nat := s.regions.findIdx (·.id == r.id)
  decide (prio b < prio a) || (prio a == prio b && (decide (launch a < launch b) || (launch a == launch b && decide (place a < place b))))

/-- Whether a waiting region cannot be placed now: a dependence, a budget or a link context keeps it, or no rectangle takes it or
another region of its unit. -/
def State.blocked (s : State) (tried : List Tried) (r : Region) : Bool :=
  match s.job r.job with
  | none => true
  | some j =>
    let asked := (s.unitOf r).filter (·.waiting)
    !(asked.all s.depsMet && s.budgetsAllow j asked && s.linkAllows j) || asked.any fun x =>
      if x.st == .saved && !x.evicted then
        (placeBack s x x.ports).isNone && (x.bind.any s.absent || x.attempts != 0 || !assignable (byCore (savedContexts x)) s)
      else
        match s.imageOf x (max 1 x.cfgseq) with
        | none => true
        | some i => (candidates s j x).all (unusable s x i tried)

/-- REGION_PLACE (14 R429, R430): pls places the regions of a region's unit by the mapper's answers, no region that comes before it
being placeable; where it places none, the region ends UNPLACEABLE if no rectangle could hold it (log 7). -/
def execRegionPlace (rg : Nat) (pls : MapperAnswer) (s : State) : Host.Outcome State Fault Refusal :=
  match s.regions.find? (·.id == rg) with
  | none => .next s
  | some r =>
    match s.job r.job with
    | none => .next s
    | some j =>
      let unit := s.unitOf r
      if !r.waiting || !s.mg.waferOn then .next s
      else if (s.depsOf r).any (·.failed) && r.st == .empty then .next (endRegion s r 8 0)
      else
        match pls.placed with
        | some placed =>
          let first := (s.regions.filter (·.waiting)).all fun x =>
            unit.any (·.id == x.id) || !s.comesBefore x r || s.blocked pls.tried x
          .next (if first then (placeAll s j unit pls.tried placed).getD s else s)
        | none =>
          match noteTried s pls.tried with
          | some s' => .next (if r.st == .empty && unplaceable s j r pls.tried then endRegion s' r 3 0 else s)
          | none => .next s

/-! ## Staging and commit (14 R433, R442; 11 R357; 01 R40) -/

/-- An atomic engine with core numbers replaced (12 R398). -/
def Cluster.rekey (e : Cluster) (f : Nat → Nat) : Cluster :=
  let keys {α : Type} (t : Table α) : Table α := t.foldl (fun t p => Table.put (f p.1) p.2 t) []
  let reqs (t : Table AtomReq) : Table AtomReq := (keys t).map fun (k, q) => (k, { q with home := f q.home })
  { e with
    hot := [], lines := reqs e.lines, plain := [], cellReqs := reqs e.cellReqs, linePromo := e.linePromo.map f, cellPromo := e.cellPromo.map f
    det := keys e.det, detUsed := keys e.detUsed, detHeld := reqs e.detHeld, detStep := keys e.detStep }

/-- An entry of a store buffer with its home core replaced. -/
def SbEntry.rehome (f : Nat → Nat) : SbEntry → SbEntry
  | .store lid a bytes => .store (f lid) a bytes
  | .atomic op lid a w b c => .atomic op (f lid) a w b c

/-- The role cluster of a role (04 R130). -/
def Region.roleCluster (r : Region) (role : Nat) : Nat := role / r.w / 8 * 144 + role % r.w / 8

/-- A router as a role's context is restored on a core: the entries, what they hold and what stands before them are those of the
placement. -/
def Router.restore (saved now : Router) : Router :=
  { saved with
    routes := now.routes, ports := now.ports, delays := now.delays, sums := now.sums, renorms := now.renorms
    adapters := now.adapters, written := now.written, locked := now.locked, turn := now.turn }

/-- A role's context restored on a core of the new placement (14 R442): HWP and the error counts are those of the core, and a
stalled instruction executes again. -/
def Core.restore (saved now : Core) (lpg : Nat) : Core :=
  { saved with
    hwp := now.hwp, eccWindow := now.eccWindow, eccCount := now.eccCount, degraded := now.degraded
    router := saved.router.restore now.router, lattice := { saved.lattice with budget := BitVec.ofNat 4 lpg }
    live := false, wait := none, rptWait := none }

/-! ## The save area (14 R441, R442) -/

/-- Bytes of a save area: 96 KiB for each role, then 16 KiB for each role cluster (14 R441). -/
def Region.saveBytes (r : Region) : Nat := 98304 * (r.w * r.h) + 16384 * ((r.w + 7) / 8 * ((r.h + 7) / 8))

/-- A table of n values read from consecutive fields of w bytes, those equal to d not listed. -/
def tableOf {α : Type} [DecidableEq α] (d : α) (read : List Byte → α) (w n : Nat) (b : List Byte) : Table α :=
  (List.range n).foldl (fun t k => Table.set d k (read ((b.drop (w * k)).take w)) t) []

/-- The bytes of a queue of up to eight flits: how many, then payload, sideband and tag of each. -/
def queueBytes (fs : List Flit) : List Byte :=
  bytesOfNat 1 fs.length ++ (List.range 8).flatMap fun k =>
    let f := fs.getD k { payload := 0, side := 0, tag := 0 }
    bytesOfNat 16 f.payload.toNat ++ bytesOfNat 6 f.side.toNat ++ bytesOfNat 1 f.tag.toNat

/-- A queue from its bytes. -/
def queueOf (b : List Byte) : List Flit :=
  (List.range (min 8 (natAt b 0 1))).map fun k =>
    { payload := BitVec.ofNat 128 (natAt b (23 * k + 1) 16), side := BitVec.ofNat 48 (natAt b (23 * k + 17) 6)
      tag := BitVec.ofNat 7 (natAt b (23 * k + 23) 1) }

/-- The writable control registers of a core that its shadow store holds. -/
def shadowCsrs : List Nat :=
  [0x10, 0x11, 0x12, 0x13, 0x14, 0x18, 0x19, 0x1A, 0x1B, 0x1C, 0x20, 0x21, 0x22, 0x23, 0x24, 0x25, 0x26, 0x27, 0x28, 0x40, 0x200, 0x231,
    0x260] ++ (List.range 32).map (0x100 + ·)

/-- The queues of a core: q0 to q7, the output queue, the gang queue and the lattice input. -/
def Core.flitQueues (c : Core) : List (List Flit) :=
  (List.range 8).map c.queue ++ [c.router.outq, c.tensor.gangq, c.lattice.inq]

/-- The registers, control registers and queues of a core as its shadow store has them (01 R27; 14 R441). -/
def Core.shadowBytes (c : Core) : List Byte :=
  bytesOfNat 2 c.pc.toNat ++ bytesOfNat 1 (bit c.prv) ++ bytesOfNat 1 c.ras.length
    ++ (List.range 16).flatMap (fun k => bytesOfNat 2 (c.ras.getD k 0).toNat)
    ++ (List.range 24).flatMap (fun k => bytesOfNat 8 (c.reg k).toNat)
    ++ (List.range 16).flatMap (fun k => bytesOfNat 32 (c.vreg k).toNat ++ bytesOfNat 9 (c.vtag k).toNat)
    ++ shadowCsrs.flatMap (fun a => bytesOfNat 8 (csrValue { State.reset with cores := [(0, c)] } a).toNat)
    ++ bytesOfNat 8 c.router.qtags.toNat ++ bytesOfNat 8 c.router.exlog.toNat ++ c.flitQueues.flatMap queueBytes

/-- A core with its registers, control registers and queues as its shadow store gives them. -/
def Core.withShadow (c : Core) (b : List Byte) : Core :=
  let c := { c with
    pc := BitVec.ofNat 16 (natAt b 0 2), prv := natAt b 2 1 == 1
    ras := (List.range (min 16 (natAt b 3 1))).map fun k => BitVec.ofNat 16 (natAt b (4 + 2 * k) 2) }
  let c := (List.range 24).foldl (fun c k => c.setReg k (BitVec.ofNat 64 (natAt b (36 + 8 * k) 8))) c
  let c := (List.range 16).foldl (fun c k =>
    c.setVreg k (BitVec.ofNat 256 (natAt b (228 + 41 * k) 32)) (BitVec.ofNat 72 (natAt b (260 + 41 * k) 9))) c
  let c := shadowCsrs.zipIdx.foldl (fun c (a, k) => c.setCsr a (BitVec.ofNat 64 (natAt b (884 + 8 * k) 8))) c
  let at_ := 884 + 8 * shadowCsrs.length
  let q (k : Nat) : List Flit := queueOf (b.drop (at_ + 16 + 185 * k))
  { c with
    router := { c.router with
      qtags := BitVec.ofNat 64 (natAt b at_ 8), exlog := BitVec.ofNat 64 (natAt b (at_ + 8) 8)
      inq := tableOf [] (fun x => queueOf x) 185 8 (b.drop (at_ + 16)), outq := q 8 }
    tensor := { c.tensor with gangq := q 9 }
    lattice := { c.lattice with inq := q 10 } }

/-- The copies of a core's LOC, tensor store, accumulators, lattice store and shadow store in the 96 KiB of its role (14 R441; log
10). -/
def Core.storeBytes (c : Core) : List Byte :=
  cellsAt c.loc 0 65536 ++ cellsAt c.tensor.elems 0 4096
    ++ (List.range 512).flatMap (fun k => bytesOfNat 2 (Table.get 0 c.tensor.scales k).toNat)
    ++ (List.range 8).flatMap (fun k => (Table.get Ba40.zero c.tensor.accs k).record)
    ++ (List.range 1024).flatMap (fun k => bytesOfNat 8 (Table.get 0 c.lattice.cells k).toNat)
    ++ (List.range 8).flatMap (fun k => bytesOfNat 8 (c.lattice.graph k).toNat) ++ c.shadowBytes

/-- The copies of an atomic engine's cells in the 16 KiB of its role cluster (14 R441; log 10). -/
def Cluster.cellBytes (e : Cluster) : List Byte := (List.range 256).flatMap fun k => bytesOfNat 48 (Table.get 0 e.cells k).toNat

/-- A core with its stores as the 96 KiB of its role in a save area give them. -/
def Core.withStores (c : Core) (b : List Byte) : Core :=
  let c := c.withShadow (b.drop 79616)
  { c with
    loc := memoryOf (b.take 65536)
    tensor := { c.tensor with
      elems := memoryOf ((b.drop 65536).take 4096)
      scales := tableOf 0 (fun x => BitVec.ofNat 16 (natOfBytes x)) 2 512 (b.drop 69632)
      accs := tableOf Ba40.zero ba40OfRecord 88 8 (b.drop 70656) }
    lattice := { c.lattice with
      cells := tableOf 0 (fun x => BitVec.ofNat 64 (natOfBytes x)) 8 1024 (b.drop 71360)
      lgd := tableOf 0 (fun x => BitVec.ofNat 64 (natOfBytes x)) 8 8 (b.drop 79552) } }

/-- An atomic engine with its cells as the 16 KiB of its role cluster in a save area give them. -/
def Cluster.withCells (e : Cluster) (b : List Byte) : Cluster :=
  { e with cells := tableOf 0 (fun x => BitVec.ofNat 384 (natOfBytes x)) 48 256 b }

/-- The role clusters of a region, in ascending order. -/
def Region.roleClusters (r : Region) : List Nat :=
  (List.range ((r.h + 7) / 8)).flatMap fun cy => (List.range ((r.w + 7) / 8)).map fun cx => 144 * cy + cx

/-- The bytes that a save area holds for a role, and for a role cluster. -/
def Region.roleArea (area : List Byte) (role : Nat) : List Byte := (area.drop (98304 * role)).take 98304
def Region.clusterArea (r : Region) (area : List Byte) (key : Nat) : List Byte :=
  (area.drop (98304 * (r.w * r.h) + 16384 * r.roleClusters.idxOf key)).take 16384

/-- The core of a role as it is staged; area holds the bytes of the save area of an evicted region. -/
def stageCore (s : State) (r : Region) (i : Image) (lpg : Nat) (area : List Byte) (role lid : Nat) : Core :=
  let c := { s.core lid with hwp := s.hwpOf lid }
  let c :=
    if r.resuming then
      if r.evicted then
        let saved := (Table.find r.saved role).getD c
        { (saved.withStores (Region.roleArea area role)).restore c lpg with sb := saved.sb.map (·.rehome fun k => r.bind.getD k 0) }
      else c.restore c lpg
    else c.loaded i role r.id lpg
  bindSlots s lid (!r.resuming) c

/-- The atomic engines of an evicted region restored at the clusters of its binding. -/
def restoreCells (s : State) (r : Region) (area : List Byte) : State :=
  r.savedCells.foldl (fun s (p : Nat × Cluster) =>
    match (List.range r.bind.length).find? fun k => r.roleCluster k == p.1 with
    | some k =>
      s.setCluster (clusterOf (r.bind.getD k 0))
        ((p.2.withCells (r.clusterArea area p.1)).rekey fun role => r.bind.getD role 0)
    | none => s) s

/-- Every core of a region written and checked: STAGED; an unreadable image or save area aborts the load (14 R433, R434). -/
def stageRegion (s : State) (r : Region) : State :=
  let node := s.leafOf r
  let lpg := (node.map (·.lpg)).getD 0
  let area := if r.evicted then vaSpan s (s.rootOf r) ((node.map (·.saveva)).getD 0) r.saveBytes else some []
  match s.imageOf r (max 1 r.cfgseq), area with
  | some i, some area =>
    let s := (r.bind.zipIdx).foldl (fun s (p : Nat × Nat) => s.setCore p.1 (stageCore s r i lpg area p.2 p.1)) s
    let s := if r.resuming then restoreCells s r area
      else { s with clusters := s.clusters.filter fun e => !r.clusters.contains e.1 }
    s.setRegion { r with st := .staged, idle := i.idle, groups := i.groups }
  | _, _ => abortLoad s r

/-- The number of the group that a record joins: that of its key and channel in the job, else its own (11 R356, R357). -/
def State.groupFor (s : State) (r : Region) (g : GroupRec) : Option (Nat × Group) :=
  s.groups.find? fun p =>
    p.2.job == r.job && p.2.ch == g.ch
      && (if g.key = 0 then p.2.key == 0 && p.2.gids.contains (r.id, g.gid) else p.2.key == g.key)

/-- A region's record joined to its group: the members keep their order, and a new group begins with SEQ seq. -/
def joinGroup (r : Region) (seq : BitVec 32) (s : State) (g : GroupRec) : State :=
  let members := g.roles.map fun k => (r.id, k)
  match s.groupFor r g with
  | some (n, old) =>
    let new := { old with
      gids := old.gids.filter (· != (r.id, g.gid)) ++ [(r.id, g.gid)]
      members := old.members ++ members.filter fun m => !old.members.contains m }
    { s with groups := Table.put n new s.groups }
  | none =>
    let n := s.groups.foldl (fun m p => max m (p.1 + 1)) 0
    let new : Group :=
      { job := r.job, key := g.key, ch := g.ch, link := g.link, gids := [(r.id, g.gid)], members, seq, inEp := false,
        contribs := [], excused := [], once := [], left := [], masked := [], retired := [], sending := [], partials := [],
        sent := false, asked := false, held := [], told := [] }
    { s with groups := Table.put n new s.groups }

/-- The retirement of a region's roles ends at their placement (11 R360). -/
def clearRetired (s : State) (r : Region) : State :=
  { s with groups := s.groups.map fun (n, g) => (n, { g with retired := g.retired.filter (·.1 != r.id) }) }

/-- A region commits: it is LIVE, its groups stand, and the token is on its way to its cores (14 R433, R437; 11 R357). -/
def commitRegion (s : State) (r : Region) : State :=
  let r' := { r with
    st := .live, resuming := false, evicted := false, attempts := 0, cfgseq := max 1 r.cfgseq, saved := [], savedStreams := []
    savedCells := [], savedFlits := [], savedEntries := [], pending := r.bind }
  let s := if r.resuming then clearRetired s r else r.groups.foldl (joinGroup r 1) s
  (s.setRegion r').reach r.id [.leftSaved] false

/-- STAGING_COMPLETE (14 R433): a LOADING region is staged; when every region of its unit is STAGED, all commit. -/
def execStagingComplete (rg : Nat) (s : State) : Host.Outcome State Fault Refusal :=
  match s.regions.find? (·.id == rg) with
  | none => .next s
  | some r =>
    match r.st with
    | .loading => .next (stageRegion s r)
    | .staged =>
      let unit := s.unitOf r
      if unit.all (·.st == .staged) then .next (restartWaits s (crownPending (unit.foldl commitRegion s))) else .next s
    | _ => .next s

/-- The collectives of a member that ended while its core was away: their results are written and their tokens sent before
the core issues (13 R413). -/
def deliverEnded (s : State) (lid : Nat) : State :=
  match s.memberOf lid with
  | none => s
  | some m =>
    (s.collectives.filter fun c => c.2.who == m && c.2.over).foldl (fun s c => endCollective s c.1 c.2 lid) s

/-- COMMIT_TOKEN_ARRIVAL (14 R433; 01 R40): the core takes what was staged for it, and a repeat buffer that a halt stopped is refilled
(05 R173). -/
def execCommitTokenArrival (lid : Nat) (s : State) : Host.Outcome State Fault Refusal :=
  if coreCount ≤ lid then .fault .noSuchUnit
  else
    match s.regionOf lid with
    | some r =>
      if r.pending.contains lid && r.moving then
        let s := s.setRegion { r with pending := r.pending.filter (· != lid) }
        .next ((deliverEnded (s.setCore lid { s.core lid with live := true }) lid).refillRpt lid)
      else .next s
    | none => .next s

/-- LOAD_ABORT (14 R434): an uncorrectable error that a core of a region reports before commit; the core is degraded (15 R459). -/
def execLoadAbort (lid : Nat) (s : State) : Host.Outcome State Fault Refusal :=
  if coreCount ≤ lid then .fault .noSuchUnit
  else
    match s.regionOf lid with
    | some r =>
      let s' := s.setCore lid { s.core lid with degraded := true }
      if r.st == .loading || r.st == .staged || (r.st == .live && r.step != .none) then .next (abortLoad s' r)
      else .next s
    | none => .next s

/-! ## Quiescence and completion (14 R436) -/

/-- The roles that run: neither idle nor retired. -/
def State.runningRoles (s : State) (r : Region) : List Nat :=
  (List.range r.bind.length).filter fun k => !r.idle.contains k && !s.isRetired (r.bind.getD k 0)

/-- Whether a router holds no flit of some tags in its links, delay queues, SUM slots and entry results (08 R267). -/
def Router.clearOf (rt : Router) (tags : List Nat) : Bool :=
  let at_ {α : Type} (t : Table α) (busy : α → Bool) : Bool := t.any fun e => tags.contains e.1 && busy e.2
  !(rt.ports.any fun e => e.2.any fun f => tags.contains f.tag.toNat)
    && !at_ rt.delays (fun fs => !fs.isEmpty) && !at_ rt.sums (fun m => !m.slots.isEmpty || !m.formed.isEmpty)
    && !at_ rt.renorms (fun n => !n.parts.isEmpty || !n.formed.isEmpty)
    && !at_ rt.adapters (fun a => a.pending.isSome || !a.formed.isEmpty)

/-- Whether a core's own queues hold no flit but KIND 4 flits in input queues. -/
def Core.queuesQuiet (c : Core) : Bool :=
  c.router.outq.isEmpty && c.router.asm.isEmpty && c.router.inq.all (fun e => e.2.all (·.kind == 4)) && c.tensor.gangq.isEmpty
    && c.lattice.inq.isEmpty && c.lattice.streamOut.isEmpty && c.lattice.rest.isEmpty

/-- Whether a running role's core has nothing left to do (14 R436). -/
def Core.idleNow (c : Core) : Bool :=
  c.runq.isEmpty && c.inbox.isEmpty && c.rpt.isNone && (c.noTasks || !(List.range 16).any c.ready)

/-- Whether nothing that a core began is outstanding: stores, a speculation, a stream, an entry of a circular buffer, a tree
contribution, a collective (14 R436). -/
def Core.settled (c : Core) : Bool :=
  c.sb.isEmpty && c.spec.isNone && c.slots.all (fun e => e.2.st != .run) && c.cbs.all (fun e => e.2.pos == 0)
    && c.chans.all (fun e => e.2.out.isNone) && c.colls.all (fun e => e.2.st != 1)

/-- Whether no engine outside its cores works on a command of a region. -/
def State.enginesQuiet (s : State) (r : Region) : Bool :=
  let mine (l : Nat) : Bool := r.bind.contains l
  !(s.brims.any fun p => p.2.ctxs.any fun e =>
      mine e.2.lid && (e.2.running || e.2.closing || (e.2.dir == 2 && e.2.issued)))
    && !(s.tokens.any fun t => mine t.1) && !(s.collectives.any fun c => c.2.who.1 == r.id)
    && r.clusters.all fun cl =>
      let e := s.cluster cl
      e.lines.isEmpty && e.cellReqs.isEmpty && e.detHeld.isEmpty

/-- Quiescence of a LIVE region (14 R436). -/
def State.quiescent (s : State) (r : Region) : Bool :=
  r.st == .live && r.pending.isEmpty && r.stopFrom.isNone
    && (s.runningRoles r).all (fun k => (s.core (r.bind.getD k 0)).idleNow)
    && r.bind.all (fun l => (s.core l).settled && (s.core l).queuesQuiet && (s.core l).router.clearOf (List.range 112))
    && r.laid.all (fun p => r.bind.contains p.1 || (s.core p.1).router.clearOf [p.2]) && s.enginesQuiet r

/-- The lowest role whose core was retired with a task unfinished (14 R436). -/
def State.retiredWithTask (s : State) (r : Region) : Option Nat :=
  (List.range r.bind.length).find? fun k => s.isRetired (r.bind.getD k 0) && !(s.core (r.bind.getD k 0)).runq.isEmpty

/-- The lowest running role that has recorded no passage (14 R437). -/
def State.lacksPassage (s : State) (r : Region) : Option Nat := (s.runningRoles r).find? fun k => !r.passages.contains k

/-- Whether queue DQN of role DROLE takes a drain token (14 R437). -/
def State.tokenRoom (s : State) (r : Region) : Bool :=
  match s.leafOf r with
  | some n =>
    match r.bind[n.drole]? with
    | some lid => decide (((s.core lid).queue n.dqn).length < 8)
    | none => false
  | none => false

/-- REGION_COMPLETE (14 R436, R437): a quiescent region with no step requested ends OK or ROLE_RETIRED; one whose drain token
missed a role, or finds no room, ends DRAIN_INCOMPLETE. -/
def execRegionComplete (rg : Nat) (s : State) : Host.Outcome State Fault Refusal :=
  match s.regions.find? (·.id == rg) with
  | none => .next s
  | some r =>
    if !s.quiescent r || !r.mayDecide s 5 then .next s
    else
      let r := r.decided s 5
      match r.step, s.retiredWithTask r, s.lacksPassage r with
      | .none, none, _ => .next (endRegion s r 0 0)
      | .none, some k, _ => .next (endRegion s r 10 k)
      | .pushed, _, some k => .next (endRegion s r 7 k)
      | .requested, _, some k => .next (if s.tokenRoom r then s else endRegion s r 7 k)
      | _, _, _ => .next s

/-! ## Configuration steps (14 R432, R437, R438) -/

/-- DRAIN_TOKEN_PUSH (14 R437): the token enters queue DQN of role DROLE once it has room. -/
def execDrainTokenPush (rg : Nat) (s : State) : Host.Outcome State Fault Refusal :=
  match s.regions.find? (·.id == rg) with
  | none => .next s
  | some r =>
    match s.leafOf r, r.st, r.step with
    | some n, .live, .requested =>
      match r.bind[n.drole]? with
      | some lid =>
        let c := s.core lid
        if (c.queue n.dqn).length < 8 then
          let f := mkFlit 15 3 false false 0 0 0 0 (BitVec.ofNat 128 r.cfgseq)
          .next ((s.setCore lid (c.setQueue n.dqn (c.queue n.dqn ++ [f]))).setRegion { r with step := .pushed, passages := [] })
        else .next s
      | none => .next s
    | _, _, _ => .next s

/-- A present core of a role's cluster, with the image's features, that the region does not use (14 R438). -/
def State.spareFor (s : State) (r : Region) (feats lid : Nat) : Option Nat :=
  ((List.range 64).map fun k => lidOf (lid % 1152 / 8 * 8 + k % 8) (lid / 1152 / 8 * 8 + k / 8)).find? fun l =>
    !r.bind.contains l && !s.absent l && decide (feats &&& (s.hwpOf l).toNat = feats)

/-- The binding with each retired role on a spare core; none when a cluster has no spare (14 R438). -/
def rebind (s : State) (feats : Nat) (r : Region) : Nat → Option Region
  | 0 => some r
  | k + 1 => do
    let r ← rebind s feats r k
    let lid := r.bind.getD k 0
    if s.isRetired lid then
      let l ← s.spareFor r feats lid
      return { r with bind := r.bind.set k l }
    else return r

/-- A core of the next configuration: its own state stepped, or the context of the retired core it replaces. -/
def stepCoreOf (s : State) (i : Image) (r : Region) (old new role : Nat) : Core :=
  let now := { s.core new with hwp := s.hwpOf new }
  let c := s.core old
  let c := if old = new then { c with hwp := now.hwp } else { c.restore now c.lattice.budget.toNat with loc := c.loc }
  let c := c.stepped i role
  { c with live := false, wait := none, rptWait := none, progress := 0, exitCode := c.exitCode,
           regionId := BitVec.ofNat 32 r.id }

/-- The groups of the next configuration: those it does not declare lose the region's members, the others keep their SEQ
(log 35). -/
def regroup (s : State) (r : Region) (gs : List GroupRec) : State :=
  let seqOf (g : GroupRec) : BitVec 32 :=
    ((s.groups.find? fun p => p.2.ch == g.ch && p.2.members.any (·.1 == r.id)).map (·.2.seq)).getD 1
  let kept (g : Group) : Bool := gs.any fun x => x.ch == g.ch && x.key == g.key && (g.key != 0 || g.gids.contains (r.id, x.gid))
  let dropped := s.groups.map fun (n, g) =>
    (n, { g with members := g.members.filter (·.1 != r.id),
                 gids := g.gids.filter fun p => p.1 != r.id || (kept g && g.key == 0) })
  let seqs := gs.map fun g => (g, seqOf g)
  let s := seqs.foldl (fun s p => joinGroup r p.2 s p.1) { s with groups := dropped }
  { s with groups := s.groups.filter fun e => !e.2.members.isEmpty }

/-- The module without the route entries of a region. -/
def State.vacateRoutes (s : State) (r : Region) : State :=
  let lids := (r.laid.map (·.1)).eraseDups
  lids.foldl (fun s l => s.modRouter l fun rt => rt.strip (r.tagsAt l)) s

/-- The streams of some cores closed and the DET steps of their clusters begun again, at a step commit. -/
def State.stepEngines (s : State) (r : Region) : State :=
  let brims := s.brims.map fun (p, b) => (p, { b with ctxs := b.ctxs.filter fun e => !r.bind.contains e.2.lid })
  let clusters := s.clusters.map fun (n, e) =>
    if r.clusters.contains n then (n, { e with det := [], detUsed := [] }) else (n, e)
  { s with brims, clusters }

/-- The next configuration written and committed over the mapper's routes for it (14 R432, R437, R438): every core keeps the KIND
4 flits of its queues. -/
def switchTo (s : State) (r : Region) (i : Image) (pl : Placement) : Option State := do
  let new ← rebind s i.feats r r.bind.length
  let key ← s.mapKey r (r.cfgseq + 1) r.x0 r.y0
  if !(pl.bind == new.bind && s.mapperGives key (some (mapperOutput pl))) then none
  else
    let s1 ← layRoutes (s.vacateRoutes r) pl
    let cores := (List.range r.bind.length).map fun k => (new.bind.getD k 0, stepCoreOf s1 i r (r.bind.getD k 0) (new.bind.getD k 0) k)
    let s2 := cores.foldl (fun s (p : Nat × Core) => s.setCore p.1 p.2) s1
    let s2 := s2.noteMapped key (some (mapperOutput pl))
    let s2 := s2.stepEngines r
    let r' := { new with
      cfgseq := r.cfgseq + 1, step := .none, passages := [], attempts := 0, pending := new.bind, inject := pl.inject
      ports := pl.ports, laid := pl.routes.map (fun p => (p.1, p.2.1)), idle := i.idle, groups := i.groups }
    if !realises (s2.setRegion r') r' i then none
    let s3 ← openAll (s2.setRegion r') (declaredStreams i r')
    let s3 := r'.bind.foldl (fun s l => s.setCore l (bindSlots s l true (s.core l))) s3
    return clearRetired (regroup s3 r' i.groups) r'

/-- The configuration in force, whose number the region's end reports, with a step that cannot be routed: UNPLACEABLE (14
R432). -/
def stepUnplaceable (s : State) (r : Region) : State := endRegion s r 3 0

/-- A region leaves LIVE for DRAINING by an event of place k: its picker and its cores stop (14 R427, R440). -/
def beginDrain (s : State) (r : Region) (k : Nat) : State :=
  match r.st with
  | .live => s.setRegion { r.decided s k with st := .draining }
  | _ => s

/-- Whether a step may switch: its token was pushed, every running role has recorded a passage, and the region is quiescent
(14 R437). -/
def State.mayStep (s : State) (r : Region) : Bool :=
  r.step == .pushed && s.quiescent r && (s.lacksPassage r).isNone

/-- The next configuration staged and committed, or why not: an unreadable image aborts (14 R434); features that a bound core
lacks, or no routes, end the region UNPLACEABLE (R432); a retired role without a spare core has the region saved and resumed
as one unit (R438). -/
def stepRegion (s : State) (r : Region) (pl : Option Placement) : State :=
  match s.imageOf r (r.cfgseq + 1) with
  | none => abortLoad s r
  | some i =>
    let lacking := r.bind.any fun l => !s.isRetired l && decide (i.feats &&& (s.hwpOf l).toNat ≠ i.feats)
    match pl, rebind s i.feats r r.bind.length, s.mapKey r (r.cfgseq + 1) r.x0 r.y0 with
    | none, _, some key =>
      if lacking then stepUnplaceable s r
      else if !i.routes.isEmpty && !realises s r i && s.mapperGives key none then stepUnplaceable (s.noteMapped key none) r
      else s
    | none, _, none => s
    | some pl, some _, _ => if lacking then stepUnplaceable s r else (switchTo s r i pl).getD s
    | some _, none, _ => beginDrain s { r with resuming := true } 6

/-- CONFIG_STEP_SWITCH (14 R437, R438): pl is the mapper's routing of the next configuration over the region's binding; none
says that it cannot be routed (log 7). -/
def execConfigStepSwitch (rg : Nat) (pl : Option Placement) (s : State) : Host.Outcome State Fault Refusal :=
  match s.regions.find? (·.id == rg) with
  | none => .next s
  | some r => .next (if s.mayStep r && r.mayDecide s 6 then restartWaits s (stepRegion s (r.decided s 6) pl) else s)

end Sys2Proof.Machine
end

