-- ==== Sys2Proof/Machine/Swap.lean ====
section
/-! DEFINITION. Pre-emption, context swap and resume: the queue entries that act on a partition or a job, the halt of a core,
the save of a region, its eviction, the page-fault time limit, and the retirement of a core (14 R422, R426-R428, R440-R443; 01
R34; 07 R243, R244; 11 R372, R373; 15 R459). -/

namespace Sys2Proof.Machine

/-! ## Queue entries (14 R422, R427, R428, R440, R442) -/

/-- The numbers of the regions of a list in a state. -/
def idsIn (rs : List Region) (st : RegionState) : List Nat := (rs.filter (·.st == st)).map (·.id)

/-- The record of an entry of JOBTAG tag whose action is a goal of some regions. -/
def postDone (s : State) (q tag : Nat) (g : RecGoal) (ids : List Nat) (froze : Option Nat) : State :=
  s.post q (recordWords tag 2 0 0 0 0 0) (.goal g ids froze)

/-- A region pre-empted: a LIVE one drains, a LOADING or STAGED one loses its staging (14 R426, R440). -/
def preemptRegion (s : State) (id : Nat) : State :=
  match s.regions.find? (·.id == id) with
  | none => s
  | some r =>
    match r.st with
    | .live => beginDrain s r 3
    | .loading => unload s r
    | .staged => unload s r
    | _ => s

/-- The regions that stand in a partition. -/
def State.inPart (s : State) (p : Nat) : List Region := s.regions.filter fun r => r.part == p && !r.bind.isEmpty

/-- PREEMPT of partition ARG0: the record follows when no region of it is LIVE, LOADING, STAGED or DRAINING; a FROZEN one is
named by it (14 R422, R427, R440; 01 R34). -/
def preemptPart (q : Nat) (s : State) (e : QueueEntry) : State :=
  if 83 < e.arg0 then badEntry s q e
  else
    let mine := s.inPart e.arg0
    let s' := (mine.map (·.id)).foldl preemptRegion s
    let draining := idsIn (s'.regions.filter fun r => r.part == e.arg0) .draining
    restartWaits s (postDone s' q e.tag .quiet draining ((idsIn mine .frozen).head?))

/-- An entry whose regions may all decide an event of place k in this cycle acts; otherwise it waits, as it does for a fatal fault or a
halt.rgn that has still to stop one of them (14 R427; 01 R34). -/
def whenDecided (q k : Nat) (s : State) (rs : QueueEntry → List Region) (o : Host.Outcome State Fault Refusal) :
    Host.Outcome State Fault Refusal :=
  if ((s.nextEntry q).map fun e => (rs e).all fun r => r.mayDecide s k && r.stopFrom.isNone).getD true then o else .next s

/-- PREEMPT (14 R427, R440). -/
def execPreempt (q : Nat) (s : State) : Host.Outcome State Fault Refusal :=
  whenDecided q 3 s (fun e => if e.ty = 2 ∧ e.arg0 ≤ 83 then s.inPart e.arg0 else []) (queueEvent 2 q s (preemptPart q))

/-- RESUME: every SAVED region of the job waits to be placed again (14 R422, R442). -/
def resumeJob (q : Nat) (s : State) (e : QueueEntry) : State :=
  if (s.job e.tag).isNone then badEntry s q e
  else
    let saved := idsIn (s.regionsOf e.tag) .saved
    let s' := { s with regions := s.regions.map fun r => if saved.contains r.id then { r with resuming := true } else r }
    postDone s' q e.tag .leftSaved saved none

/-- RESUME (14 R442). -/
def execResume (q : Nat) (s : State) : Host.Outcome State Fault Refusal := queueEvent 3 q s (resumeJob q)

/-- A FROZEN region released: its contribution is FAULT with the cause of its fault record (14 R422, R426). -/
def releaseRegion (s : State) (r : Region) : State :=
  endRegion s r 5 (bitsOf ((r.fault.getD []).headD 0) 0 8)

/-- RELEASE: every FROZEN region of the job goes EMPTY (14 R422, R426). -/
def releaseJob (q : Nat) (s : State) (e : QueueEntry) : State :=
  if (s.job e.tag).isNone then badEntry s q e
  else
    let s := postDone s q e.tag .empty (idsIn (s.regionsOf e.tag) .frozen) none
    ((s.regionsOf e.tag).filter (·.st == .frozen)).foldl releaseRegion s

/-- RELEASE (14 R426). -/
def execRelease (q : Nat) (s : State) : Host.Outcome State Fault Refusal := queueEvent 4 q s (releaseJob q)

/-- CANCEL: every region of the job that has not ended ends CANCELLED; of a job that is not there it changes nothing (14
R428). -/
def cancelJob (q : Nat) (s : State) (e : QueueEntry) : State :=
  let open_ := (s.regionsOf e.tag).filter (·.done.isNone)
  let s := postDone s q e.tag .empty (open_.map (·.id)) none
  if open_.isEmpty then s
  else
    let s := { s with jobs := s.jobs.map fun j => if j.tag = e.tag then { j with cancelled := true } else j }
    open_.foldl (fun s r => endRegion s (r.decided s 2) 9 0) s

/-- CANCEL (14 R427, R428). -/
def execCancel (q : Nat) (s : State) : Host.Outcome State Fault Refusal :=
  whenDecided q 2 s (fun e => if e.ty = 5 then s.regionsOf e.tag else []) (queueEvent 5 q s (cancelJob q))

/-- INVALIDATE: a shoot-down of the job's pages in a range (14 R421, R422; 07 R244). -/
def invalidateJob (q : Nat) (s : State) (e : QueueEntry) : State :=
  match s.job e.tag with
  | none => badEntry s q e
  | some j => (shootDown s j.tag j.ptroot (pagesOf e.arg0 e.arg1)).post q (recordWords e.tag 2 0 0 0 0 0) .now

/-- INVALIDATE (07 R244). -/
def execInvalidate (q : Nat) (s : State) : Host.Outcome State Fault Refusal := queueEvent 6 q s (invalidateJob q)

/-! ## The page-fault time limit (07 R243) -/

/-- CYCLEs in a microsecond (01: the clock of 1.8 GHz). -/
def cyclesPerUs : Nat := 1800

/-- Whether a stall of a core's region has reached the region's page-fault time limit (01 R20; 07 R243). -/
def State.overLimit (s : State) (r : Region) (st : Stall) : Bool :=
  r.st == .live && !st.drained && r.stopFrom.isNone && r.mayDecide s 4
    && decide (((s.leafOf r).map (·.pflim)).getD 2000 * cyclesPerUs ≤ (s.cycle - BitVec.ofNat 64 st.start).toNat)

/-- The second report of a stream's stall, with the mark "drained", and the drain (07 R243). -/
def drainStream (s : State) (eng n : Nat) (c : StreamCtx) : State :=
  match s.regionOf c.lid, c.stall with
  | some r, some st =>
    if s.overLimit r st then
      let s := s.setCtx eng n { c with stall := some { st with drained := true } }
      let f := { c.report eng st.cause st.va with stall := true, drained := true }
      reportFault (beginDrain s r 4) r (faultRecord s r c.lid f)
    else s
  | _, _ => s

/-- A stall report with the mark "drained" (08 R288). -/
def markDrained (report : List Word) : List Word := (report.headD 0 ||| 0x20000) :: report.tail

/-- The second report of a scalar access's stall, and the drain (07 R243). -/
def drainScalar (s : State) (lid : Nat) : State :=
  match s.regionOf lid, s.scalarStalls.find? (·.lid == lid) with
  | some r, some x =>
    if s.overLimit r x.stall then
      let s := { s with scalarStalls := s.scalarStalls.map fun y =>
        if y.lid = lid then { y with stall := { y.stall with drained := true } } else y }
      reportFault (beginDrain s r 4) r (markDrained x.report)
    else s
  | _, _ => s

/-- PAGE_FAULT_TIME_LIMIT (07 R243). -/
def execPageFaultTimeLimit (site : WalkSite) (s : State) : Host.Outcome State Fault Refusal :=
  match site with
  | .stream eng ctx => ctxEvent eng ctx s fun c => drainStream s eng ctx c
  | .scalar lid => if coreCount ≤ lid then .fault .noSuchUnit else .next (drainScalar s lid)

/-! ## The halt of a core (14 R440; 04 R150; 11 R372) -/

/-- Whether a channel holds an outstanding branch or count contribution. -/
def Chan.owes (k : Chan) : Bool :=
  match k.out with
  | some (.branch _) => true
  | some .count => true
  | _ => false

/-- Whether a result or failure of a channel's outstanding contribution is on its way to its member. -/
def Chan.coming (k : Chan) (g : Group) (m : Member) : Bool :=
  g.sending.any fun p => p.1 == m && (match p.2 with
    | .result w => resSeq w == k.seq
    | .failed _ seq => seq == k.seq)

/-- The answer to a withdrawal on a channel (11 R372): the result is on its way; the partial that holds the contribution has
left the module; or the contribution is withdrawn. -/
inductive Answer where
  | result
  | sent (n : Nat)
  | withdrawn (n : Nat)
  deriving DecidableEq, Repr

/-- The answer of the tree to a withdrawal by a core on a channel. -/
def State.answerTo (s : State) (lid ch : Nat) : Option Answer :=
  match s.memberOf lid, s.groupOf lid ch with
  | some m, some (n, g) =>
    if ((s.core lid).chan ch).coming g m then some .result
    else if g.sent then some (.sent n) else some (.withdrawn n)
  | _, _ => none

/-- A contribution of a core removed from the episode; the core discards its speculation and its PC is that of the cbr, cbrv or
tcount, which executes again (11 R372, step 4; log 42). -/
def withdrawFrom (s : State) (lid ch n : Nat) : State :=
  match s.memberOf lid, Table.find s.groups n with
  | some m, some g =>
    let g := { g with
      contribs := g.contribs.filter (·.who != m), partials := Table.erase s.mg.rank.toNat g.partials }
    let c := s.core lid
    let k := c.chan ch
    let c :=
      match c.specOn ch k with
      | some sp => c.discardSpec sp.ckpt.pc
      | none => { c with pc := k.bpc, progress := 0, issued := false }
    { s with groups := Table.put n g s.groups }.setCore lid (c.setChan ch { k with out := none })
  | _, _ => s

/-- A withdrawal on a channel; none while its answer is still to come. A partial that has left is asked back (log 24). -/
def withdrawOn (s : State) (lid ch : Nat) : State × Bool :=
  match s.answerTo lid ch with
  | some (.withdrawn n) => (withdrawFrom s lid ch n, true)
  | some (.sent n) =>
    match Table.find s.groups n with
    | some g =>
      if g.asked then (s, false)
      else
        let s := { s with groups := Table.put n { g with asked := true } s.groups }
        (sendCrown s 5 ((g.ranks s).headD 0) g (Partial.none (g.gkey s) g.seq) 0, false)
    | none => (s, false)
  | some .result => (s, false)
  | none => (s, true)

/-- The channels on which a core has a contribution to withdraw; that of its speculation, the youngest, first. -/
def Core.owing (c : Core) : List Nat :=
  let chs := (List.range 8).filter fun ch => (c.chan ch).owes
  let young (ch : Nat) : Bool := (c.specOn ch (c.chan ch)).isSome
  chs.filter young ++ chs.filter (!young ·)

/-- The withdrawals of a core on all its channels. -/
def withdrawAll (s : State) (lid : Nat) : State × Bool :=
  (s.core lid).owing.foldl
    (fun p ch =>
      let (s, ok) := withdrawOn p.1 lid ch
      (s, p.2 && ok)) (s, true)

/-- Whether the atomic engine still works on a request that it accepted from a core; one for a cell that an outstanding
collective holds is saved with the engine (12 R398; 13 R410). -/
def State.atomicsLeft (s : State) (lid : Nat) : Bool :=
  let cl := clusterOf lid
  let e := s.cluster cl
  (Table.find e.lines lid).isSome
    || ((Table.find e.cellReqs lid).map fun r => !s.cellHeld cl r.addr).getD false

/-- The completion tokens on their way to a core arrive. -/
def takeTokens (s : State) (lid : Nat) : State :=
  let mine := (s.tokens.filter (·.1 == lid)).map (·.2)
  { s with tokens := s.tokens.filter (·.1 != lid) }.setCore lid { s.core lid with tokens := (s.core lid).tokens ++ mine }

/-- A core that stops: its waits and its stall end, the position of its repeat buffer is recorded, and the stalled instruction executes
again at resume, from the steps it has done (05 R167, R173; 07 R243; 09 R307; 11 R372). -/
def stopCore (s : State) (lid : Nat) : State :=
  let s := takeTokens s lid
  let c := (s.core lid).haltRpt
  let tensor := { c.tensor with join := none, gangOp := none }
  let router := { c.router with rtsetWait := none }
  { s.dropMigs [lid] with scalarStalls := s.scalarStalls.filter (·.lid != lid) }.setCore lid
    { c with wait := none, rptWait := none, issued := false, rptIssued := false, opening := [], tensor, router, live := false }

/-- Whether the store buffer of a core is drained, or stands behind an acas of a DET region that its engine holds, which is saved with
the engine and the buffer behind it with the core (04 R150; 12 R398; log 52). -/
def State.sbDone (s : State) (lid : Nat) : Bool :=
  (s.core lid).sb.isEmpty || (Table.find (s.cluster (clusterOf lid)).detHeld lid).isSome

/-- Whether a collective of a core has still to read its source (13 R413). -/
def State.readsLeft (s : State) (lid : Nat) : Bool :=
  match s.memberOf lid with
  | some m => s.collectives.any fun c => c.2.who == m && !c.2.read
  | none => false

/-- CORE_HALT (14 R440): a core of a DRAINING region that no fault stops halts once its store buffer is drained, the atomic engine
has done its requests, its collectives have read their sources, no outcome is outstanding and its lattice block in progress is
finished (01 R34; 04 R150; 10 R337; 13 R413). -/
def execCoreHalt (lid : Nat) (s : State) : Host.Outcome State Fault Refusal :=
  if coreCount ≤ lid then .fault .noSuchUnit
  else
    match s.regionOf lid with
    | some r =>
      let c := s.core lid
      if r.st == .draining && r.stopFrom.isNone && c.live && s.sbDone lid && !s.atomicsLeft lid && !s.readsLeft lid then
        match s.finishLattice lid with
        | none => .next s
        | some s =>
          match withdrawAll s lid with
          | (s, true) => .next (stopCore s lid)
          | (s, false) => .next s
      else .next s
    | none => .next s

/-! ## The save (14 R440; 07 R263; 12 R398) -/

/-- A stream context as it is saved: a read of which no flit was delivered is discarded (07 R263). -/
def StreamCtx.saved (c : StreamCtx) : StreamCtx :=
  let whole := c.dir != 2 && decide (c.flitsPerItem ≤ c.got.length)
  { c with windows := [], rr := 0, stall := none, got := if whole then [] else c.got }

/-- Whether an engine has still to write an item whose flits have all arrived (07 R263). -/
def State.writesLeft (s : State) (r : Region) : Bool :=
  s.brims.any fun p => p.2.ctxs.any fun e => r.bind.contains e.2.lid && e.2.dir == 2 && e.2.issued && e.2.stall.isNone

/-- A region's stream contexts by 8 * role + slot. -/
def State.streamsOf (s : State) (r : Region) : Table StreamCtx :=
  s.brims.foldl (fun t p => p.2.ctxs.foldl (fun t e =>
    if r.bind.contains e.2.lid then Table.put (8 * r.roleOf e.2.lid + e.2.slot) e.2.saved t else t) t) []

/-- The region SAVED in place, the engines free of its contexts, the hot lines written back. -/
def saveRegion (s : State) (r : Region) : State :=
  let r' := { r with st := .saved, savedStreams := s.streamsOf r, step := r.step }
  let s := r.bind.foldl takeTokens s
  let brims := s.brims.map fun (p, b) => (p, { b with ctxs := b.ctxs.filter fun e => !r.bind.contains e.2.lid })
  let clusters := s.clusters.map fun (n, e) => (n, if r.clusters.contains n then { e with hot := [] } else e)
  ({ s with brims, clusters }.setRegion r').reach r.id [.quiet] false

/-- CONTEXT_SAVED (14 R440): every core halted, no engine at work on an accepted command, the region is SAVED. -/
def execContextSaved (rg : Nat) (s : State) : Host.Outcome State Fault Refusal :=
  match s.regions.find? (·.id == rg) with
  | none => .next s
  | some r =>
    let quiet := r.pending.isEmpty && r.stopFrom.isNone
      && r.bind.all (fun l => !(s.core l).live && !s.atomicsLeft l && !s.readsLeft l) && !s.writesLeft r
    .next (if r.st == .draining && quiet then saveRegion s r else s)

/-! ## Eviction (14 R441) -/

/-- Bytes written to a job's address space page by page, none when a page cannot be written. -/
def vaWriteSpan (root : Nat) : Nat → Nat → List Byte → State → Option State
  | 0, _, _, s => some s
  | k + 1, va, bytes, s =>
    if bytes.isEmpty then some s
    else
      let n := 4096 - va % 4096
      (vaWrite s root va (bytes.take n)).bind (vaWriteSpan root k (va + n) (bytes.drop n))

/-- n bytes of a save area from an offset: some copies, and the rest as the controller's private layout has them (log 10). -/
def saveFill (s : State) (off n : Nat) (copies : List Byte) : List Byte :=
  copies ++ (List.range (n - copies.length)).map fun k => Config.saveByte s.ticks (off + copies.length + k)

/-- The bytes of a region's save area: its roles in role-id order, then its role clusters (14 R441; log 10). -/
def saveImage (s : State) (r : Region) : List Byte :=
  ((List.range (r.w * r.h)).flatMap fun k => saveFill s (98304 * k) 98304 (s.core (r.bind.getD k 0)).storeBytes)
    ++ r.roleClusters.zipIdx.flatMap fun (key, k) =>
      let e := (r.bind.find? fun l => r.roleCluster (r.roleOf l) == key).map fun l => s.cluster (clusterOf l)
      saveFill s (98304 * (r.w * r.h) + 16384 * k) 16384 ((e.getD Cluster.reset).cellBytes)

/-- The first role whose stores cannot be read for the copy. -/
def unreadableRole (s : State) (r : Region) : Option Nat :=
  (List.range r.bind.length).find? fun k =>
    let c := s.core (r.bind.getD k 0)
    !c.locPoison.isEmpty || !c.tensor.poison.isEmpty || !c.lattice.poison.isEmpty

/-- An eviction that failed freezes the region with CONFIG_UE (14 R441). -/
def evictFails (s : State) (r : Region) (role : Nat) : State :=
  let lid := r.bind.getD role 0
  completeFreeze s { r with gathered := [(role, faultRecord s r lid { cause := causeConfigUe.toNat, unit := 9 })] }

/-- The flits of a region in a port buffer or delay queue, with the entry they were looked up under where their tag has another now,
and their place: 0 to 3 a port, 4 the delay queue. -/
def Router.heldOf (rt : Router) (tags : List Nat) : List (Flit × Option Word × Nat) :=
  let under (h : Held) : Option Word := if h.entry = (rt.lookup h.flit).entry then none else some h.entry
  rt.delays.flatMap (fun e => (e.2.map fun h => (h.flit, under h, 4)).filter fun x => tags.contains x.1.tag.toNat)
    ++ rt.ports.flatMap (fun e => (e.2.filter fun f => tags.contains f.tag.toNat).map fun f => (f, none, e.1))

/-- How many payload flits of its message come from a flit on, where outputs ahead hold for them and it is the first of its tag in
its place (08 R268). -/
def Router.leftFrom (rt : Router) (place : Nat) (f : Flit) (first : Bool) : Nat :=
  let p := if place = 4 then delayHold f.tag.toNat else place
  if first then
    ((rt.locked.filter fun e => e.2.place == p && e.2.tag == f.tag.toNat).map (·.2.left)).foldl max 0
  else 0

/-- A flit put before those that are farther from their goals, behind those that are as near. -/
def insertFar (x : SavedFlit × Nat) : List (SavedFlit × Nat) → List (SavedFlit × Nat)
  | [] => [x]
  | y :: ys => if x.2 < y.2 then x :: y :: ys else y :: insertFar x ys

/-- The flits that a region's routers hold in port buffers and delay queues, each with what it owes, those ahead first (08 R289). -/
def State.heldFlits (s : State) (r : Region) : List SavedFlit :=
  let lids := (r.laid.map (·.1) ++ r.bind).eraseDups
  let all := lids.flatMap fun l =>
    let rt := (s.core l).router
    let mine := (if r.bind.contains l then List.range 112 else []) ++ (r.tagsAt l).filter fun t => decide (112 ≤ t)
    let hs := rt.heldOf mine
    hs.zipIdx.map fun ((f, under, place), k) =>
      let first := !(hs.take k).any fun y => y.2.2 == place && y.1.tag == f.tag
      let site := (l, f.tag.toNat)
      let owed := owedBy s r r.hops f.kind false site f.cix sumDepth
      (({ flit := f, owed, under, left := rt.leftFrom place f first } : SavedFlit), farBy s r r.hops f.kind false site sumDepth)
  (all.foldl (fun acc x => insertFar x acc) []).map (·.1)

/-- The states that a region's entries hold: SUM entries, adapters and pre-aligning entries, those that the program wrote among them
(08 R289, R296). -/
def State.heldEntries (s : State) (r : Region) : List SavedEntry :=
  let wrote := r.bind.flatMap fun l => (s.core l).router.written.map fun t => (l, t)
  (r.laid ++ wrote).eraseDups.flatMap fun (l, t) =>
    let rt := (s.core l).router
    let owed := owedBy s r r.hops 0 true (l, t) 0 sumDepth
    let own := if wrote.contains (l, t) then some (r.roleOf l, t) else none
    ((Table.find rt.sums t).map fun m => { own, state := EntryState.sum m, owed }).toList
      ++ ((Table.find rt.adapters t).map fun a => { own, state := EntryState.adapter a, owed }).toList
      ++ ((Table.find rt.renorms t).map fun n => { own, state := EntryState.renorm n, owed }).toList

/-- A region evicted: its context is that of its save area, and its cores are free (14 R441). -/
def evicted (s : State) (r : Region) : State :=
  let saved := (List.range r.bind.length).foldl (fun t k =>
    let c := s.core (r.bind.getD k 0)
    Table.put k { c with sb := c.sb.map (·.rehome r.roleOf) } t) []
  let cells := r.clusters.foldl (fun t cl =>
    match r.bind.find? (fun l => clusterOf l == cl), Table.find s.clusters cl with
    | some l, some e => Table.put (r.roleCluster (r.roleOf l)) (e.rekey r.roleOf) t
    | _, _ => t) []
  ((s.vacate r).setRegion
    { r.unbound with
      saved, savedCells := cells, savedFlits := s.heldFlits r, savedEntries := s.heldEntries r, evicted := true }).retireLeft r.bind

/-- Whether another region needs the cores that a region holds: it waits to be placed, and a rectangle that it could take has one of
their clusters (14 R441). -/
def State.coresNeeded (s : State) (r : Region) : Bool :=
  s.regions.any fun x => x.id != r.id && x.waiting &&
    match s.job x.job, s.imageOf x (max 1 x.cfgseq) with
    | some j, some i => (candidates s j x).any fun (_, x0, y0) =>
      bindable s x i.feats x0 y0 && (x.standing x0 y0).clusters.any r.clusters.contains
    | _, _ => false

/-- REGION_EVICT (14 R441): the engines copy a SAVED region whose cores another needs to its save area, so that its cores are free. -/
def execRegionEvict (rg : Nat) (s : State) : Host.Outcome State Fault Refusal :=
  match s.regions.find? (·.id == rg) with
  | none => .next s
  | some r =>
    if r.st == .saved && !r.evicted && s.coresNeeded r then
      match unreadableRole s r with
      | some k => .next (evictFails s r k)
      | none =>
        let va := ((s.leafOf r).map (·.saveva)).getD 0
        match vaWriteSpan (s.rootOf r) (r.saveBytes / 4096 + 2) va (saveImage s r) s with
        | some s' => .next (evicted s' r)
        | none => .next (evictFails s r 0)
    else .next s

/-! ## Retirement (11 R360, R373; 15 R459) -/

/-- A core that stalls in barw after its arrival (11 R373). -/
def Core.inBarw (c : Core) : Bool :=
  c.progress == 1 && c.chans.any (fun e => e.2.out == some .barrier && c.wait.map (·.val) == some (treeWait e.1))

/-- Whether a region is DET: the mode of its cores, which its image sets (01 R35; 14 R450). -/
def State.detRegion (s : State) (r : Region) : Bool := (s.core (r.bind.getD 0 0)).det

/-- Whether a degraded core may be retired now (11 R373; 15 R459). -/
def State.mayRetire (s : State) (lid : Nat) : Bool :=
  match s.regionOf lid with
  | none => true
  | some r =>
    match r.st with
    | .saved => true
    | .live => s.mayStep r || (!s.detRegion r && (s.core lid).live && (s.core lid).inBarw)
    | _ => false

/-- CORE_RETIRE (11 R373; 15 R459). -/
def execCoreRetire (lid : Nat) (s : State) : Host.Outcome State Fault Refusal :=
  if coreCount ≤ lid then .fault .noSuchUnit
  else
    .next (if (s.core lid).degraded && !s.isRetired lid && s.mayRetire lid then retireCore s lid else s)

end Sys2Proof.Machine
end

