-- ==== Sys2Proof/Machine/Mgmt.lean ====
section
/-! DEFINITION. The wafer controller: management registers, the mailbox and its commands, boot, soft errors and retirement,
and the events of power and cooling (15 R455-R466). -/

namespace Sys2Proof.Machine

/-! ## HDM ranges, rank and rank map (15 R457, R462, R463) -/

/-- The bytes that MEAS3 is extended with: the 512 bytes of the HDM ranges, the rank as 8 bytes, and the rank map (log 28). -/
def hdmImage (m : Mgmt) : List Byte :=
  (List.range 64).flatMap (fun k => bytesOfNat 8 (Table.get 0 m.hdm k).toNat) ++ bytesOfNat 8 m.rank.toNat
    ++ (List.range 1024).flatMap fun r => bytesOfNat 12 (Table.get 0 m.rankmap r).toNat

/-- MEAS3 extended by the ranges, rank and rank map as they stand. -/
def measureHdm (m : Mgmt) : Mgmt := extendMeas m 3 (hdmImage m)

/-- The writable bits of word w of an HDM range (15 R463). -/
def hdmMask (w : Nat) : Word := if w = 0 then 0x800FFFFFF0000000 else if w = 1 then 0x000FFFFFF00000FF else 0xFFFFFFFFFFFFFFFF

/-- Base and size of HDM range i. -/
def hdmBase (m : Mgmt) (i : Nat) : Nat := bitsOf (hdmWord m i 0) 28 24 * 2 ^ 28
def hdmSize (m : Mgmt) (i : Nat) : Nat := bitsOf (hdmWord m i 1) 28 24 * 2 ^ 28

/-- Whether HDM range i is enabled. -/
def hdmEn (m : Mgmt) (i : Nat) : Bool := (hdmWord m i 0).getLsbD 63

/-- Bytes decoded behind a port by range i. -/
def hdmShare (m : Mgmt) (i port : Nat) : Nat :=
  let ways := hdmWays (bitsOf (hdmWord m i 1) 0 4)
  hdmSize m i / ways * ((List.range ways).filter fun k => hdmTarget m i k % 64 == port).length

/-- The checks of 15 R463 for range i, were it enabled. -/
def hdmOk (s : State) (m : Mgmt) (i : Nat) : Bool :=
  let ways := hdmWays (bitsOf (hdmWord m i 1) 0 4)
  let base := hdmBase m i
  let size := hdmSize m i
  let others := (List.range 16).filter fun j => j != i && hdmEn m j
  ways != 0 && base != 0 && size != 0 && size % (2 ^ 28 * ways) == 0 && decide (bitsOf (hdmWord m i 1) 4 4 ≤ 6)
    && (List.range 16).all (fun k =>
      let t := hdmTarget m i k
      if k < ways then decide (128 ≤ t) && decide (t % 64 < 48) && (decide (t % 128 < 64) || (s.brim (t % 64)).split)
      else t == 0)
    && others.all (fun j => decide (hdmBase m j + hdmSize m j ≤ base) || decide (base + size ≤ hdmBase m j))
    && (List.range 48).all fun p => decide (((i :: others).map (hdmShare m · p)).foldl (· + ·) 0 ≤ 2 ^ 39)

/-- A word of an HDM range written: one that sets EN enables the range only where it passes its checks (15 R463). -/
def hdmSet (s : State) (word : Nat) (val : Word) : Mgmt :=
  let m := s.mg
  let i := word / 4
  let v := val &&& hdmMask (word % 4)
  let m' := { m with hdm := Table.set 0 word v m.hdm }
  let m' := if word % 4 = 0 ∧ v.getLsbD 63 ∧ !hdmOk s m' i then { m with hdm := Table.set 0 word (putBits v 63 1 0) m.hdm }
    else m'
  if m'.hdm != m.hdm && (hdmEn m i || hdmEn m' i) then measureHdm m' else m'

/-- MG_HDM_WRITE (15 R463): while no job is resident, in STATE 6 or 7. -/
def execMgHdmWrite (word : Nat) (val : BitVec 64) (s : State) : Host.Outcome State Fault Refusal :=
  .next (if word < 64 && s.noJob && (s.mg.state == 6 || s.mg.state == 7) then { s with mg := hdmSet s word val } else s)

/-- MG_PCAP_WRITE (15 R462): a cap out of range is ignored; TRIP is cleared. The power manager lowers the clocks until MG_POWER is at
or below the new cap (15 R466). -/
def execMgPcapWrite (val : BitVec 64) (s : State) : Host.Outcome State Fault Refusal :=
  let pcap := if 14000 ≤ val.toNat ∧ val.toNat ≤ 28000 then val else s.mg.pcap
  .next { s with mg := { s.mg with pcap, power := BitVec.ofNat 32 (min s.mg.power.toNat pcap.toNat), trip := false } }

/-! ## Reading the registers (15 R462-R465) -/

/-- MG_STATUS. -/
def Mgmt.status (m : Mgmt) : Word :=
  BitVec.ofNat 64 (m.svn.toNat * 2 ^ 16 + bit m.trip * 2 ^ 8 + bit m.ready * 2 ^ 7 + m.state.toNat)

/-- MB_STATUS. -/
def Mgmt.mbStatus (m : Mgmt) : Word := BitVec.ofNat 64 (bit m.mbBusy * 2 ^ 63 + m.mbRespLen % 2 ^ 15 * 2 ^ 32 + m.mbResult.toNat)

/-- The register of eight bytes at an offset, 0 where none is. -/
def Mgmt.word (m : Mgmt) (off : Nat) : Word :=
  if off = 0 then m.status
  else if off = 0x8 then m.temp
  else if off = 0x10 then m.power.setWidth 64
  else if off = 0x18 then m.pcap
  else if off = 0x200 then m.rank.setWidth 64
  else if 0x400 ≤ off ∧ off < 0x600 then Table.get 0 m.hdm ((off - 0x400) / 8)
  else if off = 0x8000 then m.mbCmd
  else if off = 0x8008 then m.mbStatus
  else if off = 0x8010 then m.mbLen
  else if off = 0x8018 then m.mbAddr
  else if off = 0x8020 then m.mbXlen
  else 0

/-- The byte of BAR 4 that the host reads at an offset; a read changes nothing. -/
def Mgmt.byteAt (m : Mgmt) (a : Nat) : Byte :=
  if 0x1000 ≤ a ∧ a < 0x4000 then (Table.get 0 m.rankmap ((a - 0x1000) / 12)).extractLsb' (8 * ((a - 0x1000) % 12)) 8
  else if 0x4000 ≤ a ∧ a < 0x40A8 then (Table.get 0 m.parts ((a - 0x4000) / 2)).extractLsb' (8 * (a % 2)) 8
  else if 0x8040 ≤ a ∧ a < 0xC000 then Table.get 0 m.mbReq (a - 0x8040)
  else if 0xC000 ≤ a ∧ a < 0x10000 then Table.get 0 m.mbRsp (a - 0xC000)
  else (m.word (a / 8 * 8)).extractLsb' (8 * (a % 8)) 8

/-! ## The mailbox (15 R465) -/

/-- A command that ends: its result code and response, BUSY cleared, and the vector raised where VE is set. -/
def endCommand (s : State) (result : BitVec 8) (rsp : List Byte) : State :=
  let m := s.mg
  let mbRsp := (rsp.mapIdx fun k b => (k, b)).foldl (fun t p => Table.set 0 p.1 p.2 t) []
  let s := { s with mg := { m with mbBusy := false, mbResult := result, mbRespLen := rsp.length, mbRsp } }
  if m.mbCmd.getLsbD 31 then s.raise (bitsOf m.mbCmd 16 11) else s

/-- A command code in progress: act gives its result code, its response, and the controller after it. In recovery every
command but FWLOAD completes with STATE (15 R455). -/
def command (code : Nat) (s : State) (act : BitVec 8 × List Byte × State) : Host.Outcome State Fault Refusal :=
  if !s.mg.mbBusy || bitsOf s.mg.mbCmd 0 16 != code then .next s
  else if s.mg.state = 15 ∧ code ≠ 1 then .next (endCommand s 2 [])
  else .next (endCommand act.2.2 act.1 act.2.1)

/-- A write of MB_CMD: GO starts the command; one with a reserved code ends at once (15 R465). -/
def writeCommand (s : State) (val : Word) : State :=
  let s := { s with mg := { s.mg with mbCmd := val &&& 0x87FFFFFF } }
  if val.getLsbD 63 then
    let code := bitsOf val 0 16
    if 1 ≤ code ∧ code ≤ 7 then { s with mg := { s.mg with mbBusy := true } }
    else endCommand s (if s.mg.state = 15 then 2 else 1) []
  else s

/-- The request payload: its first n bytes. -/
def requestBytes (m : Mgmt) (n : Nat) : List Byte := (List.range n).map fun k => Table.get 0 m.mbReq k

/-- What FWLOAD does (15 R456, R465). -/
def firmwareLoad (s : State) : BitVec 8 × List Byte × State :=
  let m := s.mg
  let a := m.mbAddr.toNat
  let n := m.mbXlen.toNat
  if a % 4096 ≠ 0 ∨ 2 ^ 26 < n then (5, [], s)
  else if !Config.hostReadOk a n then (6, [], s)
  else
    let image := cellsAt s.hostMem a n
    if !Config.sigOk image then (3, [], s)
    else if Config.imageSvn image < m.svn then (4, [], s)
    else (0, [], { s with mg := { m with stored := some image } })

/-- FWLOAD (15 R465). -/
def execFwload (s : State) : Host.Outcome State Fault Refusal := command 1 s (firmwareLoad s)

/-- SVNRAISE (15 R456, R465): the fused SVN never falls. -/
def execSvnraise (s : State) : Host.Outcome State Fault Refusal :=
  let svn := if s.mg.svn < s.mg.runSvn then s.mg.runSvn else s.mg.svn
  command 2 s
    (if s.mg.state = 6 ∨ s.mg.state = 7 then (0, bytesOfNat 8 svn.toNat, { s with mg := { s.mg with svn } }) else (2, [], s))

/-- The 312 bytes that an attestation report signs (15 R457, R465). -/
def reportBytes (m : Mgmt) : List Byte :=
  (List.range 8).flatMap (fun i => bytesOfNat 32 (Table.get 0 m.meas i).toNat) ++ bytesOfNat 16 m.serial.toNat
    ++ bytesOfNat 8 m.svn.toNat ++ requestBytes m 32

/-- The 7,856 bytes of a signature with the identity key over the digest of a message (log 11). -/
def signature (m : List Byte) : List Byte :=
  let sig := Config.identitySign (sha256 m)
  (List.range 7856).map fun k => sig.getD k 0

/-- ATTEST (15 R457, R465): it changes no state but the mailbox. -/
def execAttest (s : State) : Host.Outcome State Fault Refusal :=
  command 3 s
    (if s.mg.state < 3 ∨ 7 < s.mg.state then (2, [], s)
     else if s.mg.mbLen ≠ 32 then (5, [], s)
     else (0, reportBytes s.mg ++ signature (reportBytes s.mg), s))

/-- The eight bytes of a retirement list entry (15 R465). -/
def retiredEntry (dead : List (Nat × Nat)) (e : Retired) : List Byte :=
  let place (lid : Nat) : Nat :=
    lid % 1152 / 96 * 2 ^ 4 + lid / 1152 / 128 * 2 ^ 8 + physColumn dead lid * 2 ^ 12 + lid / 1152 % 128 * 2 ^ 20
  bytesOfNat 8 (match e with
    | .core lid => place lid
    | .meshLink lid d => 1 + place lid + dirNum d * 2 ^ 28
    | .linkPort p => 2 + p * 2 ^ 40)

/-- RETLIST (15 R465). -/
def execRetlist (s : State) : Host.Outcome State Fault Refusal :=
  command 4 s
    (if s.mg.state < 4 ∨ 7 < s.mg.state then (2, [], s)
     else (0, bytesOfNat 8 s.retired.length ++ (s.retired.take 2047).flatMap (retiredEntry s.deadCores), s))

/-- RETCLEAR (15 R459, R465). -/
def execRetclear (s : State) : Host.Outcome State Fault Refusal :=
  command 5 s (if s.noJob then (0, [], { s with retired := [] }) else (2, [], s))

/-- The partition entries of a request (15 R464). -/
def partEntries (m : Mgmt) : List (BitVec 16) :=
  (List.range 84).map fun p => BitVec.ofNat 16 (natOfBytes ((requestBytes m 168).drop (2 * p) |>.take 2))

/-- Whether two defined partitions share a field. -/
def partsMeet (a b : BitVec 16) : Bool :=
  decide (bitsOf a 0 4 ≤ bitsOf b 7 4) && decide (bitsOf b 0 4 ≤ bitsOf a 7 4) && decide (bitsOf a 4 3 ≤ bitsOf b 11 3)
    && decide (bitsOf b 4 3 ≤ bitsOf a 11 3)

/-- The checks of 15 R464: reserved bits zero, every defined entry in range, no two that share a field. -/
def partsOk (es : List (BitVec 16)) : Bool :=
  es.all (fun e => !e.getLsbD 14 && (!e.getLsbD 15 || (decide (bitsOf e 0 4 ≤ bitsOf e 7 4) && decide (bitsOf e 7 4 ≤ 11)
    && decide (bitsOf e 4 3 ≤ bitsOf e 11 3) && decide (bitsOf e 11 3 ≤ 6))))
    && (List.range 84).all fun i => (List.range i).all fun j =>
      let a := es.getD i 0
      let b := es.getD j 0
      !(a.getLsbD 15 && b.getLsbD 15 && partsMeet a b)

/-- PARTSET (15 R464, R465): all entries are written, or none. -/
def execPartset (s : State) : Host.Outcome State Fault Refusal :=
  let es := partEntries s.mg
  let parts := (es.mapIdx fun k e => (k, e)).foldl (fun t p => Table.set 0 p.1 p.2 t) []
  command 6 s
    (if !s.noJob then (2, [], s)
     else if s.mg.mbLen ≠ 168 ∨ !partsOk es then (5, [], s)
     else (0, [], { s with mg := { s.mg with parts } }))

/-- READY (15 R455, R465): in STATE 6 with a partition defined. -/
def execReady (s : State) : Host.Outcome State Fault Refusal :=
  command 7 s
    (if s.mg.state = 6 ∧ s.mg.parts.any (·.2.getLsbD 15) then (0, [], { s with mg := { s.mg with ready := true, state := 7 } })
     else (2, [], s))

/-! ## Other management registers (13 R402; 15 R462, R465) -/

/-- Whether a job that uses the link is resident. -/
def State.linkJob (s : State) : Bool := s.jobs.any (·.usesLink)

/-- Eight bytes written into the rank map from byte a, entries of 12 bytes (15 R462). -/
def rankMapWrite (t : Table (BitVec 96)) (a : Nat) (val : Word) : Table (BitVec 96) :=
  (List.range 8).foldl (fun t k =>
    let i := (a + k) / 12
    Table.set 0 i (putBits (Table.get 0 t i) (8 * ((a + k) % 12)) 8 (bitsOf val (8 * k) 8)) t) t

/-- Eight bytes written into the request payload from byte a. -/
def requestWrite (t : Table Byte) (a : Nat) (val : Word) : Table Byte :=
  (List.range 8).foldl (fun t k => Table.set 0 (a + k) (val.extractLsb' (8 * k) 8) t) t

/-- An aligned write of 8 bytes at an offset of BAR 4: the rank, the rank map, and, while no command is in progress, the
mailbox; every other byte ignores it (15 R462, R465). -/
def mgmtSet (s : State) (off : Nat) (val : Word) : State :=
  let m := s.mg
  if off % 8 ≠ 0 then s
  else if off = 0x200 then if s.linkJob then s else { s with mg := measureHdm { m with rank := val.setWidth 10 } }
  else if 0x1000 ≤ off ∧ off < 0x4000 then
    { s with mg := measureHdm { m with rankmap := rankMapWrite m.rankmap (off - 0x1000) val } }
  else if m.mbBusy then s
  else if off = 0x8000 then writeCommand s val
  else if off = 0x8010 then { s with mg := { m with mbLen := val } }
  else if off = 0x8018 then { s with mg := { m with mbAddr := val } }
  else if off = 0x8020 then { s with mg := { m with mbXlen := val } }
  else if 0x8040 ≤ off ∧ off < 0xC000 then { s with mg := { m with mbReq := requestWrite m.mbReq (off - 0x8040) val } }
  else s

/-- MGMT_REGISTER_WRITE (15 R462). -/
def execMgmtRegisterWrite (off : Nat) (val : BitVec 64) (s : State) : Host.Outcome State Fault Refusal :=
  .next (mgmtSet s off val)

/-! ## Boot (15 R455-R457, R459, R466) -/

/-- The module without its wafer plane: every job, region and core is lost; the host's memory, external memory, the queue
registers and the controller stand, and no completion record is written. -/
def State.dark (s : State) : State :=
  { s with
    cur := 0, inRpt := false, cores := [], clusters := [], brims := [], ports := [], scalarStalls := [], tokens := []
    linkCtxs := [], collectives := [], arrivals := [], groups := [], crownIn := [], jobs := [], regions := []
    queues := s.queues.map (fun p => (p.1, { p.2 with records := [] })), meshRetries := [], migs := []
    mg := { s.mg with waferOn := false } }

/-- What a reset keeps: external and host memory, the retirement list, fuses and stored firmware, what the mapper has given out for a
defect map (14 R431), and the model's own schedule. -/
def State.atReset (s : State) : State :=
  { State.reset with
    sched := s.sched, ticks := s.ticks, ext := s.ext, extPoison := s.extPoison, hostMem := s.hostMem, retired := s.retired
    raised := s.raised, mapped := s.mapped
    mg := { Mgmt.reset with
      svn := s.mg.svn, serial := s.mg.serial, firmware := s.mg.stored.getD s.mg.firmware
      trip := !s.mg.waferOn && s.mg.state != 14 } }

/-- The brim ports as they trained. -/
def trainedBrims (b : BootInputs) : Table Brim :=
  (List.range 48).map fun p =>
    (p, { Brim.reset with linkUp := b.brimUp.contains p, split := b.split.contains p, otherUp := b.brimUp.contains (48 + p) })

/-- Whether a port trained within the bounds on L: 540 cycles over a cable, with one rank at its end, and 720 through a switch
(13 R403). -/
def trainedOk (x : Trained) : Bool :=
  x.ranks.all (fun p => decide (p.1 < 1024) && decide (p.2 ≤ if x.switch then 720 else 540))
    && (x.switch || x.ranks.length == 1)

/-- The link ports as they trained; a retired one stays down. -/
def trainedPorts (b : BootInputs) (retired : List Retired) : Table LinkPort :=
  b.linkUp.foldl (fun t x =>
    if 96 ≤ x.port ∨ !trainedOk x ∨ retired.contains (.linkPort x.port) then t
    else
      let lats := x.ranks.foldl (fun l p => Table.set 0 p.1 p.2 l) []
      Table.put x.port
        { LinkPort.reset with
          up := true, switch := x.switch, rank := if x.switch then 0 else (x.ranks.headD (0, 0)).1, lats } t) []

/-- A dead mesh link as its two ends see it. -/
def linkEnds (lid : Nat) (d : Dir) : List (Nat × Dir) :=
  let back : Dir :=
    match d with
    | .north => .south
    | .south => .north
    | .east => .west
    | .west => .east
  (lid, d) :: ((neighbour lid (dirNum d)).map fun n => (n, back)).toList

/-- Steps 4 and 5: self-test, and the training of the ports. -/
def trainWafer (b : BootInputs) (s : State) : State :=
  let failing := (b.failing.filter fun l => decide (l < coreCount) && !s.retired.contains (.core l)).map Retired.core
  let retired := s.retired ++ failing
  { s with
    deadCores := b.deadCores, dead := absentCores b.deadCores, deadLinks := b.deadLinks.flatMap (fun p => linkEnds p.1 p.2) ++ retired.flatMap (fun
      | .meshLink l d => linkEnds l d
      | _ => [])
    missing := b.lacking.foldl (fun t p => Table.set 0 p.1 p.2 t) [], retired
    brims := trainedBrims b, ports := trainedPorts b retired
    mg := { s.mg with state := 6 } }

/-- The coolant check of boot step 1: an inlet of 15 to 35 °C, in units of 1/16 °C, and a flow of 40 L/min (15 R455, R462, R466). -/
def coolantOk (temp : BitVec 48) (flow : Nat) : Bool :=
  decide (240 ≤ bitsOf (temp.setWidth 64) 16 16) && decide (bitsOf (temp.setWidth 64) 16 16 ≤ 560) && decide (40 ≤ flow)

/-- The boot order of 15 R455 up to the step that awaits READY; MG_TEMP is what the sensors read then. -/
def boot (b : BootInputs) (s : State) : State :=
  let s := s.atReset
  let s := { s with mg := { s.mg with temp := b.temp.setWidth 64 } }
  if !coolantOk b.temp b.flow then { s with mg := { s.mg with state := 14, waferOn := false } }
  else
    let m := extendMeas s.mg 0 Config.bootRom
    if !Config.sigOk m.firmware ∨ Config.imageSvn m.firmware < m.svn then { s with mg := { m with state := 15 } }
    else
      let m := extendMeas { m with runSvn := Config.imageSvn m.firmware } 1 m.firmware
      if !Config.sigOk Config.signedDefectMap ∨ !Config.sigOk Config.identityCert then { s with mg := { m with state := 15 } }
      else trainWafer b { s with mg := extendMeas m 2 Config.signedDefectMap }

/-- MODULE_RESET (15 R455). -/
def execModuleReset (b : BootInputs) (s : State) : Host.Outcome State Fault Refusal := .next (boot b s)

/-! ## Soft errors (15 R458-R461; 14 R434, R435) -/

/-- A corrected error of a core counted: the third in one window of 2^30 cycles degrades it (15 R458). -/
def Core.countEcc (c : Core) (now : Nat) : Core :=
  let w := now / 2 ^ 30
  let n := if c.eccWindow = w then c.eccCount + 1 else 1
  { c with eccWindow := w, eccCount := n, degraded := c.degraded || decide (3 ≤ n) }

/-- CORRECTED_ECC_ERROR (15 R458). -/
def execCorrectedEccError (lid : Nat) (s : State) : Host.Outcome State Fault Refusal :=
  if coreCount ≤ lid then .fault .noSuchUnit
  else .next (retireFree (s.setCore lid ((s.core lid).countEcc s.cycle.toNat)) lid)

/-- A core degraded by an uncorrectable error, after a change. -/
def degradeCore (s : State) (lid : Nat) (f : Core → Core) : State :=
  retireFree (s.setCore lid { f (s.core lid) with degraded := true }) lid

/-- A number added to a list of poisoned words. -/
def poisonWord (ws : List Nat) (w : Nat) : List Nat := w :: ws.filter (· != w)

/-- An uncorrectable error in a core's configuration state: before commit it aborts the load, after it CONFIG_UE freezes the
region (14 R434, R435). -/
def configError (s : State) (lid : Nat) : State :=
  match s.regionOf lid with
  | none => s
  | some r =>
    let f : FaultInfo := { cause := causeConfigUe.toNat, unit := 9 }
    match r.st with
    | .loading => abortLoad s r
    | .staged => abortLoad s r
    | .saved => completeFreeze s { r with gathered := [(r.roleOf lid, faultRecord s r lid f)] }
    | _ => freezeAt s lid f

/-- The module after an uncorrectable error at a site (15 R460). -/
def uncorrectable (s : State) : ErrSite → State
  | .loc lid addr => degradeCore s lid fun c => if addr < 65536 then { c with locPoison := poisonWord c.locPoison (addr / 8) } else c
  | .tensor lid addr =>
    degradeCore s lid fun c =>
      if addr < 728 then c.modTensor fun t => { t with poison := poisonWord t.poison addr } else c
  | .lattice lid cell =>
    degradeCore s lid fun c =>
      if cell < 1024 then { c with lattice := { c.lattice with poison := poisonWord c.lattice.poison cell } } else c
  | .config lid => configError (degradeCore s lid id) lid

/-- The core of an error's site. -/
def siteCore : ErrSite → Nat
  | .loc lid _ => lid
  | .tensor lid _ => lid
  | .lattice lid _ => lid
  | .config lid => lid

/-- UNCORRECTABLE_ERROR (15 R458, R460). -/
def execUncorrectableError (site : ErrSite) (s : State) : Host.Outcome State Fault Refusal :=
  if coreCount ≤ siteCore site then .fault .noSuchUnit else .next (uncorrectable s site)

/-- The tags of a region's entries at a core: those laid for it, and on its own cores those that the program wrote (08 R271, R296). -/
def Region.tagsIn (r : Region) (s : State) (lid : Nat) : List Nat :=
  r.tagsAt lid ++ if r.bind.contains lid then (s.core lid).router.written else []

/-- The tag of a route entry of a region that leaves a core over a link, if there is one. -/
def Region.tagOver (r : Region) (s : State) (end_ : Nat × Dir) : Option Nat :=
  (r.tagsIn s end_.1).find? fun t =>
    entV ((s.core end_.1).route t) && (outputsOf ((s.core end_.1).route t)).contains (dirNum end_.2)

/-- LIVE regions with a route over a dead link freeze (15 R461). -/
def freezeOver (lid : Nat) (ends : List (Nat × Dir)) (s : State) (r : Region) : State :=
  match r.st, ends.findSome? (r.tagOver s) with
  | .live, some tag =>
    freezeRegion s r lid { cause := causeSoftError.toNat, unit := 9, tag }
  | _, _ => s

/-- A mesh link that has died. -/
def killLink (s : State) (lid : Nat) (d : Dir) : State :=
  let ends := linkEnds lid d
  let s := { s with deadLinks := s.deadLinks ++ ends, retired := s.retired ++ [Retired.meshLink lid d] }
  s.regions.foldl (freezeOver lid ends) s

/-- The number of a mesh link: four times the core north or west of it, or alone at it, and its direction from there. -/
def meshLinkKey (lid : Nat) (d : Dir) : Nat :=
  match d, neighbour lid (dirNum d) with
  | .north, some n => 4 * n + dirNum .south
  | .west, some n => 4 * n + dirNum .east
  | d, _ => 4 * lid + dirNum d

/-- MESH_LINK_CRC_RETRY (15 R461): the retry counts in its window; the 1,024th kills the link. -/
def execMeshLinkCrcRetry (lid : Nat) (dir : Dir) (s : State) : Host.Outcome State Fault Refusal :=
  if coreCount ≤ lid then .fault .noSuchUnit
  else
    let key := meshLinkKey lid dir
    let w := s.cycle.toNat / 2 ^ 30
    let old := Table.get (0, 0) s.meshRetries key
    let n := if old.1 = w then old.2 + 1 else 1
    let s := { s with meshRetries := Table.put key (w, n) s.meshRetries }
    .next (if 1024 ≤ n && !s.linkDead lid (dirNum dir) then killLink s lid dir else s)

/-- A link port marked down: it leaves every rank map mask and enters the retirement list (15 R461, R465; log 29). -/
def portDown (s : State) (p : Nat) : State :=
  let rankmap := (s.mg.rankmap.map fun e => (e.1, putBits e.2 p 1 0)).filter fun e => e.2 != 0
  { s with mg := { s.mg with rankmap }, retired := s.retired ++ [Retired.linkPort p] }.setPort p
    { s.port p with up := false, unacked := [] }

/-- LINK_PORT_DOWN (15 R461): a port that lost training, or with 256 retries in the present window. -/
def execLinkPortDown (port : Nat) (training : Bool) (s : State) : Host.Outcome State Fault Refusal :=
  if 96 ≤ port then .fault .noSuchUnit
  else
    let p := s.port port
    let many := p.window == s.cycle.toNat / 2 ^ 30 && decide (256 ≤ p.inWindow)
    .next (if p.up && (training || many) then portDown s port else s)

/-- BRIM_LINK_DOWN (07 R226): a port's link, or 48 + p the second link of bifurcated port p. -/
def execBrimLinkDown (port : Nat) (s : State) : Host.Outcome State Fault Refusal :=
  if 96 ≤ port then .fault .noSuchUnit
  else if port < 48 then .next (s.setBrim port { s.brim port with linkUp := false })
  else .next (s.setBrim (port - 48) { s.brim (port - 48) with otherUp := false })

/-! ## Power and cooling (15 R466) -/

/-- The hottest junction as MG_TEMP reports it, in units of 1/16 °C. -/
def Mgmt.withTemp (m : Mgmt) (t : BitVec 16) : Mgmt := { m with temp := putBits m.temp 0 16 t.toNat }

/-- THERMAL_THROTTLE (15 R466): above 100 °C the clocks are lowered, which affects timing only. -/
def execThermalThrottle (temp : BitVec 16) (s : State) : Host.Outcome State Fault Refusal :=
  .next (if 1600 < temp.toNat then { s with mg := s.mg.withTemp temp } else s)

/-- POWER_CAP_THROTTLE (15 R466): the clocks are lowered so that MG_POWER stays at or below MG_PCAP. -/
def execPowerCapThrottle (watts : BitVec 32) (s : State) : Host.Outcome State Fault Refusal :=
  .next { s with mg := { s.mg with power := BitVec.ofNat 32 (min watts.toNat s.mg.pcap.toNat) } }

/-- THERMAL_TRIP (15 R466): at 110 °C wafer power is removed. -/
def execThermalTrip (temp : BitVec 16) (s : State) : Host.Outcome State Fault Refusal :=
  .next (if 1760 ≤ temp.toNat then { s with mg := s.mg.withTemp temp }.dark else s)

/-- COOLANT_FLOW_TRIP (15 R466): flow, in L/min, stayed below 20 for 1 s; wafer power is removed. -/
def execCoolantFlowTrip (flow : Nat) (s : State) : Host.Outcome State Fault Refusal :=
  .next (if flow < 20 then s.dark else s)

/-- The power manager reads its sensors: MG_TEMP, and MG_POWER, which it holds at or below MG_PCAP (15 R462, R466). -/
def State.sensed (s : State) (temp : BitVec 48) (watts : BitVec 32) : State :=
  { s with mg := { s.mg with temp := temp.setWidth 64, power := BitVec.ofNat 32 (min watts.toNat s.mg.pcap.toNat) } }

/-! ## The BARs of the host ports (15 R451, R452, R462) -/

/-- A byte that the host reads: a doorbell in BAR 0, a queue register in BAR 2, the management registers in BAR 4. -/
def State.barByte (s : State) (bar off : Nat) : Byte :=
  let part (w : Word) : Byte := w.extractLsb' (8 * (off % 8)) 8
  match bar with
  | 0 => if off < 2 ^ 18 then part (s.queue (off / 8)).doorbell else 0
  | 2 => if off < 2 ^ 20 then part ((s.queue (off / 32)).word (off % 32 / 8 * 8)) else 0
  | 4 => if off < 2 ^ 16 then s.mg.byteAt off else 0
  | _ => 0

/-- An aligned write of eight bytes to a BAR: the write of the doorbell or register at the offset. -/
def barWrite (bar off : Nat) (val : BitVec 64) (s : State) : Host.Outcome State Fault Refusal :=
  if off % 8 ≠ 0 then .next s
  else
    match bar with
    | 0 => if off < 2 ^ 18 then execDoorbell (off / 8) val s else .next s
    | 2 =>
      if 2 ^ 20 ≤ off then .next s
      else if off % 32 = 0 then execWqcfgWrite (off / 32) val s
      else if off % 32 = 8 then execCqcfgWrite (off / 32) val s
      else if off % 32 = 16 then execCqctlWrite (off / 32) val s
      else execQstatClear (off / 32) val s
    | 4 =>
      if off = 0x18 then execMgPcapWrite val s
      else if 0x400 ≤ off ∧ off < 0x600 then execMgHdmWrite ((off - 0x400) / 8) val s
      else if off < 2 ^ 16 then execMgmtRegisterWrite off val s
      else .next s
    | _ => .next s

end Sys2Proof.Machine
end

