-- ==== Sys2Proof/Machine/Issue.lean ====
section
/-! DEFINITION. What comes before an instruction executes: which word a core issues next, and what an illegal fetch
does (03 R80, R102, R103; 05 R170, R176; 15 R460). -/

namespace Sys2Proof.Machine

/-- What a core's fetch gives: an instruction to execute, or the trap of the word at the PC. -/
inductive Fetched where
  | run (i : Instr)
  | trap (t : TrapInfo) (word : Word)
  deriving DecidableEq, Repr

/-- The word decoded, or its RESERVED_FIELD trap (03 R102, R103). -/
def decodeFetched (w : Word) : Fetched :=
  match decodeWord w with
  | .ok i => .run i
  | .error _ => .trap { code := causeReserved, val := w, sub := 0 } w

/-- The fetch of a core at its PC: an 8-byte aligned address below CODE_LIM whose word is not poisoned (03 R80, R82; 05
R177; 15 R460). -/
def fetchStage (s : State) (lid : Nat) : Fetched :=
  let c := s.core lid
  let a := c.pc.toNat
  if a % 8 ≠ 0 then .trap { code := causeAlign, val := BitVec.ofNat 64 a, sub := 0 } 0
  else if c.codeLim ≤ a then .trap { code := causeLocRange, val := BitVec.ofNat 64 a, sub := 0 } 0
  else if c.locPoisoned a 8 then .trap { code := causePoison, val := BitVec.ofNat 64 a, sub := 0 } 0
  else decodeFetched (s.wordAt lid)

/-- The module with the word at the scalar port of core lid kept there (03 R82). -/
def State.keepWord (s : State) (lid : Nat) : State := s.setCore lid { s.core lid with fetched := s.wordAt lid }

/-- The module with core lid as the one whose instruction executes, from its repeat buffer or its PC. -/
def State.running (s : State) (lid : Nat) (inRpt : Bool) : State := { s with cur := lid, inRpt }

/-- Whether a wait of a core has reached its limit and ends now: that of the scalar port not while a body word of the repeat
buffer is between two of its steps (05 R173). -/
def State.anyExpired (s : State) (lid : Nat) : Bool :=
  let c := s.core lid
  (!c.midBody && (c.wait.filter (s.expired lid)).isSome)
    || (c.rptWait.filter (s.expired lid)).isSome

/-- The next move: the head of the schedule, else the free choice of log 1. -/
def State.nextMove (s : State) : Move :=
  match s.sched with
  | m :: _ => m
  | [] => Config.schedule s.ticks

/-- The module once a move has been taken from the schedule. -/
def State.tick (s : State) : State := { s with sched := s.sched.tail, ticks := s.ticks + 1 }

/-- Whether an instruction is an event that the scheduler may name: no word encodes it, and its arguments lie in their
ranges. -/
def isEvent (i : Instr) : Bool :=
  i.word?.isNone && i.wellFormed &&
    match i with
    | .illegalOpcode _ => false
    | _ => true

/-- The regions whose stop must have reached all their cores before CYCLE moves on by n cycles (08 R287). -/
def State.stopsDue (s : State) (n : Nat) : List Nat :=
  (s.regions.filter fun r => (r.stopFrom.map fun t => decide (r.stopBound < (s.cycle - t).toNat + n)).getD false).map (·.id)

/-- CYCLE moves on by n cycles (05 R160; log 2). -/
def State.elapse (s : State) (n : Nat) : State :=
  completeStops { s with cycle := s.cycle + BitVec.ofNat 64 n } (s.stopsDue n)

/-- The host writes its own memory (15 R451). -/
def State.hostWrites (s : State) (addr : Nat) (bytes : List Byte) : State :=
  { s with hostMem := writeCells s.hostMem addr bytes }

/-- Another user of the memory devices writes external memory, at a device address (07 R225, R227). -/
def State.extWrites (s : State) (addr : Nat) (bytes : List Byte) : State :=
  s.writeExt ((List.range bytes.length).map (addr + ·)) bytes

/-! ## A program placed by hand -/

/-- A region of one core, LIVE on core 0, for a program that is placed by hand (the log entry on how a program comes to
run). -/
def bareRegion : Region :=
  { id := 0, job := 0, leaf := 0, st := .live, resuming := false, x0 := 0, y0 := 0, w := 1, h := 1, part := 0,
    bind := [0], idle := [], ports := [0], inject := [], keys := [], groups := [], laid := [], cfgseq := 0, step := .none,
    passages := [],
    fault := none, saved := [], savedStreams := [], savedCells := [], savedFlits := [], savedEntries := [], evicted := false,
    attempts := 0, pending := [], gathered := [], halts := [], stopFrom := none, latest := none, done := none }

/-- A core that runs one task at its PC, with the word w of its code there. -/
def Core.bare (c : Core) (w : Word) : Core :=
  let c := c.writeLoc c.pc.toNat (bytesOfWord w)
  { c with live := true, halted := false, runq := [{ entry := c.pc, origin := 0x20, m0 := 0 }], dcl := 15,
           codeLim := 65536, wait := none, rptWait := none, rpt := none, spec := none, progress := 0, issued := false,
           oldWords := [], sb := [] }

end Sys2Proof.Machine
end

