-- ==== Sys2Proof/Machine/System.lean ====
section
/-! DEFINITION. The system instructions that speak to the field controller: halt, feat and syscall (14 R446, R447, R449).
trapret and idle stand with the control instructions. -/

namespace Sys2Proof.Machine

/-! ## halt (14 R446) -/

/-- EN cleared in every trigger entry (05 R162). -/
def clearTriggers (t : Table Word) : Table Word :=
  (List.range 16).foldl (fun t k => Table.set 0 (2 * k) (putBits (Table.get 0 t (2 * k)) 63 1 0) t) t

/-- A core whose work halt has ended: its task is over, no trigger entry is enabled, and it takes no further task. -/
def Core.stopWork (c : Core) : Core :=
  let c := c.endTask
  { c with trig := clearTriggers c.trig, noTasks := true, halted := true }

/-- Waits until the store buffer of the executing core is drained (14 R446; 05 R169). -/
def drainStores : Op Unit := do waitUnless (← getMe).sb.isEmpty (waitVal 5 0)

/-- halt: the core's work ends, with the exit code of CODE 14:0 (14 R446). -/
def execHalt (x : FormY) : State → Host.Outcome State Fault Refusal :=
  issue (.halt x) do
    drainStores
    modMe fun c => { c.stopWork with exitCode := x.code.setWidth 15 }
    return .keep

/-- halt.rgn: the region's stop begins, or gathers one more code; it goes EMPTY, HALTED, once the stop has reached every core (14
R446; 08 R287). -/
def execHaltRgn (x : FormY) : State → Host.Outcome State Fault Refusal :=
  issue (.haltRgn x) do
    drainStores
    modMe (·.stopWork)
    modify fun s =>
      match s.regionOf s.cur with
      | some r =>
        s.setRegion { r with
          halts := r.halts ++ [(r.roleOf s.cur, bitsOf x.code 0 15)], stopFrom := r.stopFrom.or (some s.cycle) }
      | none => s
    return .keep

/-! ## feat (14 R447) -/

/-- The value that feat gives for CODE n. -/
def featValue (s : State) (n : Nat) : Word :=
  let r := (s.regionOf s.cur).getD bareRegion
  let leaf := s.leafOf r
  match n with
  | 0 => s.me.featReg
  | 1 => BitVec.ofNat 64 (r.w + r.h * 2 ^ 16 + r.roleOf s.cur * 2 ^ 32)
  | 2 => 0x0200
  | 3 => BitVec.ofNat 64 (r.cfgseq + ((leaf.map (·.images.length)).getD 0) * 2 ^ 8)
  | 4 => BitVec.ofNat 64 (r.x0 + r.y0 * 2 ^ 16 + r.part * 2 ^ 32)
  | _ => (leaf.map (·.arg)).getD 0

/-- feat (14 R447). -/
def execFeat (x : FormY) : State → Host.Outcome State Fault Refusal :=
  issueSeq (.feat x) do
    writeS x.d (featValue (← get) x.code.toNat)

/-! ## syscall (14 R449) -/

/-- syscall with a code below 0x8000: trap SYSCALL with SUB = CODE and TRAP_VAL = sA. -/
def execSyscall (x : FormY) : State → Host.Outcome State Fault Refusal :=
  issueSeq (.syscall x) do
    let a ← readS x.a
    throw (.trap { code := causeSyscall, val := a, sub := x.code })

/-- The queue of the executing core's job. -/
def State.myQueue (s : State) : Nat := ((s.job s.jobTag).map (·.queue)).getD 0

/-- The role id of the executing core. -/
def State.myRole (s : State) : Nat := ((s.regionOf s.cur).map (·.roleOf s.cur)).getD 0

/-- syscall NOTIFY: a record of RTYPE 4 with STATUS OK, INFO the role id and ADDR = sA; it waits while the ring is full. -/
def execSyscallNotify (x : FormY) : State → Host.Outcome State Fault Refusal :=
  issueSeq (.syscallNotify x) do
    let a ← readS x.a
    let s ← get
    waitUnless (!(s.queue s.myQueue).full) (waitVal 6 0)
    destReady x.d 1
    modify fun s => s.post s.myQueue (recordWords s.jobTag 4 0 0 s.myRole a 0) .now
    writeS x.d 0

/-- What syscall STEP answers: 2 when no step follows, 1 when the step was already requested, 0 when this request starts
it. -/
def stepAnswer (s : State) (r : Region) : Nat :=
  if ((s.leafOf r).map (·.images.length)).getD 0 ≤ r.cfgseq then 2 else if r.step != .none then 1 else 0

/-- syscall STEP (14 R437). -/
def execSyscallStep (x : FormY) : State → Host.Outcome State Fault Refusal :=
  issueSeq (.syscallStep x) do
    let _ ← readS x.a
    destReady x.d 1
    let s ← get
    match s.regionOf s.cur with
    | some r =>
      let n := stepAnswer s r
      if n = 0 then set (s.setRegion { r with step := .requested })
      writeS x.d (BitVec.ofNat 64 n)
    | none => writeS x.d 2

end Sys2Proof.Machine
end

