-- ==== Sys2Proof/Machine/Dispatch.lean ====
section
/-! DEFINITION. The meaning of every instruction and event, one arm for each constructor of Instr. -/

namespace Sys2Proof.Machine

def exec (i : Instr) (s : State) : Host.Outcome State Fault Refusal :=
  match i with
  | .add x => Sys2Proof.Machine.execAdd x s
  | .sub x => Sys2Proof.Machine.execSub x s
  | .mul x => Sys2Proof.Machine.execMul x s
  | .mulh x => Sys2Proof.Machine.execMulh x s
  | .mulhn x => Sys2Proof.Machine.execMulhn x s
  | .div x => Sys2Proof.Machine.execDiv x s
  | .divn x => Sys2Proof.Machine.execDivn x s
  | .rem x => Sys2Proof.Machine.execRem x s
  | .remn x => Sys2Proof.Machine.execRemn x s
  | .and x => Sys2Proof.Machine.execAnd x s
  | .or x => Sys2Proof.Machine.execOr x s
  | .xor x => Sys2Proof.Machine.execXor x s
  | .andn x => Sys2Proof.Machine.execAndn x s
  | .sll x => Sys2Proof.Machine.execSll x s
  | .srl x => Sys2Proof.Machine.execSrl x s
  | .sra x => Sys2Proof.Machine.execSra x s
  | .rotl x => Sys2Proof.Machine.execRotl x s
  | .rotr x => Sys2Proof.Machine.execRotr x s
  | .min x => Sys2Proof.Machine.execMin x s
  | .max x => Sys2Proof.Machine.execMax x s
  | .minn x => Sys2Proof.Machine.execMinn x s
  | .maxn x => Sys2Proof.Machine.execMaxn x s
  | .clz x => Sys2Proof.Machine.execClz x s
  | .ctz x => Sys2Proof.Machine.execCtz x s
  | .popc x => Sys2Proof.Machine.execPopc x s
  | .addi x => Sys2Proof.Machine.execAddi x s
  | .andi x => Sys2Proof.Machine.execAndi x s
  | .ori x => Sys2Proof.Machine.execOri x s
  | .xori x => Sys2Proof.Machine.execXori x s
  | .slli x => Sys2Proof.Machine.execSlli x s
  | .srli x => Sys2Proof.Machine.execSrli x s
  | .srai x => Sys2Proof.Machine.execSrai x s
  | .li x => Sys2Proof.Machine.execLi x s
  | .bext x => Sys2Proof.Machine.execBext x s
  | .bins x => Sys2Proof.Machine.execBins x s
  | .sel x => Sys2Proof.Machine.execSel x s
  | .cmp x => Sys2Proof.Machine.execCmp x s
  | .cmpi x => Sys2Proof.Machine.execCmpi x s
  | .fopAdd x => Sys2Proof.Machine.execFopAdd x s
  | .fopSub x => Sys2Proof.Machine.execFopSub x s
  | .fopMul x => Sys2Proof.Machine.execFopMul x s
  | .fopFma x => Sys2Proof.Machine.execFopFma x s
  | .fopDiv x => Sys2Proof.Machine.execFopDiv x s
  | .fopSqrt x => Sys2Proof.Machine.execFopSqrt x s
  | .fopMin x => Sys2Proof.Machine.execFopMin x s
  | .fopMax x => Sys2Proof.Machine.execFopMax x s
  | .fopAbs x => Sys2Proof.Machine.execFopAbs x s
  | .fopNeg x => Sys2Proof.Machine.execFopNeg x s
  | .fopCvt x => Sys2Proof.Machine.execFopCvt x s
  | .fopToi x => Sys2Proof.Machine.execFopToi x s
  | .fopTon x => Sys2Proof.Machine.execFopTon x s
  | .fopFromi x => Sys2Proof.Machine.execFopFromi x s
  | .fopFromn x => Sys2Proof.Machine.execFopFromn x s
  | .fopEq x => Sys2Proof.Machine.execFopEq x s
  | .fopLt x => Sys2Proof.Machine.execFopLt x s
  | .fopLe x => Sys2Proof.Machine.execFopLe x s
  | .fopUn x => Sys2Proof.Machine.execFopUn x s
  | .jmp x => Sys2Proof.Machine.execJmp x s
  | .call x => Sys2Proof.Machine.execCall x s
  | .jr x => Sys2Proof.Machine.execJr x s
  | .callr x => Sys2Proof.Machine.execCallr x s
  | .ret x => Sys2Proof.Machine.execRet x s
  | .ldl x => Sys2Proof.Machine.execLdl x s
  | .stl x => Sys2Proof.Machine.execStl x s
  | .ldc x => Sys2Proof.Machine.execLdc x s
  | .stc x => Sys2Proof.Machine.execStc x s
  | .ldx x => Sys2Proof.Machine.execLdx x s
  | .stx x => Sys2Proof.Machine.execStx x s
  | .fence x => Sys2Proof.Machine.execFence x s
  | .csrr x => Sys2Proof.Machine.execCsrr x s
  | .csrw x => Sys2Proof.Machine.execCsrw x s
  | .csrwSet x => Sys2Proof.Machine.execCsrwSet x s
  | .csrwClr x => Sys2Proof.Machine.execCsrwClr x s
  | .fpFlagsAccess write x => Sys2Proof.Machine.execFpFlagsAccess write x s
  | .predsAccess write x => Sys2Proof.Machine.execPredsAccess write x s
  | .triggerEntryWrite x => Sys2Proof.Machine.execTriggerEntryWrite x s
  | .lbndWrite x => Sys2Proof.Machine.execLbndWrite x s
  | .bankwaitWrite x => Sys2Proof.Machine.execBankwaitWrite x s
  | .rpt x => Sys2Proof.Machine.execRpt x s
  | .waitAll x => Sys2Proof.Machine.execWaitAll x s
  | .waitAny x => Sys2Proof.Machine.execWaitAny x s
  | .waitOsp x => Sys2Proof.Machine.execWaitOsp x s
  | .waitUntil x => Sys2Proof.Machine.execWaitUntil x s
  | .done x => Sys2Proof.Machine.execDone x s
  | .post x => Sys2Proof.Machine.execPost x s
  | .trap x => Sys2Proof.Machine.execTrap x s
  | .brk x => Sys2Proof.Machine.execBrk x s
  | .nop x => Sys2Proof.Machine.execNop x s
  | .tick x => Sys2Proof.Machine.execTick x s
  | .vadd x => Sys2Proof.Machine.execVadd x s
  | .vsub x => Sys2Proof.Machine.execVsub x s
  | .vmul x => Sys2Proof.Machine.execVmul x s
  | .vfma x => Sys2Proof.Machine.execVfma x s
  | .vfms x => Sys2Proof.Machine.execVfms x s
  | .vfnma x => Sys2Proof.Machine.execVfnma x s
  | .vmin x => Sys2Proof.Machine.execVmin x s
  | .vmax x => Sys2Proof.Machine.execVmax x s
  | .vabs x => Sys2Proof.Machine.execVabs x s
  | .vneg x => Sys2Proof.Machine.execVneg x s
  | .vand x => Sys2Proof.Machine.execVand x s
  | .vor x => Sys2Proof.Machine.execVor x s
  | .vxor x => Sys2Proof.Machine.execVxor x s
  | .vshl x => Sys2Proof.Machine.execVshl x s
  | .vshr x => Sys2Proof.Machine.execVshr x s
  | .vsra x => Sys2Proof.Machine.execVsra x s
  | .vcmp x => Sys2Proof.Machine.execVcmp x s
  | .vsel x => Sys2Proof.Machine.execVsel x s
  | .vcvt x => Sys2Proof.Machine.execVcvt x s
  | .vbxpack x => Sys2Proof.Machine.execVbxpack x s
  | .vbxunpack x => Sys2Proof.Machine.execVbxunpack x s
  | .vrcp x => Sys2Proof.Machine.execVrcp x s
  | .vrsqrt x => Sys2Proof.Machine.execVrsqrt x s
  | .vexp2 x => Sys2Proof.Machine.execVexp2 x s
  | .vlog2 x => Sys2Proof.Machine.execVlog2 x s
  | .vsqrt x => Sys2Proof.Machine.execVsqrt x s
  | .vdiv x => Sys2Proof.Machine.execVdiv x s
  | .vredsum x => Sys2Proof.Machine.execVredsum x s
  | .vredmax x => Sys2Proof.Machine.execVredmax x s
  | .vbcast x => Sys2Proof.Machine.execVbcast x s
  | .vperm x => Sys2Proof.Machine.execVperm x s
  | .vmovs x => Sys2Proof.Machine.execVmovs x s
  | .vins x => Sys2Proof.Machine.execVins x s
  | .vld x => Sys2Proof.Machine.execVld x s
  | .vst x => Sys2Proof.Machine.execVst x s
  | .vldq x => Sys2Proof.Machine.execVldq x s
  | .vstq x => Sys2Proof.Machine.execVstq x s
  | .vplog x => Sys2Proof.Machine.execVplog x s
  | .vpany x => Sys2Proof.Machine.execVpany x s
  | .vpall x => Sys2Proof.Machine.execVpall x s
  | .vpset x => Sys2Proof.Machine.execVpset x s
  | .vdot4 x => Sys2Proof.Machine.execVdot4 x s
  | .vclass x => Sys2Proof.Machine.execVclass x s
  | .sopen x => Sys2Proof.Machine.execSopen x s
  | .sgo x => Sys2Proof.Machine.execSgo x s
  | .sstop x => Sys2Proof.Machine.execSstop x s
  | .sstopClose x => Sys2Proof.Machine.execSstopClose x s
  | .swait x => Sys2Proof.Machine.execSwait x s
  | .sstat x => Sys2Proof.Machine.execSstat x s
  | .sstatCnt x => Sys2Proof.Machine.execSstatCnt x s
  | .cbinit x => Sys2Proof.Machine.execCbinit x s
  | .cbwait x => Sys2Proof.Machine.execCbwait x s
  | .cbrel x => Sys2Proof.Machine.execCbrel x s
  | .cbput x => Sys2Proof.Machine.execCbput x s
  | .cbstat x => Sys2Proof.Machine.execCbstat x s
  | .smig x => Sys2Proof.Machine.execSmig x s
  | .sinval x => Sys2Proof.Machine.execSinval x s
  | .sendw2 x => Sys2Proof.Machine.execSendw2 x s
  | .sendm x => Sys2Proof.Machine.execSendm x s
  | .qflush x => Sys2Proof.Machine.execQflush x s
  | .qpeek x => Sys2Proof.Machine.execQpeek x s
  | .qstat x => Sys2Proof.Machine.execQstat x s
  | .qdrop x => Sys2Proof.Machine.execQdrop x s
  | .rtget x => Sys2Proof.Machine.execRtget x s
  | .rtset x => Sys2Proof.Machine.execRtset x s
  | .tagset x => Sys2Proof.Machine.execTagset x s
  | .dmqset x => Sys2Proof.Machine.execDmqset x s
  | .excq x => Sys2Proof.Machine.execExcq x s
  | .excqClr x => Sys2Proof.Machine.execExcqClr x s
  | .drain x => Sys2Proof.Machine.execDrain x s
  | .drainEnd x => Sys2Proof.Machine.execDrainEnd x s
  | .bankpass x => Sys2Proof.Machine.execBankpass x s
  | .tldb x => Sys2Proof.Machine.execTldb x s
  | .tldbq x => Sys2Proof.Machine.execTldbq x s
  | .tmac x => Sys2Proof.Machine.execTmac x s
  | .tmacq x => Sys2Proof.Machine.execTmacq x s
  | .tmacl x => Sys2Proof.Machine.execTmacl x s
  | .tgang x => Sys2Proof.Machine.execTgang x s
  | .tclr x => Sys2Proof.Machine.execTclr x s
  | .tadd x => Sys2Proof.Machine.execTadd x s
  | .tnorm x => Sys2Proof.Machine.execTnorm x s
  | .tnormMax x => Sys2Proof.Machine.execTnormMax x s
  | .tmovTt x => Sys2Proof.Machine.execTmovTt x s
  | .tmovOut x => Sys2Proof.Machine.execTmovOut x s
  | .tmovIn x => Sys2Proof.Machine.execTmovIn x s
  | .tsta x => Sys2Proof.Machine.execTsta x s
  | .tlda x => Sys2Proof.Machine.execTlda x s
  | .tout x => Sys2Proof.Machine.execTout x s
  | .texp x => Sys2Proof.Machine.execTexp x s
  | .lgl x => Sys2Proof.Machine.execLgl x s
  | .lglq x => Sys2Proof.Machine.execLglq x s
  | .lsel x => Sys2Proof.Machine.execLsel x s
  | .lselOff x => Sys2Proof.Machine.execLselOff x s
  | .lrun x => Sys2Proof.Machine.execLrun x s
  | .lrunv x => Sys2Proof.Machine.execLrunv x s
  | .lbound x => Sys2Proof.Machine.execLbound x s
  | .lstatSt x => Sys2Proof.Machine.execLstatSt x s
  | .lstatTap x => Sys2Proof.Machine.execLstatTap x s
  | .lstatExp x => Sys2Proof.Machine.execLstatExp x s
  | .lfree x => Sys2Proof.Machine.execLfree x s
  | .lfreeAll x => Sys2Proof.Machine.execLfreeAll x s
  | .lsum x => Sys2Proof.Machine.execLsum x s
  | .barr x => Sys2Proof.Machine.execBarr x s
  | .bwait x => Sys2Proof.Machine.execBwait x s
  | .barw x => Sys2Proof.Machine.execBarw x s
  | .bexcuse x => Sys2Proof.Machine.execBexcuse x s
  | .bgjoin x => Sys2Proof.Machine.execBgjoin x s
  | .bgleave x => Sys2Proof.Machine.execBgleave x s
  | .cbr x => Sys2Proof.Machine.execCbr x s
  | .cbrv x => Sys2Proof.Machine.execCbrv x s
  | .cbrres x => Sys2Proof.Machine.execCbrres x s
  | .specstat x => Sys2Proof.Machine.execSpecstat x s
  | .bmask x => Sys2Proof.Machine.execBmask x s
  | .tcount x => Sys2Proof.Machine.execTcount x s
  | .aadd x => Sys2Proof.Machine.execAadd x s
  | .aand x => Sys2Proof.Machine.execAand x s
  | .aor x => Sys2Proof.Machine.execAor x s
  | .axor x => Sys2Proof.Machine.execAxor x s
  | .amin x => Sys2Proof.Machine.execAmin x s
  | .amax x => Sys2Proof.Machine.execAmax x s
  | .aminn x => Sys2Proof.Machine.execAminn x s
  | .amaxn x => Sys2Proof.Machine.execAmaxn x s
  | .aswap x => Sys2Proof.Machine.execAswap x s
  | .acas x => Sys2Proof.Machine.execAcas x s
  | .aincl x => Sys2Proof.Machine.execAincl x s
  | .afadd x => Sys2Proof.Machine.execAfadd x s
  | .afrd x => Sys2Proof.Machine.execAfrd x s
  | .afclr x => Sys2Proof.Machine.execAfclr x s
  | .afence x => Sys2Proof.Machine.execAfence x s
  | .lkgrp x => Sys2Proof.Machine.execLkgrp x s
  | .lkcollBcast x => Sys2Proof.Machine.execLkcollBcast x s
  | .lkcollFsum x => Sys2Proof.Machine.execLkcollFsum x s
  | .lkcollIsum x => Sys2Proof.Machine.execLkcollIsum x s
  | .lkcollMin x => Sys2Proof.Machine.execLkcollMin x s
  | .lkcollMax x => Sys2Proof.Machine.execLkcollMax x s
  | .lkcollAnd x => Sys2Proof.Machine.execLkcollAnd x s
  | .lkcollOr x => Sys2Proof.Machine.execLkcollOr x s
  | .lkcollCell x => Sys2Proof.Machine.execLkcollCell x s
  | .lkwait x => Sys2Proof.Machine.execLkwait x s
  | .lkstatSlot x => Sys2Proof.Machine.execLkstatSlot x s
  | .lkstatPort x => Sys2Proof.Machine.execLkstatPort x s
  | .lkseq x => Sys2Proof.Machine.execLkseq x s
  | .lkseqSet x => Sys2Proof.Machine.execLkseqSet x s
  | .trapret x => Sys2Proof.Machine.execTrapret x s
  | .trapretSkip x => Sys2Proof.Machine.execTrapretSkip x s
  | .halt x => Sys2Proof.Machine.execHalt x s
  | .haltRgn x => Sys2Proof.Machine.execHaltRgn x s
  | .feat x => Sys2Proof.Machine.execFeat x s
  | .idle x => Sys2Proof.Machine.execIdle x s
  | .syscall x => Sys2Proof.Machine.execSyscall x s
  | .syscallNotify x => Sys2Proof.Machine.execSyscallNotify x s
  | .syscallStep x => Sys2Proof.Machine.execSyscallStep x s
  | .illegalOpcode w => Sys2Proof.Machine.execIllegalOpcode w s
  | .waitTimeout lid => Sys2Proof.Machine.execWaitTimeout lid s
  | .triggerFire lid => Sys2Proof.Machine.execTriggerFire lid s
  | .inboxTaskCreate lid => Sys2Proof.Machine.execInboxTaskCreate lid s
  | .storeBufferPerform lid => Sys2Proof.Machine.execStoreBufferPerform lid s
  | .streamItemRead eng ctx => Sys2Proof.Machine.execStreamItemRead eng ctx s
  | .streamItemWrite eng ctx => Sys2Proof.Machine.execStreamItemWrite eng ctx s
  | .streamEnd eng ctx => Sys2Proof.Machine.execStreamEnd eng ctx s
  | .walkRetry site => Sys2Proof.Machine.execWalkRetry site s
  | .pageFaultTimeLimit site => Sys2Proof.Machine.execPageFaultTimeLimit site s
  | .engineSleep eng => Sys2Proof.Machine.execEngineSleep eng s
  | .engineWake eng => Sys2Proof.Machine.execEngineWake eng s
  | .cbEntryFlit lid p => Sys2Proof.Machine.execCbEntryFlit lid p s
  | .cbCreditArrival lid p => Sys2Proof.Machine.execCbCreditArrival lid p s
  | .completionTokenArrival lid => Sys2Proof.Machine.execCompletionTokenArrival lid s
  | .flitForward lid p => Sys2Proof.Machine.execFlitForward lid p s
  | .sumRound lid tag => Sys2Proof.Machine.execSumRound lid tag s
  | .sumControlFlit lid tag => Sys2Proof.Machine.execSumControlFlit lid tag s
  | .renormRecord lid p => Sys2Proof.Machine.execRenormRecord lid p s
  | .widthAdapt lid p => Sys2Proof.Machine.execWidthAdapt lid p s
  | .inboxAccept lid => Sys2Proof.Machine.execInboxAccept lid s
  | .latticeStreamBlock lid => Sys2Proof.Machine.execLatticeStreamBlock lid s
  | .episodeComplete g => Sys2Proof.Machine.execEpisodeComplete g s
  | .treeResultArrival lid ch => Sys2Proof.Machine.execTreeResultArrival lid ch s
  | .outcomeArrival lid ch => Sys2Proof.Machine.execOutcomeArrival lid ch s
  | .coreRetire lid => Sys2Proof.Machine.execCoreRetire lid s
  | .atomicServe cl => Sys2Proof.Machine.execAtomicServe cl s
  | .detAcasStep cl => Sys2Proof.Machine.execDetAcasStep cl s
  | .collectiveHeaderFrame port fr => Sys2Proof.Machine.execCollectiveHeaderFrame port fr s
  | .collectiveDataFrame port fr => Sys2Proof.Machine.execCollectiveDataFrame port fr s
  | .collectiveCombine c => Sys2Proof.Machine.execCollectiveCombine c s
  | .collectiveComplete c => Sys2Proof.Machine.execCollectiveComplete c s
  | .collectiveUnreachable c => Sys2Proof.Machine.execCollectiveUnreachable c s
  | .crownPartialFrame port fr => Sys2Proof.Machine.execCrownPartialFrame port fr s
  | .linkCreditFrame port fr => Sys2Proof.Machine.execLinkCreditFrame port fr s
  | .linkFrameResend port => Sys2Proof.Machine.execLinkFrameResend port s
  | .drainTokenPush rg => Sys2Proof.Machine.execDrainTokenPush rg s
  | .configStepSwitch rg pl => Sys2Proof.Machine.execConfigStepSwitch rg pl s
  | .launch q => Sys2Proof.Machine.execLaunch q s
  | .preempt q => Sys2Proof.Machine.execPreempt q s
  | .resume q => Sys2Proof.Machine.execResume q s
  | .release q => Sys2Proof.Machine.execRelease q s
  | .cancel q => Sys2Proof.Machine.execCancel q s
  | .invalidate q => Sys2Proof.Machine.execInvalidate q s
  | .regionPlace rg pls => Sys2Proof.Machine.execRegionPlace rg pls s
  | .stagingComplete rg => Sys2Proof.Machine.execStagingComplete rg s
  | .commitTokenArrival lid => Sys2Proof.Machine.execCommitTokenArrival lid s
  | .loadAbort lid => Sys2Proof.Machine.execLoadAbort lid s
  | .regionComplete rg => Sys2Proof.Machine.execRegionComplete rg s
  | .coreHalt lid => Sys2Proof.Machine.execCoreHalt lid s
  | .contextSaved rg => Sys2Proof.Machine.execContextSaved rg s
  | .regionEvict rg => Sys2Proof.Machine.execRegionEvict rg s
  | .completionRecordWrite q => Sys2Proof.Machine.execCompletionRecordWrite q s
  | .doorbell q val => Sys2Proof.Machine.execDoorbell q val s
  | .wqcfgWrite q val => Sys2Proof.Machine.execWqcfgWrite q val s
  | .cqcfgWrite q val => Sys2Proof.Machine.execCqcfgWrite q val s
  | .cqctlWrite q val => Sys2Proof.Machine.execCqctlWrite q val s
  | .qstatClear q val => Sys2Proof.Machine.execQstatClear q val s
  | .mgPcapWrite val => Sys2Proof.Machine.execMgPcapWrite val s
  | .mgHdmWrite word val => Sys2Proof.Machine.execMgHdmWrite word val s
  | .mgmtRegisterWrite off val => Sys2Proof.Machine.execMgmtRegisterWrite off val s
  | .fwload => Sys2Proof.Machine.execFwload s
  | .svnraise => Sys2Proof.Machine.execSvnraise s
  | .attest => Sys2Proof.Machine.execAttest s
  | .retlist => Sys2Proof.Machine.execRetlist s
  | .retclear => Sys2Proof.Machine.execRetclear s
  | .partset => Sys2Proof.Machine.execPartset s
  | .ready => Sys2Proof.Machine.execReady s
  | .moduleReset b => Sys2Proof.Machine.execModuleReset b s
  | .correctedEccError lid => Sys2Proof.Machine.execCorrectedEccError lid s
  | .uncorrectableError site => Sys2Proof.Machine.execUncorrectableError site s
  | .meshLinkCrcRetry lid dir => Sys2Proof.Machine.execMeshLinkCrcRetry lid dir s
  | .linkPortDown port training => Sys2Proof.Machine.execLinkPortDown port training s
  | .thermalThrottle temp => Sys2Proof.Machine.execThermalThrottle temp s
  | .powerCapThrottle watts => Sys2Proof.Machine.execPowerCapThrottle watts s
  | .thermalTrip temp => Sys2Proof.Machine.execThermalTrip temp s
  | .coolantFlowTrip flow => Sys2Proof.Machine.execCoolantFlowTrip flow s
  | .waitUntilCycleReached lid => Sys2Proof.Machine.execWaitUntilCycleReached lid s
  | .brimLinkDown port => Sys2Proof.Machine.execBrimLinkDown port s

end Sys2Proof.Machine
end

