-- ==== Sys2Proof/Machine/Step.lean ====
section
/-! DEFINITION. One step of the module: one move of its scheduler. -/

namespace Sys2Proof.Machine

/-- A core issues at its PC: an expired wait ends, a fetch that traps traps, else the decoded instruction executes. -/
def stepCore (s : State) (lid : Nat) : Host.Outcome State Fault Refusal :=
  if !s.canIssue lid then .next s
  else if s.anyExpired lid then .next (timeout s lid)
  else
    let s := (s.keepWord lid).running lid false
    match fetchStage s lid with
    | .run i => exec i s
    | .trap t w => .next (if s.midBody then s else deliverTrap s t (s.core lid).pc w)

/-- A core's repeat buffer issues its next body word (05 R170). -/
def stepRpt (s : State) (lid : Nat) : Host.Outcome State Fault Refusal :=
  if !s.canIssue lid then .next s
  else if s.anyExpired lid then .next (timeout s lid)
  else
    match (s.core lid).rpt with
    | none => .next s
    | some r =>
      let s := s.running lid true
      match decodeFetched r.next with
      | .run i => exec i s
      | .trap t w => .next (deliverTrap s t ((s.core lid).execPc true) w)

/-- A move that is not enabled changes nothing. -/
def stepMove (s : State) : Move → Host.Outcome State Fault Refusal
  | .core lid => stepCore s lid
  | .rpt lid => stepRpt s lid
  | .event i => if isEvent i then exec i s else .next s
  | .stop rg => .next (completeStops s [rg])
  | .frame port fr => .next (s.plainFrame port fr)
  | .elapse n => .next (s.elapse n)
  | .sensors t w => .next (s.sensed t w)
  | .bar b off val => barWrite b off val s
  | .hostWrite a bytes => .next (s.hostWrites a bytes)
  | .extWrite a bytes => .next (s.extWrites a bytes)

/-- One step. -/
def step (s : State) : Host.Outcome State Fault Refusal := stepMove s.tick s.nextMove

/-- The module with one instruction, given as the opcode table numbers its bits, where its next step fetches: in the LOC
of core 0 at its PC, core 0 being LIVE with one task. -/
def State.withFetchWord (s : State) (nbits w : Nat) : State :=
  { s with
    sched := [.core 0]
    cores := Table.put 0 ((s.core 0).bare (BitVec.ofNat 64 (w % 2 ^ nbits))) s.cores
    regions := bareRegion :: s.regions
    scalarStalls := s.scalarStalls.filter (fun x => x.lid != 0) }

end Sys2Proof.Machine
end

