-- ==== Sys2Proof/Safety.lean ====
section
/-! DEFINITION. What counts as a safe step, the canonical form that memory keeps, and the terms in which the statements
speak of an instruction: when it takes effect, what a scalar or vector operand delivers, and the core behind it. -/

namespace Sys2Proof.Machine

/-- A step that neither faults nor is refused. -/
def Completes (o : Host.Outcome State Fault Refusal) : Prop := ∃ t, o = .next t

/-- The memories of a module in canonical form: external memory, host memory, the LOC of every core, and the LOC of every
core that an evicted region saved. -/
def State.MemOk (s : State) : Prop :=
  Memory.wf s.ext = true ∧ Memory.wf s.hostMem = true ∧ (∀ lid, Memory.wf (s.core lid).loc = true)
    ∧ ∀ r ∈ s.regions, ∀ p ∈ r.saved, Memory.wf p.2.loc = true

/-! ## An instruction that takes effect -/

/-- The word that encodes an instruction. -/
def wordOf (i : Instr) : Word := i.word?.getD 0

/-- The checks of 03 R103 behind decoding pass for an instruction of the executing core: its feature is declared, and its
privilege held. -/
def Permitted (i : Instr) (s : State) : Prop :=
  (∀ f, featureOf (wordOf i) = some f → s.me.dcl.getLsbD f = true)
    ∧ (supervisorOnly (bitsOf (wordOf i) 56 8) = true → s.me.prv = true)

/-- An instruction of the executing core goes on to its operands: the core exists, the checks of 03 R103 pass, no path is
run ahead, no running repeat buffer holds it back, and its guard holds, or has held when the instruction issued (03 R82; 05
R172; 11 R366). -/
def Issues (i : Instr) (s : State) : Prop :=
  s.cur < coreCount ∧ Permitted i s ∧ s.me.spec = none
    ∧ (s.inRpt = false → ∀ r, s.me.rpt = some r → rptStalls r i (wordOf i) = false)
    ∧ (s.hasIssued = true ∨ guardHolds s.me (wordOf i) = true)

/-- The core once an instruction has completed at its PC, or as a body word of the repeat buffer (05 R160, R170). -/
def Core.completed (c : Core) (inRpt : Bool) : Core :=
  if inRpt then { c with rpt := c.rpt.bind (·.advance), rptWait := none, rptProgress := 0, rptIssued := false }
  else { c with pc := c.pc + 8, wait := none, progress := 0, issued := false }

/-- The core once an instruction has set its PC. -/
def Core.jumped (c : Core) (pc : BitVec 16) : Core := { c with pc, wait := none, progress := 0, issued := false }

/-- The state in which the executing core has completed an instruction that made c of it. -/
def State.completed (s : State) (c : Core) : State := s.setMe (c.completed s.inRpt)

/-- The state in which the executing instruction has issued and waits, with the TRAP_VAL of its wait (03 R82; 05 R169). -/
def State.waiting (s : State) (val : Word) : State :=
  s.markIssued.setMe (s.markIssued.me.noteWait s.inRpt s.cycle.toNat val true false)

/-! ## Operands -/

/-- A flit at the head of a queue that a scalar read takes: KIND 0 and no BX format (05 R153). -/
def scalarFlit (f : Flit) : Bool := f.kind == 0 && !isBx f.fmt

/-- Input queue n without its head flit, its half mark cleared and the flit consumed (05 R153; 02 R76). -/
def Core.popped (c : Core) (n : Nat) (f : Flit) (rest : List Flit) : Core :=
  ({ c.setQueue n rest with half := putBits c.half n 1 0 }).consume f n 0

/-- What a scalar source field delivers, and the core after it; none where it stalls or traps (03 R83; 05 R153). -/
def scalarRead (c : Core) (r : BitVec 5) : Option (Word × Core) :=
  if r.toNat < 24 then some (c.reg r.toNat, c)
  else
    let n := r.toNat - 24
    match c.queue n with
    | [] => none
    | f :: rest =>
      if !scalarFlit f then none
      else if f.fmt = 0 then some (f.payload.extractLsb' 0 64, c.popped n f rest)
      else if c.half.getLsbD n then some (f.payload.extractLsb' 64 64, c.popped n f rest)
      else some (f.payload.extractLsb' 0 64, { c with half := putBits c.half n 1 1 })

/-- Whether a push through qn may be made now: the entry of its tag is valid, not a transit entry, and k slots of the
output queue are free (05 R154; 08 R270). -/
def Core.canPush (c : Core) (n k : Nat) : Bool :=
  (c.route (c.qtag n)).getLsbD 63 && decide (c.qtag n < 112) && decide (c.router.outq.length + k ≤ 8)

/-- The core with flits behind its output queue. -/
def Core.pushed (c : Core) (fs : List Flit) : Core := { c with router := { c.router with outq := c.router.outq ++ fs } }

/-- The core after a scalar destination field took a value; none where the push stalls or traps (03 R83; 05 R154). -/
def scalarWrite (c : Core) (r : BitVec 5) (v : Word) : Option Core :=
  if r.toNat < 24 then some (c.setReg r.toNat v)
  else
    let n := r.toNat - 24
    if c.canPush n 1 then
      some (c.pushed [mkFlit 0 0 (c.fpFlagsRead.getLsbD 6) false 0 0 0 (BitVec.ofNat 7 (c.qtag n)) (v.setWidth 128)])
    else none

/-- The module after the executing core has loaded n bytes at a of LOC of core lid: a load that its store buffer does not cover is an
access of the cluster's engine where the line is hot; none where another request is served first (12 R385, R386). -/
def State.loaded (s : State) (lid a n : Nat) : Option State :=
  if allForwarded s.me.sb lid a n then some s else s.plainAccess s.cur lid a

end Sys2Proof.Machine
end

