-- ==== Sys2Proof/Certificates/Slice0/Obligations.lean ====
section
/-! DEFINITION. The statements about the model, for the provers. Each cites the rules of the spec it formalises; a value or
an order that the model chose names its log entry. -/

namespace Sys2Proof.Claims

open Sys2Proof.Machine

/-! ## Integer instructions (05 R181-R184) -/

/-- The quotient and remainder of 02 R48 at width 64. -/
def quo (x y : Int) : Int := if y = 0 then -1 else x.tdiv y
def rmd (x y : Int) : Int := if y = 0 then x else x.tmod y

/-- What the two-operand integer instructions deliver, in the arithmetic of 05 R181. -/
def twoOperand : List ((FormS3 → Instr) × (Word → Word → Word)) :=
  [(.add, fun a b => .ofInt 64 (a.toInt + b.toInt)),
   (.sub, fun a b => .ofInt 64 (a.toInt - b.toInt)),
   (.mul, fun a b => .ofInt 64 (a.toInt * b.toInt)),
   (.mulh, fun a b => .ofInt 64 (a.toInt * b.toInt / 2 ^ 64)),
   (.mulhn, fun a b => .ofNat 64 (a.toNat * b.toNat / 2 ^ 64)),
   (.div, fun a b => .ofInt 64 (quo a.toInt b.toInt)),
   (.divn, fun a b => .ofInt 64 (quo a.toNat b.toNat)),
   (.rem, fun a b => .ofInt 64 (rmd a.toInt b.toInt)),
   (.remn, fun a b => .ofInt 64 (rmd a.toNat b.toNat)),
   (.and, fun a b => a &&& b), (.or, fun a b => a ||| b), (.xor, fun a b => a ^^^ b), (.andn, fun a b => a &&& ~~~b),
   (.sll, fun a b => if 64 ≤ b.toNat then 0 else .ofNat 64 (a.toNat * 2 ^ b.toNat)),
   (.srl, fun a b => if 64 ≤ b.toNat then 0 else .ofNat 64 (a.toNat / 2 ^ b.toNat)),
   (.sra, fun a b => .ofInt 64 (a.toInt / 2 ^ min b.toNat 63)),
   (.rotl, fun a b => a.rotateLeft (b.toNat % 64)), (.rotr, fun a b => a.rotateRight (b.toNat % 64)),
   (.min, fun a b => .ofInt 64 (min a.toInt b.toInt)), (.max, fun a b => .ofInt 64 (max a.toInt b.toInt)),
   (.minn, fun a b => .ofNat 64 (min a.toNat b.toNat)), (.maxn, fun a b => .ofNat 64 (max a.toNat b.toNat))]

/-- The number of one bits of v. -/
def ones (v : Word) : Nat := (List.range 64).countP (fun i => v.getLsbD i)

/-- The instructions of one source register (05 R182): v is what they deliver of a. -/
def oneOperand : List ((FormS3 → Instr) × (Word → Word → Prop)) :=
  [(.clz, fun a v => if a = 0 then v = 64 else v.toNat < 64 ∧ a.toNat / 2 ^ (63 - v.toNat) = 1),
   (.ctz, fun a v => if a = 0 then v = 64 else v.toNat < 64 ∧ a.toNat % 2 ^ v.toNat = 0 ∧ a.getLsbD v.toNat = true),
   (.popc, fun a v => v.toNat = ones a)]

/-- The immediate forms (05 R182), on a and the sign-extended immediate. -/
def immediates : List ((FormSI → Instr) × (Word → Word → Word)) :=
  [(.addi, fun a b => .ofInt 64 (a.toInt + b.toInt)), (.andi, fun a b => a &&& b), (.ori, fun a b => a ||| b),
   (.xori, fun a b => a ^^^ b),
   (.slli, fun a b => if 64 ≤ b.toNat then 0 else .ofNat 64 (a.toNat * 2 ^ b.toNat)),
   (.srli, fun a b => if 64 ≤ b.toNat then 0 else .ofNat 64 (a.toNat / 2 ^ b.toNat)),
   (.srai, fun a b => .ofInt 64 (a.toInt / 2 ^ min b.toNat 63))]

/-- Whether a compare condition holds (05 R184, the table Compare conditions). -/
def holds (sf : Nat) (a b : Word) : Prop :=
  match sf with
  | 0 => a = b
  | 1 => a ≠ b
  | 2 => a.toInt < b.toInt
  | 3 => a.toInt ≤ b.toInt
  | 4 => a.toInt > b.toInt
  | 5 => a.toInt ≥ b.toInt
  | 6 => a.toNat < b.toNat
  | 7 => a.toNat ≤ b.toNat
  | 8 => a.toNat > b.toNat
  | 9 => a.toNat ≥ b.toNat
  | 10 => a &&& b ≠ 0
  | _ => a &&& b = 0

/-- The core after a truth value has gone to sD and, where FD names a flag, to the flag. -/
def truthWrite (c : Core) (d : BitVec 5) (fd : BitVec 3) (v : Bool) : Option Core :=
  (scalarWrite c d (if v then 1 else 0)).map fun c => c.setFlag fd.toNat v

/-- The field of bext and bins: its offset and width, and the core after it was read (05 R183). -/
def fieldRead (c : Core) (x : FormS3) : Option (Nat × Nat × Core) :=
  if x.b = 0 then some (x.aux.toNat % 256, x.aux.toNat / 256 % 256, c)
  else (scalarRead c x.b).map fun p => (p.1.toNat % 256, p.1.toNat / 256 % 256, p.2)

/-- What bext delivers (05 R183). -/
def extracted (sx : Bool) (a : Word) (ofs wid : Nat) : Word :=
  if wid = 0 ∨ 64 ≤ ofs then 0
  else
    let f : Int := a.toNat / 2 ^ ofs % 2 ^ wid
    .ofInt 64 (if sx && decide (2 ^ (wid - 1) ≤ f) then f - 2 ^ wid else f)

/-- What bins leaves in a register that held old (05 R183). -/
def inserted (old a : Word) (ofs wid : Nat) : Word :=
  if wid = 0 ∨ 64 ≤ ofs then old
  else
    let w := min wid (64 - ofs)
    let k : Word := .ofNat 64 ((2 ^ w - 1) * 2 ^ ofs)
    (old &&& ~~~k) ||| .ofNat 64 (a.toNat % 2 ^ w * 2 ^ ofs)

end Sys2Proof.Claims

open Sys2Proof Sys2Proof.Machine Sys2Proof.Claims

/-- 05 R181, 02 R48: where both sources can be read and the destination takes a result, the two-operand integer instructions
complete; sD holds the result, and nothing else changes but what the operands' queues lose and gain. -/
def Obligations.TwoOperandIntegerResults : Prop :=
  ∀ p ∈ twoOperand, ∀ (x : FormS3) (s : State) (a b : Word) (c1 c2 c3 : Core),
    Issues (p.1 x) s → scalarRead s.me x.a = some (a, c1) → scalarRead c1 x.b = some (b, c2) →
    scalarWrite c2 x.d (p.2 a b) = some c3 → exec (p.1 x) s = .next (s.completed c3)

/-- 05 R182: clz, ctz, popc, the immediate forms and li; a shift immediate outside 0 to 63 is no valid instruction. -/
def Sys2Proof.Claims.OneOperandIntegerResults : Prop :=
  (∀ p ∈ oneOperand, ∀ (x : FormS3) (s : State) (a : Word) (c1 : Core),
    Issues (p.1 x) s → scalarRead s.me x.a = some (a, c1) →
    ∃ v, p.2 a v ∧ ∀ c2, scalarWrite c1 x.d v = some c2 → exec (p.1 x) s = .next (s.completed c2))
  ∧ (∀ p ∈ immediates, ∀ (x : FormSI) (s : State) (a : Word) (c1 c2 : Core),
    Issues (p.1 x) s → scalarRead s.me x.a = some (a, c1) →
    scalarWrite c1 x.d (p.2 a (x.imm.signExtend 64)) = some c2 → exec (p.1 x) s = .next (s.completed c2))
  ∧ (∀ (x : FormLI) (s : State) (c1 : Core), Issues (.li x) s →
    scalarWrite s.me x.d (x.imm.signExtend 64) = some c1 → exec (.li x) s = .next (s.completed c1))
  ∧ ∀ i ∈ [Instr.slli, .srli, .srai], ∀ x : FormSI, 64 ≤ x.imm.toNat → decodeWord (wordOf (i x)) = .error .reservedField

/-- 05 R183, R184: bext, bins (which has no queue for a destination), sel, cmp and cmpi; the SF and D values and the AUX that
these rules reserve are no valid instructions. -/
def Sys2Proof.Claims.FieldSelectCompareResults : Prop :=
  (∀ (x : FormS3) (s : State) (a : Word) (c1 c2 c3 : Core) (ofs wid : Nat), Issues (.bext x) s →
    scalarRead s.me x.a = some (a, c1) → fieldRead c1 x = some (ofs, wid, c2) →
    scalarWrite c2 x.d (extracted (x.sf == 1) a ofs wid) = some c3 → exec (.bext x) s = .next (s.completed c3))
  ∧ (∀ (x : FormS3) (s : State) (a : Word) (c1 c2 : Core) (ofs wid : Nat), Issues (.bins x) s → x.d.toNat < 24 →
    scalarRead s.me x.a = some (a, c1) → fieldRead c1 x = some (ofs, wid, c2) →
    ∃ c3, exec (.bins x) s = .next (s.completed c3)
      ∧ c3 = if wid = 0 ∨ 64 ≤ ofs then c2 else c2.setReg x.d.toNat (inserted (c2.reg x.d.toNat) a ofs wid))
  ∧ (∀ (x : FormS3) (s : State) (a b : Word) (c1 c2 c3 : Core), Issues (.sel x) s →
    scalarRead s.me x.a = some (a, c1) → scalarRead c1 x.b = some (b, c2) →
    scalarWrite c2 x.d (if s.me.flag x.c.toNat then a else b) = some c3 → exec (.sel x) s = .next (s.completed c3))
  ∧ (∀ (x : FormS3) (s : State) (a b : Word) (c1 c2 c3 : Core) (v : Bool), Issues (.cmp x) s →
    scalarRead s.me x.a = some (a, c1) → scalarRead c1 x.b = some (b, c2) → (v = true ↔ holds x.sf.toNat a b) →
    truthWrite c2 x.d x.fd v = some c3 → exec (.cmp x) s = .next (s.completed c3))
  ∧ (∀ (x : FormC) (s : State) (a : Word) (c1 c2 : Core) (v : Bool), Issues (.cmpi x) s →
    scalarRead s.me x.a = some (a, c1) → (v = true ↔ holds x.sf.toNat a (x.imm.signExtend 64)) →
    truthWrite c1 x.d x.fd v = some c2 → exec (.cmpi x) s = .next (s.completed c2))
  ∧ (∀ x : FormS3, 1 < x.sf.toNat ∨ (x.b ≠ 0 ∧ x.aux ≠ 0) → decodeWord (wordOf (.bext x)) = .error .reservedField)
  ∧ (∀ x : FormS3, x.sf ≠ 0 ∨ 24 ≤ x.d.toNat ∨ (x.b ≠ 0 ∧ x.aux ≠ 0) →
    decodeWord (wordOf (.bins x)) = .error .reservedField)
  ∧ (∀ x : FormS3, 12 ≤ x.sf.toNat → decodeWord (wordOf (.cmp x)) = .error .reservedField)
  ∧ ∀ x : FormC, 12 ≤ x.sf.toNat → decodeWord (wordOf (.cmpi x)) = .error .reservedField

namespace Sys2Proof.Claims

/-! ## fop (05 R186) -/

/-- The value of a fop's operand, its rounding mode and the format of its type. -/
def fopArg (c : Core) (x : FormS3) (a : Word) : FpVal := fpDecode (fpOf x.ty.toNat) c.ftz (a.toNat % 2 ^ (fpOf x.ty.toNat).width)
def fopMode (c : Core) (x : FormS3) : BitVec 2 := if x.rd = 1 then c.rm else x.rm

/-- The core after a fop's flags were raised and its result written. -/
def fopWritten (c : Core) (d : BitVec 5) (r : Word) (flags : BitVec 7) : Option Core :=
  scalarWrite (c.raiseFlags flags) d r

/-- The fops of one operand: what each delivers of it, from the core (MODE) and the fields. -/
def fopOne : List ((FormS3 → Instr) × (Core → FormS3 → Word → Word × BitVec 7)) :=
  let code (g : FpFormat → BitVec 2 → Bool → FpVal → FpRes) (c : Core) (x : FormS3) (a : Word) : Word × BitVec 7 :=
    let r := g (fpOf x.ty.toNat) (fopMode c x) c.ftz (fopArg c x a)
    (BitVec.ofNat 64 r.1, r.2)
  let whole (lo hi : Int) (c : Core) (x : FormS3) (a : Word) : Word × BitVec 7 :=
    let r := fpToInt (fopMode c x) lo hi (fopArg c x a)
    (BitVec.ofInt 64 r.1, r.2)
  let from_ (v : Word → Int) (c : Core) (x : FormS3) (a : Word) : Word × BitVec 7 :=
    let r := fpFromInt (fpOf x.ty.toNat) (fopMode c x) c.ftz (v a)
    (BitVec.ofNat 64 r.1, r.2)
  [(.fopSqrt, code fpSqrt), (.fopAbs, code fun f _ _ a => fpSign f true a), (.fopNeg, code fun f _ _ a => fpSign f false a),
   (.fopCvt, fun c x a =>
     let r := fpRoundVal (fpOf (x.aux.toNat % 16)) (fopMode c x) c.ftz (fopArg c x a)
     (BitVec.ofNat 64 r.1, r.2)),
   (.fopToi, whole (-(2 ^ 63)) (2 ^ 63 - 1)), (.fopTon, whole 0 (2 ^ 64 - 1)),
   (.fopFromi, from_ (·.toInt)), (.fopFromn, from_ (·.toNat))]

/-- The fops of two operands. -/
def fopTwo : List ((FormS3 → Instr) × (FpFormat → BitVec 2 → Bool → FpVal → FpVal → FpRes)) :=
  [(.fopAdd, fpAdd), (.fopSub, fun f rm z a b => fpAdd f rm z a b.neg), (.fopMul, fpMul), (.fopDiv, fpDiv),
   (.fopMin, fun f _ _ a b => fpMinMax f false a b), (.fopMax, fun f _ _ a b => fpMinMax f true a b)]

/-- The compares: which of two values they hold for, by the order of values that are not NaN, and whether a quiet NaN raises NV
(05 R186). -/
def fopTests : List ((FormS3 → Instr) × (Ordering → Bool) × Bool × Bool) :=
  [(.fopEq, (· == .eq), false, false), (.fopLt, (· == .lt), true, false), (.fopLe, (· != .gt), true, false),
   (.fopUn, fun _ => false, false, true)]

/-! ## Memory instructions (05 R187; 04 R125-R138) -/

/-- A core that discarded what it fetched ahead, where b says so (03 R80). -/
def ordered (c : Core) (b : Prop) [Decidable b] : Core := if b then { c with oldWords := [] } else c

/-- The base register after a post-updating access (03 R90). -/
def postBase (c : Core) (x : FormM) : Core :=
  if x.am = 2 then c.setReg x.a.toNat (c.reg x.a.toNat + x.disp.signExtend 64) else c

/-- The effective address on unbounded integers (03 R90). -/
def effective (c : Core) (x : FormM) : Int :=
  let a := (c.reg x.a.toNat).toInt
  if x.am = 1 then a + (c.reg x.b.toNat).toInt * 2 ^ x.sz.toNat + x.disp.toInt else if x.am = 2 then a else a + x.disp.toInt

/-- What a load delivers of the bytes it read (05 R187). -/
def loaded (x : FormM) (bytes : List Byte) : Word :=
  let v := natOfBytes bytes
  let w := 8 * 2 ^ x.sz.toNat
  if x.sg = 1 then .ofInt 64 (if 2 ^ (w - 1) ≤ v % 2 ^ w then (v % 2 ^ w : Int) - 2 ^ w else v % 2 ^ w) else .ofNat 64 v

/-- Whether an address lies in the redirected spill area (04 R128). -/
def redirected (c : Core) (ea : Int) : Prop :=
  c.spillBase.toNat < c.spillLim.toNat ∧ (c.spillLim.toNat * 8 : Nat) ≤ ea ∧ ea < (c.spillLim.toNat * 8 : Nat) + 2 ^ 24

/-- An aligned access of n bytes at ea to the core's own LOC, its bank not gated (04 R125-R128; 14 R439). -/
def LocAccess (c : Core) (ea : Int) (n : Nat) : Prop :=
  0 ≤ ea ∧ ea < 65536 ∧ ea % n = 0 ∧ ¬redirected c ea ∧ c.bankWait.getLsbD (ea.toNat / 8192) = false

/-- The n bytes at address a of core lid's LOC can be read: no atomic of the reader is on its way there, and no poisoned word is
read (04 R136; 15 R460). -/
def Readable (s : State) (lid a n : Nat) : Prop :=
  atomicPending s.me.sb lid a n = false ∧ ((s.core lid).locPoisoned a n = false ∨ allForwarded s.me.sb lid a n = true)

/-- An aligned CLU access of n bytes at ea whose home is address a of core lid (04 R131). -/
def CluAccess (s : State) (x : FormM) (ea : Int) (n lid a : Nat) : Prop :=
  0 ≤ ea ∧ ea < 2 ^ 22 ∧ ea % n = 0 ∧ (∃ ci, cluSplit (x.cm == 1) ea.toNat = (ci, a) ∧ clusterMate s ci = some lid)

/-- The translation of a scalar access to EXT, whose page is not under migration, gives physical address pa, and leaves s1 (07
R233, R247). -/
def Translates (s : State) (ea : Int) (write : Bool) (pa : Nat) (s1 : State) : Prop :=
  0 ≤ ea ∧ ea < 2 ^ 57 ∧ ∃ size w r, s.regionOf s.cur = some r ∧ s.frozenPage r.job ea.toNat 1 = false
    ∧ scalarXlate s (s.portOf s.cur) r.job (s.rootOf r) ea.toNat write = (.leaf pa size w, s1)

/-- Where a redirected access goes in EXT (04 R128). -/
def spillTarget (c : Core) (ea : Int) : Int := (bitsOf c.spillOvf 12 45 * 4096 : Nat) + (ea - (c.spillLim.toNat * 8 : Nat))

/-- s' is s, with c for the executing core, after a load of n bytes at LOC address ea, which delivered bytes: from the LOC with
the core's buffered stores, in the order of the cluster's engine where the line is hot, or from EXT for the redirected spill
area (04 R128, R136; 12 R385). -/
def LdlAt (s : State) (c : Core) (ea : Int) (n : Nat) (bytes : List Byte) (s' : State) : Prop :=
  (LocAccess c ea n ∧ Readable s s.cur ea.toNat n ∧ bytes = loadBytes s s.me.sb s.cur ea.toNat n
      ∧ ∃ s0, s.loaded s.cur ea.toNat n = some s0 ∧ s' = s0.setMe c)
    ∨ (0 ≤ ea ∧ ea % n = 0 ∧ redirected c ea ∧ c.spillOvf.getLsbD 0 = true
      ∧ ∃ pa s1, Translates s (spillTarget c ea) false pa s1 ∧ extRead s1 pa n = some bytes ∧ s' = s1.setMe c)

/-- s' is s, with c for the executing core, after a store of bytes at LOC address ea: into the store buffer, or to EXT for the
redirected spill area (04 R128, R138). -/
def StlAt (s : State) (c : Core) (ea : Int) (bytes : List Byte) (s' : State) : Prop :=
  (LocAccess c ea bytes.length ∧ c.sb.length < 16 ∧ s' = s.setMe { c with sb := c.sb ++ [.store s.cur ea.toNat bytes] })
    ∨ (0 ≤ ea ∧ ea % bytes.length = 0 ∧ redirected c ea ∧ c.spillOvf.getLsbD 0 = true
      ∧ ∃ pa s1 s2, Translates s (spillTarget c ea) true pa s1 ∧ extWrite s1 pa bytes = some s2 ∧ s' = s2.setMe c)

/-- A release that need not wait (04 R140). -/
def ReleaseReady (s : State) (x : FormM) : Prop := x.rl = 1 → s.scopePerformed s.cur x.sc.toNat = true

end Sys2Proof.Claims

/-- 05 R186: the fops complete where their operands can be read and sD takes a result: the flags are raised, then the result is
written. -/
def Obligations.FopResults : Prop :=
  (∀ p ∈ fopOne, ∀ (x : FormS3) (s : State) (a : Word) (c1 c2 : Core), Issues (p.1 x) s →
    scalarRead s.me x.a = some (a, c1) → fopWritten c1 x.d (p.2 c1 x a).1 (p.2 c1 x a).2 = some c2 →
    exec (p.1 x) s = .next (s.completed c2))
  ∧ (∀ p ∈ fopTwo, ∀ (x : FormS3) (s : State) (a b : Word) (c1 c2 c3 : Core) (r : FpRes), Issues (p.1 x) s →
    scalarRead s.me x.a = some (a, c1) → scalarRead c1 x.b = some (b, c2) →
    r = p.2 (fpOf x.ty.toNat) (fopMode c2 x) c2.ftz (fopArg c2 x a) (fopArg c2 x b) →
    fopWritten c2 x.d (.ofNat 64 r.1) r.2 = some c3 → exec (p.1 x) s = .next (s.completed c3))
  ∧ (∀ (x : FormS3) (s : State) (a b e : Word) (c1 c2 c3 c4 : Core) (r : FpRes), Issues (.fopFma x) s →
    scalarRead s.me x.a = some (a, c1) → scalarRead c1 x.b = some (b, c2) → scalarRead c2 x.c = some (e, c3) →
    r = fpFma (fpOf x.ty.toNat) (fopMode c3 x) c3.ftz (fopArg c3 x a) (fopArg c3 x b) (fopArg c3 x e) →
    fopWritten c3 x.d (.ofNat 64 r.1) r.2 = some c4 → exec (.fopFma x) s = .next (s.completed c4))
  ∧ ∀ p ∈ fopTests, ∀ (x : FormS3) (s : State) (a b : Word) (c1 c2 c3 : Core) (u v : FpVal) (t : Bool) (fl : BitVec 7),
    Issues (p.1 x) s → scalarRead s.me x.a = some (a, c1) → scalarRead c1 x.b = some (b, c2) →
    u = fopArg c2 x a → v = fopArg c2 x b →
    t = (if u.isNan || v.isNan then p.2.2.2 else p.2.1 (fpCompare u v)) →
    fl = (if u.isSignalling || v.isSignalling || ((u.isNan || v.isNan) && p.2.2.1) then flagNV else 0) →
    truthWrite (c2.raiseFlags fl) x.d x.fd t = some c3 → exec (p.1 x) s = .next (s.completed c3)

/-- 02 R42, R43: rounding to nearest delivers, of a value that does not overflow, a representable value at most half a unit of
the last place away, and raises NX exactly where it is not the value itself. -/
def Obligations.RoundToNearestIsNearest : Prop :=
  ∀ f ∈ [fp16, bf16, fp32], ∀ (neg : Bool) (m : Nat) (e : Int), m ≠ 0 →
    let r := fpRound f 0 false neg false m e
    let u := max (e + Nat.log2 m - f.frac) f.qmin
    r.2 &&& flagOF = 0 →
    ∃ m' e', fpDecode f false r.1 = .fin neg m' e'
      ∧ 2 * |(m : ℚ) * 2 ^ e - (m' : ℚ) * 2 ^ e'| ≤ (2 : ℚ) ^ u
      ∧ (r.2 &&& flagNX = 0 ↔ (m : ℚ) * 2 ^ e = (m' : ℚ) * 2 ^ e')

/-- 05 R187; 04 R125-R136: ldl, ldc and ldx complete at an aligned address that their space holds: sD receives the little-endian
bytes there, sign-extended where SG asks for it, and the base is post-updated where AM is 2. A buffered store of the core gives
its byte; a load of a hot line is one of the accesses of its cluster's engine; an ldl of the redirected spill area reads EXT. -/
def Obligations.LoadsDeliverMemory : Prop :=
  (∀ (x : FormM) (s s1 : State) (bytes : List Byte) (c1 : Core), Issues (.ldl x) s →
    LdlAt s s.me (effective s.me x) (2 ^ x.sz.toNat) bytes s1 → ReleaseReady s x →
    scalarWrite s.me x.d (loaded x bytes) = some c1 →
    exec (.ldl x) s = .next (s1.completed (postBase (ordered c1 (x.aq = 1 ∨ x.rl = 1)) x)))
  ∧ (∀ (x : FormM) (s s1 : State) (lid a : Nat) (c1 : Core), Issues (.ldc x) s →
    CluAccess s x (effective s.me x) (2 ^ x.sz.toNat) lid a → Readable s lid a (2 ^ x.sz.toNat) →
    s.loaded lid a (2 ^ x.sz.toNat) = some s1 → ReleaseReady s x →
    scalarWrite s.me x.d (loaded x (loadBytes s s.me.sb lid a (2 ^ x.sz.toNat))) = some c1 →
    exec (.ldc x) s = .next (s1.completed (postBase (ordered c1 (x.aq = 1 ∨ x.rl = 1)) x)))
  ∧ ∀ (x : FormM) (s s1 : State) (pa : Nat) (bytes : List Byte) (c1 : Core), Issues (.ldx x) s →
    effective s.me x % 2 ^ x.sz.toNat = 0 → Translates s (effective s.me x) false pa s1 → ReleaseReady s x →
    extRead s1 pa (2 ^ x.sz.toNat) = some bytes → scalarWrite s.me x.d (loaded x bytes) = some c1 →
    exec (.ldx x) s = .next (s1.completed (postBase (ordered c1 (x.aq = 1 ∨ x.rl = 1)) x))

/-- 05 R187; 04 R125-R138: stl and stc put the low bytes of sD into the store buffer for their home, stx writes them to EXT, and
an stl of the redirected spill area writes EXT; the base is post-updated where AM is 2. -/
def Obligations.StoresReachTheirSpace : Prop :=
  (∀ (x : FormM) (s s1 : State) (v : Word) (c1 : Core), Issues (.stl x) s → scalarRead s.me x.d = some (v, c1) →
    StlAt s c1 (effective s.me x) (bytesOfNat (2 ^ x.sz.toNat) v.toNat) s1 → ReleaseReady s x →
    exec (.stl x) s = .next (s1.completed (postBase (ordered s1.me (x.rl = 1)) x)))
  ∧ (∀ (x : FormM) (s : State) (v : Word) (lid a : Nat) (c1 : Core), Issues (.stc x) s → scalarRead s.me x.d = some (v, c1) →
    CluAccess s x (effective s.me x) (2 ^ x.sz.toNat) lid a → ReleaseReady s x → s.me.sb.length < 16 →
    exec (.stc x) s = .next (s.completed (postBase { ordered c1 (x.rl = 1) with
      sb := c1.sb ++ [.store lid a (bytesOfNat (2 ^ x.sz.toNat) v.toNat)] } x)))
  ∧ ∀ (x : FormM) (s s1 s2 : State) (v : Word) (pa : Nat) (c1 : Core), Issues (.stx x) s →
    scalarRead s.me x.d = some (v, c1) → effective s.me x % 2 ^ x.sz.toNat = 0 →
    Translates s (effective s.me x) true pa s1 → ReleaseReady s x →
    extWrite s1 pa (bytesOfNat (2 ^ x.sz.toNat) v.toNat) = some s2 →
    exec (.stx x) s = .next (s2.completed (postBase (ordered c1 (x.rl = 1)) x))

/-- 04 R142; 05 R188: a fence completes once what it names is performed, and changes nothing but the words fetched ahead. -/
def Obligations.FenceCompletesWhenPerformed : Prop :=
  ∀ (x : FormM) (s : State), Issues (.fence x) s →
    (∀ e ∈ s.me.sb, e.isHome s.cur = false) →
    (¬(x.aq = 1 ∧ x.rl = 0) → s.scopePerformed s.cur x.sc.toNat = true) →
    (x.aq = x.rl → s.me.sb = []) →
    exec (.fence x) s = .next (s.completed { s.me with oldWords := [] })

namespace Sys2Proof.Claims

/-! ## Control registers (05 R156-R160, R189) -/

/-- The new value of a csrw by the suffix that SF names, FLAGS bit 0 always one (05 R160, R189). -/
def csrNew (addr : Nat) (sf : Nat) (old a : Word) : Word :=
  let new := if sf = 1 then old ||| a else if sf = 2 then old &&& ~~~a else a
  if addr = 0x12 then new ||| 1 else new

/-- The rows of the opcode table that are a csrr, and those that are a csrw with the suffix each has. -/
def csrReads (x : FormS3) : List Instr := [.csrr x, .fpFlagsAccess false x, .predsAccess false x]
def csrWrites (x : FormS3) : List (Instr × Nat) :=
  [(.csrw x, 0), (.csrwSet x, 1), (.csrwClr x, 2), (.fpFlagsAccess true x, x.sf.toNat), (.predsAccess true x, x.sf.toNat),
   (.triggerEntryWrite x, x.sf.toNat), (.lbndWrite x, x.sf.toNat), (.bankwaitWrite x, x.sf.toNat)]

/-! ## Tasks and control transfer -/

/-- The core with the head of the run queue started, if there is one (05 R161). -/
def started (c : Core) : Core :=
  match c.runq with
  | t :: _ => { c with pc := t.entry, prv := false, ras := [], rasSp := c.rasFloor.setWidth 22 }
  | [] => c

/-- The core after its running task t ended, rest being the tasks behind it (05 R192). -/
def taskEnded (c : Core) (t : Task) (rest : List Task) : Core :=
  let o := t.origin.toNat
  started { c with
    runq := rest
    ras := []
    trigBusy := if o < 16 then putBits c.trigBusy o 1 0 else c.trigBusy
    inbox := if 16 ≤ o ∧ o < 32 then Table.erase (o - 16) c.inbox else c.inbox
    intrap := false
    prv := if c.intrap then false else c.prv
    rptState := if c.intrap then putBits c.rptState 63 1 0 else c.rptState }

/-- A push of a return address: into the return-address store, or with its oldest entry spilled (05 R174). -/
def Pushes (s : State) (c : Core) (ra : BitVec 16) (s' : State) : Prop :=
  (c.ras.length < 16 ∧ s' = s.setMe { c with ras := ra :: c.ras })
    ∨ (16 ≤ c.ras.length ∧ (∀ r, c.rpt = some r → r.touches = false)
      ∧ ∃ s1, StlAt s c (c.rasSp.toNat * 8 : Nat) (bytesOfNat 8 (c.ras.getLast?.getD 0).toNat) s1
        ∧ s' = s1.setMe { s1.me with rasSp := c.rasSp + 1, ras := ra :: c.ras.dropLast })

/-- A pop of a return address: from the return-address store, or refilled from the spill area (05 R174). -/
def Pops (s : State) (ra : BitVec 16) (s' : State) : Prop :=
  (∃ rest, s.me.ras = ra :: rest ∧ s' = s.setMe { s.me with ras := rest })
    ∨ (s.me.ras = [] ∧ s.me.rasSp ≠ s.me.rasFloor.setWidth 22 ∧ (∀ r, s.me.rpt = some r → r.touches = false)
      ∧ ∃ b s1, LdlAt s s.me ((s.me.rasSp - 1).toNat * 8 : Nat) 8 b s1 ∧ ra = .ofNat 16 (natOfBytes b)
        ∧ s' = s1.setMe { s1.me with rasSp := s1.me.rasSp - 1 })

/-- A register target that neither traps ALIGN nor LOC_RANGE (05 R185). -/
def TargetOk (a : Word) : Prop := a.toNat % 8 = 0 ∧ a.toNat < 65536

/-! ## Traps (05 R173, R176) -/

/-- RPT_STATE for a repeat buffer that is interrupted, the PC being spc (05 R160, R173). -/
def rptRecord (r : Rpt) (spc : BitVec 16) : Word :=
  .ofNat 64 (2 ^ 63 + r.idx % 8 * 2 ^ 48 + r.left % 2 ^ 12 * 2 ^ 32 + r.body.toNat * 2 ^ 16 + spc.toNat)

/-- The core in its trap handler, by TakeTrap of 05 R176, for a trap of the scalar port's word. -/
def trapped (c : Core) (code : BitVec 8) (val : Word) (sub : Nat) (pc : BitVec 16) : Core :=
  { c with
    trapCause := .ofNat 64 (code.toNat + 65536 * sub)
    trapPc := pc
    trapVal := val
    rptState := match c.rpt with
      | some r => rptRecord r c.pc
      | none => c.rptState
    rptWord := match c.rpt with
      | some r => r.word
      | none => c.rptWord
    rpt := none
    pprv := c.prv
    prv := true
    intrap := true
    wait := none
    rptWait := none
    progress := 0
    rptProgress := 0
    issued := false
    rptIssued := false
    suspended := none
    opening := []
    lattice := { c.lattice with rest := [], loading := [] }
    pc := c.trapVec &&& 0xFFF8 }

/-- The n words of a repeat body whose address stands in bits 31:16 of st, as fetch gives them: each lies below CODE_LIM, is not
poisoned, and has an opcode allowed in a body (05 R171). -/
def BodyAt (s : State) (st n : Nat) (fetch : Nat → Word) (words : List Word) : Prop :=
  let a := st / 2 ^ 16 % 2 ^ 16
  words = (List.range n).map (fun k => fetch (a + 8 * k))
    ∧ ∀ k < n, a + 8 * k < s.me.codeLim ∧ s.me.locPoisoned (a + 8 * k) 8 = false
      ∧ bodyAllowed (bitsOf (fetch (a + 8 * k)) 56 8) = true

/-- The core that returns from a trap into its repeat buffer, the buffer apart (05 R173). -/
def resumed (c : Core) : Core :=
  { c with prv := c.pprv, intrap := false, rptState := putBits c.rptState 63 1 0, pc := c.rptState.extractLsb' 0 16,
           oldWords := [], rptWait := none, rptIssued := false }

/-- The core back at the scalar instruction at its PC: what was suspended of it there goes on (05 R173; log 71). -/
def backAt (c : Core) : Core :=
  match c.suspended with
  | some x =>
    if x.pc = c.pc then { c with suspended := none, answer := x.answer, progress := x.progress }
    else { c with suspended := none, progress := 0 }
  | none => { c with progress := 0 }

/-- A core whose trap is not fatal to its region: a handler is set, and none runs (05 R176). -/
def HandlesTraps (c : Core) : Prop := c.trapVec.getLsbD 0 = true ∧ c.intrap = false

/-- The region whose freeze begins, or goes on, with the fault record of core lid (08 R287). -/
def freezing (s : State) (r : Region) (lid : Nat) (rec : List Word) : Region :=
  { r with gathered := r.gathered ++ [(r.roleOf lid, rec)], stopFrom := r.stopFrom.or (some s.cycle) }

/-- Core lid has raised no fault of its region's freeze yet. -/
def FirstFault (r : Region) (lid : Nat) : Prop := ∀ p ∈ r.gathered, p.1 ≠ r.roleOf lid

/-- Nothing comes between a scalar word with a false guard and its completion: the core exists, no path is run ahead, no body
word of a running repeat buffer has still to write the flag, and the guard has not been read before (03 R82; 06 R207). -/
def GuardFalse (s : State) (w : Word) : Prop :=
  s.cur < coreCount ∧ s.me.spec = none ∧ s.inRpt = false ∧ s.me.issued = false
    ∧ (∀ r, s.me.rpt = some r → r.writesGuard w = false) ∧ guardHolds s.me w = false

end Sys2Proof.Claims

/-- 05 R189: csrr, and csrr of FP_FLAGS and PREDS, write the register to sD; SCRATCH0 and SCRATCH1 need supervisor privilege. -/
def Sys2Proof.Claims.CsrReadsDeliver : Prop :=
  ∀ (x : FormS3) (s : State) (c1 : Core), ∀ i ∈ csrReads x, Issues i s →
    (csrSo x.aux.toNat = true → s.me.prv = true) → scalarWrite s.me x.d (csrValue s x.aux.toNat) = some c1 →
    exec i s = .next (s.completed c1)

/-- 05 R159, R189: a csrw whose privilege is held and whose new value changes only writable bits, to a value that the register
takes, writes the new value, then the old one to sD. -/
def Sys2Proof.Claims.CsrWritesTakeEffect : Prop :=
  ∀ (x : FormS3) (s : State) (a old new : Word) (c1 c2 : Core), ∀ p ∈ csrWrites x, Issues p.1 s →
    (csrSv s.me x.aux.toNat = true → s.me.prv = true) → scalarRead s.me x.a = some (a, c1) →
    old = csrValue (s.setMe c1) x.aux.toNat → new = csrNew x.aux.toNat p.2 old a →
    (new ^^^ old) &&& ~~~csrMask x.aux.toNat = 0 → csrValueOk x.aux.toNat new = true →
    scalarWrite (c1.setCsr x.aux.toNat new) x.d old = some c2 → exec p.1 s = .next (s.completed c2)

/-- 05 R158-R160: a control register reads as what was written to it. -/
def Obligations.CsrReadsWhatWasWritten : Prop :=
  ∀ (s : State) (addr : Nat) (v : Word), s.me.spec = none →
    (v ^^^ csrValue s addr) &&& ~~~csrMask addr = 0 → csrValueOk addr v = true →
    csrValue (s.setMe (s.me.setCsr addr v)) addr = v

/-- 05 R159: a csrw at user privilege of a supervisor-only register traps PRIVILEGE with the word for TRAP_VAL, and a csrw that
changes a bit it may not traps RESERVED_FIELD; the register keeps its value. That PRIVILEGE comes before operand A is read is the
model's choice, log 81. -/
def Sys2Proof.Claims.CsrWriteRefusals : Prop :=
  (∀ (x : FormS3) (s : State), ∀ p ∈ csrWrites x, Issues p.1 s → s.inRpt = false → s.midBody = false → HandlesTraps s.me →
    csrSv s.me x.aux.toNat = true → s.me.prv = false →
    exec p.1 s = .next (s.setMe (trapped s.me causePrivilege (wordOf p.1) 0 s.me.pc)))
  ∧ ∀ (x : FormS3) (s : State) (a old new : Word) (c1 : Core), ∀ p ∈ csrWrites x, Issues p.1 s → s.inRpt = false →
    s.midBody = false →
    HandlesTraps s.me → (csrSv s.me x.aux.toNat = true → s.me.prv = true) → scalarRead s.me x.a = some (a, c1) →
    old = csrValue (s.setMe c1) x.aux.toNat → new = csrNew x.aux.toNat p.2 old a →
    (new ^^^ old) &&& ~~~csrMask x.aux.toNat ≠ 0 →
    exec p.1 s = .next (s.setMe (trapped c1 causeReserved (wordOf p.1) 0 s.me.pc))

/-- 05 R185 (with R174 for a push or pop): jmp and call go to PC + 8 × OFS modulo 2^16, jr and callr to an aligned sA below
2^16, ret to the popped address; call and callr push PC + 8. A target that is not aligned traps ALIGN, one from 2^16 on
LOC_RANGE, and nothing is pushed; a target at or above CODE_LIM traps LOC_RANGE at its fetch; a jump whose guard is false falls
through. -/
def Obligations.ControlTransfers : Prop :=
  (∀ (x : FormJ) (s : State), Issues (.jmp x) s → s.inRpt = false →
    exec (.jmp x) s = .next (s.setMe (s.me.jumped (.ofInt 16 (s.me.pc.toNat + 8 * x.ofs.toInt)))))
  ∧ (∀ (x : FormJ) (s s1 : State), Issues (.call x) s → s.inRpt = false → Pushes s s.me (s.me.pc + 8) s1 →
    exec (.call x) s = .next (s1.setMe (s1.me.jumped (.ofInt 16 (s.me.pc.toNat + 8 * x.ofs.toInt)))))
  ∧ (∀ (x : FormS3) (s : State) (a : Word) (c1 : Core), Issues (.jr x) s → s.inRpt = false →
    scalarRead s.me x.a = some (a, c1) → TargetOk a → exec (.jr x) s = .next (s.setMe (c1.jumped (a.setWidth 16))))
  ∧ (∀ (x : FormS3) (s s1 : State) (a : Word) (c1 : Core), Issues (.callr x) s → s.inRpt = false →
    scalarRead s.me x.a = some (a, c1) → TargetOk a → Pushes s c1 (s.me.pc + 8) s1 →
    exec (.callr x) s = .next (s1.setMe (s1.me.jumped (a.setWidth 16))))
  ∧ (∀ (x : FormS3) (s s1 : State) (ra : BitVec 16), Issues (.ret x) s → s.inRpt = false → Pops s ra s1 →
    exec (.ret x) s = .next (s1.setMe (s1.me.jumped ra)))
  ∧ (∀ i ∈ [Instr.jr, .callr], ∀ (x : FormS3) (s : State) (a : Word) (c1 : Core), Issues (i x) s → s.inRpt = false →
    s.midBody = false →
    HandlesTraps s.me → scalarRead s.me x.a = some (a, c1) → ¬TargetOk a →
    exec (i x) s = .next (s.setMe (trapped c1 (if a.toNat % 8 = 0 then causeLocRange else causeAlign) a 0 s.me.pc)))
  ∧ (∀ (s : State) (lid : Nat) (rest : List Move), s.sched = .core lid :: rest → s.canIssue lid = true →
    s.anyExpired lid = false → (s.core lid).pc.toNat % 8 = 0 → (s.core lid).codeLim ≤ (s.core lid).pc.toNat →
    (s.core lid).spec = none → (s.core lid).midBody = false → HandlesTraps (s.core lid) →
    ∃ w, step s = .next ({ s with sched := rest, ticks := s.ticks + 1, cur := lid, inRpt := false }.setCore lid
      (trapped { s.core lid with fetched := w } causeLocRange (.ofNat 64 (s.core lid).pc.toNat) 0 (s.core lid).pc)))
  ∧ (∀ i ∈ [Instr.jr, .callr, .ret], ∀ (x : FormS3) (s : State), GuardFalse s (wordOf (i x)) →
    exec (i x) s = .next (s.setMe (s.me.jumped (s.me.pc + 8))))
  ∧ ∀ i ∈ [Instr.jmp, .call], ∀ (x : FormJ) (s : State), GuardFalse s (wordOf (i x)) →
    exec (i x) s = .next (s.setMe (s.me.jumped (s.me.pc + 8)))

/-- 05 R191, R194, R195: the wait instructions complete once their condition holds, nop at once, and tick delivers CYCLE minus
sA. That tick waits neither for what stands in the store buffer nor for what is at an engine is the model's choice, log 64
(DEDUCED, unsafe). -/
def Obligations.WaitsCompleteOnTheirCondition : Prop :=
  (∀ (x : FormS3) (s : State) (v : Word) (c1 : Core), Issues (.waitAll x) s →
    (∀ n < 8, x.aux.getLsbD n = true → s.me.queue n ≠ []) →
    (∀ n < 64, v.getLsbD n = (decide (n < 8) && x.aux.getLsbD n)) → scalarWrite s.me x.d v = some c1 →
    exec (.waitAll x) s = .next (s.completed c1))
  ∧ (∀ (x : FormS3) (s : State) (v : Word) (c1 : Core), Issues (.waitAny x) s →
    (∃ n < 8, x.aux.getLsbD n = true ∧ s.me.queue n ≠ []) →
    (∀ n < 64, v.getLsbD n = (decide (n < 8) && x.aux.getLsbD n && !(s.me.queue n).isEmpty)) →
    scalarWrite s.me x.d v = some c1 → exec (.waitAny x) s = .next (s.completed c1))
  ∧ (∀ (x : FormS3) (s : State), Issues (.waitOsp x) s → s.me.router.outq.length + x.aux.toNat % 16 ≤ 8 →
    exec (.waitOsp x) s = .next (s.completed s.me))
  ∧ (∀ (x : FormS3) (s : State) (a : Word) (c1 c2 : Core), Issues (.waitUntil x) s → scalarRead s.me x.a = some (a, c1) →
    a.toNat ≤ s.cycle.toNat → scalarWrite c1 x.d s.cycle = some c2 →
    exec (.waitUntil x) s = .next (s.completed c2))
  ∧ (∀ (x : FormS3) (s : State) (a : Word) (c1 c2 : Core), Issues (.tick x) s → scalarRead s.me x.a = some (a, c1) →
    scalarWrite c1 x.d (s.cycle - a) = some c2 → exec (.tick x) s = .next (s.completed c2))
  ∧ ∀ (x : FormS3) (s : State), Issues (.nop x) s → exec (.nop x) s = .next (s.completed s.me)

/-- 05 R193 (with R161, R164, R192; 14 R448): done and idle end the running task and start the next; post appends a task with
its PC, ORIGIN and m0, traps ALIGN or LOC_RANGE where sA is no code address, and waits while the run queue is full. -/
def Obligations.TasksEndAndArePosted : Prop :=
  (∀ (x : FormS3) (s : State) (t : Task) (rest : List Task), Issues (.done x) s → s.inRpt = false →
    s.me.runq = t :: rest →
    ∃ c, c = taskEnded s.me t rest ∧ exec (.done x) s = .next (s.setMe (c.jumped c.pc)))
  ∧ (∀ (x : FormY) (s : State) (t : Task) (rest : List Task), Issues (.idle x) s → s.inRpt = false →
    s.me.runq = t :: rest →
    ∃ c, c = taskEnded s.me t rest ∧ exec (.idle x) s = .next (s.setMe (c.jumped c.pc)))
  ∧ (∀ (x : FormS3) (s : State) (a b : Word) (c1 c2 : Core) (t : Task), Issues (.post x) s →
    scalarRead s.me x.a = some (a, c1) → scalarRead c1 x.b = some (b, c2) → a.toNat % 8 = 0 → a.toNat < c2.codeLim →
    s.me.runq ≠ [] → s.me.runq.length < 32 → t = { entry := a.setWidth 16, origin := 0x20, m0 := b } →
    exec (.post x) s = .next (s.completed { c2 with runq := s.me.runq ++ [t] }))
  ∧ (∀ (x : FormS3) (s : State) (a b : Word) (c1 c2 : Core), Issues (.post x) s → s.inRpt = false → s.midBody = false →
    HandlesTraps s.me →
    scalarRead s.me x.a = some (a, c1) → scalarRead c1 x.b = some (b, c2) → a.toNat % 8 ≠ 0 ∨ c2.codeLim ≤ a.toNat →
    exec (.post x) s = .next (s.setMe (trapped c2 (if a.toNat % 8 = 0 then causeLocRange else causeAlign) a 0 s.me.pc)))
  ∧ ∀ (x : FormS3) (s : State) (a b : Word) (c1 c2 : Core), Issues (.post x) s → s.inRpt = false →
    scalarRead s.me x.a = some (a, c1) → scalarRead c1 x.b = some (b, c2) → a.toNat % 8 = 0 → a.toNat < c2.codeLim →
    s.me.runq.length = 32 →
    ∃ t, exec (.post x) s = .next t ∧ t.me = { s.me with wait := t.me.wait, issued := true } ∧ t.me.wait.isSome = true

/-- 05 R194, with R176 (and 03 R102): where a handler is set and none runs, trap, brk and a word of an unassigned OP enter it
with their cause, SUB and TRAP_VAL, the PC of the word in TRAP_PC; while a body word of the repeat buffer is between two of its
steps, brk waits, which is the model's choice, log 21 (DEDUCED); nop changes nothing. -/
def Sys2Proof.Claims.TrapsEnterTheHandler : Prop :=
  (∀ (x : FormS3) (s : State) (a : Word) (c1 : Core), Issues (.trap x) s → s.inRpt = false → s.midBody = false →
    HandlesTraps s.me →
    scalarRead s.me x.a = some (a, c1) →
    exec (.trap x) s = .next (s.setMe (trapped c1 causeSoftware a x.aux.toNat s.me.pc)))
  ∧ (∀ (x : FormS3) (s : State), Issues (.brk x) s → s.inRpt = false → s.midBody = false → HandlesTraps s.me →
    exec (.brk x) s = .next (s.setMe (trapped s.me causeBreakpoint 0 x.aux.toNat s.me.pc)))
  ∧ (∀ (w : BitVec 64) (s : State), s.cur < coreCount → s.me.spec = none → s.inRpt = false → s.midBody = false →
    HandlesTraps s.me →
    exec (.illegalOpcode w) s = .next (s.setMe (trapped s.me causeIllegal w 0 s.me.pc)))
  ∧ (∀ (x : FormS3) (s : State), Issues (.brk x) s → s.midBody = true →
    exec (.brk x) s = .next (s.setMe { s.me with issued := true }))
  ∧ ∀ (x : FormS3) (s : State), Issues (.nop x) s → exec (.nop x) s = .next (s.completed s.me)

/-- 05 R176; 14 R426; 08 R287, R288: without a handler, or in one, trap and brk are fatal: the LIVE or DRAINING region begins
to freeze, or gathers one more fault, with a fault record of the cause, the core and the word; the core stops, and what stands
of it is the pop of the operand of trap. When the stop has reached every core, after the cycle in which it began, the region
is FROZEN with the gathered record of the lowest role, NFAULT the number of cores that faulted. -/
def Sys2Proof.Claims.FatalTrapsFreezeTheRegion : Prop :=
  (∀ (x : FormS3) (s : State) (r : Region) (i : Instr) (a : Word) (c1 : Core) (cause : BitVec 8),
    (i = .brk x ∧ a = 0 ∧ c1 = s.me ∧ cause = causeBreakpoint
      ∨ i = .trap x ∧ scalarRead s.me x.a = some (a, c1) ∧ cause = causeSoftware) →
    Issues i s → s.midBody = false → ¬HandlesTraps s.me → s.regionOf s.cur = some r → r.st = .live ∨ r.st = .draining →
    FirstFault r s.cur →
    ∃ t rec, exec i s = .next t ∧ t.me = { c1 with halted := true } ∧ (∀ l, l ≠ s.cur → t.core l = s.core l)
      ∧ t.regions = s.regions.map (fun r' => if r'.id = r.id then freezing s r s.cur rec else r')
      ∧ rec.length = 8 ∧ (rec.getD 0 0).toNat % 256 = cause.toNat
      ∧ rec.getD 1 0 = .ofNat 64 (s.cur % 1152 + s.cur / 1152 * 2 ^ 16 + r.roleOf s.cur % r.w * 2 ^ 32
        + r.roleOf s.cur / r.w * 2 ^ 48)
      ∧ rec.getD 5 0 = a ∧ rec.getD 6 0 = wordOf i)
  ∧ ∀ (s : State) (rest : List Move) (r : Region) (role : Nat) (rec : List Word), s.sched = .stop r.id :: rest →
    s.regions.find? (·.id == r.id) = some r → (∃ t, r.stopFrom = some t ∧ t ≠ s.cycle) → (r.gathered.map (·.1)).Nodup →
    (role, rec) ∈ r.gathered → (∀ p ∈ r.gathered, role ≤ p.1) → rec.length = 8 →
    ∃ t rec', step s = .next t
      ∧ t.regions = s.regions.map (fun r' => if r'.id = r.id then
          { r with st := .frozen, fault := some rec', gathered := [], halts := [], stopFrom := none } else r')
      ∧ rec'.length = 8 ∧ (rec'.getD 0 0).toNat / 2 ^ 24 % 256 = min 255 r.gathered.length
      ∧ (rec'.getD 0 0).toNat % 2 ^ 24 = (rec.getD 0 0).toNat % 2 ^ 24 ∧ ∀ k, 1 ≤ k → k ≤ 6 → rec'.getD k 0 = rec.getD k 0

/-- 14 R445; 05 R173: trapret restores PRV from PPRV, clears INTRAP and goes to TRAP_PC, trapret.skip to the word behind it,
where RPT_STATE.ACT is 0; a multi-step instruction continues at the step that returnStep reads. Where ACT is 1, the repeat
buffer runs again from the position of RPT_STATE, or from the one behind it, and the PC is SPC; a multi-step body word whose
own trap it was continues at its step. A scalar instruction at SPC that the trap found between two of its steps continues
there, which is the model's choice, log 71 (DEDUCED). -/
def Obligations.TrapReturnRestores : Prop :=
  (∀ (x : FormY) (s : State), Issues (.trapretSkip x) s → s.inRpt = false → s.me.rptState.getLsbD 63 = false →
    exec (.trapretSkip x) s
      = .next (s.setMe ({ s.me with prv := s.me.pprv, intrap := false }.jumped (s.me.trapPc + 8))))
  ∧ (∀ (x : FormY) (s : State), Issues (.trapret x) s → s.inRpt = false → s.me.rptState.getLsbD 63 = false →
    exec (.trapret x) s
      = .next (s.setMe { { s.me with prv := s.me.pprv, intrap := false }.jumped s.me.trapPc with
          progress := returnStep s.me (fetchWord s s.cur s.me.trapPc.toNat) }))
  ∧ (∀ (x : FormY) (s : State) (words : List Word) (c : Core), Issues (.trapret x) s → s.inRpt = false →
    s.me.rptState.getLsbD 63 = true → bitsOf s.me.rptState 48 3 < rptLen s.me.rptWord →
    BodyAt s s.me.rptState.toNat (rptLen s.me.rptWord) (refillWord s s.cur) words →
    c = { resumed s.me with
          rpt := some { body := s.me.rptState.extractLsb' 16 16, word := s.me.rptWord, words,
                        idx := bitsOf s.me.rptState 48 3, left := bitsOf s.me.rptState 32 12 } } →
    exec (.trapret x) s
      = .next (s.setMe ({ c with
          rptProgress := if s.me.trapInBody then (c.rpt.map fun (r : Rpt) => returnStep s.me r.next).getD 0
            else s.me.rptProgress }.jumped c.pc |> backAt)))
  ∧ ∀ (x : FormY) (s : State) (words : List Word) (c : Core) (idx left : Nat), Issues (.trapretSkip x) s →
    s.inRpt = false → s.me.rptState.getLsbD 63 = true →
    (if bitsOf s.me.rptState 48 3 + 1 < rptLen s.me.rptWord then
       idx = bitsOf s.me.rptState 48 3 + 1 ∧ left = bitsOf s.me.rptState 32 12
     else idx = 0 ∧ left + 1 = bitsOf s.me.rptState 32 12) →
    BodyAt s s.me.rptState.toNat (rptLen s.me.rptWord) (refillWord s s.cur) words →
    c = { resumed s.me with
          rpt := some { body := s.me.rptState.extractLsb' 16 16, word := s.me.rptWord, words, idx, left } } →
    exec (.trapretSkip x) s = .next (s.setMe (backAt (c.jumped c.pc)))

/-- 05 R170-R172; 03 R80: rpt takes the LEN words behind it, each below CODE_LIM, not poisoned and allowed in a body, into the
repeat buffer, and goes on behind them. -/
def Sys2Proof.Claims.RptFillsTheRepeatBuffer : Prop :=
  ∀ (x : FormSI) (s : State) (words : List Word), Issues (.rpt x) s → s.inRpt = false →
    BodyAt s ((s.me.pc + 8).toNat * 2 ^ 16) (rptLen (wordOf (.rpt x))) (fetchWord s s.cur) words →
    exec (.rpt x) s = .next (s.setMe ({ s.me with
      rpt := some { body := s.me.pc + 8, word := wordOf (.rpt x), words, idx := 0, left := rptCnt (wordOf (.rpt x)) - 1 }
      rptState := putBits s.me.rptState 63 1 0, rptWait := none, rptProgress := 0, rptIssued := false }.jumped
        (s.me.pc + BitVec.ofNat 16 (8 * (rptLen (wordOf (.rpt x)) + 1)))))

namespace Sys2Proof.Claims

/-! ## What a body word reads (06 R201-R224; 09 R300-R326; 10 R333, R334) -/

def within (op : Nat) (ranges : List (Nat × Nat)) : Bool := ranges.any fun p => decide (p.1 ≤ op) && decide (op ≤ p.2)

/-- Whether the D, A, B and C fields of a body word are read as Vector kind. A shift by an immediate (bit 19) and a vbxpack of
a type other than fp32 read no B. -/
def vectorD (op : Nat) : Bool := within op [(0x40, 0x4F), (0x51, 0x5E), (0x60, 0x64), (0x69, 0x6A), (0x9C, 0x9C)]
def vectorA (op : Nat) : Bool := within op [(0x40, 0x5C), (0x5E, 0x5E), (0x69, 0x6A), (0x92, 0x92), (0xA4, 0xA4)]
def vectorB (op : Nat) (w : Word) : Bool :=
  within op [(0x40, 0x47), (0x4A, 0x4C), (0x50, 0x51), (0x5A, 0x5A), (0x5E, 0x5E), (0x69, 0x69)]
    || (within op [(0x4D, 0x4F)] && !w.getLsbD 19) || (op == 0x53 && bitsOf w 20 4 == 8)
def vectorC (op : Nat) : Bool := within op [(0x43, 0x45), (0x69, 0x69)]

/-- The tensor instructions that read AT, and those that read BT. -/
def readsAT (op : Nat) : Bool := within op [(0x92, 0x94), (0x96, 0x9D)]
def readsBT (op : Nat) : Bool := within op [(0x90, 0x94)]

/-- The register fields that a stride moves: where each stands in a body word, whether it is read as Vector kind, and where
its stride stands in the rpt word. -/
def stridden (op : Nat) (w : Word) : List (Nat × Bool × Nat) :=
  [(47, vectorD op, 15), (42, vectorA op, 19), (37, vectorB op w, 23), (32, vectorC op, 27)]

end Sys2Proof.Claims

/-- 05 R170: the buffer issues its words in order, each iteration starting again at word 0, as often as CNT says, and then
stops. The word that it issues in iteration i is the body word with its D, A, B and C fields moved on by i strides modulo 16
where they are read as Vector kind and name no queue, AT by i × DT modulo 4 and BT by i × DS modulo 16 where they are read,
and nothing else changed. -/
def Sys2Proof.Claims.RepeatBufferOrder : Prop :=
  (∀ r : Rpt, r.idx + 1 < r.words.length → r.advance = some { r with idx := r.idx + 1 })
  ∧ (∀ r : Rpt, r.words.length ≤ r.idx + 1 → r.left = 0 → r.advance = none)
  ∧ (∀ r : Rpt, r.words.length ≤ r.idx + 1 → r.left ≠ 0 → r.advance = some { r with idx := 0, left := r.left - 1 })
  ∧ (∀ (r : Rpt) (w : Word) (i op : Nat), w = r.words.getD r.idx 0 → op = bitsOf w 56 8 → bodyAllowed op = true →
    (pickInstr w).isSome = true → i + r.left + 1 = rptCnt r.word →
    (∀ p ∈ stridden op w, (bitsOf r.next p.1 5 : Int)
      = if p.2.1 = true ∧ bitsOf w p.1 5 < 16 then (bitsOf w p.1 5 + i * signed 4 (bitsOf r.word p.2.2 4)) % 16
        else bitsOf w p.1 5)
    ∧ bitsOf r.next 30 2 = (if readsAT op then (bitsOf w 30 2 + i * bitsOf r.word 31 2) % 4 else bitsOf w 30 2)
    ∧ (bitsOf r.next 26 4 : Int)
      = (if readsBT op then (bitsOf w 26 4 + i * signed 4 (bitsOf r.word 33 4)) % 16 else bitsOf w 26 4)
    ∧ ∀ k, k < 26 ∨ 52 ≤ k → r.next.getLsbD k = w.getLsbD k)
  ∧ ∀ (s : State) (lid : Nat) (rest : List Move) (r : Rpt) (i : Instr), s.sched = .rpt lid :: rest → s.canIssue lid = true →
    s.anyExpired lid = false → (s.core lid).rpt = some r → decodeWord r.next = .ok i →
    step s = exec i { s with sched := rest, ticks := s.ticks + 1, cur := lid, inRpt := true }

namespace Sys2Proof.Claims

/-! ## The lane unit (06) -/

/-- A flit that a vector read of qn takes (05 R153; 02 R62; 06 R202). -/
def vectorFlit (c : Core) (bx : Bool) (f : Flit) : Bool :=
  f.kind == 0 && vecAccepts bx f.fmt && (!isBx f.fmt || bxTec f.fmt == c.tec)

/-- What a vector source field delivers with its half tags, and the core after it; none where it stalls or traps (03 R83; 06
R202). -/
def vectorRead (c : Core) (r : BitVec 5) (bx : Bool) : Option (Vec × BitVec 72 × Core) :=
  if r.toNat < 24 then some (c.vreg r.toNat, c.vtag r.toNat, c)
  else
    let n := r.toNat - 24
    match c.queue n with
    | f :: g :: rest =>
      if !c.half.getLsbD n && vectorFlit c bx f && vectorFlit c bx g then
        some (g.payload ++ f.payload, if bx then halfTagOf g ++ halfTagOf f else 0,
          (c.popped n f (g :: rest)).popped n g rest)
      else none
    | _ => none

/-- A vector source that is read only where has is true. -/
def vectorReadIf (has : Bool) (c : Core) (r : BitVec 5) : Option (Vec × Core) :=
  if has then (vectorRead c r false).map fun p => (p.1, p.2.2) else some (0, c)

/-- The two flits of a vector push through qn: of an FMT with SCALE 0, or as BX halves under their tags, the bits that their
format leaves unused zero: payload bits 127:96 of BX6, and all of SCALE but the first block's scale word of BX6 and BX8 (02 R53;
06 R203). -/
def vectorFlits (c : Core) (n : Nat) (v : Vec) (tags : BitVec 72) (fmt : Option Nat) : List Flit :=
  let flit (h : Nat) : Flit :=
    let code := fmt.getD (bitsOf tags (36 * h + 32) 4)
    let p : Quad := v.extractLsb' (128 * h) 128
    let sc : BitVec 32 := tags.extractLsb' (36 * h) 32
    mkFlit code 0 (c.fpFlagsRead.getLsbD 6) false 0 0
      (if fmt.isSome then 0 else if bxKind code = 0 then sc else .ofNat 32 (bitsOf sc 16 16 * 2 ^ 16))
      (BitVec.ofNat 7 (c.qtag n)) (if fmt.isNone && bxKind code == 1 then .ofNat 128 (bitsOf p 0 96) else p)
  [flit 0, flit 1]

/-- The core after a vector destination field took a value; none where the push stalls or traps (06 R198, R203). -/
def vectorWrite (c : Core) (r : BitVec 5) (v : Vec) (tags : BitVec 72) (fmt : Option Nat) : Option Core :=
  if r.toNat < 24 then some (c.setVreg r.toNat v tags)
  else
    let n := r.toNat - 24
    if c.canPush n 2 && (fmt.isSome || (isBx (bitsOf tags 32 4) && isBx (bitsOf tags 68 4))) then
      some (c.pushed (vectorFlits c n v tags fmt))
    else none

/-- Whether v holds, in each lane that the predicate selects, the result of f, and elsewhere the destination's old elements; fl
holds the flags of the selected elements (06 R200, R211). -/
def LanesAre (c : Core) (x : FormV) (w : Nat) (f : Nat → Nat × BitVec 7) (v : Vec) (fl : BitVec 7) : Prop :=
  (∀ j < laneCount w, elemOf v w j = if vSel x c (laneOf w j) then (f j).1 % 2 ^ w else elemOf (oldOf c x.d) w j)
    ∧ fl = (List.range (laneCount w)).foldl (fun r j => if vSel x c (laneOf w j) then r ||| (f j).2 else r) 0

/-- An element operation of an integer and a floating-point meaning (06 R211, R212). -/
def elemOp (fi : Int → Int → Int) (ff : FpFormat → BitVec 2 → Bool → FpVal → FpVal → FpRes) (x : FormV) (c : Core)
    (a b : Nat) : Nat × BitVec 7 :=
  let et := x.et.toNat
  let w := vWidth x
  if fpType et then ff (fpOf et) x.rm c.ftz (fpDecode (fpOf et) c.ftz a) (fpDecode (fpOf et) c.ftz b)
  else
    let t := fi (etInt et w a) (etInt et w b)
    if vSat x then
      let r := max (etLo et w) (min (etHi et w) t)
      ((r % 2 ^ w).toNat, if r = t then 0 else flagSA)
    else ((t % 2 ^ w).toNat, 0)

/-- An element operation on floating-point values (06 R212). -/
def elemFp (ff : FpFormat → BitVec 2 → Bool → FpVal → FpVal → FpVal → FpRes) (x : FormV) (c : Core) (a b e : Nat) :
    Nat × BitVec 7 :=
  let f := fpOf x.et.toNat
  ff f x.rm c.ftz (fpDecode f c.ftz a) (fpDecode f c.ftz b) (fpDecode f c.ftz e)

/-- The count of a shift: SH, or the element of B (06 R211). -/
def shiftBy (x : FormV) (b : Nat) : Nat := if x.imm.getLsbD 19 then bitsOf x.imm 0 6 else b

/-- The element-wise instructions: how many of A, B and C each reads, and what it delivers of an element of each (06 R211-R214).
-/
def elementwise : List ((FormV → Instr) × (FormV → Nat) × (FormV → Core → Nat → Nat → Nat → Nat × BitVec 7)) :=
  let bits (f : Nat → Nat → Nat) (_ : FormV) (_ : Core) (a b _ : Nat) : Nat × BitVec 7 := (f a b, 0)
  let shift (f : Nat → Nat → Nat → Nat) (x : FormV) (_ : Core) (a b _ : Nat) : Nat × BitVec 7 :=
    (f (vWidth x) a (shiftBy x b), 0)
  let shifted (x : FormV) : Nat := if x.imm.getLsbD 19 then 1 else 2
  [(.vadd, fun _ => 2, fun x c a b _ => elemOp (· + ·) fpAdd x c a b),
   (.vsub, fun _ => 2, fun x c a b _ => elemOp (· - ·) (fun f rm z a b => fpAdd f rm z a b.neg) x c a b),
   (.vmul, fun _ => 2, fun x c a b _ => elemOp (· * ·) fpMul x c a b),
   (.vmin, fun _ => 2, fun x c a b _ => elemOp min (fun f _ _ a b => fpMinMax f false a b) x c a b),
   (.vmax, fun _ => 2, fun x c a b _ => elemOp max (fun f _ _ a b => fpMinMax f true a b) x c a b),
   (.vabs, fun _ => 1, fun x c a _ _ => elemOp (fun t _ => if t < 0 then -t else t) (fun f _ _ a _ => fpSign f true a) x c a 0),
   (.vneg, fun _ => 1, fun x c a _ _ => elemOp (fun t _ => -t) (fun f _ _ a _ => fpSign f false a) x c a 0),
   (.vfma, fun _ => 3, elemFp fpFma), (.vfms, fun _ => 3, elemFp fun f rm z a b e => fpFma f rm z a b e.neg),
   (.vfnma, fun _ => 3, elemFp fun f rm z a b e => fpFma f rm z a.neg b e),
   (.vand, fun _ => 2, bits (· &&& ·)), (.vor, fun _ => 2, bits (· ||| ·)), (.vxor, fun _ => 2, bits (· ^^^ ·)),
   (.vshl, shifted, shift fun w a n => if w ≤ n then 0 else a * 2 ^ n % 2 ^ w),
   (.vshr, shifted, shift fun w a n => if w ≤ n then 0 else a / 2 ^ n),
   (.vsra, shifted, shift fun w a n => (signed w a / 2 ^ min n (w - 1) % 2 ^ w).toNat),
   (.vrcp, fun _ => 1, elemFp fun f rm z a _ _ => fpDiv f rm z (.fin false 1 0) a),
   (.vrsqrt, fun _ => 1, elemFp fun f rm z a _ _ => fpRsqrt f rm z a),
   (.vexp2, fun _ => 1, elemFp fun f rm z a _ _ => fpExp2 f rm z a),
   (.vlog2, fun _ => 1, elemFp fun f rm z a _ _ => fpLog2 f rm z a),
   (.vsqrt, fun _ => 1, elemFp fun f rm z a _ _ => fpSqrt f rm z a),
   (.vdiv, fun _ => 2, elemFp fun f rm z a b _ => fpDiv f rm z a b),
   (.vclass, fun _ => 1, fun x _ a _ _ => (2 ^ classOf (fpOf x.et.toNat) a, 0))]

/-- The FMT of a queue destination by the type written (06 R203). -/
def queueFmt (et : Nat) : Nat := if et = 8 then 3 else if et = 7 then 4 else if et = 6 then 5 else
  if et = 2 ∨ et = 5 then 2 else if et = 0 ∨ et = 3 then 9 else 1

/-- Whether a compare of two integers holds by CC, and what a compare of two elements gives with its flags (06 R215). -/
def comparesTo (x : FormV) (c : Core) (a b : Nat) : Bool × BitVec 7 :=
  let et := x.et.toNat
  let u := etInt et (vWidth x) a
  let v := etInt et (vWidth x) b
  let cc := bitsOf x.imm 0 4
  if fpType et then fpCondition cc (fpDecode (fpOf et) c.ftz a) (fpDecode (fpOf et) c.ftz b)
  else (match cc with
    | 0 => decide (u = v)
    | 1 => decide (u ≠ v)
    | 2 => decide (u < v)
    | 3 => decide (u ≤ v)
    | 4 => decide (u > v)
    | _ => decide (u ≥ v), 0)

/-- Whether flag value t is the OR (all = false) or the AND of predicate p over the selected lanes (06 R201). -/
def Quantifies (x : FormV) (c : Core) (all : Bool) (p : BitVec 8) (t : Bool) : Prop :=
  t = true ↔ if all then ∀ k < 8, vSel x c k = true → p.getLsbD k = true else ∃ k < 8, vSel x c k = true ∧ p.getLsbD k = true

/-- The effective addresses of the parts of a vector access, the address that must be a multiple of 32, and the bytes of a part
(06 R224). -/
def partsOf (c : Core) (x : FormM) (strided : Bool) : Int × List Int × Nat :=
  let a := (c.reg x.a.toNat).toInt
  let b := (c.reg x.b.toNat).toInt
  if strided then (0, (List.range 8).map (fun (k : Nat) => a + x.disp.toInt + k * b), 4)
  else
    let ea := if x.am = 1 then a + b * 32 + x.disp.toInt else if x.am = 2 then a else a + x.disp.toInt
    (ea, (List.range 4).map (fun (k : Nat) => ea + 8 * k), 8)

/-- Loads of n bytes at each address in order, made as ldl. -/
def LdlsAt (n : Nat) : State → List Int → List Byte → State → Prop
  | s, [], bytes, s' => bytes = [] ∧ s' = s
  | s, ea :: rest, bytes, s' => ∃ b bs s1, LdlAt s s.me ea n b s1 ∧ LdlsAt n s1 rest bs s' ∧ bytes = b ++ bs

/-- Stores at each address in order, made as stl. -/
def StlsAt : State → List (Int × List Byte) → State → Prop
  | s, [], s' => s' = s
  | s, (ea, bytes) :: rest, s' => ∃ s1, StlAt s s.me ea bytes s1 ∧ StlsAt s1 rest s'

/-- The parts of n bytes of a store that lie in the redirected spill area can be written, which is checked before any part is
stored (06 R224; 07 R241). -/
def PartsWritable (n : Nat) : State → List Int → State → Prop
  | s, [], s' => s' = s
  | s, ea :: rest, s' =>
    (¬redirected s.me ea ∧ PartsWritable n s rest s')
      ∨ (redirected s.me ea ∧ ∃ pa s1, Translates s (spillTarget s.me ea) true pa s1 ∧ reachable s1 pa n = true
        ∧ PartsWritable n s1 rest s')

end Sys2Proof.Claims

/-- 06 R200, R211-R214: the element-wise lane instructions deliver, in each lane that the predicate selects, the result of the
element operation, keep the other lanes of the destination, and raise the flags of the selected elements. -/
def Obligations.LaneElementwiseResults : Prop :=
  (∀ p ∈ elementwise, ∀ (x : FormV) (s : State) (a b e v : Vec) (fl : BitVec 7) (c1 c2 c3 c4 : Core),
    Issues (p.1 x) s → vectorReadIf (decide (1 ≤ p.2.1 x)) s.me x.a = some (a, c1) →
    vectorReadIf (decide (2 ≤ p.2.1 x)) c1 x.b = some (b, c2) → vectorReadIf (decide (3 ≤ p.2.1 x)) c2 x.c = some (e, c3) →
    LanesAre c3 x (vWidth x)
      (fun j => p.2.2 x c3 (elemOf a (vWidth x) j) (elemOf b (vWidth x) j) (elemOf e (vWidth x) j)) v fl →
    vectorWrite (c3.raiseFlags fl) x.d v 0 (some (queueFmt x.et.toNat)) = some c4 →
    exec (p.1 x) s = .next (s.completed c4))
  ∧ ∀ (x : FormV) (s : State) (a b e v : Vec) (fl : BitVec 7) (c1 c2 c3 c4 : Core), Issues (.vdot4 x) s →
    vectorReadIf true s.me x.a = some (a, c1) → vectorReadIf true c1 x.b = some (b, c2) →
    vectorReadIf true c2 x.c = some (e, c3) →
    LanesAre c3 x 32 (fun k =>
      let et := if x.et.toNat < 3 then 2 else 5
      let t := etInt et 32 (elemOf e 32 k) + ((List.range 4).map fun i =>
        etInt x.et.toNat 8 (elemOf a 8 (4 * k + i)) * etInt x.et.toNat 8 (elemOf b 8 (4 * k + i))).sum
      fixInt et 32 (vSat x) t) v fl →
    vectorWrite (c3.raiseFlags fl) x.d v 0 (some 2) = some c4 → exec (.vdot4 x) s = .next (s.completed c4)

/-- 06 R201, R215-R217: vcmp sets a predicate bit for each selected lane whose compare holds and, where QF names one, the flag;
vsel takes each lane of A or B, for type bx each half with its tag; vplog, vpany, vpall and vpset. -/
def Sys2Proof.Claims.LanePredicateResults : Prop :=
  (∀ (x : FormV) (s : State) (a b : Vec) (p : BitVec 8) (fl : BitVec 7) (t : Bool) (c1 c2 : Core), Issues (.vcmp x) s →
    vectorReadIf true s.me x.a = some (a, c1) → vectorReadIf true c1 x.b = some (b, c2) →
    (∀ k < 8, p.getLsbD k = (vSel x c2 k && (comparesTo x c2
      (elemOf a (vWidth x) (k * (laneCount (vWidth x) / 8) + bitsOf x.imm 4 2))
      (elemOf b (vWidth x) (k * (laneCount (vWidth x) / 8) + bitsOf x.imm 4 2))).1)) →
    fl = (List.range 8).foldl (fun r k => if vSel x c2 k then r ||| (comparesTo x c2
      (elemOf a (vWidth x) (k * (laneCount (vWidth x) / 8) + bitsOf x.imm 4 2))
      (elemOf b (vWidth x) (k * (laneCount (vWidth x) / 8) + bitsOf x.imm 4 2))).2 else r) 0 →
    Quantifies x c2 (x.qf == 2) p t →
    exec (.vcmp x) s = .next (s.completed
      (if x.qf = 0 then (c2.raiseFlags fl).setPred x.d.toNat p
       else ((c2.raiseFlags fl).setPred x.d.toNat p).setFlag x.c.toNat t)))
  ∧ (∀ (x : FormV) (s : State) (a b v : Vec) (ta tb : BitVec 72) (c1 c2 c3 : Core), Issues (.vsel x) s → x.et ≠ 9 →
    vectorRead s.me x.a false = some (a, ta, c1) → vectorRead c1 x.b false = some (b, tb, c2) →
    (∀ j < laneCount (vWidth x), elemOf v (vWidth x) j
      = elemOf (if vSel x c2 (laneOf (vWidth x) j) then a else b) (vWidth x) j) →
    vectorWrite c2 x.d v 0 (some (queueFmt x.et.toNat)) = some c3 → exec (.vsel x) s = .next (s.completed c3))
  ∧ (∀ (x : FormV) (s : State) (a b : Vec) (ta tb : BitVec 72) (c1 c2 c3 : Core), Issues (.vsel x) s → x.et = 9 →
    vectorRead s.me x.a true = some (a, ta, c1) → vectorRead c1 x.b true = some (b, tb, c2) →
    vectorWrite c2 x.d
      ((if vSel x c2 4 then a else b).extractLsb' 128 128 ++ (if vSel x c2 0 then a else b).extractLsb' 0 128)
      ((if vSel x c2 4 then ta else tb).extractLsb' 36 36 ++ (if vSel x c2 0 then ta else tb).extractLsb' 0 36) none
      = some c3 →
    exec (.vsel x) s = .next (s.completed c3))
  ∧ (∀ (x : FormV) (s : State) (p : BitVec 8), Issues (.vplog x) s →
    (∀ k < 8, p.getLsbD k =
      let u := (s.me.pred x.a.toNat).getLsbD k
      let v := (s.me.pred x.b.toNat).getLsbD k
      match bitsOf x.imm 0 3 with
      | 0 => u && v
      | 1 => u || v
      | 2 => u != v
      | 3 => u && !v
      | 4 => u || !v
      | 5 => !(u && v)
      | 6 => !(u || v)
      | _ => !u) →
    exec (.vplog x) s = .next (s.completed (s.me.setPred x.d.toNat p)))
  ∧ (∀ (x : FormV) (s : State) (t : Bool), Issues (.vpany x) s → Quantifies x s.me false (s.me.pred x.a.toNat) t →
    exec (.vpany x) s = .next (s.completed (s.me.setFlag x.d.toNat t)))
  ∧ (∀ (x : FormV) (s : State) (t : Bool), Issues (.vpall x) s → Quantifies x s.me true (s.me.pred x.a.toNat) t →
    exec (.vpall x) s = .next (s.completed (s.me.setFlag x.d.toNat t)))
  ∧ ∀ (x : FormV) (s : State) (a : Word) (c1 : Core), Issues (.vpset x) s → scalarRead s.me x.a = some (a, c1) →
    exec (.vpset x) s = .next (s.completed (c1.setPred x.d.toNat (a.setWidth 8 ||| x.imm.setWidth 8)))

/-- 06 R218-R222: vbcast, vperm, vmovs, vins, vcvt, vbxpack and vbxunpack. The model's choices: the flags that vbxpack raises
for a special block, log 65; the block that vbxunpack reads of a BX4 half 1 behind another half 0 for SL = 1, log 66. -/
def Sys2Proof.Claims.LaneMovesAndConversions : Prop :=
  (∀ (x : FormV) (s : State) (a : Word) (v : Vec) (fl : BitVec 7) (c1 c2 : Core), Issues (.vbcast x) s →
    scalarRead s.me x.a = some (a, c1) → LanesAre c1 x (vWidth x) (fun _ => (a.toNat, 0)) v fl →
    vectorWrite c1 x.d v 0 (some (queueFmt x.et.toNat)) = some c2 → exec (.vbcast x) s = .next (s.completed c2))
  ∧ (∀ (x : FormV) (s : State) (a b v : Vec) (fl : BitVec 7) (c1 c2 c3 : Core), Issues (.vperm x) s →
    vectorReadIf true s.me x.a = some (a, c1) → vectorReadIf true c1 x.b = some (b, c2) →
    LanesAre c2 x (vWidth x) (fun j => (elemOf a (vWidth x) (elemOf b (vWidth x) j % laneCount (vWidth x)), 0)) v fl →
    vectorWrite c2 x.d v 0 (some (queueFmt x.et.toNat)) = some c3 → exec (.vperm x) s = .next (s.completed c3))
  ∧ (∀ (x : FormV) (s : State) (a : Vec) (t : BitVec 72) (c1 c2 : Core), Issues (.vmovs x) s →
    vectorRead s.me x.a (x.et == 9) = some (a, t, c1) →
    scalarWrite c1 x.d
      (if x.et = 9 then .ofNat 64 (bitsOf t (36 * bitsOf x.imm 0 5) 36)
       else .ofInt 64 (etInt x.et.toNat (vWidth x) (elemOf a (vWidth x) (bitsOf x.imm 0 5)))) = some c2 →
    exec (.vmovs x) s = .next (s.completed c2))
  ∧ (∀ (x : FormV) (s : State) (a : Word) (c1 : Core), Issues (.vins x) s → scalarRead s.me x.a = some (a, c1) →
    (x.et = 9 → a.toNat < 2 ^ 36) →
    exec (.vins x) s = .next (s.completed
      (if x.et = 9 then
         c1.setVreg x.d.toNat (c1.vreg x.d.toNat) (putBits (c1.vtag x.d.toNat) (36 * bitsOf x.imm 0 5) 36 a.toNat)
       else c1.setVreg x.d.toNat (putBits (c1.vreg x.d.toNat) (vWidth x * bitsOf x.imm 0 5) (vWidth x) a.toNat) 0)))
  ∧ (∀ (x : FormV) (s : State) (a v : Vec) (fl : BitVec 7) (c1 c2 : Core), Issues (.vcvt x) s →
    vectorReadIf true s.me x.a = some (a, c1) →
    (let ws := etWidth (x.imm.extractLsb' 0 4)
     let ns := laneCount ws
     let nd := laneCount (vWidth x)
     let h := bitsOf x.imm 4 2
     LanesAre c1 x (vWidth x) (fun j =>
       if nd < ns then convertElem x c1 (elemOf a ws (h * nd + j))
       else if ns = nd then convertElem x c1 (elemOf a ws j)
       else if h * ns ≤ j ∧ j < (h + 1) * ns then convertElem x c1 (elemOf a ws (j - h * ns))
       else (elemOf (oldOf c1 x.d) (vWidth x) j, 0)) v fl) →
    vectorWrite (c1.raiseFlags fl) x.d v 0 (some (queueFmt x.et.toNat)) = some c2 →
    exec (.vcvt x) s = .next (s.completed c2))
  ∧ (∀ (x : FormV) (s : State) (a b : Vec) (c1 c2 : Core), Issues (.vbxpack x) s →
    vectorReadIf true s.me x.a = some (a, c1) → vectorReadIf (x.et == 8) c1 x.b = some (b, c2) →
    let kind := bitsOf x.imm 2 2
    let sl := bitsOf x.imm 0 2
    let h := if kind = 0 then sl / 2 else sl
    let vals := (List.range 16).map fun j => fpDecode (fpOf x.et.toNat) c2.ftz
      (if x.et = 8 ∧ 8 ≤ j then elemOf b 32 (j - 8) else elemOf a (vWidth x) j)
    let p := bxPack kind c2.tec vals
    let r := packHalf kind (bxFmt kind c2.tec) sl p.1 ((c2.vreg x.d.toNat).extractLsb' (128 * h) 128)
      ((c2.vtag x.d.toNat).extractLsb' (36 * h) 36)
    exec (.vbxpack x) s = .next (s.completed ((c2.raiseFlags p.2).setVreg x.d.toNat
      (putBits (c2.vreg x.d.toNat) (128 * h) 128 r.1.toNat) (putBits (c2.vtag x.d.toNat) (36 * h) 36 r.2.toNat))))
  ∧ ∀ (x : FormV) (s : State) (a v : Vec) (t : BitVec 72) (fl : BitVec 7) (c1 c2 : Core) (h fmt : Nat),
    Issues (.vbxunpack x) s → vectorRead s.me x.a true = some (a, t, c1) →
    h = unpackHalf (bitsOf x.imm 0 2) (bitsOf t 32 4) → fmt = bitsOf t (36 * h + 32) 4 → isBx fmt = true →
    bxTec fmt = c1.tec → (2 ≤ bitsOf x.imm 0 2 → bxKind fmt = 0) →
    (let sl := bitsOf x.imm 0 2
     let blocks := bxBlocks (bxKind fmt) (a.extractLsb' (128 * h) 128) (t.extractLsb' (36 * h) 32)
     let part := if bxKind fmt = 0 ∧ (h = 0 ∨ 2 ≤ sl) then sl % 2 else 0
     let vals := (blocks.getD part bxZero).values (bxKind fmt) c1.tec
     let base := if x.et = 8 then 8 * bitsOf x.imm 4 1 else 0
     LanesAre c1 x (vWidth x) (fun j =>
       fpRoundVal (fpOf x.et.toNat) x.rm c1.ftz (vals.getD (base + j) (.fin false 0 0))) v fl) →
    vectorWrite (c1.raiseFlags fl) x.d v 0 (some (queueFmt x.et.toNat)) = some c2 →
    exec (.vbxunpack x) s = .next (s.completed c2)

/-- 06 R223; 02 R72, R73: vredsum and vredmax deliver in element 0 the value of the fixed tree over the selected elements, with
the flags of its nodes, and zeros elsewhere. -/
def Obligations.LaneReductionsFollowTheTree : Prop :=
  ∀ p ∈ ([(.vredsum, elemOp (· + ·) fpAdd), (.vredmax, elemOp max (fun f _ _ a b => fpMinMax f true a b))] :
      List ((FormV → Instr) × (FormV → Core → Nat → Nat → Nat × BitVec 7))),
    ∀ (x : FormV) (s : State) (a : Vec) (c1 c2 : Core), Issues (p.1 x) s → vectorReadIf true s.me x.a = some (a, c1) →
    let leaves := (List.range (laneCount (vWidth x))).map fun j =>
      if vSel x c1 (laneOf (vWidth x) j) then some (elemOf a (vWidth x) j) else none
    let r := treeReduce (p.2 x c1) 5 leaves 0
    vectorWrite (c1.raiseFlags r.2) x.d (.ofNat 256 (r.1.getD 0)) 0 (some (queueFmt x.et.toNat)) = some c2 →
    exec (p.1 x) s = .next (s.completed c2)

/-- 06 R224; 04 R125-R138: vld, vldq, vst and vstq: a load delivers the bytes of its parts in order, a store makes its parts as
stl in order once every part can be written; the base is post-updated where AM is 2. -/
def Obligations.LaneMemoryAccesses : Prop :=
  (∀ p ∈ ([(.vld, false), (.vldq, true)] : List ((FormM → Instr) × Bool)), ∀ (x : FormM) (s s1 : State) (bytes : List Byte)
      (c1 : Core),
    Issues (p.1 x) s → (partsOf s.me x p.2).1 % 32 = 0 →
    LdlsAt (partsOf s.me x p.2).2.2 s (partsOf s.me x p.2).2.1 bytes s1 → ReleaseReady s x →
    vectorWrite s.me x.d (.ofNat 256 (natOfBytes bytes)) 0 (some 1) = some c1 →
    exec (p.1 x) s = .next (s1.completed (postBase (ordered c1 (x.aq = 1 ∨ x.rl = 1)) x)))
  ∧ ∀ p ∈ ([(.vst, false), (.vstq, true)] : List ((FormM → Instr) × Bool)), ∀ (x : FormM) (s s1 s2 : State) (v : Vec)
      (t : BitVec 72) (c1 : Core),
    Issues (p.1 x) s → vectorRead s.me x.d false = some (v, t, c1) → (partsOf s.me x p.2).1 % 32 = 0 →
    ReleaseReady s x → PartsWritable (partsOf s.me x p.2).2.2 (s.setMe c1) (partsOf s.me x p.2).2.1 s1 →
    StlsAt s1 (((List.range 8).zip (partsOf s.me x p.2).2.1).map fun q =>
      (q.2, bytesOfNat (partsOf s.me x p.2).2.2
        (bitsOf v (8 * (partsOf s.me x p.2).2.2 * q.1) (8 * (partsOf s.me x p.2).2.2)))) s2 →
    exec (p.1 x) s = .next (s2.completed (postBase (ordered s2.me (x.rl = 1)) x))

namespace Sys2Proof.Claims

/-! ## Router instructions (08 R292-R299) -/

/-- A tag that a push may use: its own entry is valid and it is no transit entry (08 R270). -/
def TagOk (c : Core) (t : Nat) : Prop := (c.route t).getLsbD 63 = true ∧ t < 112

/-- k free slots of the output queue. -/
def Room (c : Core) (k : Nat) : Prop := c.router.outq.length + k ≤ 8

/-- A send that may go: its tag, its release, and k slots of the output queue (08 R293; 04 R144). -/
def SendReady (s : State) (x : FormQ) (k : Nat) : Prop :=
  TagOk s.me x.tag.toNat ∧ (x.rl = 1 → s.scopePerformed s.cur x.sc.toNat = true) ∧ Room s.me k

/-- EXC of a flit pushed now (08 R266). -/
def excNow (c : Core) : Bool := c.fpFlagsRead.getLsbD 6

/-- The flit of sendw2 (08 R293): word A alone for W1, else B and A, 96 bits of them for BX6; the code of a BX format follows
TEC, and BX6 and BX8 have one scale word (02 R53). -/
def sentFlit (x : FormQ) (c : Core) (a b e : Word) : Flit :=
  let fm := x.fm.toNat
  let fmt := if fm = 6 ∨ fm = 7 ∨ fm = 8 then (if c.tec then fm + 6 else fm) else fm
  let p := if fm = 0 then a.toNat else if fm = 7 then (b.toNat * 2 ^ 64 + a.toNat) % 2 ^ 96 else b.toNat * 2 ^ 64 + a.toNat
  mkFlit fmt x.kd.toNat (excNow c) (x.rl == 1) (x.imm.setWidth 4) (bitsOf x.imm 4 3)
    (if fm = 6 ∨ fm = 7 then .ofNat 32 (bitsOf e 16 16 * 2 ^ 16) else e.setWidth 32) x.tag (.ofNat 128 p)

/-- The four flits of sendm (08 R294): a header, then the six words in pairs. -/
def messageFlits (x : FormQ) (c : Core) (hdr : Word) (bytes : List Byte) : List Flit :=
  let flit (kind : Nat) (rel : Bool) (p : Nat) : Flit := mkFlit 11 kind (excNow c) rel 0 0 0 x.tag (.ofNat 128 p)
  flit 1 (x.rl == 1) hdr.toNat :: (List.range 3).map fun k => flit 0 false (natOfBytes ((bytes.drop (16 * k)).take 16))

/-- What view 2 shows of a head flit, the count apart (08 R295). -/
def viewOfHead (c : Core) (n : Nat) (f : Flit) : Nat :=
  f.side.toNat + f.tag.toNat * 2 ^ 48 + (if c.half.getLsbD n then 2 ^ 59 else 0)

/-- What qpeek delivers (08 R295). -/
def peeked (c : Core) (n view : Nat) : Word :=
  match c.queue n with
  | [] => 0
  | f :: rest =>
    if view = 0 then .ofNat 64 f.payload.toNat else if view = 1 then .ofNat 64 (f.payload.toNat / 2 ^ 64)
    else .ofNat 64 (viewOfHead c n f + (rest.length + 1) * 2 ^ 55)

/-- What qstat delivers (08 R295): the fill of each input queue, the free slots of the output queue, the half marks and the
messages held. -/
def queueWord (c : Core) : Word :=
  .ofNat 64 (((List.range 8).map fun n => (c.queue n).length * 16 ^ n).sum + (8 - c.router.outq.length) * 2 ^ 32
    + c.half.toNat * 2 ^ 36 + c.inbox.length * 2 ^ 44)

/-- The core without the head flit of queue n, which was consumed on a path of EXLOG (08 R285). -/
def dropped (c : Core) (n path : Nat) (f : Flit) (rest : List Flit) : Core :=
  ({ c.setQueue n rest with half := putBits c.half n 1 0 }).consume f n path

/-- The core with route entry t set. -/
def rerouted (c : Core) (t : Nat) (e : Word) : Core :=
  { c with router := { c.router with
      routes := Table.set 0 t e c.router.routes, written := t :: c.router.written.filter (· != t), rtsetWait := none } }

/-- A route entry that may be written now (08 R296): it fits, its engine holds nothing, and its delay queue is empty where the
delay changes. -/
def Writable (c : Core) (t : Nat) (e : Word) : Prop :=
  entryFits c.router t e = true
    ∧ ¬(entOp (c.route t) = 1 ∧ (c.router.sum t).busy = true)
    ∧ ¬(entOp (c.route t) = 2 ∧ (c.router.adapter t).pending.isSome = true)
    ∧ (entDmd e = entDmd (c.route t) ∨ Table.get [] c.router.delays t = [])

end Sys2Proof.Claims

/-- 08 R293, R294, R299: sendw2, sendm and bankpass complete where their tag, their release and the output queue let them: the
flits stand behind the output queue. -/
def Obligations.SendsPushTheirFlits : Prop :=
  (∀ (x : FormQ) (s : State) (a b e : Word) (c1 c2 c3 : Core), Issues (.sendw2 x) s →
    scalarRead s.me x.a = some (a, c1) → scalarRead c1 x.b = some (b, c2) → scalarRead c2 x.c = some (e, c3) →
    SendReady s x 1 →
    exec (.sendw2 x) s = .next (s.completed ((ordered c3 (x.rl = 1)).pushed [sentFlit x c3 a b e])))
  ∧ (∀ (x : FormQ) (s s1 : State) (a b : Word) (bytes : List Byte) (c1 c2 : Core), Issues (.sendm x) s →
    scalarRead s.me x.a = some (a, c1) → scalarRead c1 x.b = some (b, c2) →
    LdlsAt 8 (s.setMe c2) ((List.range 6).map fun (k : Nat) => (b.toNat : Int) + 8 * k) bytes s1 → SendReady s1 x 4 →
    exec (.sendm x) s = .next (s1.completed ((ordered s1.me (x.rl = 1)).pushed (messageFlits x s1.me a bytes))))
  ∧ ∀ (x : FormQ) (s : State) (r : Region), Issues (.bankpass x) s → s.regionOf s.cur = some r → SendReady s x 1 →
    exec (.bankpass x) s = .next (s.completed ((ordered s.me (x.rl = 1)).pushed
      [mkFlit 15 4 (excNow s.me) true 0 0 0 x.tag (.ofNat 128 (bitsOf x.imm 0 3 + r.roleOf s.cur * 2 ^ 32))]))

/-- 08 R295, R297, R298; 14 R439: qflush, qpeek, qstat, qdrop (a bank-ownership token hands its bank over), excq, excq.clr,
drain and drain.end. -/
def Sys2Proof.Claims.QueueInstructionsResults : Prop :=
  (∀ (x : FormQ) (s : State) (c : Core), Issues (.qflush x) s →
    scalarWrite { s.me.setQueue x.qn.toNat [] with half := putBits s.me.half x.qn.toNat 1 0 } x.d
      (.ofNat 64 (s.me.queue x.qn.toNat).length) = some c →
    exec (.qflush x) s = .next (s.completed c))
  ∧ (∀ (x : FormQ) (s : State) (c : Core), Issues (.qpeek x) s →
    scalarWrite s.me x.d (peeked s.me x.qn.toNat (bitsOf x.imm 0 2)) = some c →
    exec (.qpeek x) s = .next (s.completed c))
  ∧ (∀ (x : FormQ) (s : State) (c : Core), Issues (.qstat x) s → scalarWrite s.me x.d (queueWord s.me) = some c →
    exec (.qstat x) s = .next (s.completed c))
  ∧ (∀ (x : FormQ) (s : State) (f : Flit) (rest : List Flit) (c1 c2 : Core), Issues (.qdrop x) s →
    s.me.queue x.qn.toNat = f :: rest →
    c1 = dropped s.me x.qn.toNat 1 f rest →
    scalarWrite
      (if f.kind = 4 then { c1 with bankWait := putBits c1.bankWait (bitsOf f.payload 0 3) 1 0, oldWords := [] } else c1)
      x.d (.ofNat 64 (viewOfHead s.me x.qn.toNat f)) = some c2 →
    exec (.qdrop x) s = .next (s.completed c2))
  ∧ (∀ (x : FormQ) (s : State) (c : Core), Issues (.excq x) s → scalarWrite s.me x.d s.me.router.exlog = some c →
    exec (.excq x) s = .next (s.completed c))
  ∧ (∀ (x : FormQ) (s : State) (c : Core), Issues (.excqClr x) s →
    scalarWrite { s.me with router := { s.me.router with exlog := 0 } } x.d s.me.router.exlog = some c →
    exec (.excqClr x) s = .next (s.completed c))
  ∧ (∀ (x : FormQ) (s : State) (f : Flit) (rest : List Flit) (c1 c2 : Core), Issues (.drain x) s →
    s.me.queue x.qn.toNat = f :: rest → f.kind = 3 → s.me.half.getLsbD x.qn.toNat = false →
    SendReady s x (if 24 ≤ x.d.toNat then 2 else 1) →
    c1 = ordered (dropped s.me x.qn.toNat 0 f rest) (x.rl = 1) →
    scalarWrite c1 x.d (.ofNat 64 (bitsOf f.payload 0 32)) = some c2 →
    exec (.drain x) s = .next ((reportPassage (bitsOf f.payload 0 128) s).completed
      (c2.pushed [mkFlit 15 3 (excNow c2) (x.rl == 1) 0 0 0 x.tag f.payload])))
  ∧ ∀ (x : FormQ) (s : State) (f : Flit) (rest : List Flit) (c1 c2 : Core), Issues (.drainEnd x) s →
    s.me.queue x.qn.toNat = f :: rest → f.kind = 3 → s.me.half.getLsbD x.qn.toNat = false →
    c1 = dropped s.me x.qn.toNat 0 f rest →
    scalarWrite c1 x.d (.ofNat 64 (bitsOf f.payload 0 32)) = some c2 →
    exec (.drainEnd x) s = .next ((reportPassage (bitsOf f.payload 0 128) s).completed c2)

/-- 08 R269, R296: rtget reads the entry of its tag, rtset and dmqset write an entry that may be written, tagset sets a field of
QTAGS; an entry that does not fit traps RESERVED_FIELD, with the entry for TRAP_VAL. -/
def Sys2Proof.Claims.RouteInstructionsResults : Prop :=
  (∀ (x : FormQ) (s : State) (c : Core), Issues (.rtget x) s → scalarWrite s.me x.d (s.me.route x.tag.toNat) = some c →
    exec (.rtget x) s = .next (s.completed c))
  ∧ (∀ (x : FormQ) (s : State) (a : Word) (c : Core), Issues (.rtset x) s → scalarRead s.me x.a = some (a, c) →
    Writable c x.tag.toNat a → exec (.rtset x) s = .next (s.completed (rerouted c x.tag.toNat a)))
  ∧ (∀ (x : FormQ) (s : State) (a : Word) (c : Core), Issues (.rtset x) s → s.inRpt = false →
    s.midBody = false → HandlesTraps s.me →
    scalarRead s.me x.a = some (a, c) → entryFits c.router x.tag.toNat a = false →
    exec (.rtset x) s = .next (s.setMe (trapped c causeReserved a 0 s.me.pc)))
  ∧ (∀ (x : FormQ) (s : State) (e : Word), Issues (.dmqset x) s →
    e = putBits (s.me.route x.tag.toNat) 26 8 (bitsOf x.imm 0 8) → Writable s.me x.tag.toNat e →
    exec (.dmqset x) s = .next (s.completed (rerouted s.me x.tag.toNat e)))
  ∧ ∀ (x : FormQ) (s : State), Issues (.tagset x) s → exec (.tagset x) s = .next (s.completed
      { s.me with router := { s.me.router with qtags := putBits s.me.router.qtags (8 * x.qn.toNat) 7 x.tag.toNat } })

namespace Sys2Proof.Claims

/-! ## Streams and circular buffers (07) -/

/-- Words of the core's own LOC at some addresses can be read in order, are ws, and leave s' (04 R136; 12 R385; 14 R439; 15
R460). -/
def WordsAt : State → List Nat → List Word → State → Prop
  | s, [], ws, s' => ws = [] ∧ s' = s
  | s, a :: rest, ws, s' =>
    s.me.bankWait.getLsbD (a / 8192) = false ∧ Readable s s.cur a 8
      ∧ ∃ s1 w, s.loaded s.cur a 8 = some s1 ∧ WordsAt s1 rest w s'
        ∧ ws = BitVec.ofNat 64 (natOfBytes (loadBytes s s.me.sb s.cur a 8)) :: w

/-- n words of the core's own LOC from address a on can be read, are ws, and leave s' (04 R125, R127). -/
def LocWords (s : State) (a n : Nat) (ws : List Word) (s' : State) : Prop :=
  a % 8 = 0 ∧ a + 8 * n ≤ 65536 ∧ WordsAt s ((List.range n).map fun k => a + 8 * k) ws s'

/-- The descriptor words at address a and the TEC that an sopen goes by, and the state after they were read: those that it has
read before, while it waits for a context (07 R256). -/
def Opening (s : State) (a : Nat) (ws : List Word) (tec : Bool) (s' : State) : Prop :=
  (s.me.opening = [] ∧ LocWords s a 8 ws s' ∧ tec = s.me.tec)
    ∨ (∃ v, s.me.opening = ws ++ [v] ∧ ws.length = 8 ∧ tec = v.getLsbD 0 ∧ s' = s)

/-- Slot n of the executing core holds stream c. -/
def SlotHolds (s : State) (n : Nat) (st : SlotState) (c : StreamCtx) : Prop :=
  (s.me.slot n).st = st ∧ s.ctx (s.me.slot n).eng (s.me.slot n).ctx = some c

/-- The stream that sopen makes of the words of a descriptor. -/
def openedStream (s : State) (n : Nat) (ws : List Word) (tec : Bool) : StreamCtx :=
  StreamCtx.ofDesc s.cur n (((s.regionOf s.cur).map (·.id)).getD 0) ws tec

/-- The state with the stream of slot n made c and the slot in state st. -/
def restreamed (s : State) (k : Core) (n : Nat) (st : SlotState) (c : StreamCtx) : State :=
  (s.setCtx (s.me.slot n).eng (s.me.slot n).ctx c).completed (k.setSlot n { s.me.slot n with st })

/-- The core with circular-buffer context n set. -/
def buffered (c : Core) (n : Nat) (b : CbCtx) : Core := { c with cbs := Table.put n b c.cbs }

/-- The address that cbwait delivers (07 R260). -/
def entryAddress (b : CbCtx) : Word := .ofNat 64 (b.base + 16 * b.head * b.esz)

end Sys2Proof.Claims

/-- 07 R234, R256, R257: sopen of a FREE slot whose descriptor passes its checks opens the lowest free context of the core's
engine, or waits with the words that it has read where none is free, its slot in TRAP_VAL bits 18:16 (R255); sgo lets a slot run,
sstop pauses it, sstop.close ends it where no item is issued; sgo of a RUN slot, sstop and sstop.close of an ENDED one have no
effect. -/
def Sys2Proof.Claims.StreamSlotsMove : Prop :=
  (∀ (x : FormS3) (s s1 : State) (n k : Nat) (ws : List Word) (tec : Bool), Issues (.sopen x) s → n = bitsOf x.aux 0 3 →
    (s.me.slot n).st = .free → Opening s (s.me.reg x.a.toNat).toNat ws tec s1 →
    (openedStream s n ws tec).check (wordOf (.sopen x)) = none →
    (openedStream s n ws tec).tagHeld (s.brim (s.portOf s.cur)) = false →
    k < 32 → s.ctx (s.portOf s.cur) k = none → (∀ j < k, s.ctx (s.portOf s.cur) j ≠ none) →
    exec (.sopen x) s = .next
      (((s1.setBrim (s.portOf s.cur) (s.brim (s.portOf s.cur)).wake).setCtx (s.portOf s.cur) k
        ((openedStream s n ws tec).withWindows s1 (s.rootAt s.cur))).completed
        { s.me.setSlot n { st := .opened, eng := s.portOf s.cur, ctx := k } with opening := [] }))
  ∧ (∀ (x : FormS3) (s s1 : State) (n : Nat) (ws : List Word) (tec : Bool), Issues (.sopen x) s → s.inRpt = false →
    n = bitsOf x.aux 0 3 → (s.me.slot n).st = .free → Opening s (s.me.reg x.a.toNat).toNat ws tec s1 →
    (openedStream s n ws tec).check (wordOf (.sopen x)) = none →
    (openedStream s n ws tec).tagHeld (s.brim (s.portOf s.cur)) = false → (∀ j < 32, s.ctx (s.portOf s.cur) j ≠ none) →
    ∃ t v, exec (.sopen x) s = .next t ∧ v.getLsbD 0 = tec ∧ t.brims = s.brims
      ∧ t.me = { s.me with opening := ws ++ [v], wait := t.me.wait, issued := true }
      ∧ (t.me.wait.map (·.val)) = some (.ofNat 64 (6 + n * 2 ^ 16)))
  ∧ (∀ (x : FormS3) (s : State) (n : Nat) (st : SlotState) (c : StreamCtx), Issues (.sgo x) s → n = bitsOf x.aux 0 3 →
    st = .opened ∨ st = .paused → SlotHolds s n st c → (c.acq = true → s.scopePerformed s.cur c.scope = true) →
    exec (.sgo x) s = .next (restreamed s (ordered s.me (c.acq = true)) n .run { c with running := true }))
  ∧ (∀ (x : FormS3) (s : State) (n : Nat) (c : StreamCtx), Issues (.sstop x) s → n = bitsOf x.aux 0 3 →
    SlotHolds s n .run c → exec (.sstop x) s = .next (restreamed s s.me n .paused { c with running := false }))
  ∧ (∀ p ∈ ([(.sgo, .run), (.sstop, .ended), (.sstopClose, .ended)] : List ((FormS3 → Instr) × SlotState)),
    ∀ (x : FormS3) (s : State), Issues (p.1 x) s → (s.me.slot (bitsOf x.aux 0 3)).st = p.2 →
    exec (p.1 x) s = .next (s.completed s.me))
  ∧ (∀ (x : FormS3) (s : State) (n : Nat) (st : SlotState) (c : StreamCtx), Issues (.sstopClose x) s →
    n = bitsOf x.aux 0 3 → st = .opened ∨ st = .run ∨ st = .paused → SlotHolds s n st c →
    ∃ t, t = (if c.issued then s.setCtx (s.me.slot n).eng (s.me.slot n).ctx { c with closing := true }
        else streamFinish s (s.me.slot n).eng (s.me.slot n).ctx c 2)
      ∧ exec (.sstopClose x) s = .next (t.completed t.me))

/-- 07 R234, R257, R258: swait of an ENDED stream whose token has come delivers its status and frees its slot and context, sstat
and sstat.cnt read; a use that the state of a slot does not allow traps QUEUE_PROTOCOL with the state, USE 1 and the slot. What
the counters of a stream read whose items are all done is the model's choice, log 67. -/
def Sys2Proof.Claims.StreamsAreReadAndFreed : Prop :=
  (∀ (x : FormS3) (s : State) (n : Nat) (c1 c2 : Core), Issues (.swait x) s → n = bitsOf x.aux 0 3 →
    (s.me.slot n).st = .ended → Token.stream n ∈ s.me.tokens →
    c1 = (if (streamStatus s n).getLsbD 6 then s.me.raiseFlags flagEXC else s.me) →
    scalarWrite { c1.setSlot n { st := .free, eng := 0, ctx := 0 } with
      tokens := c1.tokens.erase (.stream n), oldWords := [] } x.d (streamStatus s n) = some c2 →
    exec (.swait x) s = .next ((s.setBrim (s.me.slot n).eng { s.brim (s.me.slot n).eng with
      ctxs := Table.erase (s.me.slot n).ctx (s.brim (s.me.slot n).eng).ctxs }).completed c2))
  ∧ (∀ (x : FormS3) (s : State) (c : Core), Issues (.sstat x) s →
    scalarWrite s.me x.d (streamStatus s (bitsOf x.aux 0 3)) = some c → exec (.sstat x) s = .next (s.completed c))
  ∧ (∀ (x : FormS3) (s : State) (st : SlotState) (k : StreamCtx) (c : Core), Issues (.sstatCnt x) s → st ≠ .free →
    SlotHolds s (bitsOf x.aux 0 3) st k → scalarWrite s.me x.d k.counters = some c →
    exec (.sstatCnt x) s = .next (s.completed c))
  ∧ (∀ (s : State) (n : Nat) (c : StreamCtx) (st : SlotState), st ≠ .free → SlotHolds s n st c →
    streamStatus s n = .ofNat 64 (st.code + c.endCode.toNat * 2 ^ 4 + (if c.exc then 2 ^ 6 else 0)
      + (if c.stall = none then 0 else 2 ^ 7) + c.cause.toNat * 2 ^ 8 + (s.me.slot n).eng * 2 ^ 16
      + (s.me.slot n).ctx * 2 ^ 22 + c.items % 2 ^ 32 * 2 ^ 32))
  ∧ ∀ p ∈ ([(.sopen, [.opened, .run, .paused, .ended]), (.sgo, [.free, .ended]), (.sstop, [.free, .opened, .paused]),
      (.sstopClose, [.free]), (.swait, [.free])] : List ((FormS3 → Instr) × List SlotState)),
    ∀ (x : FormS3) (s : State) (n : Nat) (st : SlotState), Issues (p.1 x) s → s.inRpt = false → s.midBody = false →
    HandlesTraps s.me →
    n = bitsOf x.aux 0 3 → (s.me.slot n).st = st → st ∈ p.2 →
    exec (p.1 x) s = .next (s.setMe (trapped s.me causeQueue (.ofNat 64 (st.code + 16 + n * 2 ^ 8)) 0 s.me.pc))

/-- 07 R249-R252, R259-R261: cbinit sets up a context from its record, cbwait delivers the address of the head entry once enough
entries are filled, cbrel frees entries and sends their credits, cbput sends a vector, cbstat reads. That cbinit takes any BASE
within the carve-out, aligned or not, is the model's choice, log 39 (DEDUCED). -/
def Sys2Proof.Claims.CircularBuffersMove : Prop :=
  (∀ (x : FormS3) (s s1 : State) (n : Nat) (w : Word) (b : CbCtx), Issues (.cbinit x) s → n = bitsOf x.aux 0 3 →
    (∀ o, s.me.cb n = some o → o.count = 0 ∧ o.pos = 0) → LocWords s (s.me.reg x.a.toNat).toNat 1 [w] s1 →
    bitsOf w 54 10 = 0 →
    b = { record := w, count := if b.producer then b.nent else 0, head := 0, tail := 0, pos := 0, err := none, exc := false } →
    (b.producer = false → s.me.cbufBase ≤ b.base ∧ b.base + 16 * b.nent * b.esz ≤ s.me.cbufLim) →
    exec (.cbinit x) s = .next (s1.completed (buffered s.me n b)))
  ∧ (∀ (x : FormS3) (s : State) (n : Nat) (b : CbCtx) (c1 c2 : Core), Issues (.cbwait x) s → n = bitsOf x.aux 0 3 →
    s.me.cb n = some b → b.producer = false → bitsOf x.aux 4 12 + 1 ≤ b.nent → b.err = none →
    bitsOf x.aux 4 12 + 1 ≤ b.count → c1 = (if b.exc then s.me.raiseFlags flagEXC else s.me) →
    scalarWrite { buffered c1 n { b with exc := false } with oldWords := [] } x.d (entryAddress b) = some c2 →
    exec (.cbwait x) s = .next (s.completed c2))
  ∧ (∀ (x : FormS3) (s : State) (n k : Nat) (b : CbCtx), Issues (.cbrel x) s → n = bitsOf x.aux 0 3 →
    k = bitsOf x.aux 4 12 + 1 → s.me.cb n = some b → b.producer = false → k ≤ b.count → TagOk s.me b.ctag → Room s.me 1 →
    exec (.cbrel x) s = .next (s.completed
      ((buffered s.me n { b with count := b.count - k, head := (b.head + k) % b.nent }).pushed
        [mkFlit 15 5 (excNow s.me) false 0 0 0 (.ofNat 7 b.ctag) (.ofNat 128 k)])))
  ∧ (∀ (x : FormS3) (s : State) (n k : Nat) (b : CbCtx) (v : Vec) (t : BitVec 72) (c : Core), Issues (.cbput x) s →
    n = bitsOf x.aux 0 3 → s.me.cb n = some b → b.producer = true → vectorRead s.me x.a false = some (v, t, c) →
    TagOk s.me b.itag → k = (if b.pos = 0 then 1 else 0) + (if (b.pos + 1) % b.esz = 0 then 1 else 0) → k ≤ b.count →
    Room s.me 2 →
    exec (.cbput x) s = .next (s.completed
      ((buffered c n { b with count := b.count - k, pos := (b.pos + 2) % b.esz }).pushed
        ((List.range 2).map fun h =>
          mkFlit (queueFmt x.ty.toNat) 0 (excNow c) false 0 0 0 (.ofNat 7 b.itag) (v.extractLsb' (128 * h) 128)))))
  ∧ ∀ (x : FormS3) (s : State) (c : Core), Issues (.cbstat x) s →
    scalarWrite s.me x.d (match s.me.cb (bitsOf x.aux 0 3) with
      | none => 0
      | some b => .ofNat 64 (b.count % 2 ^ 13 + b.pos % 2 ^ 12 * 2 ^ 16 + (if b.producer then 2 ^ 28 else 0) + 2 ^ 29
          + (if b.err = none then 0 else 2 ^ 32) + (if b.exc then 2 ^ 33 else 0))) = some c →
    exec (.cbstat x) s = .next (s.completed c)

/-- 07 R244, R247, R248, R262: smig at aligned addresses takes one step of the migration and delivers its outcome once there
is one, and waits until then; a migration freezes the page, copies it by blocks of 256 bytes, rewrites its leaf entry and
shoots the page down, or ends with the code of what hindered it; sinval shoots down the pages of its range, all of them for
length 0, and waits for one that is under migration. The model's choices: a block is copied at each execution (log 18); a walk
that fails for poison, a reserved bit or a table that is not decoded delivers NOMAP (log 68, DESIGN CHOICE). -/
def Sys2Proof.Claims.MigrationAndInvalidation : Prop :=
  (∀ (x : FormS3) (s s' : State) (a b : Word) (size k : Nat) (c : Core), Issues (.smig x) s →
    a = s.me.reg x.a.toNat → b = s.me.reg x.b.toNat → size = 2 ^ (12 + 9 * bitsOf x.aux 0 2) → a.toNat % size = 0 →
    b.toNat % size = 0 → a.toNat < 2 ^ 57 → migrate s a.toNat b.toNat size = (s', some k) →
    scalarWrite s'.me x.d (.ofNat 64 k) = some c → exec (.smig x) s = .next (s'.completed c))
  ∧ (∀ (x : FormS3) (s s' : State) (a b : Word) (size : Nat), Issues (.smig x) s → s.inRpt = false →
    a = s.me.reg x.a.toNat → b = s.me.reg x.b.toNat → size = 2 ^ (12 + 9 * bitsOf x.aux 0 2) → a.toNat % size = 0 →
    b.toNat % size = 0 → a.toNat < 2 ^ 57 → (scalarWrite s.me x.d 0).isSome = true →
    migrate s a.toNat b.toNat size = (s', none) →
    ∃ t, exec (.smig x) s = .next t ∧ t.migs = s'.migs ∧ t.ext = s'.ext
      ∧ t.me = { s.me with wait := t.me.wait, issued := true } ∧ t.me.wait.isSome = true)
  ∧ (∀ (s : State) (va npa size : Nat) (l : LeafEntry), s.myMig va npa size = none →
    leafEntry s va 5 s.myJob.2 = some l → l.size = size →
    ((s.dropMigs [s.cur]).frozenPage s.myJob.1 va size = true → (migrate s va npa size).2 = some 2)
    ∧ ((s.dropMigs [s.cur]).frozenPage s.myJob.1 va size = false →
      migrate s va npa size = ({ s.dropMigs [s.cur] with
        migs := Table.put s.cur { job := s.myJob.1, va, npa, size, copied := 0 } (s.dropMigs [s.cur]).migs }, none)))
  ∧ (∀ (s : State) (va npa size : Nat), s.myMig va npa size = none →
    (∀ l, leafEntry s va 5 s.myJob.2 = some l → l.size ≠ size) → (migrate s va npa size).2 = some 1)
  ∧ (∀ (s : State) (va npa size : Nat) (m : Migration) (l : LeafEntry), s.myMig va npa size = some m →
    leafEntry s m.va 5 s.myJob.2 = some l →
    (extRead s (l.pa + m.copied) 256 = none → (migrate s va npa size).2 = some 3)
    ∧ ∀ bytes, extRead s (l.pa + m.copied) 256 = some bytes →
      (extWrite s (m.npa + m.copied) bytes = none → (migrate s va npa size).2 = some 4)
      ∧ ∀ s1, extWrite s (m.npa + m.copied) bytes = some s1 →
        (m.copied + 256 < m.size →
          migrate s va npa size = ({ s1 with migs := Table.put s.cur { m with copied := m.copied + 256 } s1.migs }, none))
        ∧ (m.size ≤ m.copied + 256 → ∀ s2,
          extWrite (s1.dropMigs [s.cur]) l.addr (bytesOfNat 8 (l.entry - l.pa + m.npa / 4096 * 4096)) = some s2 →
          migrate s va npa size = (shootDown s2 m.job s2.myJob.2
            { lo := m.va / 4096, hi := (m.va + m.size - 1) / 4096 + 1 }, some 0)))
  ∧ (∀ (x : FormS3) (s t : State) (a n : Nat) (g : PageRange), Issues (.sinval x) s → a = (s.me.reg x.a.toNat).toNat →
    n = (s.me.reg x.b.toNat).toNat →
    g = (if n = 0 then { lo := 0, hi := 2 ^ 45 } else { lo := a / 4096, hi := (a + n - 1) / 4096 + 1 }) →
    s.frozenPage s.myJob.1 (4096 * g.lo) (4096 * (g.hi - g.lo)) = false →
    t = shootDown s s.myJob.1 s.myJob.2 g → exec (.sinval x) s = .next (t.completed t.me))
  ∧ ∀ (x : FormS3) (s : State) (a n : Nat) (g : PageRange), Issues (.sinval x) s → a = (s.me.reg x.a.toNat).toNat →
    n = (s.me.reg x.b.toNat).toNat →
    g = (if n = 0 then { lo := 0, hi := 2 ^ 45 } else { lo := a / 4096, hi := (a + n - 1) / 4096 + 1 }) →
    s.frozenPage s.myJob.1 (4096 * g.lo) (4096 * (g.hi - g.lo)) = true →
    exec (.sinval x) s = .next (s.waiting 6)

namespace Sys2Proof.Claims

/-! ## The tensor macro (09) -/

/-- The address of a LOC operand of n bytes that a tensor instruction may use (09 R310). -/
def TensorRange (c : Core) (a : Word) (n : Nat) : Prop :=
  a.toInt % 8 = 0 ∧ 0 ≤ a.toInt
    ∧ a.toNat + n ≤ (if c.spillBase.toNat < c.spillLim.toNat then min 65536 (8 * c.spillLim.toNat) else 65536)

/-- A LOC operand of n bytes at a that a tensor instruction accesses as a whole, its banks not gated (09 R310; 14 R439). -/
def TensorLoc (c : Core) (a : Word) (n : Nat) : Prop :=
  TensorRange c a n ∧ c.bankWait.getLsbD (a.toNat / 8192) = false ∧ c.bankWait.getLsbD ((a.toNat + n - 1) / 8192) = false

/-- Loads of n bytes at some addresses of the executing core's own LOC, made in order: the bytes, and the module after them; none
where one of them waits or traps (04 R136; 12 R385; 14 R439; 15 R460). -/
def readBytes (n : Nat) : List Nat → State → Option (List Byte × State)
  | [], s => some ([], s)
  | a :: rest, s =>
    if s.me.bankWait.getLsbD (a / 8192) || atomicPending s.me.sb s.cur a n
        || ((s.core s.cur).locPoisoned a n && !allForwarded s.me.sb s.cur a n) then none
    else
      (s.loaded s.cur a n).bind fun s1 =>
        (readBytes n rest s1).map fun p => (loadBytes s s.me.sb s.cur a n ++ p.1, p.2)

/-- The addresses of block k of a BX tensor at address a, two bytes each: its elements, then its scale (02 R54). -/
def blockAddrs (a kind k : Nat) : List Nat :=
  (List.range (bxWidth kind)).map (fun j => a + (blockOffsets kind k).1 + 2 * j) ++ [a + (blockOffsets kind k).2]

/-- Blocks of a BX tensor at address a, read in order (02 R54). -/
def readBlocks (a kind : Nat) : List Nat → State → Option (List BxBlock × State)
  | [], s => some ([], s)
  | k :: ks, s =>
    (readBytes 2 (blockAddrs a kind k) s).bind fun p =>
      (readBlocks a kind ks p.2).map fun q =>
        (bxOfScale kind (natOfBytes (p.1.take (2 * bxWidth kind))) (natOfBytes (p.1.drop (2 * bxWidth kind))) :: q.1, q.2)

/-- The core with the tensor macro set. -/
def retensored (c : Core) (t : Tensor) : Core := { c with tensor := t }

/-- A flit that a tensor instruction takes as a BX flit of a format (09 R319; 02 R62). -/
def bxFlit (c : Core) (kind : Nat) (f : Flit) : Bool :=
  f.kind == 0 && isBx f.fmt && bxKind f.fmt == kind && bxTec f.fmt == c.tec

/-- The state with the progress of the instruction that executes set. -/
def progressed (s : State) (n : Nat) : State :=
  s.setMe (if s.inRpt then { s.me with rptProgress := n } else { s.me with progress := n })

/-- The core after k steps of tldbq from step i on; none where a flit is missing or refused (09 R307, R319). -/
def tileSteps (kind slot n total : Nat) : Nat → Nat → Core → Option Core
  | 0, _, c => some c
  | k + 1, i, c =>
    match c.queue n with
    | [] => none
    | f :: rest =>
      if c.half.getLsbD n || !bxFlit c kind f then none
      else
        let c := retensored c (c.tensor.setColumn kind slot i (stepBlock kind i f))
        tileSteps kind slot n total k (i + 1)
          (if kind ≠ 0 ∨ i % 2 = 1 ∨ i + 1 = total then c.popped n f rest else c)

/-- The A block of step i of a tensor operation, the module once it was read, and what the step then does to the core: of a vector
register (tmac), of an input queue or the gang queue (tmacq), of LOC (tmacl). -/
abbrev ABlocks := Nat → State → Option (ABlock × State × (Core → Core))

/-- The half that holds slot sl of a vector register, and its tag (09 R320). -/
def registerA (x : FormT) : ABlocks := fun _ s =>
  let kind := x.af.toNat
  let sl := bitsOf x.imm 0 2
  let h := if kind = 0 then sl / 2 else sl
  let tag := bitsOf (s.me.vtag x.a.toNat) (36 * h) 36
  let fmt := tag / 2 ^ 32
  if isBx fmt && bxKind fmt == kind && bxTec fmt == s.me.tec then
    some ({ kind, tec := s.me.tec,
            block := (bxBlocks kind ((s.me.vreg x.a.toNat).extractLsb' (128 * h) 128) (.ofNat 32 tag)).getD
              (if kind = 0 then sl % 2 else 0) bxZero }, s, id)
  else none

/-- The block at the head of the queue of tmacq: the gang queue for sA 0 (09 R315, R320). -/
def queueA (x : FormT) (total : Nat) : ABlocks := fun i s =>
  let kind := x.af.toNat
  let pops := stepPops kind i total
  let block (f : Flit) : ABlock := { kind, tec := bxTec f.fmt, block := stepBlock kind i f }
  if x.a = 0 then
    match s.me.tensor.gangq with
    | [] => none
    | f :: rest =>
      if bxFlit s.me kind f then
        some (block f, s, fun c => if pops then (retensored c { c.tensor with gangq := rest }).consume f 0 4 else c)
      else none
  else
    let n := x.a.toNat - 24
    match s.me.queue n with
    | [] => none
    | f :: rest =>
      if !s.me.half.getLsbD n && bxFlit s.me kind f then
        some (block f, s, fun c => if pops then c.popped n f rest else c)
      else none

/-- Block i of the LOC operand of tmacl (09 R310, R320). -/
def locA (x : FormT) (a : Nat) : ABlocks := fun i s =>
  (readBlocks a x.af.toNat [i] s).map fun p =>
    ({ kind := x.af.toNat, tec := s.me.tec, block := p.1.headD bxZero }, p.2, id)

/-- The state after k steps of a tensor operation of the word w, from step i on, on the executing core and the other members of
its gang; none where a poisoned word is read or a block is missing or refused (09 R305, R307, R313). -/
def opSteps (w : Word) (others : List Nat) (read : ABlocks) : Nat → Nat → State → Option State
  | 0, _, s => some s
  | k + 1, i, s =>
    let gangWord (c : Core) : Word := c.tensor.gangOp.getD 0
    if others.any (fun l => ((s.core l).tensorPoison (gangWord (s.core l)) i).isSome) || (s.me.tensorPoison w i).isSome then none
    else
      match read i s with
      | none => none
      | some (a, s, after) =>
        let s := s.setMe (s.me.tensorStep w i a)
        let s := others.foldl (fun s l =>
          s.setCore l (((s.core l).tensorStep (gangWord (s.core l)) i a).gangStepped i)) s
        opSteps w others read k (i + 1) (progressed (s.setMe (after s.me)) (i + 1))

/-- The state after a tensor operation of n blocks. -/
def opDone (w : Word) (others : List Nat) (read : ABlocks) (n : Nat) (s : State) : Option State :=
  (opSteps w others read (n - s.progress) s.progress s).map fun s =>
    let s := others.foldl (fun s l => s.setCore l (s.core l).gangDone) s
    s.setMe (retensored s.me { s.me.tensor with gangOp := none })

/-- The other members of a tensor operation, and the state in which it starts: none for an ordinary one; for a gang operation at
its head, every other member once all have issued operations of the same opcode, format and count (09 R311, R313). -/
def GangStarts (s : State) (x : FormT) (w : Word) (cnt : Nat) (others : List Nat) (s1 : State) : Prop :=
  (x.gn = 0 ∧ others = [] ∧ s1 = s)
    ∨ (x.gn ≠ 0 ∧ s.me.tensor.gang = gangReg 0 x.gn.toNat ∧ s1 = s.setMe (retensored s.me { s.me.tensor with gangOp := some w })
      ∧ ∃ ls, gangRoles s s.cur 0 x.gn.toNat = some ls ∧ others = ls.drop 1
        ∧ (∀ k (h : k < ls.length), (s1.core ls[k]).tensor.gang = gangReg k x.gn.toNat)
        ∧ (∀ l ∈ ls, (s1.core l).tensor.gangOp.isSome = true)
        ∧ ∀ l ∈ others, ∀ v, (s1.core l).tensor.gangOp = some v →
          bitsOf v 56 8 = bitsOf w 56 8 ∧ bitsOf v 24 2 = bitsOf w 24 2 ∧ (bitsOf w 56 8 ≠ 0x92 → bitsOf v 0 5 = cnt))

/-- No poisoned word of accumulator tile at (15 R460; log 19). -/
def AccClean (c : Core) (tile : Nat) : Prop := c.tensor.poisoned (accWords tile 0) 22 = false

/-- No poisoned word of half h of accumulator tile at (15 R460; log 19). -/
def HalfClean (c : Core) (tile h : Nat) : Prop := c.tensor.poisoned (accWords tile h) 11 = false

/-- Both halves of a tile set. -/
def accSet (c : Core) (tile : Nat) (b0 b1 : Ba40) : Core :=
  retensored c ((c.tensor.setAcc tile 0 b0).setAcc tile 1 b1)

/-- A tile raised to a target exponent, with NX where that is inexact (09 R321; 02 R68). -/
def normed (c : Core) (tile : Nat) (target : Int) : Core :=
  let r0 := normHalf (c.tensor.acc tile 0) target
  let r1 := normHalf (c.tensor.acc tile 1) target
  (accSet c tile r0.1 r1.1).raiseFlags (if r0.2 || r1.2 then flagNX else 0)

/-- The halves that BH and HH name (09 R322, R324). -/
def namedHalves (x : FormT) : List Nat := if x.imm.getLsbD 3 then [0, 1] else [bitsOf x.imm 2 1]

/-- The core after k blocks of tmov.in from half index i on (09 R322). -/
def tileIn (x : FormT) : Nat → Nat → Core → Option Core
  | 0, _, c => some c
  | k + 1, i, c =>
    let n := x.a.toNat - 24
    let fs := (c.queue n).take 5
    let ok (f : Flit) : Bool :=
      f.kind == 0 && f.fmt == 10 && fs.all (fun g => bitsOf g.side 0 16 == bitsOf f.side 0 16)
    if fs.length ≠ 5 ∨ c.half.getLsbD n ∨ !fs.all ok then none
    else
      let c := fs.foldl (fun c f => dropped c n 0 f (c.queue n).tail) c
      tileIn x k (i + 1) (retensored c (c.tensor.setAcc x.tile.toNat ((namedHalves x).getD i 0) (ba40OfFlits fs)))

end Sys2Proof.Claims

/-- 09 R302, R307, R319: tldb and tldbq fill the columns of a slot from LOC or from a queue, and clear those from NCOL on. -/
def Sys2Proof.Claims.TensorTilesLoad : Prop :=
  (∀ (x : FormT) (s : State) (a : Word) (kind ncol : Nat) (bs : List BxBlock) (s1 : State) (t : Tensor),
    Issues (.tldb x) s → kind = bfKind x.bf.toNat →
    ncol = bitsOf x.imm 0 6 → a = s.me.reg x.a.toNat →
    TensorLoc s.me a ((ncol + 7) / 8 * (16 * bxWidth kind + 16)) →
    readBlocks a.toNat kind (List.range ncol) s = some (bs, s1) →
    t = (s.me.tensor.setColumns kind x.bt.toNat 0 bs).setColumns kind x.bt.toNat ncol (List.replicate (32 - ncol) bxZero) →
    exec (.tldb x) s = .next (s1.completed (retensored s.me (t.scalesWritten kind x.bt.toNat))))
  ∧ ∀ (x : FormT) (s : State) (kind ncol : Nat) (c : Core), Issues (.tldbq x) s → kind = bfKind x.bf.toNat →
    ncol = bitsOf x.imm 0 6 →
    tileSteps kind x.bt.toNat (x.a.toNat - 24) ncol (ncol - s.progress) s.progress s.me = some c →
    exec (.tldbq x) s = .next (s.completed
      (retensored c (c.tensor.setColumns kind x.bt.toNat ncol (List.replicate (32 - ncol) bxZero))))

/-- 09 R300-R302: a column written into a slot of the element and scale stores reads back, and every other column of a slot of
the same format keeps its value. -/
def Sys2Proof.Claims.TensorColumnsReadBack : Prop :=
  ∀ (t : Tensor) (kind slot n : Nat) (b : BxBlock), kind = 0 ∧ slot < 16 ∨ kind = 2 ∧ slot < 8 → n < 32 →
    (∀ (f sc : Nat), b = bxOfScale kind f sc → (t.setColumn kind slot n b).column kind slot n = b)
      ∧ ∀ slot' n', n' < 32 → (slot', n') ≠ (slot, n) →
        (t.setColumn kind slot n b).column kind slot' n' = t.column kind slot' n'

/-- 09 R305, R307, R311-R315, R320: tmac, tmacq and tmacl, ordinary or at the head of a gang whose members all wait, multiply
their A blocks with the columns of the slots from BT on into the accumulator of every member. That the members of a gang
step with the head's block, its TEC and its EXC is the model's choice, log 20 (DEDUCED). -/
def Sys2Proof.Claims.TensorOperationsComplete : Prop :=
  (∀ (x : FormT) (s s1 t : State) (others : List Nat), Issues (.tmac x) s →
    GangStarts s x (wordOf (.tmac x)) 1 others s1 → opDone (wordOf (.tmac x)) others (registerA x) 1 s1 = some t →
    exec (.tmac x) s = .next (t.completed t.me))
  ∧ (∀ (x : FormT) (s s1 t : State) (others : List Nat) (cnt : Nat), Issues (.tmacq x) s → cnt = bitsOf x.imm 0 5 →
    GangStarts s x (wordOf (.tmacq x)) cnt others s1 →
    opDone (wordOf (.tmacq x)) others (queueA x cnt) cnt s1 = some t →
    exec (.tmacq x) s = .next (t.completed t.me))
  ∧ ∀ (x : FormT) (s s1 t : State) (others : List Nat) (cnt n : Nat) (a : Word), Issues (.tmacl x) s →
    cnt = bitsOf x.imm 0 5 → a = s.me.reg x.a.toNat → n = (blockOffsets x.af.toNat (cnt - 1)).2 + 2 →
    TensorRange s.me a n → GangStarts s x (wordOf (.tmacl x)) cnt others s1 →
    (∀ l ∈ others, l ≠ s.cur) →
    opDone (wordOf (.tmacl x)) others (locA x a.toNat) cnt s1 = some t →
    exec (.tmacl x) s = .next (t.completed t.me)

/-- 09 R305; 02 R64-R67: a step of a tensor operation adds, to each half of its accumulator tile, the contribution of the A
block and the 16 columns of that half; the other tiles, the slots and every register keep their values. -/
def Sys2Proof.Claims.TensorStepAccumulates : Prop :=
  ∀ (c : Core) (w : Word) (i : Nat) (a : ABlock),
    let tile := bitsOf w 30 2
    let kind := if bitsOf w 22 2 = 0 then 0 else 2
    let slot := (bitsOf w 26 4 + i) % (if kind = 0 then 16 else 8)
    let cols (h : Nat) := (List.range 16).map fun n => c.tensor.column kind slot (16 * h + n)
    (∀ h < 2, (c.tensorStep w i a).tensor.acc tile h
        = (addBa40 (c.tensor.acc tile h) (contribution a kind c.tec (cols h)).1).block)
      ∧ (∀ tile' h, tile' ≠ tile → h < 2 → (c.tensorStep w i a).tensor.acc tile' h = c.tensor.acc tile' h)
      ∧ (c.tensorStep w i a).tensor.elems = c.tensor.elems ∧ (c.tensorStep w i a).tensor.scales = c.tensor.scales
      ∧ (c.tensorStep w i a).regs = c.regs ∧ (c.tensorStep w i a).vregs = c.vregs ∧ (c.tensorStep w i a).loc = c.loc

/-- 09 R304, R311, R312: tgang of size 0 leaves the gang; a member completes once every member of the gang has issued its own
tgang, and then every member holds its position. -/
def Sys2Proof.Claims.GangsForm : Prop :=
  (∀ (x : FormT) (s : State), Issues (.tgang x) s → x.gn = 0 → bitsOf x.imm 0 3 ≤ s.me.coreRx.toNat % 8 →
    exec (.tgang x) s = .next (s.completed (retensored s.me { s.me.tensor with gang := 0, join := none })))
  ∧ ∀ (x : FormT) (s : State) (r : Region) (p g head : Nat) (ls : List Nat), Issues (.tgang x) s → g = x.gn.toNat → g ≠ 0 →
    p = bitsOf x.imm 0 3 → p ≤ s.me.coreRx.toNat % 8 → s.me.coreRx.toNat % 8 - p + g ≤ 7 → s.regionOf s.cur = some r →
    head = r.roleOf s.cur - p → gangRoles s s.cur p g = some ls → ls.Nodup → (∀ k, ls[k]? = some s.cur ↔ k = p) →
    (∀ l ∈ ls, l ≠ s.cur → (s.core l).tensor.join = some (head, g)) →
    ∃ t, exec (.tgang x) s = .next t
      ∧ (∀ k (h : k < ls.length), (t.core ls[k]).tensor.gang = .ofNat 8 (2 ^ 7 + k * 2 ^ 4 + g)
        ∧ (t.core ls[k]).tensor.join = none)
      ∧ (∀ l ∉ ls, t.core l = s.core l)
      ∧ t.me = (retensored s.me { s.me.tensor with gang := gangReg p g, join := none }).completed s.inRpt

/-- 09 R321-R323, R325; 02 R66-R68: tclr, tadd, tnorm, tnorm.max, tmov.tt, tlda and texp complete on tiles, or halves of them,
that hold no poisoned word; tmov.tt moves the halves that remain. -/
def Obligations.AccumulatorResults : Prop :=
  (∀ (x : FormT) (s : State), Issues (.tclr x) s →
    exec (.tclr x) s = .next (s.completed (accSet s.me x.tile.toNat Ba40.zero Ba40.zero)))
  ∧ (∀ (x : FormT) (s : State) (d a : Nat) (r : Nat → Ba40Sum), Issues (.tadd x) s → d = x.tile.toNat → a = x.a.toNat →
    AccClean s.me d → AccClean s.me a → (∀ h, r h = addBa40 (s.me.tensor.acc d h) (s.me.tensor.acc a h)) →
    exec (.tadd x) s = .next (s.completed ((accSet s.me d (r 0).block (r 1).block).raiseFlags ((r 0).flags ||| (r 1).flags))))
  ∧ (∀ (x : FormT) (s : State) (v : Word) (c : Core), Issues (.tnorm x) s → AccClean s.me x.tile.toNat →
    scalarRead s.me x.a = some (v, c) → -32768 ≤ v.toInt → v.toInt ≤ 32767 →
    exec (.tnorm x) s = .next (s.completed (normed c x.tile.toNat v.toInt)))
  ∧ (∀ (x : FormT) (s : State) (e : Int), Issues (.tnormMax x) s → AccClean s.me x.tile.toNat →
    (∃ h < 2, (s.me.tensor.acc x.tile.toNat h).isZero = false ∧ (s.me.tensor.acc x.tile.toNat h).exp = e) →
    (∀ h < 2, (s.me.tensor.acc x.tile.toNat h).isZero = false → (s.me.tensor.acc x.tile.toNat h).exp ≤ e) →
    exec (.tnormMax x) s = .next (s.completed (normed s.me x.tile.toNat e)))
  ∧ (∀ (x : FormT) (s : State), Issues (.tnormMax x) s → AccClean s.me x.tile.toNat →
    (∀ h < 2, (s.me.tensor.acc x.tile.toNat h).isZero = true) → exec (.tnormMax x) s = .next (s.completed s.me))
  ∧ (∀ (x : FormT) (s : State) (hs : List Nat) (t : Tensor), Issues (.tmovTt x) s → hs = (namedHalves x).drop s.progress →
    (∀ h ∈ hs, HalfClean s.me x.a.toNat h) →
    t = hs.foldl (fun t' h => t'.setAcc x.tile.toNat h (s.me.tensor.acc x.a.toNat h)) s.me.tensor →
    exec (.tmovTt x) s = .next (s.completed (retensored s.me t)))
  ∧ (∀ (x : FormT) (s s1 : State) (a : Word) (bytes : List Byte), Issues (.tlda x) s → a = s.me.reg x.a.toNat →
    TensorLoc s.me a 176 → readBytes 8 ((List.range 22).map fun k => a.toNat + 8 * k) s = some (bytes, s1) →
    exec (.tlda x) s = .next (s1.completed
      (accSet s.me x.tile.toNat (ba40OfRecord (bytes.take 88)) (ba40OfRecord (bytes.drop 88)))))
  ∧ ∀ (x : FormT) (s : State) (c : Core), Issues (.texp x) s → AccClean s.me x.tile.toNat →
    scalarWrite s.me x.d (expWord (s.me.tensor.acc x.tile.toNat 0) (s.me.tensor.acc x.tile.toNat 1)) = some c →
    exec (.texp x) s = .next (s.completed c)

/-- 09 R307, R322-R324: tmov.out sends the five flits of each half that remains, or of the first and waits where the output queue
has no room for the second, tmov.in takes five for each, tsta stores 22 words, going on where a full store buffer stopped it, and
tout packs the halves into a vector register or sends them. That the words which tsta has stored before the store buffer was full
stand is the model's choice, log 57 (DEDUCED). -/
def Sys2Proof.Claims.AccumulatorTransfers : Prop :=
  (∀ (x : FormT) (s : State) (hs : List Nat), Issues (.tmovOut x) s → hs = (namedHalves x).drop s.progress →
    (∀ h ∈ hs, HalfClean s.me x.tile.toNat h) → TagOk s.me (s.me.qtag (x.d.toNat - 24)) →
    Room s.me (5 * hs.length) →
    exec (.tmovOut x) s = .next (s.completed (s.me.pushed (hs.flatMap fun h =>
      ba40Flits (s.me.tensor.acc x.tile.toNat h) (excNow s.me) (.ofNat 7 (s.me.qtag (x.d.toNat - 24)))))))
  ∧ (∀ (x : FormT) (s s1 : State) (h : Nat) (rest : List Nat), Issues (.tmovOut x) s →
    (namedHalves x).drop s.progress = h :: rest → rest ≠ [] → (∀ k ∈ h :: rest, HalfClean s.me x.tile.toNat k) →
    TagOk s.me (s.me.qtag (x.d.toNat - 24)) → Room s.me 5 → ¬Room s.me 10 →
    s1 = (progressed (s.setMe (s.me.pushed (ba40Flits (s.me.tensor.acc x.tile.toNat h) (excNow s.me)
      (.ofNat 7 (s.me.qtag (x.d.toNat - 24)))))) (s.progress + 1)).markIssued →
    ∃ t, exec (.tmovOut x) s = .next t ∧ t.me = { s1.me with wait := t.me.wait, rptWait := t.me.rptWait }
      ∧ (if s.inRpt then t.me.rptWait else t.me.wait)
        = some { start := s.cycle.toNat, val := .ofNat 64 (2 + (s.progress + 1) * 2 ^ 24), timed := true })
  ∧ (∀ (x : FormT) (s : State) (c : Core), Issues (.tmovIn x) s →
    tileIn x ((namedHalves x).length - s.progress) s.progress s.me = some c →
    exec (.tmovIn x) s = .next (s.completed c))
  ∧ (∀ (x : FormT) (s : State) (a : Word) (bytes : List Byte) (stores : List SbEntry), Issues (.tsta x) s →
    a = s.me.reg x.a.toNat → TensorLoc s.me a 176 → AccClean s.me x.tile.toNat →
    bytes = (s.me.tensor.acc x.tile.toNat 0).record ++ (s.me.tensor.acc x.tile.toNat 1).record →
    stores = ((List.range 22).drop s.progress).map (fun k =>
      SbEntry.store s.cur (a.toNat + 8 * k) ((bytes.drop (8 * k)).take 8)) →
    s.me.sb.length + stores.length ≤ 16 →
    exec (.tsta x) s = .next (s.completed { s.me with sb := s.me.sb ++ stores }))
  ∧ (∀ (x : FormT) (s : State) (a : Word) (bytes : List Byte) (stores : List SbEntry) (k : Nat), Issues (.tsta x) s →
    a = s.me.reg x.a.toNat → TensorLoc s.me a 176 → AccClean s.me x.tile.toNat →
    bytes = (s.me.tensor.acc x.tile.toNat 0).record ++ (s.me.tensor.acc x.tile.toNat 1).record →
    stores = ((List.range 22).drop s.progress).map (fun k =>
      SbEntry.store s.cur (a.toNat + 8 * k) ((bytes.drop (8 * k)).take 8)) →
    k = 16 - s.me.sb.length → s.me.sb.length ≤ 16 → k < stores.length →
    exec (.tsta x) s = .next (progressed (s.setMe { s.me with sb := s.me.sb ++ stores.take k }) (s.progress + k)).markIssued)
  ∧ (∀ (x : FormT) (s : State) (kind fmt sl h : Nat) (p : BxBlock × BitVec 7) (r : Quad × BitVec 36), Issues (.tout x) s →
    x.d.toNat < 24 → x.imm.getLsbD 3 = false → kind = x.af.toNat → (∀ h ∈ namedHalves x, HalfClean s.me x.tile.toNat h) →
    fmt = bxFmt kind s.me.tec →
    p = bxPack kind s.me.tec (s.me.tensor.acc x.tile.toNat (bitsOf x.imm 2 1)).values → sl = bitsOf x.imm 0 2 →
    h = (if kind = 0 then sl / 2 else sl) →
    r = packHalf kind fmt sl p.1 ((s.me.vreg x.d.toNat).extractLsb' (128 * h) 128)
      ((s.me.vtag x.d.toNat).extractLsb' (36 * h) 36) →
    exec (.tout x) s = .next (s.completed ((s.me.raiseFlags p.2).setVreg x.d.toNat
      (putBits (s.me.vreg x.d.toNat) (128 * h) 128 r.1.toNat) (putBits (s.me.vtag x.d.toNat) (36 * h) 36 r.2.toNat))))
  ∧ ∀ (x : FormT) (s : State) (kind fmt : Nat) (ps : List (BxBlock × BitVec 7)) (c : Core), Issues (.tout x) s →
    24 ≤ x.d.toNat → kind = x.af.toNat → (∀ h ∈ namedHalves x, HalfClean s.me x.tile.toNat h) → fmt = bxFmt kind s.me.tec →
    ps = (namedHalves x).map (fun h => bxPack kind s.me.tec (s.me.tensor.acc x.tile.toNat h).values) →
    TagOk s.me (s.me.qtag (x.d.toNat - 24)) → Room s.me (if kind = 0 then 1 else ps.length) →
    c = s.me.raiseFlags (ps.foldl (fun f p => f ||| p.2) 0) →
    exec (.tout x) s = .next (s.completed (c.pushed
      (toutFlits kind fmt (excNow c) (.ofNat 7 (s.me.qtag (x.d.toNat - 24))) (ps.map (·.1)))))

namespace Sys2Proof.Claims

/-! ## The adder lattice (10) -/

/-- The core with the adder lattice set. -/
def relatticed (c : Core) (t : Lattice) : Core := { c with lattice := t }

/-- Word k of a graph image passes its check, the header being word 0 (10 R331, R338). -/
def imageWordOk (t : Lattice) (g : GraphSpec) (k : Nat) (w : Word) : Bool :=
  if k = 0 then (headerReason t g w).isNone else (cellReason (k - 1) w).isNone

/-- The core once words of an image arrived for lglq; none where one fails its check (10 R339). -/
def imageWords (g : GraphSpec) : Core → List Word → Option Core
  | c, [] => some c
  | c, w :: ws =>
    let got := c.lattice.loading
    if got ≠ [] ∧ bitsOf (got.headD 0) 16 10 < got.length then some c
    else if imageWordOk c.lattice g got.length w then
      imageWords g (relatticed c { c.lattice with loading := got ++ [w] }) ws
    else none

/-- The core once lglq has taken every word of its image from queue n (10 R339); none where a flit is missing or refused. -/
def imageSteps (g : GraphSpec) (n : Nat) : Nat → Core → Option Core
  | 0, c => some c
  | k + 1, c =>
    let got := c.lattice.loading
    if got ≠ [] ∧ bitsOf (got.headD 0) 16 10 < got.length then some c
    else
      match c.queue n with
      | [] => none
      | f :: rest =>
        if c.half.getLsbD n || f.kind != 0 || decide (1 < f.fmt) then none
        else
          (imageWords g (c.popped n f rest)
            (f.payload.extractLsb' 0 64 :: if f.fmt = 1 then [f.payload.extractLsb' 64 64] else [])).bind
            (imageSteps g n k)

/-- The core once graph pg has run block b and its output is in the tile, or its first unit in the output queue, for lrun or
lrunv; the second unit of a queue sink is still to be pushed. none where the sink is full or a trap is due (10 R333-R335). -/
def blockRun (x : FormL) (b : BxBlock) (exc : Bool) (c : Core) : Option Core :=
  let pg := x.pg.toNat
  let d := x.d.toNat
  if (c.lattice.poisonIn pg).isSome || (rangeTrap c.lattice.lbnd (blockLanes b c.tec)).isSome then none
  else
    let r := runBlock c.lattice pg b c.tec
    if 24 ≤ d then
      if c.router.outq.length + 5 ≤ 8 then
        let fs := outFlits r (bitsOf x.imm 8 2) (exc || taints r.flags) (.ofNat 7 (c.qtag (d - 24)))
        let c1 := c.pushed ((fs.take 5).map (·.tainted (excNow c)))
        some (relatticed c1 { c1.lattice with rest := fs.drop 5 })
      else none
    else if c.tensor.poisoned (accWords d 0) 22 then none
    else
      let s0 := addBa40 (c.tensor.acc d 0) (r.out.getD 0 Ba40.zero)
      let s1 := addBa40 (c.tensor.acc d 1) (r.out.getD 1 Ba40.zero)
      some ((accSet c d s0.block s1.block).raiseFlags (s0.flags ||| s1.flags))

/-- The core with what the run of block b leaves once its outputs are all sent: RCNT and SCNT, the record for lstat, and the
flags (10 R333, R350). -/
def blockDone (x : FormL) (b : BxBlock) (c : Core) : Core :=
  let r := runBlock c.lattice x.pg.toNat b c.tec
  (relatticed c { c.lattice.counted r with last := some { taps := r.taps, exp := r.exp } }).raiseFlags r.flags

/-- The core after the second unit of a block was pushed, its EXC with that of the core now (02 R76). -/
def restPushed (c : Core) : Option Core :=
  if c.lattice.rest = [] then some c
  else if c.router.outq.length + 5 ≤ 8 then
    let c1 := c.pushed (c.lattice.rest.map (·.tainted (excNow c)))
    some (relatticed c1 { c1.lattice with rest := [] })
  else none

/-- The head of the input of lrun, and what removes it: the lattice input queue for sA 0, or queue sA (10 R347). -/
def lrunHead (x : FormL) (kind : Nat) (c : Core) : Option (Flit × (Core → Core)) :=
  if x.a = 0 then
    match c.lattice.inq with
    | [] => none
    | f :: rest => if bxFlit c kind f then
        some (f, fun c => (relatticed c { c.lattice with inq := rest }).consume f 0 5) else none
  else
    let n := x.a.toNat - 24
    match c.queue n with
    | [] => none
    | f :: rest => if !c.half.getLsbD n && bxFlit c kind f then some (f, fun c => dropped c n 5 f rest) else none

/-- The core after k steps of lrun from step i of n on (10 R347). -/
def lrunSteps (x : FormL) (n : Nat) : Nat → Nat → Core → Option Core
  | 0, _, c => some c
  | k + 1, i, c => do
    let kind := lgdKind (c.lattice.graph x.pg.toNat)
    let (f, pop) ← lrunHead x kind c
    let c1 ← if c.lattice.rest = [] then blockRun x (stepBlock kind i f) f.exc c else some c
    let c2 := blockDone x (stepBlock kind i f) (← restPushed c1)
    lrunSteps x n k (i + 1) (if stepPops kind i n then pop c2 else c2)

/-- The block of a vector register that lrunv runs (10 R347). -/
def lrunvBlock (x : FormL) (c : Core) : Option BxBlock :=
  let kind := lgdKind (c.lattice.graph x.pg.toNat)
  let sl := bitsOf x.imm 0 2
  let h := if kind = 0 then sl / 2 else sl
  let tag := bitsOf (c.vtag x.a.toNat) (36 * h) 36
  if isBx (tag / 2 ^ 32) && bxKind (tag / 2 ^ 32) == kind && bxTec (tag / 2 ^ 32) == c.tec then
    some ((bxBlocks kind ((c.vreg x.a.toNat).extractLsb' (128 * h) 128) (.ofNat 32 tag)).getD
      (if kind = 0 then sl % 2 else 0) bxZero)
  else none

/-- A graph is loaded at page pg. -/
def Loaded (c : Core) (pg : Nat) : Prop := (c.lattice.graph pg).getLsbD 63 = true

end Sys2Proof.Claims

/-- 10 R331, R338, R339, R346: lgl and lglq load a graph image whose words all pass their checks. -/
def Sys2Proof.Claims.GraphsLoad : Prop :=
  (∀ (x : FormL) (s s1 : State) (a : Word) (n : Nat) (bytes : List Byte) (words : List Word), Issues (.lgl x) s →
    a = s.me.reg x.a.toNat → TensorLoc s.me a 8 → TensorLoc s.me a (8 + 8 * n) →
    readBytes 8 ((List.range (n + 1)).map fun k => a.toNat + 8 * k) s = some (bytes, s1) →
    words = (List.range (n + 1)).map (fun k => .ofNat 64 (natOfBytes ((bytes.drop (8 * k)).take 8))) →
    n = bitsOf (words.headD 0) 16 10 → (∀ k ≤ n, imageWordOk s.me.lattice (graphSpec x) k (words.getD k 0) = true) →
    exec (.lgl x) s = .next (s1.completed (relatticed s.me (s.me.lattice.loadGraph (graphSpec x) words))))
  ∧ ∀ (x : FormL) (s : State) (c : Core), Issues (.lglq x) s →
    imageSteps (graphSpec x) (x.a.toNat - 24) 513 s.me = some c →
    c.lattice.loading ≠ [] → bitsOf (c.lattice.loading.headD 0) 16 10 < c.lattice.loading.length →
    exec (.lglq x) s = .next (s.completed (relatticed c (c.lattice.loadGraph (graphSpec x) c.lattice.loading)))

/-- 10 R333-R335, R345, R347: lrun and lrunv run a loaded graph on their blocks for an accumulator tile or a queue; where the
output queue has no room for the second unit of a block, the first stands and the step waits, its counts, its record and its flags
still to come: the model's choice, log 21 (DEDUCED). -/
def Sys2Proof.Claims.LatticeRunsBlocks : Prop :=
  (∀ (x : FormL) (s : State) (c : Core), Issues (.lrun x) s → ¬(x.a = 0 ∧ s.me.lattice.lsel.getLsbD 63 = true) →
    Loaded s.me x.pg.toNat → (24 ≤ x.d.toNat → TagOk s.me (s.me.qtag (x.d.toNat - 24))) →
    lrunSteps x (bitsOf x.imm 0 5) (bitsOf x.imm 0 5 - s.progress) s.progress s.me = some c →
    exec (.lrun x) s = .next (s.completed c))
  ∧ (∀ (x : FormL) (s : State) (c : Core) (f : Flit) (pop : Core → Core), Issues (.lrun x) s →
    ¬(x.a = 0 ∧ s.me.lattice.lsel.getLsbD 63 = true) → Loaded s.me x.pg.toNat → 24 ≤ x.d.toNat →
    TagOk s.me (s.me.qtag (x.d.toNat - 24)) → s.progress < bitsOf x.imm 0 5 → s.me.lattice.rest = [] →
    lrunHead x (lgdKind (s.me.lattice.graph x.pg.toNat)) s.me = some (f, pop) →
    blockRun x (stepBlock (lgdKind (s.me.lattice.graph x.pg.toNat)) s.progress f) f.exc s.me = some c →
    restPushed c = none →
    exec (.lrun x) s = .next ((s.setMe c).waiting (waitVal 2 0 ||| .ofNat 64 (s.progress * 2 ^ 24))))
  ∧ ∀ (x : FormL) (s : State) (b : BxBlock) (c1 c2 : Core), Issues (.lrunv x) s → Loaded s.me x.pg.toNat →
    (lgdKind (s.me.lattice.graph x.pg.toNat) = 0 ∨ bitsOf x.imm 0 2 < 2) →
    (24 ≤ x.d.toNat → TagOk s.me (s.me.qtag (x.d.toNat - 24))) → s.progress = 0 → lrunvBlock x s.me = some b →
    (if s.me.lattice.rest = [] then blockRun x b false s.me = some c1 else c1 = s.me) → restPushed c1 = some c2 →
    exec (.lrunv x) s = .next (s.completed (blockDone x b c2))

/-- 10 R331-R333: the cells of a graph are evaluated in order, each from the lanes and the cells before it and saturated to its
width; a tap is the exact sum of the cells that feed it, and SA is raised where an input or a cell saturated. -/
def Obligations.LatticeBlockComputes : Prop :=
  ∀ (t : Lattice) (pg : Nat) (b : BxBlock) (tec : Bool),
    let bound : Int := (bitsOf t.lbnd 0 8 : Nat)
    let raw := if b.special tec then List.replicate 16 0 else b.scaled tec
    let lanes := raw.map fun v => max (-bound) (min bound v)
    let cells := t.cellsOf pg
    let r := runBlock t pg b tec
    ∃ vals : List Int, vals.length = cells.length
      ∧ (∀ k (h : k < cells.length), vals[k]? = some (
          let v := cellOperand (vals.take k) lanes (bitsOf cells[k] 54 10) (bitsOf cells[k] 49 5) (cells[k].getLsbD 48)
            + cellOperand (vals.take k) lanes (bitsOf cells[k] 38 10) (bitsOf cells[k] 33 5) (cells[k].getLsbD 32)
          max (-2 ^ (cellWidth (bitsOf cells[k] 29 3) - 1)) (min (2 ^ (cellWidth (bitsOf cells[k] 29 3) - 1) - 1) v)))
      ∧ r.taps.length = 32
      ∧ (∀ n < 32, r.taps.getD n 0 = ((List.range cells.length).map fun k =>
          if (cells.getD k 0).getLsbD 28 ∧ bitsOf (cells.getD k 0) 23 5 = n then vals.getD k 0 else 0).sum)
      ∧ r.exp = b.e + signed 16 (bitsOf (t.graph pg) 32 16)
      ∧ r.high = raw.countP (fun v => decide (bound < v.natAbs))
      ∧ (r.high ≠ 0 ∨ r.sat ≠ 0 → r.flags &&& flagSA = flagSA)

/-- 10 R340, R348-R352: lsel, lsel.off, lbound, the three lstat, lfree, lfree.all and lsum. A freed page's cells hold free
values (log 9). -/
def Sys2Proof.Claims.LatticeControlResults : Prop :=
  (∀ (x : FormL) (s : State), Issues (.lsel x) s → Loaded s.me x.pg.toNat → TagOk s.me (bitsOf x.imm 0 7) →
    s.me.lattice.streamOut = [] → s.me.lattice.streamAt = 0 →
    exec (.lsel x) s = .next (s.completed (relatticed s.me { s.me.lattice with
      lsel := .ofNat 64 (2 ^ 63 + x.pg.toNat * 2 ^ 10 + bitsOf x.imm 8 2 * 2 ^ 8 + bitsOf x.imm 0 7) })))
  ∧ (∀ (x : FormL) (s : State), Issues (.lselOff x) s → s.me.lattice.streamOut = [] → s.me.lattice.streamAt = 0 →
    exec (.lselOff x) s = .next (s.completed (relatticed s.me { s.me.lattice with lsel := 0 })))
  ∧ (∀ (x : FormL) (s : State), Issues (.lbound x) s →
    exec (.lbound x) s = .next (s.completed (relatticed s.me { s.me.lattice with lbnd := .ofNat 9 (bitsOf x.imm 0 9) })))
  ∧ (∀ (x : FormL) (s : State) (c : Core), Issues (.lstatSt x) s →
    scalarWrite (if x.imm.getLsbD 2 then relatticed s.me { s.me.lattice with rcnt := 0, scnt := 0 } else s.me) x.d
      (.ofNat 64 (s.me.lattice.rcnt.toNat + s.me.lattice.scnt.toNat * 2 ^ 16
        + ((List.range 8).map fun p => if (s.me.lattice.owner p).isSome then 2 ^ (32 + p) else 0).sum
        + (if s.me.lattice.lsel.getLsbD 63 then 2 ^ 40 else 0) + s.me.lattice.inq.length * 2 ^ 44)) = some c →
    exec (.lstatSt x) s = .next (s.completed c))
  ∧ (∀ (x : FormL) (s : State) (v : Int) (c : Core), Issues (.lstatTap x) s →
    v = (match s.me.lattice.last with
      | some l => l.taps.getD x.ot.toNat 0
      | none => 0) →
    scalarWrite s.me x.d (.ofInt 64 v) = some c → exec (.lstatTap x) s = .next (s.completed c))
  ∧ (∀ (x : FormL) (s : State) (c : Core), Issues (.lstatExp x) s →
    scalarWrite s.me x.d (match s.me.lattice.last with
      | some l => .ofInt 64 (l.exp % 2 ^ 16 + 2 ^ 16)
      | none => 0) = some c →
    exec (.lstatExp x) s = .next (s.completed c))
  ∧ (∀ (x : FormL) (s : State) (t : Lattice), Issues (.lfree x) s →
    (∀ g, s.me.lattice.owner x.pg.toNat = some g → ¬(s.me.lattice.lsel.getLsbD 63 = true ∧ bitsOf s.me.lattice.lsel 10 3 = g)) →
    t = (match s.me.lattice.owner x.pg.toNat with
      | some g => s.me.lattice.freeGraph s.ticks g
      | none => s.me.lattice) →
    exec (.lfree x) s = .next (s.completed (relatticed s.me t)))
  ∧ (∀ (x : FormL) (s : State) (gs : List Nat), Issues (.lfreeAll x) s →
    gs = (List.range 8).filter (fun g => (s.me.lattice.graph g).getLsbD 63) →
    ¬(s.me.lattice.lsel.getLsbD 63 = true ∧ bitsOf s.me.lattice.lsel 10 3 ∈ gs) →
    exec (.lfreeAll x) s = .next (s.completed (relatticed s.me
      (gs.foldl (fun t g => t.freeGraph s.ticks g) s.me.lattice))))
  ∧ ∀ (x : FormL) (s : State) (a : Word) (digest : List Byte) (c : Core), Issues (.lsum x) s → a = s.me.reg x.a.toNat →
    TensorLoc s.me a 32 → Loaded s.me x.pg.toNat → s.me.lattice.poisonIn x.pg.toNat = none → s.me.sb.length + 4 ≤ 16 →
    digest = sha256 (s.me.lattice.image x.pg.toNat) →
    scalarWrite { s.me with sb := s.me.sb ++ (List.range 4).map (fun k =>
      SbEntry.store s.cur (a.toNat + 8 * k) ((digest.drop (8 * k)).take 8)) } x.d
      (.ofNat 64 (bitsOf (s.me.lattice.graph x.pg.toNat) 16 10)) = some c →
    exec (.lsum x) s = .next (s.completed c)

/-- 10 R341, R342: in a running region LATTICE_STREAM_BLOCK pushes the next unit of a block where there is room, with the EXC of
the core as it is sent; with nothing to push, a drain or stop flit goes on unchanged but for its tag, the next block of a flit
of the graph's format is run, and any other flit begins the freeze of the region. -/
def Sys2Proof.Claims.LatticeStreamRuns : Prop :=
  (∀ (lid : Nat) (s : State) (c : Core) (f : Flit) (fs : List Flit) (n : Nat), lid < coreCount → c = s.core lid →
    s.coreLive lid = true → c.live = true → c.lattice.streamOut = f :: fs → n = (if f.kind = 0 then 5 else 1) → Room c n →
    exec (.latticeStreamBlock lid) s = .next (s.setCore lid { c with
      router := { c.router with outq := c.router.outq ++ ((f :: fs).take n).map fun g =>
        if g.kind = 0 then g.tainted (c.fpFlags.getLsbD 6) else g }
      lattice := { c.lattice with streamOut := (f :: fs).drop n } }))
  ∧ (∀ (lid : Nat) (s : State) (c : Core) (f : Flit) (rest : List Flit), lid < coreCount → c = s.core lid →
    s.coreLive lid = true → c.live = true → c.lattice.streamOut = [] → c.lattice.lsel.getLsbD 63 = true →
    c.lattice.inq = f :: rest → f.kind = 3 ∨ f.kind = 6 →
    exec (.latticeStreamBlock lid) s = .next (s.setCore lid ((relatticed c { c.lattice with
      inq := rest, streamOut := [{ f with tag := c.lattice.lsel.extractLsb' 0 7 }] }).consumeNow f 0 5)))
  ∧ (∀ (lid : Nat) (s : State) (c : Core) (f : Flit) (rest : List Flit), lid < coreCount → c = s.core lid →
    s.coreLive lid = true → c.live = true → c.lattice.streamOut = [] → c.lattice.lsel.getLsbD 63 = true →
    c.lattice.inq = f :: rest → f.kind = 0 → streamReject c f = none →
    exec (.latticeStreamBlock lid) s = .next (s.setCore lid (c.streamFlit f rest)))
  ∧ (∀ (c : Core) (f : Flit) (rest : List Flit) (b : BxBlock) (r : BlockRun) (n : Nat), n = c.lattice.streamAt →
    (bxBlocks (lgdKind (c.lattice.graph (bitsOf c.lattice.lsel 10 3))) f.payload f.scale)[n]? = some b →
    r = runBlock c.lattice (bitsOf c.lattice.lsel 10 3) b c.tec →
    ∃ last, (last = true ↔ (bxBlocks (lgdKind (c.lattice.graph (bitsOf c.lattice.lsel 10 3))) f.payload f.scale).length = n + 1)
      ∧ (c.streamFlit f rest).lattice.streamOut = c.lattice.streamUnits f r last
      ∧ (c.streamFlit f rest).lattice.streamAt = (if last then 0 else n + 1)
      ∧ (c.streamFlit f rest).lattice.inq = if last then rest else c.lattice.inq)
  ∧ ∀ (lid : Nat) (s : State) (c : Core) (f : Flit) (rest : List Flit) (r : Region), lid < coreCount → c = s.core lid →
    c.live = true → s.regionOf lid = some r → r.st = .live → FirstFault r lid → c.lattice.streamOut = [] →
    c.lattice.lsel.getLsbD 63 = true → c.lattice.inq = f :: rest → f.kind ≠ 0 → f.kind ≠ 3 → f.kind ≠ 6 →
    ∃ t rec, exec (.latticeStreamBlock lid) s = .next t ∧ t.core lid = { c with halted := true }
      ∧ (∀ l, l ≠ lid → t.core l = s.core l)
      ∧ t.regions = s.regions.map (fun r' => if r'.id = r.id then freezing s r lid rec else r')
      ∧ rec.length = 8 ∧ bitsOf (rec.getD 0 0) 0 8 = causeQueue.toNat

namespace Sys2Proof.Claims

/-! ## What the task engine does by itself (05 R163-R169) -/

/-- A wait of a core that has reached WAIT_LIMIT cycles and is neither answered nor on a group that stands still (05 R160, R169;
11 R361). -/
def WaitedOut (s : State) (lid : Nat) (w : Wait) : Prop :=
  w.timed = true ∧ (s.core lid).answer = none
    ∧ (bitsOf w.val 0 4 = 7 → ∀ n g, s.groupOf lid (bitsOf w.val 8 3) = some (n, g) → g.stopped s = false)
    ∧ (if (s.core lid).waitLimit = 0 then 2 ^ 40 else (s.core lid).waitLimit.toNat)
        ≤ (s.cycle - BitVec.ofNat 64 w.start).toNat

/-! ## The crown tree (11) -/

/-- Channel ch of the executing core may be used: BGM.V, no failure and no mismatch awaits its trap, and the core is member m of
group g, whose number is n (11 R377). -/
def ChanOk (s : State) (ch : Nat) (m : Member) (n : Nat) (g : Group) : Prop :=
  s.me.bgm.getLsbD (8 * ch + 7) = true ∧ (s.me.chan ch).linkFail = none ∧ (s.me.chan ch).mis = none
    ∧ s.memberOf s.cur = some m ∧ s.groupOf s.cur ch = some (n, g)

/-- The state with group n set. -/
def regrouped (s : State) (n : Nat) (g : Group) : State := { s with groups := Table.put n g s.groups }

/-- The state in which the executing core, as core c, has contributed to group n on a channel (11 R355, R358). -/
def contributed (s : State) (c : Core) (ch : Nat) (m : Member) (n : Nat) (g : Group) (kind : TreeKind) (b : Bool)
    (count : Nat) : State :=
  let g' := g.contribute { who := m, bit := b, count, kind }
  (regrouped s n g').setMe (c.setChan ch { c.chan ch with out := some kind, seq := g'.seq, bpc := c.pc })

/-- The state of an instruction that waits in its second step, its first step standing (09 R307; 05 R169). -/
def heldAt (s : State) (n : Nat) (val : Word) : State :=
  let t := (progressed s n).markIssued
  t.setMe (t.me.noteWait s.inRpt s.cycle.toNat val true true)

/-- TRAP_VAL of a wait on a channel (05 R169). -/
def chanWait (ch : Nat) : Word := .ofNat 64 (7 + ch * 2 ^ 8)

/-- A barrier arrival may be made: the previous contribution is not outstanding and the release is performed (11 R364). -/
def ArrivalReady (s : State) (ch : Nat) (g : Group) : Prop :=
  (s.me.chan ch).out = none ∧ s.scopePerformed s.cur (if g.link.isSome then 4 else 3) = true

/-- The core that has taken barrier result w into sD (11 R364, R378). -/
def tookBarrier (c : Core) (x : FormB) : Core :=
  { c.setChan x.ch.toNat { c.chan x.ch.toNat with barrier := none } with oldWords := [] }

/-- The speculation that a collective branch begins (11 R366, R380). -/
def branchSpec (c : Core) (x : FormB) : Spec :=
  { ckpt := { regs := c.regs, flags := c.flags, vregs := c.vregs, vtags := c.vtags, preds := c.preds, ras := c.ras,
              rasSp := c.rasSp, pc := c.pc },
    ch := x.ch.toNat,
    predicted := if x.hn = 2 then c.bgm.getLsbD (8 * x.ch.toNat + 6) && c.predictor.getLsbD (bitsOf c.pc 3 3)
      else x.hn = 1,
    target := .ofInt 16 (c.pc.toNat + 8 * x.ofs.toInt), fall := c.pc + 8, held := [], flags := 0, count := 0,
    deferred := none }

/-- The bit that a collective branch contributes (11 R365). -/
def branchBit (c : Core) (x : FormB) (lanes : Bool) : Bool :=
  if lanes then
    let p := if x.pn = 1 then ~~~c.pred x.pr.toNat else c.pred x.pr.toNat
    if x.qf = 1 then p != 0 else p == 0xFF
  else c.flag x.c.toNat

/-- The contributions that count in the episode of a group: those of members that are not excused. -/
def counted (g : Group) : List Contribution := g.contribs.filter fun c => !g.excused.contains c.who

/-- The fields of a result word (11 R359): its AND, OR, COUNT, KIND and TAKEN where all contributions agree, and MIS where they
do not. -/
def ResultOf (cs : List Contribution) (seq : BitVec 32) (w : Word) : Prop :=
  w.extractLsb' 32 32 = seq
    ∧ (w.getLsbD 19 = true ↔ ∃ a ∈ cs, ∃ b ∈ cs, a.kind ≠ b.kind)
    ∧ (w.getLsbD 19 = false →
      bitsOf w 0 16 = min 65535 ((cs.map (·.count)).sum)
        ∧ w.getLsbD 16 = cs.all (·.bit) ∧ w.getLsbD 17 = cs.any (·.bit)
        ∧ bitsOf w 21 3 = (match (cs.head?).map (·.kind) with
          | none => 0
          | some .barrier => 1
          | some (.branch _) => 2
          | some .count => 3)
        ∧ w.getLsbD 18 = (match (cs.head?).map (·.kind) with
          | some (.branch true) => cs.any (·.bit)
          | some (.branch false) => cs.all (·.bit)
          | _ => false))

/-- A message that awaits core lid on a channel: the core's member, its group and the module without the message (11 R359). -/
def Awaits (s : State) (lid ch : Nat) (msg : TreeMsg) (s1 : State) : Prop :=
  lid < coreCount ∧ ch < 8 ∧ (∃ r, s.regionOf lid = some r ∧ (r.st = .live ∨ r.st = .draining))
    ∧ ∃ m n g, s.memberOf lid = some m ∧ s.groupOf lid ch = some (n, g) ∧ g.nextFor m = some msg
      ∧ s1 = regrouped s n { g with sending := g.sending.erase (m, msg) }

end Sys2Proof.Claims

/-- 05 R169: WAIT_TIMEOUT ends a wait that has reached WAIT_LIMIT with a trap whose TRAP_VAL is the wait's; the waiting
instruction has no effect on the core's registers. -/
def Sys2Proof.Claims.WaitTimeoutTraps : Prop :=
  ∀ (lid : Nat) (s : State) (c : Core) (w : Wait), lid < coreCount → s.runsTask lid = true → c = s.core lid →
    c.spec = none → c.midBody = false → c.rptWait = none → c.wait = some w → WaitedOut s lid w → HandlesTraps c →
    ∃ t, exec (.waitTimeout lid) s = .next t
      ∧ (t.core lid).trapCause = .ofNat 64 causeTimeout.toNat ∧ (t.core lid).trapVal = w.val ∧ (t.core lid).trapPc = c.pc
      ∧ (t.core lid).pc = c.trapVec &&& 0xFFF8 ∧ (t.core lid).prv = true ∧ (t.core lid).intrap = true
      ∧ (t.core lid).wait = none ∧ (t.core lid).regs = c.regs ∧ (t.core lid).vregs = c.vregs ∧ (t.core lid).sb = c.sb

/-- 05 R163-R165, R191; 08 R285: TRIGGER_FIRE fires the first ready entry of TRIG_ORDER, INBOX_TASK_CREATE binds the oldest
unbound message, each in its turn; INBOX_ACCEPT moves a whole message into the lowest free slot; a wait.until whose cycle has
come completes. -/
def Sys2Proof.Claims.TaskEventsHappen : Prop :=
  (∀ (lid : Nat) (s : State) (c : Core) (i n : Nat), lid < coreCount → s.picks lid = true → c = s.core lid → i < 16 →
    n = c.trigAt i → c.ready n = true → (∀ j < i, c.ready (c.trigAt j) = false) →
    (c.unbound = [] ∨ c.lastSource ≠ some true) →
    ∃ c', exec (.triggerFire lid) s = .next (s.setCore lid c')
      ∧ c'.runq = c.runq ++ [{ entry := (c.trigWord n 0).setWidth 16, origin := .ofNat 6 n, m0 := 0 }]
      ∧ c'.trigBusy = putBits c.trigBusy n 1 1 ∧ c'.lastSource = some true ∧ c'.regs = c.regs ∧ c'.inbox = c.inbox
      ∧ ((c.trigWord n 0).getLsbD 62 = false → c'.trigOrder = c.trigOrder)
      ∧ ((c.trigWord n 0).getLsbD 62 = true → bitsOf c'.trigOrder 60 4 = n)
      ∧ (c.runq ≠ [] → c'.pc = c.pc) ∧ (c.runq = [] → c'.pc = (c.trigWord n 0).setWidth 16))
  ∧ (∀ (lid : Nat) (s : State) (c : Core) (k : Nat) (rest : List Nat) (m : Msg), lid < coreCount → s.picks lid = true →
    c = s.core lid → c.unbound = k :: rest → Table.find c.inbox k = some m →
    (c.firstReady = none ∨ c.lastSource = some true) →
    ∃ c', exec (.inboxTaskCreate lid) s = .next (s.setCore lid c')
      ∧ c'.runq = c.runq ++ [{ entry := m.hdr.setWidth 16, origin := .ofNat 6 (16 + k), m0 := 0 }]
      ∧ c'.unbound = rest ∧ c'.lastSource = some false ∧ c'.inbox = c.inbox ∧ c'.regs = c.regs)
  ∧ (∀ (lid : Nat) (s : State) (c : Core) (h a b d : Flit) (k : Nat), lid < coreCount → s.coreLive lid = true →
    c = s.core lid → c.live = true → c.noTasks = false → c.router.asm = [h, a, b, d] → k < 16 → Table.find c.inbox k = none →
    (∀ j < k, Table.find c.inbox j ≠ none) →
    ∃ c', exec (.inboxAccept lid) s = .next (s.setCore lid c')
      ∧ Table.find c'.inbox k = some { hdr := h.payload.setWidth 64, words := [a, b, d].flatMap fun f =>
          [f.payload.setWidth 64, f.payload.extractLsb' 64 64] }
      ∧ c'.unbound = c.unbound ++ [k] ∧ c'.router.asm = [] ∧ c'.regs = c.regs ∧ c'.runq = c.runq
      ∧ (c'.fpFlags.getLsbD 6 = (c.fpFlags.getLsbD 6 || [h, a, b, d].any (·.exc))))
  ∧ ∀ (lid : Nat) (s s1 : State) (x : FormS3) (a : Word) (c1 c2 : Core), lid < coreCount → s.canIssue lid = true →
    (s.core lid).wait.isSome = true → decodeWord (s.wordAt lid) = .ok (.waitUntil x) →
    s1 = { s with cur := lid, inRpt := false } → Issues (.waitUntil x) s1 → scalarRead s1.me x.a = some (a, c1) →
    a.toNat ≤ s.cycle.toNat → scalarWrite c1 x.d s.cycle = some c2 →
    exec (.waitUntilCycleReached lid) s = .next (s1.completed c2)

/-- 11 R355, R358, R364, R378: barr contributes to its group's episode; bwait takes the result that has come, an acquire; barw
contributes, waits, and completes with the result. -/
def Sys2Proof.Claims.BarriersComplete : Prop :=
  (∀ (x : FormB) (s t : State) (m : Member) (n : Nat) (g : Group), Issues (.barr x) s → ChanOk s x.ch.toNat m n g →
    ArrivalReady s x.ch.toNat g →
    t = contributed s { s.me with oldWords := [] } x.ch.toNat m n g .barrier (s.me.flag x.c.toNat)
      (if s.me.flag x.c.toNat then 1 else 0) →
    exec (.barr x) s = .next (t.completed t.me))
  ∧ (∀ p ∈ ([(.bwait, false), (.barw, true)] : List ((FormB → Instr) × Bool)), ∀ (x : FormB) (s : State) (m : Member)
      (n : Nat) (g : Group) (w : Word) (c : Core),
    Issues (p.1 x) s → (p.2 = true → s.progress ≠ 0) → ChanOk s x.ch.toNat m n g →
    (s.me.chan x.ch.toNat).out ≠ some .barrier → (s.me.chan x.ch.toNat).barrier = some w →
    scalarWrite s.me x.d w = some c → exec (p.1 x) s = .next (s.completed (tookBarrier c x)))
  ∧ ∀ (x : FormB) (s t : State) (m : Member) (n : Nat) (g : Group), Issues (.barw x) s → s.progress = 0 →
    ChanOk s x.ch.toNat m n g → ArrivalReady s x.ch.toNat g →
    t = contributed s { s.me with oldWords := [] } x.ch.toNat m n g .barrier (s.me.flag x.c.toNat)
      (if s.me.flag x.c.toNat then 1 else 0) →
    exec (.barw x) s = .next (heldAt t 1 (chanWait x.ch.toNat))

/-- 11 R360, R379: bexcuse excuses the member from the episode in progress or the next one and completes with its result, or
traps GROUP_FAULT where that is MIS (R377), bgleave and bgjoin set and end a standing excusal, bmask sets another member's. -/
def Sys2Proof.Claims.ExcusalsComplete : Prop :=
  (∀ (x : FormB) (s t : State) (m : Member) (n : Nat) (g : Group), Issues (.bexcuse x) s → s.progress = 0 →
    ChanOk s x.ch.toNat m n g → ¬(g.inEp = true ∧ g.contributed m = true) → (s.me.chan x.ch.toNat).one = none →
    t = (regrouped s n (if g.inEp then { g with excused := m :: g.excused.filter (· != m) }
        else { g with once := m :: g.once.filter (· != m) })).setMe
      (s.me.setChan x.ch.toNat { s.me.chan x.ch.toNat with one := some g.seq, excuse := none }) →
    exec (.bexcuse x) s = .next (heldAt t 2 (chanWait x.ch.toNat)))
  ∧ (∀ (x : FormB) (s : State) (m : Member) (n : Nat) (g : Group) (w : Word) (c : Core), Issues (.bexcuse x) s →
    s.progress ≠ 0 → ChanOk s x.ch.toNat m n g → (s.me.chan x.ch.toNat).excuse = some w → w.getLsbD 19 = false →
    scalarWrite s.me x.d w = some c →
    exec (.bexcuse x) s = .next (s.completed (c.setChan x.ch.toNat { c.chan x.ch.toNat with excuse := none })))
  ∧ (∀ (x : FormB) (s : State) (m : Member) (n : Nat) (g : Group) (w : Word), Issues (.bexcuse x) s → s.inRpt = false →
    s.midBody = false → HandlesTraps s.me → s.progress ≠ 0 → ChanOk s x.ch.toNat m n g →
    (s.me.chan x.ch.toNat).excuse = some w → w.getLsbD 19 = true →
    exec (.bexcuse x) s = .next (s.setMe (trapped
      (s.me.setChan x.ch.toNat { s.me.chan x.ch.toNat with excuse := none }) causeGroup
      (.ofNat 64 (2 + x.ch.toNat * 2 ^ 8 + (w.extractLsb' 32 32).toNat * 2 ^ 32)) 0 s.me.pc)))
  ∧ (∀ (x : FormB) (s : State) (m : Member) (n : Nat) (g : Group), Issues (.bgleave x) s → ChanOk s x.ch.toNat m n g →
    exec (.bgleave x) s = .next ((regrouped s n { g with left := m :: g.left.filter (· != m) }).completed s.me))
  ∧ (∀ (x : FormB) (s : State) (m : Member) (n : Nat) (g : Group), Issues (.bgjoin x) s → ChanOk s x.ch.toNat m n g →
    g.standing m = true → ¬(g.inEp = true ∧ m ∈ g.excused) →
    exec (.bgjoin x) s = .next ((regrouped s n { g with
        left := g.left.filter (· != m), once := g.once.filter (· != m) }).completed
      (s.me.setChan x.ch.toNat { s.me.chan x.ch.toNat with one := none })))
  ∧ (∀ (x : FormB) (s : State) (m : Member) (n : Nat) (g : Group), Issues (.bgjoin x) s → ChanOk s x.ch.toNat m n g →
    g.standing m = false → exec (.bgjoin x) s = .next (s.completed s.me))
  ∧ ∀ (x : FormB) (s : State) (me m : Member) (n : Nat) (g : Group) (a : Word) (c1 c2 : Core), Issues (.bmask x) s →
    scalarRead s.me x.a = some (a, c1) → ChanOk s x.ch.toNat me n g → bitsOf a 20 43 = 0 →
    m = (me.1, bitsOf a 0 20) → m ∈ g.members → scalarWrite c1 x.d (if m ∈ g.masked then 1 else 0) = some c2 →
    exec (.bmask x) s = .next ((regrouped s n { g with
      masked := if a.getLsbD 63 then m :: g.masked.filter (· != m) else g.masked.filter (· != m) }).completed c2)

/-- 11 R365, R366, R380, R381: cbr and cbrv contribute their bit, take a checkpoint and go on along the predicted path; cbrres
delivers the latest outcome; tcount contributes the bit that says whether sA is not 0 and the count sA saturated at 65,535,
waits, and completes with the result word; specstat reads the statistics. -/
def Obligations.BranchesAndCountsComplete : Prop :=
  (∀ p ∈ ([(.cbr, false), (.cbrv, true)] : List ((FormB → Instr) × Bool)), ∀ (x : FormB) (s t : State) (m : Member)
      (n : Nat) (g : Group) (sp : Spec),
    Issues (p.1 x) s → s.inRpt = false → s.me.rpt = none → ChanOk s x.ch.toNat m n g → (s.me.chan x.ch.toNat).out = none →
    t = contributed s s.me x.ch.toNat m n g (.branch (x.bo == 1)) (branchBit s.me x p.2)
      (if branchBit s.me x p.2 then 1 else 0) →
    sp = branchSpec s.me x →
    exec (p.1 x) s = .next (t.setMe ({ t.me with spec := some sp }.jumped (if sp.predicted then sp.target else sp.fall))))
  ∧ (∀ (x : FormB) (s : State) (m : Member) (n : Nat) (g : Group) (c : Core), Issues (.cbrres x) s →
    ChanOk s x.ch.toNat m n g → (∀ or, (s.me.chan x.ch.toNat).out ≠ some (.branch or)) →
    scalarWrite s.me x.d (s.me.chan x.ch.toNat).branch = some c → exec (.cbrres x) s = .next (s.completed c))
  ∧ (∀ (x : FormB) (s t : State) (m : Member) (n : Nat) (g : Group) (a : Word) (c1 : Core), Issues (.tcount x) s →
    s.progress = 0 → scalarRead s.me x.a = some (a, c1) → ChanOk s x.ch.toNat m n g → (s.me.chan x.ch.toNat).out = none →
    t = contributed s s.me x.ch.toNat m n g .count (a != 0) (min a.toNat 65535) →
    exec (.tcount x) s = .next (heldAt
      (t.setMe (t.me.setChan x.ch.toNat { t.me.chan x.ch.toNat with result := none })) 1 (chanWait x.ch.toNat)))
  ∧ (∀ (x : FormB) (s : State) (m : Member) (n : Nat) (g : Group) (w a : Word) (c1 c2 : Core), Issues (.tcount x) s →
    s.progress ≠ 0 → ChanOk s x.ch.toNat m n g → (s.me.chan x.ch.toNat).result = some w →
    scalarRead s.me x.a = some (a, c1) →
    scalarWrite (c1.setChan x.ch.toNat { c1.chan x.ch.toNat with result := none }) x.d w = some c2 →
    exec (.tcount x) s = .next (s.completed c2))
  ∧ ∀ (x : FormB) (s : State) (c : Core), Issues (.specstat x) s →
    scalarWrite s.me x.d (.ofNat 64 (s.me.specCmt.toNat + s.me.specDis.toNat * 2 ^ 16 + s.me.specRun.toNat * 2 ^ 32
      + s.me.specHeld.toNat * 2 ^ 40)) = some c →
    exec (.specstat x) s = .next (s.completed c)

/-- 11 R358-R360: in a group of one module, once every member has contributed, is excused or has left with its region,
EPISODE_COMPLETE ends the episode: every member whose region has not ended is sent the result, with XSELF where it was excused,
and the next episode has the next SEQ. -/
def Obligations.EpisodesComplete : Prop :=
  ∀ (n : Nat) (s : State) (g : Group), Table.find s.groups n = some g → g.link = none → g.inEp = true →
    (∀ m ∈ g.members, g.contributed m = true ∨ m ∈ g.excused ∨ s.endedMember m = true) →
    ∃ t g' w, exec (.episodeComplete n) s = .next t ∧ Table.find t.groups n = some g' ∧ ResultOf (counted g) g.seq w
      ∧ w.getLsbD 20 = false
      ∧ g' = { g with
          seq := g.seq + 1, inEp := false, contribs := [], excused := [], sent := false, asked := false, partials := []
          sending := g.sending ++ (g.members.filter fun m => !s.endedMember m).map fun m =>
            (m, .result (if m ∈ g.excused then w ||| 0x100000 else w)) }
      ∧ t.cores = s.cores

/-- 11 R359, R368, R377: TREE_RESULT_ARRIVAL gives a core the result of the barrier or count that it has outstanding;
OUTCOME_ARRIVAL ends its speculation: on the predicted outcome the held stores and flags stand, on the other the checkpoint
comes back and the core goes the other way. -/
def Obligations.TreeMessagesArrive : Prop :=
  (∀ (lid ch : Nat) (s s1 : State) (w : Word) (k : Chan), Awaits s lid ch (.result w) s1 → k = (s.core lid).chan ch →
    k.out = some .barrier ∨ k.out = some .count → k.seq = w.extractLsb' 32 32 →
    ∃ t k', exec (.treeResultArrival lid ch) s = .next t ∧ (t.core lid).chan ch = k' ∧ k'.out = none
      ∧ (k.out = some .barrier → k'.barrier = some w) ∧ (k.out = some .count → k'.result = some w)
      ∧ (w.getLsbD 19 = true → w.getLsbD 20 = false → k'.mis = some k.seq)
      ∧ (t.core lid).regs = (s.core lid).regs ∧ t.groups = s1.groups)
  ∧ (∀ (lid ch : Nat) (s s1 : State) (w : Word) (k : Chan) (c : Core) (sp : Spec) (or : Bool),
    Awaits s lid ch (.result w) s1 → c = s.core lid → k = c.chan ch → k.out = some (.branch or) →
    k.seq = w.extractLsb' 32 32 → w.getLsbD 19 = false → w.getLsbD 20 = false → c.spec = some sp → sp.ch = ch →
    sp.ckpt.pc = k.bpc → sp.deferred = none → w.getLsbD 18 = sp.predicted →
    ∃ t, exec (.outcomeArrival lid ch) s = .next t ∧ (t.core lid).spec = none
      ∧ (t.core lid).sb = c.sb ++ sp.held.map (fun h => .store lid h.1 h.2)
      ∧ (t.core lid).fpFlags = c.fpFlags ||| sp.flags ∧ (t.core lid).regs = c.regs ∧ (t.core lid).pc = c.pc
      ∧ (t.core lid).specCmt = c.specCmt + 1)
  ∧ ∀ (lid ch : Nat) (s s1 : State) (w : Word) (k : Chan) (c : Core) (sp : Spec) (or : Bool),
    Awaits s lid ch (.result w) s1 → c = s.core lid → k = c.chan ch → k.out = some (.branch or) →
    k.seq = w.extractLsb' 32 32 → w.getLsbD 19 = false → w.getLsbD 20 = false → c.spec = some sp → sp.ch = ch →
    sp.ckpt.pc = k.bpc → w.getLsbD 18 ≠ sp.predicted →
    ∃ t, exec (.outcomeArrival lid ch) s = .next t ∧ (t.core lid).spec = none ∧ (t.core lid).sb = c.sb
      ∧ (t.core lid).fpFlags = c.fpFlags ∧ (t.core lid).regs = sp.ckpt.regs ∧ (t.core lid).flags = sp.ckpt.flags
      ∧ (t.core lid).vregs = sp.ckpt.vregs ∧ (t.core lid).ras = sp.ckpt.ras
      ∧ (t.core lid).pc = (if sp.predicted then sp.fall else sp.target) ∧ (t.core lid).specDis = c.specDis + 1

namespace Sys2Proof.Claims

/-! ## Atomics (12) -/

/-- The CLU atomics, the opcode of each, and the new value that each writes over an old value of w bits (12 R393). -/
def atomics : List ((FormA → Instr) × BitVec 8 × (Nat → Nat → Nat → Nat → Nat)) :=
  let s (w v : Nat) : Int := signed w v
  [(.aadd, 0xC0, fun w o b _ => (o + b) % 2 ^ w), (.aand, 0xC1, fun _ o b _ => o &&& b), (.aor, 0xC2, fun _ o b _ => o ||| b),
   (.axor, 0xC3, fun _ o b _ => o ^^^ b), (.amin, 0xC4, fun w o b _ => if s w b < s w o then b else o),
   (.amax, 0xC5, fun w o b _ => if s w o < s w b then b else o), (.aminn, 0xC6, fun _ o b _ => min o b),
   (.amaxn, 0xC7, fun _ o b _ => max o b), (.aswap, 0xC8, fun _ _ b _ => b),
   (.acas, 0xC9, fun _ o b c => if o = c then b else o), (.aincl, 0xCA, fun _ o b _ => if o < b then o + 1 else o)]

/-- The effective address and width in bytes of a CLU atomic (12 R391). -/
def atomicAddress (c : Core) (x : FormA) : Int := (c.reg x.a.toNat).toInt + x.disp.toInt
def atomicWidth (x : FormA) : Nat := if x.sz = 2 then 4 else 8

/-- The operands of a CLU atomic, and the core after they were read: B, and for acas C. -/
def atomicRead (c : Core) (x : FormA) (op : BitVec 8) : Option (Word × Word × Core) :=
  match scalarRead c x.b with
  | none => none
  | some (b, c1) => if op = 0xC9 then (scalarRead c1 x.c).map fun p => (b, p.1, p.2) else some (b, 0, c1)

/-- A CLU atomic that may go to address a of core lid's LOC: aligned, in range, not poisoned, and allowed where the region is
DET (12 R389-R392; 15 R460). -/
def AtomicOk (s : State) (x : FormA) (op : BitVec 8) (lid a : Nat) : Prop :=
  0 ≤ atomicAddress s.me x ∧ atomicAddress s.me x < 2 ^ 22 ∧ atomicAddress s.me x % atomicWidth x = 0
    ∧ (∃ ci, cluSplit (x.cm == 1) (atomicAddress s.me x).toNat = (ci, a) ∧ clusterMate s ci = some lid)
    ∧ (s.core lid).locPoisoned a (atomicWidth x) = false
    ∧ (s.me.det = true → op ≠ 0xC8 ∧ op ≠ 0xCA ∧ (x.d = 0 ∨ op = 0xC9)
      ∧ (op = 0xC9 → Table.get 0 (s.cluster (clusterOf s.cur)).detUsed s.cur ≠ s.detStep s.cur))
    ∧ (x.rl = 1 → s.scopePerformed s.cur x.sc.toNat = true)

/-- The state in which an acas of a DET core is noted as the step's (12 R390). -/
def notedAcas (s : State) (op : BitVec 8) : State :=
  if s.me.det = true ∧ op = 0xC9 then
    s.setCluster (clusterOf s.cur) { s.cluster (clusterOf s.cur) with
      detUsed := Table.set 0 s.cur (s.detStep s.cur) (s.cluster (clusterOf s.cur)).detUsed }
  else s

/-- A line request: opcode, home, address and width, operands, and whether a core waits for the answer (12 R385). -/
def lineRequest (op : BitVec 8) (home addr width : Nat) (b c : Word) (answered : Bool) : AtomReq :=
  { op, home, addr, width, b, c, dNonzero := answered, ft := 0, exc := false, ftz := false, pass := 0 }

/-- The state in which a request of the executing core stands at its engine: held with its step where it is an acas of a DET
core, else pending. -/
def requested (s : State) (r : AtomReq) : State :=
  let e := s.cluster (clusterOf s.cur)
  s.setCluster (clusterOf s.cur)
    (if s.me.det = true ∧ r.op = 0xC9 then
       { e with detHeld := Table.put s.cur r e.detHeld, detStep := Table.set 0 s.cur (s.detStep s.cur) e.detStep }
     else { e with lines := Table.put s.cur r e.lines })

/-- TRAP_VAL of a wait on the atomic engine (05 R169). -/
def atomicWait : Word := 6

/-- A cell number that a cell instruction may name (12 R392). -/
def CellAt (c : Core) (x : FormA) (n : Nat) : Prop := (c.reg x.a.toNat).toInt + x.disp.toInt = n ∧ n < 256

/-- The state in which the executing core, as core c, has a cell request pending (12 R385). -/
def cellRequested (s : State) (c : Core) (op : BitVec 8) (n : Nat) (b : Word) (ft : BitVec 2) (exc answer : Bool) : State :=
  let e := s.cluster (clusterOf s.cur)
  let r : AtomReq :=
    { op, home := s.cur, addr := n, width := 0, b, c := 0, dNonzero := answer, ft, exc, ftz := c.ftz, pass := 0 }
  s.setCluster (clusterOf s.cur) { e with cellReqs := Table.put s.cur r e.cellReqs }

/-- A core whose line request an engine may perform now: its region lets it, and the line is hot (12 R386). -/
def LineReady (s : State) (e : Cluster) (l : Nat) : Prop :=
  ∃ r, Table.find e.lines l = some r ∧ s.serves l = true ∧ r.line ∈ e.hot

/-- Choose of 12 R386: the oldest ready entry of the promotion queue, else the ready core with the lowest id. -/
def Chosen (s : State) (e : Cluster) (lid : Nat) : Prop :=
  LineReady s e lid
    ∧ ((∃ front rest, e.linePromo = front ++ lid :: rest ∧ ∀ l ∈ front, ¬LineReady s e l)
      ∨ ((∀ l ∈ e.linePromo, ¬LineReady s e l) ∧ ∀ l, LineReady s e l → l ≠ lid → s.serveKey lid < s.serveKey l))

/-- The requests that were passed over, one pass more for each, and the promotion queue behind them: at 64 passes one enters
it (12 R386). -/
def PassedOver (s : State) (e e' : Cluster) (lid : Nat) : Prop :=
  Table.find e'.lines lid = none
    ∧ (∀ l r, l ≠ lid → Table.find e.lines l = some r →
      ∃ r', Table.find e'.lines l = some r' ∧ (LineReady s e l → r' = { r with pass := r.pass + 1 })
        ∧ (¬LineReady s e l → r' = r))
    ∧ ∃ up, e'.linePromo = e.linePromo.filter (· != lid) ++ up
      ∧ ∀ l, l ∈ up ↔ l ≠ lid ∧ LineReady s e l ∧ ∃ r, Table.find e.lines l = some r ∧ r.pass + 1 = 64

/-- What the core of a performed line request has of it: the old value where an instruction waits for it, else its oldest buffered
access is gone (12 R385). -/
def Answered (s t : State) (lid : Nat) (r : AtomReq) : Prop :=
  (r.dNonzero = true → (t.core lid).answer = some (.ofNat 64 (performLine s r).1) ∧ (t.core lid).sb = (s.core lid).sb)
    ∧ (r.dNonzero = false → (t.core lid).sb = (s.core lid).sb.tail ∧ (t.core lid).answer = (s.core lid).answer)

/-- The core's engine has acknowledged its previous cell request (12 R385). -/
def CellFree (s : State) : Prop := Table.find (s.cluster (clusterOf s.cur)).cellReqs s.cur = none

end Sys2Proof.Claims

/-- 04 R141, R147; 12 R389-R393: a CLU atomic whose result nobody reads enters the store buffer; any other, the store buffer
being empty, goes to its engine and waits, and completes with the engine's answer. -/
def Sys2Proof.Claims.AtomicsCompleteWithTheirAnswer : Prop :=
  (∀ p ∈ atomics, ∀ (x : FormA) (s : State) (lid a : Nat) (b d : Word) (c : Core), Issues (p.1 x) s → s.progress = 0 →
    atomicRead s.me x p.2.1 = some (b, d, c) → AtomicOk s x p.2.1 lid a → x.d = 0 → x.aq = 0 → s.me.sb.length < 16 →
    exec (p.1 x) s = .next ((notedAcas s p.2.1).completed { ordered c (x.rl = 1) with
      sb := s.me.sb ++ [.atomic p.2.1 lid a (atomicWidth x) b d] }))
  ∧ (∀ p ∈ atomics, ∀ (x : FormA) (s : State) (lid a : Nat) (b d : Word) (c : Core), Issues (p.1 x) s → s.progress = 0 →
    atomicRead s.me x p.2.1 = some (b, d, c) → AtomicOk s x p.2.1 lid a → ¬(x.d = 0 ∧ x.aq = 0) → s.me.sb = [] →
    exec (p.1 x) s = .next (heldAt ((requested (notedAcas s p.2.1) (lineRequest p.2.1 lid a (atomicWidth x) b d true)).setMe
        (ordered s.me (x.rl = 1))) 1 atomicWait))
  ∧ ∀ p ∈ atomics, ∀ (x : FormA) (s : State) (b d w : Word) (c c1 : Core), Issues (p.1 x) s → s.progress ≠ 0 →
    atomicRead s.me x p.2.1 = some (b, d, c) → s.me.answer = some w → scalarWrite { c with answer := none } x.d w = some c1 →
    exec (p.1 x) s = .next (s.completed (ordered c1 (x.aq = 1)))

/-- 12 R393: a CLU atomic performed at its home delivers the old value and leaves the new one there; acas writes its operand
where the old value is the comparand, aincl adds 1 below its limit. -/
def Sys2Proof.Claims.AtomicsComputeTheirValue : Prop :=
  ∀ p ∈ atomics, ∀ (s : State) (r : AtomReq), r.op = p.2.1 → r.width = 4 ∨ r.width = 8 →
    let old := natOfBytes (cellsAt (s.core r.home).loc r.addr r.width)
    let new := p.2.2 (8 * r.width) old (r.b.toNat % 2 ^ (8 * r.width)) (r.c.toNat % 2 ^ (8 * r.width))
    (performLine s r).1 = old
      ∧ cellsAt ((performLine s r).2.core r.home).loc r.addr r.width = bytesOfNat r.width new
      ∧ (∀ k, k < r.addr ∨ r.addr + r.width ≤ k →
        Table.get 0 ((performLine s r).2.core r.home).loc k = Table.get 0 (s.core r.home).loc k)
      ∧ ∀ l, l ≠ r.home → (performLine s r).2.core l = s.core l

/-- 12 R384, R392, R394-R396: afadd sends its addend to a cell, with NV raised for a signalling NaN; afrd and afclr send their
request and complete with the answer and its flags, afclr into s0 at once; afence waits for the atomics before it. -/
def Sys2Proof.Claims.CellInstructionsComplete : Prop :=
  (∀ (x : FormA) (s : State) (b : Word) (c : Core) (n : Nat) (nv : Bool), Issues (.afadd x) s →
    scalarRead s.me x.b = some (b, c) → CellAt s.me x n → CellFree s →
    nv = (if x.ft = 0 then fpDecode fp32 c.ftz (bitsOf b 0 32) else fpDecode bf16 c.ftz (bitsOf b 0 16)).isSignalling →
    exec (.afadd x) s = .next ((cellRequested s c 0xCB n b x.ft (excNow c || nv) false).completed
      (if nv then c.raiseFlags flagNV else c)))
  ∧ (∀ p ∈ ([(.afrd, 0xCC), (.afclr, 0xCD)] : List ((FormA → Instr) × BitVec 8)), ∀ (x : FormA) (s : State) (n : Nat),
    Issues (p.1 x) s → (p.2 = 0xCD → x.d ≠ 0) → s.progress = 0 → CellAt s.me x n → CellFree s →
    exec (p.1 x) s = .next (heldAt (cellRequested s s.me p.2 n 0 0 false true) 1 atomicWait))
  ∧ (∀ p ∈ ([(.afrd, 0xCC), (.afclr, 0xCD)] : List ((FormA → Instr) × BitVec 8)), ∀ (x : FormA) (s : State) (w : Word)
      (c : Core),
    Issues (p.1 x) s → (p.2 = 0xCD → x.d ≠ 0) → s.progress ≠ 0 → s.me.answer = some w →
    scalarWrite ({ s.me with answer := none }.raiseFlags (w.extractLsb' 32 7)) x.d (.ofNat 64 (bitsOf w 0 32)) = some c →
    exec (p.1 x) s = .next (s.completed c))
  ∧ (∀ (x : FormA) (s : State) (n : Nat), Issues (.afclr x) s → x.d = 0 → CellAt s.me x n → CellFree s →
    exec (.afclr x) s = .next ((cellRequested s s.me 0xCD n 0 0 false false).completed s.me))
  ∧ ∀ (x : FormA) (s : State), Issues (.afence x) s → (∀ op l a w b d, .atomic op l a w b d ∉ s.me.sb) → CellFree s →
    exec (.afence x) s = .next (s.completed s.me)

/-- 12 R384, R394, R395: a cell adds finite values exactly, with no rounding, and counts them; reading it delivers the sum
rounded once to FP32, NaN where a NaN or both infinities came or the count is full. -/
def Sys2Proof.Claims.CellsAddExactly : Prop :=
  (∀ (v : BitVec 384) (neg : Bool) (m : Nat) (e : Int) (exc : Bool), -149 ≤ e →
    (-(2 ^ 319) ≤ cellK v + signedMag neg (m * 2 ^ (e + 149).toNat)
      ∧ cellK v + signedMag neg (m * 2 ^ (e + 149).toNat) < 2 ^ 319) →
    cellCnt v ≤ 2 ^ 42 →
    let v' := cellAdd v (.fin neg m e) exc
    (cellK v' : ℚ) = cellK v + (if neg then -1 else 1) * (m : ℚ) * 2 ^ (e + 149)
      ∧ cellCnt v' = min (cellCnt v + 1) (2 ^ 42) ∧ cellNan v' = cellNan v ∧ cellPinf v' = cellPinf v
      ∧ cellNinf v' = cellNinf v ∧ cellExc v' = (cellExc v || exc))
  ∧ ∀ (v : BitVec 384) (ftz : Bool),
    (cellNan v = true ∨ (cellPinf v = true ∧ cellNinf v = true) ∨ cellCnt v = 2 ^ 42 →
      (cellRead ftz v).1 = fp32.nan ∧ (cellRead ftz v).2.getLsbD 4 = true)
    ∧ (cellNan v = false → cellPinf v = false → cellNinf v = false → cellCnt v ≠ 2 ^ 42 → cellExc v = false →
      cellRead ftz v = fpRound fp32 0 ftz (decide (cellK v < 0)) false (cellK v).natAbs (-149))

/-- 04 R138, R147; 12 R385-R387, R390: STORE_BUFFER_PERFORM performs the oldest store of a core's buffer at its home, a hot
line in its turn, and no other byte changes; one whose turn is another's becomes a pending request; a buffered atomic goes to
the engine. ATOMIC_SERVE performs a pending cell request, and of the line requests whose lines are hot the oldest promoted
one, else that of the lowest id, and passes the others over; a lone request brings its line into the store first.
DET_ACAS_STEP performs the held acas of a step whose members are all there. -/
def Obligations.EnginesPerformRequests : Prop :=
  (∀ (lid home a : Nat) (s : State) (bytes : List Byte) (rest : List SbEntry), lid < coreCount → s.serves lid = true →
    (s.core lid).sb = .store home a bytes :: rest → (s.plainAccess lid home a).isSome = true →
    ∃ t, exec (.storeBufferPerform lid) s = .next t ∧ (t.core lid).sb = rest
      ∧ (∀ k (h : k < bytes.length), Table.get 0 (t.core home).loc (a + k) = bytes[k])
      ∧ (∀ l k, l ≠ home ∨ k < a ∨ a + bytes.length ≤ k → Table.get 0 (t.core l).loc k = Table.get 0 (s.core l).loc k)
      ∧ (∀ l, (t.core l).regs = (s.core l).regs) ∧ t.ext = s.ext)
  ∧ (∀ (lid home a w : Nat) (s : State) (op : BitVec 8) (b d : Word) (rest : List SbEntry), lid < coreCount →
    s.serves lid = true → (s.core lid).sb = .atomic op home a w b d :: rest →
    Table.find (s.cluster (clusterOf lid)).lines lid = none → Table.find (s.cluster (clusterOf lid)).detHeld lid = none →
    ∃ t, exec (.storeBufferPerform lid) s = .next t ∧ t.cores = s.cores
      ∧ Table.find (if op = 0xC9 ∧ (s.core lid).det = true then (t.cluster (clusterOf lid)).detHeld
          else (t.cluster (clusterOf lid)).lines) lid
        = some (lineRequest op home a w b d false))
  ∧ (∀ (lid home a : Nat) (s : State) (bytes : List Byte) (rest : List SbEntry), lid < coreCount → s.serves lid = true →
    (s.core lid).sb = .store home a bytes :: rest → s.plainAccess lid home a = none →
    ∃ t r, exec (.storeBufferPerform lid) s = .next t ∧ t.cores = s.cores
      ∧ Table.find (t.cluster (clusterOf home)).plain lid = some r ∧ r.line = (home, a / 64))
  ∧ (∀ (cl lid : Nat) (s : State) (e : Cluster) (r : AtomReq), cl < 16128 → e = s.cluster cl →
    Table.rising none e.lines = true → e.plain = [] → e.cellReqs = [] → (∀ p ∈ e.lines, p.2.line ∈ e.hot) →
    Chosen s e lid → Table.find e.lines lid = some r → (s.core r.home).locPoisoned r.addr r.width = false →
    ∃ t, exec (.atomicServe cl) s = .next t ∧ PassedOver s e (t.cluster cl) lid ∧ Answered s t lid r
      ∧ (t.core r.home).loc = ((performLine s r).2.core r.home).loc)
  ∧ (∀ (cl lid : Nat) (s : State) (e : Cluster) (r : AtomReq), cl < 16128 → e = s.cluster cl → e.lines = [(lid, r)] →
    e.plain = [] → e.cellReqs = [] → s.serves lid = true → (r.line ∈ e.hot ∨ e.hot.length < 64) →
    (s.core r.home).locPoisoned r.addr r.width = false →
    ∃ t, exec (.atomicServe cl) s = .next t ∧ (t.cluster cl).lines = [] ∧ r.line ∈ (t.cluster cl).hot ∧ Answered s t lid r
      ∧ (t.core r.home).loc = ((performLine s r).2.core r.home).loc)
  ∧ (∀ (cl lid : Nat) (s : State) (e : Cluster) (r : AtomReq), cl < 16128 → e = s.cluster cl → e.lines = [] →
    e.cellReqs = [(lid, r)] → s.serves lid = true → s.cellHeld cl r.addr = false → r.dNonzero = true →
    ∃ t, exec (.atomicServe cl) s = .next t ∧ (t.cluster cl).cellReqs = []
      ∧ Table.get 0 (t.cluster cl).cells r.addr = (performCell r (Table.get 0 e.cells r.addr)).2
      ∧ (t.core lid).answer = some (performCell r (Table.get 0 e.cells r.addr)).1)
  ∧ ∀ (cl lid : Nat) (s : State) (r : AtomReq), cl < 16128 → (s.cluster cl).detHeld = [(lid, r)] → s.serves lid = true →
    s.detReady cl ((s.cluster cl).heldStep lid) lid = true → (s.core r.home).locPoisoned r.addr r.width = false →
    ∃ t, exec (.detAcasStep cl) s = .next t ∧ (t.cluster cl).detHeld = [] ∧ Answered s t lid r
      ∧ (t.core r.home).loc = ((performLine s r).2.core r.home).loc

namespace Sys2Proof.Claims

/-! ## Mbapin Link (13) -/

/-- The KO of each lkcoll (13 R406). -/
def collectives : List ((FormK → Instr) × Nat) :=
  [(.lkcollBcast, 0), (.lkcollFsum, 1), (.lkcollIsum, 2), (.lkcollMin, 3), (.lkcollMax, 4), (.lkcollAnd, 5), (.lkcollOr, 6),
   (.lkcollCell, 7)]

/-- A link entry that the executing core may use (13 R405, R412). -/
def EntryOk (s : State) (ge : Nat) : Prop := s.geUsable s.jobTag ge = true

/-- The source and destination of a collective lie in LOC, aligned; for .cell the cells lie in the cluster (13 R417). -/
def SpansOk (ko fm : Nat) (a b : Word) (n : Nat) : Prop :=
  if ko = 7 then a.toNat + n ≤ 256
  else a.toNat % (if fm = 0 ∨ fm = 10 then 8 else 16) = 0 ∧ b.toNat % (if fm = 0 ∨ fm = 10 then 8 else 16) = 0
    ∧ a.toNat + n * unitSize ko fm ≤ 65536 ∧ b.toNat + n * unitSize ko fm ≤ 65536

/-- The collective that a lkcoll starts: read says whether its source was read at once (13 R408, R410, R417). -/
def startedColl (s : State) (x : FormK) (ko : Nat) (read : Bool) (units : List (List Byte)) : Collective :=
  { who := (s.memberOf s.cur).getD (0, 0), slot := bitsOf x.imm 0 2, job := s.jobTag, ge := x.ge.toNat,
    gkey := geKey (s.geWord s.jobTag x.ge.toNat 16), seq := s.geSeq s.jobTag x.ge.toNat, ko, fm := x.fm.toNat,
    wf := bitsOf x.imm 2 2, count := (s.me.reg x.c.toNat).toNat,
    dst := if ko = 7 then (s.me.reg x.a.toNat).toNat else (s.me.reg x.b.toNat).toNat, read, units, combined := 0, route := [],
    sentUp := false,
    ready := false, sentDown := false, flags := 0,
    exc := excNow s.me || (ko == 7 && units.any fun u => cellExc (.ofNat 384 (natOfBytes u))), fail := none, since := none }

/-- The core with collective slot k set, or freed, and its old token taken. -/
def reslotted (c : Core) (k : Nat) (v : Option CollSlot) : Core :=
  { c with
    colls := match v with
      | some v => Table.put k v c.colls
      | none => Table.erase k c.colls
    tokens := c.tokens.erase (.coll k) }

/-- L as lkstat.port gives it for port q: to the rank at the far end, or through a switch the largest to any rank that the rank
map reaches through the port (13 R418). -/
def latencyOf (m : Mgmt) (q : Nat) (p : LinkPort) : Nat :=
  if p.switch then ((m.rankmap.filter fun e => e.2.getLsbD q).map fun e => Table.get 0 p.lats e.1).foldl max 0
  else Table.get 0 p.lats p.rank

/-- A packet goes on from port to port out, another one, which last sent the packet last. -/
def GoesOn (s : State) (p : Packet) (h : Hop) (port out : Nat) (last : Option Packet) : Prop :=
  (h.oph = 0 ∨ h.oph = 3) ∧ (∃ n rest, p.hops = n :: rest ∧ portFor s n.rank p.chunk = some out) ∧ out ≠ port
    ∧ (s.port out).lastOut = last

/-- Port out of t has sent one frame of a type and body more than in s. -/
def SentOn (s t : State) (out ftype : Nat) (body : BitVec 448) : Prop :=
  ∃ fr, (t.port out).unacked = (s.port out).unacked ++ [fr] ∧ frType fr = ftype ∧ frBody fr = body
    ∧ frSeq fr = (s.port out).txNext

/-- A frame that a port keeps: the port is up, its CRC and its number are right (13 R401). -/
def Kept (s : State) (port ftype : Nat) (fr : BitVec 512) : Prop :=
  port < 96 ∧ (s.port port).up = true ∧ frCrc fr = crc32c (fr.extractLsb' 0 480) ∧ frType fr = ftype
    ∧ frSeq fr = (s.port port).rxNext

/-- Receipt of a frame: the next number, the acknowledged frames gone, the buffers returned and one more owed (13 R401). -/
def ReceiptOf (s t : State) (port : Nat) (fr : BitVec 512) : Prop :=
  (t.port port).rxNext = (s.port port).rxNext + 1 ∧ (t.port port).credits = (s.port port).credits + frCred fr

end Sys2Proof.Claims

/-- 13 R405, R410, R416-R419: lkgrp installs an entry that passes its checks, lkcoll starts a collective on a FREE slot with the
entry's SEQ, lkwait takes the token of a slot that is DONE, lkstat and lkseq read, lkseq.set writes the SEQ counter. -/
def Sys2Proof.Claims.LinkInstructionsComplete : Prop :=
  (∀ (x : FormK) (s s1 : State) (ge : Nat) (ws : List Word) (bytes : List Byte) (c : Core), Issues (.lkgrp x) s →
    ge = x.ge.toNat →
    LdlsAt 8 s ((List.range 20).map fun (k : Nat) => ((s.me.reg x.a.toNat).toNat : Int) + 8 * k) bytes s1 →
    ws = (List.range 20).map (fun k => .ofNat 64 (natOfBytes ((bytes.drop (8 * k)).take 8))) →
    s.hasLink s.jobTag = true → geOk s.mg.rank.toNat (s.geWord s.jobTag) (fun i => ws.getD i 0) = true →
    s.geBusy s.jobTag ge = false → scalarWrite s.me x.d (s.geWord s.jobTag ge 16) = some c →
    exec (.lkgrp x) s = .next ((s1.setGeWords s.jobTag ge (geInstall ws)).completed c))
  ∧ (∀ p ∈ collectives, ∀ (x : FormK) (s : State) (a b n : Word) (k ge fm : Nat) (read : Bool)
      (units : List (List Byte)), Issues (p.1 x) s → a = s.me.reg x.a.toNat → b = s.me.reg x.b.toNat →
        n = s.me.reg x.c.toNat → k = bitsOf x.imm 0 2 →
    ge = x.ge.toNat → fm = x.fm.toNat → x.ko.toNat = p.2 → (s.me.coll k).st = 0 → n ≠ 0 → n.toNat ≤ 4096 →
    SpansOk p.2 fm a b n.toNat → EntryOk s ge → geAllows (s.geWord s.jobTag ge 16) p.2 = true →
    ¬(p.2 = 1 ∧ geSched (s.geWord s.jobTag ge 16) = true) →
    (p.2 ≠ 7 → s.me.locPoisoned a.toNat (n.toNat * unitSize p.2 fm) = false) →
    (x.aq = 1 → s.scopePerformed s.cur x.sc.toNat = true) →
    read = !(p.2 == 7 && s.cellsBusy s.cur a.toNat n.toNat) →
    units = (if read then sourceUnits s p.2 fm a.toNat n.toNat else []) →
    exec (p.1 x) s = .next (((s.setGeWords s.jobTag ge [(17, (s.geSeq s.jobTag ge + 1).setWidth 64)]).setColl s.freshColl
      (startedColl s x p.2 read units)).completed
        (reslotted s.me k (some { st := 1, ge := x.ge, seq := s.geSeq s.jobTag ge, flags := 0, reason := 0 }))))
  ∧ (∀ (x : FormK) (s : State) (k : Nat) (v : CollSlot) (c : Core), Issues (.lkwait x) s → k = bitsOf x.imm 0 2 →
    Table.find s.me.colls k = some v → v.st = 2 → Token.coll k ∈ s.me.tokens →
    scalarWrite (reslotted s.me k none) x.d (.ofNat 64 (2 + v.flags.toNat * 2 ^ 8 + v.reason.toNat * 2 ^ 16
      + v.seq.toNat * 2 ^ 32)) = some c →
    exec (.lkwait x) s = .next (s.completed { c with fpFlags := c.fpFlags ||| v.flags, oldWords := [] }))
  ∧ (∀ (x : FormK) (s : State) (v : CollSlot) (c : Core), Issues (.lkstatSlot x) s →
    v = (Table.find s.me.colls (bitsOf x.imm 0 2)).getD { st := 0, ge := 0, seq := 0, flags := 0, reason := 0 } →
    scalarWrite s.me x.d (.ofNat 64 (v.st.toNat + v.flags.toNat * 2 ^ 8 + v.reason.toNat * 2 ^ 16 + v.seq.toNat * 2 ^ 32))
      = some c →
    exec (.lkstatSlot x) s = .next (s.completed c))
  ∧ (∀ (x : FormK) (s : State) (q : Nat) (p : LinkPort) (c : Core), Issues (.lkstatPort x) s →
    q = (s.me.reg x.a.toNat).toNat → q < 96 → p = s.port q →
    scalarWrite s.me x.d (.ofNat 64 (p.retries.toNat * 2 ^ 32 + (if p.switch then 2 else 0) + if p.up = false then 0
      else if p.switch then 1 + latencyOf s.mg q p % 2 ^ 16 * 2 ^ 16 else 1 + p.rank % 2 ^ 10 * 2 ^ 4 + latencyOf s.mg q p % 2 ^ 16 * 2 ^ 16))
      = some c →
    exec (.lkstatPort x) s = .next (s.completed c))
  ∧ (∀ (x : FormK) (s : State) (c : Core), Issues (.lkseq x) s → EntryOk s x.ge.toNat →
    scalarWrite s.me x.d (.ofNat 64 (bitsOf (s.geWord s.jobTag x.ge.toNat 17) 0 32)) = some c →
    exec (.lkseq x) s = .next (s.completed c))
  ∧ ∀ (x : FormK) (s : State) (c : Core), Issues (.lkseqSet x) s → EntryOk s x.ge.toNat →
    s.geBusy s.jobTag x.ge.toNat = false →
    scalarWrite s.me x.d (.ofNat 64 (bitsOf (s.geWord s.jobTag x.ge.toNat 17) 0 32)) = some c →
    exec (.lkseqSet x) s = .next ((s.setGeWords s.jobTag x.ge.toNat
      [(17, .ofNat 64 (bitsOf (s.me.reg x.a.toNat) 0 32))]).completed c)

/-- 13 R400, R401, R409, R411; 15 R461: a frame that its port keeps is received in order: a header makes its packet the
port's, a data frame joins its units to the packet's chunk, a crown frame for this rank is taken, a credit frame returns
buffers, and a header or data frame of a packet that passes on is sent to its next rank; LINK_FRAME_RESEND counts a retry for
every frame not acknowledged. The model's choices: the places of the fields of a data and of a crown frame and the codes of
the latter (logs 26 and 24, DESIGN CHOICE), that a crown frame of a group that is not here yet is kept (log 46), that frames
go on at once, and how retries are counted (log 37). -/
def Sys2Proof.Claims.LinkFramesAreReceived : Prop :=
  (∀ (port : Nat) (fr : BitVec 512) (s : State) (p : Packet) (h : Hop) (rest : List Hop), Kept s port 1 fr →
    packetOf (frBody fr) = p → p.hops = h :: rest → h.rank = s.mg.rank.toNat → h.oph = 1 ∨ h.oph = 2 →
    ∃ t, exec (.collectiveHeaderFrame port fr) s = .next t ∧ ReceiptOf s t port fr
      ∧ (t.port port).packet = some ({ p with hops := rest }, h) ∧ t.cores = s.cores)
  ∧ (∀ (port : Nat) (fr : BitVec 512) (s : State) (p : Packet) (h : Hop), Kept s port 2 fr →
    (s.port port).packet = some (p, h) → h.oph = 1 ∨ h.oph = 2 → s.arrivals.any (fun a => a.packet == p && a.hop == h) = false →
    ∃ t a, exec (.collectiveDataFrame port fr) s = .next t ∧ ReceiptOf s t port fr ∧ t.arrivals = s.arrivals ++ [a]
      ∧ a.packet = p ∧ a.hop = h ∧ a.bytes = bytesOfNat
          (16 * (bitsOf (frBody fr) 389 2 + 1) - if (frBody fr).getLsbD 400 then 8 else 0) (bitsOf (frBody fr) 0 384)
      ∧ a.exc = (frBody fr).getLsbD 388 ∧ t.cores = s.cores)
  ∧ (∀ (port out : Nat) (fr : BitVec 512) (s : State) (p : Packet) (h : Hop) (rest : List Hop) (last : Option Packet),
    Kept s port 1 fr → packetOf (frBody fr) = p → p.hops = h :: rest → h.rank = s.mg.rank.toNat →
    GoesOn s { p with hops := rest } h port out last → last ≠ some { p with hops := rest } →
    ∃ t, exec (.collectiveHeaderFrame port fr) s = .next t ∧ ReceiptOf s t port fr
      ∧ SentOn s t out 1 ({ p with hops := rest } : Packet).body ∧ t.cores = s.cores)
  ∧ (∀ (port out : Nat) (fr : BitVec 512) (s : State) (p : Packet) (h : Hop), Kept s port 2 fr →
    (s.port port).packet = some (p, h) → GoesOn s p h port out (some p) →
    ∃ t, exec (.collectiveDataFrame port fr) s = .next t ∧ ReceiptOf s t port fr ∧ SentOn s t out 2 (frBody fr)
      ∧ (h.oph = 0 → t.arrivals = s.arrivals) ∧ t.cores = s.cores)
  ∧ (∀ (port : Nat) (fr : BitVec 512) (s : State), Kept s port 3 fr → bitsOf (frBody fr) 103 10 = s.mg.rank.toNat →
    s.crownGroup (frBody fr) = none → s.crownIn = [] →
    ∃ t, exec (.crownPartialFrame port fr) s = .next t ∧ ReceiptOf s t port fr ∧ t.crownIn = [frBody fr] ∧ t.cores = s.cores)
  ∧ (∀ (port n : Nat) (fr : BitVec 512) (s : State) (g : Group), Kept s port 3 fr →
    bitsOf (frBody fr) 103 10 = s.mg.rank.toNat → s.crownGroup (frBody fr) = some (n, g) → s.crownIn = [] →
    bitsOf (frBody fr) 90 3 = 0 →
    ∃ t, exec (.crownPartialFrame port fr) s = .next t ∧ ReceiptOf s t port fr
      ∧ Table.find t.groups n = some { g with
        partials := Table.put (bitsOf (frBody fr) 93 10) (crownPartial (frBody fr)) g.partials })
  ∧ (∀ (port : Nat) (fr : BitVec 512) (s : State), Kept s port 4 fr →
    ∃ p, exec (.linkCreditFrame port fr) s = .next (s.setPort port p) ∧ p.credits = (s.port port).credits + frCred fr
      ∧ p.rxNext = (s.port port).rxNext + 1
      ∧ p.unacked = (match (s.port port).unacked.findIdx? (fun f => frSeq f == frAck fr) with
          | some i => (s.port port).unacked.drop (i + 1)
          | none => (s.port port).unacked))
  ∧ ∀ (port : Nat) (s : State), port < 96 → (s.port port).up = true →
    ∃ p, exec (.linkFrameResend port) s = .next (s.setPort port p)
      ∧ p.retries = (s.port port).retries + .ofNat 32 (s.port port).unacked.length
      ∧ p.unacked = (s.port port).unacked ∧ p.txNext = (s.port port).txNext

/-- 13 R406-R410, R412, R413: a .cell collective that another one held back reads its cells; a member combines the partial that
its next pair brings, lane by lane, and takes the route left in its packet; a collective whose result is there and sent on, or
that failed, writes its destination unless it failed, sets its slot and sends the completion token; one to which no port reaches
a member fails with REASON 5 after 2^20 cycles. -/
def Sys2Proof.Claims.CollectivesProgress : Prop :=
  (∀ (n lvl child : Nat) (s : State) (k : Collective) (pairs : List (Nat × Nat × Nat)) (us : List (List Byte)) (exc : Bool)
      (fl : BitVec 7) (route : List Hop),
    Table.find s.collectives n = some k → k.fail = none → k.read = true → k.ready = false →
    (∀ a ∈ s.arrived k, k.disagrees a = false) →
    k.received (s.arrived k) (fun a => a.hop.oph == 2 || a.hop.oph == 3) = none →
    pairs = (s.gePairs k.job k.ge).filter (fun p => p.2.1 == s.mg.rank.toNat) →
    pairs[k.combined]? = some (lvl, s.mg.rank.toNat, child) →
    k.received (s.arrived k) (fun a => a.hop.oph == 1 && a.hop.lvl == lvl % 16 && a.packet.src == child)
      = some (us, exc, fl, route) →
    ∃ t k', exec (.collectiveCombine n) s = .next t ∧ Table.find t.collectives n = some k'
      ∧ k'.units = (List.zipWith (combineUnit k.ko k.fm) k.units us).map (·.1) ∧ k'.combined = k.combined + 1
      ∧ k'.route = route ∧ (k.exc = true ∨ exc = true → k'.exc = true)
      ∧ t.cores = s.cores)
  ∧ (∀ (n lid : Nat) (s : State) (k : Collective) (us : List (List Byte)), Table.find s.collectives n = some k → k.fail = none →
    k.read = false → s.coreAt k.who = some lid → s.cellsBusy lid k.dst k.count = false →
    us = (List.range k.count).map (fun i => bytesOfNat 48 (Table.get 0 (s.cluster (clusterOf lid)).cells (k.dst + i)).toNat) →
    exec (.collectiveCombine n) s = .next (s.setColl n { k with
      read := true, units := us, exc := k.exc || us.any fun u => cellExc (.ofNat 384 (natOfBytes u)) }))
  ∧ (∀ (n lid : Nat) (s : State) (k : Collective), Table.find s.collectives n = some k → s.coreAt k.who = some lid →
    s.serves lid = true → k.fail.isSome = true ∨ (k.ready = true ∧ k.sentDown = true) →
    ∃ t v, exec (.collectiveComplete n) s = .next t ∧ t.tokens = s.tokens ++ [(lid, .coll k.slot)]
      ∧ t.collectives = Table.erase n s.collectives ∧ Table.find (t.core lid).colls k.slot = some v
      ∧ v.st = (if k.fail.isSome then 3 else 2) ∧ v.reason = k.fail.getD 0 ∧ v.seq = k.seq ∧ v.ge = .ofNat 8 k.ge
      ∧ (k.fail.isSome → (t.core lid).loc = (s.core lid).loc ∧ t.clusters = s.clusters)
      ∧ (k.fail = none → k.ko ≠ 7 → (t.core lid).loc = writeCells (s.core lid).loc k.dst k.units.flatten))
  ∧ (∀ (n : Nat) (s : State) (k : Collective) (r t0 : Nat), Table.find s.collectives n = some k →
    r ∈ membersOf (s.geWord k.job k.ge) → r ≠ s.mg.rank.toNat →
    (∀ p < 96, (Table.get 0 s.mg.rankmap r).getLsbD p = true → (s.port p).up = false) → k.fail = none →
    ¬(k.ready = true ∧ k.sentDown = true) →
    k.since = some t0 → t0 + 2 ^ 20 ≤ s.cycle.toNat →
    exec (.collectiveUnreachable n) s = .next (s.setColl n { k with fail := some 5 }))
  ∧ ∀ (n : Nat) (s : State) (k : Collective), Table.find s.collectives n = some k →
    (∀ r ∈ membersOf (s.geWord k.job k.ge), r ≠ s.mg.rank.toNat →
      ∃ p < 96, (Table.get 0 s.mg.rankmap r).getLsbD p = true ∧ (s.port p).up = true) →
    exec (.collectiveUnreachable n) s = .next (s.setColl n { k with since := none })

/-- 13 R407: the pairs of a plain entry form a binary tree over its members: every member but the lowest is combined into
another exactly once, and the lowest never. -/
def Sys2Proof.Claims.CollectiveTreeReachesEveryMember : Prop :=
  ∀ (ms : List Nat), ms.Nodup → ms.length ≤ 1024 →
    (∀ r ∈ ms, ((treePairs 0 ms).filter (fun p => p.2.2 == r)).length = if ms.head? = some r then 0 else 1)
      ∧ ∀ p ∈ treePairs 0 ms, p.2.1 ∈ ms ∧ p.2.2 ∈ ms ∧ ms.idxOf p.2.1 < ms.idxOf p.2.2
        ∧ ms.idxOf p.2.2 = ms.idxOf p.2.1 + 2 ^ p.1

namespace Sys2Proof.Claims

/-! ## Words written out from the spec's encodings (03 R81-R105 and the examples of the chapters) -/

def zS3 : FormS3 := ⟨0, 0, 0, 0, 0, 0, 0, 0, 0, 0, 0⟩
def zM : FormM := ⟨0, 0, 0, 0, 0, 0, 0, 0, 0, 0, 0, 0, 0⟩
def zV : FormV := ⟨0, 0, 0, 0, 0, 0, 0, 0, 0, 0, 0⟩
def zT : FormT := ⟨0, 0, 0, 0, 0, 0, 0, 0, 0, 0, 0, 0⟩
def zL : FormL := ⟨0, 0, 0, 0, 0, 0, 0, 0, 0, 0, 0⟩
def zQ : FormQ := ⟨0, 0, 0, 0, 0, 0, 0, 0, 0, 0, 0, 0⟩
def zB : FormB := FormB.ofWord 0
def zY : FormY := FormY.ofWord 0

/-- Words that the spec's examples give, with the instructions that they stand for. -/
def specWords : List (Word × Instr) :=
  [(0x3C00000000000000, .nop zS3),
   (0x03328BFFFFFFFFD8, .addi ⟨3, 5, 2, BitVec.ofInt 42 (-40)⟩),
   (0x2D039000A07FFFF0, .ldl { zM with d := 7, a := 4, sz := 2, sg := 1, disp := BitVec.ofInt 23 (-16) }),
   (0x28A00000FFFFFFFD, .jmp ⟨10, 0, BitVec.ofInt 32 (-3)⟩),
   (0x3201280DC0000000, .stx { zM with d := 2, a := 10, sc := 3, rl := 1, sz := 3 }),
   (0x3600000000088079, .rpt ⟨0, 0, 0, 0x88079⟩),
   (0x0101844000000000, .add { zS3 with d := 3, a := 1, b := 2 }),
   (0x2600110400000064, .cmpi ⟨0, 0, 4, 2, 2, 100⟩),
   (0x3403000000000032, .csrr { zS3 with d := 6, aux := 0x32 }),
   (0x3300000D00000000, .fence { zM with sc := 3, rl := 1 }),
   (0x4301844300800000, .vfma { zV with d := 3, a := 1, b := 2, c := 3, et := 8 }),
   (0x5000840304800002, .vcmp { zV with d := 1, a := 1, c := 3, qf := 1, et := 8, imm := 2 }),
   (0x5303044000800008, .vbxpack { zV with d := 6, a := 1, b := 2, et := 8, imm := 8 }),
   (0x7000240000000001, .sopen { zS3 with a := 9, aux := 1 }),
   (0x7603000000000032, .cbwait { zS3 with d := 6, aux := 0x32 }),
   (0x80001D0002002000, .sendw2 { zQ with a := 7, b := 8, tag := 1, fm := 4 }),
   (0x8502000000010000, .qdrop { zQ with d := 4, qn := 2 }),
   (0x8700140050000000, .rtset { zQ with a := 5, tag := 40 }),
   (0x8C00000022240003, .bankpass { zQ with tag := 17, sc := 1, rl := 1, imm := 3 }),
   (0x9000240004800004, .tldb { zT with a := 9, bt := 1, bf := 2, imm := 4 }),
   (0x990C800000000001, .tmovOut { zT with d := 25, imm := 1 }),
   (0xA000240000000000, .lgl { zL with a := 9 }),
   (0xA300800000000001, .lrun { zL with d := 1, imm := 1 }),
   (0xBB02980020000000, .tcount { zB with d := 5, a := 6, ch := 1 }),
   (0xB201000020000000, .barw { zB with d := 2, ch := 1 }),
   (0xD800000000000001, .trapretSkip { zY with code := 1 }),
   (0xD900000000008005, .haltRgn { zY with code := 0x8005 }),
   (0xDA00800000000005, .feat { zY with d := 1, code := 5 }),
   (0xDC01A40000008001, .syscallStep { zY with d := 3, a := 9, code := 0x8001 })]

/-! ## Frames -/

/-- t is s but for registers, flags and FP_FLAGS of the executing core and where it stands: every other register and every byte
of memory is as it was. -/
def OnlyRegisters (s t : State) : Prop :=
  t = s.setMe { s.me with
    regs := t.me.regs, flags := t.me.flags, fpFlags := t.me.fpFlags, pc := t.me.pc, wait := t.me.wait, progress := t.me.progress
    rpt := t.me.rpt, rptWait := t.me.rptWait, rptProgress := t.me.rptProgress, issued := t.me.issued
    rptIssued := t.me.rptIssued }
  ∧ (∀ a, Table.get 0 t.ext a = Table.get 0 s.ext a)
  ∧ ∀ lid a, Table.get 0 (t.core lid).loc a = Table.get 0 (s.core lid).loc a

/-- The guard of word w is read now: the word has not issued before, and no body word of the repeat buffer that comes before it
has still to write the flag (03 R82; 06 R207). -/
def ReadsGuard (s : State) (w : Word) : Prop :=
  s.hasIssued = false ∧ (s.inRpt = false → ∀ r, s.me.rpt = some r → r.writesGuard w = false)

/-- Form S3 with general registers in every field that an integer instruction or a fop reads or writes. -/
def plainS3 (x : FormS3) : Prop := x.d.toNat < 24 ∧ x.a.toNat < 24 ∧ x.b.toNat < 24 ∧ x.c.toNat < 24

end Sys2Proof.Claims

/-- 03 R80, R82, R103; 01 R40: where a core issues next and it may, a step fetches at its PC and executes what the word
decodes to, the word being kept while it stalls; without buffered stores or words fetched ahead that word is the one in LOC; a
step of its repeat buffer executes the next body word with its stride; an event that the schedule names happens; a core that
may not issue changes nothing. -/
def Obligations.StepRunsTheDecodedInstruction : Prop :=
  (∀ (s : State) (lid : Nat) (rest : List Move) (i : Instr) (w : Word), s.sched = .core lid :: rest →
    s.canIssue lid = true → s.anyExpired lid = false → (s.core lid).pc.toNat % 8 = 0 →
    (s.core lid).pc.toNat < (s.core lid).codeLim → (s.core lid).locPoisoned (s.core lid).pc.toNat 8 = false →
    w = (if (s.core lid).issued then (s.core lid).fetched else fetchWord s.tick lid (s.core lid).pc.toNat) →
    decodeWord w = .ok i →
    step s = exec i { s.setCore lid { s.core lid with fetched := w } with
      sched := rest, ticks := s.ticks + 1, cur := lid, inRpt := false })
  ∧ (∀ (s : State) (lid a : Nat), (s.core lid).sb = [] → (s.core lid).oldWords = [] →
    fetchWord s lid a = wordOfBytes (cellsAt (s.core lid).loc a 8))
  ∧ (∀ (s : State) (lid : Nat) (rest : List Move) (r : Rpt) (i : Instr), s.sched = .rpt lid :: rest →
    s.canIssue lid = true → s.anyExpired lid = false → (s.core lid).rpt = some r → decodeWord r.next = .ok i →
    step s = exec i { s with sched := rest, ticks := s.ticks + 1, cur := lid, inRpt := true })
  ∧ (∀ (s : State) (i : Instr) (rest : List Move), s.sched = .event i :: rest → isEvent i = true →
    step s = exec i { s with sched := rest, ticks := s.ticks + 1 })
  ∧ ∀ (s : State) (lid : Nat) (rest : List Move), s.sched = .core lid :: rest → s.canIssue lid = false →
    step s = .next { s with sched := rest, ticks := s.ticks + 1 }

/-- 03 R81-R105: words that the spec's examples write out decode to the instructions that they stand for. -/
def Obligations.DecodesTheSpecsWords : Prop := ∀ p ∈ specWords, decodeWord p.1 = .ok p.2

/-- 03 R80-R102: every well-formed instruction that has a word is decoded from its bytes, whatever follows them, with every
field at every value; a word of an unassigned OP decodes to the illegal-opcode row, and to nothing else. -/
def Obligations.DecodeOfEncodeIsTheInstruction : Prop :=
  (∀ (i : Instr) (rest : List Byte), i.wellFormed = true → i.word?.isSome = true →
    decodeBytes (encodeBytes i ++ rest) = .ok (i, rest))
  ∧ (∀ (w : Word) (i : Instr), decodeWord w = .ok i → i.word? = some w ∨ i = .illegalOpcode w)
  ∧ ∀ w : Word, decodeWord w = .ok (.illegalOpcode w) ↔ opAssigned (w.toNat / 2 ^ 56) = false

/-- Every step keeps the memories of the module in canonical form: addresses strictly rising, no listed byte equal to what an
unlisted one reads as. -/
def Obligations.StepKeepsCanonicalForm : Prop := ∀ s t : State, s.MemOk → step s = .next t → t.MemOk

/-- 05 R152, R155, R160, R162; 06 R196; 08 R269, R284; 14 R439; 15 R462: what reset leaves: registers and accumulators at 0, f0
true, the control registers at their reset values, no job, no region, CYCLE at 0, the memories canonical. -/
def Obligations.ResetStateHoldsTheResetValues : Prop :=
  (∀ lid n, (State.reset.core lid).reg n = 0 ∧ (State.reset.core lid).vreg n = 0)
  ∧ (∀ lid tile h, (State.reset.core lid).tensor.acc tile h = { elems := List.replicate 16 0, exp := -32768 })
  ∧ (∀ n < 8, (State.reset.core 0).flag n = decide (n = 0))
  ∧ (∀ p ∈ [(0x05, 0), (0x07, 0), (0x08, 0), (0x11, 0), (0x12, 1), (0x13, 2 ^ 27), (0x1D, 0), (0x20, 0), (0x21, 0), (0x22, 0),
      (0x23, 0), (0x24, 0), (0x25, 0), (0x26, 0), (0x27, 0), (0x28, 0), (0x30, 0), (0x35, 0), (0x40, 0xFEDCBA9876543210),
      (0x41, 0), (0x200, 0xFF), (0x210, 0x7F7F7F7F7F7F7F7F), (0x211, 0), (0x260, 0)],
    csrValue State.reset p.1 = BitVec.ofNat 64 p.2)
  ∧ State.reset.jobs = [] ∧ State.reset.regions = [] ∧ State.reset.mg.pcap = 28000 ∧ State.reset.MemOk

/-- 03 R82, R104: an instruction whose guard is false when it issues, no body word of a running repeat buffer having still to
write the flag, has no effect: it goes on to the next word, and on a path run ahead it counts as one instruction. -/
def Obligations.FalseGuardsHaveNoEffect : Prop :=
  (∀ (i : Instr) (s : State), i.word?.isSome = true → s.cur < coreCount → Permitted i s → s.me.spec = none →
    ReadsGuard s (wordOf i) → guardHolds s.me (wordOf i) = false → exec i s = .next (s.completed s.me))
  ∧ ∀ (i : Instr) (s : State) (sp : Spec), i.word?.isSome = true → s.cur < coreCount → Permitted i s →
    s.me.spec = some sp → sp.count < 64 → ReadsGuard s (wordOf i) → guardHolds s.me (wordOf i) = false →
    exec i s = .next (s.completed { s.me with spec := some { sp with count := sp.count + 1 } })

/-- 03 R101-R103, R105, R106: an instruction of a feature that the image does not declare traps FEATURE_ABSENT, and at task
privilege one of R101 traps PRIVILEGE, whatever its guard, with the word in TRAP_VAL; on a path run ahead the trap is deferred,
and the core waits on its channel. A word that is no instruction traps RESERVED_FIELD at its fetch. -/
def Obligations.ForbiddenInstructionsTrap : Prop :=
  (∀ (i : Instr) (s : State) (f : Nat), i.word?.isSome = true → s.cur < coreCount → s.inRpt = false → s.midBody = false →
    s.me.spec = none → HandlesTraps s.me → featureOf (wordOf i) = some f → s.me.dcl.getLsbD f = false →
    exec i s = .next (s.setMe (trapped s.me causeFeature (wordOf i) 0 s.me.pc)))
  ∧ (∀ (i : Instr) (s : State), i.word?.isSome = true → s.cur < coreCount → s.inRpt = false → s.midBody = false →
    s.me.spec = none → HandlesTraps s.me → (∀ f, featureOf (wordOf i) = some f → s.me.dcl.getLsbD f = true) →
    supervisorOnly (bitsOf (wordOf i) 56 8) = true → s.me.prv = false →
    exec i s = .next (s.setMe (trapped s.me causePrivilege (wordOf i) 0 s.me.pc)))
  ∧ (∀ (i : Instr) (s : State) (sp : Spec) (t : TrapInfo), i.word?.isSome = true → s.cur < coreCount → s.inRpt = false →
    s.midBody = false → s.me.spec = some sp → (∀ f, featureOf (wordOf i) = some f → s.me.dcl.getLsbD f = true) →
    supervisorOnly (bitsOf (wordOf i) 56 8) = true → s.me.prv = false →
    t = { code := causePrivilege, val := wordOf i, sub := 0 } →
    exec i s = .next (s.setMe ({ s.me with spec := some { sp with deferred := some (t, s.me.pc) } }.noteWait false s.cycle.toNat
      (chanWait sp.ch) true false)))
  ∧ ∀ (s : State) (lid : Nat) (rest : List Move) (w : Word) (e : DecodeError), s.sched = .core lid :: rest →
    s.canIssue lid = true → s.anyExpired lid = false → (s.core lid).pc.toNat % 8 = 0 →
    (s.core lid).pc.toNat < (s.core lid).codeLim → (s.core lid).locPoisoned (s.core lid).pc.toNat 8 = false →
    (s.core lid).spec = none → (s.core lid).midBody = false → HandlesTraps (s.core lid) →
    w = (if (s.core lid).issued then (s.core lid).fetched else fetchWord s.tick lid (s.core lid).pc.toNat) →
    decodeWord w = .error e →
    step s = .next ({ s with sched := rest, ticks := s.ticks + 1, cur := lid, inRpt := false }.setCore lid
      (trapped { s.core lid with fetched := w } causeReserved w 0 (s.core lid).pc))

/-- 05 R181-R184, R186: where they name general registers alone, the integer instructions and the fops, li, cmpi and the fop
compares among them, change nothing but sD, the flag that FD names, FP_FLAGS of a fop, and where the core stands; no byte of
memory changes. -/
def Obligations.FrameOfRegisterInstructions : Prop :=
  (∀ p ∈ twoOperand, ∀ (x : FormS3) (s t : State), Issues (p.1 x) s → plainS3 x → exec (p.1 x) s = .next t →
    OnlyRegisters s t ∧ t.me.flags = s.me.flags ∧ t.me.fpFlags = s.me.fpFlags
      ∧ ∀ n < 24, n ≠ x.d.toNat → t.me.reg n = s.me.reg n)
  ∧ (∀ i ∈ [Instr.clz, .ctz, .popc, .bext, .bins, .sel], ∀ (x : FormS3) (s t : State), Issues (i x) s → plainS3 x →
    exec (i x) s = .next t → OnlyRegisters s t ∧ t.me.flags = s.me.flags ∧ t.me.fpFlags = s.me.fpFlags
      ∧ ∀ n < 24, n ≠ x.d.toNat → t.me.reg n = s.me.reg n)
  ∧ (∀ p ∈ immediates, ∀ (x : FormSI) (s t : State), Issues (p.1 x) s → x.d.toNat < 24 → x.a.toNat < 24 →
    exec (p.1 x) s = .next t → OnlyRegisters s t ∧ t.me.flags = s.me.flags ∧ t.me.fpFlags = s.me.fpFlags
      ∧ ∀ n < 24, n ≠ x.d.toNat → t.me.reg n = s.me.reg n)
  ∧ (∀ (x : FormS3) (s t : State), Issues (.cmp x) s → plainS3 x → exec (.cmp x) s = .next t →
    OnlyRegisters s t ∧ t.me.fpFlags = s.me.fpFlags ∧ (∀ n < 8, n ≠ x.fd.toNat → t.me.flag n = s.me.flag n)
      ∧ ∀ n < 24, n ≠ x.d.toNat → t.me.reg n = s.me.reg n)
  ∧ (∀ (x : FormLI) (s t : State), Issues (.li x) s → x.d.toNat < 24 → exec (.li x) s = .next t →
    OnlyRegisters s t ∧ t.me.flags = s.me.flags ∧ t.me.fpFlags = s.me.fpFlags
      ∧ ∀ n < 24, n ≠ x.d.toNat → t.me.reg n = s.me.reg n)
  ∧ (∀ (x : FormC) (s t : State), Issues (.cmpi x) s → x.d.toNat < 24 → x.a.toNat < 24 → exec (.cmpi x) s = .next t →
    OnlyRegisters s t ∧ t.me.fpFlags = s.me.fpFlags ∧ (∀ n < 8, n ≠ x.fd.toNat → t.me.flag n = s.me.flag n)
      ∧ ∀ n < 24, n ≠ x.d.toNat → t.me.reg n = s.me.reg n)
  ∧ (∀ i ∈ fopTests.map (·.1), ∀ (x : FormS3) (s t : State), Issues (i x) s → plainS3 x → exec (i x) s = .next t →
    OnlyRegisters s t ∧ t.me.fpFlags &&& s.me.fpFlags = s.me.fpFlags
      ∧ (∀ n < 8, n ≠ x.fd.toNat → t.me.flag n = s.me.flag n) ∧ ∀ n < 24, n ≠ x.d.toNat → t.me.reg n = s.me.reg n)
  ∧ ∀ i ∈ fopOne.map (·.1) ++ fopTwo.map (·.1) ++ [Instr.fopFma], ∀ (x : FormS3) (s t : State), Issues (i x) s → plainS3 x →
    exec (i x) s = .next t → OnlyRegisters s t ∧ t.me.flags = s.me.flags ∧ t.me.fpFlags &&& s.me.fpFlags = s.me.fpFlags
      ∧ ∀ n < 24, n ≠ x.d.toNat → t.me.reg n = s.me.reg n

/-- 04 R138; 05 R187: stx changes the bytes of EXT that it stores to, at the device addresses of the translated address and
those behind it, and no other byte of EXT or of a LOC; stl and stc change none: their bytes wait in the store buffer
(EnginesPerformRequests). -/
def Obligations.StoresTouchOnlyTheirBytes : Prop :=
  (∀ (x : FormM) (s s1 s2 : State) (v : Word) (pa : Nat) (c1 : Core), Issues (.stx x) s →
    scalarRead s.me x.d = some (v, c1) → effective s.me x % 2 ^ x.sz.toNat = 0 →
    Translates s (effective s.me x) true pa s1 → ReleaseReady s x →
    extWrite s1 pa (bytesOfNat (2 ^ x.sz.toNat) v.toNat) = some s2 →
    ∃ t, exec (.stx x) s = .next t
      ∧ (∀ d, d ∉ deviceAddrs s.mg pa (2 ^ x.sz.toNat) → Table.get 0 t.ext d = Table.get 0 s.ext d)
      ∧ extBytes t pa (2 ^ x.sz.toNat) = bytesOfNat (2 ^ x.sz.toNat) v.toNat
      ∧ ∀ lid a, Table.get 0 (t.core lid).loc a = Table.get 0 (s.core lid).loc a)
  ∧ (∀ (x : FormM) (s : State) (v : Word) (lid a : Nat) (c1 : Core), Issues (.stc x) s → scalarRead s.me x.d = some (v, c1) →
    CluAccess s x (effective s.me x) (2 ^ x.sz.toNat) lid a → ReleaseReady s x → s.me.sb.length < 16 →
    ∃ t, exec (.stc x) s = .next t ∧ t.ext = s.ext
      ∧ ∀ lid' b, Table.get 0 (t.core lid').loc b = Table.get 0 (s.core lid').loc b)
  ∧ ∀ (x : FormM) (s : State) (v : Word) (c1 : Core), Issues (.stl x) s → scalarRead s.me x.d = some (v, c1) →
    LocAccess c1 (effective s.me x) (2 ^ x.sz.toNat) → ReleaseReady s x → s.me.sb.length < 16 →
    ∃ t, exec (.stl x) s = .next t ∧ t.ext = s.ext
      ∧ ∀ lid' b, Table.get 0 (t.core lid').loc b = Table.get 0 (s.core lid').loc b

namespace Sys2Proof.Claims

/-- What feat gives for a CODE on a core of region r of a leaf node (14 R447). -/
def featGives (s : State) (r : Region) (n : Node) (code : Nat) : Word :=
  match code with
  | 0 => csrValue s 0x06
  | 1 => .ofNat 64 (r.w + r.h * 2 ^ 16 + r.roleOf s.cur * 2 ^ 32)
  | 2 => 0x0200
  | 3 => .ofNat 64 (r.cfgseq + n.images.length * 2 ^ 8)
  | 4 => .ofNat 64 (r.x0 + r.y0 * 2 ^ 16 + r.part * 2 ^ 32)
  | _ => n.arg

/-- The core once halt has ended its work, the task t being over, with exit code e (14 R446). -/
def haltedCore (c : Core) (t : Task) (rest : List Task) (e : BitVec 15) (trig : Table Word) : Core :=
  { taskEnded c t rest with trig, noTasks := true, halted := true, exitCode := e }

/-- trig' is trig with EN, bit 63 of the first word of an entry, clear in each of the 16 entries (05 R162). -/
def TriggersOff (trig trig' : Table Word) : Prop :=
  ∀ n < 32, Table.get 0 trig' n
    = if n % 2 = 0 then Table.get 0 trig n &&& 0x7FFFFFFFFFFFFFFF else Table.get 0 trig n

end Sys2Proof.Claims

/-- 14 R446, R447, R449; 14 R437; 08 R287: the system instructions that speak to the field controller: halt; halt.rgn, whose
stop ends the region HALTED with the code of the lowest role once it has reached every core, after the cycle in which it
began; feat; syscall in its three uses. The model's choices: a NOTIFY record has CFGSEQ 0 and EXCW 0 (log 47, DEDUCED); halt
lets its stores go first and drops the queued tasks for good (log 49, DEDUCED). -/
def Obligations.SystemInstructionsComplete : Prop :=
  (∀ (x : FormY) (s : State) (t : Task) (rest : List Task), Issues (.halt x) s → s.inRpt = false → s.me.sb = [] →
    s.me.runq = t :: rest →
    ∃ trig c, TriggersOff s.me.trig trig ∧ c = haltedCore s.me t rest (x.code.setWidth 15) trig
      ∧ exec (.halt x) s = .next (s.setMe (c.jumped c.pc)))
  ∧ (∀ (x : FormY) (s : State) (t : Task) (rest : List Task) (r : Region), Issues (.haltRgn x) s → s.inRpt = false →
    s.me.sb = [] → s.me.runq = t :: rest → s.regionOf s.cur = some r →
    ∃ trig c, TriggersOff s.me.trig trig ∧ c = haltedCore s.me t rest s.me.exitCode trig
      ∧ exec (.haltRgn x) s = .next ((s.setRegion { r with
          halts := r.halts ++ [(r.roleOf s.cur, x.code.toNat % 2 ^ 15)], stopFrom := r.stopFrom.or (some s.cycle) }).setMe
            (c.jumped c.pc)))
  ∧ (∀ (s : State) (rest : List Move) (r : Region) (role code : Nat), s.sched = .stop r.id :: rest →
    s.regions.find? (·.id == r.id) = some r → (∃ t, r.stopFrom = some t ∧ t ≠ s.cycle) → r.gathered = [] → (r.halts.map (·.1)).Nodup →
    (role, code) ∈ r.halts → (∀ p ∈ r.halts, role ≤ p.1) → code < 2 ^ 15 →
    ∃ t r' e, step s = .next t ∧ t.regions.find? (·.id == r.id) = some r' ∧ r'.st = .empty ∧ r'.fault = r.fault
      ∧ r'.done = some e ∧ e.status = 6 ∧ e.info.toNat = code ∧ ∀ q ∈ s.regions, q.id ≠ r.id → q ∈ t.regions)
  ∧ (∀ (x : FormY) (s : State) (r : Region) (n : Node) (c1 : Core), Issues (.feat x) s → s.regionOf s.cur = some r →
    s.leafOf r = some n → scalarWrite s.me x.d (featGives s r n x.code.toNat) = some c1 →
    exec (.feat x) s = .next (s.completed c1))
  ∧ (∀ (x : FormY) (s : State) (a : Word) (c1 : Core), Issues (.syscall x) s → s.inRpt = false → HandlesTraps s.me →
    scalarRead s.me x.a = some (a, c1) →
    exec (.syscall x) s = .next (s.setMe (trapped c1 causeSyscall a x.code.toNat s.me.pc)))
  ∧ (∀ (x : FormY) (s : State) (r : Region) (j : Job) (a : Word)
    (p : Pending), Issues (.syscallNotify x) s →
    x.d.toNat < 24 → x.a.toNat < 24 → a = s.me.reg x.a.toNat → s.regionOf s.cur = some r → s.job r.job = some j →
    (s.queue j.queue).full = false →
    p = { words := recordWords r.job 4 0 0 (r.roleOf s.cur) a 0, ready := .now } →
    exec (.syscallNotify x) s
      = .next (State.completed (s.setQueue j.queue { s.queue j.queue with records := (s.queue j.queue).records ++ [p] })
          (s.me.setReg x.d.toNat 0)))
  ∧ ∀ (x : FormY) (s s1 : State) (r : Region) (n : Node) (v : Nat), Issues (.syscallStep x) s → x.d.toNat < 24 →
    x.a.toNat < 24 → s.regionOf s.cur = some r → s.leafOf r = some n →
    (if n.images.length ≤ r.cfgseq then v = 2 ∧ s1 = s
     else if r.step ≠ .none then v = 1 ∧ s1 = s else v = 0 ∧ s1 = s.setRegion { r with step := .requested }) →
    exec (.syscallStep x) s = .next (s1.completed (s.me.setReg x.d.toNat (.ofNat 64 v)))

namespace Sys2Proof.Claims

/-! ## Streams (07) -/

/-- The memory of a stream's next item, cut at page borders. -/
def itemPieces (c : StreamCtx) : List (Nat × Nat) := (c.places c.items).flatMap fun p => pagePieces p.1 p.2

/-- A stream of an engine that has not ended, with no stall. -/
def StreamAt (s : State) (eng ctx : Nat) (c : StreamCtx) : Prop :=
  eng < 48 ∧ ctx < 32 ∧ s.ctx eng ctx = some c ∧ c.ended = false ∧ c.stall = none

/-- No access of a stream's next item meets a page under migration (07 R247). -/
def PagesStand (s : State) (c : StreamCtx) : Prop :=
  ∀ r p, s.regionOf c.lid = some r → p ∈ c.places c.items → s.frozenPage r.job p.1 p.2 = false

/-- The first flit of fs may enter the mesh at j (07 R238; 08 R274). -/
def MayEnter (s : State) (c : StreamCtx) (j : Inject) : Prop :=
  s.injectOf c = some j ∧ (Table.get [] (s.core j.lid).router.ports (dirNum j.dir)).length < 2
    ∧ (c.beginsEntry = true → c.credits ≠ 0)

/-- t is s after the flit f of stream c entered the mesh at j, with rest of its item to come. -/
def Entered (s t : State) (eng ctx : Nat) (c : StreamCtx) (j : Inject) (f : Flit) (rest : List Flit) : Prop :=
  (∃ c', t.ctx eng ctx = some c' ∧ c'.got = rest ∧ c'.items = (if rest = [] then c.items + c.itemsPerGroup else c.items)
    ∧ c'.credits = if c.beginsEntry then c.credits - 1 else c.credits)
  ∧ Table.get [] (t.core j.lid).router.ports (dirNum j.dir)
      = Table.get [] (s.core j.lid).router.ports (dirNum j.dir) ++ [{ f with tag := BitVec.ofNat 7 j.inTag }]
  ∧ t.ext = s.ext

end Sys2Proof.Claims

/-- 07 R237-R240, R242, R257; 01 R17: the events of streams: a read stream reads its next item and sends its flits one by one; a
write stream writes the item that its flits carry; a stream ends when its items are done or it is closing, and its token reaches
its core; a stall that is due is walked again. -/
def Obligations.StreamEventsHappen : Prop :=
  (∀ (eng ctx : Nat) (s : State) (c c1 : StreamCtx) (ps : List (Nat × Nat)) (bytes : List Byte) (j : Inject) (f : Flit)
      (rest : List Flit), StreamAt s eng ctx c → c.dir ≠ 2 → c.got = [] → c.running = true → c.closing = false →
    c.items < c.total → s.streamsRun c = true → PagesStand s c →
    StreamCtx.xlateAll s (s.rootAt c.lid) false c (itemPieces c) = .pieces ps c1 → readPieces s ps = some bytes →
    c1.flitsOf c.items (splitBytes (c.places c.items) bytes) = f :: rest → MayEnter s c j →
    ∃ t, exec (.streamItemRead eng ctx) s = .next t ∧ Entered s t eng ctx c j f rest)
  ∧ (∀ (eng ctx : Nat) (s : State) (c : StreamCtx) (j : Inject) (f : Flit) (rest : List Flit), StreamAt s eng ctx c →
    c.dir ≠ 2 → c.got = f :: rest → s.streamsRun c = true → MayEnter s c j →
    ∃ t, exec (.streamItemRead eng ctx) s = .next t ∧ Entered s t eng ctx c j f rest)
  ∧ (∀ (eng ctx : Nat) (s s1 : State) (c c1 : StreamCtx) (ps : List (Nat × Nat)), StreamAt s eng ctx c → c.dir = 2 →
    c.flitsPerItem ≤ c.got.length → s.streamsFinish c = true → PagesStand s c →
    StreamCtx.xlateAll s (s.rootAt c.lid) true c (itemPieces c) = .pieces ps c1 →
    writePieces s ps (c1.bytesOf c.got).flatten = some s1 →
    exec (.streamItemWrite eng ctx) s
      = .next (s1.setCtx eng ctx { c1 with stall := none, got := [], items := c.items + c.itemsPerGroup }))
  ∧ (∀ (eng ctx : Nat) (s : State) (c : StreamCtx) (code : BitVec 2), StreamAt s eng ctx c → c.got = [] →
    s.streamsFinish c = true →
    (c.closing = true ∧ code = 2 ∨ c.closing = false ∧ c.running = true ∧ c.total ≤ c.items ∧ code = 1) →
    ∃ t c', exec (.streamEnd eng ctx) s = .next t ∧ t.ctx eng ctx = some c' ∧ c'.ended = true ∧ c'.endCode = code
      ∧ c'.items = c.items ∧ ((t.core c.lid).slot c.slot).st = .ended
      ∧ t.tokens = s.tokens ++ [(c.lid, .stream c.slot)] ∧ t.ext = s.ext)
  ∧ (∀ (lid : Nat) (s : State) (k : Token) (rest : List (Nat × Token)), lid < coreCount → s.tokens = (lid, k) :: rest →
    ∃ t, exec (.completionTokenArrival lid) s = .next t ∧ t.tokens = rest
      ∧ t.core lid = { s.core lid with tokens := (s.core lid).tokens ++ [k] }
      ∧ ∀ l, l ≠ lid → t.core l = s.core l)
  ∧ (∀ (eng ctx pa : Nat) (s : State) (c c1 : StreamCtx) (st : Stall), eng < 48 → ctx < 32 → s.ctx eng ctx = some c →
    c.ended = false → c.stall = some st → st.lastTry + 16384 ≤ s.cycle.toNat → s.streamsRun c = true →
    c.xlate s (s.rootAt c.lid) st.va st.write = .ok (pa, c1) →
    exec (.walkRetry (.stream eng ctx)) s = .next (s.setCtx eng ctx { c1 with stall := none }))
  ∧ (∀ (lid pa size : Nat) (w : Bool) (s : State) (x : ScalarStall), lid < coreCount → s.scalarStalls = [x] → x.lid = lid →
    x.stall.lastTry + 16384 ≤ s.cycle.toNat → s.coreLive lid = true →
    walk s (s.rootAt lid) x.stall.va x.stall.write = .leaf pa size w →
    exec (.walkRetry (.scalar lid)) s = .next { s with scalarStalls := [] })
  ∧ (∀ (eng : Nat) (s : State), eng < 48 → (s.brim eng).ctxs = [] → s.scalarStalls = [] →
    exec (.engineSleep eng) s = .next (s.setBrim eng { s.brim eng with asleep := true }))
  ∧ ∀ (eng : Nat) (s : State), eng < 48 →
    ∃ t, exec (.engineWake eng) s = .next t ∧ (t.brim eng).asleep = false
      ∧ ((s.brim eng).asleep = true → (t.brim eng).scalar = []) ∧ t.cores = s.cores ∧ t.ext = s.ext

namespace Sys2Proof.Claims

/-! ## The router (08) -/

/-- The flit f is the first of a port or of the output queue of core lid that belongs to a region whose flits move, those before
it standing still with their region; k is its position, and it uses a valid entry e without a delay queue (08 R267, R271, R287).
That it passes those before it is the model's choice, log 60 (DEDUCED). -/
def HeadsFor (s : State) (lid : Nat) (p : Place) (k : Nat) (f : Flit) (e : Word) : Prop :=
  lid < coreCount ∧ (p = .out ∨ ∃ d, p = .port d)
    ∧ (∃ r, s.nextAt lid p = some (k, ({ flit := f, entry := e } : Held), r))
    ∧ entV e = true ∧ f.kind ≠ 7 ∧ entDmd e = 0

/-- Entry e forwards f through output o alone, to sink k, which has room; no message holds the output, and the place has its
turn, in the order of log 61 (08 R268, R275; 01 R31). -/
def OneOutput (s : State) (lid : Nat) (p : Place) (f : Flit) (e : Word) (o : Nat) (k : Sink) : Prop :=
  outputsOf e = [o] ∧ sinkOf s lid { flit := f, entry := e } o = k ∧ k.room s lid (leaving e f) = true
    ∧ k.refuses s lid (leaving e f) = false ∧ s.passes lid p o = true ∧ s.hasTurn lid p [o] = true

/-- Core lid's router in t has the flits of place p that it has in s, but the one at position k. -/
def LeftFrom (s t : State) (lid : Nat) (p : Place) (k : Nat) : Prop :=
  (t.core lid).router.flits p = ((s.core lid).router.flits p).eraseIdx k

/-- An ordinary entry: OP 0 without REN (08 R271). -/
def plainEntry (e : Word) : Prop := entOp e = 0 ∧ entRen e = false

/-! ## BA40 arithmetic from the rules (02 R66, R68, R69; 08 R279) -/

/-- w is v / 2^k rounded to the nearest integer, a tie to the even one (02 R68). -/
def Rne (k : Nat) (v w : Int) : Prop := 2 * |v - w * 2 ^ k| ≤ 2 ^ k ∧ (2 * |v - w * 2 ^ k| = 2 ^ k → w % 2 = 0)

/-- The exponent with which a block takes part in alignment: −32768 for an all-zero one (02 R68). -/
def alignedAs (b : Ba40) : Int := if b.elems.all (· == 0) then -32768 else b.exp

/-- The end of AddBA40 (02 R68, R69) from the sums t at exponent g on: r is the result, sat whether it saturated. -/
def Renormalises : Nat → List Int → Int → Ba40 → Bool → Prop
  | 0, t, g, r, sat => (∀ v ∈ t, |v| < 2 ^ 38) ∧ r = { elems := t, exp := g } ∧ sat = false
  | n + 1, t, g, r, sat =>
    ((∀ v ∈ t, |v| < 2 ^ 38) ∧ r = { elems := t, exp := g } ∧ sat = false)
      ∨ ((∃ v ∈ t, 2 ^ 38 ≤ |v|)
        ∧ ((32767 ≤ g ∧ sat = true ∧ r = { elems := t.map fun v => v.sign * (2 ^ 38 - 1), exp := 32767 })
          ∨ (g < 32767 ∧ ∃ t', List.Forall₂ (Rne 1) t t' ∧ Renormalises n t' (g + 1) r sat)))

/-- AddBA40 (02 R68, R69): a + b is r. -/
def AddsTo (a b r : Ba40) (sat : Bool) : Prop :=
  ∃ g x y, g = max (alignedAs a) (alignedAs b) ∧ List.Forall₂ (Rne (g - alignedAs a).toNat) a.elems x
    ∧ List.Forall₂ (Rne (g - alignedAs b).toNat) b.elems y ∧ Renormalises 64 (List.zipWith (· + ·) x y) g r sat

/-- PreAlign (08 R279): b aligned to T is b'. -/
def PreAligns (t : Int) (b b' : Ba40) : Prop :=
  if b.elems.all (· == 0) = true ∨ t ≤ b.exp then b' = b
  else b'.exp = t ∧ List.Forall₂ (Rne (t - b.exp).toNat) b.elems b'.elems

/-- The fold of SumRound in round q (08 R279) over blocks in ascending CIX: from the running block run it gives r; T is the
running exponent at the start of the round. -/
def FoldsTo (q : Nat) (t : Int) : Option Ba40 → List Ba40 → Ba40 → Bool → Prop
  | run, [], r, sat => run = some r ∧ sat = false
  | run, b :: bs, r, sat =>
    ∃ b', (if q = 0 then b' = b else PreAligns t b b')
      ∧ match run with
        | none => FoldsTo q t (some b') bs r sat
        | some a => ∃ r1 s1 s2, AddsTo a b' r1 s1 ∧ FoldsTo q t (some r1) bs r s2 ∧ sat = (s1 || s2)

/-- The element field of a BA40 block: element j at bits 40j + 39 to 40j (02 R66). -/
def elementField (xs : List Int) : Nat := (xs.mapIdx fun j v => (v % 2 ^ 40).toNat * 2 ^ (40 * j)).sum

/-- A block of a SUM entry's slot as a BA40 block. -/
def blockOf (b : SumBlock) : Ba40 := { elems := b.elems, exp := b.exp }

end Sys2Proof.Claims

/-- 08 R267, R273, R275; 07 R250-R252: FLIT_FORWARD moves the first flit of a place whose region's flits move to the
neighbour's port or into the local queue, retagged as the entry says; CB_ENTRY_FLIT writes a flit into its circular buffer in
LOC, or sets ERR where its format is none that the consumer accepts; CB_CREDIT_ARRIVAL adds the credits to the producer. The
model's choices: such a flit passes those of a stopped region before it (log 60, DEDUCED), and where the turns of contending
places begin (log 61, DEDUCED). -/
def Obligations.FlitsAreForwarded : Prop :=
  (∀ (lid o n d i : Nat) (p : Place) (s : State) (f : Flit) (e : Word), HeadsFor s lid p i f e → plainEntry e →
    OneOutput s lid p f e o (.port n d) → n ≠ lid →
    ∃ t, exec (.flitForward lid p) s = .next t ∧ LeftFrom s t lid p i
      ∧ Table.get [] (t.core n).router.ports d = Table.get [] (s.core n).router.ports d ++ [leaving e f]
      ∧ (∀ l, l ≠ lid → l ≠ n → t.core l = s.core l) ∧ t.ext = s.ext)
  ∧ (∀ (lid n i : Nat) (p : Place) (s : State) (f : Flit) (e : Word), HeadsFor s lid p i f e → plainEntry e →
    OneOutput s lid p f e 4 (.queue n) →
    ∃ t, exec (.flitForward lid p) s = .next t ∧ LeftFrom s t lid p i
      ∧ (t.core lid).queue n = (s.core lid).queue n ++ [leaving e f]
      ∧ (t.core lid).regs = (s.core lid).regs ∧ (t.core lid).loc = (s.core lid).loc
      ∧ (∀ l, l ≠ lid → t.core l = s.core l) ∧ t.ext = s.ext)
  ∧ (∀ (lid n i : Nat) (p : Place) (s : State) (f : Flit) (e : Word) (b : CbCtx) (a : Nat),
    HeadsFor s lid p i f e → plainEntry e → OneOutput s lid p f e 4 (.buffer n) → Table.find (s.core lid).cbs n = some b →
    a = b.base + 16 * (b.tail * b.esz + b.pos) →
    ∃ t b', exec (.cbEntryFlit lid p) s = .next t ∧ LeftFrom s t lid p i
      ∧ cellsAt (t.core lid).loc a 16 = bytesOfNat 16 f.payload.toNat
      ∧ (∀ k, k < a ∨ a + 16 ≤ k → Table.get 0 (t.core lid).loc k = Table.get 0 (s.core lid).loc k)
      ∧ Table.find (t.core lid).cbs n = some b'
      ∧ (if b.pos + 1 = b.esz then b'.pos = 0 ∧ b'.count = b.count + 1 ∧ b'.tail = (b.tail + 1) % b.nent
         else b'.pos = b.pos + 1 ∧ b'.count = b.count ∧ b'.tail = b.tail))
  ∧ (∀ (lid n i : Nat) (p : Place) (s : State) (f : Flit) (e : Word) (b : CbCtx), HeadsFor s lid p i f e →
    plainEntry e → outputsOf e = [4] → sinkOf s lid { flit := f, entry := e } 4 = .buffer n → Table.find (s.core lid).cbs n = some b →
    bufferAccepts f.fmt = false →
    exec (.cbEntryFlit lid p) s = .next (s.setCore lid { s.core lid with
      cbs := Table.put n { b with err := some (BitVec.ofNat 4 f.fmt) } (s.core lid).cbs }))
  ∧ ∀ (lid n i : Nat) (p : Place) (s : State) (f : Flit) (e : Word) (b : CbCtx), HeadsFor s lid p i f e → plainEntry e →
    OneOutput s lid p f e 4 (.bufferCredit n) → Table.find (s.core lid).cbs n = some b →
    ∃ t, exec (.cbCreditArrival lid p) s = .next t ∧ LeftFrom s t lid p i
      ∧ Table.find (t.core lid).cbs n = some { b with count := b.count + f.payload.toNat % 2 ^ 64 }

/-- 08 R278-R280, R282, R283; 02 R66, R68, R69: SUM_ROUND makes a result of the blocks in every slot, I32 contributions adding modulo 2^32; BA40
and BX blocks by AddBA40 in ascending CIX, pre-aligned from the second round on, the last round's result going as five parts
and any other leaving the running block and, for REN, a RENORM flit; SUM_CONTROL_FLIT makes one flit of the drain or stop
flits in every slot; RENORM_RECORD writes the record of the data tag, but for a block that has left; WIDTH_ADAPT repacks a BX
flit of another width than its entry's. The model's choices: the flit taken of a place is that of log 60, a block that a
record governs is gathered (log 62), both DEDUCED, and the TEC of a BX4 pair of different settings is free (log 63). -/
def Obligations.EntriesCombineFlits : Prop :=
  (∀ (lid tag : Nat) (s : State) (r : Region) (e : Word) (bs : List (SumBlock × Option SumBlock)),
    lid < coreCount → tag < 128 → s.ownerOf lid tag = some r → r.moving = true → e = (s.core lid).route tag →
    entV e = true → entOp e = 1 → ((s.core lid).router.sum tag).formed = [] →
    ((s.core lid).router.sum tag).blocks (entArg e + 1) = some bs →
    ∃ t, exec (.sumRound lid tag) s = .next t
      ∧ (t.core lid).router.sum tag = sumRoundOn ((s.core lid).router.sum tag) tag e bs
      ∧ ∀ l, l ≠ lid → t.core l = s.core l)
  ∧ (∀ (t : Nat) (e : Word) (slots : Table SumSlot) (bs : List SumBlock), entAcc e = 0 → bs ≠ [] →
    (∀ b ∈ bs, b.isI32 = true ∧ b.elems.length = 4 ∧ b.bxTec = none) →
    ∃ f, sumRoundOn { SumState.reset with slots } t e (bs.map fun b => (b, none))
        = { SumState.reset with formed := [{ flit := f, entry := e }] }
      ∧ f.fmt = 2 ∧ f.kind = 0 ∧ f.exc = bs.any (·.exc) ∧ f.rel = bs.any (·.rel)
      ∧ ∀ j < 4, (bitsOf f.payload (32 * j) 32 : Int) = (bs.map fun b => b.elems.getD j 0).sum % 2 ^ 32)
  ∧ (∀ (t : Nat) (e : Word) (sm sm' : SumState) (bs : List (SumBlock × Option SumBlock)) (r : Ba40) (sat : Bool), bs ≠ [] →
    (∀ b ∈ bs, b.1.isI32 = false ∧ b.1.elems.length = 16) → (∀ b, sm.run = some b → b.elems.length = 16) →
    (sm.run = none ↔ sm.q = 0) → -32768 ≤ r.exp → r.exp ≤ 32767 →
    FoldsTo sm.q ((sm.run.map (·.exp)).getD 0) (sm.run.map blockOf) (bs.map fun b => blockOf b.1) r sat →
    sm' = sumRoundOn sm t e bs →
    (sm.q = entAcc e → sm'.q = 0 ∧ sm'.run = none ∧ sm'.formed.length = 5
      ∧ ∀ p < 5, ∃ h f, sm'.formed[p]? = some h ∧ f = h.flit ∧ h.entry = e ∧ f.fmt = 10 ∧ f.kind = 0 ∧ f.tag.toNat = t % 128
        ∧ f.payload.toNat = elementField r.elems / 2 ^ (128 * p) % 2 ^ 128 ∧ (bitsOf f.side 0 16 : Int) = r.exp % 2 ^ 16
        ∧ f.exc = (sm.exc || sat || bs.any (·.1.exc)) ∧ f.rel = (sm.rel || bs.any (·.1.rel)))
    ∧ (sm.q ≠ entAcc e → sm'.q = sm.q + 1 ∧ sm'.run.map blockOf = some r
      ∧ sm'.exc = (sm.exc || sat || bs.any (·.1.exc)) ∧ sm'.rel = (sm.rel || bs.any (·.1.rel))
      ∧ (entRen e = false → sm'.formed = [])
      ∧ (entRen e = true → ∃ h, sm'.formed = [h] ∧ h.entry = e ∧ h.flit.kind = 2 ∧ h.flit.tag.toNat = entAtag e
        ∧ (bitsOf h.flit.payload 0 16 : Int) = r.exp % 2 ^ 16 ∧ (sm.q < 4095 → bitsOf h.flit.payload 16 12 = sm.q + 1))))
  ∧ (∀ (lid tag : Nat) (s : State) (r : Region) (e : Word) (sm : SumState) (f : Flit) (fs : List Flit), lid < coreCount →
    tag < 128 → s.ownerOf lid tag = some r → r.moving = true → e = (s.core lid).route tag → entV e = true → entOp e = 1 →
    sm = (s.core lid).router.sum tag → sm.formed = [] → (f :: fs).length = entArg e + 1 →
    (∀ k < entArg e + 1, Table.find sm.slots k = ((f :: fs)[k]?).map .ctl) →
    ∃ t g, exec (.sumControlFlit lid tag) s = .next t
      ∧ (t.core lid).router.sum tag = { sm with slots := [], formed := [{ flit := g, entry := e }] } ∧ g.kind = f.kind
      ∧ g.fmt = f.fmt ∧ g.payload = f.payload ∧ g.tag.toNat = tag ∧ g.exc = (f :: fs).any (·.exc)
      ∧ g.rel = (f :: fs).any (·.rel))
  ∧ (∀ (lid i : Nat) (p : Place) (s : State) (f : Flit) (e : Word) (n : RenormRec) (q : Nat), HeadsFor s lid p i f e →
    entOp e = 3 → f.kind = 2 → entOmask e = 0 → n = (s.core lid).router.renorm (entAtag e) → q = bitsOf f.payload 16 12 →
    ∃ t, exec (.renormRecord lid p) s = .next t ∧ LeftFrom s t lid p i
      ∧ ((t.core lid).router.renorm (entAtag e)).target
        = if 0 < n.behind ∨ q < n.blocks ∨ q = n.blocks ∧ 0 < n.part then n.target
          else some (signed 16 (bitsOf f.payload 0 16), q))
  ∧ ∀ (lid i : Nat) (p : Place) (s : State) (f : Flit) (e : Word) (a : Adapter), HeadsFor s lid p i f e → entOp e = 2 →
    f.kind = 0 → a = (s.core lid).router.adapter f.tag.toNat → a.formed = [] → isBx f.fmt = true →
    bxKind f.fmt ≠ entArg e →
    ∃ t, exec (.widthAdapt lid p) s = .next t ∧ LeftFrom s t lid p i
      ∧ ((t.core lid).router.adapter f.tag.toNat).formed
        = (adaptFlit (entArg e) a.pending f).1.map (fun g => { flit := g, entry := e })
      ∧ ((t.core lid).router.adapter f.tag.toNat).pending = (adaptFlit (entArg e) a.pending f).2

namespace Sys2Proof.Claims

/-! ## Queues and jobs (14, 15) -/

/-- Queue q of the module, whose turn it is, holds e as its next entry, of TYPE ty, with every byte that must be zero 0 (14
R421). -/
def EntryAt (s : State) (q ty : Nat) (e : QueueEntry) : Prop :=
  q < 32768 ∧ s.nextEntry q = some e ∧ s.servesNext q = true ∧ e.ty = ty ∧ 1 ≤ ty ∧ ty ≤ 6 ∧ e.clean = true

/-- t is s with a completion record of these words and condition behind those of queue q, whose WQHEAD moved past an entry (14
R422; 15 R453). -/
def Recorded (s t : State) (q : Nat) (words : List Word) (ready : RecWhen) : Prop :=
  (t.queue q).records = (s.queue q).records ++ [({ words, ready } : Pending)]
    ∧ (t.queue q).wqhead = .ofNat 16 (((s.queue q).wqhead.toNat + 1) % 2 ^ bitsOf (s.queue q).wqcfg 4 4)
    ∧ (t.queue q).tail = (s.queue q).tail ∧ t.hostMem = s.hostMem

/-- Region r of t stands EMPTY and has ended with a status and INFO (14 R422, R426). -/
def EndedWith (t : State) (id status info : Nat) : Prop :=
  ∃ r e, t.regions.find? (·.id == id) = some r ∧ r.st = .empty ∧ r.bind = [] ∧ r.done = some e ∧ e.status.toNat = status
    ∧ e.info.toNat = info

end Sys2Proof.Claims

/-- 15 R452-R454; 14 R422: the host's writes of the queue registers take effect or set QERR, and the controller writes a
completion record at CQTAIL, moves it on, and raises the vector where VE is set. Model's choices: CQCFG has WQCFG's EN (log
27), and a write of WQCFG that clears EN with LOG out of range is refused (log 51). -/
def Sys2Proof.Claims.QueueRegistersAndRecords : Prop :=
  (∀ (q : Nat) (v : BitVec 64) (s : State), q < 32768 →
    exec (.doorbell q v) s = .next (s.setQueue q
      (if s.mg.state ≠ 15 ∧ (s.queue q).wqcfg.getLsbD 0 = true ∧ v.toNat < 2 ^ 16 ∧ v.toNat < 2 ^ bitsOf (s.queue q).wqcfg 4 4
       then { s.queue q with tail := v.setWidth 16 } else { s.queue q with qerr := true })))
  ∧ (∀ (q : Nat) (v : BitVec 64) (s : State), q < 32768 →
    exec (.wqcfgWrite q v) s = .next (s.setQueue q
      (if 4 ≤ bitsOf v 4 4 ∧ ¬((s.queue q).wqcfg.getLsbD 0 = true ∧ v.getLsbD 0 = true)
       then { s.queue q with wqcfg := v &&& 0xFFFFFFFFFFFFF0F1 } else { s.queue q with qerr := true })))
  ∧ (∀ (q : Nat) (v : BitVec 64) (s : State), q < 32768 →
    exec (.cqcfgWrite q v) s = .next (s.setQueue q
      (if 4 ≤ bitsOf v 4 4 ∧ (s.queue q).wqcfg.getLsbD 0 = false
       then { s.queue q with cqcfg := v &&& 0xFFFFFFFFFFFFF0F0 } else { s.queue q with qerr := true })))
  ∧ (∀ (q : Nat) (v : BitVec 64) (s : State), q < 32768 →
    exec (.cqctlWrite q v) s = .next (s.setQueue q { s.queue q with cqctl := v &&& 0x87FFFFFF }))
  ∧ (∀ (q : Nat) (v : BitVec 64) (s : State), q < 32768 →
    exec (.qstatClear q v) s = .next (s.setQueue q
      { s.queue q with qerr := (s.queue q).qerr && !v.getLsbD 32 }))
  ∧ ∀ (q a : Nat) (s : State) (k : Queue) (p : Pending) (rest : List Pending), q < 32768 → k = s.queue q →
    k.records = p :: rest → p.ready = .now → p.words.length = 4 → k.full = false → s.mg.waferOn = true →
    a = bitsOf k.cqcfg 12 52 * 4096 + 32 * k.cqtail.toNat →
    ∃ t, exec (.completionRecordWrite q) s = .next t
      ∧ cellsAt t.hostMem a 32 = p.words.flatMap (fun w => bytesOfNat 8 w.toNat)
      ∧ (∀ b, b < a ∨ a + 32 ≤ b → Table.get 0 t.hostMem b = Table.get 0 s.hostMem b)
      ∧ t.queue q = { k with cqtail := .ofNat 16 ((k.cqtail.toNat + 1) % 2 ^ bitsOf k.cqcfg 4 4), records := rest }
      ∧ t.raised = (if k.cqctl.getLsbD 31 then s.raised ++ [bitsOf k.cqctl 16 11] else s.raised) ∧ t.ext = s.ext
      ∧ t.cores = s.cores

/-- 14 R421, R422, R425, R426: LAUNCH of a job that passes its walk makes the job and a waiting region for each leaf, and is
recorded OK; one that does not is recorded with its rejection and makes nothing; an entry of an unknown TYPE, or with a byte
that must be zero set, is recorded BAD_ENTRY and makes nothing. Model's choices: the event LAUNCH records an entry of an
unknown TYPE (log 47), and ARG0 is the root's physical address (log 30). -/
def Sys2Proof.Claims.LaunchesMakeJobs : Prop :=
  (∀ (q : Nat) (s : State) (e : QueueEntry) (w : Walked), EntryAt s q 1 e → (∀ j ∈ s.jobs, j.tag ≠ e.tag) →
    walkJob (s.takeEntry q) e.arg0 = .ok w →
    ∃ t j rs, exec (.launch q) s = .next t ∧ Recorded s t q (recordWords e.tag 1 0 0 0 0 0) .now
      ∧ t.jobs = s.jobs ++ [j] ∧ j.tag = e.tag ∧ j.queue = q ∧ j.nodes = w.nodes
      ∧ t.regions = s.regions ++ rs ∧ rs.map (·.leaf) = w.leaves.map (·.node.va)
      ∧ (∀ r ∈ rs, r.job = e.tag ∧ r.st = .empty ∧ r.done = none ∧ r.waiting = true) ∧ t.cores = s.cores)
  ∧ (∀ (q : Nat) (s : State) (e : QueueEntry) (r : Reject), EntryAt s q 1 e → (∀ j ∈ s.jobs, j.tag ≠ e.tag) →
    walkJob (s.takeEntry q) e.arg0 = .error r →
    ∃ t, exec (.launch q) s = .next t
      ∧ Recorded s t q (recordWords e.tag 1 r.status 0 r.info (.ofNat 64 r.addr) 0) .now
      ∧ t.jobs = s.jobs ∧ t.regions = s.regions ∧ t.cores = s.cores)
  ∧ (∀ (q : Nat) (s : State) (e : QueueEntry) (j : Job), EntryAt s q 1 e → j ∈ s.jobs → j.tag = e.tag →
    ∃ t, exec (.launch q) s = .next t ∧ Recorded s t q (recordWords e.tag 1 15 0 0 0 0) .now ∧ t.jobs = s.jobs)
  ∧ ∀ (q : Nat) (s : State) (e : QueueEntry), q < 32768 → s.nextEntry q = some e → s.servesNext q = true →
    (e.ty = 0 ∨ 6 < e.ty ∨ e.ty = 1 ∧ e.clean = false) →
    ∃ t, exec (.launch q) s = .next t ∧ Recorded s t q (recordWords e.tag (if e.ty = 1 then 1 else 2) 15 0 0 0 0) .now
      ∧ t.jobs = s.jobs ∧ t.regions = s.regions ∧ t.cores = s.cores

/-- 14 R422, R426-R428, R440, R442; 07 R244: PREEMPT has the LIVE regions of its partition drain and takes the staging of
those being loaded, its record naming a FROZEN one; RESUME marks the job's SAVED regions, RELEASE ends its FROZEN regions
FAULT, CANCEL ends all that have not ended CANCELLED, INVALIDATE makes the shoot-down; each leaves its record. An event of
CANCEL or PREEMPT waits while a fatal fault or halt.rgn is still to stop one of its regions. A PREEMPT of a partition above 83
is BAD_ENTRY, and so are RESUME, RELEASE and INVALIDATE of a job that is not there; CANCEL of such a job is recorded with
STATUS 0 and changes nothing (R428). -/
def Obligations.QueueEntriesAct : Prop :=
  (∀ (q : Nat) (s : State) (e : QueueEntry) (rs : List Region), EntryAt s q 2 e → e.arg0 ≤ 83 → (s.regions.map (·.id)).Nodup →
    (∀ r ∈ s.regions, r.part = e.arg0 → r.bind ≠ [] →
      r.mayDecide s 3 = true ∧ r.stopFrom = none ∧ r.st ≠ .loading ∧ r.st ≠ .staged) →
    rs = s.regions.map (fun r => if r.part = e.arg0 ∧ r.bind ≠ [] ∧ r.st = .live
      then { r with st := .draining, latest := some (s.cycle, 3) } else r) →
    ∃ t, exec (.preempt q) s = .next t ∧ t.regions = rs
      ∧ Recorded s t q (recordWords e.tag 2 0 0 0 0 0)
          (.goal .quiet ((rs.filter fun r => r.part == e.arg0 && r.st == .draining).map (·.id))
            ((s.regions.find? fun r => r.part == e.arg0 && !r.bind.isEmpty && r.st == .frozen).map (·.id))))
  ∧ (∀ (q : Nat) (s : State) (e : QueueEntry), EntryAt s q 2 e → e.arg0 ≤ 83 → (s.regions.map (·.id)).Nodup →
    (∀ r ∈ s.regions, r.part = e.arg0 → r.bind ≠ [] → r.mayDecide s 3 = true ∧ r.stopFrom = none) →
    ∃ t, exec (.preempt q) s = .next t ∧ (∃ p ∈ (t.queue q).records, p.words = recordWords e.tag 2 0 0 0 0 0)
      ∧ ∀ r ∈ s.regions, ∃ r', t.regions.find? (·.id == r.id) = some r' ∧
        if r.part = e.arg0 ∧ r.bind ≠ [] then
          r'.st = (match r.st with
            | .live => .draining
            | .loading => if r.resuming then .saved else .empty
            | .staged => if r.resuming then .saved else .empty
            | st => st)
        else r' = r)
  ∧ (∀ (q : Nat) (s : State) (e : QueueEntry) (r : Region), EntryAt s q 2 e → e.arg0 ≤ 83 → r ∈ s.regions → r.part = e.arg0 →
    r.bind ≠ [] → r.stopFrom.isSome = true → exec (.preempt q) s = .next s)
  ∧ (∀ (q : Nat) (s : State) (e : QueueEntry), EntryAt s q 2 e → 83 < e.arg0 →
    ∃ t, exec (.preempt q) s = .next t ∧ Recorded s t q (recordWords e.tag 2 15 0 0 0 0) .now ∧ t.regions = s.regions)
  ∧ (∀ (q : Nat) (s : State) (e : QueueEntry) (j : Job), EntryAt s q 3 e → s.job e.tag = some j →
    (s.regions.map (·.id)).Nodup →
    ∃ t, exec (.resume q) s = .next t
      ∧ t.regions = s.regions.map (fun r => if r.job = e.tag ∧ r.st = .saved then { r with resuming := true } else r)
      ∧ Recorded s t q (recordWords e.tag 2 0 0 0 0 0)
          (.goal .leftSaved ((s.regions.filter fun r => r.job == e.tag && r.st == .saved).map (·.id)) none))
  ∧ (∀ (q : Nat) (s : State) (e : QueueEntry) (j : Job), EntryAt s q 4 e → s.job e.tag = some j →
    (s.regions.map (·.id)).Nodup →
    ∃ t, exec (.release q) s = .next t ∧ (∃ p ∈ (t.queue q).records, p.words = recordWords e.tag 2 0 0 0 0 0)
      ∧ ∀ r ∈ s.regions, if r.job = e.tag ∧ r.st = .frozen
          then ∀ rec, r.fault = some rec → EndedWith t r.id 5 ((rec.headD 0).toNat % 256)
          else t.regions.find? (·.id == r.id) = some r)
  ∧ (∀ (q : Nat) (s : State) (e : QueueEntry) (j : Job), EntryAt s q 5 e → s.job e.tag = some j →
    (s.regions.map (·.id)).Nodup → (∀ r ∈ s.regions, r.job = e.tag → r.mayDecide s 2 = true ∧ r.stopFrom = none) →
    ∃ t j', exec (.cancel q) s = .next t ∧ (∃ p ∈ (t.queue q).records, p.words = recordWords e.tag 2 0 0 0 0 0)
      ∧ t.job e.tag = some j' ∧ ((∃ r ∈ s.regions, r.job = e.tag ∧ r.done = none) → j'.cancelled = true)
      ∧ ∀ r ∈ s.regions, if r.job = e.tag ∧ r.done = none then EndedWith t r.id 9 0
          else t.regions.find? (·.id == r.id) = some r)
  ∧ (∀ (q : Nat) (s : State) (e : QueueEntry), EntryAt s q 5 e → s.job e.tag = none → (∀ r ∈ s.regions, r.job ≠ e.tag) →
    ∃ t, exec (.cancel q) s = .next t ∧ Recorded s t q (recordWords e.tag 2 0 0 0 0 0) (.goal .empty [] none)
      ∧ t.regions = s.regions ∧ t.jobs = s.jobs ∧ t.cores = s.cores)
  ∧ (∀ (q : Nat) (s : State) (e : QueueEntry) (r : Region), EntryAt s q 5 e → r ∈ s.regions → r.job = e.tag →
    r.stopFrom.isSome = true → exec (.cancel q) s = .next s)
  ∧ (∀ (q : Nat) (s : State) (e : QueueEntry) (j : Job), EntryAt s q 6 e → s.job e.tag = some j →
    exec (.invalidate q) s
      = .next ((shootDown (s.takeEntry q) j.tag j.ptroot (pagesOf e.arg0 e.arg1)).post q
          (recordWords e.tag 2 0 0 0 0 0) .now))
  ∧ ∀ p ∈ [(3, Instr.resume), (4, .release), (6, .invalidate)], ∀ (q : Nat) (s : State) (e : QueueEntry), EntryAt s q p.1 e →
    s.job e.tag = none →
    ∃ t, exec (p.2 q) s = .next t ∧ Recorded s t q (recordWords e.tag 2 15 0 0 0 0) .now ∧ t.regions = s.regions

namespace Sys2Proof.Claims

/-! ## Regions (14) -/

/-- Region id of the module is r. -/
def RegionIs (s : State) (id : Nat) (r : Region) : Prop := s.regions.find? (·.id == id) = some r ∧ r.id = id

/-- The mapper's placement pl of region r on a rectangle keeps the rules of 14 R430 in s: every rectangle before it is taken,
the rectangle and the binding are allowed, and the mapper may give the answer for its key (14 R431). -/
def Placeable (s : State) (j : Job) (r : Region) (tried : List Tried) (pl : Placement) (i : Image) (key : MapKey) : Prop :=
  s.imageOf r (max 1 r.cfgseq) = some i ∧ s.mapKey r (max 1 r.cfgseq) pl.x0 pl.y0 = some key
    ∧ s.mayAnswer key pl = true ∧ rectOk s j r pl = true ∧ bindOk s r i.feats pl = true
    ∧ (∀ c ∈ candidates s j r, c.2.2 < pl.y0 ∨ c.2.2 = pl.y0 ∧ c.2.1 < pl.x0 → unusable s r i tried c = true)
    ∧ ¬(r.attempts ≠ 0 ∧ pl.x0 = r.x0 ∧ pl.y0 = r.y0)

/-- The region bound to a placement, LOADING. -/
def placedAs (r : Region) (pl : Placement) : Region :=
  { r with
    st := .loading, x0 := pl.x0, y0 := pl.y0, part := pl.part, bind := pl.bind, ports := pl.ports, inject := pl.inject
    laid := pl.routes.map fun p => (p.1, p.2.1) }

/-- Region r waits by itself, and may be placed: it is EMPTY, its dependences, budgets and link context allow it, and no region
that could be placed comes before it (14 R429). -/
def MayBePlaced (s : State) (rg : Nat) (r : Region) (j : Job) (tried : List Tried) : Prop :=
  RegionIs s rg r ∧ s.job r.job = some j ∧ s.mg.waferOn = true ∧ r.st = .empty ∧ r.done = none ∧ r.resuming = false
    ∧ s.unitOf r = [r] ∧ s.depsMet r = true ∧ (∀ d ∈ s.depsOf r, d.failed = false) ∧ s.budgetsAllow j [r] = true
    ∧ s.linkAllows j = true
    ∧ ∀ x ∈ s.regions, x.waiting = true → x.id ≠ rg → s.comesBefore x r = true → s.blocked tried x = true

end Sys2Proof.Claims

/-- 14 R429-R437; 01 R40: the life of a region: the mapper's placement on the first rectangle that it can take loads it, staging
writes its cores, the commit makes it LIVE, the token releases each core, and a quiescent region ends OK, ROLE_RETIRED or
DRAIN_INCOMPLETE; a load aborted twice ends LOAD_UE, and one that no rectangle could hold UNPLACEABLE. The mapper's answers are
the event's arguments, which the model checks (log 7). -/
def Obligations.RegionsLoadAndEnd : Prop :=
  (∀ (rg : Nat) (s s0 s1 s2 : State) (r : Region) (j : Job) (pl : Placement) (tried : List Tried) (i : Image) (key : MapKey),
    MayBePlaced s rg r j tried → noteTried s tried = some s0 → Placeable s0 j r tried pl i key →
    layRoutes s0 pl = some s1 → realises (s1.setRegion (placedAs r pl)) (placedAs r pl) i = true →
    openAll (s1.setRegion (placedAs r pl)) (declaredStreams i (placedAs r pl)) = some s2 →
    exec (.regionPlace rg ⟨some [(rg, pl)], tried⟩) s = .next ((s2.noteAnswer key pl).takeLink j)
      ∧ RegionIs s2 rg (placedAs r pl))
  ∧ (∀ (rg : Nat) (s s0 : State) (r : Region) (j : Job) (tried : List Tried), RegionIs s rg r → s.job r.job = some j →
    s.mg.waferOn = true → r.st = .empty → r.done = none → (∀ d ∈ s.depsOf r, d.failed = false) →
    noteTried s tried = some s0 → unplaceable s j r tried = true →
    ∃ t, exec (.regionPlace rg ⟨none, tried⟩) s = .next t ∧ EndedWith t rg 3 0)
  ∧ (∀ (rg : Nat) (s : State) (r : Region) (j : Job) (pls : MapperAnswer),
    RegionIs s rg r → s.job r.job = some j → s.mg.waferOn = true → r.st = .empty → r.done = none →
    (∃ d ∈ s.depsOf r, d.failed = true) →
    ∃ t, exec (.regionPlace rg pls) s = .next t ∧ EndedWith t rg 8 0)
  ∧ (∀ (rg : Nat) (s : State) (r : Region) (i : Image), RegionIs s rg r → r.st = .loading → r.evicted = false →
    s.imageOf r (max 1 r.cfgseq) = some i →
    ∃ t r', exec (.stagingComplete rg) s = .next t ∧ RegionIs t rg r'
      ∧ r' = { r with st := .staged, idle := i.idle, groups := i.groups } ∧ t.ext = s.ext)
  ∧ (∀ (rg : Nat) (s : State) (r : Region), RegionIs s rg r → r.st = .staged → s.unitOf r = [r] →
    ∃ t r', exec (.stagingComplete rg) s = .next t ∧ RegionIs t rg r' ∧ r'.st = .live ∧ r'.pending = r.bind
      ∧ r'.cfgseq = max 1 r.cfgseq ∧ r'.resuming = false)
  ∧ (∀ (lid : Nat) (s : State) (r : Region), lid < coreCount → s.regionOf lid = some r → lid ∈ r.pending →
    r.moving = true → s.collectives = [] → (∀ q, (s.core lid).rpt = some q → q.words ≠ []) →
    exec (.commitTokenArrival lid) s
      = .next ((s.setRegion { r with pending := r.pending.filter (· != lid) }).setCore lid { s.core lid with live := true }))
  ∧ (∀ (lid : Nat) (s : State) (r : Region), lid < coreCount → s.regionOf lid = some r → r.st = .loading → r.attempts = 0 →
    r.resuming = false →
    ∃ t r', exec (.loadAbort lid) s = .next t ∧ t.regions.find? (·.id == r.id) = some r' ∧ r'.st = .empty
      ∧ r'.attempts = 1 ∧ r'.done = r.done)
  ∧ (∀ (lid : Nat) (s : State) (r : Region), lid < coreCount → s.regionOf lid = some r → r.st = .loading → 0 < r.attempts →
    ∃ t, exec (.loadAbort lid) s = .next t ∧ EndedWith t r.id 4 0)
  ∧ (∀ (rg : Nat) (s : State) (r : Region), RegionIs s rg r → s.quiescent r = true → r.mayDecide s 5 = true → r.step = .none →
    s.retiredWithTask r = none → (∀ l ∈ r.bind, (s.core l).exitCode = 0) →
    ∃ t, exec (.regionComplete rg) s = .next t ∧ EndedWith t rg 0 0)
  ∧ (∀ (rg k : Nat) (s : State) (r : Region), RegionIs s rg r → s.quiescent r = true → r.mayDecide s 5 = true → r.step = .none →
    s.retiredWithTask r = some k → k < 2 ^ 32 →
    ∃ t, exec (.regionComplete rg) s = .next t ∧ EndedWith t rg 10 k)
  ∧ ∀ (rg k : Nat) (s : State) (r : Region), RegionIs s rg r → s.quiescent r = true → r.mayDecide s 5 = true → r.step = .pushed →
    s.lacksPassage r = some k → k < 2 ^ 32 →
    ∃ t, exec (.regionComplete rg) s = .next t ∧ EndedWith t rg 7 k

/-- 14 R429, R430, R433, R434, R436; 01 R40: each event of a region's life happens where its conditions hold, and says what
comes of the region: REGION_PLACE loads it, STAGING_COMPLETE stages it and then commits it, COMMIT_TOKEN_ARRIVAL lets a core
issue, LOAD_ABORT lets a load be tried again, or ends the region, and REGION_COMPLETE ends a quiescent region. Model's
choices: the mapper's answers are arguments of REGION_PLACE (log 7), and a token that finds no room in its queue ends the
region DRAIN_INCOMPLETE (log 48). -/
def Obligations.RegionEventsComplete : Prop :=
  (∀ (rg : Nat) (s s0 : State) (r : Region) (j : Job) (pl : Placement) (tried : List Tried), MayBePlaced s rg r j tried →
    noteTried s tried = some s0 → (placeAt s0 j r tried pl).isSome = true →
    ∃ t, exec (.regionPlace rg ⟨some [(rg, pl)], tried⟩) s = .next t ∧ RegionIs t rg (placedAs r pl))
  ∧ (∀ (rg : Nat) (s : State) (r : Region), RegionIs s rg r → r.st = .loading →
    (s.imageOf r (max 1 r.cfgseq)).isSome = true →
    (r.evicted = true → ∀ n, s.leafOf r = some n → (vaSpan s (s.rootOf r) n.saveva r.saveBytes).isSome = true) →
    (s.leafOf r).isSome = true →
    ∃ t r', exec (.stagingComplete rg) s = .next t ∧ RegionIs t rg r' ∧ r'.st = .staged ∧ r'.bind = r.bind)
  ∧ (∀ (rg : Nat) (s : State) (r : Region), RegionIs s rg r → r.st = .staged → (∀ x ∈ s.unitOf r, x.st = .staged) →
    (s.regions.map (·.id)).Nodup →
    ∃ t r', exec (.stagingComplete rg) s = .next t ∧ RegionIs t rg r' ∧ r'.st = .live ∧ r'.pending = r.bind)
  ∧ (∀ (lid : Nat) (s : State) (r : Region), lid < coreCount → s.regionOf lid = some r → lid ∈ r.pending → r.moving = true →
    ∃ t, exec (.commitTokenArrival lid) s = .next t ∧ (t.core lid).live = true)
  ∧ (∀ (lid : Nat) (s : State) (r : Region), lid < coreCount → s.regionOf lid = some r → r.st = .loading ∨ r.st = .staged →
    r.attempts = 0 →
    ∃ t r', exec (.loadAbort lid) s = .next t ∧ t.regions.find? (·.id == r.id) = some r' ∧ r'.attempts = 1
      ∧ r'.st = (if r.resuming then .saved else .empty) ∧ r'.done = r.done)
  ∧ (∀ (lid : Nat) (s : State) (r : Region), lid < coreCount → s.regionOf lid = some r →
    r.st = .loading ∨ r.st = .staged ∨ (r.st = .live ∧ r.step ≠ .none) → 0 < r.attempts →
    ∃ t, exec (.loadAbort lid) s = .next t ∧ EndedWith t r.id 4 0)
  ∧ (∀ (lid : Nat) (s : State) (r : Region), lid < coreCount → s.regionOf lid = some r → r.st = .live → r.step ≠ .none →
    r.attempts = 0 →
    exec (.loadAbort lid) s
      = .next ((s.setCore lid { s.core lid with degraded := true }).setRegion { r with attempts := 1 }))
  ∧ ∀ (rg status : Nat) (s : State) (r : Region), RegionIs s rg r → s.quiescent r = true → r.mayDecide s 5 = true →
    (r.step = .none ∧ s.retiredWithTask r = none ∧ status = 0 ∨ r.step = .none ∧ (s.retiredWithTask r).isSome ∧ status = 10
      ∨ r.step = .pushed ∧ (s.lacksPassage r).isSome ∧ status = 7
      ∨ r.step = .requested ∧ (s.lacksPassage r).isSome ∧ s.tokenRoom r = false ∧ status = 7) →
    ∃ t r' e, exec (.regionComplete rg) s = .next t ∧ RegionIs t rg r' ∧ r'.st = .empty ∧ r'.bind = [] ∧ r'.done = some e
      ∧ e.status.toNat = status

/-- 14 R432, R437, R440-R442; 07 R243; 11 R373; 15 R459: a requested step pushes its drain token and switches the region to
the next configuration; a DRAINING region's cores halt, it is SAVED, and it may be evicted where another region needs its
cores; a stall that reaches the page-fault time limit has its region drain; a degraded core that may be retired is. Model's
choices: a store buffer behind a held acas does not keep a core from halting (log 52), a lattice block in progress does (log
48), the copies in the save area have the model's layout (log 10), and a step keeps the registers that log 50 names. -/
def Obligations.RegionsStepAndSwap : Prop :=
  (∀ (rg lid : Nat) (s : State) (r : Region) (n : Node), RegionIs s rg r → s.leafOf r = some n → r.st = .live →
    r.step = .requested → r.bind[n.drole]? = some lid → ((s.core lid).queue n.dqn).length < 8 →
    ∃ t r' f, exec (.drainTokenPush rg) s = .next t ∧ RegionIs t rg r' ∧ r'.step = .pushed ∧ r'.passages = []
      ∧ (t.core lid).queue n.dqn = (s.core lid).queue n.dqn ++ [f] ∧ f.kind = 3 ∧ f.fmt = 15
      ∧ f.payload = .ofNat 128 r.cfgseq)
  ∧ (∀ (rg : Nat) (s s1 : State) (r : Region) (i : Image) (pl : Placement), RegionIs s rg r → s.mayStep r = true →
    s.imageOf r (r.cfgseq + 1) = some i →
    r.mayDecide s 6 = true → (∀ l ∈ r.bind, s.isRetired l = true ∨ i.feats &&& (s.hwpOf l).toNat = i.feats) →
    switchTo s (r.decided s 6) i pl = some s1 →
    exec (.configStepSwitch rg (some pl)) s = .next (restartWaits s s1)
      ∧ ∃ r', RegionIs s1 rg r' ∧ r'.cfgseq = r.cfgseq + 1 ∧ r'.step = .none ∧ r'.pending = r'.bind ∧ r'.groups = i.groups)
  ∧ (∀ (lid : Nat) (s : State) (r : Region), lid < coreCount → s.regionOf lid = some r → r.st = .draining →
    (s.core lid).live = true → (s.core lid).sb = [] ∨ (Table.find (s.cluster (clusterOf lid)).detHeld lid).isSome = true →
    r.stopFrom = none → s.atomicsLeft lid = false → s.readsLeft lid = false → (s.core lid).lattice.rest = [] → (∀ ch < 8, ((s.core lid).chan ch).owes = false) →
    ∃ t, exec (.coreHalt lid) s = .next t ∧ (t.core lid).live = false ∧ (t.core lid).wait = none
      ∧ (t.core lid).regs = (s.core lid).regs ∧ (t.core lid).pc = (s.core lid).pc ∧ (t.core lid).loc = (s.core lid).loc
      ∧ (t.core lid).runq = (s.core lid).runq ∧ (t.core lid).sb = (s.core lid).sb ∧ t.regions = s.regions
      ∧ ∀ q, (s.core lid).rpt = some q →
        (t.core lid).rptState = rptRecord q (s.core lid).pc ∧ (t.core lid).rptWord = q.word)
  ∧ (∀ (lid : Nat) (s : State) (r : Region), lid < coreCount → s.regionOf lid = some r →
    r.stopFrom.isSome = true ∨ s.readsLeft lid = true → exec (.coreHalt lid) s = .next s)
  ∧ (∀ (rg : Nat) (s : State) (r : Region), RegionIs s rg r → r.stopFrom.isSome = true ∨ (∃ l ∈ r.bind, s.readsLeft l = true) →
    exec (.contextSaved rg) s = .next s)
  ∧ (∀ (rg : Nat) (s : State) (r : Region), RegionIs s rg r → r.st = .draining → r.pending = [] →
    r.stopFrom = none → (∀ l ∈ r.bind, (s.core l).live = false ∧ s.atomicsLeft l = false ∧ s.readsLeft l = false) → s.writesLeft r = false →
    ∃ t r', exec (.contextSaved rg) s = .next t ∧ RegionIs t rg r' ∧ r'.st = .saved ∧ r'.bind = r.bind
      ∧ (∀ l, (t.core l).regs = (s.core l).regs ∧ (t.core l).loc = (s.core l).loc) ∧ t.ext = s.ext)
  ∧ (∀ (rg : Nat) (s : State) (r : Region), RegionIs s rg r → s.coresNeeded r = false → exec (.regionEvict rg) s = .next s)
  ∧ (∀ (rg : Nat) (s s1 : State) (r : Region) (n : Node), RegionIs s rg r → r.st = .saved → r.evicted = false →
    s.coresNeeded r = true → unreadableRole s r = none → s.leafOf r = some n →
    vaWriteSpan (s.rootOf r) (r.saveBytes / 4096 + 2) n.saveva (saveImage s r) s = some s1 →
    ∃ t r', exec (.regionEvict rg) s = .next t ∧ RegionIs t rg r' ∧ r'.st = .saved ∧ r'.evicted = true ∧ r'.bind = []
      ∧ ∀ k < r.bind.length, ∃ c, Table.find r'.saved k = some { c with sb := c.sb.map (·.rehome r.roleOf) }
        ∧ c = s1.core (r.bind.getD k 0))
  ∧ (∀ (eng ctx : Nat) (s : State) (c : StreamCtx) (st : Stall) (r : Region), eng < 48 → ctx < 32 → s.ctx eng ctx = some c →
    c.ended = false → c.stall = some st → s.regionOf c.lid = some r → s.overLimit r st = true →
    ∃ t c' r', exec (.pageFaultTimeLimit (.stream eng ctx)) s = .next t ∧ t.ctx eng ctx = some c'
      ∧ c'.stall = some { st with drained := true } ∧ t.regions.find? (·.id == r.id) = some r' ∧ r'.st = .draining)
  ∧ ∀ (lid : Nat) (s : State), lid < coreCount → (s.core lid).degraded = true → Retired.core lid ∉ s.retired →
    s.mayRetire lid = true →
    ∃ t, exec (.coreRetire lid) s = .next t ∧ t.retired = s.retired ++ [.core lid] ∧ (t.core lid).live = false
      ∧ (∀ l, l ≠ lid → t.core l = s.core l) ∧ t.regions = s.regions

namespace Sys2Proof.Claims

/-! ## Management (15) -/

/-- A mailbox command of a code is in progress (15 R465). -/
def Busy (s : State) (code : Nat) : Prop := s.mg.mbBusy = true ∧ bitsOf s.mg.mbCmd 0 16 = code

/-- It is, outside recovery. -/
def InProgress (s : State) (code : Nat) : Prop := Busy s code ∧ s.mg.state ≠ 15

/-- t is s after a mailbox command ended with a result code and a response; m is the controller as the command left it. -/
def CommandEnded (s t : State) (m : Mgmt) (result : BitVec 8) (rsp : List Byte) : Prop :=
  t.mg = { m with mbBusy := false, mbResult := result, mbRespLen := rsp.length, mbRsp := t.mg.mbRsp }
    ∧ (∀ k (h : k < rsp.length), Table.get 0 t.mg.mbRsp k = rsp[k])
    ∧ t.raised = (if m.mbCmd.getLsbD 31 then s.raised ++ [bitsOf m.mbCmd 16 11] else s.raised)
    ∧ t.cores = s.cores ∧ t.ext = s.ext ∧ t.hostMem = s.hostMem

/-- The command i ends with a result code and no response, and changes nothing but the mailbox and the vector that it raises. -/
def EndsWith (i : Instr) (s : State) (result : BitVec 8) : Prop :=
  ∃ t, exec i s = .next t ∧ CommandEnded s t s.mg result [] ∧ t.retired = s.retired

end Sys2Proof.Claims

/-- 15 R455-R457, R459, R462-R466: the controller's registers take the host's writes or ignore them, and the mailbox commands
end with their result: OK where their conditions hold, BADARG where an argument fails its check, STATE in a state that does
not allow them, in recovery all but FWLOAD, and UNKNOWN for a reserved code; a rank map or payload byte written reads back,
every other byte of the registers as before. Whether an image's signature holds, its SVN, and whether host memory can be read
are opaque (log 11). -/
def Obligations.ManagementCommandsEnd : Prop :=
  (∀ (v : BitVec 64) (s : State),
    ∃ t, exec (.mgPcapWrite v) s = .next t
      ∧ t = { s with mg := { s.mg with
          pcap := if 14000 ≤ v.toNat ∧ v.toNat ≤ 28000 then v else s.mg.pcap, power := t.mg.power, trip := false } }
      ∧ t.mg.power.toNat = min s.mg.power.toNat t.mg.pcap.toNat)
  ∧ (∀ (w : Nat) (v : BitVec 64) (s : State), w < 64 → s.jobs = [] → s.mg.state = 6 ∨ s.mg.state = 7 →
    exec (.mgHdmWrite w v) s = .next { s with mg := hdmSet s w v })
  ∧ (∀ (w : Nat) (v : BitVec 64) (s : State), 64 ≤ w ∨ s.jobs ≠ [] ∨ s.mg.state ≠ 6 ∧ s.mg.state ≠ 7 →
    exec (.mgHdmWrite w v) s = .next s)
  ∧ (∀ (v : BitVec 64) (s : State), (∀ j ∈ s.jobs, j.usesLink = false) →
    ∃ t, exec (.mgmtRegisterWrite 0x200 v) s = .next t ∧ t.mg.rank = v.setWidth 10)
  ∧ (∀ (v : BitVec 64) (s : State), s.mg.mbBusy = false → v.getLsbD 63 = true → 1 ≤ bitsOf v 0 16 → bitsOf v 0 16 ≤ 7 →
    exec (.mgmtRegisterWrite 0x8000 v) s = .next { s with mg := { s.mg with mbCmd := v &&& 0x87FFFFFF, mbBusy := true } })
  ∧ (∀ (v : BitVec 64) (s : State), s.mg.mbBusy = false → v.getLsbD 63 = true → bitsOf v 0 16 = 0 ∨ 7 < bitsOf v 0 16 →
    ∃ t, exec (.mgmtRegisterWrite 0x8000 v) s = .next t
      ∧ CommandEnded s t { s.mg with mbCmd := v &&& 0x87FFFFFF } (if s.mg.state = 15 then 2 else 1) [])
  ∧ (∀ p ∈ [(0x8010, fun (m : Mgmt) (v : BitVec 64) => { m with mbLen := v }), (0x8018, fun m v => { m with mbAddr := v }),
        (0x8020, fun m v => { m with mbXlen := v })], ∀ (v : BitVec 64) (s : State), s.mg.mbBusy = false →
    exec (.mgmtRegisterWrite p.1 v) s = .next { s with mg := p.2 s.mg v })
  ∧ (∀ (off : Nat) (v : BitVec 64) (s : State),
    off % 8 ≠ 0 ∨ off = 0x200 ∧ (∃ j ∈ s.jobs, j.usesLink = true) ∨ 0x8000 ≤ off ∧ s.mg.mbBusy = true
      ∨ off < 0x1000 ∧ off ≠ 0x200 ∨ 0x4000 ≤ off ∧ off < 0x8000 ∨ off = 0x8008 ∨ 0x8028 ≤ off ∧ off < 0x8040 ∨ 0xC000 ≤ off →
    exec (.mgmtRegisterWrite off v) s = .next s)
  ∧ (∀ (off : Nat) (v : BitVec 64) (s : State), off % 8 = 0 →
    0x1000 ≤ off ∧ off < 0x4000 ∨ 0x8040 ≤ off ∧ off < 0xC000 ∧ s.mg.mbBusy = false →
    ∃ t, exec (.mgmtRegisterWrite off v) s = .next t ∧ (∀ k < 8, t.mg.byteAt (off + k) = v.extractLsb' (8 * k) 8)
      ∧ ∀ a, a < off ∨ off + 8 ≤ a → t.mg.byteAt a = s.mg.byteAt a)
  ∧ (∀ (s : State) (image : List Byte) (result : BitVec 8), Busy s 1 → s.mg.mbAddr.toNat % 4096 = 0 →
    s.mg.mbXlen.toNat ≤ 2 ^ 26 → image = cellsAt s.hostMem s.mg.mbAddr.toNat s.mg.mbXlen.toNat →
    result = (if Config.hostReadOk s.mg.mbAddr.toNat s.mg.mbXlen.toNat = false then 6 else if Config.sigOk image = false then 3
      else if (Config.imageSvn image).toNat < s.mg.svn.toNat then 4 else 0) →
    ∃ t, exec .fwload s = .next t
      ∧ CommandEnded s t (if result = 0 then { s.mg with stored := some image } else s.mg) result [])
  ∧ (∀ s : State, Busy s 1 → s.mg.mbAddr.toNat % 4096 ≠ 0 ∨ 2 ^ 26 < s.mg.mbXlen.toNat → EndsWith .fwload s 5)
  ∧ (∀ p ∈ [(2, Instr.svnraise), (3, .attest), (4, .retlist), (5, .retclear), (6, .partset), (7, .ready)], ∀ s : State,
    Busy s p.1 → s.mg.state = 15 → EndsWith p.2 s 2)
  ∧ (∀ (s : State) (v : BitVec 8), InProgress s 2 → s.mg.state = 6 ∨ s.mg.state = 7 →
    v = (if s.mg.svn.toNat < s.mg.runSvn.toNat then s.mg.runSvn else s.mg.svn) →
    ∃ t, exec .svnraise s = .next t ∧ CommandEnded s t { s.mg with svn := v } 0 (bytesOfNat 8 v.toNat))
  ∧ (∀ s : State, InProgress s 2 → s.mg.state ≠ 6 → s.mg.state ≠ 7 → EndsWith .svnraise s 2)
  ∧ (∀ s : State, InProgress s 3 → 3 ≤ s.mg.state.toNat → s.mg.state.toNat ≤ 7 → s.mg.mbLen = 32 →
    ∃ t rsp, exec .attest s = .next t ∧ CommandEnded s t s.mg 0 rsp ∧ rsp.length = 8168 ∧ rsp.take 312 = reportBytes s.mg)
  ∧ (∀ s : State, InProgress s 3 → s.mg.state.toNat < 3 ∨ 7 < s.mg.state.toNat → EndsWith .attest s 2)
  ∧ (∀ s : State, InProgress s 3 → 3 ≤ s.mg.state.toNat → s.mg.state.toNat ≤ 7 → s.mg.mbLen ≠ 32 → EndsWith .attest s 5)
  ∧ (∀ s : State, InProgress s 4 → 4 ≤ s.mg.state.toNat → s.mg.state.toNat ≤ 7 →
    ∃ t rsp, exec .retlist s = .next t ∧ CommandEnded s t s.mg 0 rsp ∧ rsp.take 8 = bytesOfNat 8 s.retired.length
      ∧ t.retired = s.retired)
  ∧ (∀ s : State, InProgress s 4 → s.mg.state.toNat < 4 ∨ 7 < s.mg.state.toNat → EndsWith .retlist s 2)
  ∧ (∀ s : State, InProgress s 5 → s.jobs = [] →
    ∃ t, exec .retclear s = .next t ∧ CommandEnded s t s.mg 0 [] ∧ t.retired = [])
  ∧ (∀ (s : State) (j : Job) (js : List Job), InProgress s 5 → s.jobs = j :: js → EndsWith .retclear s 2)
  ∧ (∀ (s : State) (es : List (BitVec 16)), InProgress s 6 → s.jobs = [] → s.mg.mbLen = 168 → es = partEntries s.mg →
    partsOk es = true →
    ∃ t m, exec .partset s = .next t ∧ CommandEnded s t m 0 [] ∧ m = { s.mg with parts := m.parts }
      ∧ ∀ k < 84, Table.get 0 m.parts k = es.getD k 0)
  ∧ (∀ (s : State) (j : Job) (js : List Job), InProgress s 6 → s.jobs = j :: js → EndsWith .partset s 2)
  ∧ (∀ s : State, InProgress s 6 → s.jobs = [] → s.mg.mbLen ≠ 168 ∨ partsOk (partEntries s.mg) = false → EndsWith .partset s 5)
  ∧ (∀ s : State, InProgress s 7 → s.mg.state = 6 → (∃ p ∈ s.mg.parts, p.2.getLsbD 15 = true) →
    ∃ t, exec .ready s = .next t ∧ CommandEnded s t { s.mg with ready := true, state := 7 } 0 [])
  ∧ ∀ s : State, InProgress s 7 → s.mg.state ≠ 6 ∨ (∀ p ∈ s.mg.parts, p.2.getLsbD 15 = false) → EndsWith .ready s 2

/-- 15 R455, R458-R461, R466; 07 R226; 14 R434, R435: reset keeps memory, fuses and the retirement list and comes to its boot
step; the third corrected error of a window degrades a core; an uncorrectable one poisons its word and degrades the core; a
core degraded while no region holds it is retired; the 1,024th retry of a window kills a mesh link; a port that lost training
goes down; heat and lost coolant remove wafer power. Model's choices: a port that went down enters the retirement list (log
29), and the states of links and power stay until the next reset (log 53). -/
def Obligations.ErrorsAndPowerEvents : Prop :=
  (∀ (b : BootInputs) (s : State),
    ∃ t, exec (.moduleReset b) s = .next t ∧ t.ext = s.ext ∧ t.hostMem = s.hostMem ∧ t.mg.svn = s.mg.svn ∧ t.cycle = 0
      ∧ t.jobs = [] ∧ t.regions = [] ∧ t.cores = [] ∧ (∀ e ∈ s.retired, e ∈ t.retired)
      ∧ t.mapped = s.mapped ∧ t.mg.temp = b.temp.setWidth 64
      ∧ (¬(240 ≤ bitsOf (b.temp.setWidth 64) 16 16 ∧ bitsOf (b.temp.setWidth 64) 16 16 ≤ 560 ∧ 40 ≤ b.flow) → t.mg.state = 14 ∧ t.mg.waferOn = false)
      ∧ (t.mg.state = 6 ∨ t.mg.state = 14 ∨ t.mg.state = 15))
  ∧ (∀ (lid : Nat) (s : State), lid < coreCount →
    ∃ t, exec (.correctedEccError lid) s = .next t
      ∧ (t.core lid).eccCount
        = (if (s.core lid).eccWindow = s.cycle.toNat / 2 ^ 30 then (s.core lid).eccCount + 1 else 1)
      ∧ ((t.core lid).degraded = true ↔ (s.core lid).degraded = true ∨ 3 ≤ (t.core lid).eccCount)
      ∧ ((t.core lid).degraded = true → s.regionOf lid = none → t.isRetired lid = true)
      ∧ ∀ l, l ≠ lid → t.core l = s.core l)
  ∧ (∀ (lid a : Nat) (s : State), lid < coreCount → a < 65536 →
    ∃ t, exec (.uncorrectableError (.loc lid a)) s = .next t ∧ (t.core lid).degraded = true
      ∧ (s.regionOf lid = none → t.isRetired lid = true)
      ∧ (∀ b n, (t.core lid).locPoisoned b n
          = ((s.core lid).locPoisoned b n || decide (a / 8 * 8 < b + n ∧ b < a / 8 * 8 + 8)))
      ∧ ∀ l, l ≠ lid → t.core l = s.core l)
  ∧ (∀ (lid w n : Nat) (d : Dir) (s : State), lid < coreCount → w = s.cycle.toNat / 2 ^ 30 →
    n = (if (Table.get (0, 0) s.meshRetries (meshLinkKey lid d)).1 = w
         then (Table.get (0, 0) s.meshRetries (meshLinkKey lid d)).2 + 1 else 1) →
    ∃ t, exec (.meshLinkCrcRetry lid d) s = .next t ∧ Table.get (0, 0) t.meshRetries (meshLinkKey lid d) = (w, n)
      ∧ (t.linkDead lid (dirNum d) = true ↔ s.linkDead lid (dirNum d) = true ∨ 1024 ≤ n)
      ∧ (n < 1024 → t.regions = s.regions ∧ t.retired = s.retired))
  ∧ (∀ (p : Nat) (s : State), p < 96 → (s.port p).up = true →
    ∃ t, exec (.linkPortDown p true) s = .next t ∧ (t.port p).up = false ∧ t.retired = s.retired ++ [.linkPort p]
      ∧ ∀ q, q ≠ p → t.port q = s.port q)
  ∧ (∀ (p : Nat) (s : State), p < 96 →
    exec (.brimLinkDown p) s
      = .next (if p < 48 then s.setBrim p { s.brim p with linkUp := false }
               else s.setBrim (p - 48) { s.brim (p - 48) with otherUp := false }))
  ∧ (∀ (x : BitVec 16) (s : State), 1600 < x.toNat →
    exec (.thermalThrottle x) s = .next { s with mg := { s.mg with temp := putBits s.mg.temp 0 16 x.toNat } })
  ∧ (∀ (w : BitVec 32) (s : State),
    ∃ t, exec (.powerCapThrottle w) s = .next t ∧ t = { s with mg := { s.mg with power := t.mg.power } }
      ∧ t.mg.power.toNat ≤ s.mg.pcap.toNat ∧ t.mg.power.toNat ≤ w.toNat)
  ∧ (∀ (x : BitVec 16) (s : State), 1760 ≤ x.toNat →
    ∃ t, exec (.thermalTrip x) s = .next t ∧ t.mg.waferOn = false ∧ t.jobs = [] ∧ t.cores = [] ∧ t.ext = s.ext
      ∧ t.hostMem = s.hostMem)
  ∧ ∀ (n : Nat) (s : State), n < 20 →
    ∃ t, exec (.coolantFlowTrip n) s = .next t ∧ t.mg.waferOn = false ∧ t.jobs = [] ∧ t.cores = [] ∧ t.ext = s.ext
      ∧ t.hostMem = s.hostMem

/-! ## Statements made of parts

Each is the conjunction of parts that are stated above, one for each family of instructions or events that it speaks of. -/

/-- 05 R182-R184: the integer instructions of one operand, the immediate forms and li; bext, bins, sel, cmp and cmpi. -/
def Obligations.IntegerInstructionResults : Prop := OneOperandIntegerResults ∧ FieldSelectCompareResults

/-- 05 R159, R189: csrr and csrw in their forms complete where the privilege is held and the new value may be written; a csrw
without its privilege, or of a bit that it may not change, traps. -/
def Obligations.CsrAccesses : Prop := CsrReadsDeliver ∧ CsrWritesTakeEffect ∧ CsrWriteRefusals

/-- 05 R194, with R176: trap, brk and an unassigned OP enter the handler, or freeze the region where none may take them; nop
changes nothing. -/
def Obligations.TrapsAreTaken : Prop := TrapsEnterTheHandler ∧ FatalTrapsFreezeTheRegion

/-- 05 R170-R172: rpt fills the repeat buffer, which issues its words in order with their strides, as often as CNT says. -/
def Obligations.RepeatBufferRuns : Prop := RptFillsTheRepeatBuffer ∧ RepeatBufferOrder

/-- 06 R201, R215-R222: the lane instructions that write predicates, select, move, convert and pack. -/
def Obligations.LaneMovesAndPredicates : Prop := LanePredicateResults ∧ LaneMovesAndConversions

/-- 08 R269, R295-R298; 14 R439: the instructions on input queues, marks and route entries. -/
def Obligations.QueueAndRouteInstructions : Prop := QueueInstructionsResults ∧ RouteInstructionsResults

/-- 07 R234, R255-R258: the stream instructions move the slots of a core through their states, deliver what they hold, and trap
on a use that the state does not allow. -/
def Obligations.StreamInstructionsComplete : Prop := StreamSlotsMove ∧ StreamsAreReadAndFreed

/-- 07 R244, R247-R252, R259-R262: the circular-buffer instructions, smig and sinval. -/
def Obligations.BuffersAndMigration : Prop := CircularBuffersMove ∧ MigrationAndInvalidation

/-- 09 R302, R307, R319, R322-R324: tldb, tldbq, tmov.out, tmov.in, tsta and tout. -/
def Obligations.TensorDataMoves : Prop := TensorTilesLoad ∧ AccumulatorTransfers

/-- 09 R300-R302, R305; 02 R64-R67: what the columns of a slot hold, and what one step of a tensor operation adds where. -/
def Obligations.TensorStepsCompute : Prop := TensorColumnsReadBack ∧ TensorStepAccumulates

/-- 09 R304, R305, R307, R311-R315, R320: tmac, tmacq and tmacl complete, alone or for a gang; tgang forms and leaves a gang. -/
def Obligations.TensorOperationsAndGangs : Prop := TensorOperationsComplete ∧ GangsForm

/-- 10 R331, R333-R335, R338, R339, R345-R347: lgl and lglq load a graph; lrun and lrunv run it on their blocks. -/
def Obligations.LatticeGraphsRun : Prop := GraphsLoad ∧ LatticeRunsBlocks

/-- 10 R340-R342, R348-R352: the control instructions of the lattice, and its run over a stream. -/
def Obligations.LatticeControlAndStreams : Prop := LatticeControlResults ∧ LatticeStreamRuns

/-- 05 R163-R165, R169, R191; 08 R285: the events of a core: an expired wait, a trigger, a message and its task, and the end of
a wait.until. -/
def Obligations.CoreEventsHappen : Prop := WaitTimeoutTraps ∧ TaskEventsHappen

/-- 11 R355, R358, R360, R364, R378, R379: barr, bwait and barw; bexcuse, bgleave, bgjoin and bmask. -/
def Obligations.BarriersAndExcusalsComplete : Prop := BarriersComplete ∧ ExcusalsComplete

/-- 04 R141, R147; 12 R384, R389-R396: the CLU atomics and the cell instructions send their request, wait for the answer, and
complete with it. -/
def Obligations.AtomicInstructionsComplete : Prop := AtomicsCompleteWithTheirAnswer ∧ CellInstructionsComplete

/-- 12 R384, R393-R395: what an atomic leaves at its home and delivers, and what a cell holds and reads as. -/
def Obligations.AtomicValues : Prop := AtomicsComputeTheirValue ∧ CellsAddExactly

/-- 13 R400, R401, R405, R409-R411, R416-R419; 15 R461: the link instructions complete, and frames are received in order. -/
def Obligations.LinkInstructionsAndFrames : Prop := LinkInstructionsComplete ∧ LinkFramesAreReceived

/-- 14 R421, R422, R425, R426; 15 R452-R454: the host's queue registers, the LAUNCH of a job, and the completion records. -/
def Obligations.JobsLaunchAndReport : Prop := QueueRegistersAndRecords ∧ LaunchesMakeJobs

/-- 13 R406-R408, R410, R412, R413: a collective combines, ends and reaches every member over its tree. -/
def Obligations.CollectivesComplete : Prop := CollectivesProgress ∧ CollectiveTreeReachesEveryMember
end

