-- ==== Sys2Proof/Laws/Table.lean ====
section
/-! SUPPORT. What tables and memories answer: reading after writing, and the canonical form that every operation keeps. -/

namespace Sys2Proof.Machine

/-! ## The three ways past the head of a table -/

theorem Table.put_eq {α : Type} {k : Nat} {e : Nat × α} (v : α) (t : Table α) (h : k = e.1) :
    Table.put k v (e :: t) = (k, v) :: t := by simp [Table.put, h]

theorem Table.put_gt {α : Type} {k : Nat} {e : Nat × α} (v : α) (t : Table α) (h1 : ¬k < e.1) (h2 : k ≠ e.1) :
    Table.put k v (e :: t) = e :: Table.put k v t := by simp [Table.put, h1, h2]

theorem Table.erase_lt {α : Type} {k : Nat} {e : Nat × α} (t : Table α) (h : k < e.1) :
    Table.erase k (e :: t) = e :: t := by simp [Table.erase, h]

theorem Table.erase_eq {α : Type} {k : Nat} {e : Nat × α} (t : Table α) (h : k = e.1) :
    Table.erase k (e :: t) = t.dropWhile (fun x => decide (x.1 ≤ k)) := by simp [Table.erase, h]

theorem Table.erase_gt {α : Type} {k : Nat} {e : Nat × α} (t : Table α) (h1 : ¬k < e.1) (h2 : k ≠ e.1) :
    Table.erase k (e :: t) = e :: Table.erase k t := by simp [Table.erase, h1, h2]

/-! ## Reading after writing -/

theorem Table.get_put_self {α : Type} (d v : α) (k : Nat) (t : Table α) : Table.get d (Table.put k v t) k = v := by
  induction t with
  | nil => simp [Table.put, Table.get]
  | cons e t ih =>
    unfold Table.put
    split
    · simp [Table.get]
    · split
      · simp [Table.get]
      · next h1 h2 => simp [Table.get, h2, h1, ih]

theorem Table.get_put_ne {α : Type} (d v : α) {k l : Nat} (h : l ≠ k) (t : Table α) :
    Table.get d (Table.put k v t) l = Table.get d t l := by
  induction t with
  | nil =>
    simp only [Table.put, Table.get, h, if_false]
    split <;> rfl
  | cons e t ih =>
    unfold Table.put
    split
    · next h1 =>
      simp only [Table.get, h, if_false]
      split
      · next h2 => rw [if_neg (by omega), if_pos (by omega)]
      · rfl
    · split
      · next h1 h2 => subst h2; simp [Table.get, h]
      · simp only [Table.get, ih]

theorem Table.put_put {α : Type} (v w : α) (k : Nat) (t : Table α) : Table.put k w (Table.put k v t) = Table.put k w t := by
  induction t with
  | nil => simp [Table.put]
  | cons e t ih =>
    by_cases h1 : k < e.1
    · simp [Table.put, h1]
    · by_cases h2 : k = e.1
      · simp [Table.put, h2]
      · simp [Table.put, h1, h2, ih]

theorem Table.find_put_self {α : Type} (v : α) (k : Nat) (t : Table α) : Table.find (Table.put k v t) k = some v := by
  induction t with
  | nil => simp [Table.put, Table.find]
  | cons e t ih =>
    by_cases h1 : k < e.1
    · simp [Table.put, h1, Table.find]
    · by_cases h2 : k = e.1
      · simp [Table.put, h2, Table.find]
      · simp [Table.put, Table.find, h1, h2, ih]

theorem Table.find_put_ne {α : Type} (v : α) {k l : Nat} (h : l ≠ k) (t : Table α) :
    Table.find (Table.put k v t) l = Table.find t l := by
  induction t with
  | nil => simp [Table.put, Table.find, h]
  | cons e t ih =>
    by_cases h1 : k < e.1
    · by_cases h2 : l < k
      · simp [Table.put, h1, Table.find, h, h2]
        rw [if_neg (by omega), if_pos (by omega)]
      · simp [Table.put, h1, Table.find, h, h2]
    · by_cases h2 : k = e.1
      · simp [Table.put, ← h2, Table.find, h]
      · simp [Table.put, Table.find, h1, h2, ih]

/-! ## Rising keys -/

/-- The first key of a table lies above lo. -/
theorem Table.rising_mono {α : Type} {lo lo' : Nat} (h : lo' ≤ lo) (t : Table α) (ht : Table.rising (some lo) t = true) :
    Table.rising (some lo') t = true := by
  cases t with
  | nil => rfl
  | cons e t =>
    simp only [Table.rising, Bool.and_eq_true, decide_eq_true_eq] at ht ⊢
    exact ⟨by omega, ht.2⟩

theorem Table.rising_put {α : Type} (v : α) {lo k : Nat} (h : lo < k) (t : Table α)
    (ht : Table.rising (some lo) t = true) : Table.rising (some lo) (Table.put k v t) = true := by
  induction t generalizing lo with
  | nil => simp [Table.put, Table.rising, h]
  | cons e t ih =>
    simp only [Table.rising, Bool.and_eq_true, decide_eq_true_eq] at ht
    by_cases h1 : k < e.1
    · simp [Table.put, h1, Table.rising, h, ht.2]
    · by_cases h2 : k = e.1
      · rw [Table.put_eq v t h2]
        simp only [Table.rising, Bool.and_eq_true, decide_eq_true_eq]
        exact ⟨h, h2 ▸ ht.2⟩
      · simp only [Table.put, h1, if_false, h2, Table.rising, Bool.and_eq_true, decide_eq_true_eq]
        exact ⟨ht.1, ih (by omega) ht.2⟩

theorem Table.rising_dropWhile {α : Type} (p : Nat × α → Bool) {lo : Nat} (t : Table α)
    (ht : Table.rising (some lo) t = true) : Table.rising (some lo) (t.dropWhile p) = true := by
  induction t generalizing lo with
  | nil => simp [Table.rising]
  | cons e t ih =>
    simp only [Table.rising, Bool.and_eq_true, decide_eq_true_eq] at ht
    rw [List.dropWhile_cons]
    split
    · exact ih (Table.rising_mono (by omega) t ht.2)
    · simp [Table.rising, ht]

theorem Table.rising_erase {α : Type} {lo : Nat} (k : Nat) (t : Table α) (ht : Table.rising (some lo) t = true) :
    Table.rising (some lo) (Table.erase k t) = true := by
  induction t generalizing lo with
  | nil => simp [Table.erase, Table.rising]
  | cons e t ih =>
    have hr := ht
    simp only [Table.rising, Bool.and_eq_true, decide_eq_true_eq] at ht
    by_cases h1 : k < e.1
    · simp only [Table.erase, h1, if_true]
      exact hr
    · by_cases h2 : k = e.1
      · rw [Table.erase_eq t h2]
        exact Table.rising_dropWhile _ _ (Table.rising_mono (Nat.le_of_lt ht.1) t ht.2)
      · simp only [Table.erase, h1, if_false, h2, Table.rising, Bool.and_eq_true, decide_eq_true_eq]
        exact ⟨ht.1, ih ht.2⟩

/-- A table that rises from nothing rises above any number below its first key. -/
theorem Table.rising_none_cons {α : Type} (e : Nat × α) (t : Table α) :
    Table.rising none (e :: t) = Table.rising (some e.1) t := by
  cases e; rfl

theorem Table.rising_none_put {α : Type} (k : Nat) (v : α) (t : Table α) (ht : Table.rising none t = true) :
    Table.rising none (Table.put k v t) = true := by
  cases t with
  | nil => rfl
  | cons e t =>
    rw [Table.rising_none_cons] at ht
    by_cases h1 : k < e.1
    · simp [Table.put, h1, Table.rising, ht]
    · by_cases h2 : k = e.1
      · simp [Table.put, h2, Table.rising, ht]
      · simp only [Table.put, h1, if_false, h2, Table.rising_none_cons]
        exact Table.rising_put v (by omega) t ht

theorem Table.rising_none_of_some {α : Type} {lo : Nat} (t : Table α) (ht : Table.rising (some lo) t = true) :
    Table.rising none t = true := by
  cases t with
  | nil => rfl
  | cons e t =>
    simp only [Table.rising, Bool.and_eq_true] at ht
    rw [Table.rising_none_cons]
    exact ht.2

theorem Table.rising_none_erase {α : Type} (k : Nat) (t : Table α) (ht : Table.rising none t = true) :
    Table.rising none (Table.erase k t) = true := by
  cases t with
  | nil => rfl
  | cons e t =>
    have hr := ht
    rw [Table.rising_none_cons] at ht
    by_cases h1 : k < e.1
    · simp only [Table.erase, h1, if_true]
      exact hr
    · by_cases h2 : k = e.1
      · rw [Table.erase_eq t h2]
        exact Table.rising_none_of_some _ (Table.rising_dropWhile _ _ ht)
      · simp only [Table.erase, h1, if_false, h2, Table.rising_none_cons]
        exact Table.rising_erase _ _ ht

/-! ## The canonical form -/

theorem Table.all_put {α : Type} (p : Nat × α → Bool) (k : Nat) (v : α) (t : Table α) (hv : p (k, v) = true)
    (ht : t.all p = true) : (Table.put k v t).all p = true := by
  induction t with
  | nil => simpa [Table.put] using hv
  | cons e t ih =>
    simp only [List.all_cons, Bool.and_eq_true] at ht
    by_cases h1 : k < e.1
    · simp [Table.put, h1, hv, ht.1, ht.2]
    · by_cases h2 : k = e.1
      · simp [Table.put, ← h2, hv, ht.2]
      · simp [Table.put, h1, h2, ht.1, ih ht.2]

theorem Table.all_erase {α : Type} (p : Nat × α → Bool) (k : Nat) (t : Table α) (ht : t.all p = true) :
    (Table.erase k t).all p = true := by
  induction t with
  | nil => rfl
  | cons e t ih =>
    have hr := ht
    simp only [List.all_cons, Bool.and_eq_true] at ht
    by_cases h1 : k < e.1
    · simp only [Table.erase, h1, if_true]
      exact hr
    · by_cases h2 : k = e.1
      · rw [Table.erase_eq t h2]
        refine List.all_eq_true.mpr fun x hx => List.all_eq_true.mp ht.2 x ?_
        exact (List.dropWhile_suffix _).subset hx
      · simp [Table.erase, h1, h2, ht.1, ih ht.2]

/-- A table in canonical form stays in it when an entry is set. -/
theorem Table.wf_set {α : Type} [DecidableEq α] (d : α) (k : Nat) (v : α) (t : Table α) (ht : Table.wf d t = true) :
    Table.wf d (Table.set d k v t) = true := by
  simp only [Table.wf, Bool.and_eq_true] at ht ⊢
  unfold Table.set
  split
  · exact ⟨Table.rising_none_erase k t ht.1, Table.all_erase _ k t ht.2⟩
  · next h => exact ⟨Table.rising_none_put k v t ht.1, Table.all_put _ k v t (by simpa using h) ht.2⟩

/-- A memory in canonical form stays in it when bytes are written. -/
theorem writeCells_wf (m : List Host.Cell) (a : Nat) (bs : List Byte) (hm : Memory.wf m = true) :
    Memory.wf (writeCells m a bs) = true := by
  induction bs generalizing m a with
  | nil => exact hm
  | cons b bs ih => exact ih _ _ (Table.wf_set 0 a b m hm)

/-! ## Reading a set entry

These hold of every table, in canonical form or not. -/

/-- What is left once the keys up to k are dropped lists nothing up to k. -/
theorem Table.get_dropWhile_below {α : Type} (d : α) {k l : Nat} (h : l ≤ k) (t : Table α) :
    Table.get d (t.dropWhile (fun e => decide (e.1 ≤ k))) l = d := by
  induction t with
  | nil => rfl
  | cons e t ih =>
    rw [List.dropWhile_cons]
    split
    · exact ih
    · next h1 =>
      simp only [decide_eq_true_eq] at h1
      simp only [Table.get]
      rw [if_neg (by omega), if_pos (by omega)]

theorem Table.get_dropWhile_above {α : Type} (d : α) {k l : Nat} (h : k < l) (t : Table α) :
    Table.get d (t.dropWhile (fun e => decide (e.1 ≤ k))) l = Table.get d t l := by
  induction t with
  | nil => rfl
  | cons e t ih =>
    rw [List.dropWhile_cons]
    split
    · next h1 =>
      simp only [decide_eq_true_eq] at h1
      rw [ih]
      conv => rhs; rw [Table.get]
      rw [if_neg (by omega), if_neg (by omega)]
    · rfl

theorem Table.get_erase_self {α : Type} (d : α) (k : Nat) (t : Table α) : Table.get d (Table.erase k t) k = d := by
  induction t with
  | nil => rfl
  | cons e t ih =>
    by_cases h1 : k < e.1
    · simp only [Table.erase, h1, if_true, Table.get]
      rw [if_neg (by omega)]
    · by_cases h2 : k = e.1
      · rw [Table.erase_eq t h2]
        exact Table.get_dropWhile_below d (Nat.le_refl k) t
      · simp only [Table.erase, h1, if_false, h2, Table.get]
        exact ih

theorem Table.get_erase_ne {α : Type} (d : α) {k l : Nat} (h : l ≠ k) (t : Table α) :
    Table.get d (Table.erase k t) l = Table.get d t l := by
  induction t with
  | nil => rfl
  | cons e t ih =>
    by_cases h1 : k < e.1
    · simp only [Table.erase, h1, if_true]
    · by_cases h2 : k = e.1
      · rw [Table.erase_eq t h2]
        by_cases h3 : l < e.1
        · rw [show Table.get d (e :: t) l = d by simp [Table.get, h3, show l ≠ e.1 by omega]]
          exact Table.get_dropWhile_below d (by omega) t
        · rw [Table.get_dropWhile_above d (by omega) t]
          simp [Table.get, h3, show l ≠ e.1 by omega]
      · simp only [Table.erase, h1, if_false, h2, Table.get, ih]

/-- Reading the entry that was set. -/
theorem Table.get_set_self {α : Type} [DecidableEq α] (d : α) (k : Nat) (v : α) (t : Table α) :
    Table.get d (Table.set d k v t) k = v := by
  unfold Table.set
  split
  · next h => rw [Table.get_erase_self d k t, h]
  · exact Table.get_put_self d v k t

/-- Setting an entry leaves every other entry as it is. -/
theorem Table.get_set_ne {α : Type} [DecidableEq α] (d : α) {k l : Nat} (h : l ≠ k) (v : α) (t : Table α) :
    Table.get d (Table.set d k v t) l = Table.get d t l := by
  unfold Table.set
  split
  · exact Table.get_erase_ne d h t
  · exact Table.get_put_ne d v h t

/-- A byte outside the bytes written reads as before. -/
theorem get_writeCells_outside (m : List Host.Cell) (a l : Nat) (bs : List Byte) (h : l < a ∨ a + bs.length ≤ l) :
    Table.get 0 (writeCells m a bs) l = Table.get 0 m l := by
  induction bs generalizing m a with
  | nil => rfl
  | cons b bs ih =>
    simp only [List.length_cons] at h
    rw [writeCells, ih _ _ (by omega), Table.get_set_ne 0 (by omega) b m]

/-- The bytes written are read back. -/
theorem cellsAt_writeCells (m : List Host.Cell) (a : Nat) (bs : List Byte) :
    cellsAt (writeCells m a bs) a bs.length = bs := by
  induction bs generalizing m a with
  | nil => rfl
  | cons b bs ih =>
    simp only [List.length_cons, cellsAt, writeCells]
    rw [ih, get_writeCells_outside _ _ _ _ (by omega), Table.get_set_self 0 a b m]

/-! ## A memory given whole -/

theorem rising_memoryFrom (bytes : List Byte) (k : Nat) (lo : Option Nat) (h : ∀ l, lo = some l → l < k) :
    Table.rising lo (((bytes.zipIdx k).map fun (b, a) => (a, b)).filter (·.2 != 0)) = true := by
  induction bytes generalizing k lo with
  | nil => cases lo <;> rfl
  | cons b bs ih =>
    simp only [List.zipIdx_cons, List.map_cons, List.filter_cons]
    split
    · cases lo with
      | none => exact ih (k + 1) (some k) (by simp)
      | some l => simp [Table.rising, h l rfl]; exact ih (k + 1) (some k) (by simp)
    · exact ih (k + 1) lo fun l hl => Nat.lt_succ_of_lt (h l hl)

/-- The memory that holds some bytes is in canonical form. -/
theorem memoryOf_wf (bytes : List Byte) : Memory.wf (memoryOf bytes) = true := by
  have h := rising_memoryFrom bytes 0 none (by simp)
  simp only [Memory.wf, Table.wf, Bool.and_eq_true]
  exact ⟨h, by simp [memoryOf, List.all_filter]; exact fun a _ _ => Decidable.em (a = 0#8)⟩

end Sys2Proof.Machine
end

