-- ==== Sys2Proof/Laws/State.lean ====
section
/-! SUPPORT. What each update of the state leaves in each field, so that no proof unfolds a record update. -/

namespace Sys2Proof.Machine

variable (s : State)

/-! ## setCore -/

@[simp] theorem State.setCore_sched (l : Nat) (c : Core) : (s.setCore l c).sched = s.sched := rfl
@[simp] theorem State.setCore_ticks (l : Nat) (c : Core) : (s.setCore l c).ticks = s.ticks := rfl
@[simp] theorem State.setCore_cur (l : Nat) (c : Core) : (s.setCore l c).cur = s.cur := rfl
@[simp] theorem State.setCore_inRpt (l : Nat) (c : Core) : (s.setCore l c).inRpt = s.inRpt := rfl
@[simp] theorem State.setCore_cycle (l : Nat) (c : Core) : (s.setCore l c).cycle = s.cycle := rfl
@[simp] theorem State.setCore_clusters (l : Nat) (c : Core) : (s.setCore l c).clusters = s.clusters := rfl
@[simp] theorem State.setCore_brims (l : Nat) (c : Core) : (s.setCore l c).brims = s.brims := rfl
@[simp] theorem State.setCore_ports (l : Nat) (c : Core) : (s.setCore l c).ports = s.ports := rfl
@[simp] theorem State.setCore_ext (l : Nat) (c : Core) : (s.setCore l c).ext = s.ext := rfl
@[simp] theorem State.setCore_extPoison (l : Nat) (c : Core) : (s.setCore l c).extPoison = s.extPoison := rfl
@[simp] theorem State.setCore_hostMem (l : Nat) (c : Core) : (s.setCore l c).hostMem = s.hostMem := rfl
@[simp] theorem State.setCore_scalarStalls (l : Nat) (c : Core) : (s.setCore l c).scalarStalls = s.scalarStalls := rfl
@[simp] theorem State.setCore_migs (l : Nat) (c : Core) : (s.setCore l c).migs = s.migs := rfl
@[simp] theorem State.setCore_tokens (l : Nat) (c : Core) : (s.setCore l c).tokens = s.tokens := rfl
@[simp] theorem State.setCore_linkCtxs (l : Nat) (c : Core) : (s.setCore l c).linkCtxs = s.linkCtxs := rfl
@[simp] theorem State.setCore_collectives (l : Nat) (c : Core) : (s.setCore l c).collectives = s.collectives := rfl
@[simp] theorem State.setCore_arrivals (l : Nat) (c : Core) : (s.setCore l c).arrivals = s.arrivals := rfl
@[simp] theorem State.setCore_groups (l : Nat) (c : Core) : (s.setCore l c).groups = s.groups := rfl
@[simp] theorem State.setCore_crownIn (l : Nat) (c : Core) : (s.setCore l c).crownIn = s.crownIn := rfl
@[simp] theorem State.setCore_jobs (l : Nat) (c : Core) : (s.setCore l c).jobs = s.jobs := rfl
@[simp] theorem State.setCore_regions (l : Nat) (c : Core) : (s.setCore l c).regions = s.regions := rfl
@[simp] theorem State.setCore_queues (l : Nat) (c : Core) : (s.setCore l c).queues = s.queues := rfl
@[simp] theorem State.setCore_queueTurn (l : Nat) (c : Core) : (s.setCore l c).queueTurn = s.queueTurn := rfl
@[simp] theorem State.setCore_mg (l : Nat) (c : Core) : (s.setCore l c).mg = s.mg := rfl
@[simp] theorem State.setCore_deadCores (l : Nat) (c : Core) : (s.setCore l c).deadCores = s.deadCores := rfl
@[simp] theorem State.setCore_dead (l : Nat) (c : Core) : (s.setCore l c).dead = s.dead := rfl
@[simp] theorem State.setCore_deadLinks (l : Nat) (c : Core) : (s.setCore l c).deadLinks = s.deadLinks := rfl
@[simp] theorem State.setCore_missing (l : Nat) (c : Core) : (s.setCore l c).missing = s.missing := rfl
@[simp] theorem State.setCore_retired (l : Nat) (c : Core) : (s.setCore l c).retired = s.retired := rfl
@[simp] theorem State.setCore_meshRetries (l : Nat) (c : Core) : (s.setCore l c).meshRetries = s.meshRetries := rfl
@[simp] theorem State.setCore_raised (l : Nat) (c : Core) : (s.setCore l c).raised = s.raised := rfl
@[simp] theorem State.setCore_launches (l : Nat) (c : Core) : (s.setCore l c).launches = s.launches := rfl
@[simp] theorem State.setCore_mapped (l : Nat) (c : Core) : (s.setCore l c).mapped = s.mapped := rfl

/-! ## setMe -/

@[simp] theorem State.setMe_sched (c : Core) : (s.setMe c).sched = s.sched := rfl
@[simp] theorem State.setMe_ticks (c : Core) : (s.setMe c).ticks = s.ticks := rfl
@[simp] theorem State.setMe_cur (c : Core) : (s.setMe c).cur = s.cur := rfl
@[simp] theorem State.setMe_inRpt (c : Core) : (s.setMe c).inRpt = s.inRpt := rfl
@[simp] theorem State.setMe_cycle (c : Core) : (s.setMe c).cycle = s.cycle := rfl
@[simp] theorem State.setMe_clusters (c : Core) : (s.setMe c).clusters = s.clusters := rfl
@[simp] theorem State.setMe_brims (c : Core) : (s.setMe c).brims = s.brims := rfl
@[simp] theorem State.setMe_ports (c : Core) : (s.setMe c).ports = s.ports := rfl
@[simp] theorem State.setMe_ext (c : Core) : (s.setMe c).ext = s.ext := rfl
@[simp] theorem State.setMe_extPoison (c : Core) : (s.setMe c).extPoison = s.extPoison := rfl
@[simp] theorem State.setMe_hostMem (c : Core) : (s.setMe c).hostMem = s.hostMem := rfl
@[simp] theorem State.setMe_scalarStalls (c : Core) : (s.setMe c).scalarStalls = s.scalarStalls := rfl
@[simp] theorem State.setMe_migs (c : Core) : (s.setMe c).migs = s.migs := rfl
@[simp] theorem State.setMe_tokens (c : Core) : (s.setMe c).tokens = s.tokens := rfl
@[simp] theorem State.setMe_linkCtxs (c : Core) : (s.setMe c).linkCtxs = s.linkCtxs := rfl
@[simp] theorem State.setMe_collectives (c : Core) : (s.setMe c).collectives = s.collectives := rfl
@[simp] theorem State.setMe_arrivals (c : Core) : (s.setMe c).arrivals = s.arrivals := rfl
@[simp] theorem State.setMe_groups (c : Core) : (s.setMe c).groups = s.groups := rfl
@[simp] theorem State.setMe_crownIn (c : Core) : (s.setMe c).crownIn = s.crownIn := rfl
@[simp] theorem State.setMe_jobs (c : Core) : (s.setMe c).jobs = s.jobs := rfl
@[simp] theorem State.setMe_regions (c : Core) : (s.setMe c).regions = s.regions := rfl
@[simp] theorem State.setMe_queues (c : Core) : (s.setMe c).queues = s.queues := rfl
@[simp] theorem State.setMe_queueTurn (c : Core) : (s.setMe c).queueTurn = s.queueTurn := rfl
@[simp] theorem State.setMe_mg (c : Core) : (s.setMe c).mg = s.mg := rfl
@[simp] theorem State.setMe_deadCores (c : Core) : (s.setMe c).deadCores = s.deadCores := rfl
@[simp] theorem State.setMe_dead (c : Core) : (s.setMe c).dead = s.dead := rfl
@[simp] theorem State.setMe_deadLinks (c : Core) : (s.setMe c).deadLinks = s.deadLinks := rfl
@[simp] theorem State.setMe_missing (c : Core) : (s.setMe c).missing = s.missing := rfl
@[simp] theorem State.setMe_retired (c : Core) : (s.setMe c).retired = s.retired := rfl
@[simp] theorem State.setMe_meshRetries (c : Core) : (s.setMe c).meshRetries = s.meshRetries := rfl
@[simp] theorem State.setMe_raised (c : Core) : (s.setMe c).raised = s.raised := rfl
@[simp] theorem State.setMe_launches (c : Core) : (s.setMe c).launches = s.launches := rfl
@[simp] theorem State.setMe_mapped (c : Core) : (s.setMe c).mapped = s.mapped := rfl

/-! ## setCluster -/

@[simp] theorem State.setCluster_sched (l : Nat) (e : Cluster) : (s.setCluster l e).sched = s.sched := rfl
@[simp] theorem State.setCluster_ticks (l : Nat) (e : Cluster) : (s.setCluster l e).ticks = s.ticks := rfl
@[simp] theorem State.setCluster_cur (l : Nat) (e : Cluster) : (s.setCluster l e).cur = s.cur := rfl
@[simp] theorem State.setCluster_inRpt (l : Nat) (e : Cluster) : (s.setCluster l e).inRpt = s.inRpt := rfl
@[simp] theorem State.setCluster_cycle (l : Nat) (e : Cluster) : (s.setCluster l e).cycle = s.cycle := rfl
@[simp] theorem State.setCluster_cores (l : Nat) (e : Cluster) : (s.setCluster l e).cores = s.cores := rfl
@[simp] theorem State.setCluster_brims (l : Nat) (e : Cluster) : (s.setCluster l e).brims = s.brims := rfl
@[simp] theorem State.setCluster_ports (l : Nat) (e : Cluster) : (s.setCluster l e).ports = s.ports := rfl
@[simp] theorem State.setCluster_ext (l : Nat) (e : Cluster) : (s.setCluster l e).ext = s.ext := rfl
@[simp] theorem State.setCluster_extPoison (l : Nat) (e : Cluster) : (s.setCluster l e).extPoison = s.extPoison := rfl
@[simp] theorem State.setCluster_hostMem (l : Nat) (e : Cluster) : (s.setCluster l e).hostMem = s.hostMem := rfl
@[simp] theorem State.setCluster_scalarStalls (l : Nat) (e : Cluster) : (s.setCluster l e).scalarStalls = s.scalarStalls := rfl
@[simp] theorem State.setCluster_migs (l : Nat) (e : Cluster) : (s.setCluster l e).migs = s.migs := rfl
@[simp] theorem State.setCluster_tokens (l : Nat) (e : Cluster) : (s.setCluster l e).tokens = s.tokens := rfl
@[simp] theorem State.setCluster_linkCtxs (l : Nat) (e : Cluster) : (s.setCluster l e).linkCtxs = s.linkCtxs := rfl
@[simp] theorem State.setCluster_collectives (l : Nat) (e : Cluster) : (s.setCluster l e).collectives = s.collectives := rfl
@[simp] theorem State.setCluster_arrivals (l : Nat) (e : Cluster) : (s.setCluster l e).arrivals = s.arrivals := rfl
@[simp] theorem State.setCluster_groups (l : Nat) (e : Cluster) : (s.setCluster l e).groups = s.groups := rfl
@[simp] theorem State.setCluster_crownIn (l : Nat) (e : Cluster) : (s.setCluster l e).crownIn = s.crownIn := rfl
@[simp] theorem State.setCluster_jobs (l : Nat) (e : Cluster) : (s.setCluster l e).jobs = s.jobs := rfl
@[simp] theorem State.setCluster_regions (l : Nat) (e : Cluster) : (s.setCluster l e).regions = s.regions := rfl
@[simp] theorem State.setCluster_queues (l : Nat) (e : Cluster) : (s.setCluster l e).queues = s.queues := rfl
@[simp] theorem State.setCluster_queueTurn (l : Nat) (e : Cluster) : (s.setCluster l e).queueTurn = s.queueTurn := rfl
@[simp] theorem State.setCluster_mg (l : Nat) (e : Cluster) : (s.setCluster l e).mg = s.mg := rfl
@[simp] theorem State.setCluster_deadCores (l : Nat) (e : Cluster) : (s.setCluster l e).deadCores = s.deadCores := rfl
@[simp] theorem State.setCluster_dead (l : Nat) (e : Cluster) : (s.setCluster l e).dead = s.dead := rfl
@[simp] theorem State.setCluster_deadLinks (l : Nat) (e : Cluster) : (s.setCluster l e).deadLinks = s.deadLinks := rfl
@[simp] theorem State.setCluster_missing (l : Nat) (e : Cluster) : (s.setCluster l e).missing = s.missing := rfl
@[simp] theorem State.setCluster_retired (l : Nat) (e : Cluster) : (s.setCluster l e).retired = s.retired := rfl
@[simp] theorem State.setCluster_meshRetries (l : Nat) (e : Cluster) : (s.setCluster l e).meshRetries = s.meshRetries := rfl
@[simp] theorem State.setCluster_raised (l : Nat) (e : Cluster) : (s.setCluster l e).raised = s.raised := rfl
@[simp] theorem State.setCluster_launches (l : Nat) (e : Cluster) : (s.setCluster l e).launches = s.launches := rfl
@[simp] theorem State.setCluster_mapped (l : Nat) (e : Cluster) : (s.setCluster l e).mapped = s.mapped := rfl

/-! ## setBrim -/

@[simp] theorem State.setBrim_sched (p : Nat) (b : Brim) : (s.setBrim p b).sched = s.sched := rfl
@[simp] theorem State.setBrim_ticks (p : Nat) (b : Brim) : (s.setBrim p b).ticks = s.ticks := rfl
@[simp] theorem State.setBrim_cur (p : Nat) (b : Brim) : (s.setBrim p b).cur = s.cur := rfl
@[simp] theorem State.setBrim_inRpt (p : Nat) (b : Brim) : (s.setBrim p b).inRpt = s.inRpt := rfl
@[simp] theorem State.setBrim_cycle (p : Nat) (b : Brim) : (s.setBrim p b).cycle = s.cycle := rfl
@[simp] theorem State.setBrim_cores (p : Nat) (b : Brim) : (s.setBrim p b).cores = s.cores := rfl
@[simp] theorem State.setBrim_clusters (p : Nat) (b : Brim) : (s.setBrim p b).clusters = s.clusters := rfl
@[simp] theorem State.setBrim_ports (p : Nat) (b : Brim) : (s.setBrim p b).ports = s.ports := rfl
@[simp] theorem State.setBrim_ext (p : Nat) (b : Brim) : (s.setBrim p b).ext = s.ext := rfl
@[simp] theorem State.setBrim_extPoison (p : Nat) (b : Brim) : (s.setBrim p b).extPoison = s.extPoison := rfl
@[simp] theorem State.setBrim_hostMem (p : Nat) (b : Brim) : (s.setBrim p b).hostMem = s.hostMem := rfl
@[simp] theorem State.setBrim_scalarStalls (p : Nat) (b : Brim) : (s.setBrim p b).scalarStalls = s.scalarStalls := rfl
@[simp] theorem State.setBrim_migs (p : Nat) (b : Brim) : (s.setBrim p b).migs = s.migs := rfl
@[simp] theorem State.setBrim_tokens (p : Nat) (b : Brim) : (s.setBrim p b).tokens = s.tokens := rfl
@[simp] theorem State.setBrim_linkCtxs (p : Nat) (b : Brim) : (s.setBrim p b).linkCtxs = s.linkCtxs := rfl
@[simp] theorem State.setBrim_collectives (p : Nat) (b : Brim) : (s.setBrim p b).collectives = s.collectives := rfl
@[simp] theorem State.setBrim_arrivals (p : Nat) (b : Brim) : (s.setBrim p b).arrivals = s.arrivals := rfl
@[simp] theorem State.setBrim_groups (p : Nat) (b : Brim) : (s.setBrim p b).groups = s.groups := rfl
@[simp] theorem State.setBrim_crownIn (p : Nat) (b : Brim) : (s.setBrim p b).crownIn = s.crownIn := rfl
@[simp] theorem State.setBrim_jobs (p : Nat) (b : Brim) : (s.setBrim p b).jobs = s.jobs := rfl
@[simp] theorem State.setBrim_regions (p : Nat) (b : Brim) : (s.setBrim p b).regions = s.regions := rfl
@[simp] theorem State.setBrim_queues (p : Nat) (b : Brim) : (s.setBrim p b).queues = s.queues := rfl
@[simp] theorem State.setBrim_queueTurn (p : Nat) (b : Brim) : (s.setBrim p b).queueTurn = s.queueTurn := rfl
@[simp] theorem State.setBrim_mg (p : Nat) (b : Brim) : (s.setBrim p b).mg = s.mg := rfl
@[simp] theorem State.setBrim_deadCores (p : Nat) (b : Brim) : (s.setBrim p b).deadCores = s.deadCores := rfl
@[simp] theorem State.setBrim_dead (p : Nat) (b : Brim) : (s.setBrim p b).dead = s.dead := rfl
@[simp] theorem State.setBrim_deadLinks (p : Nat) (b : Brim) : (s.setBrim p b).deadLinks = s.deadLinks := rfl
@[simp] theorem State.setBrim_missing (p : Nat) (b : Brim) : (s.setBrim p b).missing = s.missing := rfl
@[simp] theorem State.setBrim_retired (p : Nat) (b : Brim) : (s.setBrim p b).retired = s.retired := rfl
@[simp] theorem State.setBrim_meshRetries (p : Nat) (b : Brim) : (s.setBrim p b).meshRetries = s.meshRetries := rfl
@[simp] theorem State.setBrim_raised (p : Nat) (b : Brim) : (s.setBrim p b).raised = s.raised := rfl
@[simp] theorem State.setBrim_launches (p : Nat) (b : Brim) : (s.setBrim p b).launches = s.launches := rfl
@[simp] theorem State.setBrim_mapped (p : Nat) (b : Brim) : (s.setBrim p b).mapped = s.mapped := rfl

/-! ## setPort -/

@[simp] theorem State.setPort_sched (p : Nat) (b : LinkPort) : (s.setPort p b).sched = s.sched := rfl
@[simp] theorem State.setPort_ticks (p : Nat) (b : LinkPort) : (s.setPort p b).ticks = s.ticks := rfl
@[simp] theorem State.setPort_cur (p : Nat) (b : LinkPort) : (s.setPort p b).cur = s.cur := rfl
@[simp] theorem State.setPort_inRpt (p : Nat) (b : LinkPort) : (s.setPort p b).inRpt = s.inRpt := rfl
@[simp] theorem State.setPort_cycle (p : Nat) (b : LinkPort) : (s.setPort p b).cycle = s.cycle := rfl
@[simp] theorem State.setPort_cores (p : Nat) (b : LinkPort) : (s.setPort p b).cores = s.cores := rfl
@[simp] theorem State.setPort_clusters (p : Nat) (b : LinkPort) : (s.setPort p b).clusters = s.clusters := rfl
@[simp] theorem State.setPort_brims (p : Nat) (b : LinkPort) : (s.setPort p b).brims = s.brims := rfl
@[simp] theorem State.setPort_ext (p : Nat) (b : LinkPort) : (s.setPort p b).ext = s.ext := rfl
@[simp] theorem State.setPort_extPoison (p : Nat) (b : LinkPort) : (s.setPort p b).extPoison = s.extPoison := rfl
@[simp] theorem State.setPort_hostMem (p : Nat) (b : LinkPort) : (s.setPort p b).hostMem = s.hostMem := rfl
@[simp] theorem State.setPort_scalarStalls (p : Nat) (b : LinkPort) : (s.setPort p b).scalarStalls = s.scalarStalls := rfl
@[simp] theorem State.setPort_migs (p : Nat) (b : LinkPort) : (s.setPort p b).migs = s.migs := rfl
@[simp] theorem State.setPort_tokens (p : Nat) (b : LinkPort) : (s.setPort p b).tokens = s.tokens := rfl
@[simp] theorem State.setPort_linkCtxs (p : Nat) (b : LinkPort) : (s.setPort p b).linkCtxs = s.linkCtxs := rfl
@[simp] theorem State.setPort_collectives (p : Nat) (b : LinkPort) : (s.setPort p b).collectives = s.collectives := rfl
@[simp] theorem State.setPort_arrivals (p : Nat) (b : LinkPort) : (s.setPort p b).arrivals = s.arrivals := rfl
@[simp] theorem State.setPort_groups (p : Nat) (b : LinkPort) : (s.setPort p b).groups = s.groups := rfl
@[simp] theorem State.setPort_crownIn (p : Nat) (b : LinkPort) : (s.setPort p b).crownIn = s.crownIn := rfl
@[simp] theorem State.setPort_jobs (p : Nat) (b : LinkPort) : (s.setPort p b).jobs = s.jobs := rfl
@[simp] theorem State.setPort_regions (p : Nat) (b : LinkPort) : (s.setPort p b).regions = s.regions := rfl
@[simp] theorem State.setPort_queues (p : Nat) (b : LinkPort) : (s.setPort p b).queues = s.queues := rfl
@[simp] theorem State.setPort_queueTurn (p : Nat) (b : LinkPort) : (s.setPort p b).queueTurn = s.queueTurn := rfl
@[simp] theorem State.setPort_mg (p : Nat) (b : LinkPort) : (s.setPort p b).mg = s.mg := rfl
@[simp] theorem State.setPort_deadCores (p : Nat) (b : LinkPort) : (s.setPort p b).deadCores = s.deadCores := rfl
@[simp] theorem State.setPort_dead (p : Nat) (b : LinkPort) : (s.setPort p b).dead = s.dead := rfl
@[simp] theorem State.setPort_deadLinks (p : Nat) (b : LinkPort) : (s.setPort p b).deadLinks = s.deadLinks := rfl
@[simp] theorem State.setPort_missing (p : Nat) (b : LinkPort) : (s.setPort p b).missing = s.missing := rfl
@[simp] theorem State.setPort_retired (p : Nat) (b : LinkPort) : (s.setPort p b).retired = s.retired := rfl
@[simp] theorem State.setPort_meshRetries (p : Nat) (b : LinkPort) : (s.setPort p b).meshRetries = s.meshRetries := rfl
@[simp] theorem State.setPort_raised (p : Nat) (b : LinkPort) : (s.setPort p b).raised = s.raised := rfl
@[simp] theorem State.setPort_launches (p : Nat) (b : LinkPort) : (s.setPort p b).launches = s.launches := rfl
@[simp] theorem State.setPort_mapped (p : Nat) (b : LinkPort) : (s.setPort p b).mapped = s.mapped := rfl

/-! ## setQueue -/

@[simp] theorem State.setQueue_sched (q : Nat) (b : Queue) : (s.setQueue q b).sched = s.sched := rfl
@[simp] theorem State.setQueue_ticks (q : Nat) (b : Queue) : (s.setQueue q b).ticks = s.ticks := rfl
@[simp] theorem State.setQueue_cur (q : Nat) (b : Queue) : (s.setQueue q b).cur = s.cur := rfl
@[simp] theorem State.setQueue_inRpt (q : Nat) (b : Queue) : (s.setQueue q b).inRpt = s.inRpt := rfl
@[simp] theorem State.setQueue_cycle (q : Nat) (b : Queue) : (s.setQueue q b).cycle = s.cycle := rfl
@[simp] theorem State.setQueue_cores (q : Nat) (b : Queue) : (s.setQueue q b).cores = s.cores := rfl
@[simp] theorem State.setQueue_clusters (q : Nat) (b : Queue) : (s.setQueue q b).clusters = s.clusters := rfl
@[simp] theorem State.setQueue_brims (q : Nat) (b : Queue) : (s.setQueue q b).brims = s.brims := rfl
@[simp] theorem State.setQueue_ports (q : Nat) (b : Queue) : (s.setQueue q b).ports = s.ports := rfl
@[simp] theorem State.setQueue_ext (q : Nat) (b : Queue) : (s.setQueue q b).ext = s.ext := rfl
@[simp] theorem State.setQueue_extPoison (q : Nat) (b : Queue) : (s.setQueue q b).extPoison = s.extPoison := rfl
@[simp] theorem State.setQueue_hostMem (q : Nat) (b : Queue) : (s.setQueue q b).hostMem = s.hostMem := rfl
@[simp] theorem State.setQueue_scalarStalls (q : Nat) (b : Queue) : (s.setQueue q b).scalarStalls = s.scalarStalls := rfl
@[simp] theorem State.setQueue_migs (q : Nat) (b : Queue) : (s.setQueue q b).migs = s.migs := rfl
@[simp] theorem State.setQueue_tokens (q : Nat) (b : Queue) : (s.setQueue q b).tokens = s.tokens := rfl
@[simp] theorem State.setQueue_linkCtxs (q : Nat) (b : Queue) : (s.setQueue q b).linkCtxs = s.linkCtxs := rfl
@[simp] theorem State.setQueue_collectives (q : Nat) (b : Queue) : (s.setQueue q b).collectives = s.collectives := rfl
@[simp] theorem State.setQueue_arrivals (q : Nat) (b : Queue) : (s.setQueue q b).arrivals = s.arrivals := rfl
@[simp] theorem State.setQueue_groups (q : Nat) (b : Queue) : (s.setQueue q b).groups = s.groups := rfl
@[simp] theorem State.setQueue_crownIn (q : Nat) (b : Queue) : (s.setQueue q b).crownIn = s.crownIn := rfl
@[simp] theorem State.setQueue_jobs (q : Nat) (b : Queue) : (s.setQueue q b).jobs = s.jobs := rfl
@[simp] theorem State.setQueue_regions (q : Nat) (b : Queue) : (s.setQueue q b).regions = s.regions := rfl
@[simp] theorem State.setQueue_queueTurn (q : Nat) (b : Queue) : (s.setQueue q b).queueTurn = s.queueTurn := rfl
@[simp] theorem State.setQueue_mg (q : Nat) (b : Queue) : (s.setQueue q b).mg = s.mg := rfl
@[simp] theorem State.setQueue_deadCores (q : Nat) (b : Queue) : (s.setQueue q b).deadCores = s.deadCores := rfl
@[simp] theorem State.setQueue_dead (q : Nat) (b : Queue) : (s.setQueue q b).dead = s.dead := rfl
@[simp] theorem State.setQueue_deadLinks (q : Nat) (b : Queue) : (s.setQueue q b).deadLinks = s.deadLinks := rfl
@[simp] theorem State.setQueue_missing (q : Nat) (b : Queue) : (s.setQueue q b).missing = s.missing := rfl
@[simp] theorem State.setQueue_retired (q : Nat) (b : Queue) : (s.setQueue q b).retired = s.retired := rfl
@[simp] theorem State.setQueue_meshRetries (q : Nat) (b : Queue) : (s.setQueue q b).meshRetries = s.meshRetries := rfl
@[simp] theorem State.setQueue_raised (q : Nat) (b : Queue) : (s.setQueue q b).raised = s.raised := rfl
@[simp] theorem State.setQueue_launches (q : Nat) (b : Queue) : (s.setQueue q b).launches = s.launches := rfl
@[simp] theorem State.setQueue_mapped (q : Nat) (b : Queue) : (s.setQueue q b).mapped = s.mapped := rfl

/-! ## completed -/

@[simp] theorem State.completed_sched (c : Core) : (s.completed c).sched = s.sched := rfl
@[simp] theorem State.completed_ticks (c : Core) : (s.completed c).ticks = s.ticks := rfl
@[simp] theorem State.completed_cur (c : Core) : (s.completed c).cur = s.cur := rfl
@[simp] theorem State.completed_inRpt (c : Core) : (s.completed c).inRpt = s.inRpt := rfl
@[simp] theorem State.completed_cycle (c : Core) : (s.completed c).cycle = s.cycle := rfl
@[simp] theorem State.completed_clusters (c : Core) : (s.completed c).clusters = s.clusters := rfl
@[simp] theorem State.completed_brims (c : Core) : (s.completed c).brims = s.brims := rfl
@[simp] theorem State.completed_ports (c : Core) : (s.completed c).ports = s.ports := rfl
@[simp] theorem State.completed_ext (c : Core) : (s.completed c).ext = s.ext := rfl
@[simp] theorem State.completed_extPoison (c : Core) : (s.completed c).extPoison = s.extPoison := rfl
@[simp] theorem State.completed_hostMem (c : Core) : (s.completed c).hostMem = s.hostMem := rfl
@[simp] theorem State.completed_scalarStalls (c : Core) : (s.completed c).scalarStalls = s.scalarStalls := rfl
@[simp] theorem State.completed_migs (c : Core) : (s.completed c).migs = s.migs := rfl
@[simp] theorem State.completed_tokens (c : Core) : (s.completed c).tokens = s.tokens := rfl
@[simp] theorem State.completed_linkCtxs (c : Core) : (s.completed c).linkCtxs = s.linkCtxs := rfl
@[simp] theorem State.completed_collectives (c : Core) : (s.completed c).collectives = s.collectives := rfl
@[simp] theorem State.completed_arrivals (c : Core) : (s.completed c).arrivals = s.arrivals := rfl
@[simp] theorem State.completed_groups (c : Core) : (s.completed c).groups = s.groups := rfl
@[simp] theorem State.completed_crownIn (c : Core) : (s.completed c).crownIn = s.crownIn := rfl
@[simp] theorem State.completed_jobs (c : Core) : (s.completed c).jobs = s.jobs := rfl
@[simp] theorem State.completed_regions (c : Core) : (s.completed c).regions = s.regions := rfl
@[simp] theorem State.completed_queues (c : Core) : (s.completed c).queues = s.queues := rfl
@[simp] theorem State.completed_queueTurn (c : Core) : (s.completed c).queueTurn = s.queueTurn := rfl
@[simp] theorem State.completed_mg (c : Core) : (s.completed c).mg = s.mg := rfl
@[simp] theorem State.completed_deadCores (c : Core) : (s.completed c).deadCores = s.deadCores := rfl
@[simp] theorem State.completed_dead (c : Core) : (s.completed c).dead = s.dead := rfl
@[simp] theorem State.completed_deadLinks (c : Core) : (s.completed c).deadLinks = s.deadLinks := rfl
@[simp] theorem State.completed_missing (c : Core) : (s.completed c).missing = s.missing := rfl
@[simp] theorem State.completed_retired (c : Core) : (s.completed c).retired = s.retired := rfl
@[simp] theorem State.completed_meshRetries (c : Core) : (s.completed c).meshRetries = s.meshRetries := rfl
@[simp] theorem State.completed_raised (c : Core) : (s.completed c).raised = s.raised := rfl
@[simp] theorem State.completed_launches (c : Core) : (s.completed c).launches = s.launches := rfl
@[simp] theorem State.completed_mapped (c : Core) : (s.completed c).mapped = s.mapped := rfl

/-! ## Core.setReg -/

@[simp] theorem Core.setReg_flags (c : Core) (n : Nat) (v : Word) : (c.setReg n v).flags = c.flags := by
  unfold Core.setReg; split <;> rfl
@[simp] theorem Core.setReg_pc (c : Core) (n : Nat) (v : Word) : (c.setReg n v).pc = c.pc := by
  unfold Core.setReg; split <;> rfl
@[simp] theorem Core.setReg_ras (c : Core) (n : Nat) (v : Word) : (c.setReg n v).ras = c.ras := by
  unfold Core.setReg; split <;> rfl
@[simp] theorem Core.setReg_rasSp (c : Core) (n : Nat) (v : Word) : (c.setReg n v).rasSp = c.rasSp := by
  unfold Core.setReg; split <;> rfl
@[simp] theorem Core.setReg_rasFloor (c : Core) (n : Nat) (v : Word) : (c.setReg n v).rasFloor = c.rasFloor := by
  unfold Core.setReg; split <;> rfl
@[simp] theorem Core.setReg_runq (c : Core) (n : Nat) (v : Word) : (c.setReg n v).runq = c.runq := by
  unfold Core.setReg; split <;> rfl
@[simp] theorem Core.setReg_inbox (c : Core) (n : Nat) (v : Word) : (c.setReg n v).inbox = c.inbox := by
  unfold Core.setReg; split <;> rfl
@[simp] theorem Core.setReg_unbound (c : Core) (n : Nat) (v : Word) : (c.setReg n v).unbound = c.unbound := by
  unfold Core.setReg; split <;> rfl
@[simp] theorem Core.setReg_trig (c : Core) (n : Nat) (v : Word) : (c.setReg n v).trig = c.trig := by
  unfold Core.setReg; split <;> rfl
@[simp] theorem Core.setReg_trigOrder (c : Core) (n : Nat) (v : Word) : (c.setReg n v).trigOrder = c.trigOrder := by
  unfold Core.setReg; split <;> rfl
@[simp] theorem Core.setReg_trigBusy (c : Core) (n : Nat) (v : Word) : (c.setReg n v).trigBusy = c.trigBusy := by
  unfold Core.setReg; split <;> rfl
@[simp] theorem Core.setReg_lastSource (c : Core) (n : Nat) (v : Word) : (c.setReg n v).lastSource = c.lastSource := by
  unfold Core.setReg; split <;> rfl
@[simp] theorem Core.setReg_rpt (c : Core) (n : Nat) (v : Word) : (c.setReg n v).rpt = c.rpt := by
  unfold Core.setReg; split <;> rfl
@[simp] theorem Core.setReg_rptState (c : Core) (n : Nat) (v : Word) : (c.setReg n v).rptState = c.rptState := by
  unfold Core.setReg; split <;> rfl
@[simp] theorem Core.setReg_rptWord (c : Core) (n : Nat) (v : Word) : (c.setReg n v).rptWord = c.rptWord := by
  unfold Core.setReg; split <;> rfl
@[simp] theorem Core.setReg_half (c : Core) (n : Nat) (v : Word) : (c.setReg n v).half = c.half := by
  unfold Core.setReg; split <;> rfl
@[simp] theorem Core.setReg_mode (c : Core) (n : Nat) (v : Word) : (c.setReg n v).mode = c.mode := by
  unfold Core.setReg; split <;> rfl
@[simp] theorem Core.setReg_fpFlags (c : Core) (n : Nat) (v : Word) : (c.setReg n v).fpFlags = c.fpFlags := by
  unfold Core.setReg; split <;> rfl
@[simp] theorem Core.setReg_waitLimit (c : Core) (n : Nat) (v : Word) : (c.setReg n v).waitLimit = c.waitLimit := by
  unfold Core.setReg; split <;> rfl
@[simp] theorem Core.setReg_prv (c : Core) (n : Nat) (v : Word) : (c.setReg n v).prv = c.prv := by
  unfold Core.setReg; split <;> rfl
@[simp] theorem Core.setReg_pprv (c : Core) (n : Nat) (v : Word) : (c.setReg n v).pprv = c.pprv := by
  unfold Core.setReg; split <;> rfl
@[simp] theorem Core.setReg_intrap (c : Core) (n : Nat) (v : Word) : (c.setReg n v).intrap = c.intrap := by
  unfold Core.setReg; split <;> rfl
@[simp] theorem Core.setReg_trapCause (c : Core) (n : Nat) (v : Word) : (c.setReg n v).trapCause = c.trapCause := by
  unfold Core.setReg; split <;> rfl
@[simp] theorem Core.setReg_trapPc (c : Core) (n : Nat) (v : Word) : (c.setReg n v).trapPc = c.trapPc := by
  unfold Core.setReg; split <;> rfl
@[simp] theorem Core.setReg_trapVal (c : Core) (n : Nat) (v : Word) : (c.setReg n v).trapVal = c.trapVal := by
  unfold Core.setReg; split <;> rfl
@[simp] theorem Core.setReg_trapVec (c : Core) (n : Nat) (v : Word) : (c.setReg n v).trapVec = c.trapVec := by
  unfold Core.setReg; split <;> rfl
@[simp] theorem Core.setReg_scratch0 (c : Core) (n : Nat) (v : Word) : (c.setReg n v).scratch0 = c.scratch0 := by
  unfold Core.setReg; split <;> rfl
@[simp] theorem Core.setReg_scratch1 (c : Core) (n : Nat) (v : Word) : (c.setReg n v).scratch1 = c.scratch1 := by
  unfold Core.setReg; split <;> rfl
@[simp] theorem Core.setReg_coreRx (c : Core) (n : Nat) (v : Word) : (c.setReg n v).coreRx = c.coreRx := by
  unfold Core.setReg; split <;> rfl
@[simp] theorem Core.setReg_coreRy (c : Core) (n : Nat) (v : Word) : (c.setReg n v).coreRy = c.coreRy := by
  unfold Core.setReg; split <;> rfl
@[simp] theorem Core.setReg_regionId (c : Core) (n : Nat) (v : Word) : (c.setReg n v).regionId = c.regionId := by
  unfold Core.setReg; split <;> rfl
@[simp] theorem Core.setReg_dcl (c : Core) (n : Nat) (v : Word) : (c.setReg n v).dcl = c.dcl := by
  unfold Core.setReg; split <;> rfl
@[simp] theorem Core.setReg_hwp (c : Core) (n : Nat) (v : Word) : (c.setReg n v).hwp = c.hwp := by
  unfold Core.setReg; split <;> rfl
@[simp] theorem Core.setReg_spillBase (c : Core) (n : Nat) (v : Word) : (c.setReg n v).spillBase = c.spillBase := by
  unfold Core.setReg; split <;> rfl
@[simp] theorem Core.setReg_spillLim (c : Core) (n : Nat) (v : Word) : (c.setReg n v).spillLim = c.spillLim := by
  unfold Core.setReg; split <;> rfl
@[simp] theorem Core.setReg_spillOvf (c : Core) (n : Nat) (v : Word) : (c.setReg n v).spillOvf = c.spillOvf := by
  unfold Core.setReg; split <;> rfl
@[simp] theorem Core.setReg_codeLim (c : Core) (n : Nat) (v : Word) : (c.setReg n v).codeLim = c.codeLim := by
  unfold Core.setReg; split <;> rfl
@[simp] theorem Core.setReg_dataBase (c : Core) (n : Nat) (v : Word) : (c.setReg n v).dataBase = c.dataBase := by
  unfold Core.setReg; split <;> rfl
@[simp] theorem Core.setReg_dataLim (c : Core) (n : Nat) (v : Word) : (c.setReg n v).dataLim = c.dataLim := by
  unfold Core.setReg; split <;> rfl
@[simp] theorem Core.setReg_cbufBase (c : Core) (n : Nat) (v : Word) : (c.setReg n v).cbufBase = c.cbufBase := by
  unfold Core.setReg; split <;> rfl
@[simp] theorem Core.setReg_cbufLim (c : Core) (n : Nat) (v : Word) : (c.setReg n v).cbufLim = c.cbufLim := by
  unfold Core.setReg; split <;> rfl
@[simp] theorem Core.setReg_wait (c : Core) (n : Nat) (v : Word) : (c.setReg n v).wait = c.wait := by
  unfold Core.setReg; split <;> rfl
@[simp] theorem Core.setReg_rptWait (c : Core) (n : Nat) (v : Word) : (c.setReg n v).rptWait = c.rptWait := by
  unfold Core.setReg; split <;> rfl
@[simp] theorem Core.setReg_progress (c : Core) (n : Nat) (v : Word) : (c.setReg n v).progress = c.progress := by
  unfold Core.setReg; split <;> rfl
@[simp] theorem Core.setReg_rptProgress (c : Core) (n : Nat) (v : Word) : (c.setReg n v).rptProgress = c.rptProgress := by
  unfold Core.setReg; split <;> rfl
@[simp] theorem Core.setReg_issued (c : Core) (n : Nat) (v : Word) : (c.setReg n v).issued = c.issued := by
  unfold Core.setReg; split <;> rfl
@[simp] theorem Core.setReg_rptIssued (c : Core) (n : Nat) (v : Word) : (c.setReg n v).rptIssued = c.rptIssued := by
  unfold Core.setReg; split <;> rfl
@[simp] theorem Core.setReg_fetched (c : Core) (n : Nat) (v : Word) : (c.setReg n v).fetched = c.fetched := by
  unfold Core.setReg; split <;> rfl
@[simp] theorem Core.setReg_suspended (c : Core) (n : Nat) (v : Word) : (c.setReg n v).suspended = c.suspended := by
  unfold Core.setReg; split <;> rfl
@[simp] theorem Core.setReg_sb (c : Core) (n : Nat) (v : Word) : (c.setReg n v).sb = c.sb := by
  unfold Core.setReg; split <;> rfl
@[simp] theorem Core.setReg_oldWords (c : Core) (n : Nat) (v : Word) : (c.setReg n v).oldWords = c.oldWords := by
  unfold Core.setReg; split <;> rfl
@[simp] theorem Core.setReg_loc (c : Core) (n : Nat) (v : Word) : (c.setReg n v).loc = c.loc := by
  unfold Core.setReg; split <;> rfl
@[simp] theorem Core.setReg_locPoison (c : Core) (n : Nat) (v : Word) : (c.setReg n v).locPoison = c.locPoison := by
  unfold Core.setReg; split <;> rfl
@[simp] theorem Core.setReg_live (c : Core) (n : Nat) (v : Word) : (c.setReg n v).live = c.live := by
  unfold Core.setReg; split <;> rfl
@[simp] theorem Core.setReg_halted (c : Core) (n : Nat) (v : Word) : (c.setReg n v).halted = c.halted := by
  unfold Core.setReg; split <;> rfl
@[simp] theorem Core.setReg_noTasks (c : Core) (n : Nat) (v : Word) : (c.setReg n v).noTasks = c.noTasks := by
  unfold Core.setReg; split <;> rfl
@[simp] theorem Core.setReg_exitCode (c : Core) (n : Nat) (v : Word) : (c.setReg n v).exitCode = c.exitCode := by
  unfold Core.setReg; split <;> rfl
@[simp] theorem Core.setReg_bankWait (c : Core) (n : Nat) (v : Word) : (c.setReg n v).bankWait = c.bankWait := by
  unfold Core.setReg; split <;> rfl
@[simp] theorem Core.setReg_bgm (c : Core) (n : Nat) (v : Word) : (c.setReg n v).bgm = c.bgm := by
  unfold Core.setReg; split <;> rfl
@[simp] theorem Core.setReg_chans (c : Core) (n : Nat) (v : Word) : (c.setReg n v).chans = c.chans := by
  unfold Core.setReg; split <;> rfl
@[simp] theorem Core.setReg_predictor (c : Core) (n : Nat) (v : Word) : (c.setReg n v).predictor = c.predictor := by
  unfold Core.setReg; split <;> rfl
@[simp] theorem Core.setReg_spec (c : Core) (n : Nat) (v : Word) : (c.setReg n v).spec = c.spec := by
  unfold Core.setReg; split <;> rfl
@[simp] theorem Core.setReg_specCmt (c : Core) (n : Nat) (v : Word) : (c.setReg n v).specCmt = c.specCmt := by
  unfold Core.setReg; split <;> rfl
@[simp] theorem Core.setReg_specDis (c : Core) (n : Nat) (v : Word) : (c.setReg n v).specDis = c.specDis := by
  unfold Core.setReg; split <;> rfl
@[simp] theorem Core.setReg_specRun (c : Core) (n : Nat) (v : Word) : (c.setReg n v).specRun = c.specRun := by
  unfold Core.setReg; split <;> rfl
@[simp] theorem Core.setReg_specHeld (c : Core) (n : Nat) (v : Word) : (c.setReg n v).specHeld = c.specHeld := by
  unfold Core.setReg; split <;> rfl
@[simp] theorem Core.setReg_vregs (c : Core) (n : Nat) (v : Word) : (c.setReg n v).vregs = c.vregs := by
  unfold Core.setReg; split <;> rfl
@[simp] theorem Core.setReg_vtags (c : Core) (n : Nat) (v : Word) : (c.setReg n v).vtags = c.vtags := by
  unfold Core.setReg; split <;> rfl
@[simp] theorem Core.setReg_preds (c : Core) (n : Nat) (v : Word) : (c.setReg n v).preds = c.preds := by
  unfold Core.setReg; split <;> rfl
@[simp] theorem Core.setReg_router (c : Core) (n : Nat) (v : Word) : (c.setReg n v).router = c.router := by
  unfold Core.setReg; split <;> rfl
@[simp] theorem Core.setReg_slots (c : Core) (n : Nat) (v : Word) : (c.setReg n v).slots = c.slots := by
  unfold Core.setReg; split <;> rfl
@[simp] theorem Core.setReg_tokens (c : Core) (n : Nat) (v : Word) : (c.setReg n v).tokens = c.tokens := by
  unfold Core.setReg; split <;> rfl
@[simp] theorem Core.setReg_opening (c : Core) (n : Nat) (v : Word) : (c.setReg n v).opening = c.opening := by
  unfold Core.setReg; split <;> rfl
@[simp] theorem Core.setReg_cbs (c : Core) (n : Nat) (v : Word) : (c.setReg n v).cbs = c.cbs := by
  unfold Core.setReg; split <;> rfl
@[simp] theorem Core.setReg_tensor (c : Core) (n : Nat) (v : Word) : (c.setReg n v).tensor = c.tensor := by
  unfold Core.setReg; split <;> rfl
@[simp] theorem Core.setReg_lattice (c : Core) (n : Nat) (v : Word) : (c.setReg n v).lattice = c.lattice := by
  unfold Core.setReg; split <;> rfl
@[simp] theorem Core.setReg_answer (c : Core) (n : Nat) (v : Word) : (c.setReg n v).answer = c.answer := by
  unfold Core.setReg; split <;> rfl
@[simp] theorem Core.setReg_colls (c : Core) (n : Nat) (v : Word) : (c.setReg n v).colls = c.colls := by
  unfold Core.setReg; split <;> rfl
@[simp] theorem Core.setReg_eccWindow (c : Core) (n : Nat) (v : Word) : (c.setReg n v).eccWindow = c.eccWindow := by
  unfold Core.setReg; split <;> rfl
@[simp] theorem Core.setReg_eccCount (c : Core) (n : Nat) (v : Word) : (c.setReg n v).eccCount = c.eccCount := by
  unfold Core.setReg; split <;> rfl
@[simp] theorem Core.setReg_degraded (c : Core) (n : Nat) (v : Word) : (c.setReg n v).degraded = c.degraded := by
  unfold Core.setReg; split <;> rfl

/-! ## Core.setFlag -/

@[simp] theorem Core.setFlag_regs (c : Core) (n : Nat) (v : Bool) : (c.setFlag n v).regs = c.regs := by
  unfold Core.setFlag; split <;> rfl
@[simp] theorem Core.setFlag_pc (c : Core) (n : Nat) (v : Bool) : (c.setFlag n v).pc = c.pc := by
  unfold Core.setFlag; split <;> rfl
@[simp] theorem Core.setFlag_ras (c : Core) (n : Nat) (v : Bool) : (c.setFlag n v).ras = c.ras := by
  unfold Core.setFlag; split <;> rfl
@[simp] theorem Core.setFlag_rasSp (c : Core) (n : Nat) (v : Bool) : (c.setFlag n v).rasSp = c.rasSp := by
  unfold Core.setFlag; split <;> rfl
@[simp] theorem Core.setFlag_rasFloor (c : Core) (n : Nat) (v : Bool) : (c.setFlag n v).rasFloor = c.rasFloor := by
  unfold Core.setFlag; split <;> rfl
@[simp] theorem Core.setFlag_runq (c : Core) (n : Nat) (v : Bool) : (c.setFlag n v).runq = c.runq := by
  unfold Core.setFlag; split <;> rfl
@[simp] theorem Core.setFlag_inbox (c : Core) (n : Nat) (v : Bool) : (c.setFlag n v).inbox = c.inbox := by
  unfold Core.setFlag; split <;> rfl
@[simp] theorem Core.setFlag_unbound (c : Core) (n : Nat) (v : Bool) : (c.setFlag n v).unbound = c.unbound := by
  unfold Core.setFlag; split <;> rfl
@[simp] theorem Core.setFlag_trig (c : Core) (n : Nat) (v : Bool) : (c.setFlag n v).trig = c.trig := by
  unfold Core.setFlag; split <;> rfl
@[simp] theorem Core.setFlag_trigOrder (c : Core) (n : Nat) (v : Bool) : (c.setFlag n v).trigOrder = c.trigOrder := by
  unfold Core.setFlag; split <;> rfl
@[simp] theorem Core.setFlag_trigBusy (c : Core) (n : Nat) (v : Bool) : (c.setFlag n v).trigBusy = c.trigBusy := by
  unfold Core.setFlag; split <;> rfl
@[simp] theorem Core.setFlag_lastSource (c : Core) (n : Nat) (v : Bool) : (c.setFlag n v).lastSource = c.lastSource := by
  unfold Core.setFlag; split <;> rfl
@[simp] theorem Core.setFlag_rpt (c : Core) (n : Nat) (v : Bool) : (c.setFlag n v).rpt = c.rpt := by
  unfold Core.setFlag; split <;> rfl
@[simp] theorem Core.setFlag_rptState (c : Core) (n : Nat) (v : Bool) : (c.setFlag n v).rptState = c.rptState := by
  unfold Core.setFlag; split <;> rfl
@[simp] theorem Core.setFlag_rptWord (c : Core) (n : Nat) (v : Bool) : (c.setFlag n v).rptWord = c.rptWord := by
  unfold Core.setFlag; split <;> rfl
@[simp] theorem Core.setFlag_half (c : Core) (n : Nat) (v : Bool) : (c.setFlag n v).half = c.half := by
  unfold Core.setFlag; split <;> rfl
@[simp] theorem Core.setFlag_mode (c : Core) (n : Nat) (v : Bool) : (c.setFlag n v).mode = c.mode := by
  unfold Core.setFlag; split <;> rfl
@[simp] theorem Core.setFlag_fpFlags (c : Core) (n : Nat) (v : Bool) : (c.setFlag n v).fpFlags = c.fpFlags := by
  unfold Core.setFlag; split <;> rfl
@[simp] theorem Core.setFlag_waitLimit (c : Core) (n : Nat) (v : Bool) : (c.setFlag n v).waitLimit = c.waitLimit := by
  unfold Core.setFlag; split <;> rfl
@[simp] theorem Core.setFlag_prv (c : Core) (n : Nat) (v : Bool) : (c.setFlag n v).prv = c.prv := by
  unfold Core.setFlag; split <;> rfl
@[simp] theorem Core.setFlag_pprv (c : Core) (n : Nat) (v : Bool) : (c.setFlag n v).pprv = c.pprv := by
  unfold Core.setFlag; split <;> rfl
@[simp] theorem Core.setFlag_intrap (c : Core) (n : Nat) (v : Bool) : (c.setFlag n v).intrap = c.intrap := by
  unfold Core.setFlag; split <;> rfl
@[simp] theorem Core.setFlag_trapCause (c : Core) (n : Nat) (v : Bool) : (c.setFlag n v).trapCause = c.trapCause := by
  unfold Core.setFlag; split <;> rfl
@[simp] theorem Core.setFlag_trapPc (c : Core) (n : Nat) (v : Bool) : (c.setFlag n v).trapPc = c.trapPc := by
  unfold Core.setFlag; split <;> rfl
@[simp] theorem Core.setFlag_trapVal (c : Core) (n : Nat) (v : Bool) : (c.setFlag n v).trapVal = c.trapVal := by
  unfold Core.setFlag; split <;> rfl
@[simp] theorem Core.setFlag_trapVec (c : Core) (n : Nat) (v : Bool) : (c.setFlag n v).trapVec = c.trapVec := by
  unfold Core.setFlag; split <;> rfl
@[simp] theorem Core.setFlag_scratch0 (c : Core) (n : Nat) (v : Bool) : (c.setFlag n v).scratch0 = c.scratch0 := by
  unfold Core.setFlag; split <;> rfl
@[simp] theorem Core.setFlag_scratch1 (c : Core) (n : Nat) (v : Bool) : (c.setFlag n v).scratch1 = c.scratch1 := by
  unfold Core.setFlag; split <;> rfl
@[simp] theorem Core.setFlag_coreRx (c : Core) (n : Nat) (v : Bool) : (c.setFlag n v).coreRx = c.coreRx := by
  unfold Core.setFlag; split <;> rfl
@[simp] theorem Core.setFlag_coreRy (c : Core) (n : Nat) (v : Bool) : (c.setFlag n v).coreRy = c.coreRy := by
  unfold Core.setFlag; split <;> rfl
@[simp] theorem Core.setFlag_regionId (c : Core) (n : Nat) (v : Bool) : (c.setFlag n v).regionId = c.regionId := by
  unfold Core.setFlag; split <;> rfl
@[simp] theorem Core.setFlag_dcl (c : Core) (n : Nat) (v : Bool) : (c.setFlag n v).dcl = c.dcl := by
  unfold Core.setFlag; split <;> rfl
@[simp] theorem Core.setFlag_hwp (c : Core) (n : Nat) (v : Bool) : (c.setFlag n v).hwp = c.hwp := by
  unfold Core.setFlag; split <;> rfl
@[simp] theorem Core.setFlag_spillBase (c : Core) (n : Nat) (v : Bool) : (c.setFlag n v).spillBase = c.spillBase := by
  unfold Core.setFlag; split <;> rfl
@[simp] theorem Core.setFlag_spillLim (c : Core) (n : Nat) (v : Bool) : (c.setFlag n v).spillLim = c.spillLim := by
  unfold Core.setFlag; split <;> rfl
@[simp] theorem Core.setFlag_spillOvf (c : Core) (n : Nat) (v : Bool) : (c.setFlag n v).spillOvf = c.spillOvf := by
  unfold Core.setFlag; split <;> rfl
@[simp] theorem Core.setFlag_codeLim (c : Core) (n : Nat) (v : Bool) : (c.setFlag n v).codeLim = c.codeLim := by
  unfold Core.setFlag; split <;> rfl
@[simp] theorem Core.setFlag_dataBase (c : Core) (n : Nat) (v : Bool) : (c.setFlag n v).dataBase = c.dataBase := by
  unfold Core.setFlag; split <;> rfl
@[simp] theorem Core.setFlag_dataLim (c : Core) (n : Nat) (v : Bool) : (c.setFlag n v).dataLim = c.dataLim := by
  unfold Core.setFlag; split <;> rfl
@[simp] theorem Core.setFlag_cbufBase (c : Core) (n : Nat) (v : Bool) : (c.setFlag n v).cbufBase = c.cbufBase := by
  unfold Core.setFlag; split <;> rfl
@[simp] theorem Core.setFlag_cbufLim (c : Core) (n : Nat) (v : Bool) : (c.setFlag n v).cbufLim = c.cbufLim := by
  unfold Core.setFlag; split <;> rfl
@[simp] theorem Core.setFlag_wait (c : Core) (n : Nat) (v : Bool) : (c.setFlag n v).wait = c.wait := by
  unfold Core.setFlag; split <;> rfl
@[simp] theorem Core.setFlag_rptWait (c : Core) (n : Nat) (v : Bool) : (c.setFlag n v).rptWait = c.rptWait := by
  unfold Core.setFlag; split <;> rfl
@[simp] theorem Core.setFlag_progress (c : Core) (n : Nat) (v : Bool) : (c.setFlag n v).progress = c.progress := by
  unfold Core.setFlag; split <;> rfl
@[simp] theorem Core.setFlag_rptProgress (c : Core) (n : Nat) (v : Bool) : (c.setFlag n v).rptProgress = c.rptProgress := by
  unfold Core.setFlag; split <;> rfl
@[simp] theorem Core.setFlag_issued (c : Core) (n : Nat) (v : Bool) : (c.setFlag n v).issued = c.issued := by
  unfold Core.setFlag; split <;> rfl
@[simp] theorem Core.setFlag_rptIssued (c : Core) (n : Nat) (v : Bool) : (c.setFlag n v).rptIssued = c.rptIssued := by
  unfold Core.setFlag; split <;> rfl
@[simp] theorem Core.setFlag_fetched (c : Core) (n : Nat) (v : Bool) : (c.setFlag n v).fetched = c.fetched := by
  unfold Core.setFlag; split <;> rfl
@[simp] theorem Core.setFlag_suspended (c : Core) (n : Nat) (v : Bool) : (c.setFlag n v).suspended = c.suspended := by
  unfold Core.setFlag; split <;> rfl
@[simp] theorem Core.setFlag_sb (c : Core) (n : Nat) (v : Bool) : (c.setFlag n v).sb = c.sb := by
  unfold Core.setFlag; split <;> rfl
@[simp] theorem Core.setFlag_oldWords (c : Core) (n : Nat) (v : Bool) : (c.setFlag n v).oldWords = c.oldWords := by
  unfold Core.setFlag; split <;> rfl
@[simp] theorem Core.setFlag_loc (c : Core) (n : Nat) (v : Bool) : (c.setFlag n v).loc = c.loc := by
  unfold Core.setFlag; split <;> rfl
@[simp] theorem Core.setFlag_locPoison (c : Core) (n : Nat) (v : Bool) : (c.setFlag n v).locPoison = c.locPoison := by
  unfold Core.setFlag; split <;> rfl
@[simp] theorem Core.setFlag_live (c : Core) (n : Nat) (v : Bool) : (c.setFlag n v).live = c.live := by
  unfold Core.setFlag; split <;> rfl
@[simp] theorem Core.setFlag_halted (c : Core) (n : Nat) (v : Bool) : (c.setFlag n v).halted = c.halted := by
  unfold Core.setFlag; split <;> rfl
@[simp] theorem Core.setFlag_noTasks (c : Core) (n : Nat) (v : Bool) : (c.setFlag n v).noTasks = c.noTasks := by
  unfold Core.setFlag; split <;> rfl
@[simp] theorem Core.setFlag_exitCode (c : Core) (n : Nat) (v : Bool) : (c.setFlag n v).exitCode = c.exitCode := by
  unfold Core.setFlag; split <;> rfl
@[simp] theorem Core.setFlag_bankWait (c : Core) (n : Nat) (v : Bool) : (c.setFlag n v).bankWait = c.bankWait := by
  unfold Core.setFlag; split <;> rfl
@[simp] theorem Core.setFlag_bgm (c : Core) (n : Nat) (v : Bool) : (c.setFlag n v).bgm = c.bgm := by
  unfold Core.setFlag; split <;> rfl
@[simp] theorem Core.setFlag_chans (c : Core) (n : Nat) (v : Bool) : (c.setFlag n v).chans = c.chans := by
  unfold Core.setFlag; split <;> rfl
@[simp] theorem Core.setFlag_predictor (c : Core) (n : Nat) (v : Bool) : (c.setFlag n v).predictor = c.predictor := by
  unfold Core.setFlag; split <;> rfl
@[simp] theorem Core.setFlag_spec (c : Core) (n : Nat) (v : Bool) : (c.setFlag n v).spec = c.spec := by
  unfold Core.setFlag; split <;> rfl
@[simp] theorem Core.setFlag_specCmt (c : Core) (n : Nat) (v : Bool) : (c.setFlag n v).specCmt = c.specCmt := by
  unfold Core.setFlag; split <;> rfl
@[simp] theorem Core.setFlag_specDis (c : Core) (n : Nat) (v : Bool) : (c.setFlag n v).specDis = c.specDis := by
  unfold Core.setFlag; split <;> rfl
@[simp] theorem Core.setFlag_specRun (c : Core) (n : Nat) (v : Bool) : (c.setFlag n v).specRun = c.specRun := by
  unfold Core.setFlag; split <;> rfl
@[simp] theorem Core.setFlag_specHeld (c : Core) (n : Nat) (v : Bool) : (c.setFlag n v).specHeld = c.specHeld := by
  unfold Core.setFlag; split <;> rfl
@[simp] theorem Core.setFlag_vregs (c : Core) (n : Nat) (v : Bool) : (c.setFlag n v).vregs = c.vregs := by
  unfold Core.setFlag; split <;> rfl
@[simp] theorem Core.setFlag_vtags (c : Core) (n : Nat) (v : Bool) : (c.setFlag n v).vtags = c.vtags := by
  unfold Core.setFlag; split <;> rfl
@[simp] theorem Core.setFlag_preds (c : Core) (n : Nat) (v : Bool) : (c.setFlag n v).preds = c.preds := by
  unfold Core.setFlag; split <;> rfl
@[simp] theorem Core.setFlag_router (c : Core) (n : Nat) (v : Bool) : (c.setFlag n v).router = c.router := by
  unfold Core.setFlag; split <;> rfl
@[simp] theorem Core.setFlag_slots (c : Core) (n : Nat) (v : Bool) : (c.setFlag n v).slots = c.slots := by
  unfold Core.setFlag; split <;> rfl
@[simp] theorem Core.setFlag_tokens (c : Core) (n : Nat) (v : Bool) : (c.setFlag n v).tokens = c.tokens := by
  unfold Core.setFlag; split <;> rfl
@[simp] theorem Core.setFlag_opening (c : Core) (n : Nat) (v : Bool) : (c.setFlag n v).opening = c.opening := by
  unfold Core.setFlag; split <;> rfl
@[simp] theorem Core.setFlag_cbs (c : Core) (n : Nat) (v : Bool) : (c.setFlag n v).cbs = c.cbs := by
  unfold Core.setFlag; split <;> rfl
@[simp] theorem Core.setFlag_tensor (c : Core) (n : Nat) (v : Bool) : (c.setFlag n v).tensor = c.tensor := by
  unfold Core.setFlag; split <;> rfl
@[simp] theorem Core.setFlag_lattice (c : Core) (n : Nat) (v : Bool) : (c.setFlag n v).lattice = c.lattice := by
  unfold Core.setFlag; split <;> rfl
@[simp] theorem Core.setFlag_answer (c : Core) (n : Nat) (v : Bool) : (c.setFlag n v).answer = c.answer := by
  unfold Core.setFlag; split <;> rfl
@[simp] theorem Core.setFlag_colls (c : Core) (n : Nat) (v : Bool) : (c.setFlag n v).colls = c.colls := by
  unfold Core.setFlag; split <;> rfl
@[simp] theorem Core.setFlag_eccWindow (c : Core) (n : Nat) (v : Bool) : (c.setFlag n v).eccWindow = c.eccWindow := by
  unfold Core.setFlag; split <;> rfl
@[simp] theorem Core.setFlag_eccCount (c : Core) (n : Nat) (v : Bool) : (c.setFlag n v).eccCount = c.eccCount := by
  unfold Core.setFlag; split <;> rfl
@[simp] theorem Core.setFlag_degraded (c : Core) (n : Nat) (v : Bool) : (c.setFlag n v).degraded = c.degraded := by
  unfold Core.setFlag; split <;> rfl

/-! ## Core.setVreg -/

@[simp] theorem Core.setVreg_regs (c : Core) (n : Nat) (v : Vec) (t : BitVec 72) : (c.setVreg n v t).regs = c.regs := rfl
@[simp] theorem Core.setVreg_flags (c : Core) (n : Nat) (v : Vec) (t : BitVec 72) : (c.setVreg n v t).flags = c.flags := rfl
@[simp] theorem Core.setVreg_pc (c : Core) (n : Nat) (v : Vec) (t : BitVec 72) : (c.setVreg n v t).pc = c.pc := rfl
@[simp] theorem Core.setVreg_ras (c : Core) (n : Nat) (v : Vec) (t : BitVec 72) : (c.setVreg n v t).ras = c.ras := rfl
@[simp] theorem Core.setVreg_rasSp (c : Core) (n : Nat) (v : Vec) (t : BitVec 72) : (c.setVreg n v t).rasSp = c.rasSp := rfl
@[simp] theorem Core.setVreg_rasFloor (c : Core) (n : Nat) (v : Vec) (t : BitVec 72) : (c.setVreg n v t).rasFloor = c.rasFloor := rfl
@[simp] theorem Core.setVreg_runq (c : Core) (n : Nat) (v : Vec) (t : BitVec 72) : (c.setVreg n v t).runq = c.runq := rfl
@[simp] theorem Core.setVreg_inbox (c : Core) (n : Nat) (v : Vec) (t : BitVec 72) : (c.setVreg n v t).inbox = c.inbox := rfl
@[simp] theorem Core.setVreg_unbound (c : Core) (n : Nat) (v : Vec) (t : BitVec 72) : (c.setVreg n v t).unbound = c.unbound := rfl
@[simp] theorem Core.setVreg_trig (c : Core) (n : Nat) (v : Vec) (t : BitVec 72) : (c.setVreg n v t).trig = c.trig := rfl
@[simp] theorem Core.setVreg_trigOrder (c : Core) (n : Nat) (v : Vec) (t : BitVec 72) : (c.setVreg n v t).trigOrder = c.trigOrder := rfl
@[simp] theorem Core.setVreg_trigBusy (c : Core) (n : Nat) (v : Vec) (t : BitVec 72) : (c.setVreg n v t).trigBusy = c.trigBusy := rfl
@[simp] theorem Core.setVreg_lastSource (c : Core) (n : Nat) (v : Vec) (t : BitVec 72) : (c.setVreg n v t).lastSource = c.lastSource := rfl
@[simp] theorem Core.setVreg_rpt (c : Core) (n : Nat) (v : Vec) (t : BitVec 72) : (c.setVreg n v t).rpt = c.rpt := rfl
@[simp] theorem Core.setVreg_rptState (c : Core) (n : Nat) (v : Vec) (t : BitVec 72) : (c.setVreg n v t).rptState = c.rptState := rfl
@[simp] theorem Core.setVreg_rptWord (c : Core) (n : Nat) (v : Vec) (t : BitVec 72) : (c.setVreg n v t).rptWord = c.rptWord := rfl
@[simp] theorem Core.setVreg_half (c : Core) (n : Nat) (v : Vec) (t : BitVec 72) : (c.setVreg n v t).half = c.half := rfl
@[simp] theorem Core.setVreg_mode (c : Core) (n : Nat) (v : Vec) (t : BitVec 72) : (c.setVreg n v t).mode = c.mode := rfl
@[simp] theorem Core.setVreg_fpFlags (c : Core) (n : Nat) (v : Vec) (t : BitVec 72) : (c.setVreg n v t).fpFlags = c.fpFlags := rfl
@[simp] theorem Core.setVreg_waitLimit (c : Core) (n : Nat) (v : Vec) (t : BitVec 72) : (c.setVreg n v t).waitLimit = c.waitLimit := rfl
@[simp] theorem Core.setVreg_prv (c : Core) (n : Nat) (v : Vec) (t : BitVec 72) : (c.setVreg n v t).prv = c.prv := rfl
@[simp] theorem Core.setVreg_pprv (c : Core) (n : Nat) (v : Vec) (t : BitVec 72) : (c.setVreg n v t).pprv = c.pprv := rfl
@[simp] theorem Core.setVreg_intrap (c : Core) (n : Nat) (v : Vec) (t : BitVec 72) : (c.setVreg n v t).intrap = c.intrap := rfl
@[simp] theorem Core.setVreg_trapCause (c : Core) (n : Nat) (v : Vec) (t : BitVec 72) : (c.setVreg n v t).trapCause = c.trapCause := rfl
@[simp] theorem Core.setVreg_trapPc (c : Core) (n : Nat) (v : Vec) (t : BitVec 72) : (c.setVreg n v t).trapPc = c.trapPc := rfl
@[simp] theorem Core.setVreg_trapVal (c : Core) (n : Nat) (v : Vec) (t : BitVec 72) : (c.setVreg n v t).trapVal = c.trapVal := rfl
@[simp] theorem Core.setVreg_trapVec (c : Core) (n : Nat) (v : Vec) (t : BitVec 72) : (c.setVreg n v t).trapVec = c.trapVec := rfl
@[simp] theorem Core.setVreg_scratch0 (c : Core) (n : Nat) (v : Vec) (t : BitVec 72) : (c.setVreg n v t).scratch0 = c.scratch0 := rfl
@[simp] theorem Core.setVreg_scratch1 (c : Core) (n : Nat) (v : Vec) (t : BitVec 72) : (c.setVreg n v t).scratch1 = c.scratch1 := rfl
@[simp] theorem Core.setVreg_coreRx (c : Core) (n : Nat) (v : Vec) (t : BitVec 72) : (c.setVreg n v t).coreRx = c.coreRx := rfl
@[simp] theorem Core.setVreg_coreRy (c : Core) (n : Nat) (v : Vec) (t : BitVec 72) : (c.setVreg n v t).coreRy = c.coreRy := rfl
@[simp] theorem Core.setVreg_regionId (c : Core) (n : Nat) (v : Vec) (t : BitVec 72) : (c.setVreg n v t).regionId = c.regionId := rfl
@[simp] theorem Core.setVreg_dcl (c : Core) (n : Nat) (v : Vec) (t : BitVec 72) : (c.setVreg n v t).dcl = c.dcl := rfl
@[simp] theorem Core.setVreg_hwp (c : Core) (n : Nat) (v : Vec) (t : BitVec 72) : (c.setVreg n v t).hwp = c.hwp := rfl
@[simp] theorem Core.setVreg_spillBase (c : Core) (n : Nat) (v : Vec) (t : BitVec 72) : (c.setVreg n v t).spillBase = c.spillBase := rfl
@[simp] theorem Core.setVreg_spillLim (c : Core) (n : Nat) (v : Vec) (t : BitVec 72) : (c.setVreg n v t).spillLim = c.spillLim := rfl
@[simp] theorem Core.setVreg_spillOvf (c : Core) (n : Nat) (v : Vec) (t : BitVec 72) : (c.setVreg n v t).spillOvf = c.spillOvf := rfl
@[simp] theorem Core.setVreg_codeLim (c : Core) (n : Nat) (v : Vec) (t : BitVec 72) : (c.setVreg n v t).codeLim = c.codeLim := rfl
@[simp] theorem Core.setVreg_dataBase (c : Core) (n : Nat) (v : Vec) (t : BitVec 72) : (c.setVreg n v t).dataBase = c.dataBase := rfl
@[simp] theorem Core.setVreg_dataLim (c : Core) (n : Nat) (v : Vec) (t : BitVec 72) : (c.setVreg n v t).dataLim = c.dataLim := rfl
@[simp] theorem Core.setVreg_cbufBase (c : Core) (n : Nat) (v : Vec) (t : BitVec 72) : (c.setVreg n v t).cbufBase = c.cbufBase := rfl
@[simp] theorem Core.setVreg_cbufLim (c : Core) (n : Nat) (v : Vec) (t : BitVec 72) : (c.setVreg n v t).cbufLim = c.cbufLim := rfl
@[simp] theorem Core.setVreg_wait (c : Core) (n : Nat) (v : Vec) (t : BitVec 72) : (c.setVreg n v t).wait = c.wait := rfl
@[simp] theorem Core.setVreg_rptWait (c : Core) (n : Nat) (v : Vec) (t : BitVec 72) : (c.setVreg n v t).rptWait = c.rptWait := rfl
@[simp] theorem Core.setVreg_progress (c : Core) (n : Nat) (v : Vec) (t : BitVec 72) : (c.setVreg n v t).progress = c.progress := rfl
@[simp] theorem Core.setVreg_rptProgress (c : Core) (n : Nat) (v : Vec) (t : BitVec 72) : (c.setVreg n v t).rptProgress = c.rptProgress := rfl
@[simp] theorem Core.setVreg_issued (c : Core) (n : Nat) (v : Vec) (t : BitVec 72) : (c.setVreg n v t).issued = c.issued := rfl
@[simp] theorem Core.setVreg_rptIssued (c : Core) (n : Nat) (v : Vec) (t : BitVec 72) : (c.setVreg n v t).rptIssued = c.rptIssued := rfl
@[simp] theorem Core.setVreg_fetched (c : Core) (n : Nat) (v : Vec) (t : BitVec 72) : (c.setVreg n v t).fetched = c.fetched := rfl
@[simp] theorem Core.setVreg_suspended (c : Core) (n : Nat) (v : Vec) (t : BitVec 72) : (c.setVreg n v t).suspended = c.suspended := rfl
@[simp] theorem Core.setVreg_sb (c : Core) (n : Nat) (v : Vec) (t : BitVec 72) : (c.setVreg n v t).sb = c.sb := rfl
@[simp] theorem Core.setVreg_oldWords (c : Core) (n : Nat) (v : Vec) (t : BitVec 72) : (c.setVreg n v t).oldWords = c.oldWords := rfl
@[simp] theorem Core.setVreg_loc (c : Core) (n : Nat) (v : Vec) (t : BitVec 72) : (c.setVreg n v t).loc = c.loc := rfl
@[simp] theorem Core.setVreg_locPoison (c : Core) (n : Nat) (v : Vec) (t : BitVec 72) : (c.setVreg n v t).locPoison = c.locPoison := rfl
@[simp] theorem Core.setVreg_live (c : Core) (n : Nat) (v : Vec) (t : BitVec 72) : (c.setVreg n v t).live = c.live := rfl
@[simp] theorem Core.setVreg_halted (c : Core) (n : Nat) (v : Vec) (t : BitVec 72) : (c.setVreg n v t).halted = c.halted := rfl
@[simp] theorem Core.setVreg_noTasks (c : Core) (n : Nat) (v : Vec) (t : BitVec 72) : (c.setVreg n v t).noTasks = c.noTasks := rfl
@[simp] theorem Core.setVreg_exitCode (c : Core) (n : Nat) (v : Vec) (t : BitVec 72) : (c.setVreg n v t).exitCode = c.exitCode := rfl
@[simp] theorem Core.setVreg_bankWait (c : Core) (n : Nat) (v : Vec) (t : BitVec 72) : (c.setVreg n v t).bankWait = c.bankWait := rfl
@[simp] theorem Core.setVreg_bgm (c : Core) (n : Nat) (v : Vec) (t : BitVec 72) : (c.setVreg n v t).bgm = c.bgm := rfl
@[simp] theorem Core.setVreg_chans (c : Core) (n : Nat) (v : Vec) (t : BitVec 72) : (c.setVreg n v t).chans = c.chans := rfl
@[simp] theorem Core.setVreg_predictor (c : Core) (n : Nat) (v : Vec) (t : BitVec 72) : (c.setVreg n v t).predictor = c.predictor := rfl
@[simp] theorem Core.setVreg_spec (c : Core) (n : Nat) (v : Vec) (t : BitVec 72) : (c.setVreg n v t).spec = c.spec := rfl
@[simp] theorem Core.setVreg_specCmt (c : Core) (n : Nat) (v : Vec) (t : BitVec 72) : (c.setVreg n v t).specCmt = c.specCmt := rfl
@[simp] theorem Core.setVreg_specDis (c : Core) (n : Nat) (v : Vec) (t : BitVec 72) : (c.setVreg n v t).specDis = c.specDis := rfl
@[simp] theorem Core.setVreg_specRun (c : Core) (n : Nat) (v : Vec) (t : BitVec 72) : (c.setVreg n v t).specRun = c.specRun := rfl
@[simp] theorem Core.setVreg_specHeld (c : Core) (n : Nat) (v : Vec) (t : BitVec 72) : (c.setVreg n v t).specHeld = c.specHeld := rfl
@[simp] theorem Core.setVreg_preds (c : Core) (n : Nat) (v : Vec) (t : BitVec 72) : (c.setVreg n v t).preds = c.preds := rfl
@[simp] theorem Core.setVreg_router (c : Core) (n : Nat) (v : Vec) (t : BitVec 72) : (c.setVreg n v t).router = c.router := rfl
@[simp] theorem Core.setVreg_slots (c : Core) (n : Nat) (v : Vec) (t : BitVec 72) : (c.setVreg n v t).slots = c.slots := rfl
@[simp] theorem Core.setVreg_tokens (c : Core) (n : Nat) (v : Vec) (t : BitVec 72) : (c.setVreg n v t).tokens = c.tokens := rfl
@[simp] theorem Core.setVreg_opening (c : Core) (n : Nat) (v : Vec) (t : BitVec 72) : (c.setVreg n v t).opening = c.opening := rfl
@[simp] theorem Core.setVreg_cbs (c : Core) (n : Nat) (v : Vec) (t : BitVec 72) : (c.setVreg n v t).cbs = c.cbs := rfl
@[simp] theorem Core.setVreg_tensor (c : Core) (n : Nat) (v : Vec) (t : BitVec 72) : (c.setVreg n v t).tensor = c.tensor := rfl
@[simp] theorem Core.setVreg_lattice (c : Core) (n : Nat) (v : Vec) (t : BitVec 72) : (c.setVreg n v t).lattice = c.lattice := rfl
@[simp] theorem Core.setVreg_answer (c : Core) (n : Nat) (v : Vec) (t : BitVec 72) : (c.setVreg n v t).answer = c.answer := rfl
@[simp] theorem Core.setVreg_colls (c : Core) (n : Nat) (v : Vec) (t : BitVec 72) : (c.setVreg n v t).colls = c.colls := rfl
@[simp] theorem Core.setVreg_eccWindow (c : Core) (n : Nat) (v : Vec) (t : BitVec 72) : (c.setVreg n v t).eccWindow = c.eccWindow := rfl
@[simp] theorem Core.setVreg_eccCount (c : Core) (n : Nat) (v : Vec) (t : BitVec 72) : (c.setVreg n v t).eccCount = c.eccCount := rfl
@[simp] theorem Core.setVreg_degraded (c : Core) (n : Nat) (v : Vec) (t : BitVec 72) : (c.setVreg n v t).degraded = c.degraded := rfl

/-! ## Reading a part that was set -/

@[simp] theorem State.core_setCore_self (l : Nat) (c : Core) : (s.setCore l c).core l = c :=
  Table.get_put_self _ _ _ _

theorem State.core_setCore_ne {l k : Nat} (h : k ≠ l) (c : Core) : (s.setCore l c).core k = s.core k :=
  Table.get_put_ne _ _ h _

@[simp] theorem State.me_setMe (c : Core) : (s.setMe c).me = c := Table.get_put_self _ _ _ _

@[simp] theorem State.setCore_setCore (l : Nat) (c d : Core) : (s.setCore l c).setCore l d = s.setCore l d := by
  simp [State.setCore, Table.put_put]

@[simp] theorem State.setMe_setMe (c d : Core) : (s.setMe c).setMe d = s.setMe d := s.setCore_setCore s.cur c d

@[simp] theorem State.core_setMe_self (c : Core) : (s.setMe c).core s.cur = c := s.core_setCore_self s.cur c

theorem State.core_setMe_ne {k : Nat} (h : k ≠ s.cur) (c : Core) : (s.setMe c).core k = s.core k :=
  s.core_setCore_ne h c

@[simp] theorem State.me_completed (c : Core) : (s.completed c).me = c.completed s.inRpt := s.me_setMe _

theorem State.core_completed_ne {k : Nat} (h : k ≠ s.cur) (c : Core) : (s.completed c).core k = s.core k :=
  s.core_setMe_ne h _

@[simp] theorem State.cluster_setCluster_self (l : Nat) (e : Cluster) : (s.setCluster l e).cluster l = e :=
  Table.get_put_self _ _ _ _

@[simp] theorem State.brim_setBrim_self (p : Nat) (b : Brim) : (s.setBrim p b).brim p = b := Table.get_put_self _ _ _ _

@[simp] theorem State.port_setPort_self (p : Nat) (b : LinkPort) : (s.setPort p b).port p = b :=
  Table.get_put_self _ _ _ _

@[simp] theorem State.queue_setQueue_self (q : Nat) (b : Queue) : (s.setQueue q b).queue q = b :=
  Table.get_put_self _ _ _ _

end Sys2Proof.Machine
end

