-- ==== Sys2Proof/Laws/Issue.lean ====
section
/-! SUPPORT. What issuing an instruction does, and what reading and writing a scalar field does: one lemma for each shared
operation, stated once, so that a meaning is never unfolded past its own body. -/

namespace Sys2Proof.Machine

/-! ## Computations -/

theorem op_bind {α β : Type} (m : Op α) (f : α → Op β) (s : State) :
    (m >>= f).run s = match m.run s with
      | .ok a s' => (f a).run s'
      | .error e s' => .error e s' := by
  show EStateM.bind m f s = _
  unfold EStateM.bind
  show _ = match m s with
    | .ok a s' => f a s'
    | .error e s' => .error e s'
  cases m s <;> rfl

@[simp] theorem op_pure {α : Type} (a : α) (s : State) : (pure a : Op α).run s = .ok a s := rfl

@[simp] theorem op_get (s : State) : (get : Op State).run s = .ok s s := rfl

@[simp] theorem op_modify (f : State → State) (s : State) : (modify f : Op PUnit).run s = .ok () (f s) := rfl

@[simp] theorem op_throw {α : Type} (e : Stop) (s : State) : (throw e : Op α).run s = .error e s := rfl

@[simp] theorem getMe_run (s : State) : getMe.run s = .ok s.me s := rfl

@[simp] theorem modMe_run (f : Core → Core) (s : State) : (modMe f).run s = .ok () (s.setMe (f s.me)) := rfl

/-- A computation that goes on. -/
theorem op_bind_ok {α β : Type} {m : Op α} {f : α → Op β} {s s' : State} {a : α} (h : m.run s = .ok a s') :
    (m >>= f).run s = (f a).run s' := by rw [op_bind, h]

/-! ## States that differ from another in the executing core at most -/

/-- s' is s but for the executing core, which is c. -/
def Near (s s' : State) (c : Core) : Prop := s'.me = c ∧ ∀ d, s'.setMe d = s.setMe d

theorem Near.refl (s : State) : Near s s s.me := ⟨rfl, fun _ => rfl⟩

theorem Near.cur {s s' : State} {c : Core} (h : Near s s' c) : s'.cur = s.cur := by
  simpa using congrArg State.cur (h.2 Core.reset)

theorem Near.inRpt {s s' : State} {c : Core} (h : Near s s' c) : s'.inRpt = s.inRpt := by
  simpa using congrArg State.inRpt (h.2 Core.reset)

theorem Near.cycle {s s' : State} {c : Core} (h : Near s s' c) : s'.cycle = s.cycle := by
  simpa using congrArg State.cycle (h.2 Core.reset)

theorem Near.setMe {s s' : State} {c : Core} (h : Near s s' c) (d : Core) : Near s (s'.setMe d) d :=
  ⟨by simp, fun e => by simp [h.2 e]⟩

/-! ## Issuing -/

/-- The core after retirement, off the path of a collective branch. -/
theorem retire_seq (c : Core) (b : Bool) (h : c.spec = none) : c.retire b .seq = c.completed b := by
  cases c
  cases b <;> simp_all [Core.retire, Core.completed]

theorem retire_goto (c : Core) (pc : BitVec 16) (h : c.spec = none) : c.retire false (.goto pc) = c.jumped pc := by
  cases c
  simp_all [Core.retire, Core.jumped]

theorem retire_keep (c : Core) (h : c.spec = none) : c.retire false .keep = c.jumped c.pc := by
  cases c
  simp_all [Core.retire, Core.jumped]

/-- The checks of an instruction that goes on to its operands. -/
theorem checks_issues {i : Instr} {s : State} (h : Issues i s) : (checks (wordOf i)).run s = .ok true s := by
  obtain ⟨_, ⟨hf, hp⟩, hs, hr, hg⟩ := h
  have hp' : (supervisorOnly (bitsOf (wordOf i) 56 8) && !s.me.prv) = false := by
    cases hx : supervisorOnly (bitsOf (wordOf i) 56 8) with
    | false => rfl
    | true => simp [hp hx]
  have hr' : ∀ r, s.me.rpt = some r → (!s.inRpt && r.writesGuard (wordOf i)) = false := by
    intro r hrp
    cases hi : s.inRpt with
    | true => rfl
    | false =>
      have h := hr hi r hrp
      simp only [rptStalls, Bool.or_eq_false_iff] at h
      simp [h.1.1.1.1.1.1]
  unfold checks
  rw [op_bind_ok (op_get s)]
  simp only [hs, hp']
  have hg' : s.hasIssued = false → guardHolds s.me (wordOf i) = true := fun h => by simpa [h] using hg
  cases hft : featureOf (wordOf i) with
  | none =>
    cases hrp : s.me.rpt with
    | none => cases hi : s.hasIssued <;> simp [hi, hg']
    | some r => cases hi : s.hasIssued <;> simp [hi, hg', hr' r hrp]
  | some f =>
    cases hrp : s.me.rpt with
    | none => cases hi : s.hasIssued <;> simp [hi, hg', hf f hft]
    | some r => cases hi : s.hasIssued <;> simp [hi, hg', hf f hft, hr' r hrp]

/-- Nothing holds back an instruction that goes on to its operands. -/
theorem stalls_issues {i : Instr} {s : State} (h : Issues i s) : (stalls i (wordOf i)).run s = .ok () s := by
  obtain ⟨_, _, hs, hr, _⟩ := h
  unfold stalls
  rw [op_bind_ok (op_get s)]
  simp only [hs]
  cases hrp : s.me.rpt with
  | none => simp
  | some r => cases hi : s.inRpt <;> simp [hr, hi, hrp]

/-- An instruction that goes on to its operands is its body, and what the body's end makes of the state. -/
theorem issue_run {i : Instr} {s : State} (h : Issues i s) (body : Op Next) :
    issue i body s = finish s.markIssued (wordOf i) (body.run s) := by
  unfold issue
  rw [if_neg (by have := h.1; omega)]
  have hc := checks_issues h
  have hst := stalls_issues h
  unfold wordOf at hc hst
  simp only [hc, op_bind_ok hst]
  rfl

/-- An instruction whose body completes moves on to the next word. -/
theorem issueSeq_ok {i : Instr} {s s' : State} {body : Op Unit} (h : Issues i s) (hb : body.run s = .ok () s')
    (hs : s'.me.spec = none) : issueSeq i body s = .next (s'.completed s'.me) := by
  unfold issueSeq
  rw [issue_run h, op_bind_ok hb]
  simp [finish, retire_seq _ _ hs, State.completed]

/-- An instruction whose body completes with the executing core changed alone. -/
theorem issueSeq_near {i : Instr} {s s' : State} {c : Core} {body : Op Unit} (h : Issues i s)
    (hb : body.run s = .ok () s') (hn : Near s s' c) (hs : c.spec = none) :
    issueSeq i body s = .next (s.completed c) := by
  rw [issueSeq_ok h hb (by rw [hn.1]; exact hs), hn.1]
  simp [State.completed, hn.2, hn.inRpt]

/-- An instruction that jumps. -/
theorem issue_goto {i : Instr} {s s' : State} {c : Core} {body : Op Next} {pc : BitVec 16} (h : Issues i s)
    (hr : s.inRpt = false) (hb : body.run s = .ok (.goto pc) s') (hn : Near s s' c) (hs : c.spec = none) :
    issue i body s = .next (s.setMe (c.jumped pc)) := by
  rw [issue_run h, hb]
  simp [finish, hn.1, hn.inRpt, hr, retire_goto _ _ hs, hn.2]

/-- An instruction that has set its PC. -/
theorem issue_keep {i : Instr} {s s' : State} {c : Core} {body : Op Next} (h : Issues i s)
    (hr : s.inRpt = false) (hb : body.run s = .ok .keep s') (hn : Near s s' c) (hs : c.spec = none) :
    issue i body s = .next (s.setMe (c.jumped c.pc)) := by
  rw [issue_run h, hb]
  simp [finish, hn.1, hn.inRpt, hr, retire_keep _ hs, hn.2]

/-- Noting that an instruction has issued leaves whether a body word is between two steps. -/
@[simp] theorem midBody_markIssued (s : State) : s.markIssued.midBody = s.midBody := by
  unfold State.markIssued
  split <;> simp_all [State.midBody, Core.midBody]

/-- An instruction whose body ends in a trap, off the path of a collective branch and with no body word of the repeat buffer between
two of its steps. -/
theorem issue_trap {i : Instr} {s s' : State} {body : Op Next} {t : TrapInfo} (h : Issues i s) (hm : s.midBody = false)
    (hb : body.run s = .error (.trap t) s') (hs : s'.me.spec = none) :
    issue i body s = .next (takeTrap s' s'.cur t (s'.me.execPc s'.inRpt) false (wordOf i)) := by
  rw [issue_run h, hb]
  simp [finish, deliverTrap, hs, hm]

/-- While a body word of the repeat buffer is between two of its steps, the trap of a scalar instruction waits. -/
theorem issue_trap_mid {i : Instr} {s s' : State} {body : Op Next} {t : TrapInfo} (h : Issues i s) (hm : s.midBody = true)
    (hb : body.run s = .error (.trap t) s') : issue i body s = .next s.markIssued := by
  rw [issue_run h, hb]
  simp [finish, hm]

/-! ## Scalar operands -/

/-- What a scalar read leaves of the path ahead. -/
theorem consume_spec (c : Core) (f : Flit) (n p : Nat) (h : c.spec = none) : (c.consume f n p).spec = none := by
  simp only [Core.consume, Core.raiseFlags, h]
  split <;> split <;> first | exact h | rfl

theorem popped_spec (c : Core) (n : Nat) (f : Flit) (rest : List Flit) (h : c.spec = none) :
    (c.popped n f rest).spec = none := consume_spec _ _ _ _ h

theorem scalarRead_spec {c c' : Core} {r : BitVec 5} {v : Word} (h : scalarRead c r = some (v, c'))
    (hs : c.spec = none) : c'.spec = none := by
  unfold scalarRead at h
  dsimp only at h
  repeat' split at h
  all_goals first
    | contradiction
    | (simp only [Option.some.injEq, Prod.mk.injEq] at h; rw [← h.2]; first | exact hs | exact popped_spec _ _ _ _ hs)

theorem scalarWrite_spec {c c' : Core} {r : BitVec 5} {v : Word} (h : scalarWrite c r v = some c')
    (hs : c.spec = none) : c'.spec = none := by
  unfold scalarWrite at h
  dsimp only at h
  split at h
  · simp only [Option.some.injEq] at h; rw [← h]; simpa using hs
  · split at h
    · simp only [Option.some.injEq] at h; rw [← h]; exact hs
    · contradiction

theorem popHead_run {s : State} {n p : Nat} {f : Flit} {rest : List Flit} (h : s.me.queue n = f :: rest) :
    (popHead n p).run s = .ok () (s.setMe (({ s.me.setQueue n rest with half := putBits s.me.half n 1 0 }).consume f n p)) := by
  simp only [popHead, modMe_run, h]

/-- A scalar read delivers what the field delivers, and leaves the core that the field leaves. -/
theorem readS_near {s s1 : State} {c c' : Core} {r : BitVec 5} {v : Word} (hn : Near s s1 c)
    (h : scalarRead c r = some (v, c')) : ∃ s2, (readS r).run s1 = .ok v s2 ∧ Near s s2 c' := by
  unfold scalarRead at h
  unfold readS
  split at h
  · next hr =>
    simp only [Option.some.injEq, Prod.mk.injEq] at h
    rw [if_pos hr, op_bind_ok (getMe_run s1), hn.1, h.1]
    exact ⟨s1, rfl, h.2 ▸ hn⟩
  · next hr =>
    rw [if_neg hr]
    dsimp only at h
    split at h
    · contradiction
    · next f rest hq =>
      have hq' : s1.me.queue (r.toNat - 24) = f :: rest := by rw [hn.1]; exact hq
      have hh : (headOf (r.toNat - 24)).run s1 = .ok f s1 := by
        unfold headOf
        rw [op_bind_ok (getMe_run s1), hq']
        rfl
      unfold popScalar
      rw [op_bind_ok hh]
      split at h
      · contradiction
      · next hk =>
        have hk' : f.kind = 0 ∧ isBx f.fmt = false := by simpa [scalarFlit] using hk
        simp only [hk'.1, hk'.2]
        split at h
        · next hf =>
          simp only [Option.some.injEq, Prod.mk.injEq] at h
          simp only [ne_eq, not_true_eq_false, if_false, Bool.false_eq_true, hf, if_true, op_bind_ok (popHead_run hq'),
            op_pure]
          rw [← h.1, ← h.2, ← hn.1]
          exact ⟨_, rfl, hn.setMe _⟩
        · next hf =>
          simp only [ne_eq, not_true_eq_false, if_false, Bool.false_eq_true, hf, op_bind_ok (getMe_run s1), hn.1]
          split at h
          · next hb =>
            simp only [Option.some.injEq, Prod.mk.injEq] at h
            simp only [hb, if_true, op_bind_ok (popHead_run hq'), op_pure]
            rw [← h.1, ← h.2, ← hn.1]
            exact ⟨_, rfl, hn.setMe _⟩
          · next hb =>
            simp only [Option.some.injEq, Prod.mk.injEq] at h
            simp only [hb, Bool.false_eq_true, if_false, op_bind_ok (modMe_run _ s1), op_pure]
            rw [← h.1, ← h.2, ← hn.1]
            exact ⟨_, rfl, hn.setMe _⟩

/-- The checks of a push that may be made now. -/
theorem checkTag_canPush {s1 : State} {n k : Nat} (h : s1.me.canPush n k = true) :
    (checkTag (s1.me.qtag n)).run s1 = .ok () s1 := by
  simp only [Core.canPush, Bool.and_eq_true, decide_eq_true_eq] at h
  unfold checkTag
  rw [op_bind_ok (getMe_run s1)]
  simp only [h.1.1, Bool.not_true, Bool.false_or, decide_eq_true_eq, Nat.not_le.mpr h.1.2, if_false, op_pure]

theorem waitRoom_canPush {s1 : State} {n k : Nat} (h : s1.me.canPush n k = true) :
    (waitRoom k).run s1 = .ok () s1 := by
  simp only [Core.canPush, Bool.and_eq_true, decide_eq_true_eq] at h
  unfold waitRoom
  rw [op_bind_ok (getMe_run s1)]
  simp [waitUnless, h.2]

/-- A scalar write leaves the core that the destination field leaves. -/
theorem writeS_near {s s1 : State} {c c' : Core} {r : BitVec 5} {v : Word} (hn : Near s s1 c)
    (h : scalarWrite c r v = some c') : ∃ s2, (writeS r v).run s1 = .ok () s2 ∧ Near s s2 c' := by
  unfold scalarWrite at h
  unfold writeS
  split at h
  · next hr =>
    simp only [Option.some.injEq] at h
    rw [if_pos hr, modMe_run, hn.1, h]
    exact ⟨_, rfl, hn.setMe _⟩
  · next hr =>
    rw [if_neg hr]
    dsimp only at h
    split at h
    · next hp =>
      simp only [Option.some.injEq] at h
      have hp' : s1.me.canPush (r.toNat - 24) 1 = true := by rw [hn.1]; exact hp
      unfold pushScalar
      rw [op_bind_ok (getMe_run s1), op_bind_ok (checkTag_canPush hp'), op_bind_ok (waitRoom_canPush hp'), ← h, ← hn.1]
      exact ⟨_, rfl, hn.setMe _⟩
    · contradiction

end Sys2Proof.Machine
end

