-- ==== Sys2Proof/Laws/Trap.lean ====
section
/-! SUPPORT. What taking a trap does (05 R176), and what the ways to stop make of an instruction. -/

namespace Sys2Proof.Machine

/-! ## The fields of a core that has entered its handler -/

@[simp] theorem enterTrap_pc (c : Core) (t : TrapInfo) (pc : BitVec 16) (b : Bool) :
    (c.enterTrap t pc b).pc = c.trapVec &&& 0xFFF8 := rfl

@[simp] theorem enterTrap_trapPc (c : Core) (t : TrapInfo) (pc : BitVec 16) (b : Bool) : (c.enterTrap t pc b).trapPc = pc := rfl

@[simp] theorem enterTrap_trapVal (c : Core) (t : TrapInfo) (pc : BitVec 16) (b : Bool) :
    (c.enterTrap t pc b).trapVal = t.val := rfl

@[simp] theorem enterTrap_pprv (c : Core) (t : TrapInfo) (pc : BitVec 16) (b : Bool) : (c.enterTrap t pc b).pprv = c.prv := rfl

@[simp] theorem enterTrap_prv (c : Core) (t : TrapInfo) (pc : BitVec 16) (b : Bool) : (c.enterTrap t pc b).prv = true := rfl

@[simp] theorem enterTrap_intrap (c : Core) (t : TrapInfo) (pc : BitVec 16) (b : Bool) :
    (c.enterTrap t pc b).intrap = true := rfl

@[simp] theorem enterTrap_rpt (c : Core) (t : TrapInfo) (pc : BitVec 16) (b : Bool) : (c.enterTrap t pc b).rpt = none := rfl

@[simp] theorem enterTrap_regs (c : Core) (t : TrapInfo) (pc : BitVec 16) (b : Bool) : (c.enterTrap t pc b).regs = c.regs := rfl

@[simp] theorem enterTrap_flags (c : Core) (t : TrapInfo) (pc : BitVec 16) (b : Bool) :
    (c.enterTrap t pc b).flags = c.flags := rfl

@[simp] theorem enterTrap_loc (c : Core) (t : TrapInfo) (pc : BitVec 16) (b : Bool) : (c.enterTrap t pc b).loc = c.loc := rfl

@[simp] theorem enterTrap_router (c : Core) (t : TrapInfo) (pc : BitVec 16) (b : Bool) :
    (c.enterTrap t pc b).router = c.router := rfl

@[simp] theorem enterTrap_spec (c : Core) (t : TrapInfo) (pc : BitVec 16) (b : Bool) : (c.enterTrap t pc b).spec = c.spec := rfl

/-! ## Taking a trap -/

/-- A trap at the core's own PC leaves the requests of the scalar port alone. -/
theorem leaveScalar_pc (s : State) (lid : Nat) : s.leaveScalar lid (s.core lid).pc = s := by
  simp [State.leaveScalar]

/-- So does one of a core that runs no repeat buffer. -/
theorem leaveScalar_noRpt {s : State} {lid : Nat} {pc : BitVec 16} (h : (s.core lid).rpt = none) : s.leaveScalar lid pc = s := by
  simp [State.leaveScalar, h]

/-- A trap with a handler, outside of one, that is not fatal by its cause enters the handler. -/
theorem takeTrap_handler {s : State} {lid : Nat} {t : TrapInfo} {pc : BitVec 16} {b : Bool} {w : Word}
    (h : trapFatal (s.core lid) t.code = false) :
    takeTrap s lid t pc b w = (s.leaveScalar lid pc).setCore lid (((s.leaveScalar lid pc).core lid).enterTrap t pc b) := by
  simp [takeTrap, h]

/-- A fatal trap freezes the core's region with its fault record. -/
theorem takeTrap_fatal {s : State} {lid : Nat} {t : TrapInfo} {pc : BitVec 16} {b : Bool} {w : Word}
    (h : trapFatal (s.core lid) t.code = true) :
    takeTrap s lid t pc b w = freezeAt s lid (trapFault (s.core lid) t pc b w) := by
  simp [takeTrap, h]

/-! ## Ways to stop -/

/-- An instruction whose body waits is left where it is, its wait noted (05 R169). -/
theorem issue_wait {i : Instr} {s s' : State} {body : Op Next} {val : Word} (h : Issues i s)
    (hb : body.run s = .error (.wait val) s') :
    issue i body s = .next (s.waiting val) := by
  rw [issue_run h, hb]
  rfl

/-- A stall on the core's own pipeline leaves the instruction where it is. -/
theorem issue_pipe {i : Instr} {s s' : State} {body : Op Next} (h : Issues i s) (hb : body.run s = .error .pipe s') :
    issue i body s = .next s.markIssued := by
  rw [issue_run h, hb]
  rfl

/-- A wait is the failure of its condition. -/
theorem waitUnless_true (val : Word) (s : State) : (waitUnless true val).run s = .ok () s := rfl

theorem waitUnless_false (val : Word) (s : State) : (waitUnless false val).run s = .error (.wait val) s := rfl

@[simp] theorem trapWith_run {α : Type} (code : BitVec 8) (val : Word) (s : State) :
    (trapWith code val : Op α).run s = .error (.trap { code, val, sub := 0 }) s := rfl

/-- An instruction of the seq form whose body traps takes the trap at the word that executes. -/
theorem issueSeq_trap {i : Instr} {s s' : State} {body : Op Unit} {t : TrapInfo} (h : Issues i s) (hm : s.midBody = false)
    (hb : body.run s = .error (.trap t) s') (hs : s'.me.spec = none) :
    issueSeq i body s = .next (takeTrap s' s'.cur t (s'.me.execPc s'.inRpt) false (wordOf i)) := by
  unfold issueSeq
  exact issue_trap h hm (by rw [op_bind, hb]) hs

/-- An instruction of the seq form whose body waits is left where it is, its wait noted. -/
theorem issueSeq_wait {i : Instr} {s s' : State} {body : Op Unit} {val : Word} (h : Issues i s)
    (hb : body.run s = .error (.wait val) s') :
    issueSeq i body s = .next (s.waiting val) := by
  unfold issueSeq
  exact issue_wait h (by rw [op_bind, hb])

end Sys2Proof.Machine
end

