-- ==== Sys2Proof/Laws/Access.lean ====
section
/-! SUPPORT. What the accesses of a core to LOC do (04 R124-R138): the checks of an address, a load through the store
buffer, a store into it, and a write at its home. -/

namespace Sys2Proof.Machine

/-! ## Writing LOC at its home -/

@[simp] theorem noteOld_loc (c : Core) (a : Nat) : (c.noteOld a).loc = c.loc := by
  unfold Core.noteOld
  dsimp only
  repeat' split
  all_goals rfl

theorem foldl_noteOld_loc (c : Core) (f : Nat → Nat) (ks : List Nat) :
    (ks.foldl (fun c k => c.noteOld (f k)) c).loc = c.loc := by
  induction ks generalizing c with
  | nil => rfl
  | cons k ks ih => rw [List.foldl_cons, ih, noteOld_loc]

/-- A write at home puts its bytes into LOC. -/
theorem writeLoc_loc (c : Core) (a : Nat) (bs : List Byte) : (c.writeLoc a bs).loc = writeCells c.loc a bs := by
  unfold Core.writeLoc
  dsimp only
  rw [foldl_noteOld_loc]

/-- What was written reads back. -/
theorem writeLoc_reads (c : Core) (a : Nat) (bs : List Byte) : cellsAt (c.writeLoc a bs).loc a bs.length = bs := by
  rw [writeLoc_loc, cellsAt_writeCells]

/-- Every byte outside reads as before. -/
theorem writeLoc_outside (c : Core) (a l : Nat) (bs : List Byte) (h : l < a ∨ a + bs.length ≤ l) :
    Table.get 0 (c.writeLoc a bs).loc l = Table.get 0 c.loc l := by
  rw [writeLoc_loc, get_writeCells_outside _ _ _ _ h]

/-- LOC keeps its canonical form. -/
theorem writeLoc_wf (c : Core) (a : Nat) (bs : List Byte) (h : Memory.wf c.loc = true) :
    Memory.wf (c.writeLoc a bs).loc = true := by
  rw [writeLoc_loc]; exact writeCells_wf _ _ _ h

/-! ## Writing external memory at device addresses (07 R227) -/

/-- Every byte at no device address written reads as before. -/
theorem writeDevices_outside (m : List Host.Cell) (ds : List Nat) (bs : List Byte) (l : Nat) (h : l ∉ ds) :
    Table.get 0 (writeDevices m ds bs) l = Table.get 0 m l := by
  induction ds generalizing m bs with
  | nil => rfl
  | cons d ds ih =>
    cases bs with
    | nil => rfl
    | cons b bs =>
      simp only [List.mem_cons, not_or] at h
      rw [writeDevices, ih _ _ h.2, Table.get_set_ne (0 : Byte) h.1]

/-- External memory keeps its canonical form. -/
theorem writeDevices_wf (m : List Host.Cell) (ds : List Nat) (bs : List Byte) (h : Memory.wf m = true) :
    Memory.wf (writeDevices m ds bs) = true := by
  induction ds generalizing m bs with
  | nil => exact h
  | cons d ds ih =>
    cases bs with
    | nil => exact h
    | cons b bs => exact ih _ _ (Table.wf_set (0 : Byte) d b m h)

/-! ## The checks of an address -/

theorem checkAlign_ok {ea : Int} {n : Nat} (h : ea % n = 0) (s : State) : (checkAlign ea n).run s = .ok () s := by
  unfold checkAlign; rw [if_pos h]; rfl

theorem checkAlign_trap {ea : Int} {n : Nat} (h : ea % n ≠ 0) (s : State) :
    (checkAlign ea n).run s = .error (.trap { code := causeAlign, val := trunc 64 ea, sub := 0 }) s := by
  unfold checkAlign; rw [if_neg h]; rfl

/-- An address of LOC that no spill area takes leads to LOC. -/
theorem resolveLoc_loc {ea : Int} {s : State} (h0 : 0 ≤ ea) (h1 : ea < 65536)
    (hs : ¬(s.me.spillBase.toNat < s.me.spillLim.toNat ∧ (s.me.spillLim.toNat * 8 : Int) ≤ ea
      ∧ ea < (s.me.spillLim.toNat * 8 : Int) + 2 ^ 24)) :
    (resolveLoc ea).run s = .ok (.loc ea.toNat) s := by
  unfold resolveLoc
  rw [op_bind_ok (getMe_run s)]
  simp only [if_neg (show ¬ea < 0 by omega), if_neg hs, if_neg (show ¬(65536 : Int) ≤ ea by omega)]
  rfl

/-- An address below LOC traps. -/
theorem resolveLoc_below {ea : Int} {s : State} (h : ea < 0) :
    (resolveLoc ea).run s = .error (.trap { code := causeLocRange, val := trunc 64 ea, sub := 0 }) s := by
  unfold resolveLoc
  rw [op_bind_ok (getMe_run s)]
  simp only [if_pos h]
  rfl

/-- An address past LOC that no spill area takes traps. -/
theorem resolveLoc_past {ea : Int} {s : State} (h1 : 65536 ≤ ea)
    (hs : ¬(s.me.spillBase.toNat < s.me.spillLim.toNat ∧ (s.me.spillLim.toNat * 8 : Int) ≤ ea
      ∧ ea < (s.me.spillLim.toNat * 8 : Int) + 2 ^ 24)) :
    (resolveLoc ea).run s = .error (.trap { code := causeLocRange, val := trunc 64 ea, sub := 0 }) s := by
  unfold resolveLoc
  rw [op_bind_ok (getMe_run s)]
  simp only [if_neg (show ¬ea < 0 by omega), if_neg hs, if_pos h1]
  rfl

/-! ## Loads -/

theorem bankGate_open {a : Nat} {s : State} (h : s.me.bankWait.getLsbD (a / 8192) = false) :
    (bankGate a).run s = .ok () s := by
  unfold bankGate
  rw [op_bind_ok (getMe_run s), h]
  rfl

theorem bankGate_shut {a : Nat} {s : State} (h : s.me.bankWait.getLsbD (a / 8192) = true) :
    (bankGate a).run s = .error (.wait (waitVal 6 0 (a / 8192))) s := by
  unfold bankGate
  rw [op_bind_ok (getMe_run s), h]
  rfl

/-- A load at its home delivers the youngest buffered bytes, else those of LOC, in the order of the cluster's engine where the line
is hot (12 R385). -/
theorem homeLoad_ok {lid a n : Nat} {val : Word} {s s' : State} (hp : atomicPending s.me.sb lid a n = false)
    (hx : ((s.core lid).locPoisoned a n && !allForwarded s.me.sb lid a n) = false) (hl : s.loaded lid a n = some s') :
    (homeLoad lid a n val).run s = .ok (loadBytes s s.me.sb lid a n) s' := by
  unfold homeLoad
  unfold State.loaded at hl
  rw [op_bind_ok (op_get s)]
  simp only [hp, hx, Bool.false_eq_true, if_false]
  split at hl
  · next h => simp only [Option.some.injEq] at hl; subst hl; simp [h]
  · next h => simp [h, hl]

/-- A load whose turn at a hot line is another's stalls (12 R386). -/
theorem homeLoad_turn {lid a n : Nat} {val : Word} {s : State} (hp : atomicPending s.me.sb lid a n = false)
    (hx : ((s.core lid).locPoisoned a n && !allForwarded s.me.sb lid a n) = false) (hl : s.loaded lid a n = none) :
    (homeLoad lid a n val).run s = .error (.turn lid a) s := by
  unfold homeLoad
  unfold State.loaded at hl
  rw [op_bind_ok (op_get s)]
  simp only [hp, hx, Bool.false_eq_true, if_false]
  split at hl
  · contradiction
  · next h => simp only [h, hl, Bool.false_eq_true, if_false]; rfl

/-- A load in a line that is not hot leaves the module as it is. -/
theorem loaded_cold {lid a n : Nat} {s : State} (h : (s.cluster (clusterOf lid)).hot.contains (lid, a / 64) = false) :
    s.loaded lid a n = some s := by
  have h' : (s.engine (clusterOf lid)).hot.contains (lid, a / 64) = false := h
  unfold State.loaded State.plainAccess
  simp only [h', Bool.not_false, if_true, ite_self]

/-- A load changes its cluster's engine at most. -/
theorem loaded_core {lid a n k : Nat} {s s' : State} (h : s.loaded lid a n = some s') : s'.core k = s.core k := by
  unfold State.loaded State.plainAccess at h
  dsimp only at h
  repeat' split at h
  all_goals first
    | contradiction
    | (simp only [Option.some.injEq] at h; subst h; rfl)

/-- A load of a poisoned word that the store buffer does not cover traps (15 R460). -/
theorem homeLoad_poison {lid a n : Nat} {val : Word} {s : State} (hp : atomicPending s.me.sb lid a n = false)
    (hx : ((s.core lid).locPoisoned a n && !allForwarded s.me.sb lid a n) = true) :
    (homeLoad lid a n val).run s = .error (.trap { code := causePoison, val, sub := 0 }) s := by
  unfold homeLoad
  rw [op_bind_ok (op_get s)]
  simp only [hp, hx, Bool.false_eq_true, if_false, if_true]
  rfl

/-- A load of the core's own LOC, off the path of a collective branch and with its bank open. -/
theorem locLoad_ok {a n : Nat} {val : Word} {s s' : State} (hb : s.me.bankWait.getLsbD (a / 8192) = false)
    (hs : s.me.spec = none) (hp : atomicPending s.me.sb s.cur a n = false)
    (hx : ((s.core s.cur).locPoisoned a n && !allForwarded s.me.sb s.cur a n) = false)
    (hl : s.loaded s.cur a n = some s') :
    (locLoad a n val).run s = .ok (loadBytes s s.me.sb s.cur a n) s' := by
  unfold locLoad
  rw [op_bind_ok (bankGate_open hb), op_bind_ok (op_get s)]
  simp only [hs]
  exact homeLoad_ok hp hx hl

/-! ## Stores -/

/-- A store enters the store buffer behind every other, where it has room. -/
theorem pushSb_ok {e : SbEntry} {s : State} (h : s.me.sb.length < 16) :
    (pushSb e).run s = .ok () (s.setMe { s.me with sb := s.me.sb ++ [e] }) := by
  unfold pushSb
  rw [op_bind_ok (getMe_run s)]
  simp only [if_neg (Nat.not_le.mpr h)]
  rfl

/-- A full store buffer stalls the core. -/
theorem pushSb_full {e : SbEntry} {s : State} (h : 16 ≤ s.me.sb.length) : (pushSb e).run s = .error .pipe s := by
  unfold pushSb
  rw [op_bind_ok (getMe_run s)]
  simp only [if_pos h]
  rfl

/-- A store to the core's own LOC, off the path of a collective branch and with its bank open. -/
theorem locStore_ok {a : Nat} {bs : List Byte} {s : State} (hb : s.me.bankWait.getLsbD (a / 8192) = false)
    (hs : s.me.spec = none) (h : s.me.sb.length < 16) :
    (locStore a bs).run s = .ok () (s.setMe { s.me with sb := s.me.sb ++ [.store s.cur a bs] }) := by
  unfold locStore
  rw [op_bind_ok (bankGate_open hb), op_bind_ok (op_get s)]
  dsimp only
  split
  · exact pushSb_ok h
  · simp_all

/-! ## The whole access -/

/-- An aligned load within LOC. -/
theorem ldlAt_loc {ea : Int} {n : Nat} {s s' : State} {bs : List Byte} (ha : ea % n = 0)
    (hr : (resolveLoc ea).run s = .ok (.loc ea.toNat) s) (hl : (locLoad ea.toNat n (trunc 64 ea)).run s = .ok bs s') :
    (ldlAt ea n).run s = .ok bs s' := by
  unfold ldlAt
  rw [op_bind_ok (checkAlign_ok ha s), op_bind_ok hr]
  exact hl

/-- An aligned store within LOC. -/
theorem stlAt_loc {ea : Int} {bs : List Byte} {s t : State} (ha : ea % bs.length = 0)
    (hr : (resolveLoc ea).run s = .ok (.loc ea.toNat) s) (hl : (locStore ea.toNat bs).run s = .ok () t) :
    (stlAt ea bs).run s = .ok () t := by
  unfold stlAt
  rw [op_bind_ok (checkAlign_ok ha s), op_bind_ok hr]
  exact hl

end Sys2Proof.Machine
end

