-- ==== Sys2Proof/Laws/Scalar.lean ====
section
/-! SUPPORT. What the shapes of the integer instructions do where their operands can be read and their result written. -/

namespace Sys2Proof.Machine

/-- sD := f sA sB. -/
theorem binary_ok {i : Instr} {x : FormS3} {f : Word → Word → Word} {s : State} {a b : Word} {c1 c2 c3 : Core}
    (h : Issues i s) (ha : scalarRead s.me x.a = some (a, c1)) (hb : scalarRead c1 x.b = some (b, c2))
    (hd : scalarWrite c2 x.d (f a b) = some c3) : binary i x f s = .next (s.completed c3) := by
  obtain ⟨s1, e1, n1⟩ := readS_near (Near.refl s) ha
  obtain ⟨s2, e2, n2⟩ := readS_near n1 hb
  obtain ⟨s3, e3, n3⟩ := writeS_near n2 hd
  refine issueSeq_near h ?_ n3 (scalarWrite_spec hd (scalarRead_spec hb (scalarRead_spec ha h.2.2.1)))
  rw [op_bind_ok e1, op_bind_ok e2, e3]

/-- sD := f sA. -/
theorem unary_ok {i : Instr} {x : FormS3} {f : Word → Word} {s : State} {a : Word} {c1 c2 : Core} (h : Issues i s)
    (ha : scalarRead s.me x.a = some (a, c1)) (hd : scalarWrite c1 x.d (f a) = some c2) :
    unary i x f s = .next (s.completed c2) := by
  obtain ⟨s1, e1, n1⟩ := readS_near (Near.refl s) ha
  obtain ⟨s2, e2, n2⟩ := writeS_near n1 hd
  refine issueSeq_near h ?_ n2 (scalarWrite_spec hd (scalarRead_spec ha h.2.2.1))
  rw [op_bind_ok e1, e2]

/-- sD := f sA and the immediate. -/
theorem immediate_ok {i : Instr} {x : FormSI} {f : Word → Word → Word} {s : State} {a : Word} {c1 c2 : Core}
    (h : Issues i s) (ha : scalarRead s.me x.a = some (a, c1))
    (hd : scalarWrite c1 x.d (f a (x.imm.signExtend 64)) = some c2) : immediate i x f s = .next (s.completed c2) := by
  obtain ⟨s1, e1, n1⟩ := readS_near (Near.refl s) ha
  obtain ⟨s2, e2, n2⟩ := writeS_near n1 hd
  refine issueSeq_near h ?_ n2 (scalarWrite_spec hd (scalarRead_spec ha h.2.2.1))
  rw [op_bind_ok e1, e2]

/-- A truth value goes to sD and to a flag. -/
theorem writeTruth_near {s s1 : State} {c c' : Core} {d : BitVec 5} {fd : BitVec 3} {v : Bool} (hn : Near s s1 c)
    (h : scalarWrite c d (truth v) = some c') :
    ∃ s2, (writeTruth d fd v).run s1 = .ok () s2 ∧ Near s s2 (c'.setFlag fd.toNat v) := by
  obtain ⟨s2, e2, n2⟩ := writeS_near hn h
  unfold writeTruth
  rw [op_bind_ok e2, modMe_run, ← n2.1]
  exact ⟨_, rfl, n2.setMe _⟩

end Sys2Proof.Machine
end

