-- ==== Sys2Proof/Tests/Slice0.lean ====
section
/-! SUPPORT. Tests: words written out from the spec's encodings decode to what they stand for; a term that each check of
WellFormed refuses; and for every statement with hypotheses a state and operands that meet them, clause by clause. -/

set_option maxRecDepth 8000
set_option Elab.async false
set_option linter.unusedVariables false

namespace Sys2Proof.Tests

open Sys2Proof.Machine Sys2Proof.Claims

/-! ## Words of 03 R81 and R86-R99, written out field by field from the tables of the owning chapters -/

/-- Words of the integer family (03 R86-R88; 05 R186). -/
theorem test_decode_integer_1 : ∀ p ∈ (
    [(0x0112E62000000000, .add { zS3 with d := 5, a := 25, b := 17, gd := 1 }),
     (0x0222E62000000000, .sub { zS3 with d := 5, a := 25, b := 17, gd := 2 }),
     (0x0572E62000000000, .mul { zS3 with d := 5, a := 25, b := 17, gd := 7 }),
     (0x0692E62000000000, .mulh { zS3 with d := 5, a := 25, b := 17, gd := 9 }),
     (0x07F2E62000000000, .mulhn { zS3 with d := 5, a := 25, b := 17, gd := 15 }),
     (0x0812E62000000000, .div { zS3 with d := 5, a := 25, b := 17, gd := 1 }),
     (0x0922E62000000000, .divn { zS3 with d := 5, a := 25, b := 17, gd := 2 }),
     (0x0A72E62000000000, .rem { zS3 with d := 5, a := 25, b := 17, gd := 7 }),
     (0x0B92E62000000000, .remn { zS3 with d := 5, a := 25, b := 17, gd := 9 }),
     (0x0CF2E62000000000, .and { zS3 with d := 5, a := 25, b := 17, gd := 15 }),
     (0x0D12E62000000000, .or { zS3 with d := 5, a := 25, b := 17, gd := 1 }),
     (0x0E22E62000000000, .xor { zS3 with d := 5, a := 25, b := 17, gd := 2 })] : List (Word × Instr)),
    decodeWord p.1 = .ok p.2 := by decide +kernel

/-- Words of the integer family (03 R86-R88; 05 R186). -/
theorem test_decode_integer_2 : ∀ p ∈ (
    [(0x0F72E62000000000, .andn { zS3 with d := 5, a := 25, b := 17, gd := 7 }),
     (0x1392E62000000000, .sll { zS3 with d := 5, a := 25, b := 17, gd := 9 }),
     (0x14F2E62000000000, .srl { zS3 with d := 5, a := 25, b := 17, gd := 15 }),
     (0x1512E62000000000, .sra { zS3 with d := 5, a := 25, b := 17, gd := 1 }),
     (0x1922E62000000000, .rotl { zS3 with d := 5, a := 25, b := 17, gd := 2 }),
     (0x1A72E62000000000, .rotr { zS3 with d := 5, a := 25, b := 17, gd := 7 }),
     (0x2092E62000000000, .min { zS3 with d := 5, a := 25, b := 17, gd := 9 }),
     (0x21F2E62000000000, .max { zS3 with d := 5, a := 25, b := 17, gd := 15 }),
     (0x2212E62000000000, .minn { zS3 with d := 5, a := 25, b := 17, gd := 1 }),
     (0x2322E62000000000, .maxn { zS3 with d := 5, a := 25, b := 17, gd := 2 }),
     (0x1B7FA40000000000, .clz { zS3 with d := 31, a := 9, gd := 7 }),
     (0x1C9FA40000000000, .ctz { zS3 with d := 31, a := 9, gd := 9 })] : List (Word × Instr)),
    decodeWord p.1 = .ok p.2 := by decide +kernel

/-- Words of the integer family (03 R86-R88; 05 R186). -/
theorem test_decode_integer_3 : ∀ p ∈ (
    [(0x1DFFA40000000000, .popc { zS3 with d := 31, a := 9, gd := 15 }),
     (0x0312A7FFFFFFFFFD, .addi { FormSI.ofWord 0 with d := 5, a := 9, imm := BitVec.ofInt 42 (-3), gd := 1 }),
     (0x1022A7FFFFFFFFFD, .andi { FormSI.ofWord 0 with d := 5, a := 9, imm := BitVec.ofInt 42 (-3), gd := 2 }),
     (0x1172A7FFFFFFFFFD, .ori { FormSI.ofWord 0 with d := 5, a := 9, imm := BitVec.ofInt 42 (-3), gd := 7 }),
     (0x1292A7FFFFFFFFFD, .xori { FormSI.ofWord 0 with d := 5, a := 9, imm := BitVec.ofInt 42 (-3), gd := 9 }),
     (0x16F2A4000000003F, .slli { FormSI.ofWord 0 with d := 5, a := 9, imm := 63, gd := 15 }),
     (0x1712A4000000003F, .srli { FormSI.ofWord 0 with d := 5, a := 9, imm := 63, gd := 1 }),
     (0x1822A4000000003F, .srai { FormSI.ofWord 0 with d := 5, a := 9, imm := 63, gd := 2 }),
     (0x0472C00000000000, .li { FormLI.ofWord 0 with d := 5, imm := BitVec.ofInt 47 (-70368744177664), gd := 7 }),
     (0x1E92A4000400083C, .bext { zS3 with d := 5, a := 9, sf := 1, aux := 0x83C, gd := 9 }),
     (0x1FF2A54000000000, .bins { zS3 with d := 5, a := 9, b := 10, gd := 15 }),
     (0x2412A54700000000, .sel { zS3 with d := 5, a := 9, b := 10, c := 7, gd := 1 })] : List (Word × Instr)),
    decodeWord p.1 = .ok p.2 := by decide +kernel

/-- Words of the integer family (03 R86-R88; 05 R186). -/
theorem test_decode_integer_4 : ∀ p ∈ (
    [(0x2522A5402F000000, .cmp { zS3 with d := 5, a := 9, b := 10, sf := 11, fd := 6, gd := 2 }),
     (0x2672A70900000000, .cmpi { FormC.ofWord 0 with d := 5, a := 9, sf := 4, fd := 6, imm := BitVec.ofInt 33 (-4294967296), gd := 7 })] : List (Word × Instr)),
    decodeWord p.1 = .ok p.2 := by decide +kernel

/-- Words of the fop family (03 R86; 05 R186). -/
theorem test_decode_fop_1 : ∀ p ∈ (
    [(0x2792A54000480000, .fopAdd { zS3 with d := 5, a := 9, sf := 0, ty := 8, b := 10, rm := 2, gd := 9 }),
     (0x27F2A54004480000, .fopSub { zS3 with d := 5, a := 9, sf := 1, ty := 8, b := 10, rm := 2, gd := 15 }),
     (0x2712A54008480000, .fopMul { zS3 with d := 5, a := 9, sf := 2, ty := 8, b := 10, rm := 2, gd := 1 }),
     (0x2722A54B0C480000, .fopFma { zS3 with d := 5, a := 9, sf := 3, ty := 8, b := 10, c := 11, rm := 2, gd := 2 }),
     (0x2772A54010480000, .fopDiv { zS3 with d := 5, a := 9, sf := 4, ty := 8, b := 10, rm := 2, gd := 7 }),
     (0x2792A40014480000, .fopSqrt { zS3 with d := 5, a := 9, sf := 5, ty := 8, rm := 2, gd := 9 }),
     (0x27F2A54018080000, .fopMin { zS3 with d := 5, a := 9, sf := 6, ty := 8, b := 10, gd := 15 }),
     (0x2712A5401C080000, .fopMax { zS3 with d := 5, a := 9, sf := 7, ty := 8, b := 10, gd := 1 }),
     (0x2722A40020080000, .fopAbs { zS3 with d := 5, a := 9, sf := 8, ty := 8, gd := 2 }),
     (0x2772A40024080000, .fopNeg { zS3 with d := 5, a := 9, sf := 9, ty := 8, gd := 7 }),
     (0x2792A40028480007, .fopCvt { zS3 with d := 5, a := 9, sf := 10, ty := 8, rm := 2, aux := 7, gd := 9 }),
     (0x27F2A4002C480000, .fopToi { zS3 with d := 5, a := 9, sf := 11, ty := 8, rm := 2, gd := 15 })] : List (Word × Instr)),
    decodeWord p.1 = .ok p.2 := by decide +kernel

/-- Words of the fop family (03 R86; 05 R186). -/
theorem test_decode_fop_2 : ∀ p ∈ (
    [(0x2712A40030480000, .fopTon { zS3 with d := 5, a := 9, sf := 12, ty := 8, rm := 2, gd := 1 }),
     (0x2722A40034480000, .fopFromi { zS3 with d := 5, a := 9, sf := 13, ty := 8, rm := 2, gd := 2 }),
     (0x2772A40038480000, .fopFromn { zS3 with d := 5, a := 9, sf := 14, ty := 8, rm := 2, gd := 7 }),
     (0x2792A5403F080000, .fopEq { zS3 with d := 5, a := 9, sf := 15, ty := 8, b := 10, fd := 6, gd := 9 }),
     (0x27F2A54043080000, .fopLt { zS3 with d := 5, a := 9, sf := 16, ty := 8, b := 10, fd := 6, gd := 15 }),
     (0x2712A54047080000, .fopLe { zS3 with d := 5, a := 9, sf := 17, ty := 8, b := 10, fd := 6, gd := 1 }),
     (0x2722A5404B080000, .fopUn { zS3 with d := 5, a := 9, sf := 18, ty := 8, b := 10, fd := 6, gd := 2 })] : List (Word × Instr)),
    decodeWord p.1 = .ok p.2 := by decide +kernel

/-- Words of the control family (03 R89). -/
theorem test_decode_control : ∀ p ∈ (
    [(0x28700000FFFFFFFD, .jmp { FormJ.ofWord 0 with ofs := BitVec.ofInt 32 (-3), gd := 7 }),
     (0x29900000FFFFFFFD, .call { FormJ.ofWord 0 with ofs := BitVec.ofInt 32 (-3), gd := 9 }),
     (0x2CF0240000000000, .jr { zS3 with a := 9, gd := 15 }),
     (0x2A10240000000000, .callr { zS3 with a := 9, gd := 1 }),
     (0x2B20000000000000, .ret { zS3 with gd := 2 })] : List (Word × Instr)),
    decodeWord p.1 = .ok p.2 := by decide +kernel

/-- Words of the memory family (03 R90; 05 R187). -/
theorem test_decode_memory : ∀ p ∈ (
    [(0x2D72A54768400000, .ldl { zM with d := 5, a := 9, b := 10, sc := 1, aq := 1, rl := 1, sz := 1, sg := 1, am := 1, disp := BitVec.ofInt 23 (-4194304), gd := 7 }),
     (0x2E92A40990000008, .stl { zM with d := 5, a := 9, sc := 2, rl := 1, sz := 2, am := 2, disp := 8, gd := 9 }),
     (0x2FF2A40FC4000008, .ldc { zM with d := 5, a := 9, sc := 3, aq := 1, rl := 1, sz := 3, cm := 1, disp := 8, gd := 15 }),
     (0x3012A41104000008, .stc { zM with d := 5, a := 9, sc := 4, rl := 1, cm := 1, disp := 8, gd := 1 }),
     (0x3122A400C0000008, .ldx { zM with d := 5, a := 9, sz := 3, disp := 8, gd := 2 }),
     (0x3271280DC0000000, .stx { zM with d := 2, a := 10, sc := 3, rl := 1, sz := 3, gd := 7 }),
     (0x3390001300000000, .fence { zM with sc := 4, aq := 1, rl := 1, gd := 9 })] : List (Word × Instr)),
    decodeWord p.1 = .ok p.2 := by decide +kernel

/-- Words of the task family (03 R86; 05 R157). -/
theorem test_decode_task_1 : ∀ p ∈ (
    [(0x34F2800000000032, .csrr { zS3 with d := 5, aux := 50, gd := 15 }),
     (0x3512A40000000010, .csrw { zS3 with d := 5, a := 9, sf := 0, aux := 16, gd := 1 }),
     (0x3522A40004000010, .csrwSet { zS3 with d := 5, a := 9, sf := 1, aux := 16, gd := 2 }),
     (0x3572A40008000010, .csrwClr { zS3 with d := 5, a := 9, sf := 2, aux := 16, gd := 7 }),
     (0x3492800000000011, .fpFlagsAccess false { zS3 with d := 5, aux := 17, gd := 9 }),
     (0x35F2A40008000011, .fpFlagsAccess true { zS3 with d := 5, a := 9, sf := 2, aux := 17, gd := 15 }),
     (0x3412800000000200, .predsAccess false { zS3 with d := 5, aux := 0x200, gd := 1 }),
     (0x3522A40004000200, .predsAccess true { zS3 with d := 5, a := 9, sf := 1, aux := 0x200, gd := 2 }),
     (0x357024000000011F, .triggerEntryWrite { zS3 with a := 9, aux := 0x11F, gd := 7 }),
     (0x3590240000000231, .lbndWrite { zS3 with a := 9, aux := 0x231, gd := 9 }),
     (0x35F0240000000260, .bankwaitWrite { zS3 with a := 9, aux := 0x260, gd := 15 }),
     (0x3610000000088079, .rpt { FormSI.ofWord 0 with imm := 0x88079, gd := 1 })] : List (Word × Instr)),
    decodeWord p.1 = .ok p.2 := by decide +kernel

/-- Words of the task family (03 R86; 05 R157). -/
theorem test_decode_task_2 : ∀ p ∈ (
    [(0x3722800000000003, .waitAll { zS3 with d := 5, aux := 3, gd := 2 }),
     (0x3772800004000005, .waitAny { zS3 with d := 5, sf := 1, aux := 5, gd := 7 }),
     (0x3790000008000008, .waitOsp { zS3 with sf := 2, aux := 8, gd := 9 }),
     (0x37F2A4000C000000, .waitUntil { zS3 with d := 5, a := 9, sf := 3, gd := 15 }),
     (0x3810000000000000, .done { zS3 with gd := 1 }),
     (0x3920254000000000, .post { zS3 with a := 9, b := 10, gd := 2 }),
     (0x3A70240000008001, .trap { zS3 with a := 9, aux := 0x8001, gd := 7 }),
     (0x3B90000000000007, .brk { zS3 with aux := 7, gd := 9 }),
     (0x3CF0000000000000, .nop { zS3 with gd := 15 }),
     (0x3D12A40000000000, .tick { zS3 with d := 5, a := 9, gd := 1 })] : List (Word × Instr)),
    decodeWord p.1 = .ok p.2 := by decide +kernel

/-- Words of the lane family (03 R91; 06). -/
theorem test_decode_lane_1 : ∀ p ∈ (
    [(0x4022E4C071800000, .vadd { zV with rm := 1, et := 8, d := 5, a := 25, b := 6, pr := 3, pn := 1, gd := 2 }),
     (0x4172E4C071800000, .vsub { zV with rm := 1, et := 8, d := 5, a := 25, b := 6, pr := 3, pn := 1, gd := 7 }),
     (0x4292E4C071800000, .vmul { zV with rm := 1, et := 8, d := 5, a := 25, b := 6, pr := 3, pn := 1, gd := 9 }),
     (0x40F2E4C070140000, .vadd { zV with et := 1, imm := 0x40000, d := 5, a := 25, b := 6, pr := 3, pn := 1, gd := 15 }),
     (0x4312E4C773700000, .vfma { zV with c := 7, rm := 3, et := 7, d := 5, a := 25, b := 6, pr := 3, pn := 1, gd := 1 }),
     (0x4422E4C773700000, .vfms { zV with c := 7, rm := 3, et := 7, d := 5, a := 25, b := 6, pr := 3, pn := 1, gd := 2 }),
     (0x4572E4C773700000, .vfnma { zV with c := 7, rm := 3, et := 7, d := 5, a := 25, b := 6, pr := 3, pn := 1, gd := 7 }),
     (0x4692E4C070500000, .vmin { zV with et := 5, d := 5, a := 25, b := 6, pr := 3, pn := 1, gd := 9 }),
     (0x47F2E4C070500000, .vmax { zV with et := 5, d := 5, a := 25, b := 6, pr := 3, pn := 1, gd := 15 }),
     (0x4812E40070240000, .vabs { zV with et := 2, imm := 0x40000, d := 5, a := 25, pr := 3, pn := 1, gd := 1 }),
     (0x4922E40070240000, .vneg { zV with et := 2, imm := 0x40000, d := 5, a := 25, pr := 3, pn := 1, gd := 2 }),
     (0x4A72E4C070400000, .vand { zV with et := 4, d := 5, a := 25, b := 6, pr := 3, pn := 1, gd := 7 })] : List (Word × Instr)),
    decodeWord p.1 = .ok p.2 := by decide +kernel

/-- Words of the lane family (03 R91; 06). -/
theorem test_decode_lane_2 : ∀ p ∈ (
    [(0x4B92E4C070400000, .vor { zV with et := 4, d := 5, a := 25, b := 6, pr := 3, pn := 1, gd := 9 }),
     (0x4CF2E4C070400000, .vxor { zV with et := 4, d := 5, a := 25, b := 6, pr := 3, pn := 1, gd := 15 }),
     (0x4D1288000028001F, .vshl { zV with d := 5, a := 2, et := 2, imm := 0x8001F, gd := 1 }),
     (0x4E2288000028001F, .vshr { zV with d := 5, a := 2, et := 2, imm := 0x8001F, gd := 2 }),
     (0x4F7288000028001F, .vsra { zV with d := 5, a := 2, et := 2, imm := 0x8001F, gd := 7 }),
     (0x5091844308800002, .vcmp { zV with d := 3, a := 1, b := 2, c := 3, qf := 2, et := 8, imm := 2, gd := 9 }),
     (0x51F2E4C070800000, .vsel { zV with et := 8, d := 5, a := 25, b := 6, pr := 3, pn := 1, gd := 15 }),
     (0x5212E40072800007, .vcvt { zV with et := 8, rm := 2, imm := 7, d := 5, a := 25, pr := 3, pn := 1, gd := 1 }),
     (0x5323044000800008, .vbxpack { zV with d := 6, a := 1, b := 2, et := 8, imm := 8, gd := 2 }),
     (0x5473040000800011, .vbxunpack { zV with d := 6, a := 1, et := 8, imm := 17, gd := 7 }),
     (0x5592E40071800000, .vrcp { zV with et := 8, rm := 1, d := 5, a := 25, pr := 3, pn := 1, gd := 9 }),
     (0x56F2E40071800000, .vrsqrt { zV with et := 8, rm := 1, d := 5, a := 25, pr := 3, pn := 1, gd := 15 })] : List (Word × Instr)),
    decodeWord p.1 = .ok p.2 := by decide +kernel

/-- Words of the lane family (03 R91; 06). -/
theorem test_decode_lane_3 : ∀ p ∈ (
    [(0x5712E40071800000, .vexp2 { zV with et := 8, rm := 1, d := 5, a := 25, pr := 3, pn := 1, gd := 1 }),
     (0x5822E40071800000, .vlog2 { zV with et := 8, rm := 1, d := 5, a := 25, pr := 3, pn := 1, gd := 2 }),
     (0x5972E40071800000, .vsqrt { zV with et := 8, rm := 1, d := 5, a := 25, pr := 3, pn := 1, gd := 7 }),
     (0x5B92E40071800000, .vredsum { zV with et := 8, rm := 1, d := 5, a := 25, pr := 3, pn := 1, gd := 9 }),
     (0x5AF2E4C071800000, .vdiv { zV with et := 8, rm := 1, d := 5, a := 25, b := 6, pr := 3, pn := 1, gd := 15 }),
     (0x5C12E40070800000, .vredmax { zV with et := 8, d := 5, a := 25, pr := 3, pn := 1, gd := 1 }),
     (0x5D22A40070800000, .vbcast { zV with et := 8, d := 5, a := 9, pr := 3, pn := 1, gd := 2 }),
     (0x5E72E4C070000000, .vperm { zV with et := 0, d := 5, a := 25, b := 6, pr := 3, pn := 1, gd := 7 }),
     (0x5F94940000800007, .vmovs { zV with et := 8, d := 9, a := 5, imm := 7, gd := 9 }),
     (0x60F2A40000800007, .vins { zV with et := 8, d := 5, a := 9, imm := 7, gd := 15 }),
     (0x6112A407C07FFFE0, .vld { zM with d := 5, a := 9, sc := 1, aq := 1, rl := 1, sz := 3, disp := BitVec.ofInt 23 (-32), gd := 1 }),
     (0x6222A405C07FFFE0, .vst { zM with d := 5, a := 9, sc := 1, aq := 0, rl := 1, sz := 3, disp := BitVec.ofInt 23 (-32), gd := 2 })] : List (Word × Instr)),
    decodeWord p.1 = .ok p.2 := by decide +kernel

/-- Words of the lane family (03 R91; 06). -/
theorem test_decode_lane_4 : ∀ p ∈ (
    [(0x6372A540C8000020, .vldq { zM with d := 5, a := 9, b := 10, sz := 3, am := 1, disp := 32, gd := 7 }),
     (0x6492A540C8000020, .vstq { zM with d := 5, a := 9, b := 10, sz := 3, am := 1, disp := 32, gd := 9 }),
     (0x65F190A000000002, .vplog { zV with d := 3, a := 4, b := 5, imm := 2, gd := 15 }),
     (0x6611900070000000, .vpany { zV with d := 3, a := 4, pr := 3, pn := 1, gd := 1 }),
     (0x6721900070000000, .vpall { zV with d := 3, a := 4, pr := 3, pn := 1, gd := 2 }),
     (0x6871A40000000000, .vpset { zV with d := 3, a := 9, imm := 0, gd := 7 }),
     (0x6992E4C770000000, .vdot4 { zV with et := 0, c := 7, d := 5, a := 25, b := 6, pr := 3, pn := 1, gd := 9 }),
     (0x6AF2E40070800000, .vclass { zV with et := 8, d := 5, a := 25, pr := 3, pn := 1, gd := 15 })] : List (Word × Instr)),
    decodeWord p.1 = .ok p.2 := by decide +kernel

/-- Words of the stream family (03 R86; 07). -/
theorem test_decode_stream_1 : ∀ p ∈ (
    [(0x7010240000000007, .sopen { zS3 with a := 9, aux := 7, gd := 1 }),
     (0x7120000000000006, .sgo { zS3 with aux := 6, gd := 2 }),
     (0x7270000000000006, .sstop { zS3 with aux := 6, gd := 7 }),
     (0x7290000004000006, .sstopClose { zS3 with sf := 1, aux := 6, gd := 9 }),
     (0x73F2800000000003, .swait { zS3 with d := 5, aux := 3, gd := 15 }),
     (0x7412800000000003, .sstat { zS3 with d := 5, aux := 3, gd := 1 }),
     (0x7422800004000003, .sstatCnt { zS3 with d := 5, sf := 1, aux := 3, gd := 2 }),
     (0x7570240000000005, .cbinit { zS3 with a := 9, aux := 5, gd := 7 }),
     (0x7693000000000032, .cbwait { zS3 with d := 6, aux := 50, gd := 9 }),
     (0x77F0000000000031, .cbrel { zS3 with aux := 49, gd := 15 }),
     (0x7810140000080002, .cbput { zS3 with a := 5, ty := 8, aux := 2, gd := 1 }),
     (0x7922800000000007, .cbstat { zS3 with d := 5, aux := 7, gd := 2 })] : List (Word × Instr)),
    decodeWord p.1 = .ok p.2 := by decide +kernel

/-- Words of the stream family (03 R86; 07). -/
theorem test_decode_stream_2 : ∀ p ∈ (
    [(0x7A72A54000000001, .smig { zS3 with d := 5, a := 9, b := 10, aux := 1, gd := 7 }),
     (0x7B90254000000000, .sinval { zS3 with a := 9, b := 10, gd := 9 })] : List (Word × Instr)),
    decodeWord p.1 = .ok p.2 := by decide +kernel

/-- Words of the message family (03 R94; 08). -/
theorem test_decode_message_1 : ∀ p ∈ (
    [(0x80F01D00036C7800, .sendw2 { zQ with a := 7, b := 8, tag := 1, fm := 15, kd := 5, rl := 1, sc := 3, gd := 15 }),
     (0x81102540DE240000, .sendm { zQ with a := 9, b := 10, tag := 111, rl := 1, sc := 1, gd := 1 }),
     (0x8222800000038000, .qflush { zQ with d := 5, qn := 7, gd := 2 }),
     (0x8372800000010002, .qpeek { zQ with d := 5, qn := 2, imm := 2, gd := 7 }),
     (0x8492800000000000, .qstat { zQ with d := 5, gd := 9 }),
     (0x85F2000000010000, .qdrop { zQ with d := 4, qn := 2, gd := 15 }),
     (0x86128000FE000000, .rtget { zQ with d := 5, tag := 127, gd := 1 }),
     (0x8720140050000000, .rtset { zQ with a := 5, tag := 40, gd := 2 }),
     (0x88700000DE018000, .tagset { zQ with tag := 111, qn := 3, gd := 7 }),
     (0x8990000050000080, .dmqset { zQ with tag := 40, imm := 128, gd := 9 }),
     (0x8AF2800000000000, .excq { zQ with d := 5, gd := 15 }),
     (0x8A12800000000001, .excqClr { zQ with d := 5, imm := 1, gd := 1 })] : List (Word × Instr)),
    decodeWord p.1 = .ok p.2 := by decide +kernel

/-- Words of the message family (03 R94; 08). -/
theorem test_decode_message_2 : ∀ p ∈ (
    [(0x8B22800050258000, .drain { zQ with d := 5, tag := 40, rl := 1, sc := 1, qn := 3, gd := 2 }),
     (0x8B72800000018001, .drainEnd { zQ with d := 5, tag := 0, qn := 3, imm := 1, gd := 7 }),
     (0x8C90000022240003, .bankpass { zQ with tag := 17, rl := 1, sc := 1, imm := 3, gd := 9 })] : List (Word × Instr)),
    decodeWord p.1 = .ok p.2 := by decide +kernel

/-- Words of the tensor family (03 R92; 09). -/
theorem test_decode_tensor_1 : ∀ p ∈ (
    [(0x90F024003C000020, .tldb { zT with a := 9, bt := 15, bf := 0, imm := 32, gd := 15 }),
     (0x911064001C800004, .tldbq { zT with a := 25, bt := 7, bf := 2, imm := 4, gd := 1 }),
     (0x92201400DA800001, .tmac { zT with a := 5, tile := 3, bt := 6, af := 2, bf := 2, imm := 1, gd := 2 }),
     (0x9370640059380004, .tmacq { zT with a := 25, tile := 1, bt := 6, af := 1, gn := 7, imm := 4, gd := 7 }),
     (0x9490240098800010, .tmacl { zT with a := 9, tile := 2, bt := 6, bf := 2, imm := 16, gd := 9 }),
     (0x95F0000000180002, .tgang { zT with gn := 3, imm := 2, gd := 15 }),
     (0x96100000C0000000, .tclr { zT with tile := 3, gd := 1 }),
     (0x97200800C0000000, .tadd { zT with tile := 3, a := 2, gd := 2 }),
     (0x98702400C0000000, .tnorm { zT with tile := 3, a := 9, gd := 7 }),
     (0x98900000C0000001, .tnormMax { zT with tile := 3, imm := 1, gd := 9 }),
     (0x99F00C0040000000, .tmovTt { zT with tile := 1, a := 3, gd := 15 }),
     (0x991C800040000005, .tmovOut { zT with tile := 1, d := 25, imm := 5, gd := 1 })] : List (Word × Instr)),
    decodeWord p.1 = .ok p.2 := by decide +kernel

/-- Words of the tensor family (03 R92; 09). -/
theorem test_decode_tensor_2 : ∀ p ∈ (
    [(0x9920640040000002, .tmovIn { zT with tile := 1, a := 25, imm := 2, gd := 2 }),
     (0x9A70240080000000, .tsta { zT with tile := 2, a := 9, gd := 7 }),
     (0x9B90240080000000, .tlda { zT with tile := 2, a := 9, gd := 9 }),
     (0x9CF2800082000001, .tout { zT with tile := 2, d := 5, af := 2, imm := 1, gd := 15 }),
     (0x9D12800080000000, .texp { zT with tile := 2, d := 5, gd := 1 })] : List (Word × Instr)),
    decodeWord p.1 = .ok p.2 := by decide +kernel

/-- Words of the lattice family (03 R93; 10). -/
theorem test_decode_lattice_1 : ∀ p ∈ (
    [(0xA0202400B2000000, .lgl { zL with a := 9, pg := 5, np := 2, fi := 1, gd := 2 }),
     (0xA1707C00E4000000, .lglq { zL with a := 31, pg := 7, fi := 2, gd := 7 }),
     (0xA290000060000105, .lsel { zL with pg := 3, imm := 0x105, gd := 9 }),
     (0xA2F0000000008000, .lselOff { zL with imm := 0x8000, gd := 15 }),
     (0xA310E40060000001, .lrun { zL with d := 1, a := 25, pg := 3, imm := 1, gd := 1 }),
     (0xA420940060000001, .lrunv { zL with d := 1, a := 5, pg := 3, imm := 1, gd := 2 }),
     (0xA57000000000000E, .lbound { zL with imm := 14, gd := 7 }),
     (0xA692800000000004, .lstatSt { zL with d := 5, imm := 4, gd := 9 }),
     (0xA6F2800001F00001, .lstatTap { zL with d := 5, ot := 31, imm := 1, gd := 15 }),
     (0xA612800000000002, .lstatExp { zL with d := 5, imm := 2, gd := 1 }),
     (0xA7200000E0000000, .lfree { zL with pg := 7, gd := 2 }),
     (0xA770000000000001, .lfreeAll { zL with imm := 1, gd := 7 })] : List (Word × Instr)),
    decodeWord p.1 = .ok p.2 := by decide +kernel

/-- Words of the lattice family (03 R93; 10). -/
theorem test_decode_lattice_2 : ∀ p ∈ (
    [(0xA892A40060000000, .lsum { zL with d := 5, a := 9, pg := 3, gd := 9 })] : List (Word × Instr)),
    decodeWord p.1 = .ok p.2 := by decide +kernel

/-- Words of the crown family (03 R95; 11). -/
theorem test_decode_crown : ∀ p ∈ (
    [(0xB0F0000320000000, .barr { zB with c := 3, ch := 1, gd := 15 }),
     (0xB1110000E0000000, .bwait { zB with d := 2, ch := 7, gd := 1 }),
     (0xB221000320000000, .barw { zB with d := 2, c := 3, ch := 1, gd := 2 }),
     (0xB371000020000000, .bexcuse { zB with d := 2, ch := 1, gd := 7 }),
     (0xB4900000A0000000, .bgjoin { zB with ch := 5, gd := 9 }),
     (0xB5F00000A0000000, .bgleave { zB with ch := 5, gd := 15 }),
     (0xB610000358080000, .cbr { zB with c := 3, ch := 2, bo := 1, hn := 2, ofs := BitVec.ofInt 20 (-524288), gd := 1 }),
     (0xB720000056E00002, .cbrv { zB with ch := 2, bo := 1, hn := 1, pr := 5, pn := 1, qf := 2, ofs := 2, gd := 2 }),
     (0xB871000020000000, .cbrres { zB with d := 2, ch := 1, gd := 7 }),
     (0xB991000000000000, .specstat { zB with d := 2, gd := 9 }),
     (0xBAF2980020000000, .bmask { zB with d := 5, a := 6, ch := 1, gd := 15 }),
     (0xBB12980020000000, .tcount { zB with d := 5, a := 6, ch := 1, gd := 1 })] : List (Word × Instr)),
    decodeWord p.1 = .ok p.2 := by decide +kernel

/-- Words of the atomic family (03 R96; 12). -/
theorem test_decode_atomic_1 : ∀ p ∈ (
    [(0xC022A7403E200000, .aadd { FormA.ofWord 0 with d := 5, a := 9, b := 26, sc := 1, aq := 1, rl := 1, cm := 1, sz := 2, disp := BitVec.ofInt 22 (-2097152), gd := 2 }),
     (0xC172A7403E200000, .aand { FormA.ofWord 0 with d := 5, a := 9, b := 26, sc := 1, aq := 1, rl := 1, cm := 1, sz := 2, disp := BitVec.ofInt 22 (-2097152), gd := 7 }),
     (0xC292A7403E200000, .aor { FormA.ofWord 0 with d := 5, a := 9, b := 26, sc := 1, aq := 1, rl := 1, cm := 1, sz := 2, disp := BitVec.ofInt 22 (-2097152), gd := 9 }),
     (0xC3F2A7403E200000, .axor { FormA.ofWord 0 with d := 5, a := 9, b := 26, sc := 1, aq := 1, rl := 1, cm := 1, sz := 2, disp := BitVec.ofInt 22 (-2097152), gd := 15 }),
     (0xC412A7403E200000, .amin { FormA.ofWord 0 with d := 5, a := 9, b := 26, sc := 1, aq := 1, rl := 1, cm := 1, sz := 2, disp := BitVec.ofInt 22 (-2097152), gd := 1 }),
     (0xC522A7403E200000, .amax { FormA.ofWord 0 with d := 5, a := 9, b := 26, sc := 1, aq := 1, rl := 1, cm := 1, sz := 2, disp := BitVec.ofInt 22 (-2097152), gd := 2 }),
     (0xC672A7403E200000, .aminn { FormA.ofWord 0 with d := 5, a := 9, b := 26, sc := 1, aq := 1, rl := 1, cm := 1, sz := 2, disp := BitVec.ofInt 22 (-2097152), gd := 7 }),
     (0xC792A7403E200000, .amaxn { FormA.ofWord 0 with d := 5, a := 9, b := 26, sc := 1, aq := 1, rl := 1, cm := 1, sz := 2, disp := BitVec.ofInt 22 (-2097152), gd := 9 }),
     (0xC8F2A7403E200000, .aswap { FormA.ofWord 0 with d := 5, a := 9, b := 26, sc := 1, aq := 1, rl := 1, cm := 1, sz := 2, disp := BitVec.ofInt 22 (-2097152), gd := 15 }),
     (0xCA12A7403E200000, .aincl { FormA.ofWord 0 with d := 5, a := 9, b := 26, sc := 1, aq := 1, rl := 1, cm := 1, sz := 2, disp := BitVec.ofInt 22 (-2097152), gd := 1 }),
     (0xC921A88533000000, .acas { FormA.ofWord 0 with d := 3, a := 10, b := 4, c := 5, sc := 1, aq := 1, sz := 3, gd := 2 }),
     (0xCB701C4003400005, .afadd { FormA.ofWord 0 with a := 7, b := 2, sz := 3, ft := 1, disp := 5, gd := 7 })] : List (Word × Instr)),
    decodeWord p.1 = .ok p.2 := by decide +kernel

/-- Words of the atomic family (03 R96; 12). -/
theorem test_decode_atomic_2 : ∀ p ∈ (
    [(0xCC92A400030000FF, .afrd { FormA.ofWord 0 with d := 5, a := 9, sz := 3, disp := 255, gd := 9 }),
     (0xCDF2A400030000FF, .afclr { FormA.ofWord 0 with d := 5, a := 9, sz := 3, disp := 255, gd := 15 }),
     (0xCE10000003000000, .afence { FormA.ofWord 0 with sz := 3, gd := 1 })] : List (Word × Instr)),
    decodeWord p.1 = .ok p.2 := by decide +kernel

/-- Words of the link family (03 R97; 13). -/
theorem test_decode_link_1 : ∀ p ∈ (
    [(0xD021240003000000, .lkgrp { FormK.ofWord 0 with d := 2, a := 9, ge := 3, gd := 2 }),
     (0xD170254BFF00C802, .lkcollBcast { FormK.ofWord 0 with a := 9, b := 10, c := 11, ge := 255, ko := 0, fm := 0, aq := 1, rl := 1, sc := 1, imm := 2, gd := 7 }),
     (0xD190254BFF13C802, .lkcollFsum { FormK.ofWord 0 with a := 9, b := 10, c := 11, ge := 255, ko := 1, fm := 3, aq := 1, rl := 1, sc := 1, imm := 2, gd := 9 }),
     (0xD1F0254BFF220002, .lkcollIsum { FormK.ofWord 0 with a := 9, b := 10, c := 11, ge := 255, ko := 2, fm := 2, imm := 2, gd := 15 }),
     (0xD110254BFF320002, .lkcollMin { FormK.ofWord 0 with a := 9, b := 10, c := 11, ge := 255, ko := 3, fm := 2, imm := 2, gd := 1 }),
     (0xD120254BFF420002, .lkcollMax { FormK.ofWord 0 with a := 9, b := 10, c := 11, ge := 255, ko := 4, fm := 2, imm := 2, gd := 2 }),
     (0xD170254BFF520002, .lkcollAnd { FormK.ofWord 0 with a := 9, b := 10, c := 11, ge := 255, ko := 5, fm := 2, imm := 2, gd := 7 }),
     (0xD190254BFF620002, .lkcollOr { FormK.ofWord 0 with a := 9, b := 10, c := 11, ge := 255, ko := 6, fm := 2, imm := 2, gd := 9 }),
     (0xD1F0240B04700001, .lkcollCell { FormK.ofWord 0 with a := 9, c := 11, ge := 4, ko := 7, imm := 1, gd := 15 }),
     (0xD215800000000001, .lkwait { FormK.ofWord 0 with d := 11, imm := 1, gd := 1 }),
     (0xD322800000000003, .lkstatSlot { FormK.ofWord 0 with d := 5, imm := 3, gd := 2 }),
     (0xD372980000000010, .lkstatPort { FormK.ofWord 0 with d := 5, a := 6, imm := 16, gd := 7 })] : List (Word × Instr)),
    decodeWord p.1 = .ok p.2 := by decide +kernel

/-- Words of the link family (03 R97; 13). -/
theorem test_decode_link_2 : ∀ p ∈ (
    [(0xD492800009000000, .lkseq { FormK.ofWord 0 with d := 5, ge := 9, gd := 9 }),
     (0xD4F2A40009000001, .lkseqSet { FormK.ofWord 0 with d := 5, a := 9, ge := 9, imm := 1, gd := 15 })] : List (Word × Instr)),
    decodeWord p.1 = .ok p.2 := by decide +kernel

/-- Words of the system family (03 R98; 14 R444). -/
theorem test_decode_system : ∀ p ∈ (
    [(0xD810000000000000, .trapret { zY with gd := 1 }),
     (0xD820000000000001, .trapretSkip { zY with code := 1, gd := 2 }),
     (0xD970000000007FFF, .halt { zY with code := 0x7FFF, gd := 7 }),
     (0xD990000000008005, .haltRgn { zY with code := 0x8005, gd := 9 }),
     (0xDAF2800000000005, .feat { zY with d := 5, code := 5, gd := 15 }),
     (0xDB10000000000000, .idle { zY with gd := 1 }),
     (0xDC20240000007FFF, .syscall { zY with a := 9, code := 0x7FFF, gd := 2 }),
     (0xDC71A40000008000, .syscallNotify { zY with d := 3, a := 9, code := 0x8000, gd := 7 }),
     (0xDC91A40000008001, .syscallStep { zY with d := 3, a := 9, code := 0x8001, gd := 9 })] : List (Word × Instr)),
    decodeWord p.1 = .ok p.2 := by decide +kernel

/-! ## Words that the checks refuse -/

/-- An opcode that 03 R99 does not assign, a reserved field, and a word cut short (03 R102, R103). -/
theorem test_decode_rejects :
    decodeWord 0 = .ok (.illegalOpcode 0) ∧ decodeWord 0xFF00000000000000 = .ok (.illegalOpcode 0xFF00000000000000) ∧
      decodeWord 0x0180000000000000 = .error .reservedField ∧ decodeWord 0x01028A6000000001 = .error .reservedField ∧
      decodeBytes [0, 0, 0, 0, 0, 0, 0] = .error .truncated := by decide +kernel

/-- One term for each kind of field: a field not read, a guard of 0b1000, and a value its kind does not list (03 R82-R84). -/
theorem test_ill_formed_fields : ∀ i ∈ ([
    .add { zS3 with gd := 8 }, .add { zS3 with c := 1 }, .add { zS3 with aux := 1 }, .clz { zS3 with b := 1 },
    .ldl { zM with a := 24 }, .vadd { zV with a := 16 }, .vbcast { zV with d := 24, a := 1, et := 8, pr := 8 - 1, imm := 1 },
    .vmovs { zV with d := 1, a := 16, et := 8 }, .cmp { zS3 with c := 1 }, .vpany { zV with a := 8 },
    .tadd { zT with a := 4 }, .tmovIn { zT with a := 1, imm := 2 }, .lrun { zL with d := 1, a := 23, imm := 1 },
    .lrun { zL with d := 4, imm := 0x101 }, .aadd { FormA.ofWord 0 with d := 24, sz := 3 }, .jmp { FormJ.ofWord 0 with rsv := 1 },
    .nop { zS3 with rd := 1 }] : List Instr), i.wellFormed = false := by decide +kernel

/-- One term for each rule of the scalar and memory chapters on field values. -/
theorem test_ill_formed_scalar : ∀ i ∈ ([
    .slli { FormSI.ofWord 0 with imm := 64 }, .bext { zS3 with sf := 2 }, .bext { zS3 with b := 1, aux := 1 },
    .bins { zS3 with b := 1, aux := 1 }, .cmp { zS3 with sf := 12 }, .cmpi { FormC.ofWord 0 with sf := 12 },
    .fopAdd { zS3 with sf := 1, ty := 8 }, .fopAdd { zS3 with ty := 5 }, .fopAdd { zS3 with ty := 8, rd := 1, rm := 1 },
    .fopCvt { zS3 with sf := 10, ty := 8, aux := 5 }, .ldl { zM with am := 3 }, .ldl { zM with b := 1 }, .ldl { zM with am := 2 },
    .ldl { zM with sc := 5, aq := 1 }, .ldl { zM with sc := 1 }, .ldl { zM with rl := 1 }, .ldl { zM with sg := 1, sz := 3 },
    .ldl { zM with am := 2, a := 3, d := 3 }, .stl { zM with aq := 1 }, .fence { zM with sc := 5 }, .csrr { zS3 with aux := 9 },
    .csrr { zS3 with aux := 0x11 }, .csrw { zS3 with sf := 1 }, .csrw { zS3 with aux := 0x260 },
    .triggerEntryWrite { zS3 with aux := 0x120 }, .rpt { FormSI.ofWord 0 with imm := 0x2000000000 }, .waitAll zS3,
    .waitOsp { zS3 with sf := 2, aux := 9 }, .illegalOpcode 0x0100000000000000] : List Instr), i.wellFormed = false := by
  decide +kernel

/-- One term for each rule of the lane, stream and message chapters on field values. -/
theorem test_ill_formed_lane_stream_message : ∀ i ∈ ([
    .vadd { zV with et := 9 }, .vfma { zV with et := 5 }, .vadd { zV with et := 0, rm := 1 }, .vadd { zV with et := 8, imm := 0x40000 },
    .vshl { zV with imm := 1 }, .vshl { zV with b := 1, imm := 0x80000 }, .vcmp { zV with imm := 7 }, .vcmp { zV with imm := 6 },
    .vcmp { zV with et := 8, imm := 0x10 }, .vcmp { zV with qf := 3 }, .vcmp { zV with c := 1 }, .vcvt { zV with et := 8, imm := 8 },
    .vcvt { zV with et := 8, imm := 9 }, .vcvt { zV with et := 8, d := 24 }, .vbxpack { zV with et := 8, imm := 12 },
    .vbxpack { zV with et := 6, b := 1 }, .vbxunpack { zV with et := 6, imm := 16 }, .vmovs { zV with et := 8, imm := 8 },
    .vld { zM with sz := 2 }, .vst { zM with sz := 3, aq := 1 }, .vldq { zM with sz := 3 }, .vplog { zV with b := 1, imm := 7 },
    .vdot4 { zV with et := 8 }, .sstop { zS3 with sf := 1 }, .cbput { zS3 with ty := 9 }, .smig { zS3 with aux := 3 },
    .sendm { zQ with sc := 1 }, .sendw2 { zQ with kd := 1 }, .sendw2 { zQ with fm := 11 }, .sendw2 { zQ with b := 1 },
    .qpeek { zQ with imm := 3 }, .rtset { zQ with tag := 112 }, .tagset { zQ with tag := 112 }, .dmqset { zQ with imm := 129 },
    .excq { zQ with imm := 1 }, .drainEnd { zQ with tag := 1, imm := 1 }, .bankpass { zQ with imm := 3 }] : List Instr),
    i.wellFormed = false := by decide +kernel

/-- One term for each rule of the later chapters on field values, and an event for each range of an argument. -/
theorem test_ill_formed_engines_and_events : ∀ i ∈ ([
    .tldb { zT with bf := 1, imm := 1 }, .tldb { zT with bf := 2, bt := 8, imm := 1 }, .tldb { zT with imm := 33 },
    .tmac { zT with af := 3 }, .tmac { zT with af := 1, imm := 2 }, .tmacq { zT with a := 24 }, .tgang { zT with imm := 1 },
    .tnormMax zT, .tmovOut { zT with d := 24, imm := 2 }, .tout { zT with d := 1, imm := 8 }, .lgl { zL with pg := 7, np := 1 },
    .lgl { zL with fi := 3 }, .lsel zL, .lsel { zL with imm := 0x170 }, .lselOff { zL with pg := 1, imm := 0x8000 },
    .lrun { zL with imm := 0x11 }, .lrun { zL with imm := 0x101 }, .lrunv { zL with d := 24 }, .lbound { zL with imm := 0xFF },
    .cbr { zB with hn := 3 }, .cbrv zB, .aadd { FormA.ofWord 0 with sz := 1 }, .afadd { FormA.ofWord 0 with sz := 3, ft := 2 },
    .afrd { FormA.ofWord 0 with sz := 2 }, .lkcollFsum { FormK.ofWord 0 with ko := 1 }, .lkcollBcast { FormK.ofWord 0 with fm := 2 },
    .lkcollIsum { FormK.ofWord 0 with ko := 2, imm := 4 }, .lkseq { FormK.ofWord 0 with imm := 1 }, .trapret { zY with code := 1 },
    .feat { zY with code := 6 }, .syscall { zY with code := 0x8000 }, .waitTimeout 1032192, .streamEnd 48 0, .streamEnd 0 32,
    .sumRound 0 128, .treeResultArrival 0 8, .atomicServe 16128, .linkFrameResend 96, .launch 32768] : List Instr),
    i.wellFormed = false := by decide +kernel

/-! ## States for the witnesses -/

/-- Core 0 with a task, a trap handler at 0x800, some registers, an open route entry 1. -/
def core0 : Core :=
  { Core.reset with
    live := true, runq := [{ entry := 0, origin := 0x20, m0 := 0 }], dcl := 15, trapVec := 0x801, pc := 0x100
    regs := [(1, 0x200), (2, 7), (3, 0x40), (4, 0xFFFFFFFFFFFFFFFF)]
    vregs := [(1, 0x0102030405060708090A0B0C0D0E0F10), (2, 3)]
    router := { Router.reset with routes := [(1, 0x9000000000000000)], qtags := 0x7F7F7F7F7F7F7F01 } }

/-- A module with the core as core 0 of a region of one core. -/
def st (c : Core) : State := { State.reset with cores := [(0, c)], regions := [bareRegion] }

/-- The decidable form of Issues. -/
def issuesB (i : Instr) (s : State) : Bool :=
  decide (s.cur < coreCount) && ((featureOf (wordOf i)).map (fun f => s.me.dcl.getLsbD f)).getD true
    && (!supervisorOnly (bitsOf (wordOf i) 56 8) || s.me.prv) && s.me.spec.isNone
    && (s.inRpt || (s.me.rpt.map fun r => !rptStalls r i (wordOf i)).getD true) && (s.hasIssued || guardHolds s.me (wordOf i))

theorem issues_of (i : Instr) (s : State) (h : issuesB i s = true) : Issues i s := by
  simp only [issuesB, Bool.and_eq_true, decide_eq_true_eq] at h
  obtain ⟨⟨⟨⟨⟨h1, h2⟩, h3⟩, h4⟩, h5⟩, h6⟩ := h
  refine ⟨h1, ⟨fun f hf => by simpa [hf] using h2, fun hs => by simpa [hs] using h3⟩, by simpa using h4, fun hi r hr => ?_, by simpa using h6⟩
  simpa [hi, hr] using h5

/-- The module with one HDM range at port 0, and pages 0 to 15 of the job's addresses known there at 0x1000 and up. -/
def stX (c : Core) : State :=
  { st c with
    mg := { Mgmt.reset with hdm := [(0, 0x8000000000000000), (1, 0x10000000), (2, 0x80)] }
    brims := [(0, { Brim.reset with scalar := [(0, 0, { pin := false, w := true, va := 0, count := 16, pa := 1 })] })] }

/-- A stream of slot 0 with an empty descriptor: one word at address 0, on tag 0. -/
def ctx0 : StreamCtx := StreamCtx.ofDesc 0 0 0 (List.replicate 8 0) false

/-- The module with stream c in slot 0 of core 0 and the slot in state sl. -/
def stS (sl : SlotState) (c : StreamCtx) : State :=
  { st { core0 with slots := [(0, { st := sl, eng := 0, ctx := 0 })] } with brims := [(0, { Brim.reset with ctxs := [(0, c)] })] }

/-- A page table whose only table is its own parent: page 1 of the job lies at 0x2000. -/
def stP : State :=
  { stX { core0 with prv := true } with brims := [], ext := [(0, 1), (8, 0x0F), (9, 0x20)] }

/-- Whether an outcome is a given next state. -/
def nextIs (o : Host.Outcome State Fault Refusal) (t : State) : Bool :=
  match o with
  | .next u => decide (u = t)
  | _ => false

theorem of_nextIs {o : Host.Outcome State Fault Refusal} {t : State} (h : nextIs o t = true) : o = .next t := by
  unfold nextIs at h; split at h
  · simp_all
  · cases h

theorem get_pair {α β : Type} {o : Option (α × β)} (h : o.isSome = true) : o = some ((o.get h).1, (o.get h).2) := by simp

/-- Core 0 with every channel of the crown tree in use. -/
def coreG : Core := { core0 with bgm := 0xC0C0C0C0C0C0C0C0 }

/-- A group whose one member is core 0's role, on channel 0. -/
def grp : Group :=
  { job := 0, key := 1, ch := 0, link := none, gids := [(0, 0)], members := [(0, 0)], seq := 5, inEp := false, contribs := [],
    excused := [], once := [], left := [], masked := [], retired := [], sending := [], partials := [], sent := false,
    asked := false, held := [], told := [] }

/-- The module with that group g. -/
def stG (c : Core) (g : Group) : State := { st c with groups := [(0, g)] }

/-- The speculation of a branch on channel 0 whose prediction is taken. -/
def spec0 : Spec := branchSpec coreG { zB with hn := 1, ofs := 4 }

/-- A request at an atomic engine for LOC of core 1, whose core waits for the answer. -/
def req0 : AtomReq := lineRequest 0xC0 1 0x200 4 7 0 true

/-- A module whose region has two cores. -/
def st2 (c d : Core) : State :=
  { st c with cores := [(0, c), (1, d)], regions := [{ bareRegion with w := 2, bind := [0, 1], ports := [0, 0] }] }

/-- The module whose job has a group table: entry 0 is valid, names rank 0 and the ranks m, and allows every operation. -/
def stL (c : Core) (m : Word) : State :=
  { st c with linkCtxs := [(0, { job := 0, words := [(0, m), (16, 0x800000FF00000000)] })],
              ports := [(1, { LinkPort.reset with up := true })] }

/-- A collective on entry 0 of one unit. -/
def col0 : Collective :=
  { who := (0, 0), slot := 0, job := 0, ge := 0, gkey := 0, seq := 0, ko := 2, fm := 1, wf := 0, count := 1, dst := 0x200, read := true,
    units := [List.replicate 16 1], combined := 0, route := [], sentUp := false, ready := false, sentDown := false, flags := 0, exc := false,
    fail := none, since := none }

/-- A packet of that collective from rank 1. -/
def pkt0 : Packet := { gkey := 0, seq := 0, chunk := 0, src := 1, ko := 2, fm := 1, wf := 0, hops := [] }

/-- A job with one leaf, whose record queue is 0. -/
def node0 : Node :=
  { va := 0, parent := none, leaf := true, cores := 1, brim := 0, lpg := 0, tch := 0, prio := 0, fdom := 0, pflim := 0, fring := 0,
    frn := 0, fvec := 0, images := [0, 0], deps := [], saveva := 0, arg := 9, drole := 0, dqn := 2 }

def job0 : Job :=
  { tag := 0, queue := 0, ptroot := 0, linkTab := [], parts := 1, nodes := [node0], usesLink := false, launch := 1,
    cancelled := false }

/-- A queue whose rings hold 16 entries, with one entry to take. -/
def queue0 : Queue :=
  { Queue.reset with wqcfg := 0x0000000000010041, cqcfg := 0x0000000000020041, tail := 1 }

/-- The module with that job, its region r and queue 0. -/
def stJ (c : Core) (r : Region) : State := { st c with regions := [r], jobs := [job0], queues := [(0, queue0)] }

theorem feature_of (i : Instr) (c : Core) (h : ((featureOf (wordOf i)).map (fun f => c.dcl.getLsbD f)).getD true = true) :
    ∀ f, featureOf (wordOf i) = some f → c.dcl.getLsbD f = true := fun f hf => by simpa [hf] using h

theorem permitted_of (i : Instr) (s : State)
    (h : ((featureOf (wordOf i)).map (fun f => s.me.dcl.getLsbD f)).getD true = true)
    (k : (!supervisorOnly (bitsOf (wordOf i) 56 8) || s.me.prv) = true) : Permitted i s :=
  ⟨feature_of i s.me h, fun hs => by simpa [hs] using k⟩

/-- Loads of LOC that the state allows happen one after the other. -/
theorem ldls_of (n : Nat) (s : State) (h : s = s.setMe s.me) : ∀ eas : List Int,
    (∀ ea ∈ eas, LocAccess s.me ea n ∧ Readable s s.cur ea.toNat n ∧ s.loaded s.cur ea.toNat n = some s) →
    LdlsAt n s eas (eas.flatMap fun ea => loadBytes s s.me.sb s.cur ea.toNat n) s
  | [], _ => ⟨rfl, rfl⟩
  | ea :: rest, k =>
    ⟨_, _, s, .inl ⟨(k ea (.head _)).1, (k ea (.head _)).2.1, rfl, s, (k ea (.head _)).2.2, h⟩, ldls_of n s h rest fun e he => k e (.tail _ he), rfl⟩

/-- Words of LOC that the state lets the core read. -/
theorem words_of (s : State) : ∀ as : List Nat,
    (∀ a ∈ as, s.me.bankWait.getLsbD (a / 8192) = false ∧ Readable s s.cur a 8 ∧ s.loaded s.cur a 8 = some s) →
    WordsAt s as (as.map fun a => BitVec.ofNat 64 (natOfBytes (loadBytes s s.me.sb s.cur a 8))) s
  | [], _ => ⟨rfl, rfl⟩
  | a :: rest, k =>
    ⟨(k a (.head _)).1, (k a (.head _)).2.1, s, _, (k a (.head _)).2.2, words_of s rest fun e he => k e (.tail _ he), rfl⟩

/-- Stream 0 of engine 0 with one window, which maps page 0 to 0x1000. -/
def ctxW : StreamCtx :=
  { ctx0 with running := true, windows := [(0, { pin := true, w := true, va := 0, count := 1, pa := 1 })] }

/-- A region of core 0 whose stream of tag 0 enters the mesh at core 5. -/
def rgnI : Region := { bareRegion with inject := [{ role := 0, tag := 0, lid := 5, dir := .north, inTag := 3 }] }

/-- The module with stream c. -/
def stC (c : StreamCtx) : State :=
  { stX { core0 with slots := [(0, { st := .run, eng := 0, ctx := 0 })] } with
    regions := [rgnI], brims := [(0, { Brim.reset with ctxs := [(0, c)] })] }

/-- A stall of a read of address 0 since cycle 0. -/
def stall0 : Stall := { cause := 0x20, va := 0, write := false, start := 0, lastTry := 0, drained := false }

/-- A flit at the head of core 0's output queue that uses entry e of tag 1. -/
def stF (c : Core) (e : Word) (f : Flit) : State :=
  st { c with router := { c.router with routes := [(1, e)], outq := [f] } }
def flit1 : Flit := mkFlit 0 0 false false 0 0 0 1 77

/-- Memory with a page table, a job of one leaf with two images, and the images (03 R119-R122; 14 R423). -/
def jobExt : List Host.Cell :=
  [(0x0, 0x1), (0x8, 0xF), (0x9, 0x10), (0x10, 0xF), (0x11, 0x20), (0x1000, 0x2), (0x1002, 0xFF), (0x1008, 0x80), (0x1009, 0x10), (0x1010, 0x40), (0x1013, 0x80), (0x1014, 0xFF)]
    ++ [(0x1048, 0x1), (0x1061, 0x20), (0x1068, 0x9), (0x1072, 0x20), (0x1078, 0x2), (0x1081, 0x11), (0x1089, 0x13), (0x1100, 0x5A), (0x1101, 0x52), (0x1102, 0x49), (0x1105, 0x2), (0x1106, 0x80)]
    ++ [(0x1110, 0x1), (0x1112, 0x1), (0x1114, 0x1), (0x1116, 0x3), (0x1118, 0x80), (0x1120, 0x10), (0x1121, 0x1), (0x1128, 0xF9), (0x1129, 0xB2), (0x112A, 0x4F), (0x112B, 0xFA), (0x112C, 0x4A)]
    ++ [(0x112D, 0xD0), (0x112E, 0x89), (0x112F, 0x29), (0x1130, 0x85), (0x1131, 0x5B), (0x1132, 0x2B), (0x1133, 0x97), (0x1134, 0x17), (0x1135, 0xE4), (0x1136, 0x13), (0x1137, 0x75), (0x1138, 0xC9)]
    ++ [(0x1139, 0x9F), (0x113A, 0x2E), (0x113B, 0xB2), (0x113C, 0xCD), (0x113D, 0xB), (0x113E, 0x64), (0x113F, 0x8), (0x1140, 0x82), (0x1141, 0xC5), (0x1142, 0x94), (0x1143, 0xC9), (0x1144, 0xDC)]
    ++ [(0x1145, 0xD4), (0x1146, 0x51), (0x1147, 0xFE), (0x1180, 0x1), (0x1188, 0xE0), (0x1190, 0x8), (0x11A0, 0x3), (0x11A8, 0xE8), (0x11B0, 0x20), (0x11C0, 0x4), (0x11C8, 0x8), (0x11C9, 0x1)]
    ++ [(0x11D0, 0x2), (0x11D8, 0xFF), (0x11D9, 0xFF), (0x11DA, 0xFF), (0x11DB, 0xFF), (0x11E7, 0xDB), (0x11E8, 0x8), (0x11ED, 0x1), (0x11F1, 0x2), (0x11F5, 0x3), (0x11F9, 0x4), (0x11FD, 0x5)]
    ++ [(0x1201, 0x6), (0x1300, 0x5A), (0x1301, 0x52), (0x1302, 0x49), (0x1305, 0x2), (0x1306, 0x80), (0x1310, 0x1), (0x1312, 0x1), (0x1314, 0x1), (0x1316, 0x3), (0x1318, 0x80), (0x1320, 0x10)]
    ++ [(0x1321, 0x1), (0x1328, 0xF9), (0x1329, 0xB2), (0x132A, 0x4F), (0x132B, 0xFA), (0x132C, 0x4A), (0x132D, 0xD0), (0x132E, 0x89), (0x132F, 0x29), (0x1330, 0x85), (0x1331, 0x5B), (0x1332, 0x2B)]
    ++ [(0x1333, 0x97), (0x1334, 0x17), (0x1335, 0xE4), (0x1336, 0x13), (0x1337, 0x75), (0x1338, 0xC9), (0x1339, 0x9F), (0x133A, 0x2E), (0x133B, 0xB2), (0x133C, 0xCD), (0x133D, 0xB), (0x133E, 0x64)]
    ++ [(0x133F, 0x8), (0x1340, 0x82), (0x1341, 0xC5), (0x1342, 0x94), (0x1343, 0xC9), (0x1344, 0xDC), (0x1345, 0xD4), (0x1346, 0x51), (0x1347, 0xFE), (0x1380, 0x1), (0x1388, 0xE0), (0x1390, 0x8)]
    ++ [(0x13A0, 0x3), (0x13A8, 0xE8), (0x13B0, 0x20), (0x13C0, 0x4), (0x13C8, 0x8), (0x13C9, 0x1), (0x13D0, 0x2), (0x13D8, 0xFF), (0x13D9, 0xFF), (0x13DA, 0xFF), (0x13DB, 0xFF), (0x13E7, 0xDB)]
    ++ [(0x13E8, 0x8), (0x13ED, 0x1), (0x13F1, 0x2), (0x13F5, 0x3), (0x13F9, 0x4), (0x13FD, 0x5), (0x1401, 0x6)]

/-- The leaf of that job, the job and its region. -/
def nodeJ : Node :=
  { va := 0x1000, parent := none, leaf := true, cores := 64, brim := 0, lpg := 8, tch := 255, prio := 0, fdom := 0x1000,
    pflim := 2000, fring := 0, frn := 0, fvec := 0, images := [0x1100, 0x1300], deps := [], saveva := 0x2000, arg := 9,
    drole := 0, dqn := 2 }
def jobJ : Job := { job0 with tag := 7, nodes := [nodeJ] }
def rgnJ : Region := { bareRegion with id := 1, job := 7, leaf := 0x1000, st := .empty, bind := [] }
/-- That job with a second leaf, which failed and on which the first depends. -/
def jobK : Job := { jobJ with nodes := [{ nodeJ with deps := [0x3000] }, { nodeJ with va := 0x3000 }] }
def rgnD : Region :=
  { rgnJ with id := 2, leaf := 0x3000, done := some { status := 4, info := 0, addr := 0, excw := 0, cfgseq := 0 } }
def placeJ : Placement :=
  { x0 := 0, y0 := 0, part := 0, bind := [0], ports := [0], routes := [], inject := [], links := [] }

/-- A module that is ready, with memory, one partition and queue 0, whose next entry has TYPE t and ARG0 a. -/
def stM (t a : Byte) : State :=
  { State.reset with
    ext := jobExt, queues := [(0, queue0)], hostMem := [(0x10000, t), (0x10008, 7), (0x10011, a)]
    mg := { Mgmt.reset with state := 7, ready := true, hdm := [(0, 0x8000000000000000), (1, 0x10000000), (2, 0x80)],
                            parts := [(0, 0x8000)] } }

/-- That module with the job resident and its region r. -/
def stR (t a : Byte) (r : Region) : State := { stM t a with jobs := [jobJ], regions := [r] }

/-- A region on core 0 in a state. -/
def rgnS (st : RegionState) : Region := { rgnJ with st, bind := [0], cfgseq := 1 }

/-- The controller with a mailbox command in progress. -/
def mgC (c : Word) : Mgmt :=
  { Mgmt.reset with state := 6, mbBusy := true, mbCmd := c, parts := [(0, 0x8000)], mbLen := if c = 3 then 32 else 168 }
def stK (c : Word) : State := { State.reset with mg := mgC c }

theorem isSome_of {α : Type} {o : Option α} (h : o.isSome = true) : ∃ x, o = some x := Option.isSome_iff_exists.1 h

theorem get_of {α : Type} {o : Option α} (h : o.isSome = true) : o = some (o.get h) := (Option.some_get h).symm

/-- A block of sixteen threes at an exponent, and the sum of one at 0 and one at 1. -/
def blockW (e : Int) : SumBlock :=
  { isI32 := false, elems := List.replicate 16 3, exp := e, exc := false, rel := false, dend := 0, seq := 0, bxTec := none,
    special := false }
def sumW : Ba40 := { elems := List.replicate 16 5, exp := 1 }

theorem rounded_w (k : Nat) (v w : Int) (h : Rne k v w) : ∀ n, List.Forall₂ (Rne k) (List.replicate n v) (List.replicate n w)
  | 0 => .nil
  | n + 1 => .cons h (rounded_w k v w h n)

/-- An engine with two requests for a hot line, the second passed over 63 times. -/
def engineW : Cluster := { Cluster.reset with hot := [(1, 8)], lines := [(0, req0), (1, { req0 with pass := 63 })] }
def stW : State := { st2 core0 core0 with clusters := [(0, engineW)] }

theorem chosen_w : Chosen stW engineW 0 := by
  refine ⟨⟨req0, rfl, by decide +kernel, by decide +kernel⟩, .inr ⟨fun _ h => (nomatch h), fun l ⟨r, hf, _, _⟩ hl => ?_⟩⟩
  have h1 : l = 1 := by
    by_contra hne
    simp [engineW, Table.find, hl, hne] at hf
  subst h1
  decide +kernel
/-! ## The spec's worked examples -/

/-- A field of the next state of an outcome. -/
def after {α : Type} (o : Host.Outcome State Fault Refusal) (f : State → α) : Option α :=
  match o with
  | .next t => some (f t)
  | _ => none

/-- Core 0 with registers and vector registers. -/
def stV (regs : List (Nat × Word)) (vregs : List (Nat × Vec)) : State := st { core0 with regs, vregs, fpFlags := 0 }

/-- The eight FP32 values of the example of 06 R222. -/
def packed8 : Vec := 0x3D000000BF8000003DC00000407F00003F0000003F400000C050000040A00000

/-- The examples of 05 R183: a field past bit 63 repeats it, and bins drops what passes bit 63. -/
theorem test_bit_fields :
    after (exec (.bext { zS3 with d := 1, a := 2, sf := 1, aux := 0x083C }) (stV [(2, 0xF000000000000000)] []))
        (fun t => t.me.reg 1) = some 15 ∧
      after (exec (.bins { zS3 with d := 2, a := 5, aux := 0x083C }) (stV [(5, 0xAB)] [])) (fun t => t.me.reg 2)
        = some 0xB000000000000000 := by decide +kernel

/-- The examples of 02 R46: 65520 and ties to even, with their flags. -/
theorem test_round_examples :
    fpRoundVal fp16 0 false (fpDecode fp32 false 0x477FF000) = (0x7C00, fOF ||| fNX) ∧
      fpRoundVal fp16 1 false (fpDecode fp32 false 0x477FF000) = (0x7BFF, fNX) ∧
      fpRoundVal bf16 0 false (fpDecode fp32 false 0x3F808000) = (0x3F80, fNX) ∧
      fpRoundVal bf16 0 false (fpDecode fp32 false 0x3F818000) = (0x3F82, fNX) := by decide +kernel

/-- The examples of 02 R49: 127.4 to i8 upwards and to nearest, −0.7 to n8 towards zero and downwards. -/
theorem test_convert_examples :
    fpToInt 3 (-128) 127 (fpDecode fp32 false 0x42FECCCD) = (127, fNV) ∧
      fpToInt 0 (-128) 127 (fpDecode fp32 false 0x42FECCCD) = (127, fNX) ∧
      fpToInt 1 0 255 (fpDecode fp32 false 0xBF333333) = (0, fNX) ∧
      fpToInt 2 0 255 (fpDecode fp32 false 0xBF333333) = (0, fNV) := by decide +kernel

/-- The example of 06 R222: the packed block, its half tag and NX, and the values it unpacks to. -/
theorem test_pack_example :
    after (exec (.vbxpack { zV with d := 6, a := 1, b := 2, et := 8, imm := 8 }) (stV [] [(1, packed8)]))
        (fun t => (t.me.vreg 6, (t.me.vtag 6).extractLsb' 0 36, t.me.fpFlags))
      = some (0x01A002401018B450, 0x681FA0000, 1) ∧
      (after (exec (.vbxpack { zV with d := 6, a := 1, b := 2, et := 8, imm := 8 }) (stV [] [(1, packed8)]))
        fun t => after (exec (.vbxunpack { zV with d := 3, a := 6, et := 8 }) t) fun u => u.me.vreg 3)
      = some (some 0x3D000000BF8000003E000000408000003F0000003F400000C050000040A00000) := by decide +kernel

/-- The example of 06 R223: the tree sum of 2^24 and seven ones. -/
theorem test_tree_example :
    after (exec (.vredsum { zV with d := 6, a := 5, et := 8 })
        (stV [] [(5, 0x3F8000003F8000003F8000003F8000003F8000003F8000003F8000004B800000)]))
      (fun t => (t.me.vreg 6, t.me.fpFlags)) = some (0x4B800003, 1) := by decide +kernel

/-- A BA40 block with two elements that are not zero. -/
def two (a b e : Int) : Ba40 := { elems := a :: b :: List.replicate 14 0, exp := e }

/-- The example of 02 R71, in its two steps, both of them RENORM events; and the first round of 08 R282's. -/
theorem test_block_sums :
    ((addBa40 (two (2 ^ 37 + 3) (-5) (-20)) (two (2 ^ 37) (-6) (-20))).block = two (2 ^ 37 + 2) (-6) (-19) ∧
      (addBa40 (two (2 ^ 37 + 3) (-5) (-20)) (two (2 ^ 37) (-6) (-20))).renorm = true) ∧
      ((addBa40 (two (2 ^ 37 + 2) (-6) (-19)) (two 5 1 (-17))).block = two (2 ^ 35 + 5) (-1) (-17) ∧
        (addBa40 (two (2 ^ 37 + 2) (-6) (-19)) (two 5 1 (-17))).renorm = true) ∧
      (addBa40 (two (2 ^ 37) 0 (-10)) (two (2 ^ 37 + 6) 0 (-10))).block = two (2 ^ 37 + 3) 0 (-9) := by decide +kernel

/-- The example of 04 R131: the home of a SPREAD address, of the same word in STAY mode, and of the word after it. -/
theorem test_cluster_addresses :
    cluSplit true 0x12348 = (41, 0x488) ∧ cluSplit false 0x290488 = (41, 0x488) ∧ cluSplit true 0x12350 = (42, 0x488) := by
  decide +kernel

/-- The examples of 12 R393: aincl at its limit, aadd that wraps, and amin of signed values. -/
theorem test_atomic_examples :
    atomicNew 0xCA 32 0xFFFFFFFF 0xFFFFFFFF 0 = none ∧ atomicNew 0xC0 32 0xFFFFFFFF 1 0 = some 0 ∧
      atomicNew 0xC4 32 0xFFFFFFFF 5 0 = some 0xFFFFFFFF := by decide +kernel

/-- The example of 09 R323: the bytes of the record of half 0 of a1, and the tadd of a zero tile after byte 9 is changed. -/
theorem test_tile_record :
    (two (-5) (2 ^ 37 + 1) (-40)).record.take 10 = [0xFB, 0xFF, 0xFF, 0xFF, 0xFF, 1, 0, 0, 0, 0x20] ∧
      ((two (-5) (2 ^ 37 + 1) (-40)).record.drop 80).take 2 = [0xD8, 0xFF] ∧
      ba40OfRecord ((two (-5) (2 ^ 37 + 1) (-40)).record.set 9 0x40) = two (-5) (2 ^ 38 + 1) (-40) ∧
      (addBa40 (two (-5) (2 ^ 38 + 1) (-40)) Ba40.zero).block = two (-2) (2 ^ 37) (-39) := by decide +kernel

/-! ## A witness for the hypotheses of every clause of the statements -/

/-- Hypotheses of TwoOperandIntegerResults. -/
theorem witness_TwoOperandIntegerResults :
    (∃ p ∈ twoOperand, ∃ (x : FormS3) (s : State) (a b : Word) (c1 c2 c3 : Core), (Issues (p.1 x) s) ∧ (scalarRead s.me x.a = some (a, c1)) ∧ (scalarRead c1 x.b = some (b, c2)) ∧ (scalarWrite c2 x.d (p.2 a b) = some c3)) :=
  ⟨_, .head _, { zS3 with d := 5, a := 1, b := 2 }, st core0, _, _, _, _, _, issues_of _ _ (by decide +kernel), rfl, rfl, rfl⟩

/-- Hypotheses of OneOperandIntegerResults. -/
theorem witness_OneOperandIntegerResults :
    (∃ p ∈ oneOperand, ∃ (x : FormS3) (s : State) (a : Word) (c1 : Core), (Issues (p.1 x) s) ∧ (scalarRead s.me x.a = some (a, c1))) ∧
    (∃ p ∈ immediates, ∃ (x : FormSI) (s : State) (a : Word) (c1 c2 : Core), (Issues (p.1 x) s) ∧ (scalarRead s.me x.a = some (a, c1)) ∧ (scalarWrite c1 x.d (p.2 a (x.imm.signExtend 64)) = some c2)) ∧
    (∃ (x : FormLI) (s : State) (c1 : Core), (Issues (.li x) s) ∧ (scalarWrite s.me x.d (x.imm.signExtend 64) = some c1)) ∧
    (∃ i ∈ [Instr.slli, .srli, .srai], ∃ x : FormSI, (64 ≤ x.imm.toNat)) :=
  ⟨⟨_, .head _, { zS3 with d := 5, a := 1, b := 2 }, st core0, _, _, issues_of _ _ (by decide +kernel), rfl⟩,
    ⟨_, .head _, { gd := 0, d := 5, a := 1, imm := 3 }, st core0, _, _, _, issues_of _ _ (by decide +kernel), rfl, rfl⟩,
    ⟨{ gd := 0, d := 5, imm := 3 }, st core0, _, issues_of _ _ (by decide +kernel), rfl⟩,
    ⟨_, .head _, { gd := 0, d := 5, a := 1, imm := 64 }, by decide +kernel⟩⟩

/-- Hypotheses of FieldSelectCompareResults. -/
theorem witness_FieldSelectCompareResults :
    (∃ (x : FormS3) (s : State) (a : Word) (c1 c2 c3 : Core) (ofs wid : Nat), (Issues (.bext x) s) ∧ (scalarRead s.me x.a = some (a, c1)) ∧ (fieldRead c1 x = some (ofs, wid, c2)) ∧ (scalarWrite c2 x.d (extracted (x.sf == 1) a ofs wid) = some c3)) ∧
    (∃ (x : FormS3) (s : State) (a : Word) (c1 c2 : Core) (ofs wid : Nat), (Issues (.bins x) s) ∧ (x.d.toNat < 24) ∧ (scalarRead s.me x.a = some (a, c1)) ∧ (fieldRead c1 x = some (ofs, wid, c2))) ∧
    (∃ (x : FormS3) (s : State) (a b : Word) (c1 c2 c3 : Core), (Issues (.sel x) s) ∧ (scalarRead s.me x.a = some (a, c1)) ∧ (scalarRead c1 x.b = some (b, c2)) ∧ (scalarWrite c2 x.d (if s.me.flag x.c.toNat then a else b) = some c3)) ∧
    (∃ (x : FormS3) (s : State) (a b : Word) (c1 c2 c3 : Core) (v : Bool), (Issues (.cmp x) s) ∧ (scalarRead s.me x.a = some (a, c1)) ∧ (scalarRead c1 x.b = some (b, c2)) ∧ ((v = true ↔ holds x.sf.toNat a b)) ∧ (truthWrite c2 x.d x.fd v = some c3)) ∧
    (∃ (x : FormC) (s : State) (a : Word) (c1 c2 : Core) (v : Bool), (Issues (.cmpi x) s) ∧ (scalarRead s.me x.a = some (a, c1)) ∧ ((v = true ↔ holds x.sf.toNat a (x.imm.signExtend 64))) ∧ (truthWrite c1 x.d x.fd v = some c2)) ∧
    (∃ x : FormS3, (1 < x.sf.toNat ∨ (x.b ≠ 0 ∧ x.aux ≠ 0))) ∧
    (∃ x : FormS3, (x.sf ≠ 0 ∨ 24 ≤ x.d.toNat ∨ (x.b ≠ 0 ∧ x.aux ≠ 0))) ∧
    (∃ x : FormS3, (12 ≤ x.sf.toNat)) ∧
    (∃ x : FormC, (12 ≤ x.sf.toNat)) :=
  ⟨⟨{ zS3 with d := 5, a := 1, aux := 0x804 }, st core0, _, _, _, _, _, _, issues_of _ _ (by decide +kernel), rfl, rfl, rfl⟩,
    ⟨{ zS3 with d := 5, a := 1, b := 2 }, st core0, _, _, _, _, _, issues_of _ _ (by decide +kernel), by decide +kernel, rfl, rfl⟩,
    ⟨{ zS3 with d := 5, a := 1, b := 2 }, st core0, _, _, _, _, _, issues_of _ _ (by decide +kernel), rfl, rfl, rfl⟩,
    ⟨{ zS3 with d := 5, a := 1, b := 2, fd := 1, sf := 0 }, st core0, _, _, _, _, _, false, issues_of _ _ (by decide +kernel), rfl, rfl, ⟨fun h => absurd h (by decide), fun h => absurd (show (_ : Word) = _ from h) (by decide +kernel)⟩, rfl⟩,
    ⟨{ gd := 0, d := 5, a := 1, fd := 0, sf := 1, imm := 3 }, st core0, _, _, _, true, issues_of _ _ (by decide +kernel), rfl, ⟨fun _ => show _ ≠ (_ : Word) from by decide +kernel, fun _ => rfl⟩, rfl⟩,
    ⟨{ zS3 with sf := 2 }, .inl (by decide)⟩,
    ⟨{ zS3 with d := 24 }, by decide⟩,
    ⟨{ zS3 with sf := 12 }, by decide +kernel⟩,
    ⟨{ gd := 0, d := 5, a := 1, fd := 0, sf := 12, imm := 3 }, by decide +kernel⟩⟩

/-- Hypotheses of FopResults. -/
theorem witness_FopResults :
    (∃ p ∈ fopOne, ∃ (x : FormS3) (s : State) (a : Word) (c1 c2 : Core), (Issues (p.1 x) s) ∧ (scalarRead s.me x.a = some (a, c1)) ∧ (fopWritten c1 x.d (p.2 c1 x a).1 (p.2 c1 x a).2 = some c2)) ∧
    (∃ p ∈ fopTwo, ∃ (x : FormS3) (s : State) (a b : Word) (c1 c2 c3 : Core) (r : FpRes), (Issues (p.1 x) s) ∧ (scalarRead s.me x.a = some (a, c1)) ∧ (scalarRead c1 x.b = some (b, c2)) ∧ (r = p.2 (fpOf x.ty.toNat) (fopMode c2 x) c2.ftz (fopArg c2 x a) (fopArg c2 x b)) ∧ (fopWritten c2 x.d (.ofNat 64 r.1) r.2 = some c3)) ∧
    (∃ (x : FormS3) (s : State) (a b e : Word) (c1 c2 c3 c4 : Core) (r : FpRes), (Issues (.fopFma x) s) ∧ (scalarRead s.me x.a = some (a, c1)) ∧ (scalarRead c1 x.b = some (b, c2)) ∧ (scalarRead c2 x.c = some (e, c3)) ∧ (r = fpFma (fpOf x.ty.toNat) (fopMode c3 x) c3.ftz (fopArg c3 x a) (fopArg c3 x b) (fopArg c3 x e)) ∧ (fopWritten c3 x.d (.ofNat 64 r.1) r.2 = some c4)) ∧
    (∃ p ∈ fopTests, ∃ (x : FormS3) (s : State) (a b : Word) (c1 c2 c3 : Core) (u v : FpVal) (t : Bool) (fl : BitVec 7), (Issues (p.1 x) s) ∧ (scalarRead s.me x.a = some (a, c1)) ∧ (scalarRead c1 x.b = some (b, c2)) ∧ (u = fopArg c2 x a) ∧ (v = fopArg c2 x b) ∧ (t = (if u.isNan || v.isNan then p.2.2.2 else p.2.1 (fpCompare u v))) ∧ (fl = (if u.isSignalling || v.isSignalling || ((u.isNan || v.isNan) && p.2.2.1) then flagNV else 0)) ∧ (truthWrite (c2.raiseFlags fl) x.d x.fd t = some c3)) :=
  ⟨⟨_, .head _, { zS3 with d := 5, a := 1, b := 2, ty := 8 }, st core0, _, _, _, issues_of _ _ (by decide +kernel), rfl, rfl⟩,
    ⟨_, .head _, { zS3 with d := 5, a := 1, b := 2, ty := 8 }, st core0, _, _, _, _, _, _, issues_of _ _ (by decide +kernel), rfl, rfl, rfl, rfl⟩,
    ⟨{ zS3 with d := 5, a := 1, b := 2, c := 3, ty := 8 }, st core0, _, _, _, _, _, _, _, _, issues_of _ _ (by decide +kernel), rfl, rfl, rfl, rfl, rfl⟩,
    ⟨_, .head _, { zS3 with d := 5, a := 1, b := 2, ty := 8 }, st core0, _, _, _, _, _, _, _, _, _, issues_of _ _ (by decide +kernel), rfl, rfl, rfl, rfl, rfl, rfl, rfl⟩⟩

/-- Hypotheses of RoundToNearestIsNearest. -/
theorem witness_RoundToNearestIsNearest :
    (∃ f ∈ [fp16, bf16, fp32], ∃ (neg : Bool) (m : Nat) (e : Int), (m ≠ 0) ∧ let r := fpRound f 0 false neg false m e; let u := max (e + Nat.log2 m - f.frac) f.qmin; (r.2 &&& flagOF = 0)) :=
  ⟨fp32, .tail _ (.tail _ (.head _)), false, 3, 0, by decide, by decide +kernel⟩

/-- Hypotheses of LoadsDeliverMemory. -/
theorem witness_LoadsDeliverMemory :
    (∃ (x : FormM) (s s1 : State) (bytes : List Byte) (c1 : Core), (Issues (.ldl x) s) ∧ (LdlAt s s.me (effective s.me x) (2 ^ x.sz.toNat) bytes s1) ∧ (ReleaseReady s x) ∧ (scalarWrite s.me x.d (loaded x bytes) = some c1)) ∧
    (∃ (x : FormM) (s s1 : State) (lid a : Nat) (c1 : Core), (Issues (.ldc x) s) ∧ (CluAccess s x (effective s.me x) (2 ^ x.sz.toNat) lid a) ∧ (Readable s lid a (2 ^ x.sz.toNat)) ∧ (s.loaded lid a (2 ^ x.sz.toNat) = some s1) ∧ (ReleaseReady s x) ∧ (scalarWrite s.me x.d (loaded x (loadBytes s s.me.sb lid a (2 ^ x.sz.toNat))) = some c1)) ∧
    (∃ (x : FormM) (s s1 : State) (pa : Nat) (bytes : List Byte) (c1 : Core), (Issues (.ldx x) s) ∧ (effective s.me x % 2 ^ x.sz.toNat = 0) ∧ (Translates s (effective s.me x) false pa s1) ∧ (ReleaseReady s x) ∧ (extRead s1 pa (2 ^ x.sz.toNat) = some bytes) ∧ (scalarWrite s.me x.d (loaded x bytes) = some c1)) :=
  ⟨⟨{ zM with d := 5, a := 1, sz := 3 }, st core0, _, _, _, issues_of _ _ (by decide +kernel), .inl ⟨by unfold LocAccess redirected; decide +kernel, by unfold Readable; decide +kernel, rfl, _, rfl, rfl⟩, by unfold ReleaseReady; decide, rfl⟩,
    ⟨{ zM with d := 5, a := 1, sz := 3 }, st core0, _, 0, 0x200, _, issues_of _ _ (by decide +kernel), by unfold CluAccess; exact ⟨by decide, by decide, by decide, 0, rfl, rfl⟩, by unfold Readable; decide +kernel, rfl, by unfold ReleaseReady; decide +kernel, rfl⟩,
    ⟨{ zM with d := 5, a := 1, sz := 3 }, stX core0, _, _, _, _, issues_of _ _ (by decide +kernel), by decide +kernel, ⟨by decide +kernel, by decide +kernel, _, _, _, rfl, rfl, rfl⟩, by unfold ReleaseReady; decide, rfl, rfl⟩⟩

/-- Hypotheses of StoresReachTheirSpace. -/
theorem witness_StoresReachTheirSpace :
    (∃ (x : FormM) (s s1 : State) (v : Word) (c1 : Core), (Issues (.stl x) s) ∧ (scalarRead s.me x.d = some (v, c1)) ∧ (StlAt s c1 (effective s.me x) (bytesOfNat (2 ^ x.sz.toNat) v.toNat) s1) ∧ (ReleaseReady s x)) ∧
    (∃ (x : FormM) (s : State) (v : Word) (lid a : Nat) (c1 : Core), (Issues (.stc x) s) ∧ (scalarRead s.me x.d = some (v, c1)) ∧ (CluAccess s x (effective s.me x) (2 ^ x.sz.toNat) lid a) ∧ (ReleaseReady s x) ∧ (s.me.sb.length < 16)) ∧
    (∃ (x : FormM) (s s1 s2 : State) (v : Word) (pa : Nat) (c1 : Core), (Issues (.stx x) s) ∧ (scalarRead s.me x.d = some (v, c1)) ∧ (effective s.me x % 2 ^ x.sz.toNat = 0) ∧ (Translates s (effective s.me x) true pa s1) ∧ (ReleaseReady s x) ∧ (extWrite s1 pa (bytesOfNat (2 ^ x.sz.toNat) v.toNat) = some s2)) :=
  ⟨⟨{ zM with d := 5, a := 1, sz := 3 }, st core0, _, _, _, issues_of _ _ (by decide +kernel), rfl, .inl ⟨by unfold LocAccess redirected; decide +kernel, by decide +kernel, rfl⟩, by unfold ReleaseReady; decide⟩,
    ⟨{ zM with d := 5, a := 1, sz := 3 }, st core0, _, 0, 0x200, _, issues_of _ _ (by decide +kernel), rfl, by unfold CluAccess; exact ⟨by decide, by decide, by decide, 0, rfl, rfl⟩, by unfold ReleaseReady; decide, by decide +kernel⟩,
    ⟨{ zM with d := 5, a := 1, sz := 3 }, stX core0, _, _, _, _, _, issues_of _ _ (by decide +kernel), rfl, by decide +kernel, ⟨by decide +kernel, by decide +kernel, _, _, _, rfl, rfl, rfl⟩, by unfold ReleaseReady; decide, rfl⟩⟩

/-- Hypotheses of FenceCompletesWhenPerformed. -/
theorem witness_FenceCompletesWhenPerformed :
    (∃ (x : FormM) (s : State), (Issues (.fence x) s) ∧ ((∀ e ∈ s.me.sb, e.isHome s.cur = false)) ∧ ((¬(x.aq = 1 ∧ x.rl = 0) → s.scopePerformed s.cur x.sc.toNat = true)) ∧ ((x.aq = x.rl → s.me.sb = []))) :=
  ⟨{ zM with aq := 1, rl := 1, sc := 1 }, st core0, issues_of _ _ (by decide +kernel), by decide +kernel, by decide +kernel, by decide +kernel⟩

/-- Hypotheses of CsrReadsDeliver. -/
theorem witness_CsrReadsDeliver :
    (∃ (x : FormS3) (s : State) (c1 : Core), ∃ i ∈ csrReads x, (Issues i s) ∧ ((csrSo x.aux.toNat = true → s.me.prv = true)) ∧ (scalarWrite s.me x.d (csrValue s x.aux.toNat) = some c1)) :=
  ⟨{ zS3 with d := 5, aux := 0x1 }, st core0, _, _, .head _, issues_of _ _ (by decide +kernel), by decide +kernel, rfl⟩

/-- Hypotheses of CsrWritesTakeEffect. -/
theorem witness_CsrWritesTakeEffect :
    (∃ (x : FormS3) (s : State) (a old new : Word) (c1 c2 : Core), ∃ p ∈ csrWrites x, (Issues p.1 s) ∧ ((csrSv s.me x.aux.toNat = true → s.me.prv = true)) ∧ (scalarRead s.me x.a = some (a, c1)) ∧ (old = csrValue (s.setMe c1) x.aux.toNat) ∧ (new = csrNew x.aux.toNat p.2 old a) ∧ ((new ^^^ old) &&& ~~~csrMask x.aux.toNat = 0) ∧ (csrValueOk x.aux.toNat new = true) ∧ (scalarWrite (c1.setCsr x.aux.toNat new) x.d old = some c2)) :=
  ⟨{ zS3 with d := 5, a := 1, aux := 0x10 }, st { core0 with regs := [(1, 1)] }, _, _, _, _, _, _, .head _, issues_of _ _ (by decide +kernel), by decide +kernel, rfl, rfl, rfl, by decide +kernel, rfl, rfl⟩

/-- Hypotheses of CsrReadsWhatWasWritten. -/
theorem witness_CsrReadsWhatWasWritten :
    (∃ (s : State) (addr : Nat) (v : Word), (s.me.spec = none) ∧ ((v ^^^ csrValue s addr) &&& ~~~csrMask addr = 0) ∧ (csrValueOk addr v = true)) :=
  ⟨st core0, 0x10, 1, rfl, by decide +kernel, rfl⟩

/-- Hypotheses of CsrWriteRefusals. -/
theorem witness_CsrWriteRefusals :
    (∃ (x : FormS3) (s : State), ∃ p ∈ csrWrites x, (Issues p.1 s) ∧ (s.inRpt = false) ∧ (s.midBody = false) ∧ (HandlesTraps s.me) ∧ (csrSv s.me x.aux.toNat = true) ∧ (s.me.prv = false)) ∧
    (∃ (x : FormS3) (s : State) (a old new : Word) (c1 : Core), ∃ p ∈ csrWrites x, (Issues p.1 s) ∧ (s.inRpt = false) ∧ (s.midBody = false) ∧ (HandlesTraps s.me) ∧ ((csrSv s.me x.aux.toNat = true → s.me.prv = true)) ∧ (scalarRead s.me x.a = some (a, c1)) ∧ (old = csrValue (s.setMe c1) x.aux.toNat) ∧ (new = csrNew x.aux.toNat p.2 old a) ∧ ((new ^^^ old) &&& ~~~csrMask x.aux.toNat ≠ 0)) :=
  ⟨⟨{ zS3 with d := 5, a := 1, aux := 0x24 }, st core0, _, .head _, issues_of _ _ (by decide +kernel), rfl, rfl, ⟨rfl, rfl⟩, rfl, rfl⟩,
    ⟨{ zS3 with d := 5, a := 1, aux := 0x10 }, st core0, _, _, _, _, _, .head _, issues_of _ _ (by decide +kernel), rfl, rfl, ⟨rfl, rfl⟩, by decide +kernel, rfl, rfl, rfl, by decide +kernel⟩⟩

/-- Hypotheses of ControlTransfers. -/
theorem witness_ControlTransfers :
    (∃ (x : FormJ) (s : State), (Issues (.jmp x) s) ∧ (s.inRpt = false)) ∧
    (∃ (x : FormJ) (s s1 : State), (Issues (.call x) s) ∧ (s.inRpt = false) ∧ (Pushes s s.me (s.me.pc + 8) s1)) ∧
    (∃ (x : FormS3) (s : State) (a : Word) (c1 : Core), (Issues (.jr x) s) ∧ (s.inRpt = false) ∧ (scalarRead s.me x.a = some (a, c1)) ∧ (TargetOk a)) ∧
    (∃ (x : FormS3) (s s1 : State) (a : Word) (c1 : Core), (Issues (.callr x) s) ∧ (s.inRpt = false) ∧ (scalarRead s.me x.a = some (a, c1)) ∧ (TargetOk a) ∧ (Pushes s c1 (s.me.pc + 8) s1)) ∧
    (∃ (x : FormS3) (s s1 : State) (ra : BitVec 16), (Issues (.ret x) s) ∧ (s.inRpt = false) ∧ (Pops s ra s1)) ∧
    (∃ i ∈ [Instr.jr, .callr], ∃ (x : FormS3) (s : State) (a : Word) (c1 : Core), (Issues (i x) s) ∧ (s.inRpt = false) ∧ (s.midBody = false) ∧ (HandlesTraps s.me) ∧ (scalarRead s.me x.a = some (a, c1)) ∧ (¬TargetOk a)) ∧
    (∃ (s : State) (lid : Nat) (rest : List Move), (s.sched = .core lid :: rest) ∧ (s.canIssue lid = true) ∧ (s.anyExpired lid = false) ∧ ((s.core lid).pc.toNat % 8 = 0) ∧ ((s.core lid).codeLim ≤ (s.core lid).pc.toNat) ∧ ((s.core lid).spec = none) ∧ ((s.core lid).midBody = false) ∧ (HandlesTraps (s.core lid))) ∧
    (∃ i ∈ [Instr.jr, .callr, .ret], ∃ (x : FormS3) (s : State), (GuardFalse s (wordOf (i x)))) ∧
    (∃ i ∈ [Instr.jmp, .call], ∃ (x : FormJ) (s : State), (GuardFalse s (wordOf (i x)))) :=
  ⟨⟨{ gd := 0, rsv := 0, ofs := 4 }, st core0, issues_of _ _ (by decide +kernel), rfl⟩,
    ⟨{ gd := 0, rsv := 0, ofs := 4 }, st core0, _, issues_of _ _ (by decide +kernel), rfl, .inl ⟨by decide, rfl⟩⟩,
    ⟨{ zS3 with a := 1 }, st core0, _, _, issues_of _ _ (by decide +kernel), rfl, rfl, ⟨by decide +kernel, by decide +kernel⟩⟩,
    ⟨{ zS3 with a := 1 }, st core0, _, _, _, issues_of _ _ (by decide +kernel), rfl, rfl, ⟨by decide +kernel, by decide +kernel⟩, .inl ⟨by decide, rfl⟩⟩,
    ⟨zS3, st { core0 with ras := [0x300] }, _, _, issues_of _ _ (by decide +kernel), rfl, .inl ⟨[], rfl, rfl⟩⟩,
    ⟨_, .head _, { zS3 with a := 2 }, st core0, _, _, issues_of _ _ (by decide +kernel), rfl, rfl, ⟨rfl, rfl⟩, rfl, fun h => absurd h.1 (by decide +kernel)⟩,
    ⟨{ st { core0 with codeLim := 0x100 } with sched := [.core 0] }, 0, _, rfl, rfl, rfl, by decide +kernel, by decide +kernel, rfl, rfl, ⟨rfl, rfl⟩⟩,
    ⟨_, .head _, { zS3 with gd := 1 }, st core0, by unfold GuardFalse; decide +kernel⟩,
    ⟨_, .head _, { gd := 1, rsv := 0, ofs := 4 }, st core0, by unfold GuardFalse; decide +kernel⟩⟩

/-- Hypotheses of WaitsCompleteOnTheirCondition. -/
theorem witness_WaitsCompleteOnTheirCondition :
    (∃ (x : FormS3) (s : State) (v : Word) (c1 : Core), (Issues (.waitAll x) s) ∧ ((∀ n < 8, x.aux.getLsbD n = true → s.me.queue n ≠ [])) ∧ ((∀ n < 64, v.getLsbD n = (decide (n < 8) && x.aux.getLsbD n))) ∧ (scalarWrite s.me x.d v = some c1)) ∧
    (∃ (x : FormS3) (s : State) (v : Word) (c1 : Core), (Issues (.waitAny x) s) ∧ ((∃ n < 8, x.aux.getLsbD n = true ∧ s.me.queue n ≠ [])) ∧ ((∀ n < 64, v.getLsbD n = (decide (n < 8) && x.aux.getLsbD n && !(s.me.queue n).isEmpty))) ∧ (scalarWrite s.me x.d v = some c1)) ∧
    (∃ (x : FormS3) (s : State), (Issues (.waitOsp x) s) ∧ (s.me.router.outq.length + x.aux.toNat % 16 ≤ 8)) ∧
    (∃ (x : FormS3) (s : State) (a : Word) (c1 c2 : Core), (Issues (.waitUntil x) s) ∧ (scalarRead s.me x.a = some (a, c1)) ∧ (a.toNat ≤ s.cycle.toNat) ∧ (scalarWrite c1 x.d s.cycle = some c2)) ∧
    (∃ (x : FormS3) (s : State) (a : Word) (c1 c2 : Core), (Issues (.tick x) s) ∧ (scalarRead s.me x.a = some (a, c1)) ∧ (scalarWrite c1 x.d (s.cycle - a) = some c2)) ∧
    (∃ (x : FormS3) (s : State), (Issues (.nop x) s)) :=
  ⟨⟨{ zS3 with d := 5, aux := 1 }, st { core0 with router := { core0.router with inq := [(0, [mkFlit 0 0 false false 0 0 0 5 77, mkFlit 0 0 false false 0 0 0 5 78])] } }, 1, _, issues_of _ _ (by decide +kernel), by decide +kernel, by decide +kernel, rfl⟩,
    ⟨{ zS3 with d := 5, aux := 3 }, st { core0 with router := { core0.router with inq := [(0, [mkFlit 0 0 false false 0 0 0 5 77, mkFlit 0 0 false false 0 0 0 5 78])] } }, 1, _, issues_of _ _ (by decide +kernel), ⟨0, by decide, by decide, by decide +kernel⟩, by decide +kernel, rfl⟩,
    ⟨{ zS3 with aux := 8 }, st core0, issues_of _ _ (by decide +kernel), by decide +kernel⟩,
    ⟨{ zS3 with d := 5, a := 2 }, { st core0 with cycle := 7 }, _, _, _, issues_of _ _ (by decide +kernel), rfl, by decide +kernel, rfl⟩,
    ⟨{ zS3 with d := 5, a := 2 }, { st core0 with cycle := 9 }, _, _, _, issues_of _ _ (by decide +kernel), rfl, rfl⟩,
    ⟨zS3, st core0, issues_of _ _ (by decide +kernel)⟩⟩

/-- Hypotheses of TasksEndAndArePosted. -/
theorem witness_TasksEndAndArePosted :
    (∃ (x : FormS3) (s : State) (t : Task) (rest : List Task), (Issues (.done x) s) ∧ (s.inRpt = false) ∧ (s.me.runq = t :: rest)) ∧
    (∃ (x : FormY) (s : State) (t : Task) (rest : List Task), (Issues (.idle x) s) ∧ (s.inRpt = false) ∧ (s.me.runq = t :: rest)) ∧
    (∃ (x : FormS3) (s : State) (a b : Word) (c1 c2 : Core) (t : Task), (Issues (.post x) s) ∧ (scalarRead s.me x.a = some (a, c1)) ∧ (scalarRead c1 x.b = some (b, c2)) ∧ (a.toNat % 8 = 0) ∧ (a.toNat < c2.codeLim) ∧ (s.me.runq ≠ []) ∧ (s.me.runq.length < 32) ∧ (t = { entry := a.setWidth 16, origin := 0x20, m0 := b })) ∧
    (∃ (x : FormS3) (s : State) (a b : Word) (c1 c2 : Core), (Issues (.post x) s) ∧ (s.inRpt = false) ∧ (s.midBody = false) ∧ (HandlesTraps s.me) ∧ (scalarRead s.me x.a = some (a, c1)) ∧ (scalarRead c1 x.b = some (b, c2)) ∧ (a.toNat % 8 ≠ 0 ∨ c2.codeLim ≤ a.toNat)) ∧
    (∃ (x : FormS3) (s : State) (a b : Word) (c1 c2 : Core), (Issues (.post x) s) ∧ (s.inRpt = false) ∧ (scalarRead s.me x.a = some (a, c1)) ∧ (scalarRead c1 x.b = some (b, c2)) ∧ (a.toNat % 8 = 0) ∧ (a.toNat < c2.codeLim) ∧ (s.me.runq.length = 32)) :=
  ⟨⟨zS3, st core0, _, _, issues_of _ _ (by decide +kernel), rfl, rfl⟩,
    ⟨zY, st core0, _, _, issues_of _ _ (by decide +kernel), rfl, rfl⟩,
    ⟨{ zS3 with a := 1, b := 2 }, st core0, _, _, _, _, _, issues_of _ _ (by decide +kernel), rfl, rfl, by decide +kernel, by decide +kernel, by decide +kernel, by decide +kernel, rfl⟩,
    ⟨{ zS3 with a := 2, b := 2 }, st core0, _, _, _, _, issues_of _ _ (by decide +kernel), rfl, rfl, ⟨rfl, rfl⟩, rfl, rfl, .inl (by decide +kernel)⟩,
    ⟨{ zS3 with a := 1, b := 2 }, st { core0 with runq := List.replicate 32 { entry := 0, origin := 0x20, m0 := 0 } }, _, _, _, _, issues_of _ _ (by decide +kernel), rfl, rfl, rfl, by decide +kernel, by decide +kernel, rfl⟩⟩

/-- Hypotheses of TrapsEnterTheHandler. -/
theorem witness_TrapsEnterTheHandler :
    (∃ (x : FormS3) (s : State) (a : Word) (c1 : Core), (Issues (.trap x) s) ∧ (s.inRpt = false) ∧ (s.midBody = false) ∧ (HandlesTraps s.me) ∧ (scalarRead s.me x.a = some (a, c1))) ∧
    (∃ (x : FormS3) (s : State), (Issues (.brk x) s) ∧ (s.inRpt = false) ∧ (s.midBody = false) ∧ (HandlesTraps s.me)) ∧
    (∃ (w : BitVec 64) (s : State), (s.cur < coreCount) ∧ (s.me.spec = none) ∧ (s.inRpt = false) ∧ (s.midBody = false) ∧ (HandlesTraps s.me)) ∧
    (∃ (x : FormS3) (s : State), (Issues (.brk x) s) ∧ (s.midBody = true)) ∧
    (∃ (x : FormS3) (s : State), (Issues (.nop x) s)) :=
  ⟨⟨{ zS3 with a := 1, aux := 9 }, st core0, _, _, issues_of _ _ (by decide +kernel), rfl, rfl, ⟨rfl, rfl⟩, rfl⟩,
    ⟨{ zS3 with aux := 9 }, st core0, issues_of _ _ (by decide +kernel), rfl, rfl, ⟨rfl, rfl⟩⟩,
    ⟨0, st core0, by decide +kernel, rfl, rfl, rfl, ⟨rfl, rfl⟩⟩,
    ⟨zS3, st { core0 with rpt := some { body := 0, word := 0, words := [], idx := 0, left := 0 }, rptProgress := 1 }, issues_of _ _ (by decide +kernel), rfl⟩,
    ⟨zS3, st core0, issues_of _ _ (by decide +kernel)⟩⟩

/-- Hypotheses of FatalTrapsFreezeTheRegion. -/
theorem witness_FatalTrapsFreezeTheRegion :
    (∃ (x : FormS3) (s : State) (r : Region) (i : Instr) (a : Word) (c1 : Core) (cause : BitVec 8), ((i = .brk x ∧ a = 0 ∧ c1 = s.me ∧ cause = causeBreakpoint ∨ i = .trap x ∧ scalarRead s.me x.a = some (a, c1) ∧ cause = causeSoftware)) ∧ (Issues i s) ∧ (s.midBody = false) ∧ (¬HandlesTraps s.me) ∧ (s.regionOf s.cur = some r) ∧ (r.st = .live ∨ r.st = .draining) ∧ (FirstFault r s.cur)) ∧
    (∃ (s : State) (rest : List Move) (r : Region) (role : Nat) (rec : List Word), (s.sched = .stop r.id :: rest) ∧ (s.regions.find? (·.id == r.id) = some r) ∧ ((∃ t, r.stopFrom = some t ∧ t ≠ s.cycle)) ∧ ((r.gathered.map (·.1)).Nodup) ∧ ((role, rec) ∈ r.gathered) ∧ ((∀ p ∈ r.gathered, role ≤ p.1)) ∧ (rec.length = 8)) :=
  ⟨⟨zS3, st { core0 with trapVec := 0 }, _, .brk zS3, 0, _, causeBreakpoint, .inl ⟨rfl, rfl, rfl, rfl⟩, issues_of _ _ (by decide +kernel), rfl, fun h => absurd h.1 (by decide), rfl, by decide +kernel, by unfold FirstFault; decide +kernel⟩,
    ⟨{ st core0 with regions := [{ bareRegion with gathered := [(0, [1, 0, 0, 0, 0, 0, 0, 0])], stopFrom := some 1 }], sched := [.stop bareRegion.id] }, _, { bareRegion with gathered := [(0, [1, 0, 0, 0, 0, 0, 0, 0])], stopFrom := some 1 }, 0, [1, 0, 0, 0, 0, 0, 0, 0], rfl, rfl, ⟨1, rfl, by decide⟩, by decide +kernel, .head _, by decide +kernel, rfl⟩⟩

/-- Hypotheses of TrapReturnRestores. -/
theorem witness_TrapReturnRestores :
    (∃ (x : FormY) (s : State), (Issues (.trapretSkip x) s) ∧ (s.inRpt = false) ∧ (s.me.rptState.getLsbD 63 = false)) ∧
    (∃ (x : FormY) (s : State), (Issues (.trapret x) s) ∧ (s.inRpt = false) ∧ (s.me.rptState.getLsbD 63 = false)) ∧
    (∃ (x : FormY) (s : State) (words : List Word) (c : Core), (Issues (.trapret x) s) ∧ (s.inRpt = false) ∧ (s.me.rptState.getLsbD 63 = true) ∧ (bitsOf s.me.rptState 48 3 < rptLen s.me.rptWord) ∧ (BodyAt s s.me.rptState.toNat (rptLen s.me.rptWord) (refillWord s s.cur) words) ∧ (c = { resumed s.me with rpt := some { body := s.me.rptState.extractLsb' 16 16, word := s.me.rptWord, words, idx := bitsOf s.me.rptState 48 3, left := bitsOf s.me.rptState 32 12 } })) ∧
    (∃ (x : FormY) (s : State) (words : List Word) (c : Core) (idx left : Nat), (Issues (.trapretSkip x) s) ∧ (s.inRpt = false) ∧ (s.me.rptState.getLsbD 63 = true) ∧ ((if bitsOf s.me.rptState 48 3 + 1 < rptLen s.me.rptWord then idx = bitsOf s.me.rptState 48 3 + 1 ∧ left = bitsOf s.me.rptState 32 12 else idx = 0 ∧ left + 1 = bitsOf s.me.rptState 32 12)) ∧ (BodyAt s s.me.rptState.toNat (rptLen s.me.rptWord) (refillWord s s.cur) words) ∧ (c = { resumed s.me with rpt := some { body := s.me.rptState.extractLsb' 16 16, word := s.me.rptWord, words, idx, left } })) :=
  ⟨⟨zY, st { core0 with prv := true, intrap := true, trapPc := 0x300 }, issues_of _ _ (by decide +kernel), rfl, rfl⟩,
    ⟨zY, st { core0 with prv := true, intrap := true, trapPc := 0x300 }, issues_of _ _ (by decide +kernel), rfl, rfl⟩,
    ⟨zY, st { core0 with prv := true, intrap := true, trapPc := 0x300, rptState := 0x8000000103000110, rptWord := 0x3600000000000000, loc := [(0x307, 0x40)] }, _, _, issues_of _ _ (by decide +kernel), rfl, rfl, by decide +kernel, ⟨rfl, by decide +kernel⟩, rfl⟩,
    ⟨zY, st { core0 with prv := true, intrap := true, trapPc := 0x300, rptState := 0x8000000103000110, rptWord := 0x3600000000000000, loc := [(0x307, 0x40)] }, _, _, 0, 0, issues_of _ _ (by decide +kernel), rfl, rfl, by decide +kernel, ⟨rfl, by decide +kernel⟩, rfl⟩⟩

/-- Hypotheses of RptFillsTheRepeatBuffer. -/
theorem witness_RptFillsTheRepeatBuffer :
    (∃ (x : FormSI) (s : State) (words : List Word), (Issues (.rpt x) s) ∧ (s.inRpt = false) ∧ (BodyAt s ((s.me.pc + 8).toNat * 2 ^ 16) (rptLen (wordOf (.rpt x))) (fetchWord s s.cur) words)) :=
  ⟨{ gd := 0, d := 0, a := 0, imm := 0 }, st { core0 with loc := [(0x10F, 0x40)] }, _, issues_of _ _ (by decide +kernel), rfl, ⟨rfl, by decide +kernel⟩⟩

/-- Hypotheses of RepeatBufferOrder. -/
theorem witness_RepeatBufferOrder :
    (∃ r : Rpt, (r.idx + 1 < r.words.length)) ∧
    (∃ r : Rpt, (r.words.length ≤ r.idx + 1) ∧ (r.left = 0)) ∧
    (∃ r : Rpt, (r.words.length ≤ r.idx + 1) ∧ (r.left ≠ 0)) ∧
    (∃ (r : Rpt) (w : Word) (i op : Nat), w = r.words.getD r.idx 0 ∧ op = bitsOf w 56 8 ∧ bodyAllowed op = true ∧ (pickInstr w).isSome = true ∧ i + r.left + 1 = rptCnt r.word) ∧
    (∃ (s : State) (lid : Nat) (rest : List Move) (r : Rpt) (i : Instr), (s.sched = .rpt lid :: rest) ∧ (s.canIssue lid = true) ∧ (s.anyExpired lid = false) ∧ ((s.core lid).rpt = some r) ∧ (decodeWord r.next = .ok i)) :=
  ⟨⟨{ body := 0, word := 0, words := [0, 0], idx := 0, left := 0 }, by decide +kernel⟩,
    ⟨{ body := 0, word := 0, words := [0, 0], idx := 1, left := 0 }, by decide +kernel, rfl⟩,
    ⟨{ body := 0, word := 0, words := [0, 0], idx := 1, left := 2 }, by decide +kernel, by decide +kernel⟩,
    ⟨{ body := 0, word := 0x3600000001108010, words := [wordOf (.vadd { zV with d := 1, a := 2, b := 3 })], idx := 0, left := 0 }, _, 2, _, rfl, rfl, by decide +kernel, by decide +kernel, by decide +kernel⟩,
    ⟨{ st { core0 with rpt := some { body := 0x100, word := 0, words := [0x3C00000000000000], idx := 0, left := 0 } } with sched := [.rpt 0] }, 0, _, _, .nop zS3, rfl, rfl, rfl, rfl, by decide +kernel⟩⟩

/-- Hypotheses of LaneElementwiseResults. -/
theorem witness_LaneElementwiseResults :
    (∃ p ∈ elementwise, ∃ (x : FormV) (s : State) (a b e v : Vec) (fl : BitVec 7) (c1 c2 c3 c4 : Core), (Issues (p.1 x) s) ∧ (vectorReadIf (decide (1 ≤ p.2.1 x)) s.me x.a = some (a, c1)) ∧ (vectorReadIf (decide (2 ≤ p.2.1 x)) c1 x.b = some (b, c2)) ∧ (vectorReadIf (decide (3 ≤ p.2.1 x)) c2 x.c = some (e, c3)) ∧ (LanesAre c3 x (vWidth x) (fun j => p.2.2 x c3 (elemOf a (vWidth x) j) (elemOf b (vWidth x) j) (elemOf e (vWidth x) j)) v fl) ∧ (vectorWrite (c3.raiseFlags fl) x.d v 0 (some (queueFmt x.et.toNat)) = some c4)) ∧
    (∃ (x : FormV) (s : State) (a b e v : Vec) (fl : BitVec 7) (c1 c2 c3 c4 : Core), (Issues (.vdot4 x) s) ∧ (vectorReadIf true s.me x.a = some (a, c1)) ∧ (vectorReadIf true c1 x.b = some (b, c2)) ∧ (vectorReadIf true c2 x.c = some (e, c3)) ∧ (LanesAre c3 x 32 (fun k => let et := if x.et.toNat < 3 then 2 else 5; let t := etInt et 32 (elemOf e 32 k) + ((List.range 4).map fun i => etInt x.et.toNat 8 (elemOf a 8 (4 * k + i)) * etInt x.et.toNat 8 (elemOf b 8 (4 * k + i))).sum; fixInt et 32 (vSat x) t) v fl) ∧ (vectorWrite (c3.raiseFlags fl) x.d v 0 (some 2) = some c4)) :=
  ⟨⟨_, .head _, { zV with d := 5, a := 1, b := 2, et := 2 }, st core0, _, _, 0, 0x0102030405060708090A0B0C0D0E0F13, 0, _, _, _, _, issues_of _ _ (by decide +kernel), rfl, rfl, rfl, ⟨by decide +kernel, by decide +kernel⟩, rfl⟩,
    ⟨{ zV with d := 5, a := 1, b := 2, c := 2, et := 0 }, st core0, _, _, _, 48 + 3, 0, _, _, _, _, issues_of _ _ (by decide +kernel), rfl, rfl, rfl, ⟨by decide +kernel, by decide +kernel⟩, rfl⟩⟩

/-- Hypotheses of LanePredicateResults. -/
theorem witness_LanePredicateResults :
    (∃ (x : FormV) (s : State) (a b : Vec) (p : BitVec 8) (fl : BitVec 7) (t : Bool) (c1 c2 : Core), (Issues (.vcmp x) s) ∧ (vectorReadIf true s.me x.a = some (a, c1)) ∧ (vectorReadIf true c1 x.b = some (b, c2)) ∧ ((∀ k < 8, p.getLsbD k = (vSel x c2 k && (comparesTo x c2 (elemOf a (vWidth x) (k * (laneCount (vWidth x) / 8) + bitsOf x.imm 4 2)) (elemOf b (vWidth x) (k * (laneCount (vWidth x) / 8) + bitsOf x.imm 4 2))).1))) ∧ (fl = (List.range 8).foldl (fun r k => if vSel x c2 k then r ||| (comparesTo x c2 (elemOf a (vWidth x) (k * (laneCount (vWidth x) / 8) + bitsOf x.imm 4 2)) (elemOf b (vWidth x) (k * (laneCount (vWidth x) / 8) + bitsOf x.imm 4 2))).2 else r) 0) ∧ (Quantifies x c2 (x.qf == 2) p t)) ∧
    (∃ (x : FormV) (s : State) (a b v : Vec) (ta tb : BitVec 72) (c1 c2 c3 : Core), (Issues (.vsel x) s) ∧ (x.et ≠ 9) ∧ (vectorRead s.me x.a false = some (a, ta, c1)) ∧ (vectorRead c1 x.b false = some (b, tb, c2)) ∧ ((∀ j < laneCount (vWidth x), elemOf v (vWidth x) j = elemOf (if vSel x c2 (laneOf (vWidth x) j) then a else b) (vWidth x) j)) ∧ (vectorWrite c2 x.d v 0 (some (queueFmt x.et.toNat)) = some c3)) ∧
    (∃ (x : FormV) (s : State) (a b : Vec) (ta tb : BitVec 72) (c1 c2 c3 : Core), (Issues (.vsel x) s) ∧ (x.et = 9) ∧ (vectorRead s.me x.a true = some (a, ta, c1)) ∧ (vectorRead c1 x.b true = some (b, tb, c2)) ∧ (vectorWrite c2 x.d ((if vSel x c2 4 then a else b).extractLsb' 128 128 ++ (if vSel x c2 0 then a else b).extractLsb' 0 128) ((if vSel x c2 4 then ta else tb).extractLsb' 36 36 ++ (if vSel x c2 0 then ta else tb).extractLsb' 0 36) none = some c3)) ∧
    (∃ (x : FormV) (s : State) (p : BitVec 8), (Issues (.vplog x) s) ∧ ((∀ k < 8, p.getLsbD k = let u := (s.me.pred x.a.toNat).getLsbD k; let v := (s.me.pred x.b.toNat).getLsbD k; match bitsOf x.imm 0 3 with | 0 => u && v | 1 => u || v | 2 => u != v | 3 => u && !v | 4 => u || !v | 5 => !(u && v) | 6 => !(u || v) | _ => !u))) ∧
    (∃ (x : FormV) (s : State) (t : Bool), (Issues (.vpany x) s) ∧ (Quantifies x s.me false (s.me.pred x.a.toNat) t)) ∧
    (∃ (x : FormV) (s : State) (t : Bool), (Issues (.vpall x) s) ∧ (Quantifies x s.me true (s.me.pred x.a.toNat) t)) ∧
    (∃ (x : FormV) (s : State) (a : Word) (c1 : Core), (Issues (.vpset x) s) ∧ (scalarRead s.me x.a = some (a, c1))) :=
  ⟨⟨{ zV with d := 2, a := 1, b := 2, et := 2 }, st core0, _, _, 0xF0, 0, true, _, _, issues_of _ _ (by decide +kernel), rfl, rfl, by decide +kernel, by decide +kernel, by unfold Quantifies; decide +kernel⟩,
    ⟨{ zV with d := 5, a := 1, b := 2, et := 2, pn := 1 }, st core0, _, _, 3, _, _, _, _, _, issues_of _ _ (by decide +kernel), by decide, rfl, rfl, by decide +kernel, rfl⟩,
    ⟨{ zV with d := 5, a := 1, b := 2, et := 9 }, st core0, _, _, _, _, _, _, _, issues_of _ _ (by decide +kernel), rfl, rfl, rfl, rfl⟩,
    ⟨{ zV with d := 2, a := 0, b := 1 }, st core0, 0, issues_of _ _ (by decide +kernel), by decide +kernel⟩,
    ⟨{ zV with d := 2, a := 0 }, st core0, true, issues_of _ _ (by decide +kernel), by unfold Quantifies; decide +kernel⟩,
    ⟨{ zV with d := 2, a := 1 }, st core0, false, issues_of _ _ (by decide +kernel), by unfold Quantifies; decide +kernel⟩,
    ⟨{ zV with d := 2, a := 2 }, st core0, _, _, issues_of _ _ (by decide +kernel), rfl⟩⟩

/-- Hypotheses of LaneMovesAndConversions. -/
theorem witness_LaneMovesAndConversions :
    (∃ (x : FormV) (s : State) (a : Word) (v : Vec) (fl : BitVec 7) (c1 c2 : Core), (Issues (.vbcast x) s) ∧ (scalarRead s.me x.a = some (a, c1)) ∧ (LanesAre c1 x (vWidth x) (fun _ => (a.toNat, 0)) v fl) ∧ (vectorWrite c1 x.d v 0 (some (queueFmt x.et.toNat)) = some c2)) ∧
    (∃ (x : FormV) (s : State) (a b v : Vec) (fl : BitVec 7) (c1 c2 c3 : Core), (Issues (.vperm x) s) ∧ (vectorReadIf true s.me x.a = some (a, c1)) ∧ (vectorReadIf true c1 x.b = some (b, c2)) ∧ (LanesAre c2 x (vWidth x) (fun j => (elemOf a (vWidth x) (elemOf b (vWidth x) j % laneCount (vWidth x)), 0)) v fl) ∧ (vectorWrite c2 x.d v 0 (some (queueFmt x.et.toNat)) = some c3)) ∧
    (∃ (x : FormV) (s : State) (a : Vec) (t : BitVec 72) (c1 c2 : Core), (Issues (.vmovs x) s) ∧ (vectorRead s.me x.a (x.et == 9) = some (a, t, c1)) ∧ (scalarWrite c1 x.d (if x.et = 9 then .ofNat 64 (bitsOf t (36 * bitsOf x.imm 0 5) 36) else .ofInt 64 (etInt x.et.toNat (vWidth x) (elemOf a (vWidth x) (bitsOf x.imm 0 5)))) = some c2)) ∧
    (∃ (x : FormV) (s : State) (a : Word) (c1 : Core), (Issues (.vins x) s) ∧ (scalarRead s.me x.a = some (a, c1)) ∧ ((x.et = 9 → a.toNat < 2 ^ 36))) ∧
    (∃ (x : FormV) (s : State) (a v : Vec) (fl : BitVec 7) (c1 c2 : Core), (Issues (.vcvt x) s) ∧ (vectorReadIf true s.me x.a = some (a, c1)) ∧ ((let ws := etWidth (x.imm.extractLsb' 0 4); let ns := laneCount ws; let nd := laneCount (vWidth x); let h := bitsOf x.imm 4 2; LanesAre c1 x (vWidth x) (fun j => if nd < ns then convertElem x c1 (elemOf a ws (h * nd + j)) else if ns = nd then convertElem x c1 (elemOf a ws j) else if h * ns ≤ j ∧ j < (h + 1) * ns then convertElem x c1 (elemOf a ws (j - h * ns)) else (elemOf (oldOf c1 x.d) (vWidth x) j, 0)) v fl)) ∧ (vectorWrite (c1.raiseFlags fl) x.d v 0 (some (queueFmt x.et.toNat)) = some c2)) ∧
    (∃ (x : FormV) (s : State) (a b : Vec) (c1 c2 : Core), (Issues (.vbxpack x) s) ∧ (vectorReadIf true s.me x.a = some (a, c1)) ∧ (vectorReadIf (x.et == 8) c1 x.b = some (b, c2))) ∧
    (∃ (x : FormV) (s : State) (a v : Vec) (t : BitVec 72) (fl : BitVec 7) (c1 c2 : Core) (h fmt : Nat), (Issues (.vbxunpack x) s) ∧ (vectorRead s.me x.a true = some (a, t, c1)) ∧ (h = unpackHalf (bitsOf x.imm 0 2) (bitsOf t 32 4)) ∧ (fmt = bitsOf t (36 * h + 32) 4) ∧ (isBx fmt = true) ∧ (bxTec fmt = c1.tec) ∧ ((2 ≤ bitsOf x.imm 0 2 → bxKind fmt = 0)) ∧ ((let sl := bitsOf x.imm 0 2; let blocks := bxBlocks (bxKind fmt) (a.extractLsb' (128 * h) 128) (t.extractLsb' (36 * h) 32); let part := if bxKind fmt = 0 ∧ (h = 0 ∨ 2 ≤ sl) then sl % 2 else 0; let vals := (blocks.getD part bxZero).values (bxKind fmt) c1.tec; let base := if x.et = 8 then 8 * bitsOf x.imm 4 1 else 0; LanesAre c1 x (vWidth x) (fun j => fpRoundVal (fpOf x.et.toNat) x.rm c1.ftz (vals.getD (base + j) (.fin false 0 0))) v fl)) ∧ (vectorWrite (c1.raiseFlags fl) x.d v 0 (some (queueFmt x.et.toNat)) = some c2)) :=
  ⟨⟨{ zV with d := 5, a := 2, et := 2 }, st core0, _, 0x0000000700000007000000070000000700000007000000070000000700000007, 0, _, _, issues_of _ _ (by decide +kernel), rfl, ⟨by decide +kernel, by decide +kernel⟩, rfl⟩,
    ⟨{ zV with d := 5, a := 2, b := 1, et := 2, pn := 1 }, st core0, _, _, 0, 0, _, _, _, issues_of _ _ (by decide +kernel), rfl, rfl, ⟨by decide +kernel, by decide +kernel⟩, rfl⟩,
    ⟨{ zV with d := 5, a := 1, et := 2, imm := 3 }, st core0, _, _, _, _, issues_of _ _ (by decide +kernel), rfl, rfl⟩,
    ⟨{ zV with d := 5, a := 2, et := 9, imm := 1 }, st core0, _, _, issues_of _ _ (by decide +kernel), rfl, by decide +kernel⟩,
    ⟨{ zV with d := 5, a := 2, et := 8, imm := 2 }, st core0, _, 0x40400000, 0, _, _, issues_of _ _ (by decide +kernel), rfl, ⟨by decide +kernel, by decide +kernel⟩, rfl⟩,
    ⟨{ zV with d := 5, a := 1, b := 2, et := 8 }, st core0, _, _, _, _, issues_of _ _ (by decide +kernel), rfl, rfl⟩,
    ⟨{ zV with d := 5, a := 1, et := 7 , pn := 1 }, st { core0 with vtags := [(1, 0x600000000)] }, _, 0, _, 0, _, _, 0, 6, issues_of _ _ (by decide +kernel), rfl, by decide +kernel, by decide +kernel, by decide, by decide +kernel, by decide, ⟨by decide +kernel, by decide +kernel⟩, rfl⟩⟩

/-- Hypotheses of LaneReductionsFollowTheTree. -/
theorem witness_LaneReductionsFollowTheTree :
    (∃ p ∈ ([(.vredsum, elemOp (· + ·) fpAdd), (.vredmax, elemOp max (fun f _ _ a b => fpMinMax f true a b))] : List ((FormV → Instr) × (FormV → Core → Nat → Nat → Nat × BitVec 7))), ∃ (x : FormV) (s : State) (a : Vec) (c1 c2 : Core), (Issues (p.1 x) s) ∧ (vectorReadIf true s.me x.a = some (a, c1)) ∧ ∃ r, r = treeReduce (p.2 x c1) 5 ((List.range (laneCount (vWidth x))).map fun j => if vSel x c1 (laneOf (vWidth x) j) then some (elemOf a (vWidth x) j) else none) 0 ∧ vectorWrite (c1.raiseFlags r.2) x.d (.ofNat 256 (r.1.getD 0)) 0 (some (queueFmt x.et.toNat)) = some c2) :=
  ⟨_, .head _, { zV with d := 5, a := 1, et := 2 }, st core0, _, _, _, issues_of _ _ (by decide +kernel), rfl, _, rfl, rfl⟩

/-- Hypotheses of LaneMemoryAccesses. -/
theorem witness_LaneMemoryAccesses :
    (∃ p ∈ ([(.vld, false), (.vldq, true)] : List ((FormM → Instr) × Bool)), ∃ (x : FormM) (s s1 : State) (bytes : List Byte) (c1 : Core), (Issues (p.1 x) s) ∧ ((partsOf s.me x p.2).1 % 32 = 0) ∧ (LdlsAt (partsOf s.me x p.2).2.2 s (partsOf s.me x p.2).2.1 bytes s1) ∧ (ReleaseReady s x) ∧ (vectorWrite s.me x.d (.ofNat 256 (natOfBytes bytes)) 0 (some 1) = some c1)) ∧
    (∃ p ∈ ([(.vst, false), (.vstq, true)] : List ((FormM → Instr) × Bool)), ∃ (x : FormM) (s s1 s2 : State) (v : Vec) (t : BitVec 72) (c1 : Core), (Issues (p.1 x) s) ∧ (vectorRead s.me x.d false = some (v, t, c1)) ∧ ((partsOf s.me x p.2).1 % 32 = 0) ∧ (ReleaseReady s x) ∧ (PartsWritable (partsOf s.me x p.2).2.2 (s.setMe c1) (partsOf s.me x p.2).2.1 s1) ∧ (StlsAt s1 (((List.range 8).zip (partsOf s.me x p.2).2.1).map fun q => (q.2, bytesOfNat (partsOf s.me x p.2).2.2 (bitsOf v (8 * (partsOf s.me x p.2).2.2 * q.1) (8 * (partsOf s.me x p.2).2.2)))) s2)) :=
  ⟨⟨_, .head _, { zM with d := 5, a := 1 }, st core0, st core0, _, _, issues_of _ _ (by decide +kernel), by decide +kernel, ldls_of _ (st core0) (by decide +kernel) _ (by unfold LocAccess redirected Readable; decide +kernel), by unfold ReleaseReady; decide +kernel, rfl⟩,
    ⟨_, .head _, { zM with d := 1, a := 1 }, st core0, _, _, _, _, _, issues_of _ _ (by decide +kernel), rfl, by decide +kernel, by unfold ReleaseReady; decide +kernel, .inl ⟨by unfold redirected; decide +kernel, .inl ⟨by unfold redirected; decide +kernel, .inl ⟨by unfold redirected; decide +kernel, .inl ⟨by unfold redirected; decide +kernel, rfl⟩⟩⟩⟩, ⟨_, .inl ⟨by unfold LocAccess redirected; decide +kernel, by decide +kernel, rfl⟩, ⟨_, .inl ⟨by unfold LocAccess redirected; decide +kernel, by decide +kernel, rfl⟩, ⟨_, .inl ⟨by unfold LocAccess redirected; decide +kernel, by decide +kernel, rfl⟩, ⟨_, .inl ⟨by unfold LocAccess redirected; decide +kernel, by decide +kernel, rfl⟩, rfl⟩⟩⟩⟩⟩⟩

/-- Hypotheses of SendsPushTheirFlits. -/
theorem witness_SendsPushTheirFlits :
    (∃ (x : FormQ) (s : State) (a b e : Word) (c1 c2 c3 : Core), (Issues (.sendw2 x) s) ∧ (scalarRead s.me x.a = some (a, c1)) ∧ (scalarRead c1 x.b = some (b, c2)) ∧ (scalarRead c2 x.c = some (e, c3)) ∧ (SendReady s x 1)) ∧
    (∃ (x : FormQ) (s s1 : State) (a b : Word) (bytes : List Byte) (c1 c2 : Core), (Issues (.sendm x) s) ∧ (scalarRead s.me x.a = some (a, c1)) ∧ (scalarRead c1 x.b = some (b, c2)) ∧ (LdlsAt 8 (s.setMe c2) ((List.range 6).map fun (k : Nat) => (b.toNat : Int) + 8 * k) bytes s1) ∧ (SendReady s1 x 4)) ∧
    (∃ (x : FormQ) (s : State) (r : Region), (Issues (.bankpass x) s) ∧ (s.regionOf s.cur = some r) ∧ (SendReady s x 1)) :=
  ⟨⟨{ zQ with d := 5, a := 1, b := 3, c := 3, tag := 1 }, st core0, _, _, _, _, _, _, issues_of _ _ (by decide +kernel), rfl, rfl, rfl, ⟨⟨by decide +kernel, by decide⟩, by decide, by unfold Room; decide +kernel⟩⟩,
    ⟨{ zQ with d := 5, a := 1, b := 3, c := 3, tag := 1 }, st core0, st core0, _, _, _, _, _, issues_of _ _ (by decide +kernel), rfl, rfl, ldls_of _ (st core0) (by decide +kernel) _ (by unfold LocAccess redirected Readable; decide +kernel), ⟨⟨by decide +kernel, by decide⟩, by decide, by unfold Room; decide +kernel⟩⟩,
    ⟨{ zQ with tag := 1, imm := 2 }, st core0, _, issues_of _ _ (by decide +kernel), rfl, ⟨⟨by decide +kernel, by decide⟩, by decide, by unfold Room; decide +kernel⟩⟩⟩

/-- Hypotheses of QueueInstructionsResults. -/
theorem witness_QueueInstructionsResults :
    (∃ (x : FormQ) (s : State) (c : Core), (Issues (.qflush x) s) ∧ (scalarWrite { s.me.setQueue x.qn.toNat [] with half := putBits s.me.half x.qn.toNat 1 0 } x.d (.ofNat 64 (s.me.queue x.qn.toNat).length) = some c)) ∧
    (∃ (x : FormQ) (s : State) (c : Core), (Issues (.qpeek x) s) ∧ (scalarWrite s.me x.d (peeked s.me x.qn.toNat (bitsOf x.imm 0 2)) = some c)) ∧
    (∃ (x : FormQ) (s : State) (c : Core), (Issues (.qstat x) s) ∧ (scalarWrite s.me x.d (queueWord s.me) = some c)) ∧
    (∃ (x : FormQ) (s : State) (f : Flit) (rest : List Flit) (c1 c2 : Core), (Issues (.qdrop x) s) ∧ (s.me.queue x.qn.toNat = f :: rest) ∧ (c1 = dropped s.me x.qn.toNat 1 f rest) ∧ (scalarWrite (if f.kind = 4 then { c1 with bankWait := putBits c1.bankWait (bitsOf f.payload 0 3) 1 0, oldWords := [] } else c1) x.d (.ofNat 64 (viewOfHead s.me x.qn.toNat f)) = some c2)) ∧
    (∃ (x : FormQ) (s : State) (c : Core), (Issues (.excq x) s) ∧ (scalarWrite s.me x.d s.me.router.exlog = some c)) ∧
    (∃ (x : FormQ) (s : State) (c : Core), (Issues (.excqClr x) s) ∧ (scalarWrite { s.me with router := { s.me.router with exlog := 0 } } x.d s.me.router.exlog = some c)) ∧
    (∃ (x : FormQ) (s : State) (f : Flit) (rest : List Flit) (c1 c2 : Core), (Issues (.drain x) s) ∧ (s.me.queue x.qn.toNat = f :: rest) ∧ (f.kind = 3) ∧ (s.me.half.getLsbD x.qn.toNat = false) ∧ (SendReady s x (if 24 ≤ x.d.toNat then 2 else 1)) ∧ (c1 = ordered (dropped s.me x.qn.toNat 0 f rest) (x.rl = 1)) ∧ (scalarWrite c1 x.d (.ofNat 64 (bitsOf f.payload 0 32)) = some c2)) ∧
    (∃ (x : FormQ) (s : State) (f : Flit) (rest : List Flit) (c1 c2 : Core), (Issues (.drainEnd x) s) ∧ (s.me.queue x.qn.toNat = f :: rest) ∧ (f.kind = 3) ∧ (s.me.half.getLsbD x.qn.toNat = false) ∧ (c1 = dropped s.me x.qn.toNat 0 f rest) ∧ (scalarWrite c1 x.d (.ofNat 64 (bitsOf f.payload 0 32)) = some c2)) :=
  ⟨⟨{ zQ with d := 5 }, st { core0 with router := { core0.router with inq := [(0, [mkFlit 0 0 false false 0 0 0 5 77, mkFlit 0 0 false false 0 0 0 5 77])] } }, _, issues_of _ _ (by decide +kernel), rfl⟩,
    ⟨{ zQ with d := 5, imm := 1 }, st { core0 with router := { core0.router with inq := [(0, [mkFlit 0 0 false false 0 0 0 5 77, mkFlit 0 0 false false 0 0 0 5 77])] } }, _, issues_of _ _ (by decide +kernel), rfl⟩,
    ⟨{ zQ with d := 5 }, st { core0 with router := { core0.router with inq := [(0, [mkFlit 0 0 false false 0 0 0 5 77, mkFlit 0 0 false false 0 0 0 5 77])] } }, _, issues_of _ _ (by decide +kernel), rfl⟩,
    ⟨{ zQ with d := 5 }, st { core0 with router := { core0.router with inq := [(0, [mkFlit 0 0 false false 0 0 0 5 77, mkFlit 0 0 false false 0 0 0 5 77])] } }, mkFlit 0 0 false false 0 0 0 5 77, [mkFlit 0 0 false false 0 0 0 5 77], _, _, issues_of _ _ (by decide +kernel), by decide +kernel, rfl, rfl⟩,
    ⟨{ zQ with d := 5 }, st core0, _, issues_of _ _ (by decide +kernel), rfl⟩,
    ⟨{ zQ with d := 5 }, st core0, _, issues_of _ _ (by decide +kernel), rfl⟩,
    ⟨{ zQ with d := 5, tag := 1 }, st { core0 with router := { core0.router with inq := [(0, [mkFlit 15 3 false false 0 0 0 5 1])] } }, mkFlit 15 3 false false 0 0 0 5 1, [], _, _, issues_of _ _ (by decide +kernel), by decide +kernel, by decide +kernel, rfl, ⟨⟨by decide +kernel, by decide⟩, by decide, by unfold Room; decide +kernel⟩, rfl, rfl⟩,
    ⟨{ zQ with d := 5 }, st { core0 with router := { core0.router with inq := [(0, [mkFlit 15 3 false false 0 0 0 5 1])] } }, mkFlit 15 3 false false 0 0 0 5 1, [], _, _, issues_of _ _ (by decide +kernel), by decide +kernel, by decide +kernel, rfl, rfl, rfl⟩⟩

/-- Hypotheses of RouteInstructionsResults. -/
theorem witness_RouteInstructionsResults :
    (∃ (x : FormQ) (s : State) (c : Core), (Issues (.rtget x) s) ∧ (scalarWrite s.me x.d (s.me.route x.tag.toNat) = some c)) ∧
    (∃ (x : FormQ) (s : State) (a : Word) (c : Core), (Issues (.rtset x) s) ∧ (scalarRead s.me x.a = some (a, c)) ∧ (Writable c x.tag.toNat a)) ∧
    (∃ (x : FormQ) (s : State) (a : Word) (c : Core), (Issues (.rtset x) s) ∧ (s.inRpt = false) ∧ (s.midBody = false) ∧ (HandlesTraps s.me) ∧ (scalarRead s.me x.a = some (a, c)) ∧ (entryFits c.router x.tag.toNat a = false)) ∧
    (∃ (x : FormQ) (s : State) (e : Word), (Issues (.dmqset x) s) ∧ (e = putBits (s.me.route x.tag.toNat) 26 8 (bitsOf x.imm 0 8)) ∧ (Writable s.me x.tag.toNat e)) ∧
    (∃ (x : FormQ) (s : State), (Issues (.tagset x) s)) :=
  ⟨⟨{ zQ with d := 5, tag := 1 }, st core0, _, issues_of _ _ (by decide +kernel), rfl⟩,
    ⟨{ zQ with a := 1, tag := 1 }, st { core0 with prv := true, regs := [(1, 0x9000000000000000)] }, _, _, issues_of _ _ (by decide +kernel), rfl, ⟨by decide +kernel, by decide +kernel, by decide +kernel, .inl (by decide +kernel)⟩⟩,
    ⟨{ zQ with a := 1, tag := 1 }, st { core0 with prv := true, regs := [(1, 0x8000000000000001)] }, _, _, issues_of _ _ (by decide +kernel), rfl, rfl, ⟨rfl, rfl⟩, rfl, by decide +kernel⟩,
    ⟨{ zQ with tag := 1, imm := 0 }, st { core0 with prv := true }, _, issues_of _ _ (by decide +kernel), rfl, ⟨by decide +kernel, by decide +kernel, by decide +kernel, .inl (by decide +kernel)⟩⟩,
    ⟨{ zQ with tag := 1, qn := 2 }, st { core0 with prv := true }, issues_of _ _ (by decide +kernel)⟩⟩

/-- Hypotheses of StreamSlotsMove. -/
theorem witness_StreamSlotsMove :
    (∃ (x : FormS3) (s s1 : State) (n k : Nat) (ws : List Word) (tec : Bool), (Issues (.sopen x) s) ∧ (n = bitsOf x.aux 0 3) ∧ ((s.me.slot n).st = .free) ∧ (Opening s (s.me.reg x.a.toNat).toNat ws tec s1) ∧ ((openedStream s n ws tec).check (wordOf (.sopen x)) = none) ∧ ((openedStream s n ws tec).tagHeld (s.brim (s.portOf s.cur)) = false) ∧ (k < 32) ∧ (s.ctx (s.portOf s.cur) k = none) ∧ ((∀ j < k, s.ctx (s.portOf s.cur) j ≠ none))) ∧
    (∃ (x : FormS3) (s s1 : State) (n : Nat) (ws : List Word) (tec : Bool), (Issues (.sopen x) s) ∧ (s.inRpt = false) ∧ (n = bitsOf x.aux 0 3) ∧ ((s.me.slot n).st = .free) ∧ (Opening s (s.me.reg x.a.toNat).toNat ws tec s1) ∧ ((openedStream s n ws tec).check (wordOf (.sopen x)) = none) ∧ ((openedStream s n ws tec).tagHeld (s.brim (s.portOf s.cur)) = false) ∧ ((∀ j < 32, s.ctx (s.portOf s.cur) j ≠ none))) ∧
    (∃ (x : FormS3) (s : State) (n : Nat) (st : SlotState) (c : StreamCtx), (Issues (.sgo x) s) ∧ (n = bitsOf x.aux 0 3) ∧ (st = .opened ∨ st = .paused) ∧ (SlotHolds s n st c) ∧ ((c.acq = true → s.scopePerformed s.cur c.scope = true))) ∧
    (∃ (x : FormS3) (s : State) (n : Nat) (c : StreamCtx), (Issues (.sstop x) s) ∧ (n = bitsOf x.aux 0 3) ∧ (SlotHolds s n .run c)) ∧
    (∃ p ∈ ([(.sgo, .run), (.sstop, .ended), (.sstopClose, .ended)] : List ((FormS3 → Instr) × SlotState)), ∃ (x : FormS3) (s : State), (Issues (p.1 x) s) ∧ ((s.me.slot (bitsOf x.aux 0 3)).st = p.2)) ∧
    (∃ (x : FormS3) (s : State) (n : Nat) (st : SlotState) (c : StreamCtx), (Issues (.sstopClose x) s) ∧ (n = bitsOf x.aux 0 3) ∧ (st = .opened ∨ st = .run ∨ st = .paused) ∧ (SlotHolds s n st c)) :=
  ⟨⟨{ zS3 with a := 1 }, st core0, _, _, 0, _, _, issues_of _ _ (by decide +kernel), rfl, by decide +kernel, .inl ⟨rfl, ⟨by decide +kernel, by decide +kernel, words_of _ _ (by unfold Readable; decide +kernel)⟩, rfl⟩, rfl, rfl, by decide, rfl, by decide +kernel⟩,
    ⟨{ zS3 with a := 1 }, { st core0 with brims := [(0, { Brim.reset with ctxs := (List.range 32).map fun k => (k, ctx0) })] }, _, _, _, _, issues_of _ _ (by decide +kernel), rfl, rfl, by decide +kernel, .inl ⟨rfl, ⟨by decide +kernel, by decide +kernel, words_of _ _ (by unfold Readable; decide +kernel)⟩, rfl⟩, rfl, rfl, by decide +kernel⟩,
    ⟨{ zS3 with a := 1 }, stS .opened ctx0, _, .opened, _, issues_of _ _ (by decide +kernel), rfl, .inl rfl, ⟨rfl, rfl⟩, by decide +kernel⟩,
    ⟨{ zS3 with a := 1 }, stS .run ctx0, _, _, issues_of _ _ (by decide +kernel), rfl, ⟨rfl, rfl⟩⟩,
    ⟨_, .head _, zS3, stS .run ctx0, issues_of _ _ (by decide +kernel), by decide +kernel⟩,
    ⟨{ zS3 with a := 1 }, stS .run ctx0, _, .run, _, issues_of _ _ (by decide +kernel), rfl, .inr (.inl rfl), ⟨rfl, rfl⟩⟩⟩

/-- Hypotheses of StreamsAreReadAndFreed. -/
theorem witness_StreamsAreReadAndFreed :
    (∃ (x : FormS3) (s : State) (n : Nat) (c1 c2 : Core), (Issues (.swait x) s) ∧ (n = bitsOf x.aux 0 3) ∧ ((s.me.slot n).st = .ended) ∧ (Token.stream n ∈ s.me.tokens) ∧ (c1 = (if (streamStatus s n).getLsbD 6 then s.me.raiseFlags flagEXC else s.me)) ∧ (scalarWrite { c1.setSlot n { st := .free, eng := 0, ctx := 0 } with tokens := c1.tokens.erase (.stream n), oldWords := [] } x.d (streamStatus s n) = some c2)) ∧
    (∃ (x : FormS3) (s : State) (c : Core), (Issues (.sstat x) s) ∧ (scalarWrite s.me x.d (streamStatus s (bitsOf x.aux 0 3)) = some c)) ∧
    (∃ (x : FormS3) (s : State) (st : SlotState) (k : StreamCtx) (c : Core), (Issues (.sstatCnt x) s) ∧ (st ≠ .free) ∧ (SlotHolds s (bitsOf x.aux 0 3) st k) ∧ (scalarWrite s.me x.d k.counters = some c)) ∧
    (∃ (s : State) (n : Nat) (c : StreamCtx) (st : SlotState), (st ≠ .free) ∧ (SlotHolds s n st c)) ∧
    (∃ p ∈ ([(.sopen, [.opened, .run, .paused, .ended]), (.sgo, [.free, .ended]), (.sstop, [.free, .opened, .paused]), (.sstopClose, [.free]), (.swait, [.free])] : List ((FormS3 → Instr) × List SlotState)), ∃ (x : FormS3) (s : State) (n : Nat) (st : SlotState), (Issues (p.1 x) s) ∧ (s.inRpt = false) ∧ (s.midBody = false) ∧ (HandlesTraps s.me) ∧ (n = bitsOf x.aux 0 3) ∧ ((s.me.slot n).st = st) ∧ (st ∈ p.2)) :=
  ⟨⟨{ zS3 with d := 5 }, { stS .ended ctx0 with cores := [(0, { core0 with slots := [(0, { st := .ended, eng := 0, ctx := 0 })], tokens := [.stream 0] })] }, _, _, _, issues_of _ _ (by decide +kernel), rfl, by decide +kernel, by decide +kernel, rfl, rfl⟩,
    ⟨{ zS3 with d := 5 }, stS .run ctx0, _, issues_of _ _ (by decide +kernel), rfl⟩,
    ⟨{ zS3 with d := 5 }, stS .run ctx0, .run, _, _, issues_of _ _ (by decide +kernel), by decide, ⟨rfl, rfl⟩, rfl⟩,
    ⟨stS .run ctx0, 0, _, .run, by decide, ⟨rfl, rfl⟩⟩,
    ⟨_, .head _, { zS3 with d := 5 }, stS .run ctx0, _, .run, issues_of _ _ (by decide +kernel), rfl, rfl, ⟨rfl, rfl⟩, rfl, by decide +kernel, .tail _ (.head _)⟩⟩

/-- Hypotheses of CircularBuffersMove. -/
theorem witness_CircularBuffersMove :
    (∃ (x : FormS3) (s s1 : State) (n : Nat) (w : Word) (b : CbCtx), (Issues (.cbinit x) s) ∧ (n = bitsOf x.aux 0 3) ∧ ((∀ o, s.me.cb n = some o → o.count = 0 ∧ o.pos = 0)) ∧ (LocWords s (s.me.reg x.a.toNat).toNat 1 [w] s1) ∧ (bitsOf w 54 10 = 0) ∧ (b = { record := w, count := if b.producer then b.nent else 0, head := 0, tail := 0, pos := 0, err := none, exc := false }) ∧ ((b.producer = false → s.me.cbufBase ≤ b.base ∧ b.base + 16 * b.nent * b.esz ≤ s.me.cbufLim))) ∧
    (∃ (x : FormS3) (s : State) (n : Nat) (b : CbCtx) (c1 c2 : Core), (Issues (.cbwait x) s) ∧ (n = bitsOf x.aux 0 3) ∧ (s.me.cb n = some b) ∧ (b.producer = false) ∧ (bitsOf x.aux 4 12 + 1 ≤ b.nent) ∧ (b.err = none) ∧ (bitsOf x.aux 4 12 + 1 ≤ b.count) ∧ (c1 = (if b.exc then s.me.raiseFlags flagEXC else s.me)) ∧ (scalarWrite { buffered c1 n { b with exc := false } with oldWords := [] } x.d (entryAddress b) = some c2)) ∧
    (∃ (x : FormS3) (s : State) (n k : Nat) (b : CbCtx), (Issues (.cbrel x) s) ∧ (n = bitsOf x.aux 0 3) ∧ (k = bitsOf x.aux 4 12 + 1) ∧ (s.me.cb n = some b) ∧ (b.producer = false) ∧ (k ≤ b.count) ∧ (TagOk s.me b.ctag) ∧ (Room s.me 1)) ∧
    (∃ (x : FormS3) (s : State) (n k : Nat) (b : CbCtx) (v : Vec) (t : BitVec 72) (c : Core), (Issues (.cbput x) s) ∧ (n = bitsOf x.aux 0 3) ∧ (s.me.cb n = some b) ∧ (b.producer = true) ∧ (vectorRead s.me x.a false = some (v, t, c)) ∧ (TagOk s.me b.itag) ∧ (k = (if b.pos = 0 then 1 else 0) + (if (b.pos + 1) % b.esz = 0 then 1 else 0)) ∧ (k ≤ b.count) ∧ (Room s.me 2)) ∧
    (∃ (x : FormS3) (s : State) (c : Core), (Issues (.cbstat x) s) ∧ (scalarWrite s.me x.d (match s.me.cb (bitsOf x.aux 0 3) with | none => 0 | some b => .ofNat 64 (b.count % 2 ^ 13 + b.pos % 2 ^ 12 * 2 ^ 16 + (if b.producer then 2 ^ 28 else 0) + 2 ^ 29 + (if b.err = none then 0 else 2 ^ 32) + (if b.exc then 2 ^ 33 else 0))) = some c)) :=
  ⟨⟨{ zS3 with a := 1 }, st { core0 with cbufBase := 0 }, _, _, _, { record := 0, count := 0, head := 0, tail := 0, pos := 0, err := none, exc := false }, issues_of _ _ (by decide +kernel), rfl, fun o h => absurd (show (none : Option CbCtx) = some o from h) (by simp), ⟨by decide +kernel, by decide +kernel, words_of _ _ (by unfold Readable; decide +kernel)⟩, by decide +kernel, rfl, by decide +kernel⟩,
    ⟨{ zS3 with d := 5 }, st { core0 with cbs := [(0, { record := 0, count := 1, head := 0, tail := 0, pos := 0, err := none, exc := false })] }, _, _, _, _, issues_of _ _ (by decide +kernel), rfl, rfl, rfl, by decide +kernel, rfl, by decide +kernel, rfl, rfl⟩,
    ⟨{ zS3 with d := 0 }, st { core0 with cbs := [(0, { record := 0x0000080000000000, count := 1, head := 0, tail := 0, pos := 0, err := none, exc := false })] }, _, _, _, issues_of _ _ (by decide +kernel), rfl, rfl, rfl, rfl, by decide +kernel, ⟨by decide +kernel, by decide +kernel⟩, by unfold Room; decide +kernel⟩,
    ⟨{ zS3 with a := 1, ty := 2 }, st { core0 with cbs := [(0, { record := 0x0004001010030000, count := 4, head := 0, tail := 0, pos := 0, err := none, exc := false })] }, _, _, _, _, _, _, issues_of _ _ (by decide +kernel), rfl, rfl, rfl, rfl, ⟨by decide +kernel, by decide +kernel⟩, rfl, by decide +kernel, by unfold Room; decide +kernel⟩,
    ⟨{ zS3 with d := 5 }, st { core0 with cbs := [(0, { record := 0, count := 1, head := 0, tail := 0, pos := 0, err := none, exc := false })] }, _, issues_of _ _ (by decide +kernel), rfl⟩⟩

/-- Hypotheses of MigrationAndInvalidation. -/
theorem witness_MigrationAndInvalidation :
    (∃ (x : FormS3) (s s' : State) (a b : Word) (size k : Nat) (c : Core), (Issues (.smig x) s) ∧ (a = s.me.reg x.a.toNat) ∧ (b = s.me.reg x.b.toNat) ∧ (size = 2 ^ (12 + 9 * bitsOf x.aux 0 2)) ∧ (a.toNat % size = 0) ∧ (b.toNat % size = 0) ∧ (a.toNat < 2 ^ 57) ∧ (migrate s a.toNat b.toNat size = (s', some k)) ∧ (scalarWrite s'.me x.d (.ofNat 64 k) = some c)) ∧
    (∃ (x : FormS3) (s s' : State) (a b : Word) (size : Nat), (Issues (.smig x) s) ∧ (s.inRpt = false) ∧ (a = s.me.reg x.a.toNat) ∧ (b = s.me.reg x.b.toNat) ∧ (size = 2 ^ (12 + 9 * bitsOf x.aux 0 2)) ∧ (a.toNat % size = 0) ∧ (b.toNat % size = 0) ∧ (a.toNat < 2 ^ 57) ∧ ((scalarWrite s.me x.d 0).isSome = true) ∧ (migrate s a.toNat b.toNat size = (s', none))) ∧
    (∃ (s : State) (va npa size : Nat) (l : LeafEntry), (s.myMig va npa size = none) ∧ (leafEntry s va 5 s.myJob.2 = some l) ∧ (l.size = size)) ∧
    (∃ (s : State) (va npa size : Nat), (s.myMig va npa size = none) ∧ ((∀ l, leafEntry s va 5 s.myJob.2 = some l → l.size ≠ size))) ∧
    (∃ (s : State) (va npa size : Nat) (m : Migration) (l : LeafEntry) (bytes : List Byte) (s1 s2 : State), s.myMig va npa size = some m ∧ leafEntry s m.va 5 s.myJob.2 = some l ∧ extRead s (l.pa + m.copied) 256 = some bytes ∧ extWrite s (m.npa + m.copied) bytes = some s1 ∧ m.size ≤ m.copied + 256 ∧ extWrite (s1.dropMigs [s.cur]) l.addr (bytesOfNat 8 (l.entry - l.pa + m.npa / 4096 * 4096)) = some s2) ∧
    (∃ (x : FormS3) (s t : State) (a n : Nat) (g : PageRange), (Issues (.sinval x) s) ∧ (a = (s.me.reg x.a.toNat).toNat) ∧ (n = (s.me.reg x.b.toNat).toNat) ∧ (g = (if n = 0 then { lo := 0, hi := 2 ^ 45 } else { lo := a / 4096, hi := (a + n - 1) / 4096 + 1 })) ∧ (s.frozenPage s.myJob.1 (4096 * g.lo) (4096 * (g.hi - g.lo)) = false) ∧ (t = shootDown s s.myJob.1 s.myJob.2 g)) ∧
    (∃ (x : FormS3) (s : State) (a n : Nat) (g : PageRange), (Issues (.sinval x) s) ∧ (a = (s.me.reg x.a.toNat).toNat) ∧ (n = (s.me.reg x.b.toNat).toNat) ∧ (g = (if n = 0 then { lo := 0, hi := 2 ^ 45 } else { lo := a / 4096, hi := (a + n - 1) / 4096 + 1 })) ∧ (s.frozenPage s.myJob.1 (4096 * g.lo) (4096 * (g.hi - g.lo)) = true)) :=
  ⟨⟨{ zS3 with d := 5, a := 1, b := 2 }, { stP with cores := [(0, { core0 with prv := true, regs := [(1, 0x5000), (2, 0x3000)] })] }, (migrate ({ stP with cores := [(0, { core0 with prv := true, regs := [(1, 0x5000), (2, 0x3000)] })] }) 0x5000 0x3000 4096).1, _, _, _, 1, _, issues_of _ _ (by decide +kernel), rfl, rfl, rfl, by decide +kernel, by decide +kernel, by decide +kernel, Prod.ext rfl (by decide +kernel), rfl⟩,
    ⟨{ zS3 with d := 5, a := 1, b := 2 }, { stP with cores := [(0, { core0 with prv := true, regs := [(1, 0x1000), (2, 0x3000)] })] }, (migrate ({ stP with cores := [(0, { core0 with prv := true, regs := [(1, 0x1000), (2, 0x3000)] })] }) 0x1000 0x3000 4096).1, _, _, _, issues_of _ _ (by decide +kernel), rfl, rfl, rfl, rfl, by decide +kernel, by decide +kernel, by decide +kernel, rfl, Prod.ext rfl (by decide +kernel)⟩,
    ⟨{ stP with cores := [(0, { core0 with prv := true, regs := [(1, 0x1000), (2, 0x3000)] })] }, 0x1000, 0x3000, 4096, _, rfl, get_of (by decide +kernel), rfl⟩,
    ⟨{ stP with cores := [(0, { core0 with prv := true, regs := [(1, 0x5000), (2, 0x3000)] })] }, 0x5000, 0x3000, 4096, rfl, fun _ h => absurd ((show leafEntry _ _ _ _ = none from by decide +kernel).symm.trans h) (by simp)⟩,
    ⟨{ stP with cores := [(0, { core0 with prv := true, regs := [(1, 0x1000), (2, 0x3000)] })], migs := [(0, { job := 0, va := 0x1000, npa := 0x3000, size := 4096, copied := 3840 })] }, 0x1000, 0x3000, 4096, _, _, _, _, _, get_of (by decide +kernel), get_of (by decide +kernel), get_of (by decide +kernel), get_of (by decide +kernel), by decide +kernel, get_of (by decide +kernel)⟩,
    ⟨{ zS3 with a := 1 }, st { core0 with prv := true }, _, _, _, _, issues_of _ _ (by decide +kernel), rfl, rfl, rfl, rfl, rfl⟩,
    ⟨{ zS3 with a := 1 }, { stP with cores := [(0, { core0 with prv := true, regs := [(1, 0x1000), (2, 0x3000)] })], migs := [(0, { job := 0, va := 0x1000, npa := 0x3000, size := 4096, copied := 3840 })] }, _, _, _, issues_of _ _ (by decide +kernel), rfl, rfl, rfl, rfl⟩⟩

/-- Hypotheses of TensorTilesLoad. -/
theorem witness_TensorTilesLoad :
    (∃ (x : FormT) (s : State) (a : Word) (kind ncol : Nat) (bs : List BxBlock) (s1 : State) (t : Tensor), (Issues (.tldb x) s) ∧ (kind = bfKind x.bf.toNat) ∧ (ncol = bitsOf x.imm 0 6) ∧ (a = s.me.reg x.a.toNat) ∧ (TensorLoc s.me a ((ncol + 7) / 8 * (16 * bxWidth kind + 16))) ∧ (readBlocks a.toNat kind (List.range ncol) s = some (bs, s1)) ∧ (t = (s.me.tensor.setColumns kind x.bt.toNat 0 bs).setColumns kind x.bt.toNat ncol (List.replicate (32 - ncol) bxZero))) ∧
    (∃ (x : FormT) (s : State) (kind ncol : Nat) (c : Core), (Issues (.tldbq x) s) ∧ (kind = bfKind x.bf.toNat) ∧ (ncol = bitsOf x.imm 0 6) ∧ (tileSteps kind x.bt.toNat (x.a.toNat - 24) ncol (ncol - s.progress) s.progress s.me = some c)) :=
  ⟨⟨{ zT with a := 1, bf := 2, imm := 1 }, st core0, _, _, _, _, _, _, issues_of _ _ (by decide +kernel), rfl, rfl, rfl, by unfold TensorLoc TensorRange; decide +kernel, get_pair (by decide +kernel), rfl⟩,
    ⟨{ zT with a := 24, bf := 2, imm := 1 }, st { core0 with router := { core0.router with inq := [(0, [mkFlit 6 0 false false 0 0 0 5 77])] } }, _, _, _, issues_of _ _ (by decide +kernel), rfl, rfl, rfl⟩⟩

/-- Hypotheses of TensorColumnsReadBack. -/
theorem witness_TensorColumnsReadBack :
    (∃ kind slot n : Nat, (kind = 0 ∧ slot < 16 ∨ kind = 2 ∧ slot < 8) ∧ n < 32 ∧ ∃ slot' n' : Nat, n' < 32 ∧ (slot', n') ≠ (slot, n)) :=
  ⟨2, 7, 31, by decide, by decide, 6, 31, by decide, by decide⟩

/-- Hypotheses of TensorOperationsComplete. -/
theorem witness_TensorOperationsComplete :
    (∃ (x : FormT) (s s1 t : State) (others : List Nat), (Issues (.tmac x) s) ∧ (GangStarts s x (wordOf (.tmac x)) 1 others s1) ∧ (opDone (wordOf (.tmac x)) others (registerA x) 1 s1 = some t)) ∧
    (∃ (x : FormT) (s s1 t : State) (others : List Nat) (cnt : Nat), (Issues (.tmacq x) s) ∧ (cnt = bitsOf x.imm 0 5) ∧ (GangStarts s x (wordOf (.tmacq x)) cnt others s1) ∧ (opDone (wordOf (.tmacq x)) others (queueA x cnt) cnt s1 = some t)) ∧
    (∃ (x : FormT) (s s1 t : State) (others : List Nat) (cnt n : Nat) (a : Word), (Issues (.tmacl x) s) ∧ (cnt = bitsOf x.imm 0 5) ∧ (a = s.me.reg x.a.toNat) ∧ (n = (blockOffsets x.af.toNat (cnt - 1)).2 + 2) ∧ (TensorRange s.me a n) ∧ (GangStarts s x (wordOf (.tmacl x)) cnt others s1) ∧ ((∀ l ∈ others, l ≠ s.cur)) ∧ (opDone (wordOf (.tmacl x)) others (locA x a.toNat) cnt s1 = some t)) :=
  ⟨⟨{ zT with a := 1, af := 2, bf := 2 }, st { core0 with vtags := [(1, 0x600000000)] }, _, _, _, issues_of _ _ (by decide +kernel), .inl ⟨rfl, rfl, rfl⟩, rfl⟩,
    ⟨{ zT with a := 24, af := 2, bf := 2, imm := 1 }, st { core0 with router := { core0.router with inq := [(0, [mkFlit 6 0 false false 0 0 0 5 77])] } }, _, _, _, _, issues_of _ _ (by decide +kernel), rfl, .inl ⟨rfl, rfl, rfl⟩, rfl⟩,
    ⟨{ zT with a := 1, af := 2, bf := 2, imm := 1 }, st core0, _, _, [], _, _, _, issues_of _ _ (by decide +kernel), rfl, rfl, rfl, by unfold TensorRange; decide +kernel, .inl ⟨rfl, rfl, rfl⟩, by simp, rfl⟩⟩

/-- Hypotheses of GangsForm. -/
theorem witness_GangsForm :
    (∃ (x : FormT) (s : State), (Issues (.tgang x) s) ∧ (x.gn = 0) ∧ (bitsOf x.imm 0 3 ≤ s.me.coreRx.toNat % 8)) ∧
    (∃ (x : FormT) (s : State) (r : Region) (p g head : Nat) (ls : List Nat), (Issues (.tgang x) s) ∧ (g = x.gn.toNat) ∧ (g ≠ 0) ∧ (p = bitsOf x.imm 0 3) ∧ (p ≤ s.me.coreRx.toNat % 8) ∧ (s.me.coreRx.toNat % 8 - p + g ≤ 7) ∧ (s.regionOf s.cur = some r) ∧ (head = r.roleOf s.cur - p) ∧ (gangRoles s s.cur p g = some ls) ∧ (ls.Nodup) ∧ ((∀ k, ls[k]? = some s.cur ↔ k = p)) ∧ ((∀ l ∈ ls, l ≠ s.cur → (s.core l).tensor.join = some (head, g)))) :=
  ⟨⟨{ zT with gn := 0 }, st core0, issues_of _ _ (by decide +kernel), rfl, by decide +kernel⟩,
    ⟨{ zT with gn := 1 }, { st core0 with cores := [(0, core0), (1, { core0 with coreRx := 1, tensor := { Tensor.reset with join := some (0, 1) } })], regions := [{ bareRegion with w := 2, bind := [0, 1], ports := [0, 0] }] }, _, 0, 1, 0, [0, 1], issues_of _ _ (by decide +kernel), rfl, by decide, rfl, by decide +kernel, by decide +kernel, rfl, rfl, rfl, by decide, (show ∀ k, ([0, 1] : List Nat)[k]? = some 0 ↔ k = 0 from fun k => by rcases k with _ | _ | k <;> simp), by decide +kernel⟩⟩

/-- Hypotheses of AccumulatorResults. -/
theorem witness_AccumulatorResults :
    (∃ (x : FormT) (s : State), (Issues (.tclr x) s)) ∧
    (∃ (x : FormT) (s : State) (d a : Nat) (r : Nat → Ba40Sum), (Issues (.tadd x) s) ∧ (d = x.tile.toNat) ∧ (a = x.a.toNat) ∧ (AccClean s.me d) ∧ (AccClean s.me a) ∧ ((∀ h, r h = addBa40 (s.me.tensor.acc d h) (s.me.tensor.acc a h)))) ∧
    (∃ (x : FormT) (s : State) (v : Word) (c : Core), (Issues (.tnorm x) s) ∧ (AccClean s.me x.tile.toNat) ∧ (scalarRead s.me x.a = some (v, c)) ∧ (-32768 ≤ v.toInt) ∧ (v.toInt ≤ 32767)) ∧
    (∃ (x : FormT) (s : State) (e : Int), (Issues (.tnormMax x) s) ∧ (AccClean s.me x.tile.toNat) ∧ ((∃ h < 2, (s.me.tensor.acc x.tile.toNat h).isZero = false ∧ (s.me.tensor.acc x.tile.toNat h).exp = e)) ∧ ((∀ h < 2, (s.me.tensor.acc x.tile.toNat h).isZero = false → (s.me.tensor.acc x.tile.toNat h).exp ≤ e))) ∧
    (∃ (x : FormT) (s : State), (Issues (.tnormMax x) s) ∧ (AccClean s.me x.tile.toNat) ∧ ((∀ h < 2, (s.me.tensor.acc x.tile.toNat h).isZero = true))) ∧
    (∃ (x : FormT) (s : State) (hs : List Nat) (t : Tensor), (Issues (.tmovTt x) s) ∧ (hs = (namedHalves x).drop s.progress) ∧ ((∀ h ∈ hs, HalfClean s.me x.a.toNat h)) ∧ (t = hs.foldl (fun t' h => t'.setAcc x.tile.toNat h (s.me.tensor.acc x.a.toNat h)) s.me.tensor)) ∧
    (∃ (x : FormT) (s s1 : State) (a : Word) (bytes : List Byte), (Issues (.tlda x) s) ∧ (a = s.me.reg x.a.toNat) ∧ (TensorLoc s.me a 176) ∧ (readBytes 8 ((List.range 22).map fun k => a.toNat + 8 * k) s = some (bytes, s1))) ∧
    (∃ (x : FormT) (s : State) (c : Core), (Issues (.texp x) s) ∧ (AccClean s.me x.tile.toNat) ∧ (scalarWrite s.me x.d (expWord (s.me.tensor.acc x.tile.toNat 0) (s.me.tensor.acc x.tile.toNat 1)) = some c)) :=
  ⟨⟨{ zT with a := 1 }, st core0, issues_of _ _ (by decide +kernel)⟩,
    ⟨{ zT with a := 1 }, st { core0 with tensor := { Tensor.reset with accs := [(0, { elems := [1], exp := 0 })] } }, _, _, _, issues_of _ _ (by decide +kernel), rfl, rfl, by unfold AccClean; decide +kernel, by unfold AccClean; decide +kernel, fun _ => rfl⟩,
    ⟨{ zT with a := 2 }, st { core0 with tensor := { Tensor.reset with accs := [(0, { elems := [1], exp := 0 })] } }, _, _, issues_of _ _ (by decide +kernel), by unfold AccClean; decide +kernel, rfl, by decide +kernel, by decide +kernel⟩,
    ⟨{ zT with a := 1 }, st { core0 with tensor := { Tensor.reset with accs := [(0, { elems := [1], exp := 0 })] } }, 0, issues_of _ _ (by decide +kernel), by unfold AccClean; decide +kernel, by decide +kernel, by decide +kernel⟩,
    ⟨{ zT with a := 1 }, st core0, issues_of _ _ (by decide +kernel), by unfold AccClean; decide +kernel, by decide +kernel⟩,
    ⟨{ zT with a := 1 }, st { core0 with tensor := { Tensor.reset with accs := [(0, { elems := [1], exp := 0 })] } }, _, _, issues_of _ _ (by decide +kernel), rfl, by unfold HalfClean; decide +kernel, rfl⟩,
    ⟨{ zT with a := 1 }, st core0, _, _, _, issues_of _ _ (by decide +kernel), rfl, by unfold TensorLoc TensorRange; decide +kernel, get_pair (by decide +kernel)⟩,
    ⟨{ zT with d := 5 }, st { core0 with tensor := { Tensor.reset with accs := [(0, { elems := [1], exp := 0 })] } }, _, issues_of _ _ (by decide +kernel), by unfold AccClean; decide +kernel, rfl⟩⟩

/-- Hypotheses of AccumulatorTransfers. -/
theorem witness_AccumulatorTransfers :
    (∃ (x : FormT) (s : State) (hs : List Nat), (Issues (.tmovOut x) s) ∧ (hs = (namedHalves x).drop s.progress) ∧ ((∀ h ∈ hs, HalfClean s.me x.tile.toNat h)) ∧ (TagOk s.me (s.me.qtag (x.d.toNat - 24))) ∧ (Room s.me (5 * hs.length))) ∧
    (∃ (x : FormT) (s s1 : State) (h : Nat) (rest : List Nat), (Issues (.tmovOut x) s) ∧ ((namedHalves x).drop s.progress = h :: rest) ∧ (rest ≠ []) ∧ ((∀ k ∈ h :: rest, HalfClean s.me x.tile.toNat k)) ∧ (TagOk s.me (s.me.qtag (x.d.toNat - 24))) ∧ (Room s.me 5) ∧ (¬Room s.me 10) ∧ (s1 = (progressed (s.setMe (s.me.pushed (ba40Flits (s.me.tensor.acc x.tile.toNat h) (excNow s.me) (.ofNat 7 (s.me.qtag (x.d.toNat - 24)))))) (s.progress + 1)).markIssued)) ∧
    (∃ (x : FormT) (s : State) (c : Core), (Issues (.tmovIn x) s) ∧ (tileIn x ((namedHalves x).length - s.progress) s.progress s.me = some c)) ∧
    (∃ (x : FormT) (s : State) (a : Word) (bytes : List Byte) (stores : List SbEntry), (Issues (.tsta x) s) ∧ (a = s.me.reg x.a.toNat) ∧ (TensorLoc s.me a 176) ∧ (AccClean s.me x.tile.toNat) ∧ (bytes = (s.me.tensor.acc x.tile.toNat 0).record ++ (s.me.tensor.acc x.tile.toNat 1).record) ∧ (stores = ((List.range 22).drop s.progress).map (fun k => SbEntry.store s.cur (a.toNat + 8 * k) ((bytes.drop (8 * k)).take 8))) ∧ (s.me.sb.length + stores.length ≤ 16)) ∧
    (∃ (x : FormT) (s : State) (a : Word) (bytes : List Byte) (stores : List SbEntry) (k : Nat), (Issues (.tsta x) s) ∧ (a = s.me.reg x.a.toNat) ∧ (TensorLoc s.me a 176) ∧ (AccClean s.me x.tile.toNat) ∧ (bytes = (s.me.tensor.acc x.tile.toNat 0).record ++ (s.me.tensor.acc x.tile.toNat 1).record) ∧ (stores = ((List.range 22).drop s.progress).map (fun k => SbEntry.store s.cur (a.toNat + 8 * k) ((bytes.drop (8 * k)).take 8))) ∧ (k = 16 - s.me.sb.length) ∧ (s.me.sb.length ≤ 16) ∧ (k < stores.length)) ∧
    (∃ (x : FormT) (s : State) (kind fmt sl h : Nat) (p : BxBlock × BitVec 7) (r : Quad × BitVec 36), (Issues (.tout x) s) ∧ (x.d.toNat < 24) ∧ (x.imm.getLsbD 3 = false) ∧ (kind = x.af.toNat) ∧ ((∀ h ∈ namedHalves x, HalfClean s.me x.tile.toNat h)) ∧ (fmt = bxFmt kind s.me.tec) ∧ (p = bxPack kind s.me.tec (s.me.tensor.acc x.tile.toNat (bitsOf x.imm 2 1)).values) ∧ (sl = bitsOf x.imm 0 2) ∧ (h = (if kind = 0 then sl / 2 else sl)) ∧ (r = packHalf kind fmt sl p.1 ((s.me.vreg x.d.toNat).extractLsb' (128 * h) 128) ((s.me.vtag x.d.toNat).extractLsb' (36 * h) 36))) ∧
    (∃ (x : FormT) (s : State) (kind fmt : Nat) (ps : List (BxBlock × BitVec 7)) (c : Core), (Issues (.tout x) s) ∧ (24 ≤ x.d.toNat) ∧ (kind = x.af.toNat) ∧ ((∀ h ∈ namedHalves x, HalfClean s.me x.tile.toNat h)) ∧ (fmt = bxFmt kind s.me.tec) ∧ (ps = (namedHalves x).map (fun h => bxPack kind s.me.tec (s.me.tensor.acc x.tile.toNat h).values)) ∧ (TagOk s.me (s.me.qtag (x.d.toNat - 24))) ∧ (Room s.me (if kind = 0 then 1 else ps.length)) ∧ (c = s.me.raiseFlags (ps.foldl (fun f p => f ||| p.2) 0))) :=
  ⟨⟨{ zT with d := 24 }, st { core0 with tensor := { Tensor.reset with accs := [(0, { elems := [1], exp := 0 })] } }, _, issues_of _ _ (by decide +kernel), rfl, by unfold HalfClean; decide +kernel, ⟨by decide +kernel, by decide +kernel⟩, by unfold Room; decide +kernel⟩,
    ⟨{ zT with d := 24, imm := 8 }, st { core0 with tensor := { Tensor.reset with accs := [(0, { elems := [1], exp := 0 })] } }, _, 0, [1], issues_of _ _ (by decide +kernel), by decide +kernel, by decide, by unfold HalfClean; decide +kernel, ⟨by decide +kernel, by decide +kernel⟩, by unfold Room; decide +kernel, by unfold Room; decide +kernel, rfl⟩,
    ⟨{ zT with a := 24 }, st { core0 with router := { core0.router with inq := [(0, [mkFlit 10 0 false false 0 0 0 5 77, mkFlit 10 0 false false 0 0 0 5 77, mkFlit 10 0 false false 0 0 0 5 77, mkFlit 10 0 false false 0 0 0 5 77, mkFlit 10 0 false false 0 0 0 5 77])] } }, (tileIn { zT with a := 24 } 1 0 (st { core0 with router := { core0.router with inq := [(0, [mkFlit 10 0 false false 0 0 0 5 77, mkFlit 10 0 false false 0 0 0 5 77, mkFlit 10 0 false false 0 0 0 5 77, mkFlit 10 0 false false 0 0 0 5 77, mkFlit 10 0 false false 0 0 0 5 77])] } }).me).get (by decide +kernel), issues_of _ _ (by decide +kernel), (Option.some_get _).symm⟩,
    ⟨{ zT with a := 1 }, st { core0 with progress := 10 }, _, _, _, issues_of _ _ (by decide +kernel), rfl, by unfold TensorLoc TensorRange; decide +kernel, by unfold AccClean; decide +kernel, rfl, rfl, by decide +kernel⟩,
    ⟨{ zT with a := 1 }, st core0, _, _, _, _, issues_of _ _ (by decide +kernel), rfl, by unfold TensorLoc TensorRange; decide +kernel, by unfold AccClean; decide +kernel, rfl, rfl, rfl, by decide +kernel, by decide +kernel⟩,
    ⟨{ zT with d := 5, af := 2 }, st { core0 with tensor := { Tensor.reset with accs := [(0, { elems := [1], exp := 0 })] } }, _, _, _, _, _, _, issues_of _ _ (by decide +kernel), by decide, rfl, rfl, by unfold HalfClean; decide +kernel, rfl, rfl, rfl, rfl, rfl⟩,
    ⟨{ zT with d := 24, af := 2 }, st { core0 with tensor := { Tensor.reset with accs := [(0, { elems := [1], exp := 0 })] } }, _, _, _, _, issues_of _ _ (by decide +kernel), by decide, rfl, by unfold HalfClean; decide +kernel, rfl, rfl, ⟨by decide +kernel, by decide +kernel⟩, by unfold Room; decide +kernel, rfl⟩⟩

/-- Hypotheses of GraphsLoad. -/
theorem witness_GraphsLoad :
    (∃ (x : FormL) (s s1 : State) (a : Word) (n : Nat) (bytes : List Byte) (words : List Word), (Issues (.lgl x) s) ∧ (a = s.me.reg x.a.toNat) ∧ (TensorLoc s.me a 8) ∧ (TensorLoc s.me a (8 + 8 * n)) ∧ (readBytes 8 ((List.range (n + 1)).map fun k => a.toNat + 8 * k) s = some (bytes, s1)) ∧ (words = (List.range (n + 1)).map (fun k => .ofNat 64 (natOfBytes ((bytes.drop (8 * k)).take 8)))) ∧ (n = bitsOf (words.headD 0) 16 10) ∧ ((∀ k ≤ n, imageWordOk s.me.lattice (graphSpec x) k (words.getD k 0) = true))) ∧
    (∃ (x : FormL) (s : State) (c : Core), (Issues (.lglq x) s) ∧ (imageSteps (graphSpec x) (x.a.toNat - 24) 513 s.me = some c) ∧ (c.lattice.loading ≠ []) ∧ (bitsOf (c.lattice.loading.headD 0) 16 10 < c.lattice.loading.length)) :=
  ⟨⟨{ zL with a := 1, fi := 2 }, st { core0 with lattice := { Lattice.reset with budget := 8 }, loc := [(0x202, 1), (0x20C, 0xC0), (0x20D, 0xFF), (0x20E, 0xC0), (0x20F, 0xFF)] }, _, _, 1, _, _, issues_of _ _ (by decide +kernel), rfl, by unfold TensorLoc TensorRange; decide +kernel, by unfold TensorLoc TensorRange; decide +kernel, get_pair (by decide +kernel), rfl, by decide +kernel, by decide +kernel⟩,
    ⟨{ zL with a := 24, fi := 2 }, st { core0 with lattice := { Lattice.reset with budget := 8 }, router := { core0.router with inq := [(0, [mkFlit 1 0 false false 0 0 0 5 0xFFC0FFC0000000000000000000010000])] } }, _, issues_of _ _ (by decide +kernel), rfl, by decide +kernel, by decide +kernel⟩⟩

/-- Hypotheses of LatticeRunsBlocks. -/
theorem witness_LatticeRunsBlocks :
    (∃ (x : FormL) (s : State) (c : Core), (Issues (.lrun x) s) ∧ (¬(x.a = 0 ∧ s.me.lattice.lsel.getLsbD 63 = true)) ∧ (Loaded s.me x.pg.toNat) ∧ ((24 ≤ x.d.toNat → TagOk s.me (s.me.qtag (x.d.toNat - 24)))) ∧ (lrunSteps x (bitsOf x.imm 0 5) (bitsOf x.imm 0 5 - s.progress) s.progress s.me = some c)) ∧
    (∃ (x : FormL) (s : State) (c : Core) (f : Flit) (pop : Core → Core), (Issues (.lrun x) s) ∧ (¬(x.a = 0 ∧ s.me.lattice.lsel.getLsbD 63 = true)) ∧ (Loaded s.me x.pg.toNat) ∧ (24 ≤ x.d.toNat) ∧ (TagOk s.me (s.me.qtag (x.d.toNat - 24))) ∧ (s.progress < bitsOf x.imm 0 5) ∧ (s.me.lattice.rest = []) ∧ (lrunHead x (lgdKind (s.me.lattice.graph x.pg.toNat)) s.me = some (f, pop)) ∧ (blockRun x (stepBlock (lgdKind (s.me.lattice.graph x.pg.toNat)) s.progress f) f.exc s.me = some c) ∧ (restPushed c = none)) ∧
    (∃ (x : FormL) (s : State) (b : BxBlock) (c1 c2 : Core), (Issues (.lrunv x) s) ∧ (Loaded s.me x.pg.toNat) ∧ ((lgdKind (s.me.lattice.graph x.pg.toNat) = 0 ∨ bitsOf x.imm 0 2 < 2)) ∧ ((24 ≤ x.d.toNat → TagOk s.me (s.me.qtag (x.d.toNat - 24)))) ∧ (s.progress = 0) ∧ (lrunvBlock x s.me = some b) ∧ ((if s.me.lattice.rest = [] then blockRun x b false s.me = some c1 else c1 = s.me)) ∧ (restPushed c1 = some c2)) :=
  ⟨⟨{ zL with a := 24, imm := 1 }, st { core0 with lattice := { Lattice.reset with budget := 8, lgd := [(0, 0x9000000000010000)], cells := [(0, 0xFFC0FFC000000000)] }, router := { core0.router with inq := [(0, [mkFlit 6 0 false false 0 0 0 5 77])] } }, _, issues_of _ _ (by decide +kernel), by decide, by unfold Loaded; decide +kernel, fun h => absurd h (by decide), rfl⟩,
    ⟨{ zL with a := 24, d := 24, imm := 0x301 }, st { core0 with lattice := { Lattice.reset with budget := 8, lgd := [(0, 0x9000000000010000)], cells := [(0, 0xFFC0FFC000000000)] }, router := { core0.router with inq := [(0, [mkFlit 6 0 false false 0 0 0 5 77])] } }, _, _, _, issues_of _ _ (by decide +kernel), by decide, by unfold Loaded; decide +kernel, by decide, ⟨by decide +kernel, by decide +kernel⟩, by decide +kernel, rfl, rfl, rfl, rfl⟩,
    ⟨{ zL with a := 1 }, st { core0 with lattice := { Lattice.reset with budget := 8, lgd := [(0, 0x9000000000010000)], cells := [(0, 0xFFC0FFC000000000)] }, vtags := [(1, 0x600000000)] }, _, _, _, issues_of _ _ (by decide +kernel), by unfold Loaded; decide +kernel, .inr (by decide), fun h => absurd h (by decide), rfl, rfl, rfl, rfl⟩⟩

/-- Hypotheses of LatticeControlResults. -/
theorem witness_LatticeControlResults :
    (∃ (x : FormL) (s : State), (Issues (.lsel x) s) ∧ (Loaded s.me x.pg.toNat) ∧ (TagOk s.me (bitsOf x.imm 0 7)) ∧ (s.me.lattice.streamOut = []) ∧ (s.me.lattice.streamAt = 0)) ∧
    (∃ (x : FormL) (s : State), (Issues (.lselOff x) s) ∧ (s.me.lattice.streamOut = []) ∧ (s.me.lattice.streamAt = 0)) ∧
    (∃ (x : FormL) (s : State), (Issues (.lbound x) s)) ∧
    (∃ (x : FormL) (s : State) (c : Core), (Issues (.lstatSt x) s) ∧ (scalarWrite (if x.imm.getLsbD 2 then relatticed s.me { s.me.lattice with rcnt := 0, scnt := 0 } else s.me) x.d (.ofNat 64 (s.me.lattice.rcnt.toNat + s.me.lattice.scnt.toNat * 2 ^ 16 + ((List.range 8).map fun p => if (s.me.lattice.owner p).isSome then 2 ^ (32 + p) else 0).sum + (if s.me.lattice.lsel.getLsbD 63 then 2 ^ 40 else 0) + s.me.lattice.inq.length * 2 ^ 44)) = some c)) ∧
    (∃ (x : FormL) (s : State) (v : Int) (c : Core), (Issues (.lstatTap x) s) ∧ (v = (match s.me.lattice.last with | some l => l.taps.getD x.ot.toNat 0 | none => 0)) ∧ (scalarWrite s.me x.d (.ofInt 64 v) = some c)) ∧
    (∃ (x : FormL) (s : State) (c : Core), (Issues (.lstatExp x) s) ∧ (scalarWrite s.me x.d (match s.me.lattice.last with | some l => .ofInt 64 (l.exp % 2 ^ 16 + 2 ^ 16) | none => 0) = some c)) ∧
    (∃ (x : FormL) (s : State) (t : Lattice), (Issues (.lfree x) s) ∧ ((∀ g, s.me.lattice.owner x.pg.toNat = some g → ¬(s.me.lattice.lsel.getLsbD 63 = true ∧ bitsOf s.me.lattice.lsel 10 3 = g))) ∧ (t = (match s.me.lattice.owner x.pg.toNat with | some g => s.me.lattice.freeGraph s.ticks g | none => s.me.lattice))) ∧
    (∃ (x : FormL) (s : State) (gs : List Nat), (Issues (.lfreeAll x) s) ∧ (gs = (List.range 8).filter (fun g => (s.me.lattice.graph g).getLsbD 63)) ∧ (¬(s.me.lattice.lsel.getLsbD 63 = true ∧ bitsOf s.me.lattice.lsel 10 3 ∈ gs))) ∧
    (∃ (x : FormL) (s : State) (a : Word) (digest : List Byte) (c : Core), (Issues (.lsum x) s) ∧ (a = s.me.reg x.a.toNat) ∧ (TensorLoc s.me a 32) ∧ (Loaded s.me x.pg.toNat) ∧ (s.me.lattice.poisonIn x.pg.toNat = none) ∧ (s.me.sb.length + 4 ≤ 16) ∧ (digest = sha256 (s.me.lattice.image x.pg.toNat)) ∧ (scalarWrite { s.me with sb := s.me.sb ++ (List.range 4).map (fun k => SbEntry.store s.cur (a.toNat + 8 * k) ((digest.drop (8 * k)).take 8)) } x.d (.ofNat 64 (bitsOf (s.me.lattice.graph x.pg.toNat) 16 10)) = some c)) :=
  ⟨⟨{ zL with imm := 1 }, st { core0 with lattice := { Lattice.reset with budget := 8, lgd := [(0, 0x9000000000010000)], cells := [(0, 0xFFC0FFC000000000)] } }, issues_of _ _ (by decide +kernel), by unfold Loaded; decide +kernel, ⟨by decide +kernel, by decide +kernel⟩, rfl, rfl⟩,
    ⟨zL, st { core0 with lattice := { Lattice.reset with budget := 8, lgd := [(0, 0x9000000000010000)], cells := [(0, 0xFFC0FFC000000000)] } }, issues_of _ _ (by decide +kernel), rfl, rfl⟩,
    ⟨{ zL with imm := 5 }, st { core0 with lattice := { Lattice.reset with budget := 8, lgd := [(0, 0x9000000000010000)], cells := [(0, 0xFFC0FFC000000000)] } }, issues_of _ _ (by decide +kernel)⟩,
    ⟨{ zL with d := 5, imm := 4 }, st { core0 with lattice := { Lattice.reset with budget := 8, lgd := [(0, 0x9000000000010000)], cells := [(0, 0xFFC0FFC000000000)] } }, _, issues_of _ _ (by decide +kernel), rfl⟩,
    ⟨{ zL with d := 5, imm := 1 }, st { core0 with lattice := { Lattice.reset with budget := 8, lgd := [(0, 0x9000000000010000)], cells := [(0, 0xFFC0FFC000000000)] } }, _, _, issues_of _ _ (by decide +kernel), rfl, rfl⟩,
    ⟨{ zL with d := 5, imm := 2 }, st { core0 with lattice := { Lattice.reset with budget := 8, lgd := [(0, 0x9000000000010000)], cells := [(0, 0xFFC0FFC000000000)] } }, _, issues_of _ _ (by decide +kernel), rfl⟩,
    ⟨zL, st { core0 with lattice := { Lattice.reset with budget := 8, lgd := [(0, 0x9000000000010000)], cells := [(0, 0xFFC0FFC000000000)] } }, _, issues_of _ _ (by decide +kernel), fun g h => by have : g = 0 := (Option.some.inj h).symm; subst this; decide +kernel, rfl⟩,
    ⟨zL, st { core0 with lattice := { Lattice.reset with budget := 8, lgd := [(0, 0x9000000000010000)], cells := [(0, 0xFFC0FFC000000000)] } }, _, issues_of _ _ (by decide +kernel), rfl, by decide +kernel⟩,
    ⟨{ zL with d := 5, a := 1 }, st { core0 with lattice := { Lattice.reset with budget := 8, lgd := [(0, 0x9000000000010000)], cells := [(0, 0xFFC0FFC000000000)] } }, _, _, _, issues_of _ _ (by decide +kernel), rfl, by unfold TensorLoc TensorRange; decide +kernel, by unfold Loaded; decide +kernel, rfl, by decide +kernel, rfl, rfl⟩⟩

/-- Hypotheses of LatticeStreamRuns. -/
theorem witness_LatticeStreamRuns :
    (∃ (lid : Nat) (s : State) (c : Core) (f : Flit) (fs : List Flit) (n : Nat), (lid < coreCount) ∧ (c = s.core lid) ∧ (s.coreLive lid = true) ∧ (c.live = true) ∧ (c.lattice.streamOut = f :: fs) ∧ (n = (if f.kind = 0 then 5 else 1)) ∧ (Room c n)) ∧
    (∃ (lid : Nat) (s : State) (c : Core) (f : Flit) (rest : List Flit), (lid < coreCount) ∧ (c = s.core lid) ∧ (s.coreLive lid = true) ∧ (c.live = true) ∧ (c.lattice.streamOut = []) ∧ (c.lattice.lsel.getLsbD 63 = true) ∧ (c.lattice.inq = f :: rest) ∧ (f.kind = 3 ∨ f.kind = 6)) ∧
    (∃ (lid : Nat) (s : State) (c : Core) (f : Flit) (rest : List Flit), (lid < coreCount) ∧ (c = s.core lid) ∧ (s.coreLive lid = true) ∧ (c.live = true) ∧ (c.lattice.streamOut = []) ∧ (c.lattice.lsel.getLsbD 63 = true) ∧ (c.lattice.inq = f :: rest) ∧ (f.kind = 0) ∧ (streamReject c f = none)) ∧
    (∃ (c : Core) (f : Flit) (rest : List Flit) (b : BxBlock) (r : BlockRun) (n : Nat), (n = c.lattice.streamAt) ∧ ((bxBlocks (lgdKind (c.lattice.graph (bitsOf c.lattice.lsel 10 3))) f.payload f.scale)[n]? = some b) ∧ (r = runBlock c.lattice (bitsOf c.lattice.lsel 10 3) b c.tec)) ∧
    (∃ (lid : Nat) (s : State) (c : Core) (f : Flit) (rest : List Flit) (r : Region), (lid < coreCount) ∧ (c = s.core lid) ∧ (c.live = true) ∧ (s.regionOf lid = some r) ∧ (r.st = .live) ∧ (FirstFault r lid) ∧ (c.lattice.streamOut = []) ∧ (c.lattice.lsel.getLsbD 63 = true) ∧ (c.lattice.inq = f :: rest) ∧ (f.kind ≠ 0) ∧ (f.kind ≠ 3) ∧ (f.kind ≠ 6)) :=
  ⟨⟨0, st { core0 with lattice := { Lattice.reset with budget := 8, lgd := [(0, 0x9000000000010000)], cells := [(0, 0xFFC0FFC000000000)], streamOut := [mkFlit 15 3 false false 0 0 0 5 1] } }, _, mkFlit 15 3 false false 0 0 0 5 1, [], 1, by decide, rfl, rfl, rfl, rfl, by decide +kernel, by unfold Room; decide +kernel⟩,
    ⟨0, st { core0 with lattice := { Lattice.reset with budget := 8, lgd := [(0, 0x9000000000010000)], cells := [(0, 0xFFC0FFC000000000)], lsel := 0x8000000000000001, inq := [mkFlit 15 3 false false 0 0 0 5 1] } }, _, mkFlit 15 3 false false 0 0 0 5 1, [], by decide, rfl, rfl, rfl, rfl, rfl, rfl, .inl (by decide +kernel)⟩,
    ⟨0, st { core0 with lattice := { Lattice.reset with budget := 8, lgd := [(0, 0x9000000000010000)], cells := [(0, 0xFFC0FFC000000000)], lsel := 0x8000000000000001, inq := [mkFlit 6 0 false false 0 0 0 5 77] } }, _, mkFlit 6 0 false false 0 0 0 5 77, [], by decide, rfl, rfl, rfl, rfl, rfl, rfl, by decide +kernel, by decide +kernel⟩,
    ⟨(st { core0 with lattice := { Lattice.reset with budget := 8, lgd := [(0, 0x9000000000010000)], cells := [(0, 0xFFC0FFC000000000)], lsel := 0x8000000000000001, inq := [mkFlit 6 0 false false 0 0 0 5 77] } }).me, mkFlit 6 0 false false 0 0 0 5 77, [], _, _, _, rfl, rfl, rfl⟩,
    ⟨0, st { core0 with lattice := { Lattice.reset with budget := 8, lgd := [(0, 0x9000000000010000)], cells := [(0, 0xFFC0FFC000000000)], lsel := 0x8000000000000001, inq := [mkFlit 0 1 false false 0 0 0 5 1] } }, _, mkFlit 0 1 false false 0 0 0 5 1, [], _, by decide, rfl, rfl, rfl, rfl, by unfold FirstFault; decide +kernel, rfl, rfl, rfl, by decide +kernel, by decide +kernel, by decide +kernel⟩⟩

/-- Hypotheses of WaitTimeoutTraps. -/
theorem witness_WaitTimeoutTraps :
    (∃ (lid : Nat) (s : State) (c : Core) (w : Wait), (lid < coreCount) ∧ (s.runsTask lid = true) ∧ (c = s.core lid) ∧ (c.spec = none) ∧ (c.midBody = false) ∧ (c.rptWait = none) ∧ (c.wait = some w) ∧ (WaitedOut s lid w) ∧ (HandlesTraps c)) :=
  ⟨0, { st { core0 with wait := some { start := 0, val := 0x01, timed := true } } with cycle := 0x8000000 }, _, _, by decide, rfl, rfl, rfl, rfl, rfl, rfl, ⟨rfl, rfl, fun h => absurd h (by decide), by decide +kernel⟩, ⟨rfl, rfl⟩⟩

/-- Hypotheses of TaskEventsHappen. -/
theorem witness_TaskEventsHappen :
    (∃ (lid : Nat) (s : State) (c : Core) (i n : Nat), (lid < coreCount) ∧ (s.picks lid = true) ∧ (c = s.core lid) ∧ (i < 16) ∧ (n = c.trigAt i) ∧ (c.ready n = true) ∧ ((∀ j < i, c.ready (c.trigAt j) = false)) ∧ ((c.unbound = [] ∨ c.lastSource ≠ some true))) ∧
    (∃ (lid : Nat) (s : State) (c : Core) (k : Nat) (rest : List Nat) (m : Msg), (lid < coreCount) ∧ (s.picks lid = true) ∧ (c = s.core lid) ∧ (c.unbound = k :: rest) ∧ (Table.find c.inbox k = some m) ∧ ((c.firstReady = none ∨ c.lastSource = some true))) ∧
    (∃ (lid : Nat) (s : State) (c : Core) (h a b d : Flit) (k : Nat), (lid < coreCount) ∧ (s.coreLive lid = true) ∧ (c = s.core lid) ∧ (c.live = true) ∧ (c.noTasks = false) ∧ (c.router.asm = [h, a, b, d]) ∧ (k < 16) ∧ (Table.find c.inbox k = none) ∧ ((∀ j < k, Table.find c.inbox j ≠ none))) ∧
    (∃ (lid : Nat) (s s1 : State) (x : FormS3) (a : Word) (c1 c2 : Core), (lid < coreCount) ∧ (s.canIssue lid = true) ∧ ((s.core lid).wait.isSome = true) ∧ (decodeWord (s.wordAt lid) = .ok (.waitUntil x)) ∧ (s1 = { s with cur := lid, inRpt := false }) ∧ (Issues (.waitUntil x) s1) ∧ (scalarRead s1.me x.a = some (a, c1)) ∧ (a.toNat ≤ s.cycle.toNat) ∧ (scalarWrite c1 x.d s.cycle = some c2)) :=
  ⟨⟨0, st { core0 with trig := [(2, 0x8000000000000200)] }, _, 1, _, by decide, rfl, rfl, by decide, rfl, rfl, by decide +kernel, by decide +kernel⟩,
    ⟨0, st { core0 with inbox := [(0, { hdr := 0x300, words := [] })], unbound := [0] }, _, _, _, _, by decide, rfl, rfl, rfl, rfl, by decide +kernel⟩,
    ⟨0, st { core0 with router := { core0.router with asm := [mkFlit 0 2 false false 0 0 0 5 0x300, mkFlit 0 2 false false 0 0 0 5 0x300, mkFlit 0 2 false false 0 0 0 5 0x300, mkFlit 0 2 false false 0 0 0 5 0x300] } }, _, _, _, _, _, 0, by decide, rfl, rfl, rfl, rfl, rfl, by decide, rfl, by decide⟩,
    ⟨0, { st { core0 with wait := some { start := 0, val := 0x05, timed := true }, loc := [(0x103, 0x0C), (0x107, 0x37)] } with cycle := 7 }, _, { zS3 with sf := 3 }, _, _, _, by decide, rfl, rfl, by decide +kernel, rfl, issues_of _ _ (by decide +kernel), rfl, by decide +kernel, rfl⟩⟩

/-- Hypotheses of BarriersComplete. -/
theorem witness_BarriersComplete :
    (∃ (x : FormB) (s t : State) (m : Member) (n : Nat) (g : Group), (Issues (.barr x) s) ∧ (ChanOk s x.ch.toNat m n g) ∧ (ArrivalReady s x.ch.toNat g) ∧ (t = contributed s { s.me with oldWords := [] } x.ch.toNat m n g .barrier (s.me.flag x.c.toNat) (if s.me.flag x.c.toNat then 1 else 0))) ∧
    (∃ p ∈ ([(.bwait, false), (.barw, true)] : List ((FormB → Instr) × Bool)), ∃ (x : FormB) (s : State) (m : Member) (n : Nat) (g : Group) (w : Word) (c : Core), (Issues (p.1 x) s) ∧ ((p.2 = true → s.progress ≠ 0)) ∧ (ChanOk s x.ch.toNat m n g) ∧ ((s.me.chan x.ch.toNat).out ≠ some .barrier) ∧ ((s.me.chan x.ch.toNat).barrier = some w) ∧ (scalarWrite s.me x.d w = some c)) ∧
    (∃ (x : FormB) (s t : State) (m : Member) (n : Nat) (g : Group), (Issues (.barw x) s) ∧ (s.progress = 0) ∧ (ChanOk s x.ch.toNat m n g) ∧ (ArrivalReady s x.ch.toNat g) ∧ (t = contributed s { s.me with oldWords := [] } x.ch.toNat m n g .barrier (s.me.flag x.c.toNat) (if s.me.flag x.c.toNat then 1 else 0))) :=
  ⟨⟨zB, stG coreG grp, _, _, _, _, issues_of _ _ (by decide +kernel), ⟨by decide +kernel, rfl, rfl, rfl, rfl⟩, ⟨rfl, by decide +kernel⟩, rfl⟩,
    ⟨_, .head _, { zB with d := 5 }, stG { coreG with chans := [(0, { Chan.reset with barrier := some 9 })] } grp, _, _, _, _, _, issues_of _ _ (by decide +kernel), by decide, ⟨by decide +kernel, rfl, rfl, rfl, rfl⟩, by decide +kernel, rfl, rfl⟩,
    ⟨zB, stG coreG grp, _, _, _, _, issues_of _ _ (by decide +kernel), rfl, ⟨by decide +kernel, rfl, rfl, rfl, rfl⟩, ⟨rfl, by decide +kernel⟩, rfl⟩⟩

/-- Hypotheses of ExcusalsComplete. -/
theorem witness_ExcusalsComplete :
    (∃ (x : FormB) (s t : State) (m : Member) (n : Nat) (g : Group), (Issues (.bexcuse x) s) ∧ (s.progress = 0) ∧ (ChanOk s x.ch.toNat m n g) ∧ (¬(g.inEp = true ∧ g.contributed m = true)) ∧ ((s.me.chan x.ch.toNat).one = none) ∧ (t = (regrouped s n (if g.inEp then { g with excused := m :: g.excused.filter (· != m) } else { g with once := m :: g.once.filter (· != m) })).setMe (s.me.setChan x.ch.toNat { s.me.chan x.ch.toNat with one := some g.seq, excuse := none }))) ∧
    (∃ (x : FormB) (s : State) (m : Member) (n : Nat) (g : Group) (w : Word) (c : Core), (Issues (.bexcuse x) s) ∧ (s.progress ≠ 0) ∧ (ChanOk s x.ch.toNat m n g) ∧ ((s.me.chan x.ch.toNat).excuse = some w) ∧ (w.getLsbD 19 = false) ∧ (scalarWrite s.me x.d w = some c)) ∧
    (∃ (x : FormB) (s : State) (m : Member) (n : Nat) (g : Group) (w : Word), (Issues (.bexcuse x) s) ∧ (s.inRpt = false) ∧ (s.midBody = false) ∧ (HandlesTraps s.me) ∧ (s.progress ≠ 0) ∧ (ChanOk s x.ch.toNat m n g) ∧ ((s.me.chan x.ch.toNat).excuse = some w) ∧ (w.getLsbD 19 = true)) ∧
    (∃ (x : FormB) (s : State) (m : Member) (n : Nat) (g : Group), (Issues (.bgleave x) s) ∧ (ChanOk s x.ch.toNat m n g)) ∧
    (∃ (x : FormB) (s : State) (m : Member) (n : Nat) (g : Group), (Issues (.bgjoin x) s) ∧ (ChanOk s x.ch.toNat m n g) ∧ (g.standing m = true) ∧ (¬(g.inEp = true ∧ m ∈ g.excused))) ∧
    (∃ (x : FormB) (s : State) (m : Member) (n : Nat) (g : Group), (Issues (.bgjoin x) s) ∧ (ChanOk s x.ch.toNat m n g) ∧ (g.standing m = false)) ∧
    (∃ (x : FormB) (s : State) (me m : Member) (n : Nat) (g : Group) (a : Word) (c1 c2 : Core), (Issues (.bmask x) s) ∧ (scalarRead s.me x.a = some (a, c1)) ∧ (ChanOk s x.ch.toNat me n g) ∧ (bitsOf a 20 43 = 0) ∧ (m = (me.1, bitsOf a 0 20)) ∧ (m ∈ g.members) ∧ (scalarWrite c1 x.d (if m ∈ g.masked then 1 else 0) = some c2)) :=
  ⟨⟨zB, stG coreG grp, _, _, _, _, issues_of _ _ (by decide +kernel), rfl, ⟨by decide +kernel, rfl, rfl, rfl, rfl⟩, by decide +kernel, rfl, rfl⟩,
    ⟨{ zB with d := 5 }, stG { coreG with chans := [(0, { Chan.reset with excuse := some 9 })], progress := 1 } grp, _, _, _, _, _, issues_of _ _ (by decide +kernel), by decide +kernel, ⟨by decide +kernel, rfl, rfl, rfl, rfl⟩, rfl, rfl, rfl⟩,
    ⟨zB, stG { coreG with chans := [(0, { Chan.reset with excuse := some 0x500080000 })], progress := 1 } grp, _, _, _, _, issues_of _ _ (by decide +kernel), rfl, rfl, ⟨rfl, rfl⟩, by decide +kernel, ⟨by decide +kernel, rfl, rfl, rfl, rfl⟩, rfl, rfl⟩,
    ⟨zB, stG coreG grp, _, _, _, issues_of _ _ (by decide +kernel), ⟨by decide +kernel, rfl, rfl, rfl, rfl⟩⟩,
    ⟨zB, stG coreG { grp with left := [(0, 0)] }, _, _, { grp with left := [(0, 0)] }, issues_of _ _ (by decide +kernel), ⟨by decide +kernel, rfl, rfl, rfl, rfl⟩, by decide +kernel, by decide +kernel⟩,
    ⟨zB, stG coreG grp, _, _, _, issues_of _ _ (by decide +kernel), ⟨by decide +kernel, rfl, rfl, rfl, rfl⟩, rfl⟩,
    ⟨{ zB with d := 5, a := 1 }, stG { coreG with prv := true, regs := [(1, 0x8000000000000000)] } grp, _, _, _, _, _, _, _, issues_of _ _ (by decide +kernel), rfl, ⟨by decide +kernel, rfl, rfl, rfl, rfl⟩, by decide +kernel, rfl, by decide +kernel, rfl⟩⟩

/-- Hypotheses of BranchesAndCountsComplete. -/
theorem witness_BranchesAndCountsComplete :
    (∃ p ∈ ([(.cbr, false), (.cbrv, true)] : List ((FormB → Instr) × Bool)), ∃ (x : FormB) (s t : State) (m : Member) (n : Nat) (g : Group) (sp : Spec), (Issues (p.1 x) s) ∧ (s.inRpt = false) ∧ (s.me.rpt = none) ∧ (ChanOk s x.ch.toNat m n g) ∧ ((s.me.chan x.ch.toNat).out = none) ∧ (t = contributed s s.me x.ch.toNat m n g (.branch (x.bo == 1)) (branchBit s.me x p.2) (if branchBit s.me x p.2 then 1 else 0)) ∧ (sp = branchSpec s.me x)) ∧
    (∃ (x : FormB) (s : State) (m : Member) (n : Nat) (g : Group) (c : Core), (Issues (.cbrres x) s) ∧ (ChanOk s x.ch.toNat m n g) ∧ ((∀ or, (s.me.chan x.ch.toNat).out ≠ some (.branch or))) ∧ (scalarWrite s.me x.d (s.me.chan x.ch.toNat).branch = some c)) ∧
    (∃ (x : FormB) (s t : State) (m : Member) (n : Nat) (g : Group) (a : Word) (c1 : Core), (Issues (.tcount x) s) ∧ (s.progress = 0) ∧ (scalarRead s.me x.a = some (a, c1)) ∧ (ChanOk s x.ch.toNat m n g) ∧ ((s.me.chan x.ch.toNat).out = none) ∧ (t = contributed s s.me x.ch.toNat m n g .count (a != 0) (min a.toNat 65535))) ∧
    (∃ (x : FormB) (s : State) (m : Member) (n : Nat) (g : Group) (w a : Word) (c1 c2 : Core), (Issues (.tcount x) s) ∧ (s.progress ≠ 0) ∧ (ChanOk s x.ch.toNat m n g) ∧ ((s.me.chan x.ch.toNat).result = some w) ∧ (scalarRead s.me x.a = some (a, c1)) ∧ (scalarWrite (c1.setChan x.ch.toNat { c1.chan x.ch.toNat with result := none }) x.d w = some c2)) ∧
    (∃ (x : FormB) (s : State) (c : Core), (Issues (.specstat x) s) ∧ (scalarWrite s.me x.d (.ofNat 64 (s.me.specCmt.toNat + s.me.specDis.toNat * 2 ^ 16 + s.me.specRun.toNat * 2 ^ 32 + s.me.specHeld.toNat * 2 ^ 40)) = some c)) :=
  ⟨⟨_, .head _, { zB with ofs := 4 }, stG coreG grp, _, _, _, _, _, issues_of _ _ (by decide +kernel), rfl, rfl, ⟨by decide +kernel, rfl, rfl, rfl, rfl⟩, rfl, rfl, rfl⟩,
    ⟨{ zB with d := 5 }, stG { coreG with chans := [(0, { Chan.reset with branch := 9 })] } grp, _, _, _, _, issues_of _ _ (by decide +kernel), ⟨by decide +kernel, rfl, rfl, rfl, rfl⟩, nofun, rfl⟩,
    ⟨{ zB with d := 5, a := 2 }, stG coreG grp, _, _, _, _, _, _, issues_of _ _ (by decide +kernel), rfl, rfl, ⟨by decide +kernel, rfl, rfl, rfl, rfl⟩, rfl, rfl⟩,
    ⟨{ zB with d := 5, a := 2 }, stG { coreG with chans := [(0, { Chan.reset with result := some 9 })], progress := 1 } grp, _, _, _, _, _, _, _, issues_of _ _ (by decide +kernel), by decide +kernel, ⟨by decide +kernel, rfl, rfl, rfl, rfl⟩, rfl, rfl, rfl⟩,
    ⟨{ zB with d := 5 }, stG coreG grp, _, issues_of _ _ (by decide +kernel), rfl⟩⟩

/-- Hypotheses of EpisodesComplete. -/
theorem witness_EpisodesComplete :
    (∃ (n : Nat) (s : State) (g : Group), (Table.find s.groups n = some g) ∧ (g.link = none) ∧ (g.inEp = true) ∧ ((∀ m ∈ g.members, g.contributed m = true ∨ m ∈ g.excused ∨ s.endedMember m = true))) :=
  ⟨0, stG coreG { grp with inEp := true, contribs := [{ who := (0, 0), bit := true, count := 1, kind := .barrier }] }, { grp with inEp := true, contribs := [{ who := (0, 0), bit := true, count := 1, kind := .barrier }] }, rfl, rfl, rfl, by decide +kernel⟩

/-- Hypotheses of TreeMessagesArrive. -/
theorem witness_TreeMessagesArrive :
    (∃ (lid ch : Nat) (s s1 : State) (w : Word) (k : Chan), (Awaits s lid ch (.result w) s1) ∧ (k = (s.core lid).chan ch) ∧ (k.out = some .barrier ∨ k.out = some .count) ∧ (k.seq = w.extractLsb' 32 32)) ∧
    (∃ (lid ch : Nat) (s s1 : State) (w : Word) (k : Chan) (c : Core) (sp : Spec) (or : Bool), (Awaits s lid ch (.result w) s1) ∧ (c = s.core lid) ∧ (k = c.chan ch) ∧ (k.out = some (.branch or)) ∧ (k.seq = w.extractLsb' 32 32) ∧ (w.getLsbD 19 = false) ∧ (w.getLsbD 20 = false) ∧ (c.spec = some sp) ∧ (sp.ch = ch) ∧ (sp.ckpt.pc = k.bpc) ∧ (sp.deferred = none) ∧ (w.getLsbD 18 = sp.predicted)) ∧
    (∃ (lid ch : Nat) (s s1 : State) (w : Word) (k : Chan) (c : Core) (sp : Spec) (or : Bool), (Awaits s lid ch (.result w) s1) ∧ (c = s.core lid) ∧ (k = c.chan ch) ∧ (k.out = some (.branch or)) ∧ (k.seq = w.extractLsb' 32 32) ∧ (w.getLsbD 19 = false) ∧ (w.getLsbD 20 = false) ∧ (c.spec = some sp) ∧ (sp.ch = ch) ∧ (sp.ckpt.pc = k.bpc) ∧ (w.getLsbD 18 ≠ sp.predicted)) :=
  ⟨⟨0, 0, stG { coreG with chans := [(0, { Chan.reset with out := some .barrier, seq := 5, bpc := 0x100 })] } { grp with sending := [((0, 0), .result 0x00000005000B0001)] }, _, 0x00000005000B0001, _, ⟨by decide, by decide, ⟨_, rfl, .inl rfl⟩, _, _, _, rfl, rfl, rfl, rfl⟩, rfl, .inl rfl, rfl⟩,
    ⟨0, 0, stG { coreG with chans := [(0, { Chan.reset with out := some (.branch true), seq := 5, bpc := 0x100 })], spec := some spec0 } { grp with sending := [((0, 0), .result 0x0000000500040001)] }, _, 0x0000000500040001, _, _, _, _, ⟨by decide, by decide, ⟨_, rfl, .inl rfl⟩, _, _, _, rfl, rfl, rfl, rfl⟩, rfl, rfl, rfl, rfl, rfl, rfl, rfl, rfl, rfl, rfl, by decide +kernel⟩,
    ⟨0, 0, stG { coreG with chans := [(0, { Chan.reset with out := some (.branch true), seq := 5, bpc := 0x100 })], spec := some spec0 } { grp with sending := [((0, 0), .result 0x0000000500000001)] }, _, 0x0000000500000001, _, _, _, _, ⟨by decide, by decide, ⟨_, rfl, .inl rfl⟩, _, _, _, rfl, rfl, rfl, rfl⟩, rfl, rfl, rfl, rfl, rfl, rfl, rfl, rfl, rfl, by decide +kernel⟩⟩

/-- Hypotheses of AtomicsCompleteWithTheirAnswer. -/
theorem witness_AtomicsCompleteWithTheirAnswer :
    (∃ p ∈ atomics, ∃ (x : FormA) (s : State) (lid a : Nat) (b d : Word) (c : Core), (Issues (p.1 x) s) ∧ (s.progress = 0) ∧ (atomicRead s.me x p.2.1 = some (b, d, c)) ∧ (AtomicOk s x p.2.1 lid a) ∧ (x.d = 0) ∧ (x.aq = 0) ∧ (s.me.sb.length < 16)) ∧
    (∃ p ∈ atomics, ∃ (x : FormA) (s : State) (lid a : Nat) (b d : Word) (c : Core), (Issues (p.1 x) s) ∧ (s.progress = 0) ∧ (atomicRead s.me x p.2.1 = some (b, d, c)) ∧ (AtomicOk s x p.2.1 lid a) ∧ (¬(x.d = 0 ∧ x.aq = 0)) ∧ (s.me.sb = [])) ∧
    (∃ p ∈ atomics, ∃ (x : FormA) (s : State) (b d w : Word) (c c1 : Core), (Issues (p.1 x) s) ∧ (s.progress ≠ 0) ∧ (atomicRead s.me x p.2.1 = some (b, d, c)) ∧ (s.me.answer = some w) ∧ (scalarWrite { c with answer := none } x.d w = some c1)) :=
  ⟨⟨_, .head _, { FormA.ofWord 0 with a := 1, b := 2, sz := 2 }, st core0, 0, 0x200, _, _, _, issues_of _ _ (by decide +kernel), rfl, rfl, ⟨by decide +kernel, by decide +kernel, by decide +kernel, ⟨0, rfl, rfl⟩, by decide +kernel, fun h => absurd h (by decide), fun h => absurd h (by decide)⟩, rfl, rfl, by decide +kernel⟩,
    ⟨_, .head _, { FormA.ofWord 0 with a := 1, b := 2, sz := 2, d := 5 }, st core0, 0, 0x200, _, _, _, issues_of _ _ (by decide +kernel), rfl, rfl, ⟨by decide +kernel, by decide +kernel, by decide +kernel, ⟨0, rfl, rfl⟩, by decide +kernel, fun h => absurd h (by decide), fun h => absurd h (by decide)⟩, by decide +kernel, rfl⟩,
    ⟨_, .head _, { FormA.ofWord 0 with a := 1, b := 2, sz := 2, d := 5 }, st { core0 with progress := 1, answer := some 9 }, _, _, _, _, _, issues_of _ _ (by decide +kernel), by decide +kernel, rfl, rfl, rfl⟩⟩

/-- Hypotheses of AtomicsComputeTheirValue. -/
theorem witness_AtomicsComputeTheirValue :
    (∃ p ∈ atomics, ∃ r : AtomReq, r.op = p.2.1 ∧ (r.width = 4 ∨ r.width = 8)) :=
  ⟨_, .head _, req0, rfl, .inl rfl⟩

/-- Hypotheses of CellInstructionsComplete. -/
theorem witness_CellInstructionsComplete :
    (∃ (x : FormA) (s : State) (b : Word) (c : Core) (n : Nat) (nv : Bool), (Issues (.afadd x) s) ∧ (scalarRead s.me x.b = some (b, c)) ∧ (CellAt s.me x n) ∧ (CellFree s) ∧ (nv = (if x.ft = 0 then fpDecode fp32 c.ftz (bitsOf b 0 32) else fpDecode bf16 c.ftz (bitsOf b 0 16)).isSignalling)) ∧
    (∃ p ∈ ([(.afrd, 0xCC), (.afclr, 0xCD)] : List ((FormA → Instr) × BitVec 8)), ∃ (x : FormA) (s : State) (n : Nat), (Issues (p.1 x) s) ∧ ((p.2 = 0xCD → x.d ≠ 0)) ∧ (s.progress = 0) ∧ (CellAt s.me x n) ∧ (CellFree s)) ∧
    (∃ p ∈ ([(.afrd, 0xCC), (.afclr, 0xCD)] : List ((FormA → Instr) × BitVec 8)), ∃ (x : FormA) (s : State) (w : Word) (c : Core), (Issues (p.1 x) s) ∧ ((p.2 = 0xCD → x.d ≠ 0)) ∧ (s.progress ≠ 0) ∧ (s.me.answer = some w) ∧ (scalarWrite ({ s.me with answer := none }.raiseFlags (w.extractLsb' 32 7)) x.d (.ofNat 64 (bitsOf w 0 32)) = some c)) ∧
    (∃ (x : FormA) (s : State) (n : Nat), (Issues (.afclr x) s) ∧ (x.d = 0) ∧ (CellAt s.me x n) ∧ (CellFree s)) ∧
    (∃ (x : FormA) (s : State), (Issues (.afence x) s) ∧ ((∀ op l a w b d, .atomic op l a w b d ∉ s.me.sb)) ∧ (CellFree s)) :=
  ⟨⟨{ FormA.ofWord 0 with a := 2, b := 3 }, st core0, _, _, 7, _, issues_of _ _ (by decide +kernel), rfl, ⟨by decide +kernel, by decide⟩, by unfold CellFree; decide +kernel, rfl⟩,
    ⟨_, .head _, { FormA.ofWord 0 with a := 2, b := 3, d := 5 }, st core0, 7, issues_of _ _ (by decide +kernel), by decide +kernel, rfl, ⟨by decide +kernel, by decide⟩, by unfold CellFree; decide +kernel⟩,
    ⟨_, .head _, { FormA.ofWord 0 with a := 2, b := 3, d := 5 }, st { core0 with progress := 1, answer := some 9 }, _, _, issues_of _ _ (by decide +kernel), by decide +kernel, by decide +kernel, rfl, rfl⟩,
    ⟨{ FormA.ofWord 0 with a := 2, b := 3 }, st core0, 7, issues_of _ _ (by decide +kernel), rfl, ⟨by decide +kernel, by decide⟩, by unfold CellFree; decide +kernel⟩,
    ⟨FormA.ofWord 0, st core0, issues_of _ _ (by decide +kernel), by simp only [show (st core0).me.sb = [] from rfl, List.not_mem_nil, not_false_eq_true, implies_true], by unfold CellFree; decide +kernel⟩⟩

/-- Hypotheses of CellsAddExactly. -/
theorem witness_CellsAddExactly :
    (∃ (v : BitVec 384) (m : Nat) (e : Int), -149 ≤ e ∧ (-(2 ^ 319) ≤ cellK v + signedMag true (m * 2 ^ (e + 149).toNat) ∧ cellK v + signedMag true (m * 2 ^ (e + 149).toNat) < 2 ^ 319) ∧ cellCnt v ≤ 2 ^ 42) :=
  ⟨0, 3, -149, by decide, by decide +kernel, by decide +kernel⟩

/-- Hypotheses of EnginesPerformRequests. -/
theorem witness_EnginesPerformRequests :
    (∃ (lid home a : Nat) (s : State) (bytes : List Byte) (rest : List SbEntry), (lid < coreCount) ∧ (s.serves lid = true) ∧ ((s.core lid).sb = .store home a bytes :: rest) ∧ ((s.plainAccess lid home a).isSome = true)) ∧
    (∃ (lid home a w : Nat) (s : State) (op : BitVec 8) (b d : Word) (rest : List SbEntry), (lid < coreCount) ∧ (s.serves lid = true) ∧ ((s.core lid).sb = .atomic op home a w b d :: rest) ∧ (Table.find (s.cluster (clusterOf lid)).lines lid = none) ∧ (Table.find (s.cluster (clusterOf lid)).detHeld lid = none)) ∧
    (∃ (lid home a : Nat) (s : State) (bytes : List Byte) (rest : List SbEntry), (lid < coreCount) ∧ (s.serves lid = true) ∧ ((s.core lid).sb = .store home a bytes :: rest) ∧ (s.plainAccess lid home a = none)) ∧
    (∃ (cl lid : Nat) (s : State) (e : Cluster) (r : AtomReq), (cl < 16128) ∧ (e = s.cluster cl) ∧ (Table.rising none e.lines = true) ∧ (e.plain = []) ∧ (e.cellReqs = []) ∧ ((∀ p ∈ e.lines, p.2.line ∈ e.hot)) ∧ (Chosen s e lid) ∧ (Table.find e.lines lid = some r) ∧ ((s.core r.home).locPoisoned r.addr r.width = false)) ∧
    (∃ (cl lid : Nat) (s : State) (e : Cluster) (r : AtomReq), (cl < 16128) ∧ (e = s.cluster cl) ∧ (e.lines = [(lid, r)]) ∧ (e.plain = []) ∧ (e.cellReqs = []) ∧ (s.serves lid = true) ∧ ((r.line ∈ e.hot ∨ e.hot.length < 64)) ∧ ((s.core r.home).locPoisoned r.addr r.width = false)) ∧
    (∃ (cl lid : Nat) (s : State) (e : Cluster) (r : AtomReq), (cl < 16128) ∧ (e = s.cluster cl) ∧ (e.lines = []) ∧ (e.cellReqs = [(lid, r)]) ∧ (s.serves lid = true) ∧ (s.cellHeld cl r.addr = false) ∧ (r.dNonzero = true)) ∧
    (∃ (cl lid : Nat) (s : State) (r : AtomReq), (cl < 16128) ∧ ((s.cluster cl).detHeld = [(lid, r)]) ∧ (s.serves lid = true) ∧ (s.detReady cl ((s.cluster cl).heldStep lid) lid = true) ∧ ((s.core r.home).locPoisoned r.addr r.width = false)) :=
  ⟨⟨0, 0, 0x200, st { core0 with sb := [.store 0 0x200 [1, 2]] }, [1, 2], [], by decide, rfl, by decide +kernel, rfl⟩,
    ⟨0, 0, 0x200, 4, st { core0 with sb := [.atomic 0xC0 0 0x200 4 7 0] }, 0xC0, 7, 0, [], by decide, rfl, by decide +kernel, rfl, rfl⟩,
    ⟨1, 1, 0x204, { st2 core0 { core0 with sb := [.store 1 0x204 [1, 2]] } with clusters := [(0, { Cluster.reset with hot := [(1, 8)], lines := [(0, req0)] })] }, [1, 2], [], by decide, rfl, by decide +kernel, rfl⟩,
    ⟨0, 0, stW, engineW, req0, by decide, rfl, rfl, rfl, rfl, by decide +kernel, chosen_w, rfl, rfl⟩,
    ⟨0, 0, { st2 core0 core0 with clusters := [(0, { Cluster.reset with lines := [(0, { req0 with dNonzero := false })] })] }, _, { req0 with dNonzero := false }, by decide, rfl, rfl, rfl, rfl, rfl, by decide +kernel, rfl⟩,
    ⟨0, 0, { st core0 with clusters := [(0, { Cluster.reset with cellReqs := [(0, { req0 with op := 0xCC, addr := 7 })] })] }, _, { req0 with op := 0xCC, addr := 7 }, by decide, rfl, rfl, rfl, rfl, rfl, rfl⟩,
    ⟨0, 0, { st2 { core0 with mode := 16 } core0 with clusters := [(0, { Cluster.reset with detHeld := [(0, { req0 with op := 0xC9 })] })] }, { req0 with op := 0xC9 }, by decide, by decide +kernel, rfl, rfl, rfl⟩⟩

/-- Hypotheses of LinkInstructionsComplete. -/
theorem witness_LinkInstructionsComplete :
    (∃ (x : FormK) (s s1 : State) (ge : Nat) (ws : List Word) (bytes : List Byte) (c : Core), (Issues (.lkgrp x) s) ∧ (ge = x.ge.toNat) ∧ (LdlsAt 8 s ((List.range 20).map fun (k : Nat) => ((s.me.reg x.a.toNat).toNat : Int) + 8 * k) bytes s1) ∧ (ws = (List.range 20).map (fun k => .ofNat 64 (natOfBytes ((bytes.drop (8 * k)).take 8)))) ∧ (s.hasLink s.jobTag = true) ∧ (geOk s.mg.rank.toNat (s.geWord s.jobTag) (fun i => ws.getD i 0) = true) ∧ (s.geBusy s.jobTag ge = false) ∧ (scalarWrite s.me x.d (s.geWord s.jobTag ge 16) = some c)) ∧
    (∃ p ∈ collectives, ∃ (x : FormK) (s : State) (a b n : Word) (k ge fm : Nat) (read : Bool) (units : List (List Byte)), (Issues (p.1 x) s) ∧ (a = s.me.reg x.a.toNat) ∧ (b = s.me.reg x.b.toNat) ∧ (n = s.me.reg x.c.toNat) ∧ (k = bitsOf x.imm 0 2) ∧ (ge = x.ge.toNat) ∧ (fm = x.fm.toNat) ∧ (x.ko.toNat = p.2) ∧ ((s.me.coll k).st = 0) ∧ (n ≠ 0) ∧ (n.toNat ≤ 4096) ∧ (SpansOk p.2 fm a b n.toNat) ∧ (EntryOk s ge) ∧ (geAllows (s.geWord s.jobTag ge 16) p.2 = true) ∧ (¬(p.2 = 1 ∧ geSched (s.geWord s.jobTag ge 16) = true)) ∧ ((p.2 ≠ 7 → s.me.locPoisoned a.toNat (n.toNat * unitSize p.2 fm) = false)) ∧ ((x.aq = 1 → s.scopePerformed s.cur x.sc.toNat = true)) ∧ (read = !(p.2 == 7 && s.cellsBusy s.cur a.toNat n.toNat)) ∧ (units = (if read then sourceUnits s p.2 fm a.toNat n.toNat else []))) ∧
    (∃ (x : FormK) (s : State) (k : Nat) (v : CollSlot) (c : Core), (Issues (.lkwait x) s) ∧ (k = bitsOf x.imm 0 2) ∧ (Table.find s.me.colls k = some v) ∧ (v.st = 2) ∧ (Token.coll k ∈ s.me.tokens) ∧ (scalarWrite (reslotted s.me k none) x.d (.ofNat 64 (2 + v.flags.toNat * 2 ^ 8 + v.reason.toNat * 2 ^ 16 + v.seq.toNat * 2 ^ 32)) = some c)) ∧
    (∃ (x : FormK) (s : State) (v : CollSlot) (c : Core), (Issues (.lkstatSlot x) s) ∧ (v = (Table.find s.me.colls (bitsOf x.imm 0 2)).getD { st := 0, ge := 0, seq := 0, flags := 0, reason := 0 }) ∧ (scalarWrite s.me x.d (.ofNat 64 (v.st.toNat + v.flags.toNat * 2 ^ 8 + v.reason.toNat * 2 ^ 16 + v.seq.toNat * 2 ^ 32)) = some c)) ∧
    (∃ (x : FormK) (s : State) (q : Nat) (p : LinkPort) (c : Core), (Issues (.lkstatPort x) s) ∧ (q = (s.me.reg x.a.toNat).toNat) ∧ (q < 96) ∧ (p = s.port q) ∧ (scalarWrite s.me x.d (.ofNat 64 (p.retries.toNat * 2 ^ 32 + (if p.switch then 2 else 0) + if p.up = false then 0 else if p.switch then 1 + latencyOf s.mg q p % 2 ^ 16 * 2 ^ 16 else 1 + p.rank % 2 ^ 10 * 2 ^ 4 + latencyOf s.mg q p % 2 ^ 16 * 2 ^ 16)) = some c)) ∧
    (∃ (x : FormK) (s : State) (c : Core), (Issues (.lkseq x) s) ∧ (EntryOk s x.ge.toNat) ∧ (scalarWrite s.me x.d (.ofNat 64 (bitsOf (s.geWord s.jobTag x.ge.toNat 17) 0 32)) = some c)) ∧
    (∃ (x : FormK) (s : State) (c : Core), (Issues (.lkseqSet x) s) ∧ (EntryOk s x.ge.toNat) ∧ (s.geBusy s.jobTag x.ge.toNat = false) ∧ (scalarWrite s.me x.d (.ofNat 64 (bitsOf (s.geWord s.jobTag x.ge.toNat 17) 0 32)) = some c)) :=
  ⟨⟨{ FormK.ofWord 0 with d := 5, a := 1, ge := 1 }, stL { core0 with prv := true } 1, stL { core0 with prv := true } 1, _, _, _, _, issues_of _ _ (by decide +kernel), rfl, ldls_of 8 (stL { core0 with prv := true } 1) (by decide +kernel) _ (by unfold LocAccess redirected Readable; decide +kernel), rfl, rfl, rfl, rfl, rfl⟩,
    ⟨_, .head _, { FormK.ofWord 0 with a := 1, b := 1, c := 5 }, stL { core0 with regs := [(1, 0x200), (5, 1)] } 1, _, _, _, _, _, _, _, _, issues_of _ _ (by decide +kernel), rfl, rfl, rfl, rfl, rfl, rfl, by decide, by decide +kernel, by decide +kernel, by decide +kernel, by unfold SpansOk; decide +kernel, by unfold EntryOk; decide +kernel, rfl, by decide, fun _ => rfl, fun h => absurd h (by decide), rfl, rfl⟩,
    ⟨{ FormK.ofWord 0 with d := 5 }, st { core0 with colls := [(0, { st := 2, ge := 0, seq := 3, flags := 0, reason := 0 })], tokens := [.coll 0] }, _, _, _, issues_of _ _ (by decide +kernel), rfl, rfl, rfl, by decide +kernel, rfl⟩,
    ⟨{ FormK.ofWord 0 with d := 5 }, st core0, _, _, issues_of _ _ (by decide +kernel), rfl, rfl⟩,
    ⟨{ FormK.ofWord 0 with d := 5, a := 2 }, st core0, _, _, _, issues_of _ _ (by decide +kernel), rfl, by decide +kernel, rfl, rfl⟩,
    ⟨{ FormK.ofWord 0 with d := 5 }, stL core0 1, _, issues_of _ _ (by decide +kernel), by unfold EntryOk; decide +kernel, rfl⟩,
    ⟨{ FormK.ofWord 0 with d := 5, a := 2 }, stL core0 1, _, issues_of _ _ (by decide +kernel), by unfold EntryOk; decide +kernel, rfl, rfl⟩⟩

/-- Hypotheses of LinkFramesAreReceived. -/
theorem witness_LinkFramesAreReceived :
    (∃ (port : Nat) (fr : BitVec 512) (s : State) (p : Packet) (h : Hop) (rest : List Hop), (Kept s port 1 fr) ∧ (packetOf (frBody fr) = p) ∧ (p.hops = h :: rest) ∧ (h.rank = s.mg.rank.toNat) ∧ (h.oph = 1 ∨ h.oph = 2)) ∧
    (∃ (port : Nat) (fr : BitVec 512) (s : State) (p : Packet) (h : Hop), (Kept s port 2 fr) ∧ ((s.port port).packet = some (p, h)) ∧ (h.oph = 1 ∨ h.oph = 2) ∧ (s.arrivals.any (fun a => a.packet == p && a.hop == h) = false)) ∧
    (∃ (port out : Nat) (fr : BitVec 512) (s : State) (p : Packet) (h : Hop) (rest : List Hop) (last : Option Packet), (Kept s port 1 fr) ∧ (packetOf (frBody fr) = p) ∧ (p.hops = h :: rest) ∧ (h.rank = s.mg.rank.toNat) ∧ (GoesOn s { p with hops := rest } h port out last) ∧ (last ≠ some { p with hops := rest })) ∧
    (∃ (port out : Nat) (fr : BitVec 512) (s : State) (p : Packet) (h : Hop), (Kept s port 2 fr) ∧ ((s.port port).packet = some (p, h)) ∧ (GoesOn s p h port out (some p))) ∧
    (∃ (port : Nat) (fr : BitVec 512) (s : State), (Kept s port 3 fr) ∧ (bitsOf (frBody fr) 103 10 = s.mg.rank.toNat) ∧ (s.crownGroup (frBody fr) = none) ∧ (s.crownIn = [])) ∧
    (∃ (port n : Nat) (fr : BitVec 512) (s : State) (g : Group), (Kept s port 3 fr) ∧ (bitsOf (frBody fr) 103 10 = s.mg.rank.toNat) ∧ (s.crownGroup (frBody fr) = some (n, g)) ∧ (s.crownIn = []) ∧ (bitsOf (frBody fr) 90 3 = 0)) ∧
    (∃ (port : Nat) (fr : BitVec 512) (s : State), (Kept s port 4 fr)) ∧
    (∃ (port : Nat) (s : State), (port < 96) ∧ ((s.port port).up = true)) :=
  ⟨⟨1, (mkFrame 0 0 1 2 (Packet.body { pkt0 with hops := [{ rank := 0, oph := 1, lvl := 0 }] })), stL core0 1, _, { rank := 0, oph := 1, lvl := 0 }, [], ⟨by decide, rfl, by decide +kernel, by decide +kernel, by decide +kernel⟩, rfl, by decide +kernel, rfl, .inl rfl⟩,
    ⟨1, (mkFrame 0 0 2 2 0), { stL core0 1 with ports := [(1, { LinkPort.reset with up := true, packet := some (pkt0, { rank := 0, oph := 1, lvl := 0 }) })] }, _, { rank := 0, oph := 1, lvl := 0 }, ⟨by decide, rfl, by decide +kernel, by decide +kernel, by decide +kernel⟩, rfl, .inl rfl, rfl⟩,
    ⟨1, 2, (mkFrame 0 0 1 2 (Packet.body { pkt0 with hops := [{ rank := 0, oph := 0, lvl := 0 }, { rank := 1, oph := 1, lvl := 0 }] })), { stL core0 1 with ports := [(1, { LinkPort.reset with up := true }), (2, { LinkPort.reset with up := true })], mg := { Mgmt.reset with rankmap := [(1, 4)] } }, _, { rank := 0, oph := 0, lvl := 0 }, [{ rank := 1, oph := 1, lvl := 0 }], none, ⟨by decide, rfl, by decide +kernel, by decide +kernel, by decide +kernel⟩, rfl, by decide +kernel, rfl, ⟨.inl rfl, ⟨_, _, rfl, by decide +kernel⟩, by decide, rfl⟩, by simp⟩,
    ⟨1, 2, (mkFrame 0 0 2 2 0), { stL core0 1 with ports := [(1, { LinkPort.reset with up := true, packet := some ({ pkt0 with hops := [{ rank := 1, oph := 1, lvl := 0 }] }, { rank := 0, oph := 0, lvl := 0 }) }), (2, { LinkPort.reset with up := true, lastOut := some { pkt0 with hops := [{ rank := 1, oph := 1, lvl := 0 }] } })], mg := { Mgmt.reset with rankmap := [(1, 4)] } }, _, { rank := 0, oph := 0, lvl := 0 }, ⟨by decide, rfl, by decide +kernel, by decide +kernel, by decide +kernel⟩, rfl, ⟨.inl rfl, ⟨_, _, rfl, by decide +kernel⟩, by decide, rfl⟩⟩,
    ⟨1, (mkFrame 0 0 3 2 0), stL core0 1, ⟨by decide, rfl, by decide +kernel, by decide +kernel, by decide +kernel⟩, by decide +kernel, rfl, rfl⟩,
    ⟨1, 0, (mkFrame 0 0 3 2 (1 <<< 192)), { stL coreG 1 with groups := [(0, { grp with link := some 0 })] }, { grp with link := some 0 }, ⟨by decide, rfl, by decide +kernel, by decide +kernel, by decide +kernel⟩, by decide +kernel, rfl, rfl, by decide +kernel⟩,
    ⟨1, (mkFrame 0 0 4 2 0), stL core0 1, ⟨by decide, rfl, by decide +kernel, by decide +kernel, by decide +kernel⟩⟩,
    ⟨1, stL core0 1, by decide, rfl⟩⟩

/-- Hypotheses of CollectivesProgress. -/
theorem witness_CollectivesProgress :
    (∃ (n lvl child : Nat) (s : State) (k : Collective) (pairs : List (Nat × Nat × Nat)) (us : List (List Byte)) (exc : Bool) (fl : BitVec 7) (route : List Hop), (Table.find s.collectives n = some k) ∧ (k.fail = none) ∧ (k.read = true) ∧ (k.ready = false) ∧ ((∀ a ∈ s.arrived k, k.disagrees a = false)) ∧ (k.received (s.arrived k) (fun a => a.hop.oph == 2 || a.hop.oph == 3) = none) ∧ (pairs = (s.gePairs k.job k.ge).filter (fun p => p.2.1 == s.mg.rank.toNat)) ∧ (pairs[k.combined]? = some (lvl, s.mg.rank.toNat, child)) ∧ (k.received (s.arrived k) (fun a => a.hop.oph == 1 && a.hop.lvl == lvl % 16 && a.packet.src == child) = some (us, exc, fl, route))) ∧
    (∃ (n lid : Nat) (s : State) (k : Collective) (us : List (List Byte)), (Table.find s.collectives n = some k) ∧ (k.fail = none) ∧ (k.read = false) ∧ (s.coreAt k.who = some lid) ∧ (s.cellsBusy lid k.dst k.count = false) ∧ (us = (List.range k.count).map (fun i => bytesOfNat 48 (Table.get 0 (s.cluster (clusterOf lid)).cells (k.dst + i)).toNat))) ∧
    (∃ (n lid : Nat) (s : State) (k : Collective), (Table.find s.collectives n = some k) ∧ (s.coreAt k.who = some lid) ∧ (s.serves lid = true) ∧ (k.fail.isSome = true ∨ (k.ready = true ∧ k.sentDown = true))) ∧
    (∃ (n : Nat) (s : State) (k : Collective) (r t0 : Nat), (Table.find s.collectives n = some k) ∧ (r ∈ membersOf (s.geWord k.job k.ge)) ∧ (r ≠ s.mg.rank.toNat) ∧ ((∀ p < 96, (Table.get 0 s.mg.rankmap r).getLsbD p = true → (s.port p).up = false)) ∧ (k.fail = none) ∧ (¬(k.ready = true ∧ k.sentDown = true)) ∧ (k.since = some t0) ∧ (t0 + 2 ^ 20 ≤ s.cycle.toNat)) ∧
    (∃ (n : Nat) (s : State) (k : Collective), (Table.find s.collectives n = some k) ∧ ((∀ r ∈ membersOf (s.geWord k.job k.ge), r ≠ s.mg.rank.toNat → ∃ p < 96, (Table.get 0 s.mg.rankmap r).getLsbD p = true ∧ (s.port p).up = true))) :=
  ⟨⟨0, 0, 1, { stL core0 3 with collectives := [(0, col0)], arrivals := [{ packet := pkt0, hop := { rank := 0, oph := 1, lvl := 0 }, bytes := List.replicate 16 2, exc := false, flags := 0, closed := true, final := true }] }, col0, _, [List.replicate 16 2], false, 0, _, rfl, rfl, rfl, by decide, by decide +kernel, rfl, rfl, by decide +kernel, rfl⟩,
    ⟨0, 0, { stL core0 3 with collectives := [(0, { col0 with read := false, dst := 0 })] }, { col0 with read := false, dst := 0 }, _, rfl, rfl, rfl, rfl, rfl, rfl⟩,
    ⟨0, 0, { stL core0 3 with collectives := [(0, { col0 with fail := some 5 })] }, { col0 with fail := some 5 }, rfl, rfl, rfl, .inl rfl⟩,
    ⟨0, { stL core0 3 with collectives := [(0, { col0 with since := some 7 })], cycle := 0x200000 }, { col0 with since := some 7 }, 1, 7, rfl, by decide +kernel, by decide, by decide +kernel, rfl, by decide +kernel, rfl, by decide +kernel⟩,
    ⟨0, { stL core0 3 with collectives := [(0, col0)], mg := { Mgmt.reset with rankmap := [(1, 2)] } }, col0, rfl, by decide +kernel⟩⟩

/-- Hypotheses of CollectiveTreeReachesEveryMember. -/
theorem witness_CollectiveTreeReachesEveryMember :
    (∃ ms : List Nat, ms.Nodup ∧ ms.length ≤ 1024 ∧ 2 < ms.length) :=
  ⟨[0, 1, 5], by decide, by decide, by decide⟩

/-- Hypotheses of StepRunsTheDecodedInstruction. -/
theorem witness_StepRunsTheDecodedInstruction :
    (∃ (s : State) (lid : Nat) (rest : List Move) (i : Instr) (w : Word), (s.sched = .core lid :: rest) ∧ (s.canIssue lid = true) ∧ (s.anyExpired lid = false) ∧ ((s.core lid).pc.toNat % 8 = 0) ∧ ((s.core lid).pc.toNat < (s.core lid).codeLim) ∧ ((s.core lid).locPoisoned (s.core lid).pc.toNat 8 = false) ∧ (w = (if (s.core lid).issued then (s.core lid).fetched else fetchWord s.tick lid (s.core lid).pc.toNat)) ∧ (decodeWord w = .ok i)) ∧
    (∃ (s : State) (lid a : Nat), ((s.core lid).sb = []) ∧ ((s.core lid).oldWords = [])) ∧
    (∃ (s : State) (lid : Nat) (rest : List Move) (r : Rpt) (i : Instr), (s.sched = .rpt lid :: rest) ∧ (s.canIssue lid = true) ∧ (s.anyExpired lid = false) ∧ ((s.core lid).rpt = some r) ∧ (decodeWord r.next = .ok i)) ∧
    (∃ (s : State) (i : Instr) (rest : List Move), (s.sched = .event i :: rest) ∧ (isEvent i = true)) ∧
    (∃ (s : State) (lid : Nat) (rest : List Move), (s.sched = .core lid :: rest) ∧ (s.canIssue lid = false)) :=
  ⟨⟨{ st { core0 with loc := [(0x107, 0x3C)] } with sched := [.core 0] }, 0, _, .nop zS3, _, rfl, rfl, rfl, by decide +kernel, by decide +kernel, rfl, rfl, by decide +kernel⟩,
    ⟨st core0, 0, 0x100, by decide +kernel, by decide +kernel⟩,
    ⟨{ st { core0 with rpt := some { body := 0x100, word := 0, words := [0x3C00000000000000], idx := 0, left := 0 } } with sched := [.rpt 0] }, 0, _, _, .nop zS3, rfl, rfl, rfl, rfl, by decide +kernel⟩,
    ⟨{ st core0 with sched := [.event (.engineWake 3)] }, _, _, rfl, rfl⟩,
    ⟨{ st { core0 with live := false } with sched := [.core 0] }, 0, _, rfl, rfl⟩⟩

/-- Hypotheses of DecodeOfEncodeIsTheInstruction. -/
theorem witness_DecodeOfEncodeIsTheInstruction :
    (∃ (i : Instr) (rest : List Byte), (i.wellFormed = true) ∧ (i.word?.isSome = true)) ∧
    (∃ (w : Word) (i : Instr), (decodeWord w = .ok i)) :=
  ⟨⟨.add { zS3 with d := 3, a := 1, b := 2 }, [1], rfl, rfl⟩,
    ⟨0x0101844000000000, .add { zS3 with d := 3, a := 1, b := 2 }, by decide +kernel⟩⟩

/-- Hypotheses of StepKeepsCanonicalForm. -/
theorem witness_StepKeepsCanonicalForm :
    (∃ s t : State, s.MemOk ∧ step s = .next t ∧ t.ext ≠ []) :=
  ⟨{ st { core0 with loc := [(0x107, 0x3C)] } with sched := [.extWrite 0x40 [7]], ext := [(0x50, 1)] }, _, ⟨by decide +kernel, by decide +kernel, fun lid => by by_cases h : lid = 0 <;> simp [h, st, State.core, Table.get, Table.find] <;> decide +kernel, by decide +kernel⟩, rfl, by decide +kernel⟩

/-- Hypotheses of FalseGuardsHaveNoEffect. -/
theorem witness_FalseGuardsHaveNoEffect :
    (∃ (i : Instr) (s : State), (i.word?.isSome = true) ∧ (s.cur < coreCount) ∧ (Permitted i s) ∧ (s.me.spec = none) ∧ (ReadsGuard s (wordOf i)) ∧ (guardHolds s.me (wordOf i) = false)) ∧
    (∃ (i : Instr) (s : State) (sp : Spec), (i.word?.isSome = true) ∧ (s.cur < coreCount) ∧ (Permitted i s) ∧ (s.me.spec = some sp) ∧ (sp.count < 64) ∧ (ReadsGuard s (wordOf i)) ∧ (guardHolds s.me (wordOf i) = false)) :=
  ⟨⟨.add { zS3 with gd := 1 }, st core0, rfl, by decide +kernel, permitted_of _ _ (by decide +kernel) (by decide +kernel), rfl, by unfold ReadsGuard; decide +kernel, rfl⟩,
    ⟨.add { zS3 with gd := 1 }, st { core0 with spec := some spec0 }, _, rfl, by decide +kernel, permitted_of _ _ (by decide +kernel) (by decide +kernel), rfl, by decide +kernel, by unfold ReadsGuard; decide +kernel, rfl⟩⟩

/-- Hypotheses of ForbiddenInstructionsTrap. -/
theorem witness_ForbiddenInstructionsTrap :
    (∃ (i : Instr) (s : State) (f : Nat), (i.word?.isSome = true) ∧ (s.cur < coreCount) ∧ (s.inRpt = false) ∧ (s.midBody = false) ∧ (s.me.spec = none) ∧ (HandlesTraps s.me) ∧ (featureOf (wordOf i) = some f) ∧ (s.me.dcl.getLsbD f = false)) ∧
    (∃ (i : Instr) (s : State), (i.word?.isSome = true) ∧ (s.cur < coreCount) ∧ (s.inRpt = false) ∧ (s.midBody = false) ∧ (s.me.spec = none) ∧ (HandlesTraps s.me) ∧ ((∀ f, featureOf (wordOf i) = some f → s.me.dcl.getLsbD f = true)) ∧ (supervisorOnly (bitsOf (wordOf i) 56 8) = true) ∧ (s.me.prv = false)) ∧
    (∃ (i : Instr) (s : State) (sp : Spec) (t : TrapInfo), (i.word?.isSome = true) ∧ (s.cur < coreCount) ∧ (s.inRpt = false) ∧ (s.midBody = false) ∧ (s.me.spec = some sp) ∧ ((∀ f, featureOf (wordOf i) = some f → s.me.dcl.getLsbD f = true)) ∧ (supervisorOnly (bitsOf (wordOf i) 56 8) = true) ∧ (s.me.prv = false) ∧ (t = { code := causePrivilege, val := wordOf i, sub := 0 })) ∧
    (∃ (s : State) (lid : Nat) (rest : List Move) (w : Word) (e : DecodeError), (s.sched = .core lid :: rest) ∧ (s.canIssue lid = true) ∧ (s.anyExpired lid = false) ∧ ((s.core lid).pc.toNat % 8 = 0) ∧ ((s.core lid).pc.toNat < (s.core lid).codeLim) ∧ ((s.core lid).locPoisoned (s.core lid).pc.toNat 8 = false) ∧ ((s.core lid).spec = none) ∧ ((s.core lid).midBody = false) ∧ (HandlesTraps (s.core lid)) ∧ (w = (if (s.core lid).issued then (s.core lid).fetched else fetchWord s.tick lid (s.core lid).pc.toNat)) ∧ (decodeWord w = .error e)) :=
  ⟨⟨.tldb zT, st { core0 with dcl := 0 }, 0, rfl, by decide +kernel, rfl, rfl, rfl, ⟨rfl, rfl⟩, rfl, rfl⟩,
    ⟨.smig zS3, st core0, rfl, by decide +kernel, rfl, rfl, rfl, ⟨rfl, rfl⟩, feature_of _ _ (by decide +kernel), rfl, rfl⟩,
    ⟨.smig zS3, st { core0 with spec := some spec0 }, _, _, rfl, by decide +kernel, rfl, rfl, rfl, feature_of _ _ (by decide +kernel), rfl, rfl, rfl⟩,
    ⟨{ st { core0 with loc := [(0x100, 1), (0x107, 0x3C)] } with sched := [.core 0] }, 0, _, _, .reservedField, rfl, rfl, rfl, by decide +kernel, by decide +kernel, rfl, rfl, rfl, ⟨rfl, rfl⟩, rfl, by decide +kernel⟩⟩

/-- Hypotheses of FrameOfRegisterInstructions. -/
theorem witness_FrameOfRegisterInstructions :
    (∃ (x : FormS3) (s t : State), Issues (.add x) s ∧ plainS3 x ∧ exec (.add x) s = .next t) ∧
    (∃ (x : FormS3) (s t : State), Issues (.clz x) s ∧ plainS3 x ∧ exec (.clz x) s = .next t) ∧
    (∃ (x : FormSI) (s t : State), Issues (.addi x) s ∧ x.d.toNat < 24 ∧ x.a.toNat < 24 ∧ exec (.addi x) s = .next t) ∧
    (∃ (x : FormS3) (s t : State), Issues (.cmp x) s ∧ plainS3 x ∧ exec (.cmp x) s = .next t) ∧
    (∃ (x : FormLI) (s t : State), Issues (.li x) s ∧ x.d.toNat < 24 ∧ exec (.li x) s = .next t) ∧
    (∃ (x : FormC) (s t : State), Issues (.cmpi x) s ∧ x.d.toNat < 24 ∧ x.a.toNat < 24 ∧ exec (.cmpi x) s = .next t) ∧
    (∃ (x : FormS3) (s t : State), Issues (.fopLt x) s ∧ plainS3 x ∧ exec (.fopLt x) s = .next t) ∧
    (∃ (x : FormS3) (s t : State), Issues (.fopAbs x) s ∧ plainS3 x ∧ exec (.fopAbs x) s = .next t) :=
  ⟨⟨{ zS3 with d := 5, a := 1, b := 2 }, st core0, _, issues_of _ _ (by decide +kernel), by unfold plainS3; decide, rfl⟩,
    ⟨{ zS3 with d := 5, a := 1, b := 2 }, st core0, _, issues_of _ _ (by decide +kernel), by unfold plainS3; decide, rfl⟩,
    ⟨⟨0, 5, 1, 3⟩, st core0, _, issues_of _ _ (by decide +kernel), by decide, by decide, rfl⟩,
    ⟨{ zS3 with d := 5, a := 1, b := 2 }, st core0, _, issues_of _ _ (by decide +kernel), by unfold plainS3; decide, rfl⟩,
    ⟨⟨0, 5, 9⟩, st core0, _, issues_of _ _ (by decide +kernel), by decide, rfl⟩,
    ⟨⟨0, 0, 1, 2, 0, 7⟩, st core0, _, issues_of _ _ (by decide +kernel), by decide, by decide, rfl⟩,
    ⟨{ zS3 with d := 0, a := 1, b := 2, fd := 2, ty := 8 }, st core0, _, issues_of _ _ (by decide +kernel), by unfold plainS3; decide, rfl⟩,
    ⟨{ zS3 with d := 5, a := 1, b := 2, ty := 8 }, st core0, _, issues_of _ _ (by decide +kernel), by unfold plainS3; decide, rfl⟩⟩

/-- Hypotheses of StoresTouchOnlyTheirBytes. -/
theorem witness_StoresTouchOnlyTheirBytes :
    (∃ (x : FormM) (s s1 s2 : State) (v : Word) (pa : Nat) (c1 : Core), (Issues (.stx x) s) ∧ (scalarRead s.me x.d = some (v, c1)) ∧ (effective s.me x % 2 ^ x.sz.toNat = 0) ∧ (Translates s (effective s.me x) true pa s1) ∧ (ReleaseReady s x) ∧ (extWrite s1 pa (bytesOfNat (2 ^ x.sz.toNat) v.toNat) = some s2)) ∧
    (∃ (x : FormM) (s : State) (v : Word) (lid a : Nat) (c1 : Core), (Issues (.stc x) s) ∧ (scalarRead s.me x.d = some (v, c1)) ∧ (CluAccess s x (effective s.me x) (2 ^ x.sz.toNat) lid a) ∧ (ReleaseReady s x) ∧ (s.me.sb.length < 16)) ∧
    (∃ (x : FormM) (s : State) (v : Word) (c1 : Core), (Issues (.stl x) s) ∧ (scalarRead s.me x.d = some (v, c1)) ∧ (LocAccess c1 (effective s.me x) (2 ^ x.sz.toNat)) ∧ (ReleaseReady s x) ∧ (s.me.sb.length < 16)) :=
  ⟨⟨{ zM with d := 5, a := 1, sz := 3 }, stX core0, _, _, _, _, _, issues_of _ _ (by decide +kernel), rfl, by decide +kernel, ⟨by decide +kernel, by decide +kernel, _, _, _, rfl, rfl, rfl⟩, by unfold ReleaseReady; decide, rfl⟩,
    ⟨{ zM with d := 5, a := 1, sz := 3 }, st core0, _, 0, 0x200, _, issues_of _ _ (by decide +kernel), rfl, by unfold CluAccess; exact ⟨by decide, by decide, by decide, 0, rfl, rfl⟩, by unfold ReleaseReady; decide, by decide +kernel⟩,
    ⟨{ zM with d := 5, a := 1, sz := 3 }, st core0, _, _, issues_of _ _ (by decide +kernel), rfl, by unfold LocAccess redirected; decide +kernel, by unfold ReleaseReady; decide, by decide +kernel⟩⟩

/-- Hypotheses of SystemInstructionsComplete. -/
theorem witness_SystemInstructionsComplete :
    (∃ (x : FormY) (s : State) (t : Task) (rest : List Task), (Issues (.halt x) s) ∧ (s.inRpt = false) ∧ (s.me.sb = []) ∧ (s.me.runq = t :: rest)) ∧
    (∃ (x : FormY) (s : State) (t : Task) (rest : List Task) (r : Region), (Issues (.haltRgn x) s) ∧ (s.inRpt = false) ∧ (s.me.sb = []) ∧ (s.me.runq = t :: rest) ∧ (s.regionOf s.cur = some r)) ∧
    (∃ (s : State) (rest : List Move) (r : Region) (role code : Nat), (s.sched = .stop r.id :: rest) ∧ (s.regions.find? (·.id == r.id) = some r) ∧ ((∃ t, r.stopFrom = some t ∧ t ≠ s.cycle)) ∧ (r.gathered = []) ∧ ((r.halts.map (·.1)).Nodup) ∧ ((role, code) ∈ r.halts) ∧ ((∀ p ∈ r.halts, role ≤ p.1)) ∧ (code < 2 ^ 15)) ∧
    (∃ (x : FormY) (s : State) (r : Region) (n : Node) (c1 : Core), (Issues (.feat x) s) ∧ (s.regionOf s.cur = some r) ∧ (s.leafOf r = some n) ∧ (scalarWrite s.me x.d (featGives s r n x.code.toNat) = some c1)) ∧
    (∃ (x : FormY) (s : State) (a : Word) (c1 : Core), (Issues (.syscall x) s) ∧ (s.inRpt = false) ∧ (HandlesTraps s.me) ∧ (scalarRead s.me x.a = some (a, c1))) ∧
    (∃ (x : FormY) (s : State) (r : Region) (j : Job) (a : Word) (p : Pending), (Issues (.syscallNotify x) s) ∧ (x.d.toNat < 24) ∧ (x.a.toNat < 24) ∧ (a = s.me.reg x.a.toNat) ∧ (s.regionOf s.cur = some r) ∧ (s.job r.job = some j) ∧ ((s.queue j.queue).full = false) ∧ (p = { words := recordWords r.job 4 0 0 (r.roleOf s.cur) a 0, ready := .now })) ∧
    (∃ (x : FormY) (s s1 : State) (r : Region) (n : Node) (v : Nat), (Issues (.syscallStep x) s) ∧ (x.d.toNat < 24) ∧ (x.a.toNat < 24) ∧ (s.regionOf s.cur = some r) ∧ (s.leafOf r = some n) ∧ ((if n.images.length ≤ r.cfgseq then v = 2 ∧ s1 = s else if r.step ≠ .none then v = 1 ∧ s1 = s else v = 0 ∧ s1 = s.setRegion { r with step := .requested }))) :=
  ⟨⟨zY, stJ { core0 with prv := true } bareRegion, _, _, issues_of _ _ (by decide +kernel), rfl, rfl, rfl⟩,
    ⟨zY, stJ { core0 with prv := true } bareRegion, _, _, _, issues_of _ _ (by decide +kernel), rfl, rfl, rfl, rfl⟩,
    ⟨{ stJ core0 { bareRegion with halts := [(0, 5)], stopFrom := some 1 } with sched := [.stop bareRegion.id] }, _, { bareRegion with halts := [(0, 5)], stopFrom := some 1 }, 0, 5, rfl, rfl, ⟨1, rfl, by decide⟩, rfl, by decide +kernel, by decide +kernel, by decide +kernel, by decide⟩,
    ⟨{ zY with d := 5, code := 5 }, stJ core0 bareRegion, _, _, _, issues_of _ _ (by decide +kernel), rfl, rfl, rfl⟩,
    ⟨{ zY with a := 1, code := 7 }, stJ core0 bareRegion, _, _, issues_of _ _ (by decide +kernel), rfl, ⟨rfl, rfl⟩, rfl⟩,
    ⟨{ zY with d := 5, a := 1, code := 0x8000 }, stJ core0 bareRegion, _, _, _, _, issues_of _ _ (by decide +kernel), by decide +kernel, by decide +kernel, rfl, rfl, rfl, rfl, rfl⟩,
    ⟨{ zY with d := 5, a := 1, code := 0x8001 }, stJ core0 bareRegion, _, _, _, _, issues_of _ _ (by decide +kernel), by decide +kernel, by decide +kernel, rfl, rfl, by rw [if_neg (by decide +kernel), if_neg (by decide +kernel)]; exact ⟨rfl, rfl⟩⟩⟩

/-- Hypotheses of StreamEventsHappen. -/
theorem witness_StreamEventsHappen :
    (∃ (eng ctx : Nat) (s : State) (c c1 : StreamCtx) (ps : List (Nat × Nat)) (bytes : List Byte) (j : Inject) (f : Flit) (rest : List Flit), (StreamAt s eng ctx c) ∧ (c.dir ≠ 2) ∧ (c.got = []) ∧ (c.running = true) ∧ (c.closing = false) ∧ (c.items < c.total) ∧ (s.streamsRun c = true) ∧ (PagesStand s c) ∧ (StreamCtx.xlateAll s (s.rootAt c.lid) false c (itemPieces c) = .pieces ps c1) ∧ (readPieces s ps = some bytes) ∧ (c1.flitsOf c.items (splitBytes (c.places c.items) bytes) = f :: rest) ∧ (MayEnter s c j)) ∧
    (∃ (eng ctx : Nat) (s : State) (c : StreamCtx) (j : Inject) (f : Flit) (rest : List Flit), (StreamAt s eng ctx c) ∧ (c.dir ≠ 2) ∧ (c.got = f :: rest) ∧ (s.streamsRun c = true) ∧ (MayEnter s c j)) ∧
    (∃ (eng ctx : Nat) (s s1 : State) (c c1 : StreamCtx) (ps : List (Nat × Nat)), (StreamAt s eng ctx c) ∧ (c.dir = 2) ∧ (c.flitsPerItem ≤ c.got.length) ∧ (s.streamsFinish c = true) ∧ (PagesStand s c) ∧ (StreamCtx.xlateAll s (s.rootAt c.lid) true c (itemPieces c) = .pieces ps c1) ∧ (writePieces s ps (c1.bytesOf c.got).flatten = some s1)) ∧
    (∃ (eng ctx : Nat) (s : State) (c : StreamCtx) (code : BitVec 2), (StreamAt s eng ctx c) ∧ (c.got = []) ∧ (s.streamsFinish c = true) ∧ ((c.closing = true ∧ code = 2 ∨ c.closing = false ∧ c.running = true ∧ c.total ≤ c.items ∧ code = 1))) ∧
    (∃ (lid : Nat) (s : State) (k : Token) (rest : List (Nat × Token)), (lid < coreCount) ∧ (s.tokens = (lid, k) :: rest)) ∧
    (∃ (eng ctx pa : Nat) (s : State) (c c1 : StreamCtx) (st : Stall), (eng < 48) ∧ (ctx < 32) ∧ (s.ctx eng ctx = some c) ∧ (c.ended = false) ∧ (c.stall = some st) ∧ (st.lastTry + 16384 ≤ s.cycle.toNat) ∧ (s.streamsRun c = true) ∧ (c.xlate s (s.rootAt c.lid) st.va st.write = .ok (pa, c1))) ∧
    (∃ (lid pa size : Nat) (w : Bool) (s : State) (x : ScalarStall), (lid < coreCount) ∧ (s.scalarStalls = [x]) ∧ (x.lid = lid) ∧ (x.stall.lastTry + 16384 ≤ s.cycle.toNat) ∧ (s.coreLive lid = true) ∧ (walk s (s.rootAt lid) x.stall.va x.stall.write = .leaf pa size w)) ∧
    (∃ (eng : Nat) (s : State), (eng < 48) ∧ ((s.brim eng).ctxs = []) ∧ (s.scalarStalls = [])) ∧
    (∃ (eng : Nat) (s : State), (eng < 48)) :=
  ⟨⟨0, 0, stC ctxW, ctxW, _, _, _, { role := 0, tag := 0, lid := 5, dir := .north, inTag := 3 }, _, _, ⟨by decide, by decide, rfl, rfl, rfl⟩, by decide +kernel, rfl, rfl, rfl, by decide +kernel, rfl, fun _ _ _ _ => rfl, rfl, rfl, rfl, ⟨rfl, by decide +kernel, fun h => absurd h (by decide +kernel)⟩⟩,
    ⟨0, 0, stC { ctxW with got := [flit1] }, { ctxW with got := [flit1] }, { role := 0, tag := 0, lid := 5, dir := .north, inTag := 3 }, flit1, [], ⟨by decide, by decide, rfl, rfl, rfl⟩, by decide +kernel, rfl, rfl, ⟨rfl, by decide +kernel, fun h => absurd h (by decide +kernel)⟩⟩,
    ⟨0, 0, stC { ctxW with desc := [0, 0, 0, 0, 0, 0x20, 0, 0], got := [flit1] }, _, { ctxW with desc := [0, 0, 0, 0, 0, 0x20, 0, 0], got := [flit1] }, _, _, ⟨by decide, by decide, rfl, rfl, rfl⟩, by decide +kernel, by decide +kernel, rfl, fun _ _ _ _ => rfl, rfl, rfl⟩,
    ⟨0, 0, stC { ctxW with items := 1 }, { ctxW with items := 1 }, 1, ⟨by decide, by decide, rfl, rfl, rfl⟩, rfl, rfl, .inr ⟨rfl, rfl, by decide +kernel, rfl⟩⟩,
    ⟨0, { st core0 with tokens := [(0, .stream 1)] }, .stream 1, [], by decide, rfl⟩,
    ⟨0, 0, _, { stC { ctxW with stall := some stall0 } with cycle := 0x8000 }, { ctxW with stall := some stall0 }, _, _, by decide, by decide, rfl, rfl, rfl, by decide +kernel, rfl, rfl⟩,
    ⟨0, 0x2000, 4096, true, { stP with cycle := 0x8000, scalarStalls := [{ lid := 0, stall := { stall0 with va := 0x1000 }, report := [] }] }, { lid := 0, stall := { stall0 with va := 0x1000 }, report := [] }, by decide, rfl, rfl, by decide +kernel, rfl, by decide +kernel⟩,
    ⟨47, st core0, by decide, by decide +kernel, rfl⟩,
    ⟨47, st core0, by decide⟩⟩

/-- Hypotheses of FlitsAreForwarded. -/
theorem witness_FlitsAreForwarded :
    (∃ (lid o n d i : Nat) (p : Place) (s : State) (f : Flit) (e : Word), (HeadsFor s lid p i f e) ∧ (plainEntry e) ∧ (OneOutput s lid p f e o (.port n d)) ∧ (n ≠ lid)) ∧
    (∃ (lid n i : Nat) (p : Place) (s : State) (f : Flit) (e : Word), (HeadsFor s lid p i f e) ∧ (plainEntry e) ∧ (OneOutput s lid p f e 4 (.queue n))) ∧
    (∃ (lid n i : Nat) (p : Place) (s : State) (f : Flit) (e : Word) (b : CbCtx) (a : Nat), (HeadsFor s lid p i f e) ∧ (plainEntry e) ∧ (OneOutput s lid p f e 4 (.buffer n)) ∧ (Table.find (s.core lid).cbs n = some b) ∧ (a = b.base + 16 * (b.tail * b.esz + b.pos))) ∧
    (∃ (lid n i : Nat) (p : Place) (s : State) (f : Flit) (e : Word) (b : CbCtx), (HeadsFor s lid p i f e) ∧ (plainEntry e) ∧ (outputsOf e = [4]) ∧ (sinkOf s lid { flit := f, entry := e } 4 = .buffer n) ∧ (Table.find (s.core lid).cbs n = some b) ∧ (bufferAccepts f.fmt = false)) ∧
    (∃ (lid n i : Nat) (p : Place) (s : State) (f : Flit) (e : Word) (b : CbCtx), (HeadsFor s lid p i f e) ∧ (plainEntry e) ∧ (OneOutput s lid p f e 4 (.bufferCredit n)) ∧ (Table.find (s.core lid).cbs n = some b)) :=
  ⟨⟨0, 1, 1, 3, 0, .out, stF core0 0xA000000000000000 flit1, flit1, 0xA000000000000000, ⟨by decide, .inl rfl, ⟨_, rfl⟩, by decide +kernel, by decide +kernel, by decide +kernel⟩, ⟨by decide +kernel, by decide +kernel⟩, ⟨by decide +kernel, by decide +kernel, by decide +kernel, by decide +kernel, by decide +kernel, by decide +kernel⟩, by decide +kernel⟩,
    ⟨0, 3, 0, .out, stF core0 0x8430000000000000 flit1, flit1, 0x8430000000000000, ⟨by decide, .inl rfl, ⟨_, rfl⟩, by decide +kernel, by decide +kernel, by decide +kernel⟩, ⟨by decide +kernel, by decide +kernel⟩, ⟨by decide +kernel, by decide +kernel, by decide +kernel, by decide +kernel, by decide +kernel, by decide +kernel⟩⟩,
    ⟨0, 2, 0, .out, stF { core0 with cbs := [(2, { record := 0x0000001000030200, count := 0, head := 0, tail := 0, pos := 0, err := none, exc := false })] } 0x8430000000000000 (mkFlit 1 0 false false 0 0 0 1 77), (mkFlit 1 0 false false 0 0 0 1 77), 0x8430000000000000, { record := 0x0000001000030200, count := 0, head := 0, tail := 0, pos := 0, err := none, exc := false }, _, ⟨by decide, .inl rfl, ⟨_, rfl⟩, by decide +kernel, by decide +kernel, by decide +kernel⟩, ⟨by decide +kernel, by decide +kernel⟩, ⟨by decide +kernel, by decide +kernel, by decide +kernel, by decide +kernel, by decide +kernel, by decide +kernel⟩, rfl, rfl⟩,
    ⟨0, 2, 0, .out, stF { core0 with cbs := [(2, { record := 0x0000001000030200, count := 0, head := 0, tail := 0, pos := 0, err := none, exc := false })] } 0x8430000000000000 flit1, flit1, 0x8430000000000000, { record := 0x0000001000030200, count := 0, head := 0, tail := 0, pos := 0, err := none, exc := false }, ⟨by decide, .inl rfl, ⟨_, rfl⟩, by decide +kernel, by decide +kernel, by decide +kernel⟩, by unfold plainEntry; decide +kernel, by decide +kernel, by decide +kernel, rfl, rfl⟩,
    ⟨0, 2, 0, .out, stF { core0 with cbs := [(2, { record := 0x0004080000030200, count := 0, head := 0, tail := 0, pos := 0, err := none, exc := false })] } 0x8430000000000000 (mkFlit 0 5 false false 0 0 0 1 77), (mkFlit 0 5 false false 0 0 0 1 77), 0x8430000000000000, { record := 0x0004080000030200, count := 0, head := 0, tail := 0, pos := 0, err := none, exc := false }, ⟨by decide, .inl rfl, ⟨_, rfl⟩, by decide +kernel, by decide +kernel, by decide +kernel⟩, ⟨by decide +kernel, by decide +kernel⟩, ⟨by decide +kernel, by decide +kernel, by decide +kernel, by decide +kernel, by decide +kernel, by decide +kernel⟩, rfl⟩⟩

/-- Hypotheses of EntriesCombineFlits. -/
theorem witness_EntriesCombineFlits :
    (∃ (lid tag : Nat) (s : State) (r : Region) (e : Word) (bs : List (SumBlock × Option SumBlock)), (lid < coreCount) ∧ (tag < 128) ∧ (s.ownerOf lid tag = some r) ∧ (r.moving = true) ∧ (e = (s.core lid).route tag) ∧ (entV e = true) ∧ (entOp e = 1) ∧ (((s.core lid).router.sum tag).formed = []) ∧ (((s.core lid).router.sum tag).blocks (entArg e + 1) = some bs)) ∧
    (∃ (e : Word) (bs : List SumBlock), entAcc e = 0 ∧ bs ≠ [] ∧ ∀ b ∈ bs, b.isI32 = true ∧ b.elems.length = 4 ∧ b.bxTec = none) ∧
    (∃ (t : Nat) (e : Word) (sm : SumState) (bs : List (SumBlock × Option SumBlock)) (r : Ba40) (sat : Bool), bs ≠ [] ∧
  (∀ b ∈ bs, b.1.isI32 = false ∧ b.1.elems.length = 16) ∧ (∀ b, sm.run = some b → b.elems.length = 16) ∧ (sm.run = none ↔ sm.q = 0) ∧
  -32768 ≤ r.exp ∧ r.exp ≤ 32767 ∧ FoldsTo sm.q ((sm.run.map (·.exp)).getD 0) (sm.run.map blockOf) (bs.map fun b => blockOf b.1) r sat ∧
  sm.q = entAcc e) ∧
    (∃ (lid tag : Nat) (s : State) (r : Region) (e : Word) (sm : SumState) (f : Flit) (fs : List Flit), (lid < coreCount) ∧ (tag < 128) ∧ (s.ownerOf lid tag = some r) ∧ (r.moving = true) ∧ (e = (s.core lid).route tag) ∧ (entV e = true) ∧ (entOp e = 1) ∧ (sm = (s.core lid).router.sum tag) ∧ (sm.formed = []) ∧ ((f :: fs).length = entArg e + 1) ∧ ((∀ k < entArg e + 1, Table.find sm.slots k = ((f :: fs)[k]?).map .ctl))) ∧
    (∃ (lid i : Nat) (p : Place) (s : State) (f : Flit) (e : Word) (n : RenormRec) (q : Nat), (HeadsFor s lid p i f e) ∧ (entOp e = 3) ∧ (f.kind = 2) ∧ (entOmask e = 0) ∧ (n = (s.core lid).router.renorm (entAtag e)) ∧ (q = bitsOf f.payload 16 12)) ∧
    (∃ (lid i : Nat) (p : Place) (s : State) (f : Flit) (e : Word) (a : Adapter), (HeadsFor s lid p i f e) ∧ (entOp e = 2) ∧ (f.kind = 0) ∧ (a = (s.core lid).router.adapter f.tag.toNat) ∧ (a.formed = []) ∧ (isBx f.fmt = true) ∧ (bxKind f.fmt ≠ entArg e)) :=
  ⟨⟨0, 1, st { core0 with router := { core0.router with routes := [(1, 0xA000024000000000)], sums := [(1, { SumState.reset with slots := [(0, .block { isI32 := true, elems := [1, 2, 3, 4], exp := 0, exc := false, rel := false, dend := 0, seq := 0, bxTec := none, special := false } none), (1, .block { isI32 := true, elems := [1, 2, 3, 4], exp := 0, exc := false, rel := false, dend := 0, seq := 0, bxTec := none, special := false } none)] })] } }, _, _, _, by decide, by decide, rfl, rfl, rfl, by decide +kernel, by decide +kernel, by decide +kernel, rfl⟩,
    ⟨0xA000024000000000, [{ isI32 := true, elems := [1, 2, 3, 4], exp := 0, exc := false, rel := false, dend := 0, seq := 0, bxTec := none, special := false }], by decide +kernel, by decide, by decide⟩,
    ⟨1, 0xA000024000000000, SumState.reset, [(blockW 0, none), (blockW 1, none)], sumW, false, by decide, by decide +kernel,
    fun _ h => (nomatch h), by decide, by decide, by decide,
    ⟨blockOf (blockW 0), rfl, ⟨blockOf (blockW 1), rfl, sumW, false, false,
      ⟨1, List.replicate 16 2, List.replicate 16 3, by decide +kernel, rounded_w 1 3 2 (by unfold Rne; decide) 16, rounded_w 0 3 3 (by unfold Rne; decide) 16,
        .inl ⟨by decide +kernel, rfl, rfl⟩⟩, ⟨rfl, rfl⟩, rfl⟩⟩, by decide +kernel⟩,
    ⟨0, 1, st { core0 with router := { core0.router with routes := [(1, 0xA000024000000000)], sums := [(1, { SumState.reset with slots := [(0, .ctl (mkFlit 15 3 false false 0 0 0 5 1)), (1, .ctl (mkFlit 15 3 false false 0 0 0 5 1))] })] } }, _, _, { SumState.reset with slots := [(0, .ctl (mkFlit 15 3 false false 0 0 0 5 1)), (1, .ctl (mkFlit 15 3 false false 0 0 0 5 1))] }, mkFlit 15 3 false false 0 0 0 5 1, [mkFlit 15 3 false false 0 0 0 5 1], by decide, by decide, rfl, rfl, rfl, by decide +kernel, by decide +kernel, rfl, rfl, by decide +kernel, by decide +kernel⟩,
    ⟨0, 0, .out, stF core0 0x8000060000000000 (mkFlit 0 2 false false 0 0 0 1 77), (mkFlit 0 2 false false 0 0 0 1 77), 0x8000060000000000, _, _, ⟨by decide, .inl rfl, ⟨_, rfl⟩, by decide +kernel, by decide +kernel, by decide +kernel⟩, by decide +kernel, by decide +kernel, by decide +kernel, rfl, rfl⟩,
    ⟨0, 0, .out, stF core0 0xA000040000000000 (mkFlit 6 0 false false 0 0 0 1 77), (mkFlit 6 0 false false 0 0 0 1 77), 0xA000040000000000, _, ⟨by decide, .inl rfl, ⟨_, rfl⟩, by decide +kernel, by decide +kernel, by decide +kernel⟩, by decide +kernel, by decide +kernel, rfl, rfl, rfl, by decide +kernel⟩⟩

/-- Hypotheses of QueueRegistersAndRecords. -/
theorem witness_QueueRegistersAndRecords :
    (∃ (q : Nat) (v : BitVec 64) (s : State), (q < 32768)) ∧
    (∃ (q : Nat) (v : BitVec 64) (s : State), (q < 32768)) ∧
    (∃ (q : Nat) (v : BitVec 64) (s : State), (q < 32768)) ∧
    (∃ (q : Nat) (v : BitVec 64) (s : State), (q < 32768)) ∧
    (∃ (q : Nat) (v : BitVec 64) (s : State), (q < 32768)) ∧
    (∃ (q a : Nat) (s : State) (k : Queue) (p : Pending) (rest : List Pending), (q < 32768) ∧ (k = s.queue q) ∧ (k.records = p :: rest) ∧ (p.ready = .now) ∧ (p.words.length = 4) ∧ (k.full = false) ∧ (s.mg.waferOn = true) ∧ (a = bitsOf k.cqcfg 12 52 * 4096 + 32 * k.cqtail.toNat)) :=
  ⟨⟨0, 0x10000000041, { st core0 with queues := [(0, queue0)] }, by decide⟩,
    ⟨0, 0x10000000041, { st core0 with queues := [(0, queue0)] }, by decide⟩,
    ⟨0, 0x10000000041, { st core0 with queues := [(0, queue0)] }, by decide⟩,
    ⟨0, 0x10000000041, { st core0 with queues := [(0, queue0)] }, by decide⟩,
    ⟨0, 0x10000000041, { st core0 with queues := [(0, queue0)] }, by decide⟩,
    ⟨0, _, { st core0 with queues := [(0, { queue0 with records := [{ words := [1, 2, 3, 4], ready := .now }] })] }, _, { words := [1, 2, 3, 4], ready := .now }, [], by decide, rfl, rfl, rfl, rfl, by decide +kernel, rfl, rfl⟩⟩

/-- Hypotheses of LaunchesMakeJobs. -/
theorem witness_LaunchesMakeJobs :
    (∃ (q : Nat) (s : State) (e : QueueEntry) (w : Walked), EntryAt s q 1 e ∧ (∀ j ∈ s.jobs, j.tag ≠ e.tag) ∧ walkJob (s.takeEntry q) e.arg0 = .ok w) ∧
    (∃ (q : Nat) (s : State) (e : QueueEntry) (r : Reject), (EntryAt s q 1 e) ∧ ((∀ j ∈ s.jobs, j.tag ≠ e.tag)) ∧ (walkJob (s.takeEntry q) e.arg0 = .error r)) ∧
    (∃ (q : Nat) (s : State) (e : QueueEntry) (j : Job), (EntryAt s q 1 e) ∧ (j ∈ s.jobs) ∧ (j.tag = e.tag)) ∧
    (∃ (q : Nat) (s : State) (e : QueueEntry), (q < 32768) ∧ (s.nextEntry q = some e) ∧ (s.servesNext q = true) ∧ ((e.ty = 0 ∨ 6 < e.ty ∨ e.ty = 1 ∧ e.clean = false))) :=
  ⟨by
  have h : (match walkJob ((stM 1 0x10).takeEntry 0) 0x1000 with
      | .ok _ => true
      | .error _ => false) = true := by decide +kernel
  cases hw : walkJob ((stM 1 0x10).takeEntry 0) 0x1000 with
  | error r => rw [hw] at h; cases h
  | ok w => exact ⟨0, stM 1 0x10, { ty := 1, tag := 7, arg0 := 0x1000, arg1 := 0, clean := true }, w, ⟨by decide, by decide +kernel, by decide +kernel, rfl, by decide, by decide, rfl⟩, by decide +kernel, hw⟩,
    ⟨0, stM 1 0x20, { ty := 1, tag := 7, arg0 := 0x2000, arg1 := 0, clean := true }, { status := 1, info := 0, addr := 0x2000 }, ⟨by decide, by decide +kernel, by decide +kernel, rfl, by decide, by decide, rfl⟩, by decide +kernel, by rw [show walkJob ((stM 1 0x20).takeEntry 0) 0x2000 = .error { status := 1, info := 0, addr := 0x2000 } from by unfold walkJob; rw [show rootWords ((stM 1 0x20).takeEntry 0) 0x2000 = some (List.replicate 16 0) from by decide +kernel]; simp only; rw [show visitNode ((stM 1 0x20).takeEntry 0) ((List.replicate 16 (0 : Word)).getD 7 0).toNat [] 0x2000 none (List.replicate 16 0) = none from by decide +kernel]; rfl]⟩,
    ⟨0, stR 1 0x10 rgnJ, { ty := 1, tag := 7, arg0 := 0x1000, arg1 := 0, clean := true }, jobJ, ⟨by decide, by decide +kernel, by decide +kernel, rfl, by decide, by decide, rfl⟩, by decide +kernel, rfl⟩,
    ⟨0, stM 0 0x10, { ty := 0, tag := 7, arg0 := 0x1000, arg1 := 0, clean := true }, by decide, by decide +kernel, rfl, by decide +kernel⟩⟩

/-- Hypotheses of QueueEntriesAct. -/
theorem witness_QueueEntriesAct :
    (∃ (q : Nat) (s : State) (e : QueueEntry) (rs : List Region), (EntryAt s q 2 e) ∧ (e.arg0 ≤ 83) ∧ ((s.regions.map (·.id)).Nodup) ∧ ((∀ r ∈ s.regions, r.part = e.arg0 → r.bind ≠ [] → r.mayDecide s 3 = true ∧ r.stopFrom = none ∧ r.st ≠ .loading ∧ r.st ≠ .staged)) ∧ (rs = s.regions.map (fun r => if r.part = e.arg0 ∧ r.bind ≠ [] ∧ r.st = .live then { r with st := .draining, latest := some (s.cycle, 3) } else r))) ∧
    (∃ (q : Nat) (s : State) (e : QueueEntry), (EntryAt s q 2 e) ∧ (e.arg0 ≤ 83) ∧ ((s.regions.map (·.id)).Nodup) ∧ ((∀ r ∈ s.regions, r.part = e.arg0 → r.bind ≠ [] → r.mayDecide s 3 = true ∧ r.stopFrom = none))) ∧
    (∃ (q : Nat) (s : State) (e : QueueEntry) (r : Region), (EntryAt s q 2 e) ∧ (e.arg0 ≤ 83) ∧ (r ∈ s.regions) ∧ (r.part = e.arg0) ∧ (r.bind ≠ []) ∧ (r.stopFrom.isSome = true)) ∧
    (∃ (q : Nat) (s : State) (e : QueueEntry), (EntryAt s q 2 e) ∧ (83 < e.arg0)) ∧
    (∃ (q : Nat) (s : State) (e : QueueEntry) (j : Job), (EntryAt s q 3 e) ∧ (s.job e.tag = some j) ∧ ((s.regions.map (·.id)).Nodup)) ∧
    (∃ (q : Nat) (s : State) (e : QueueEntry) (j : Job), (EntryAt s q 4 e) ∧ (s.job e.tag = some j) ∧ ((s.regions.map (·.id)).Nodup)) ∧
    (∃ (q : Nat) (s : State) (e : QueueEntry) (j : Job), (EntryAt s q 5 e) ∧ (s.job e.tag = some j) ∧ ((s.regions.map (·.id)).Nodup) ∧ ((∀ r ∈ s.regions, r.job = e.tag → r.mayDecide s 2 = true ∧ r.stopFrom = none))) ∧
    (∃ (q : Nat) (s : State) (e : QueueEntry), (EntryAt s q 5 e) ∧ (s.job e.tag = none) ∧ ((∀ r ∈ s.regions, r.job ≠ e.tag))) ∧
    (∃ (q : Nat) (s : State) (e : QueueEntry) (r : Region), (EntryAt s q 5 e) ∧ (r ∈ s.regions) ∧ (r.job = e.tag) ∧ (r.stopFrom.isSome = true)) ∧
    (∃ (q : Nat) (s : State) (e : QueueEntry) (j : Job), (EntryAt s q 6 e) ∧ (s.job e.tag = some j)) ∧
    (∃ p ∈ [(3, Instr.resume), (4, .release), (6, .invalidate)], ∃ (q : Nat) (s : State) (e : QueueEntry), (EntryAt s q p.1 e) ∧ (s.job e.tag = none)) :=
  ⟨⟨0, stR 2 0 { rgnS .live with part := 0 }, { ty := 2, tag := 7, arg0 := 0, arg1 := 0, clean := true }, _, ⟨by decide, by decide +kernel, by decide +kernel, rfl, by decide, by decide, rfl⟩, by decide +kernel, by decide +kernel, by decide +kernel, rfl⟩,
    ⟨0, stR 2 0 { rgnS .loading with part := 0 }, { ty := 2, tag := 7, arg0 := 0, arg1 := 0, clean := true }, ⟨by decide, by decide +kernel, by decide +kernel, rfl, by decide, by decide, rfl⟩, by decide +kernel, by decide +kernel, by decide +kernel⟩,
    ⟨0, stR 2 0 { rgnS .live with part := 0, stopFrom := some 3 }, { ty := 2, tag := 7, arg0 := 0, arg1 := 0, clean := true }, { rgnS .live with part := 0, stopFrom := some 3 }, ⟨by decide, by decide +kernel, by decide +kernel, rfl, by decide, by decide, rfl⟩, by decide +kernel, .head _, rfl, by decide +kernel, rfl⟩,
    ⟨0, stR 2 0x10 rgnJ, { ty := 2, tag := 7, arg0 := 0x1000, arg1 := 0, clean := true }, ⟨by decide, by decide +kernel, by decide +kernel, rfl, by decide, by decide, rfl⟩, by decide +kernel⟩,
    ⟨0, stR 3 0 (rgnS .saved), { ty := 3, tag := 7, arg0 := 0, arg1 := 0, clean := true }, _, ⟨by decide, by decide +kernel, by decide +kernel, rfl, by decide, by decide, rfl⟩, rfl, by decide +kernel⟩,
    ⟨0, stR 4 0 { rgnS .frozen with fault := some [0x10] }, { ty := 4, tag := 7, arg0 := 0, arg1 := 0, clean := true }, _, ⟨by decide, by decide +kernel, by decide +kernel, rfl, by decide, by decide, rfl⟩, rfl, by decide +kernel⟩,
    ⟨0, stR 5 0 rgnJ, { ty := 5, tag := 7, arg0 := 0, arg1 := 0, clean := true }, _, ⟨by decide, by decide +kernel, by decide +kernel, rfl, by decide, by decide, rfl⟩, rfl, by decide +kernel, by decide +kernel⟩,
    ⟨0, stM 5 0, { ty := 5, tag := 7, arg0 := 0, arg1 := 0, clean := true }, ⟨by decide, by decide +kernel, by decide +kernel, rfl, by decide, by decide, rfl⟩, rfl, by decide +kernel⟩,
    ⟨0, stR 5 0 { rgnS .live with part := 0, stopFrom := some 3 }, { ty := 5, tag := 7, arg0 := 0, arg1 := 0, clean := true }, { rgnS .live with part := 0, stopFrom := some 3 }, ⟨by decide, by decide +kernel, by decide +kernel, rfl, by decide, by decide, rfl⟩, .head _, rfl, rfl⟩,
    ⟨0, stR 6 0x10 rgnJ, { ty := 6, tag := 7, arg0 := 0x1000, arg1 := 0, clean := true }, _, ⟨by decide, by decide +kernel, by decide +kernel, rfl, by decide, by decide, rfl⟩, rfl⟩,
    ⟨_, .head _, 0, stM 3 0x10, { ty := 3, tag := 7, arg0 := 0x1000, arg1 := 0, clean := true }, ⟨by decide, by decide +kernel, by decide +kernel, rfl, by decide, by decide, rfl⟩, rfl⟩⟩

/-- Hypotheses of RegionsLoadAndEnd. -/
theorem witness_RegionsLoadAndEnd :
    (∃ (rg : Nat) (s s0 s1 s2 : State) (r : Region) (j : Job) (pl : Placement) (tried : List Tried) (i : Image) (key : MapKey), MayBePlaced s rg r j tried ∧ noteTried s tried = some s0 ∧ Placeable s0 j r tried pl i key ∧ layRoutes s0 pl = some s1 ∧ realises (s1.setRegion (placedAs r pl)) (placedAs r pl) i = true ∧ openAll (s1.setRegion (placedAs r pl)) (declaredStreams i (placedAs r pl)) = some s2) ∧
    (∃ (rg : Nat) (s s0 : State) (r : Region) (j : Job) (tried : List Tried), (RegionIs s rg r) ∧ (s.job r.job = some j) ∧ (s.mg.waferOn = true) ∧ (r.st = .empty) ∧ (r.done = none) ∧ ((∀ d ∈ s.depsOf r, d.failed = false)) ∧ (noteTried s tried = some s0) ∧ (unplaceable s j r tried = true)) ∧
    (∃ (rg : Nat) (s : State) (r : Region) (j : Job) (pls : MapperAnswer), (RegionIs s rg r) ∧ (s.job r.job = some j) ∧ (s.mg.waferOn = true) ∧ (r.st = .empty) ∧ (r.done = none) ∧ ((∃ d ∈ s.depsOf r, d.failed = true))) ∧
    (∃ (rg : Nat) (s : State) (r : Region) (i : Image), (RegionIs s rg r) ∧ (r.st = .loading) ∧ (r.evicted = false) ∧ (s.imageOf r (max 1 r.cfgseq) = some i)) ∧
    (∃ (rg : Nat) (s : State) (r : Region), (RegionIs s rg r) ∧ (r.st = .staged) ∧ (s.unitOf r = [r])) ∧
    (∃ (lid : Nat) (s : State) (r : Region), (lid < coreCount) ∧ (s.regionOf lid = some r) ∧ (lid ∈ r.pending) ∧ (r.moving = true) ∧ (s.collectives = []) ∧ ((∀ q, (s.core lid).rpt = some q → q.words ≠ []))) ∧
    (∃ (lid : Nat) (s : State) (r : Region), (lid < coreCount) ∧ (s.regionOf lid = some r) ∧ (r.st = .loading) ∧ (r.attempts = 0) ∧ (r.resuming = false)) ∧
    (∃ (lid : Nat) (s : State) (r : Region), (lid < coreCount) ∧ (s.regionOf lid = some r) ∧ (r.st = .loading) ∧ (0 < r.attempts)) ∧
    (∃ (rg : Nat) (s : State) (r : Region), (RegionIs s rg r) ∧ (s.quiescent r = true) ∧ (r.mayDecide s 5 = true) ∧ (r.step = .none) ∧ (s.retiredWithTask r = none) ∧ ((∀ l ∈ r.bind, (s.core l).exitCode = 0))) ∧
    (∃ (rg k : Nat) (s : State) (r : Region), (RegionIs s rg r) ∧ (s.quiescent r = true) ∧ (r.mayDecide s 5 = true) ∧ (r.step = .none) ∧ (s.retiredWithTask r = some k) ∧ (k < 2 ^ 32)) ∧
    (∃ (rg k : Nat) (s : State) (r : Region), (RegionIs s rg r) ∧ (s.quiescent r = true) ∧ (r.mayDecide s 5 = true) ∧ (r.step = .pushed) ∧ (s.lacksPassage r = some k) ∧ (k < 2 ^ 32)) :=
  ⟨⟨1, stR 0 0 rgnJ, _, _, _, rgnJ, jobJ, placeJ, [], _, _, ⟨⟨by decide +kernel, rfl⟩, by decide +kernel, rfl, rfl, rfl, rfl, by decide +kernel, by decide +kernel, by decide +kernel, by decide +kernel, by decide +kernel, by decide +kernel⟩, rfl, ⟨get_of (by decide +kernel), get_of (by decide +kernel), by decide +kernel, by decide +kernel, by decide +kernel, by decide +kernel, by decide +kernel⟩, get_of (by decide +kernel), by decide +kernel, get_of (by decide +kernel)⟩,
    ⟨1, { stR 0 0 rgnJ with mg := { (stR 0 0 rgnJ).mg with parts := [] } }, _, rgnJ, jobJ, [], ⟨by decide +kernel, rfl⟩, rfl, rfl, rfl, rfl, by decide +kernel, rfl, rfl⟩,
    ⟨1, { stR 0 0 rgnJ with regions := [rgnJ, rgnD], jobs := [jobK] }, rgnJ, jobK, ⟨none, []⟩, ⟨by decide +kernel, rfl⟩, rfl, rfl, rfl, rfl, ⟨rgnD, by decide +kernel, by decide +kernel⟩⟩,
    ⟨1, stR 0 0 (rgnS .loading), (rgnS .loading), _, ⟨by decide +kernel, rfl⟩, rfl, rfl, get_of (by decide +kernel)⟩,
    ⟨1, stR 0 0 (rgnS .staged), (rgnS .staged), ⟨by decide +kernel, rfl⟩, rfl, by decide +kernel⟩,
    ⟨0, stR 0 0 { rgnS .live with pending := [0] }, { rgnS .live with pending := [0] }, by decide, rfl, by decide +kernel, rfl, rfl, fun _ h => nomatch (show (none : Option Rpt) = some _ from h)⟩,
    ⟨0, stR 0 0 (rgnS .loading), (rgnS .loading), by decide, rfl, rfl, rfl, rfl⟩,
    ⟨0, stR 0 0 { rgnS .loading with attempts := 1 }, { rgnS .loading with attempts := 1 }, by decide, rfl, rfl, by decide +kernel⟩,
    ⟨1, stR 0 0 (rgnS .live), (rgnS .live), ⟨by decide +kernel, rfl⟩, rfl, rfl, rfl, rfl, by decide +kernel⟩,
    ⟨1, 0, { stR 0 0 { rgnS .live with idle := [0] } with retired := [.core 0], cores := [(0, { core0 with router := Router.reset })] }, { rgnS .live with idle := [0] }, ⟨by decide +kernel, rfl⟩, rfl, rfl, rfl, rfl, by decide⟩,
    ⟨1, 0, stR 0 0 { rgnS .live with step := .pushed }, { rgnS .live with step := .pushed }, ⟨by decide +kernel, rfl⟩, rfl, rfl, rfl, by decide +kernel, by decide⟩⟩

/-- Hypotheses of RegionEventsComplete. -/
theorem witness_RegionEventsComplete :
    (∃ (rg : Nat) (s s0 : State) (r : Region) (j : Job) (pl : Placement) (tried : List Tried), (MayBePlaced s rg r j tried) ∧ (noteTried s tried = some s0) ∧ ((placeAt s0 j r tried pl).isSome = true)) ∧
    (∃ (rg : Nat) (s : State) (r : Region), (RegionIs s rg r) ∧ (r.st = .loading) ∧ ((s.imageOf r (max 1 r.cfgseq)).isSome = true) ∧ ((r.evicted = true → ∀ n, s.leafOf r = some n → (vaSpan s (s.rootOf r) n.saveva r.saveBytes).isSome = true)) ∧ ((s.leafOf r).isSome = true)) ∧
    (∃ (rg : Nat) (s : State) (r : Region), (RegionIs s rg r) ∧ (r.st = .staged) ∧ ((∀ x ∈ s.unitOf r, x.st = .staged)) ∧ ((s.regions.map (·.id)).Nodup)) ∧
    (∃ (lid : Nat) (s : State) (r : Region), (lid < coreCount) ∧ (s.regionOf lid = some r) ∧ (lid ∈ r.pending) ∧ (r.moving = true)) ∧
    (∃ (lid : Nat) (s : State) (r : Region), (lid < coreCount) ∧ (s.regionOf lid = some r) ∧ (r.st = .loading ∨ r.st = .staged) ∧ (r.attempts = 0)) ∧
    (∃ (lid : Nat) (s : State) (r : Region), (lid < coreCount) ∧ (s.regionOf lid = some r) ∧ (r.st = .loading ∨ r.st = .staged ∨ (r.st = .live ∧ r.step ≠ .none)) ∧ (0 < r.attempts)) ∧
    (∃ (lid : Nat) (s : State) (r : Region), (lid < coreCount) ∧ (s.regionOf lid = some r) ∧ (r.st = .live) ∧ (r.step ≠ .none) ∧ (r.attempts = 0)) ∧
    (∃ (rg status : Nat) (s : State) (r : Region), (RegionIs s rg r) ∧ (s.quiescent r = true) ∧ (r.mayDecide s 5 = true) ∧ ((r.step = .none ∧ s.retiredWithTask r = none ∧ status = 0 ∨ r.step = .none ∧ (s.retiredWithTask r).isSome ∧ status = 10 ∨ r.step = .pushed ∧ (s.lacksPassage r).isSome ∧ status = 7 ∨ r.step = .requested ∧ (s.lacksPassage r).isSome ∧ s.tokenRoom r = false ∧ status = 7))) :=
  ⟨⟨1, stR 0 0 rgnJ, stR 0 0 rgnJ, rgnJ, jobJ, placeJ, [], ⟨⟨by decide +kernel, rfl⟩, by decide +kernel, rfl, rfl, rfl, rfl, by decide +kernel, by decide +kernel, by decide +kernel, by decide +kernel, by decide +kernel, by decide +kernel⟩, rfl, by decide +kernel⟩,
    ⟨1, stR 0 0 (rgnS .loading), (rgnS .loading), ⟨by decide +kernel, rfl⟩, rfl, rfl, fun h => absurd h (by decide), rfl⟩,
    ⟨1, stR 0 0 (rgnS .staged), (rgnS .staged), ⟨by decide +kernel, rfl⟩, rfl, by decide +kernel, by decide +kernel⟩,
    ⟨0, stR 0 0 { rgnS .live with pending := [0] }, { rgnS .live with pending := [0] }, by decide, rfl, by decide +kernel, rfl⟩,
    ⟨0, stR 0 0 (rgnS .staged), (rgnS .staged), by decide, rfl, by decide +kernel, rfl⟩,
    ⟨0, stR 0 0 { rgnS .live with step := .pushed, attempts := 1 }, { rgnS .live with step := .pushed, attempts := 1 }, by decide, rfl, by decide +kernel, by decide +kernel⟩,
    ⟨0, stR 0 0 { rgnS .live with step := .pushed }, { rgnS .live with step := .pushed }, by decide, rfl, rfl, by decide +kernel, rfl⟩,
    ⟨1, 7, stR 0 0 { rgnS .live with step := .pushed }, { rgnS .live with step := .pushed }, ⟨by decide +kernel, rfl⟩, rfl, rfl, .inr (.inr (.inl ⟨rfl, by decide +kernel, rfl⟩))⟩⟩

/-- Hypotheses of RegionsStepAndSwap (clause 8: with a region of no cores, whose save area is empty, since Config.saveByte is opaque). -/
theorem witness_RegionsStepAndSwap :
    (∃ (rg lid : Nat) (s : State) (r : Region) (n : Node), (RegionIs s rg r) ∧ (s.leafOf r = some n) ∧ (r.st = .live) ∧ (r.step = .requested) ∧ (r.bind[n.drole]? = some lid) ∧ (((s.core lid).queue n.dqn).length < 8)) ∧
    (∃ (s s1 : State) (r : Region) (i : Image) (pl : Placement), RegionIs s 1 r ∧ s.mayStep r = true ∧ s.imageOf r (r.cfgseq + 1) = some i ∧ r.mayDecide s 6 = true ∧ (∀ l ∈ r.bind, s.isRetired l = true ∨ i.feats &&& (s.hwpOf l).toNat = i.feats) ∧ switchTo s (r.decided s 6) i pl = some s1) ∧
    (∃ (lid : Nat) (s : State) (r : Region), (lid < coreCount) ∧ (s.regionOf lid = some r) ∧ (r.st = .draining) ∧ ((s.core lid).live = true) ∧ ((s.core lid).sb = [] ∨ (Table.find (s.cluster (clusterOf lid)).detHeld lid).isSome = true) ∧ (r.stopFrom = none) ∧ (s.atomicsLeft lid = false) ∧ (s.readsLeft lid = false) ∧ ((s.core lid).lattice.rest = []) ∧ ((∀ ch < 8, ((s.core lid).chan ch).owes = false))) ∧
    (∃ (lid : Nat) (s : State) (r : Region), (lid < coreCount) ∧ (s.regionOf lid = some r) ∧ (r.stopFrom.isSome = true ∨ s.readsLeft lid = true)) ∧
    (∃ (rg : Nat) (s : State) (r : Region), (RegionIs s rg r) ∧ (r.stopFrom.isSome = true ∨ (∃ l ∈ r.bind, s.readsLeft l = true))) ∧
    (∃ (rg : Nat) (s : State) (r : Region), (RegionIs s rg r) ∧ (r.st = .draining) ∧ (r.pending = []) ∧ (r.stopFrom = none) ∧ ((∀ l ∈ r.bind, (s.core l).live = false ∧ s.atomicsLeft l = false ∧ s.readsLeft l = false)) ∧ (s.writesLeft r = false)) ∧
    (∃ (rg : Nat) (s : State) (r : Region), (RegionIs s rg r) ∧ (s.coresNeeded r = false)) ∧
    (∃ (rg : Nat) (s s1 : State) (r : Region) (n : Node), (RegionIs s rg r) ∧ (r.st = .saved) ∧ (r.evicted = false) ∧ (s.coresNeeded r = true) ∧ (unreadableRole s r = none) ∧ (s.leafOf r = some n) ∧ (vaWriteSpan (s.rootOf r) (r.saveBytes / 4096 + 2) n.saveva (saveImage s r) s = some s1)) ∧
    (∃ (eng ctx : Nat) (s : State) (c : StreamCtx) (st : Stall) (r : Region), (eng < 48) ∧ (ctx < 32) ∧ (s.ctx eng ctx = some c) ∧ (c.ended = false) ∧ (c.stall = some st) ∧ (s.regionOf c.lid = some r) ∧ (s.overLimit r st = true)) ∧
    (∃ (lid : Nat) (s : State), (lid < coreCount) ∧ ((s.core lid).degraded = true) ∧ (Retired.core lid ∉ s.retired) ∧ (s.mayRetire lid = true)) :=
  ⟨⟨1, 0, stR 0 0 { rgnS .live with step := .requested }, { rgnS .live with step := .requested }, _, ⟨by decide +kernel, rfl⟩, rfl, rfl, rfl, rfl, by decide +kernel⟩,
    by
  let r : Region := { rgnS .live with step := .pushed, passages := [0] }
  let s : State := stR 0 0 r
  obtain ⟨i, h⟩ := isSome_of (show (s.imageOf r 2).isSome = true by decide +kernel)
  have k : ((s.imageOf r 2).map fun i => decide (∀ l ∈ r.bind, s.isRetired l = true ∨ i.feats &&& (s.hwpOf l).toNat = i.feats)
      && (switchTo s (r.decided s 6) i placeJ).isSome) = some true := by decide +kernel
  rw [h, Option.map_some, Option.some_inj, Bool.and_eq_true, decide_eq_true_eq] at k
  obtain ⟨s1, g⟩ := isSome_of k.2
  exact ⟨s, s1, r, i, placeJ, ⟨by decide +kernel, rfl⟩, by decide +kernel, h, rfl, k.1, g⟩,
    ⟨0, { stR 0 0 (rgnS .draining) with cores := [(0, core0)] }, (rgnS .draining), by decide, rfl, rfl, rfl, by decide +kernel, rfl, by decide +kernel, rfl, by decide +kernel, by decide +kernel⟩,
    ⟨0, stR 0 0 { rgnS .draining with stopFrom := some 3 }, { rgnS .draining with stopFrom := some 3 }, by decide, rfl, .inl rfl⟩,
    ⟨1, stR 0 0 { rgnS .draining with stopFrom := some 3 }, { rgnS .draining with stopFrom := some 3 }, ⟨by decide +kernel, rfl⟩, .inl rfl⟩,
    ⟨1, stR 0 0 (rgnS .draining), (rgnS .draining), ⟨by decide +kernel, rfl⟩, rfl, rfl, rfl, by decide +kernel, rfl⟩,
    ⟨1, stR 0 0 (rgnS .saved), (rgnS .saved), ⟨by decide +kernel, rfl⟩, by decide +kernel⟩,
    ⟨1, { stR 0 0 { rgnS .saved with w := 0 } with regions := [{ rgnS .saved with w := 0 }, { rgnJ with id := 2 }] }, { stR 0 0 { rgnS .saved with w := 0 } with regions := [{ rgnS .saved with w := 0 }, { rgnJ with id := 2 }] }, { rgnS .saved with w := 0 }, nodeJ, ⟨by decide +kernel, rfl⟩, rfl, rfl, by decide +kernel, rfl, rfl, by decide +kernel⟩,
    ⟨0, 0, { stC { ctxW with stall := some stall0 } with cycle := 0x8000000 }, { ctxW with stall := some stall0 }, stall0, _, by decide, by decide, rfl, rfl, rfl, rfl, rfl⟩,
    ⟨5, { State.reset with cores := [(5, { Core.reset with degraded := true })] }, by decide, rfl, by decide +kernel, rfl⟩⟩

/-- Hypotheses of ManagementCommandsEnd. -/
theorem witness_ManagementCommandsEnd :
    (∃ (w : Nat) (v : BitVec 64) (s : State), (w < 64) ∧ (s.jobs = []) ∧ (s.mg.state = 6 ∨ s.mg.state = 7)) ∧
    (∃ (w : Nat) (v : BitVec 64) (s : State), (64 ≤ w ∨ s.jobs ≠ [] ∨ s.mg.state ≠ 6 ∧ s.mg.state ≠ 7)) ∧
    (∃ (v : BitVec 64) (s : State), ((∀ j ∈ s.jobs, j.usesLink = false))) ∧
    (∃ (v : BitVec 64) (s : State), (s.mg.mbBusy = false) ∧ (v.getLsbD 63 = true) ∧ (1 ≤ bitsOf v 0 16) ∧ (bitsOf v 0 16 ≤ 7)) ∧
    (∃ (v : BitVec 64) (s : State), (s.mg.mbBusy = false) ∧ (v.getLsbD 63 = true) ∧ (bitsOf v 0 16 = 0 ∨ 7 < bitsOf v 0 16)) ∧
    (∃ p ∈ [(0x8010, fun (m : Mgmt) (v : BitVec 64) => { m with mbLen := v }), (0x8018, fun m v => { m with mbAddr := v }), (0x8020, fun m v => { m with mbXlen := v })], ∃ (v : BitVec 64) (s : State), (s.mg.mbBusy = false)) ∧
    (∃ (off : Nat) (v : BitVec 64) (s : State), (off % 8 ≠ 0 ∨ off = 0x200 ∧ (∃ j ∈ s.jobs, j.usesLink = true) ∨ 0x8000 ≤ off ∧ s.mg.mbBusy = true ∨ off < 0x1000 ∧ off ≠ 0x200 ∨ 0x4000 ≤ off ∧ off < 0x8000 ∨ off = 0x8008 ∨ 0x8028 ≤ off ∧ off < 0x8040 ∨ 0xC000 ≤ off)) ∧
    (∃ (off : Nat) (v : BitVec 64) (s : State), (off % 8 = 0) ∧ (0x1000 ≤ off ∧ off < 0x4000 ∨ 0x8040 ≤ off ∧ off < 0xC000 ∧ s.mg.mbBusy = false)) ∧
    (∃ (s : State) (image : List Byte) (result : BitVec 8), Busy s 1 ∧ s.mg.mbAddr.toNat % 4096 = 0 ∧ s.mg.mbXlen.toNat ≤ 2 ^ 26 ∧ image = cellsAt s.hostMem s.mg.mbAddr.toNat s.mg.mbXlen.toNat ∧ result = (if Config.hostReadOk s.mg.mbAddr.toNat s.mg.mbXlen.toNat = false then 6 else if Config.sigOk image = false then 3 else if (Config.imageSvn image).toNat < s.mg.svn.toNat then 4 else 0)) ∧
    (∃ s : State, (Busy s 1) ∧ (s.mg.mbAddr.toNat % 4096 ≠ 0 ∨ 2 ^ 26 < s.mg.mbXlen.toNat)) ∧
    (∃ p ∈ [(2, Instr.svnraise), (3, .attest), (4, .retlist), (5, .retclear), (6, .partset), (7, .ready)], ∃ s : State, (Busy s p.1) ∧ (s.mg.state = 15)) ∧
    (∃ (s : State) (v : BitVec 8), (InProgress s 2) ∧ (s.mg.state = 6 ∨ s.mg.state = 7) ∧ (v = (if s.mg.svn.toNat < s.mg.runSvn.toNat then s.mg.runSvn else s.mg.svn))) ∧
    (∃ s : State, (InProgress s 2) ∧ (s.mg.state ≠ 6) ∧ (s.mg.state ≠ 7)) ∧
    (∃ s : State, (InProgress s 3) ∧ (3 ≤ s.mg.state.toNat) ∧ (s.mg.state.toNat ≤ 7) ∧ (s.mg.mbLen = 32)) ∧
    (∃ s : State, (InProgress s 3) ∧ (s.mg.state.toNat < 3 ∨ 7 < s.mg.state.toNat)) ∧
    (∃ s : State, (InProgress s 3) ∧ (3 ≤ s.mg.state.toNat) ∧ (s.mg.state.toNat ≤ 7) ∧ (s.mg.mbLen ≠ 32)) ∧
    (∃ s : State, (InProgress s 4) ∧ (4 ≤ s.mg.state.toNat) ∧ (s.mg.state.toNat ≤ 7)) ∧
    (∃ s : State, (InProgress s 4) ∧ (s.mg.state.toNat < 4 ∨ 7 < s.mg.state.toNat)) ∧
    (∃ s : State, (InProgress s 5) ∧ (s.jobs = [])) ∧
    (∃ (s : State) (j : Job) (js : List Job), (InProgress s 5) ∧ (s.jobs = j :: js)) ∧
    (∃ (s : State) (es : List (BitVec 16)), (InProgress s 6) ∧ (s.jobs = []) ∧ (s.mg.mbLen = 168) ∧ (es = partEntries s.mg) ∧ (partsOk es = true)) ∧
    (∃ (s : State) (j : Job) (js : List Job), (InProgress s 6) ∧ (s.jobs = j :: js)) ∧
    (∃ s : State, (InProgress s 6) ∧ (s.jobs = []) ∧ (s.mg.mbLen ≠ 168 ∨ partsOk (partEntries s.mg) = false)) ∧
    (∃ s : State, (InProgress s 7) ∧ (s.mg.state = 6) ∧ ((∃ p ∈ s.mg.parts, p.2.getLsbD 15 = true))) ∧
    (∃ s : State, (InProgress s 7) ∧ (s.mg.state ≠ 6 ∨ (∀ p ∈ s.mg.parts, p.2.getLsbD 15 = false))) :=
  ⟨⟨0, 7, stK 0, by decide, rfl, .inl rfl⟩,
    ⟨64, 7, stK 0, .inl (by decide)⟩,
    ⟨7, stK 0, by decide +kernel⟩,
    ⟨0x8000000000000001, State.reset, rfl, rfl, by decide +kernel, by decide +kernel⟩,
    ⟨0x8000000000000008, State.reset, rfl, by decide +kernel, .inr (by decide +kernel)⟩,
    ⟨_, .head _, 7, State.reset, rfl⟩,
    ⟨0x8010, 7, stK 1, .inr (.inr (.inl ⟨by decide, rfl⟩))⟩,
    ⟨0x3FF8, 7, State.reset, by decide, .inl (by decide)⟩,
    ⟨stK 1, _, _, ⟨rfl, by decide +kernel⟩, by decide +kernel, by decide +kernel, rfl, rfl⟩,
    ⟨{ stK 1 with mg := { mgC 1 with mbAddr := 8 } }, ⟨rfl, by decide +kernel⟩, .inl (by decide +kernel)⟩,
    ⟨_, .head _, { stK 2 with mg := { mgC 2 with state := 15 } }, ⟨rfl, by decide +kernel⟩, rfl⟩,
    ⟨stK 2, _, ⟨⟨rfl, by decide +kernel⟩, by decide +kernel⟩, .inl rfl, rfl⟩,
    ⟨{ stK 2 with mg := { mgC 2 with state := 5 } }, ⟨⟨rfl, by decide +kernel⟩, by decide +kernel⟩, by decide +kernel, by decide +kernel⟩,
    ⟨stK 3, ⟨⟨rfl, by decide +kernel⟩, by decide +kernel⟩, by decide +kernel, by decide +kernel, rfl⟩,
    ⟨{ stK 3 with mg := { mgC 3 with state := 2 } }, ⟨⟨rfl, by decide +kernel⟩, by decide +kernel⟩, .inl (by decide)⟩,
    ⟨{ stK 3 with mg := { mgC 3 with mbLen := 31 } }, ⟨⟨rfl, by decide +kernel⟩, by decide +kernel⟩, by decide +kernel, by decide +kernel, by decide +kernel⟩,
    ⟨stK 4, ⟨⟨rfl, by decide +kernel⟩, by decide +kernel⟩, by decide +kernel, by decide +kernel⟩,
    ⟨{ stK 4 with mg := { mgC 4 with state := 3 } }, ⟨⟨rfl, by decide +kernel⟩, by decide +kernel⟩, .inl (by decide)⟩,
    ⟨stK 5, ⟨⟨rfl, by decide +kernel⟩, by decide +kernel⟩, rfl⟩,
    ⟨{ stK 5 with jobs := [job0] }, _, _, ⟨⟨rfl, by decide +kernel⟩, by decide +kernel⟩, rfl⟩,
    ⟨stK 6, _, ⟨⟨rfl, by decide +kernel⟩, by decide +kernel⟩, rfl, rfl, rfl, rfl⟩,
    ⟨{ stK 6 with jobs := [job0] }, _, _, ⟨⟨rfl, by decide +kernel⟩, by decide +kernel⟩, rfl⟩,
    ⟨{ stK 6 with mg := { mgC 6 with mbLen := 160 } }, ⟨⟨rfl, by decide +kernel⟩, by decide +kernel⟩, rfl, .inl (by decide +kernel)⟩,
    ⟨stK 7, ⟨⟨rfl, by decide +kernel⟩, by decide +kernel⟩, rfl, ⟨(0, 0x8000), .head _, rfl⟩⟩,
    ⟨{ stK 7 with mg := { mgC 7 with parts := [] } }, ⟨⟨rfl, by decide +kernel⟩, by decide +kernel⟩, .inr (by simp [stK, mgC])⟩⟩

/-- Hypotheses of ErrorsAndPowerEvents. -/
theorem witness_ErrorsAndPowerEvents :
    (∃ (lid : Nat) (s : State), (lid < coreCount)) ∧
    (∃ (lid a : Nat) (s : State), (lid < coreCount) ∧ (a < 65536)) ∧
    (∃ (lid w n : Nat) (d : Dir) (s : State), (lid < coreCount) ∧ (w = s.cycle.toNat / 2 ^ 30) ∧ (n = (if (Table.get (0, 0) s.meshRetries (meshLinkKey lid d)).1 = w then (Table.get (0, 0) s.meshRetries (meshLinkKey lid d)).2 + 1 else 1))) ∧
    (∃ (p : Nat) (s : State), (p < 96) ∧ ((s.port p).up = true)) ∧
    (∃ (p : Nat) (s : State), (p < 96)) ∧
    (∃ (x : BitVec 16) (s : State), (1600 < x.toNat)) ∧
    (∃ (x : BitVec 16) (s : State), (1760 ≤ x.toNat)) ∧
    (∃ (n : Nat) (s : State), (n < 20)) :=
  ⟨⟨3, State.reset, by decide⟩,
    ⟨3, 65535, State.reset, by decide, by decide⟩,
    ⟨3, _, _, .north, State.reset, by decide, rfl, rfl⟩,
    ⟨95, { State.reset with ports := [(95, { LinkPort.reset with up := true })] }, by decide, by decide⟩,
    ⟨95, State.reset, by decide⟩,
    ⟨1601, State.reset, by decide⟩,
    ⟨1760, State.reset, by decide⟩,
    ⟨19, State.reset, by decide⟩⟩

end Sys2Proof.Tests
end

section
/-! PROOFS. Rounding to nearest (02 R42, R43): one rounding to a multiple of a power of two, the code that fpRound builds
from it, and what that code decodes to. -/

namespace Sys2Proof.Proofs

open Sys2Proof.Machine

/-! ## One rounding to a multiple of a power of two (02 R42) -/

/-- Rounding to nearest takes the upper neighbour only where the rest lo of K is at least one half. -/
theorem half_le_of_roundsUp {neg : Bool} {q lo K : Nat}
    (h : roundsUp 0 neg q (compare (4 * lo) (2 * K)) (lo == 0) = true) : K ≤ 2 * lo := by
  by_contra hlt
  have hc : compare (4 * lo) (2 * K) = .lt := Nat.compare_eq_lt.2 (by omega)
  simp [roundsUp, hc] at h

/-- Rounding to nearest takes the lower neighbour only where the rest lo of K is at most one half. -/
theorem le_half_of_not_roundsUp {neg : Bool} {q lo K : Nat}
    (h : roundsUp 0 neg q (compare (4 * lo) (2 * K)) (lo == 0) = false) : 2 * lo ≤ K := by
  by_contra hlt
  have hc : compare (4 * lo) (2 * K) = .gt := Nat.compare_eq_gt.2 (by omega)
  have h0 : lo ≠ 0 := by omega
  simp [roundsUp, hc, h0] at h

/-- Where the multiple is no coarser than the value, nothing is rounded. -/
theorem roundMag_of_le {rm : BitVec 2} {neg sticky : Bool} {m : Nat} {e q : Int} (h : q ≤ e) :
    roundMag rm neg sticky m e q = (m * 2 ^ (e - q).toNat, sticky) := if_pos h

/-- Where the multiple is coarser, the one with the rest of the value decides. -/
theorem roundMag_nearest_of_lt (neg : Bool) (m : Nat) {e q : Int} (h : e < q) :
    roundMag 0 neg false m e q =
      (if roundsUp 0 neg (m / 2 ^ (q - e).toNat) (compare (4 * (m % 2 ^ (q - e).toNat)) (2 * 2 ^ (q - e).toNat))
          (m % 2 ^ (q - e).toNat == 0) then m / 2 ^ (q - e).toNat + 1 else m / 2 ^ (q - e).toNat,
        !(m % 2 ^ (q - e).toNat == 0)) := by
  simp [roundMag, not_le.2 h, bit]

/-- In units of the value's own last place, the rounded multiple is at most half a unit K away, and the mark of an inexact
result says whether it is the value. -/
theorem roundMag_nearest_units (neg : Bool) (m : Nat) {e q : Int} (h : e < q) {K : Nat} (hK : K = 2 ^ (q - e).toNat) :
    2 * m ≤ 2 * ((roundMag 0 neg false m e q).1 * K) + K ∧ 2 * ((roundMag 0 neg false m e q).1 * K) ≤ 2 * m + K
      ∧ ((roundMag 0 neg false m e q).2 = false ↔ m = (roundMag 0 neg false m e q).1 * K) := by
  have hlo : m % K < K := Nat.mod_lt m (hK ▸ Nat.two_pow_pos _)
  have hm : m / K * K + m % K = m := Nat.div_add_mod' m K
  rw [roundMag_nearest_of_lt neg m h, ← hK]
  cases hup : roundsUp 0 neg (m / K) (compare (4 * (m % K)) (2 * K)) (m % K == 0) with
  | true =>
    have := half_le_of_roundsUp hup
    simp only [↓reduceIte, Nat.add_mul, one_mul, Bool.not_eq_eq_eq_not, Bool.not_false, beq_iff_eq]
    omega
  | false =>
    have := le_half_of_not_roundsUp hup
    simp only [Bool.false_eq_true, ↓reduceIte, Bool.not_eq_eq_eq_not, Bool.not_false, beq_iff_eq]
    omega

/-- A unit of a place as units of a finer one. -/
theorem two_zpow_eq_mul_pow {a b : Int} (h : a ≤ b) : (2 : ℚ) ^ b = 2 ^ a * 2 ^ (b - a).toNat := by
  rw [← zpow_natCast, ← zpow_add₀ two_ne_zero, Int.toNat_of_nonneg (by omega), add_sub_cancel]

/-- The distance to a coarser multiple, in units of the value's own last place. -/
theorem sub_mul_zpow (m r : Nat) {e q : Int} (h : e ≤ q) :
    (m : ℚ) * 2 ^ e - (r : ℚ) * 2 ^ q = 2 ^ e * ((m : ℚ) - (r * 2 ^ (q - e).toNat : ℕ)) := by
  rw [two_zpow_eq_mul_pow h]
  push_cast
  ring

/-- Rounding to nearest delivers a multiple at most half a unit away (02 R42). -/
theorem roundMag_nearest (neg : Bool) (m : Nat) (e q : Int) :
    2 * |(m : ℚ) * 2 ^ e - ((roundMag 0 neg false m e q).1 : ℚ) * 2 ^ q| ≤ 2 ^ q := by
  rcases le_or_gt q e with h | h
  · rw [roundMag_of_le h, two_zpow_eq_mul_pow h]
    simp [mul_assoc, mul_comm ((2 : ℚ) ^ q), zpow_nonneg]
  · obtain ⟨hle, hge, -⟩ := roundMag_nearest_units neg m h rfl
    generalize (roundMag 0 neg false m e q).1 = r at hle hge ⊢
    have hunits : 2 * |(m : ℚ) - (r * 2 ^ (q - e).toNat : ℕ)| ≤ 2 ^ (q - e).toNat := by
      have hle' : (2 * m : ℚ) ≤ 2 * (r * 2 ^ (q - e).toNat : ℕ) + 2 ^ (q - e).toNat := mod_cast hle
      have hge' : (2 * (r * 2 ^ (q - e).toNat : ℕ) : ℚ) ≤ 2 * m + 2 ^ (q - e).toNat := mod_cast hge
      cases abs_cases ((m : ℚ) - (r * 2 ^ (q - e).toNat : ℕ)) <;> linarith
    rw [sub_mul_zpow m r h.le, abs_mul, abs_of_pos (by positivity), mul_left_comm, two_zpow_eq_mul_pow h.le]
    gcongr

/-- Rounding marks its result inexact exactly where it is not the value (02 R43). -/
theorem roundMag_exact_iff (neg : Bool) (m : Nat) (e q : Int) :
    (roundMag 0 neg false m e q).2 = false ↔
      (m : ℚ) * 2 ^ e = ((roundMag 0 neg false m e q).1 : ℚ) * 2 ^ q := by
  rcases le_or_gt q e with h | h
  · rw [roundMag_of_le h, two_zpow_eq_mul_pow h]
    simp [mul_assoc, mul_comm ((2 : ℚ) ^ q)]
  · obtain ⟨-, -, hiff⟩ := roundMag_nearest_units neg m h rfl
    have he : (2 : ℚ) ^ e ≠ 0 := by positivity
    rw [hiff, ← sub_eq_zero (a := (m : ℚ) * 2 ^ e), sub_mul_zpow m _ h.le, mul_eq_zero_iff_left he, sub_eq_zero,
      Nat.cast_inj]

/-- A multiple nearest to a value below 2^n units is at most 2^n. -/
theorem le_two_pow_of_nearest {v : ℚ} {r n : Nat} {q : Int} (hnear : 2 * |v - r * 2 ^ q| ≤ 2 ^ q)
    (hv : v < 2 ^ (q + n)) : r ≤ 2 ^ n := by
  rw [zpow_add₀ two_ne_zero, zpow_natCast] at hv
  have hq : (0 : ℚ) < 2 ^ q := by positivity
  have hlow := neg_abs_le (v - r * 2 ^ q)
  have hlt : (r : ℚ) < 2 ^ n + 1 := by
    refine lt_of_mul_lt_mul_right ?_ hq.le
    linarith
  exact Nat.lt_succ_iff.1 (mod_cast hlt)

/-- A multiple nearest to a value of at least 2^n units is at least 2^n. -/
theorem two_pow_le_of_nearest {v : ℚ} {r n : Nat} {q : Int} (hnear : 2 * |v - r * 2 ^ q| ≤ 2 ^ q)
    (hv : 2 ^ (q + n) ≤ v) : 2 ^ n ≤ r := by
  rw [zpow_add₀ two_ne_zero, zpow_natCast] at hv
  have hq : (0 : ℚ) < 2 ^ q := by positivity
  have hhigh := le_abs_self (v - r * 2 ^ q)
  have hlt : (2 : ℚ) ^ n < r + 1 := by
    refine lt_of_mul_lt_mul_right ?_ hq.le
    linarith
  exact Nat.lt_succ_iff.1 (mod_cast hlt)

/-- A value is at least the power of two of its leading bit. -/
theorem two_zpow_lead_le {m : Nat} (hm : m ≠ 0) (e : Int) : (2 : ℚ) ^ (e + m.log2) ≤ m * 2 ^ e := by
  rw [zpow_add₀ two_ne_zero, zpow_natCast, mul_comm]
  gcongr
  exact_mod_cast Nat.log2_self_le hm

/-- A value is below twice the power of two of its leading bit. -/
theorem lt_two_zpow_lead_succ (m : Nat) (e : Int) : (m : ℚ) * 2 ^ e < 2 ^ (e + m.log2 + 1) := by
  rw [add_assoc, zpow_add₀ two_ne_zero, mul_comm]
  gcongr
  exact_mod_cast Nat.lt_log2_self

/-! ## The fields of a code (02 R41) -/

/-- The exponent bias is no negative number. -/
theorem bias_nonneg (f : FpFormat) : 0 ≤ f.bias :=
  sub_nonneg.2 (one_le_pow₀ one_le_two)

/-- The exponent field of an infinity is one more than twice the bias. -/
theorem top_eq_bias {f : FpFormat} (hf : 2 ≤ f.ebits) : (f.top : Int) = 2 * f.bias + 1 := by
  obtain ⟨k, hk⟩ : ∃ k, f.ebits = k + 1 := ⟨f.ebits - 1, by omega⟩
  rw [FpFormat.top, FpFormat.bias, hk, Nat.add_sub_cancel, Nat.cast_sub Nat.one_le_two_pow, pow_succ]
  push_cast
  ring

/-- An exponent field of at least two bits has a positive bias. -/
theorem bias_pos {f : FpFormat} (hf : 2 ≤ f.ebits) : 0 < f.bias :=
  sub_pos.2 (one_lt_pow₀ one_lt_two (by omega))

/-- A code below infinity reads as its fraction, with the leading 1 where the exponent field is not 0. -/
theorem fpDecode_code {f : FpFormat} (neg : Bool) {ex fr : Nat} (hfr : fr < 2 ^ f.frac) (hex : ex < f.top) :
    fpDecode f false (f.code neg (ex * 2 ^ f.frac + fr)) =
      if ex = 0 then .fin neg fr f.qmin else .fin neg (fr + 2 ^ f.frac) (f.qmin + ex - 1) := by
  have hpos := Nat.two_pow_pos f.frac
  have hex' : ex < 2 ^ f.ebits := by simp only [FpFormat.top] at hex; omega
  have hcode : f.code neg (ex * 2 ^ f.frac + fr) = fr + 2 ^ f.frac * (ex + 2 ^ f.ebits * bit neg) := by
    simp only [FpFormat.code, pow_add]; ring
  have hlow : f.code neg (ex * 2 ^ f.frac + fr) % 2 ^ f.frac = fr := by
    rw [hcode, Nat.add_mul_mod_self_left, Nat.mod_eq_of_lt hfr]
  have hhigh : f.code neg (ex * 2 ^ f.frac + fr) / 2 ^ f.frac = ex + 2 ^ f.ebits * bit neg := by
    rw [hcode, Nat.add_mul_div_left _ _ hpos, Nat.div_eq_of_lt hfr, Nat.zero_add]
  have hexp : f.code neg (ex * 2 ^ f.frac + fr) / 2 ^ f.frac % 2 ^ f.ebits = ex := by
    rw [hhigh, Nat.add_mul_mod_self_left, Nat.mod_eq_of_lt hex']
  have hsign : f.code neg (ex * 2 ^ f.frac + fr) / 2 ^ (f.ebits + f.frac) = bit neg := by
    rw [Nat.add_comm f.ebits, pow_add, ← Nat.div_div_eq_div_mul, hhigh, Nat.add_mul_div_left _ _ (Nat.two_pow_pos _),
      Nat.div_eq_of_lt hex', Nat.zero_add]
  have hneg : decide (bit neg % 2 = 1) = neg := by cases neg <;> rfl
  simp [fpDecode, hlow, hexp, hsign, hneg, hex.ne]

/-- A significand r of up to frac + 1 bits, or the power of two that rounding carries to, added to the exponent field x of
its last place, makes a code of the value r × 2^(qmin + x): the leading bit of r counts the exponent field up. -/
theorem fpDecode_significand {f : FpFormat} (neg : Bool) {x r : Nat} (hr : r ≤ 2 ^ (f.frac + 1))
    (hsub : r < 2 ^ f.frac → x = 0) (hfin : x + r / 2 ^ f.frac < f.top) :
    ∃ m' e', fpDecode f false (f.code neg (x * 2 ^ f.frac + r)) = .fin neg m' e'
      ∧ (m' : ℚ) * 2 ^ e' = r * 2 ^ (f.qmin + x) := by
  have hpos := Nat.two_pow_pos f.frac
  rcases lt_or_ge r (2 ^ f.frac) with hlt | hge
  · obtain rfl := hsub hlt
    rw [Nat.div_eq_of_lt hlt] at hfin
    exact ⟨r, f.qmin, by rw [fpDecode_code neg hlt hfin, if_pos rfl], by simp⟩
  · have hsplit : x * 2 ^ f.frac + r = (x + r / 2 ^ f.frac) * 2 ^ f.frac + r % 2 ^ f.frac := by
      rw [Nat.add_mul, Nat.add_assoc, Nat.div_add_mod']
    have hlead : 0 < r / 2 ^ f.frac := Nat.div_pos hge hpos
    refine ⟨_, _, by rw [hsplit, fpDecode_code neg (Nat.mod_lt r hpos) hfin, if_neg (by omega)], ?_⟩
    rcases hr.lt_or_eq with hlt | rfl
    · have hquot : r / 2 ^ f.frac = 1 := by
        rw [pow_succ'] at hlt
        exact Nat.div_eq_of_lt_le (by omega) (by omega)
      have hmod : r % 2 ^ f.frac + 2 ^ f.frac = r := by
        have := Nat.mod_add_div r (2 ^ f.frac)
        rw [hquot] at this
        omega
      rw [hmod, hquot]
      push_cast
      ring_nf
    · rw [pow_succ', Nat.mul_div_cancel _ hpos, Nat.mul_mod_left, Nat.zero_add]
      push_cast
      rw [show f.qmin + (x + 2 : ℤ) - 1 = f.qmin + x + 1 by ring, zpow_add_one₀ two_ne_zero]
      ring

/-! ## fpRound on a value without a sticky rest (02 R43, R44, R46) -/

/-- The exponent of the last place that a format keeps of m × 2^e. -/
def lastPlace (f : FpFormat) (m : Nat) (e : Int) : Int := max (e + m.log2 - f.frac) f.qmin

/-- No last place lies below that of a subnormal. -/
theorem qmin_le_lastPlace (f : FpFormat) (m : Nat) (e : Int) : f.qmin ≤ lastPlace f m e := le_max_right _ _

/-- m × 2^e as a multiple of its last place, rounded to nearest, and whether that is inexact. -/
def nearestMultiple (f : FpFormat) (neg : Bool) (m : Nat) (e : Int) : Nat × Bool :=
  roundMag 0 neg false m e (lastPlace f m e)

/-- The exponent of the leading bit of m × 2^e, rounded to nearest with an unbounded exponent (02 R46). -/
def roundedLead (f : FpFormat) (neg : Bool) (m : Nat) (e : Int) : Int :=
  if (roundMag 0 neg false m e (e + m.log2 - f.frac)).1 = 2 ^ (f.frac + 1) then e + m.log2 + 1 else e + m.log2

/-- A value below a quarter of the smallest subnormal rounds to zero, tiny and inexact. -/
theorem fpRound_of_far {f : FpFormat} (neg : Bool) {m : Nat} {e : Int} (hm : m ≠ 0) (hfar : e + m.log2 < f.qmin - 2) :
    fpRound f 0 false neg false m e = (f.code neg 0, fNX ||| fUF) := by
  have hbias := bias_nonneg f
  have hwide : roundMag 0#2 neg true 1 (f.qmin - 3) (f.qmin - 3 - f.frac) = (2 ^ f.frac, true) := by
    rw [roundMag_of_le (by omega)]
    simp
  have hzero : roundMag 0#2 neg true 1 (f.qmin - 3) f.qmin = (0, true) := by
    simp [roundMag, roundsUp, bit, Nat.compare_eq_gt]
  have hlog : Nat.log2 1 = 0 := by simpa using Nat.log2_two_pow (n := 0)
  have hcarry : 2 ^ f.frac ≠ 2 ^ (f.frac + 1) := by simp [pow_succ]
  have hfits : ¬f.emax < f.qmin - 3 := by simp only [FpFormat.emax, FpFormat.qmin]; omega
  have htiny : f.qmin - 3 < 1 - f.bias := by simp only [FpFormat.qmin]; omega
  have hplace : max (f.qmin - 3 - f.frac) f.qmin = f.qmin := max_eq_right (by omega)
  simp [fpRound, hm, hfar, hwide, hzero, hcarry, hfits, htiny, hplace, hlog]

/-- Any other value overflows where it does so with an unbounded exponent; else the code holds the multiple of its last
place. -/
theorem fpRound_of_near {f : FpFormat} (neg : Bool) {m : Nat} {e : Int} (hm : m ≠ 0) (hnear : f.qmin - 2 ≤ e + m.log2) :
    fpRound f 0 false neg false m e =
      if f.emax < roundedLead f neg m e then (f.inf neg, fOF ||| fNX)
      else (f.code neg ((lastPlace f m e - f.qmin).toNat * 2 ^ f.frac + (nearestMultiple f neg m e).1),
        (if (nearestMultiple f neg m e).2 then fNX else 0)
          ||| (if (nearestMultiple f neg m e).2 && decide (roundedLead f neg m e < 1 - f.bias) then fUF else 0)) := by
  have hnf : decide (e + m.log2 < f.qmin - 2) = false := decide_eq_false (not_lt.2 hnear)
  rw [fpRound, if_neg (by simp [hm])]
  simp only [hnf, Bool.and_false]
  rfl

/-- The rounded multiple has at most frac + 1 bits, or is the power of two that rounding carries to. -/
theorem nearestMultiple_le (f : FpFormat) (neg : Bool) (m : Nat) (e : Int) :
    (nearestMultiple f neg m e).1 ≤ 2 ^ (f.frac + 1) := by
  refine le_two_pow_of_nearest (roundMag_nearest neg m e (lastPlace f m e)) ((lt_two_zpow_lead_succ m e).trans_le ?_)
  refine zpow_le_zpow_right₀ one_le_two ?_
  have := le_max_left (e + m.log2 - f.frac) f.qmin
  simp only [lastPlace]
  omega

/-- A multiple without a leading 1 is one of the last place of a subnormal. -/
theorem lastPlace_eq_qmin_of_lt {f : FpFormat} {neg : Bool} {m : Nat} {e : Int} (hm : m ≠ 0)
    (h : (nearestMultiple f neg m e).1 < 2 ^ f.frac) : lastPlace f m e = f.qmin := by
  by_contra hne
  have hplace : lastPlace f m e = e + m.log2 - f.frac := by simp only [lastPlace] at hne ⊢; omega
  refine h.not_ge (two_pow_le_of_nearest (roundMag_nearest neg m e (lastPlace f m e)) ?_)
  rw [hplace, sub_add_cancel]
  exact two_zpow_lead_le hm e

/-- Above the subnormals the multiple is the one that an unbounded exponent gives. -/
theorem roundedLead_of_normal {f : FpFormat} {m : Nat} {e : Int} (neg : Bool) (h : f.qmin ≤ e + m.log2 - f.frac) :
    roundedLead f neg m e = if (nearestMultiple f neg m e).1 = 2 ^ (f.frac + 1) then e + m.log2 + 1 else e + m.log2 := by
  rw [nearestMultiple, lastPlace, max_eq_left h, roundedLead]

/-- Above the subnormals the leading bit of the multiple counts the leading exponent up once, and the carry once more. -/
theorem nearestMultiple_quotient_le {f : FpFormat} {m : Nat} {e : Int} (neg : Bool)
    (h : f.qmin ≤ e + m.log2 - f.frac) :
    (((nearestMultiple f neg m e).1 / 2 ^ f.frac : ℕ) : ℤ) + (e + m.log2) ≤ roundedLead f neg m e + 1 := by
  have hle := nearestMultiple_le f neg m e
  rw [roundedLead_of_normal neg h]
  generalize (nearestMultiple f neg m e).1 = r at hle ⊢
  split
  case isTrue hcarry =>
    have hquot : r / 2 ^ f.frac = 2 := by rw [hcarry, pow_succ', Nat.mul_div_cancel _ (Nat.two_pow_pos _)]
    omega
  case isFalse hcarry =>
    have hquot : r / 2 ^ f.frac < 2 := Nat.div_lt_of_lt_mul (by rw [← pow_succ]; omega)
    omega

/-- Among the subnormals the multiple is at most the smallest normal value. -/
theorem nearestMultiple_le_of_subnormal {f : FpFormat} {m : Nat} {e : Int} (neg : Bool)
    (h : e + m.log2 - f.frac < f.qmin) : (nearestMultiple f neg m e).1 ≤ 2 ^ f.frac := by
  refine le_two_pow_of_nearest (roundMag_nearest neg m e (lastPlace f m e)) ((lt_two_zpow_lead_succ m e).trans_le ?_)
  rw [lastPlace, max_eq_right h.le]
  exact zpow_le_zpow_right₀ one_le_two (by omega)

/-- A value that does not overflow has an exponent field below that of an infinity. -/
theorem exponent_lt_top {f : FpFormat} (hf : 2 ≤ f.ebits) (neg : Bool) (m : Nat) (e : Int)
    (hfits : roundedLead f neg m e ≤ f.emax) :
    (lastPlace f m e - f.qmin).toNat + (nearestMultiple f neg m e).1 / 2 ^ f.frac < f.top := by
  have htop := top_eq_bias hf
  have hbias := bias_pos hf
  rcases le_or_gt f.qmin (e + m.log2 - f.frac) with hnormal | hsub
  · have hquot := nearestMultiple_quotient_le neg hnormal
    rw [lastPlace, max_eq_left hnormal]
    simp only [FpFormat.qmin, FpFormat.emax] at hnormal hfits ⊢
    omega
  · have hquot : (nearestMultiple f neg m e).1 / 2 ^ f.frac ≤ 1 :=
      (Nat.div_le_div_right (nearestMultiple_le_of_subnormal neg hsub)).trans (Nat.div_self (Nat.two_pow_pos _)).le
    rw [lastPlace, max_eq_right hsub.le, sub_self, Int.toNat_zero]
    omega

/-! ## The obligation -/

/-- What RoundToNearestIsNearest asks of a result r: it decodes to a value of the sign, at most half a last place away, with
NX exactly where it differs. -/
def NearestResult (f : FpFormat) (neg : Bool) (m : Nat) (e : Int) (r : FpRes) : Prop :=
  ∃ m' e', fpDecode f false r.1 = .fin neg m' e'
    ∧ 2 * |(m : ℚ) * 2 ^ e - (m' : ℚ) * 2 ^ e'| ≤ (2 : ℚ) ^ lastPlace f m e
    ∧ (r.2 &&& flagNX = 0 ↔ (m : ℚ) * 2 ^ e = (m' : ℚ) * 2 ^ e')

/-- Zero is nearest to a value far below the smallest subnormal, and inexact. -/
theorem nearestResult_of_far {f : FpFormat} (hf : 2 ≤ f.ebits) (neg : Bool) {m : Nat} {e : Int} (hm : m ≠ 0)
    (hfar : e + m.log2 < f.qmin - 2) : NearestResult f neg m e (fpRound f 0 false neg false m e) := by
  have htop := top_eq_bias hf
  have hbias := bias_pos hf
  have hzero : fpDecode f false (f.code neg 0) = .fin neg 0 f.qmin := by
    simpa using fpDecode_code neg (ex := 0) (Nat.two_pow_pos f.frac) (by omega)
  have hpos : (0 : ℚ) < m * 2 ^ e := by positivity
  have hplace : lastPlace f m e = f.qmin := max_eq_right (by omega)
  have hsmall : (m : ℚ) * 2 ^ e < 2 ^ (f.qmin - 1) :=
    (lt_two_zpow_lead_succ m e).trans_le (zpow_le_zpow_right₀ one_le_two (by omega))
  rw [fpRound_of_far neg hm hfar]
  refine ⟨0, f.qmin, hzero, ?_, ?_⟩
  · rw [hplace, Nat.cast_zero, zero_mul, sub_zero, abs_of_pos hpos, ← sub_add_cancel f.qmin 1, zpow_add_one₀ two_ne_zero]
    linarith
  · simp [hpos.ne', fNX, fUF, flagNX]

/-- NX is set in the flags of a result without overflow exactly where it is inexact. -/
theorem nx_clear_iff (inexact tiny : Bool) :
    ((if inexact then fNX else 0) ||| (if inexact && tiny then fUF else 0)) &&& flagNX = 0 ↔ inexact = false := by
  cases inexact <;> cases tiny <;> decide

/-- Rounding to nearest without overflow gives a nearest value. -/
theorem nearestResult_of_near {f : FpFormat} (hf : 2 ≤ f.ebits) (neg : Bool) {m : Nat} {e : Int} (hm : m ≠ 0)
    (hnear : f.qmin - 2 ≤ e + m.log2) (hof : (fpRound f 0 false neg false m e).2 &&& flagOF = 0) :
    NearestResult f neg m e (fpRound f 0 false neg false m e) := by
  have hfits : ¬f.emax < roundedLead f neg m e := by
    intro hover
    rw [fpRound_of_near neg hm hnear, if_pos hover] at hof
    simp [fOF, fNX, flagOF] at hof
  obtain ⟨m', e', hdecode, hvalue⟩ := fpDecode_significand neg (nearestMultiple_le f neg m e)
    (fun hlt => by rw [lastPlace_eq_qmin_of_lt hm hlt, sub_self]; rfl) (exponent_lt_top hf neg m e (not_lt.1 hfits))
  have hplace : f.qmin + ((lastPlace f m e - f.qmin).toNat : ℤ) = lastPlace f m e := by
    rw [Int.toNat_of_nonneg (sub_nonneg.2 (qmin_le_lastPlace f m e)), add_sub_cancel]
  rw [hplace] at hvalue
  rw [fpRound_of_near neg hm hnear, if_neg hfits]
  refine ⟨m', e', hdecode, ?_, ?_⟩ <;> rw [hvalue]
  · exact roundMag_nearest neg m e (lastPlace f m e)
  · rw [nx_clear_iff]
    exact roundMag_exact_iff neg m e (lastPlace f m e)

/-- The formats of 02 R41 have exponent fields of at least two bits. -/
theorem two_le_ebits {f : FpFormat} (hf : f ∈ [fp16, bf16, fp32]) : 2 ≤ f.ebits := by
  simp only [List.mem_cons, List.not_mem_nil, or_false] at hf
  obtain rfl | rfl | rfl := hf <;> decide

/-- Settles O3: a value far below the smallest subnormal goes to zero; any other becomes the nearest multiple of its last
place, and the code holds that multiple exactly. -/
theorem roundToNearestIsNearest : Obligations.RoundToNearestIsNearest := by
  unfold Obligations.RoundToNearestIsNearest
  intro f hf neg m e hm r u hof
  rcases lt_or_ge (e + m.log2) (f.qmin - 2) with hfar | hnear
  · exact nearestResult_of_far (two_le_ebits hf) neg hm hfar
  · exact nearestResult_of_near (two_le_ebits hf) neg hm hnear hof

end Sys2Proof.Proofs
end

section
/-! PROOFS. Decoding (03 R80-R103): the fields and the opcode of a form's word, the constructor that a word selects, and what
the decoder answers. -/

namespace Sys2Proof.Proofs

open Sys2Proof.Machine

/-! ## The word of a form (03 R81, R86-R98) -/

/-! ### Its fields read back -/

@[simp] theorem formS3_ofWord_word (op : BitVec 8) (x : FormS3) : FormS3.ofWord (x.word op) = x := by
  simp (disch := omega) only [FormS3.ofWord, FormS3.word, BitVec.extractLsb'_append_eq_of_le,
    BitVec.extractLsb'_append_eq_of_add_le, Nat.reduceSub, BitVec.extractLsb'_eq_self]

@[simp] theorem formSI_ofWord_word (op : BitVec 8) (x : FormSI) : FormSI.ofWord (x.word op) = x := by
  simp (disch := omega) only [FormSI.ofWord, FormSI.word, BitVec.extractLsb'_append_eq_of_le,
    BitVec.extractLsb'_append_eq_of_add_le, Nat.reduceSub, BitVec.extractLsb'_eq_self]

@[simp] theorem formC_ofWord_word (op : BitVec 8) (x : FormC) : FormC.ofWord (x.word op) = x := by
  simp (disch := omega) only [FormC.ofWord, FormC.word, BitVec.extractLsb'_append_eq_of_le,
    BitVec.extractLsb'_append_eq_of_add_le, Nat.reduceSub, BitVec.extractLsb'_eq_self]

@[simp] theorem formLI_ofWord_word (op : BitVec 8) (x : FormLI) : FormLI.ofWord (x.word op) = x := by
  simp (disch := omega) only [FormLI.ofWord, FormLI.word, BitVec.extractLsb'_append_eq_of_le,
    BitVec.extractLsb'_append_eq_of_add_le, Nat.reduceSub, BitVec.extractLsb'_eq_self]

@[simp] theorem formJ_ofWord_word (op : BitVec 8) (x : FormJ) : FormJ.ofWord (x.word op) = x := by
  simp (disch := omega) only [FormJ.ofWord, FormJ.word, BitVec.extractLsb'_append_eq_of_le,
    BitVec.extractLsb'_append_eq_of_add_le, Nat.reduceSub, BitVec.extractLsb'_eq_self]

@[simp] theorem formM_ofWord_word (op : BitVec 8) (x : FormM) : FormM.ofWord (x.word op) = x := by
  simp (disch := omega) only [FormM.ofWord, FormM.word, BitVec.extractLsb'_append_eq_of_le,
    BitVec.extractLsb'_append_eq_of_add_le, Nat.reduceSub, BitVec.extractLsb'_eq_self]

@[simp] theorem formV_ofWord_word (op : BitVec 8) (x : FormV) : FormV.ofWord (x.word op) = x := by
  simp (disch := omega) only [FormV.ofWord, FormV.word, BitVec.extractLsb'_append_eq_of_le,
    BitVec.extractLsb'_append_eq_of_add_le, Nat.reduceSub, BitVec.extractLsb'_eq_self]

@[simp] theorem formT_ofWord_word (op : BitVec 8) (x : FormT) : FormT.ofWord (x.word op) = x := by
  simp (disch := omega) only [FormT.ofWord, FormT.word, BitVec.extractLsb'_append_eq_of_le,
    BitVec.extractLsb'_append_eq_of_add_le, Nat.reduceSub, BitVec.extractLsb'_eq_self]

@[simp] theorem formL_ofWord_word (op : BitVec 8) (x : FormL) : FormL.ofWord (x.word op) = x := by
  simp (disch := omega) only [FormL.ofWord, FormL.word, BitVec.extractLsb'_append_eq_of_le,
    BitVec.extractLsb'_append_eq_of_add_le, Nat.reduceSub, BitVec.extractLsb'_eq_self]

@[simp] theorem formQ_ofWord_word (op : BitVec 8) (x : FormQ) : FormQ.ofWord (x.word op) = x := by
  simp (disch := omega) only [FormQ.ofWord, FormQ.word, BitVec.extractLsb'_append_eq_of_le,
    BitVec.extractLsb'_append_eq_of_add_le, Nat.reduceSub, BitVec.extractLsb'_eq_self]

@[simp] theorem formB_ofWord_word (op : BitVec 8) (x : FormB) : FormB.ofWord (x.word op) = x := by
  simp (disch := omega) only [FormB.ofWord, FormB.word, BitVec.extractLsb'_append_eq_of_le,
    BitVec.extractLsb'_append_eq_of_add_le, Nat.reduceSub, BitVec.extractLsb'_eq_self]

@[simp] theorem formA_ofWord_word (op : BitVec 8) (x : FormA) : FormA.ofWord (x.word op) = x := by
  simp (disch := omega) only [FormA.ofWord, FormA.word, BitVec.extractLsb'_append_eq_of_le,
    BitVec.extractLsb'_append_eq_of_add_le, Nat.reduceSub, BitVec.extractLsb'_eq_self]

@[simp] theorem formK_ofWord_word (op : BitVec 8) (x : FormK) : FormK.ofWord (x.word op) = x := by
  simp (disch := omega) only [FormK.ofWord, FormK.word, BitVec.extractLsb'_append_eq_of_le,
    BitVec.extractLsb'_append_eq_of_add_le, Nat.reduceSub, BitVec.extractLsb'_eq_self]

@[simp] theorem formY_ofWord_word (op : BitVec 8) (x : FormY) : FormY.ofWord (x.word op) = x := by
  simp (disch := omega) only [FormY.ofWord, FormY.word, BitVec.extractLsb'_append_eq_of_le,
    BitVec.extractLsb'_append_eq_of_add_le, Nat.reduceSub, BitVec.extractLsb'_eq_self]

/-! ### The opcode of a form's word (03 R81) -/

@[simp] theorem formS3_op_word (op : BitVec 8) (x : FormS3) : (x.word op).extractLsb' 56 8 = op := by
  simp (disch := omega) only [FormS3.word, BitVec.extractLsb'_append_eq_of_le, Nat.reduceSub, BitVec.extractLsb'_eq_self]

@[simp] theorem formSI_op_word (op : BitVec 8) (x : FormSI) : (x.word op).extractLsb' 56 8 = op := by
  simp (disch := omega) only [FormSI.word, BitVec.extractLsb'_append_eq_of_le, Nat.reduceSub, BitVec.extractLsb'_eq_self]

@[simp] theorem formC_op_word (op : BitVec 8) (x : FormC) : (x.word op).extractLsb' 56 8 = op := by
  simp (disch := omega) only [FormC.word, BitVec.extractLsb'_append_eq_of_le, Nat.reduceSub, BitVec.extractLsb'_eq_self]

@[simp] theorem formLI_op_word (op : BitVec 8) (x : FormLI) : (x.word op).extractLsb' 56 8 = op := by
  simp (disch := omega) only [FormLI.word, BitVec.extractLsb'_append_eq_of_le, Nat.reduceSub, BitVec.extractLsb'_eq_self]

@[simp] theorem formJ_op_word (op : BitVec 8) (x : FormJ) : (x.word op).extractLsb' 56 8 = op := by
  simp (disch := omega) only [FormJ.word, BitVec.extractLsb'_append_eq_of_le, Nat.reduceSub, BitVec.extractLsb'_eq_self]

@[simp] theorem formM_op_word (op : BitVec 8) (x : FormM) : (x.word op).extractLsb' 56 8 = op := by
  simp (disch := omega) only [FormM.word, BitVec.extractLsb'_append_eq_of_le, Nat.reduceSub, BitVec.extractLsb'_eq_self]

@[simp] theorem formV_op_word (op : BitVec 8) (x : FormV) : (x.word op).extractLsb' 56 8 = op := by
  simp (disch := omega) only [FormV.word, BitVec.extractLsb'_append_eq_of_le, Nat.reduceSub, BitVec.extractLsb'_eq_self]

@[simp] theorem formT_op_word (op : BitVec 8) (x : FormT) : (x.word op).extractLsb' 56 8 = op := by
  simp (disch := omega) only [FormT.word, BitVec.extractLsb'_append_eq_of_le, Nat.reduceSub, BitVec.extractLsb'_eq_self]

@[simp] theorem formL_op_word (op : BitVec 8) (x : FormL) : (x.word op).extractLsb' 56 8 = op := by
  simp (disch := omega) only [FormL.word, BitVec.extractLsb'_append_eq_of_le, Nat.reduceSub, BitVec.extractLsb'_eq_self]

@[simp] theorem formQ_op_word (op : BitVec 8) (x : FormQ) : (x.word op).extractLsb' 56 8 = op := by
  simp (disch := omega) only [FormQ.word, BitVec.extractLsb'_append_eq_of_le, Nat.reduceSub, BitVec.extractLsb'_eq_self]

@[simp] theorem formB_op_word (op : BitVec 8) (x : FormB) : (x.word op).extractLsb' 56 8 = op := by
  simp (disch := omega) only [FormB.word, BitVec.extractLsb'_append_eq_of_le, Nat.reduceSub, BitVec.extractLsb'_eq_self]

@[simp] theorem formA_op_word (op : BitVec 8) (x : FormA) : (x.word op).extractLsb' 56 8 = op := by
  simp (disch := omega) only [FormA.word, BitVec.extractLsb'_append_eq_of_le, Nat.reduceSub, BitVec.extractLsb'_eq_self]

@[simp] theorem formK_op_word (op : BitVec 8) (x : FormK) : (x.word op).extractLsb' 56 8 = op := by
  simp (disch := omega) only [FormK.word, BitVec.extractLsb'_append_eq_of_le, Nat.reduceSub, BitVec.extractLsb'_eq_self]

@[simp] theorem formY_op_word (op : BitVec 8) (x : FormY) : (x.word op).extractLsb' 56 8 = op := by
  simp (disch := omega) only [FormY.word, BitVec.extractLsb'_append_eq_of_le, Nat.reduceSub, BitVec.extractLsb'_eq_self]

/-! ## The opcode map (03 R99) -/

/-- OP of a word, as a number. -/
theorem toNat_op (w : Word) : (w.extractLsb' 56 8).toNat = w.toNat / 2 ^ 56 := by
  rw [BitVec.extractLsb'_toNat, Nat.shiftRight_eq_div_pow, Nat.mod_eq_of_lt]
  omega

/-- The high digit of OP. -/
theorem toNat_op_high (w : Word) : (w.extractLsb' 60 4).toNat = (w.extractLsb' 56 8).toNat / 16 := by
  simp only [BitVec.extractLsb'_toNat, Nat.shiftRight_eq_div_pow]
  omega

/-- The low digit of OP. -/
theorem toNat_op_low (w : Word) : (w.extractLsb' 56 4).toNat = (w.extractLsb' 56 8).toNat % 16 := by
  simp only [BitVec.extractLsb'_toNat, Nat.shiftRight_eq_div_pow]
  omega

/-- The rows of the opcode map, by the two digits of OP given as numbers. -/
def pickRow (hi lo : Nat) (w : Word) : Option Instr :=
  match hi with
  | 0x0 => pickRow0 lo w
  | 0x1 => pickRow1 lo w
  | 0x2 => pickRow2 lo w
  | 0x3 => pickRow3 lo w
  | 0x4 => pickRow4 lo w
  | 0x5 => pickRow5 lo w
  | 0x6 => pickRow6 lo w
  | 0x7 => pickRow7 lo w
  | 0x8 => pickRow8 lo w
  | 0x9 => pickRow9 lo w
  | 0xA => pickRowA lo w
  | 0xB => pickRowB lo w
  | 0xC => pickRowC lo w
  | 0xD => pickRowD lo w
  | _ => none

theorem pickInstr_eq_pickRow (w : Word) :
    pickInstr w = pickRow ((w.extractLsb' 56 8).toNat / 16) ((w.extractLsb' 56 8).toNat % 16) w := by
  rw [← toNat_op_high, ← toNat_op_low]
  rfl

/-- OP of a word is assigned, and the word selects this instruction. -/
def Selects (w : Word) (i : Instr) : Prop :=
  opAssigned (w.extractLsb' 56 8).toNat = true ∧ pickInstr w = some i

/-- What a row of the map selects, for a word whose opcode and whose fields are known. -/
theorem selects_of_row {F : Type} {f : F → Instr} {ofWord : Word → F} {op : BitVec 8} {w : Word} {x : F}
    (hop : w.extractLsb' 56 8 = op) (hx : ofWord w = x) (ha : opAssigned op.toNat = true)
    (hrow : pickRow (op.toNat / 16) (op.toNat % 16) w = some (f (ofWord w))) : Selects w (f x) := by
  subst hop hx
  exact ⟨ha, (pickInstr_eq_pickRow w).trans hrow⟩

/-! ### The rows of csrr and csrw (05 R189) -/

theorem toNat_beq_toNat {n : Nat} (a b : BitVec n) : (a.toNat == b.toNat) = (a == b) := by
  simp only [beq_eq_decide, BitVec.toNat_inj]

theorem ownCsrRow_toNat (write : Bool) (a : BitVec 16) :
    ownCsrRow write a.toNat
      = (a == 0x11#16 || a == 0x200#16 || (write && (isTriggerCsr a.toNat || a == 0x231#16 || a == 0x260#16))) := by
  simp only [← toNat_beq_toNat]
  rfl

theorem ne_of_isTriggerCsr {a b : BitVec 16} (h : isTriggerCsr a.toNat = true) (hb : isTriggerCsr b.toNat = false) :
    a ≠ b := by
  rintro rfl
  simp [h] at hb

/-- A csrr of a register without a row of its own. -/
theorem pickCsrr_shared {w : Word} {x : FormS3} (hx : FormS3.ofWord w = x) (h : ownCsrRow false x.aux.toNat = false) :
    pickCsrr w = some (.csrr x) := by
  simp_all [pickCsrr, ownCsrRow_toNat]

/-- A csrw of a register without a row of its own: SF selects. -/
theorem pickCsrw_shared {w : Word} {x : FormS3} (hx : FormS3.ofWord w = x) (h : ownCsrRow true x.aux.toNat = false) :
    pickCsrw w = if x.sf == 0 then some (.csrw x) else if x.sf == 1 then some (.csrwSet x)
      else if x.sf == 2 then some (.csrwClr x) else none := by
  simp_all [pickCsrw, ownCsrRow_toNat]

theorem pickCsrw_trigger {w : Word} {x : FormS3} (hx : FormS3.ofWord w = x) (h : isTriggerCsr x.aux.toNat = true) :
    pickCsrw w = some (.triggerEntryWrite x) := by
  have hflags : x.aux ≠ 0x11#16 := ne_of_isTriggerCsr h rfl
  have hpreds : x.aux ≠ 0x200#16 := ne_of_isTriggerCsr h rfl
  simp [pickCsrw, hx, h, hflags, hpreds]

/-! ### Every instruction -/

/-- The word of an instruction whose field values are allowed selects that instruction. For most OP alone selects, form by form;
for the others a field does, whose value extraOk fixes. An event has no word. -/
theorem selects_of_word {i : Instr} {w : Word} (hw : i.word? = some w) (hx : i.extraOk = true)
    (hill : ∀ v, i ≠ .illegalOpcode v) : Selects w i := by
  cases i with
  | add x | sub x | mul x | mulh x | mulhn x | div x | divn x | rem x | remn x | and x | or x | xor x | andn x | sll x
  | srl x | sra x | rotl x | rotr x | clz x | ctz x | popc x | bext x | bins x | min x | max x | minn x | maxn x
  | sel x | cmp x | callr x | ret x | jr x | done x | post x | trap x | brk x | nop x | tick x | sopen x | sgo x
  | swait x | cbinit x | cbwait x | cbrel x | cbput x | cbstat x | smig x | sinval x =>
    cases hw
    exact selects_of_row (formS3_op_word _ _) (formS3_ofWord_word _ _) rfl rfl
  | addi x | andi x | ori x | xori x | slli x | srli x | srai x | rpt x =>
    cases hw
    exact selects_of_row (formSI_op_word _ _) (formSI_ofWord_word _ _) rfl rfl
  | cmpi x =>
    cases hw
    exact selects_of_row (formC_op_word _ _) (formC_ofWord_word _ _) rfl rfl
  | li x =>
    cases hw
    exact selects_of_row (formLI_op_word _ _) (formLI_ofWord_word _ _) rfl rfl
  | jmp x | call x =>
    cases hw
    exact selects_of_row (formJ_op_word _ _) (formJ_ofWord_word _ _) rfl rfl
  | ldl x | stl x | ldc x | stc x | ldx x | stx x | fence x | vld x | vst x | vldq x | vstq x =>
    cases hw
    exact selects_of_row (formM_op_word _ _) (formM_ofWord_word _ _) rfl rfl
  | vadd x | vsub x | vmul x | vfma x | vfms x | vfnma x | vmin x | vmax x | vabs x | vneg x | vand x | vor x | vxor x
  | vshl x | vshr x | vsra x | vcmp x | vsel x | vcvt x | vbxpack x | vbxunpack x | vrcp x | vrsqrt x | vexp2 x
  | vlog2 x | vsqrt x | vdiv x | vredsum x | vredmax x | vbcast x | vperm x | vmovs x | vins x | vplog x | vpany x
  | vpall x | vpset x | vdot4 x | vclass x =>
    cases hw
    exact selects_of_row (formV_op_word _ _) (formV_ofWord_word _ _) rfl rfl
  | tldb x | tldbq x | tmac x | tmacq x | tmacl x | tgang x | tclr x | tadd x | tsta x | tlda x | tout x | texp x =>
    cases hw
    exact selects_of_row (formT_op_word _ _) (formT_ofWord_word _ _) rfl rfl
  | lgl x | lglq x | lrun x | lrunv x | lbound x | lsum x =>
    cases hw
    exact selects_of_row (formL_op_word _ _) (formL_ofWord_word _ _) rfl rfl
  | sendw2 x | sendm x | qflush x | qpeek x | qstat x | qdrop x | rtget x | rtset x | tagset x | dmqset x
  | bankpass x =>
    cases hw
    exact selects_of_row (formQ_op_word _ _) (formQ_ofWord_word _ _) rfl rfl
  | barr x | bwait x | barw x | bexcuse x | bgjoin x | bgleave x | cbr x | cbrv x | cbrres x | specstat x | bmask x
  | tcount x =>
    cases hw
    exact selects_of_row (formB_op_word _ _) (formB_ofWord_word _ _) rfl rfl
  | aadd x | aand x | aor x | axor x | amin x | amax x | aminn x | amaxn x | aswap x | acas x | aincl x | afadd x
  | afrd x | afclr x | afence x =>
    cases hw
    exact selects_of_row (formA_op_word _ _) (formA_ofWord_word _ _) rfl rfl
  | lkgrp x | lkwait x =>
    cases hw
    exact selects_of_row (formK_op_word _ _) (formK_ofWord_word _ _) rfl rfl
  | feat x | idle x =>
    cases hw
    exact selects_of_row (formY_op_word _ _) (formY_ofWord_word _ _) rfl rfl
  | fopAdd x | fopSub x | fopMul x | fopFma x | fopDiv x | fopSqrt x | fopMin x | fopMax x | fopAbs x | fopNeg x | fopCvt x
  | fopToi x | fopTon x | fopFromi x | fopFromn x | fopEq x | fopLt x | fopLe x | fopUn x =>
    simp only [Instr.extraOk, Bool.and_eq_true, beq_iff_eq] at hx
    cases hw
    refine selects_of_row (formS3_op_word _ _) (formS3_ofWord_word _ _) rfl ?_
    simp [pickRow, pickRow2, pickFop, hx.1]
  | waitAll x | waitAny x | waitOsp x | waitUntil x | sstop x | sstopClose x | sstat x | sstatCnt x =>
    simp only [Instr.extraOk, Bool.and_eq_true, beq_iff_eq] at hx
    cases hw
    refine selects_of_row (formS3_op_word _ _) (formS3_ofWord_word _ _) rfl ?_
    simp [pickRow, pickRow3, pickRow7, hx]
  | excq x | excqClr x | drain x | drainEnd x =>
    simp only [Instr.extraOk, Bool.and_eq_true, beq_iff_eq] at hx
    cases hw
    refine selects_of_row (formQ_op_word _ _) (formQ_ofWord_word _ _) rfl ?_
    simp [pickRow, pickRow8, hx]
  | tnorm x | tnormMax x | tmovTt x | tmovOut x | tmovIn x =>
    simp only [Instr.extraOk, beq_iff_eq] at hx
    cases hw
    refine selects_of_row (formT_op_word _ _) (formT_ofWord_word _ _) rfl ?_
    simp [pickRow, pickRow9, hx]
  | lsel x | lselOff x | lstatSt x | lstatTap x | lstatExp x | lfree x | lfreeAll x =>
    simp only [Instr.extraOk, Bool.and_eq_true, beq_iff_eq] at hx
    cases hw
    refine selects_of_row (formL_op_word _ _) (formL_ofWord_word _ _) rfl ?_
    simp [pickRow, pickRowA, hx]
  | lkcollBcast x | lkcollFsum x | lkcollIsum x | lkcollMin x | lkcollMax x | lkcollAnd x | lkcollOr x | lkcollCell x
  | lkstatSlot x | lkstatPort x | lkseq x | lkseqSet x =>
    simp only [Instr.extraOk, Bool.and_eq_true, beq_iff_eq] at hx
    cases hw
    refine selects_of_row (formK_op_word _ _) (formK_ofWord_word _ _) rfl ?_
    simp [pickRow, pickRowD, hx]
  | trapret x | trapretSkip x | halt x | haltRgn x | syscall x | syscallNotify x | syscallStep x =>
    simp only [Instr.extraOk, beq_iff_eq, decide_eq_true_eq] at hx
    cases hw
    refine selects_of_row (formY_op_word _ _) (formY_ofWord_word _ _) rfl ?_
    simp [pickRow, pickRowD, hx]
  | csrr x =>
    simp only [Instr.extraOk, Bool.and_eq_true, Bool.not_eq_true'] at hx
    cases hw
    refine selects_of_row (formS3_op_word _ _) (formS3_ofWord_word _ _) rfl ?_
    simp [pickRow, pickRow3, pickCsrr_shared rfl, hx]
  | csrw x | csrwSet x | csrwClr x =>
    simp only [Instr.extraOk, Bool.and_eq_true, Bool.not_eq_true', beq_iff_eq] at hx
    cases hw
    refine selects_of_row (formS3_op_word _ _) (formS3_ofWord_word _ _) rfl ?_
    simp [pickRow, pickRow3, pickCsrw_shared rfl, hx]
  | triggerEntryWrite x =>
    simp only [Instr.extraOk, Bool.and_eq_true] at hx
    cases hw
    refine selects_of_row (formS3_op_word _ _) (formS3_ofWord_word _ _) rfl ?_
    simp [pickRow, pickRow3, pickCsrw_trigger rfl, hx]
  | lbndWrite x | bankwaitWrite x =>
    simp only [Instr.extraOk, Bool.and_eq_true, beq_iff_eq] at hx
    cases hw
    refine selects_of_row (formS3_op_word _ _) (formS3_ofWord_word _ _) rfl ?_
    simp [pickRow, pickRow3, pickCsrw, isTriggerCsr, hx]
  | fpFlagsAccess write x | predsAccess write x =>
    simp only [Instr.extraOk, Bool.and_eq_true, beq_iff_eq] at hx
    cases hw
    cases write
    · refine selects_of_row (formS3_op_word _ _) (formS3_ofWord_word _ _) rfl ?_
      simp [pickRow, pickRow3, pickCsrr, hx]
    · refine selects_of_row (formS3_op_word _ _) (formS3_ofWord_word _ _) rfl ?_
      simp [pickRow, pickRow3, pickCsrw, hx]
  | illegalOpcode v => exact absurd rfl (hill v)
  | _ => cases hw

/-! ## The decoder (03 R102, R103) -/

theorem decodeWord_unassigned {w : Word} (h : opAssigned (w.extractLsb' 56 8).toNat = false) :
    decodeWord w = .ok (.illegalOpcode w) := by
  rw [decodeWord, h]
  rfl

/-- A word of an assigned OP decodes to the instruction that it selects, where that one is well formed and has this word. -/
theorem decodeWord_assigned_iff {w : Word} {i : Instr} (h : opAssigned (w.extractLsb' 56 8).toNat = true) :
    decodeWord w = .ok i ↔ pickInstr w = some i ∧ i.wellFormed = true ∧ i.word? = some w := by
  simp only [decodeWord, h, if_true]
  cases hp : pickInstr w with
  | none => simp
  | some j =>
    by_cases hj : j.wellFormed = true ∧ j.word? = some w
    · simp only [hj, beq_self_eq_true, Bool.and_self, if_true, Except.ok.injEq, Option.some.injEq]
      exact ⟨fun h => ⟨h, h ▸ hj⟩, fun h => h.1⟩
    · have hb : (j.wellFormed && j.word? == some w) = false := by simpa using hj
      simp only [hb, Bool.false_eq_true, if_false, reduceCtorEq, Option.some.injEq, false_iff]
      rintro ⟨rfl, hwf⟩
      exact hj hwf

theorem extraOk_of_wellFormed {i : Instr} (h : i.wellFormed = true) : i.extraOk = true :=
  (Bool.and_eq_true_iff.1 h).1

/-- The word of a well-formed instruction decodes to it. -/
theorem decodeWord_word {i : Instr} {w : Word} (hw : i.word? = some w) (hwf : i.wellFormed = true) :
    decodeWord w = .ok i := by
  have hx := extraOk_of_wellFormed hwf
  by_cases hill : ∃ v, i = .illegalOpcode v
  · obtain ⟨v, rfl⟩ := hill
    cases hw
    exact decodeWord_unassigned (by simpa [Instr.extraOk] using hx)
  · obtain ⟨hop, hpick⟩ := selects_of_word hw hx (fun v h => hill ⟨v, h⟩)
    exact (decodeWord_assigned_iff hop).2 ⟨hpick, hwf, hw⟩

/-- What the decoder answers has the word decoded, or is the illegal-opcode row. -/
theorem word?_of_decodeWord {w : Word} {i : Instr} (h : decodeWord w = .ok i) :
    i.word? = some w ∨ i = .illegalOpcode w := by
  cases hop : opAssigned (w.extractLsb' 56 8).toNat with
  | true => exact .inl ((decodeWord_assigned_iff hop).1 h).2.2
  | false =>
    rw [decodeWord_unassigned hop] at h
    exact .inr (Except.ok.inj h).symm

/-- The illegal-opcode row is well formed for a word of an unassigned OP alone, so only such a word decodes to it. -/
theorem decodeWord_illegal_iff (w : Word) :
    decodeWord w = .ok (.illegalOpcode w) ↔ opAssigned (w.extractLsb' 56 8).toNat = false := by
  refine ⟨fun h => ?_, decodeWord_unassigned⟩
  cases hop : opAssigned (w.extractLsb' 56 8).toNat with
  | false => rfl
  | true =>
    obtain ⟨-, hwf, -⟩ := (decodeWord_assigned_iff hop).1 h
    have hx := extraOk_of_wellFormed hwf
    rw [Instr.extraOk, hop] at hx
    contradiction

/-! ## Bytes (03 R80) -/

theorem length_bytesOfWord (w : Word) : (bytesOfWord w).length = 8 := by
  simp [bytesOfWord]

/-- The eight bytes of a word are its digits to the base 256. -/
theorem wordOfBytes_bytesOfWord (w : Word) : wordOfBytes (bytesOfWord w) = w := by
  apply BitVec.eq_of_toNat_eq
  simp only [wordOfBytes, bytesOfWord, List.range_succ, List.range_zero, List.nil_append, List.cons_append, List.map_cons,
    List.map_nil, List.foldr_cons, List.foldr_nil, BitVec.extractLsb'_toNat, Nat.shiftRight_eq_div_pow, BitVec.toNat_ofNat]
  omega

theorem decodeBytes_bytesOfWord {w : Word} {i : Instr} (h : decodeWord w = .ok i) (rest : List Byte) :
    decodeBytes (bytesOfWord w ++ rest) = .ok (i, rest) := by
  have hlen := length_bytesOfWord w
  have hlong : ¬(bytesOfWord w ++ rest).length < 8 := by simp [hlen]
  rw [decodeBytes, if_neg hlong, List.take_left' hlen, List.drop_left' hlen, wordOfBytes_bytesOfWord, h]

theorem encodeBytes_of_word {i : Instr} {w : Word} (h : i.word? = some w) : encodeBytes i = bytesOfWord w := by
  simp [encodeBytes, encode, h]

/-- Settles O24: the word of a well-formed instruction selects it, by cases on the instruction, and its bytes are its word. -/
theorem decodeOfEncodeIsTheInstruction : Obligations.DecodeOfEncodeIsTheInstruction := by
  unfold Obligations.DecodeOfEncodeIsTheInstruction
  refine ⟨fun i rest hwf hsome => ?_, fun w i h => word?_of_decodeWord h, fun w => ?_⟩
  · obtain ⟨w, hw⟩ := Option.isSome_iff_exists.1 hsome
    rw [encodeBytes_of_word hw]
    exact decodeBytes_bytesOfWord (decodeWord_word hw hwf) rest
  · rw [← toNat_op]
    exact decodeWord_illegal_iff w

/-- Settles O23: each instruction is well formed, and the word written out is its word. -/
theorem decodesTheSpecsWords : Obligations.DecodesTheSpecsWords := by
  unfold Obligations.DecodesTheSpecsWords
  have hwords : ∀ p ∈ Claims.specWords, p.2.word? = some p.1 ∧ p.2.wellFormed = true := by decide +kernel
  intro p hp
  obtain ⟨hw, hwf⟩ := hwords p hp
  exact decodeWord_word hw hwf

end Sys2Proof.Proofs
end

section
/-! PROOFS. Fetching and stepping (03 R80, R82, R103; 01 R40): the word that a fetch returns, and what the move of a step
does. -/

namespace Sys2Proof.Proofs

open Sys2Proof.Machine

/-! ## The word that a fetch returns (03 R80) -/

theorem wordOfBytes_eq_natOfBytes (b : List Byte) : wordOfBytes b = BitVec.ofNat 64 (natOfBytes b) := by
  have hfold : b.foldr (fun x n => x.toNat + 256 * n) 0 = natOfBytes b := by
    induction b with
    | nil => rfl
    | cons x xs ih => rw [List.foldr_cons, ih, natOfBytes]
  rw [wordOfBytes, hfold]

/-- Without buffered stores a load returns the bytes of LOC. -/
theorem loadBytes_nil (s : State) (lid a n : Nat) : loadBytes s [] lid a n = cellsAt (s.core lid).loc a n := by
  induction n generalizing a with
  | zero => rfl
  | succ n ih => rw [loadBytes, ih]; rfl

/-- Without buffered stores or words fetched ahead the word in LOC is the only choice. -/
theorem fetchWord_loc {s : State} {lid a : Nat} (hsb : (s.core lid).sb = []) (hold : (s.core lid).oldWords = []) :
    fetchWord s lid a = wordOfBytes (cellsAt (s.core lid).loc a 8) := by
  have hchoices : fetchChoices s lid a = [wordOfBytes (cellsAt (s.core lid).loc a 8)] := by
    simp [fetchChoices, hsb, hold, loadBytes_nil, wordOfBytes_eq_natOfBytes, Core.locWord, Table.get]
  rw [fetchWord, hchoices]

/-- A load sees of the core whose LOC it reads that LOC alone. -/
theorem loadBytes_congr {s t : State} {lid : Nat} (h : (t.core lid).loc = (s.core lid).loc) (sb : List SbEntry) (a n : Nat) :
    loadBytes t sb lid a n = loadBytes s sb lid a n := by
  induction n generalizing a with
  | zero => rfl
  | succ n ih => rw [loadBytes, loadBytes, ih, h]

/-- What a core keeps of its word does not change what a fetch returns. -/
theorem fetchWord_congr {s t : State} {lid : Nat} {w : Word} (hc : t.core lid = { s.core lid with fetched := w })
    (hticks : t.ticks = s.ticks) (a : Nat) : fetchWord t lid a = fetchWord s lid a := by
  have hchoices : fetchChoices t lid a = fetchChoices s lid a := by
    rw [fetchChoices, fetchChoices, loadBytes_congr (s := s) (by rw [hc]), hc]
    rfl
  rw [fetchWord, fetchWord, hchoices, hticks]

/-! ## A core at its scalar port (03 R82, R103) -/

/-- The state in which core lid executes at its scalar port, the word there kept. -/
def issuing (s : State) (lid : Nat) : State := (s.keepWord lid).running lid false

@[simp] theorem core_issuing (s : State) (lid : Nat) :
    (issuing s lid).core lid = { s.core lid with fetched := s.wordAt lid } := s.core_setCore_self lid _

/-- The word at a scalar port is the same once it is kept there. -/
@[simp] theorem wordAt_issuing (s : State) (lid : Nat) : (issuing s lid).wordAt lid = s.wordAt lid := by
  have hfetch := fetchWord_congr (core_issuing s lid) rfl (s.core lid).pc.toNat
  cases hi : (s.core lid).issued with
  | true => simp [State.wordAt, hi]
  | false => simp [State.wordAt, hi, hfetch]

/-- Core lid may issue at its scalar port, and its PC is one that a fetch accepts (03 R80, R82; 05 R177; 15 R460). -/
structure Fetches (s : State) (lid : Nat) : Prop where
  canIssue : s.canIssue lid = true
  notExpired : s.anyExpired lid = false
  aligned : (s.core lid).pc.toNat % 8 = 0
  inCode : (s.core lid).pc.toNat < (s.core lid).codeLim
  notPoisoned : (s.core lid).locPoisoned (s.core lid).pc.toNat 8 = false

theorem fetchStage_issuing {s : State} {lid : Nat} (h : Fetches s lid) :
    fetchStage (issuing s lid) lid = decodeFetched (s.wordAt lid) := by
  have hpoison : (Core.locPoisoned { s.core lid with fetched := s.wordAt lid } (s.core lid).pc.toNat 8) = false := h.notPoisoned
  simp [fetchStage, h.aligned, h.inCode, hpoison]

/-- A core whose word decodes executes it. -/
theorem stepCore_run {s : State} {lid : Nat} {i : Instr} (h : Fetches s lid) (hd : decodeWord (s.wordAt lid) = .ok i) :
    stepCore s lid = exec i (issuing s lid) := by
  have hstage : fetchStage ((s.keepWord lid).running lid false) lid = .run i := by
    rw [← issuing, fetchStage_issuing h, decodeFetched, hd]
  simp only [stepCore, h.canIssue, h.notExpired, hstage]
  rfl

/-- A core whose word is no instruction takes its trap, unless a body word is between two of its steps. -/
theorem stepCore_trap {s : State} {lid : Nat} {e : DecodeError} (h : Fetches s lid)
    (hd : decodeWord (s.wordAt lid) = .error e) (hm : (s.core lid).midBody = false) :
    stepCore s lid = .next (deliverTrap (issuing s lid) { code := causeReserved, val := s.wordAt lid, sub := 0 }
      (s.core lid).pc (s.wordAt lid)) := by
  have hstage : fetchStage ((s.keepWord lid).running lid false) lid
      = .trap { code := causeReserved, val := s.wordAt lid, sub := 0 } (s.wordAt lid) := by
    rw [← issuing, fetchStage_issuing h, decodeFetched, hd]
  have hcore := core_issuing s lid
  have hmid : (issuing s lid).midBody = false := by
    show (!false && ((issuing s lid).core lid).midBody) = false
    rw [hcore]
    exact hm
  have hpc : ((issuing s lid).core lid).pc = (s.core lid).pc := by rw [hcore]
  simp only [stepCore, h.canIssue, h.notExpired, hstage]
  rw [← issuing, hmid, hpc]
  rfl

/-- A core that may not issue stays as it is. -/
theorem stepCore_stays {s : State} {lid : Nat} (h : s.canIssue lid = false) : stepCore s lid = .next s := by
  rw [stepCore, h]
  rfl

/-! ## A core at its repeat buffer (05 R170) -/

/-- A repeat buffer whose next body word decodes executes it. -/
theorem stepRpt_run {s : State} {lid : Nat} {r : Rpt} {i : Instr} (hi : s.canIssue lid = true)
    (he : s.anyExpired lid = false) (hr : (s.core lid).rpt = some r) (hd : decodeWord r.next = .ok i) :
    stepRpt s lid = exec i (s.running lid true) := by
  simp only [stepRpt, hi, he, hr, decodeFetched, hd]
  rfl

/-! ## One move of the schedule -/

theorem step_of_sched {s : State} {m : Move} {rest : List Move} (h : s.sched = m :: rest) : step s = stepMove s.tick m := by
  rw [step, State.nextMove, h]

theorem tick_of_sched {s : State} {m : Move} {rest : List Move} (h : s.sched = m :: rest) :
    s.tick = { s with sched := rest, ticks := s.ticks + 1 } := by
  rw [State.tick, h, List.tail_cons]

@[simp] theorem core_tick (s : State) (lid : Nat) : s.tick.core lid = s.core lid := rfl

theorem issuing_tick {s : State} {m : Move} {rest : List Move} (h : s.sched = m :: rest) (lid : Nat) :
    issuing s.tick lid
      = { s.setCore lid { s.core lid with fetched := s.tick.wordAt lid } with
          sched := rest, ticks := s.ticks + 1, cur := lid, inRpt := false } := by
  rw [issuing, State.running, State.keepWord, core_tick]
  simp only [tick_of_sched h, State.setCore]

/-- Settles O22: the schedule's head is the move, and what it moves does not depend on the schedule. -/
theorem stepRunsTheDecodedInstruction : Obligations.StepRunsTheDecodedInstruction := by
  unfold Obligations.StepRunsTheDecodedInstruction
  refine ⟨fun s lid rest i w hs hi he ha hl hp hw hd => ?_, fun s lid a hsb hold => fetchWord_loc hsb hold,
    fun s lid rest r i hs hi he hr hd => ?_, fun s i rest hs hev => ?_, fun s lid rest hs hi => ?_⟩
  · have hword : s.tick.wordAt lid = w := hw.symm
    have hfetches : Fetches s.tick lid := ⟨hi, he, ha, hl, hp⟩
    rw [step_of_sched hs, stepMove, stepCore_run hfetches (hword ▸ hd), issuing_tick hs, hword]
  · rw [step_of_sched hs, stepMove, stepRpt_run (s := s.tick) hi he hr hd, State.running, tick_of_sched hs]
  · rw [step_of_sched hs, stepMove, if_pos hev, tick_of_sched hs]
  · rw [step_of_sched hs, stepMove, stepCore_stays (s := s.tick) hi, tick_of_sched hs]

end Sys2Proof.Proofs
end

section
/-! PROOFS. The checks before an instruction (03 R101-R106): what they make of an instruction whose guard is false or that is
forbidden, and the illegal-opcode row, which is checked by nothing and refutes O27 and O28. -/

namespace Sys2Proof.Proofs

open Sys2Proof.Machine Sys2Proof.Claims

/-! ## The checks -/

theorem checks_feature {w : Word} {s : State} {f : Nat} (hf : featureOf w = some f) (hd : s.me.dcl.getLsbD f = false) :
    (checks w).run s = .error (.trap { code := causeFeature, val := w, sub := 0 }) s := by
  unfold checks
  rw [op_bind_ok (op_get s)]
  simp only [hf, hd]
  rfl

/-- The features pass, and the privilege does not. -/
theorem checks_privilege {w : Word} {s : State} (hf : ∀ f, featureOf w = some f → s.me.dcl.getLsbD f = true)
    (hop : supervisorOnly (bitsOf w 56 8) = true) (hp : s.me.prv = false) :
    (checks w).run s = .error (.trap { code := causePrivilege, val := w, sub := 0 }) s := by
  unfold checks
  rw [op_bind_ok (op_get s)]
  cases hfeature : featureOf w with
  | none => simp only [hop, hp]; rfl
  | some f => simp only [hf f hfeature, hop, hp]; rfl

/-- Every check passes, and the guard, which is read now, is false. -/
theorem checks_falseGuard {i : Instr} {s : State} (hp : Permitted i s)
    (hcount : ∀ sp, s.me.spec = some sp → sp.count < 64) (hr : ReadsGuard s (wordOf i))
    (hg : guardHolds s.me (wordOf i) = false) : (checks (wordOf i)).run s = .ok false s := by
  obtain ⟨hf, hprv⟩ := hp
  obtain ⟨hissued, hrpt⟩ := hr
  have hprivilege : (supervisorOnly (bitsOf (wordOf i) 56 8) && !s.me.prv) = false := by
    cases hop : supervisorOnly (bitsOf (wordOf i) 56 8) with
    | false => rfl
    | true => simp [hprv hop]
  have hspeculates : ∀ sp, s.me.spec = some sp → (64 ≤ sp.count) = False := fun sp h =>
    eq_false (Nat.not_le.2 (hcount sp h))
  have hbody : ∀ r, s.me.rpt = some r → (!s.inRpt && r.writesGuard (wordOf i)) = false := by
    intro r hrun
    cases hi : s.inRpt with
    | true => rfl
    | false => simp [hrpt hi r hrun]
  unfold checks
  rw [op_bind_ok (op_get s)]
  simp only [hprivilege, hissued]
  -- whether or not there is a feature, a path and a repeat buffer to check, the check of each passes
  cases hfeature : featureOf (wordOf i) with
  | none | some f =>
    cases hspec : s.me.spec with
    | none | some sp =>
      cases hrun : s.me.rpt with
      | none | some r => simp [hfeature, hspec, hrun, hf, hspeculates, hbody, hg]

/-! ## What the checks make of an instruction -/

/-- Every instruction that has a word issues, but the illegal-opcode row. -/
theorem exec_eq_issue {i : Instr} (hw : i.word?.isSome = true) (hill : ∀ v, i ≠ .illegalOpcode v) (s : State) :
    ∃ body, exec i s = issue i body s := by
  cases i with
  | illegalOpcode v => exact absurd rfl (hill v)
  | fpFlagsAccess write x => cases write <;> exact ⟨_, rfl⟩
  | predsAccess write x => cases write <;> exact ⟨_, rfl⟩
  | _ => cases hw <;> exact ⟨_, rfl⟩

theorem exec_of_checks_false {i : Instr} {s : State} (hw : i.word?.isSome = true) (hill : ∀ v, i ≠ .illegalOpcode v)
    (hcur : s.cur < coreCount) (h : (checks (wordOf i)).run s = .ok false s) :
    exec i s = .next (s.setMe (s.me.retire s.inRpt .seq)) := by
  obtain ⟨body, hbody⟩ := exec_eq_issue hw hill s
  rw [wordOf] at h
  rw [hbody, issue, if_neg (Nat.not_le.2 hcur)]
  simp only [h, finish]

theorem exec_of_checks_trap {i : Instr} {s : State} {t : TrapInfo} (hw : i.word?.isSome = true)
    (hill : ∀ v, i ≠ .illegalOpcode v) (hcur : s.cur < coreCount) (hmid : s.midBody = false)
    (h : (checks (wordOf i)).run s = .error (.trap t) s) :
    exec i s = .next (deliverTrap s t (s.me.execPc s.inRpt) (wordOf i)) := by
  obtain ⟨body, hbody⟩ := exec_eq_issue hw hill s
  rw [wordOf] at h
  rw [hbody, issue, if_neg (Nat.not_le.2 hcur)]
  simp only [h, finish, hmid, wordOf]
  rfl

/-! ## A trap of the scalar port's word (05 R176) -/

@[simp] theorem execPc_scalar (c : Core) : c.execPc false = c.pc := rfl

/-- Where the trapping word stands at the PC, no scalar instruction is left behind. -/
theorem enterTrap_eq_trapped (c : Core) (code : BitVec 8) (w : Word) :
    c.enterTrap { code, val := w, sub := 0 } c.pc false = trapped c code w 0 c.pc := by
  have hsuspend : c.suspend c.pc = none := by simp [Core.suspend]
  cases hr : c.rpt <;> simp [Core.enterTrap, trapped, hsuspend, hr, bit, Rpt.state, rptRecord]

/-- A core with a handler, outside of one, enters it. -/
theorem deliverTrap_handled {s : State} {code : BitVec 8} (w : Word) (hs : s.me.spec = none) (hh : HandlesTraps s.me)
    (hc : code ≠ causeConfigUe) (he : code ≠ causeSoftError) :
    deliverTrap s { code, val := w, sub := 0 } s.me.pc w = s.setMe (trapped s.me code w 0 s.me.pc) := by
  obtain ⟨hvec, hin⟩ := hh
  have hfatal : trapFatal (s.core s.cur) code = false := by
    show trapFatal s.me code = false
    simp [trapFatal, hc, he, hvec, hin]
  have hleave : s.leaveScalar s.cur s.me.pc = s := leaveScalar_pc s s.cur
  simp only [deliverTrap, hs]
  rw [takeTrap_handler hfatal, hleave, ← enterTrap_eq_trapped]
  rfl

/-- On a path run ahead the trap is deferred, and the core waits on its channel. -/
theorem deliverTrap_deferred {s : State} {sp : Spec} {t : TrapInfo} (pc : BitVec 16) (w : Word) (hs : s.me.spec = some sp) :
    deliverTrap s t pc w
      = s.setMe ({ s.me with spec := some { sp with deferred := some (t, pc) } }.noteWait s.inRpt s.cycle.toNat
          (chanWait sp.ch) true false) := by
  simp only [deliverTrap, hs]
  rfl

/-! ## What O27 says, of every instruction but the illegal-opcode row -/

/-- An instruction whose guard is false has no effect. -/
theorem exec_falseGuard {i : Instr} {s : State} (hw : i.word?.isSome = true) (hill : ∀ v, i ≠ .illegalOpcode v)
    (hcur : s.cur < coreCount) (hp : Permitted i s) (hs : s.me.spec = none) (hr : ReadsGuard s (wordOf i))
    (hg : guardHolds s.me (wordOf i) = false) : exec i s = .next (s.completed s.me) := by
  have hchecks := checks_falseGuard hp (by simp [hs]) hr hg
  rw [exec_of_checks_false hw hill hcur hchecks, retire_seq _ _ hs]
  rfl

/-- On a path run ahead it counts as one instruction. -/
theorem exec_falseGuard_ahead {i : Instr} {s : State} {sp : Spec} (hw : i.word?.isSome = true)
    (hill : ∀ v, i ≠ .illegalOpcode v) (hcur : s.cur < coreCount) (hp : Permitted i s) (hs : s.me.spec = some sp)
    (hcount : sp.count < 64) (hr : ReadsGuard s (wordOf i)) (hg : guardHolds s.me (wordOf i) = false) :
    exec i s = .next (s.completed { s.me with spec := some { sp with count := sp.count + 1 } }) := by
  have hchecks := checks_falseGuard hp (by simpa [hs] using hcount) hr hg
  rw [exec_of_checks_false hw hill hcur hchecks, State.completed]
  cases s.inRpt <;> simp [Core.retire, Core.completed, hs, Spec.counted]

/-! ## What O28 says, of every instruction but the illegal-opcode row -/

section Scalar

variable {i : Instr} {s : State} (hw : i.word?.isSome = true) (hill : ∀ v, i ≠ .illegalOpcode v) (hcur : s.cur < coreCount)
  (hrpt : s.inRpt = false) (hmid : s.midBody = false)

include hw hill hcur hrpt hmid

theorem exec_absentFeature {f : Nat} (hs : s.me.spec = none) (hh : HandlesTraps s.me)
    (hf : featureOf (wordOf i) = some f) (hd : s.me.dcl.getLsbD f = false) :
    exec i s = .next (s.setMe (trapped s.me causeFeature (wordOf i) 0 s.me.pc)) := by
  rw [exec_of_checks_trap hw hill hcur hmid (checks_feature hf hd), hrpt, execPc_scalar,
    deliverTrap_handled _ hs hh (by decide) (by decide)]

theorem exec_forbidden (hs : s.me.spec = none) (hh : HandlesTraps s.me)
    (hf : ∀ f, featureOf (wordOf i) = some f → s.me.dcl.getLsbD f = true)
    (hop : supervisorOnly (bitsOf (wordOf i) 56 8) = true) (hp : s.me.prv = false) :
    exec i s = .next (s.setMe (trapped s.me causePrivilege (wordOf i) 0 s.me.pc)) := by
  rw [exec_of_checks_trap hw hill hcur hmid (checks_privilege hf hop hp), hrpt, execPc_scalar,
    deliverTrap_handled _ hs hh (by decide) (by decide)]

theorem exec_forbidden_ahead {sp : Spec} (hs : s.me.spec = some sp)
    (hf : ∀ f, featureOf (wordOf i) = some f → s.me.dcl.getLsbD f = true)
    (hop : supervisorOnly (bitsOf (wordOf i) 56 8) = true) (hp : s.me.prv = false) :
    exec i s = .next (s.setMe ({ s.me with
      spec := some { sp with deferred := some ({ code := causePrivilege, val := wordOf i, sub := 0 }, s.me.pc) } }.noteWait
        false s.cycle.toNat (chanWait sp.ch) true false)) := by
  rw [exec_of_checks_trap hw hill hcur hmid (checks_privilege hf hop hp), deliverTrap_deferred _ _ hs, hrpt]
  rfl

end Scalar

/-- A word that is no instruction traps at its fetch. -/
theorem step_reservedField {s : State} {lid : Nat} {rest : List Move} {e : DecodeError} (hsched : s.sched = .core lid :: rest)
    (hfetch : Fetches s.tick lid) (hs : (s.core lid).spec = none) (hmid : (s.core lid).midBody = false)
    (hh : HandlesTraps (s.core lid)) (hd : decodeWord (s.tick.wordAt lid) = .error e) :
    step s = .next ({ s with sched := rest, ticks := s.ticks + 1, cur := lid, inRpt := false }.setCore lid
      (trapped { s.core lid with fetched := s.tick.wordAt lid } causeReserved (s.tick.wordAt lid) 0 (s.core lid).pc)) := by
  have hme : (issuing s.tick lid).me = { s.core lid with fetched := s.tick.wordAt lid } := core_issuing s.tick lid
  have htrap := deliverTrap_handled (s := issuing s.tick lid) (code := causeReserved) (s.tick.wordAt lid)
    (by rw [hme]; exact hs) (by rw [hme]; exact hh) (by decide) (by decide)
  rw [hme] at htrap
  rw [step_of_sched hsched, stepMove, stepCore_trap hfetch hd hmid, core_tick, htrap, issuing_tick hsched]
  exact congrArg _ (State.setCore_setCore { s with sched := rest, ticks := s.ticks + 1, cur := lid, inRpt := false } lid _ _)

/-! ## The illegal-opcode row -/

/-- The module after reset but for core 0, which has a trap handler. -/
def stateWithHandler : State := { State.reset with cores := [(0, { Core.reset with trapVec := 0x201 })] }

/-- The TRAP_CAUSE that a step leaves in the executing core. -/
def trapCauseAfter : Host.Outcome State Fault Refusal → Option Word
  | .next t => some t.me.trapCause
  | _ => none

/-- A word whose OP, 0, is unassigned, and whose guard names f1. -/
def guardedIllegalWord : Word := 0x0010000000000000

/-- Refutes O27: a word of an unassigned OP is an instruction of the model, the illegal-opcode row, and it traps whatever its
guard (03 R103); here it does so with f1 clear. Of every other instruction the statement holds: exec_falseGuard and
exec_falseGuard_ahead. -/
theorem not_falseGuardsHaveNoEffect : ¬ Obligations.FalseGuardsHaveNoEffect := by
  unfold Obligations.FalseGuardsHaveNoEffect
  rintro ⟨hnoEffect, -⟩
  have hnone : featureOf (wordOf (.illegalOpcode guardedIllegalWord)) = none := rfl
  have hpermitted : Permitted (.illegalOpcode guardedIllegalWord) stateWithHandler :=
    ⟨fun f hf => by rw [hnone] at hf; contradiction, fun h => absurd h (by decide)⟩
  have h := hnoEffect (.illegalOpcode guardedIllegalWord) stateWithHandler rfl (by decide) hpermitted rfl
    ⟨rfl, fun _ r hr => by cases hr⟩ (by decide)
  exact absurd (congrArg trapCauseAfter h) (by decide +kernel)

/-- Refutes O28: the statement ranges over every term that has a word, the illegal-opcode row with a word of an assigned OP among
them, which the decoder never answers; it traps ILLEGAL_OPCODE even where the word's feature is absent. Here OP is 0x90, whose
feature is the tensor macro. Of every other instruction the statement holds: exec_absentFeature, exec_forbidden and
exec_forbidden_ahead, with step_reservedField for the words that are none. -/
theorem not_forbiddenInstructionsTrap : ¬ Obligations.ForbiddenInstructionsTrap := by
  unfold Obligations.ForbiddenInstructionsTrap
  rintro ⟨hfeature, -⟩
  have h := hfeature (.illegalOpcode 0x9000000000000000) stateWithHandler 0 rfl (by decide) rfl rfl rfl ⟨rfl, rfl⟩ rfl rfl
  exact absurd (congrArg trapCauseAfter h) (by decide +kernel)

end Sys2Proof.Proofs
end

section
/-! PROOFS. LOC of a core (04 R125): what every operation on a core leaves of it. Most leave it as it is; a write at its home, a
load and a restore keep its canonical form. -/

namespace Sys2Proof.Machine

open Sys2Proof

/-! ## Operations that leave LOC as it is -/

theorem foldl_loc {α : Type} {f : Core → α → Core} (h : ∀ c a, (f c a).loc = c.loc) (c : Core) (xs : List α) :
    (xs.foldl f c).loc = c.loc := by
  induction xs generalizing c with
  | nil => rfl
  | cons x xs ih => rw [List.foldl_cons, ih, h]

@[simp] theorem Core.restartWait_loc (c : Core) (ch now : Nat) : (c.restartWait ch now).loc = c.loc := rfl

@[simp] theorem Core.retire_loc (c : Core) (b : Bool) (n : Next) : (c.retire b n).loc = c.loc := by
  cases n <;> cases b <;> rfl

@[simp] theorem Core.noteWait_loc (c : Core) (b : Bool) (now : Nat) (val : Word) (timed fresh : Bool) :
    (c.noteWait b now val timed fresh).loc = c.loc := by cases b <;> rfl

@[simp] theorem Core.raiseFlags_loc (c : Core) (f : BitVec 7) : (c.raiseFlags f).loc = c.loc := by
  unfold Core.raiseFlags; split <;> rfl

@[simp] theorem Core.consume_loc (c : Core) (f : Flit) (n p : Nat) : (c.consume f n p).loc = c.loc := by
  unfold Core.consume; split <;> split <;> simp

@[simp] theorem Core.consumeNow_loc (c : Core) (f : Flit) (n p : Nat) : (c.consumeNow f n p).loc = c.loc := by
  unfold Core.consumeNow; split <;> split <;> rfl

@[simp] theorem Core.setQueue_loc (c : Core) (n : Nat) (fs : List Flit) : (c.setQueue n fs).loc = c.loc := rfl

@[simp] theorem Core.setPred_loc (c : Core) (n : Nat) (v : BitVec 8) : (c.setPred n v).loc = c.loc := by
  unfold Core.setPred; split <;> rfl

@[simp] theorem Core.setCsr_loc (c : Core) (a : Nat) (v : Word) : (c.setCsr a v).loc = c.loc := by
  unfold Core.setCsr
  split
  case h_24 => split <;> rfl
  all_goals rfl

@[simp] theorem Core.startTask_loc (c : Core) : c.startTask.loc = c.loc := by unfold Core.startTask; split <;> rfl

@[simp] theorem Core.appendTask_loc (c : Core) (t : Task) : (c.appendTask t).loc = c.loc := by
  unfold Core.appendTask; split <;> simp

@[simp] theorem Core.endTask_loc (c : Core) : c.endTask.loc = c.loc := by
  unfold Core.endTask
  split
  · rfl
  · simp only [Core.startTask_loc]
    repeat' split
    all_goals rfl

@[simp] theorem Core.haltRpt_loc (c : Core) : c.haltRpt.loc = c.loc := by unfold Core.haltRpt; split <;> rfl

@[simp] theorem Core.modTensor_loc (c : Core) (f : Tensor → Tensor) : (c.modTensor f).loc = c.loc := rfl

@[simp] theorem Core.discardSpec_loc (c : Core) (pc : BitVec 16) : (c.discardSpec pc).loc = c.loc := by
  unfold Core.discardSpec; split <;> rfl

@[simp] theorem Core.fire_loc (c : Core) (i : Nat) : (c.fire i).loc = c.loc := by simp [Core.fire]

@[simp] theorem Core.bindMessage_loc (c : Core) (k : Nat) (rest : List Nat) : (c.bindMessage k rest).loc = c.loc := by
  simp [Core.bindMessage]

@[simp] theorem Core.setChan_loc (c : Core) (ch : Nat) (k : Chan) : (c.setChan ch k).loc = c.loc := rfl

@[simp] theorem Core.learn_loc (c : Core) (pc : BitVec 16) (taken : Bool) : (c.learn pc taken).loc = c.loc := rfl

@[simp] theorem Core.setSlot_loc (c : Core) (n : Nat) (v : Slot) : (c.setSlot n v).loc = c.loc := rfl

@[simp] theorem Core.tensorStep_loc (c : Core) (w : Word) (i : Nat) (a : ABlock) : (c.tensorStep w i a).loc = c.loc :=
  foldl_loc (fun _ _ => by simp) _ _

@[simp] theorem Core.gangStepped_loc (c : Core) (i : Nat) : (c.gangStepped i).loc = c.loc := by
  unfold Core.gangStepped; split <;> rfl

@[simp] theorem Core.gangDone_loc (c : Core) : c.gangDone.loc = c.loc := by simp [Core.gangDone]

@[simp] theorem Core.streamFlit_loc (c : Core) (f : Flit) (rest : List Flit) : (c.streamFlit f rest).loc = c.loc := by
  unfold Core.streamFlit
  dsimp only
  split <;> simp

@[simp] theorem Core.pushStream_loc (c : Core) (n : Nat) : (c.pushStream n).loc = c.loc := rfl

@[simp] theorem Core.withConfig_loc (c : Core) (i : Image) (role : Nat) : (c.withConfig i role).loc = c.loc := rfl

@[simp] theorem Core.blank_loc (c : Core) : c.blank.loc = c.loc := rfl

@[simp] theorem bindSlots_loc (s : State) (lid : Nat) (first : Bool) (c : Core) : (bindSlots s lid first c).loc = c.loc := by
  unfold bindSlots
  refine foldl_loc (fun c p => foldl_loc (fun c e => ?_) _ _) _ _
  split <;> simp

@[simp] theorem Core.restore_loc (saved now : Core) (lpg : Nat) : (saved.restore now lpg).loc = saved.loc := rfl

@[simp] theorem Core.countEcc_loc (c : Core) (now : Nat) : (c.countEcc now).loc = c.loc := rfl

@[simp] theorem Core.stopWork_loc (c : Core) : c.stopWork.loc = c.loc := by simp [Core.stopWork]

/-! ## Operations that keep the canonical form of LOC -/

theorem foldl_loc_wf {α : Type} {f : Core → α → Core} (hf : ∀ c a, Memory.wf c.loc = true → Memory.wf (f c a).loc = true)
    {c : Core} (h : Memory.wf c.loc = true) (xs : List α) : Memory.wf (xs.foldl f c).loc = true := by
  induction xs generalizing c with
  | nil => exact h
  | cons x xs ih => exact ih (hf c x h)

theorem Core.reset_loc_wf : Memory.wf Core.reset.loc = true := rfl

theorem Core.bufferFlit_wf {c : Core} (n : Nat) (b : CbCtx) (f : Flit) (h : Memory.wf c.loc = true) :
    Memory.wf (c.bufferFlit n b f).loc = true := writeLoc_wf c _ _ h

theorem Core.withCode_wf {c : Core} (i : Image) (cls : Nat) (h : Memory.wf c.loc = true) :
    Memory.wf (c.withCode i cls).loc = true :=
  foldl_loc_wf (fun _ _ h => writeLoc_wf _ _ _ h) (writeLoc_wf _ _ _ h) _

theorem Core.loaded_wf {c : Core} (i : Image) (role id lpg : Nat) (h : Memory.wf c.loc = true) :
    Memory.wf (c.loaded i role id lpg).loc = true :=
  Core.withCode_wf (c := c.blank.withConfig i role) i _ h

theorem Core.stepped_wf {c : Core} (i : Image) (role : Nat) (h : Memory.wf c.loc = true) :
    Memory.wf (c.stepped i role).loc = true :=
  Core.withCode_wf (c := c.withConfig i role) i _ h

/-- LOC is restored whole from a save area. -/
theorem Core.withStores_wf (c : Core) (b : List Byte) : Memory.wf (c.withStores b).loc = true := memoryOf_wf _

end Sys2Proof.Machine
end

section
/-! PROOFS. The canonical form of the memories (04 R125, R136): what the updates of the state that every meaning shares leave of it. -/

namespace Sys2Proof.Machine

open Sys2Proof

/-! ## The memories of a state -/

namespace State.MemOk

variable {s : State}

theorem ext (h : s.MemOk) : Memory.wf s.ext = true := h.1

theorem hostMem (h : s.MemOk) : Memory.wf s.hostMem = true := h.2.1

theorem core (h : s.MemOk) (lid : Nat) : Memory.wf (s.core lid).loc = true := h.2.2.1 lid

theorem me (h : s.MemOk) : Memory.wf s.me.loc = true := h.core s.cur

end State.MemOk

/-- The cores that a region saved have LOC in canonical form. -/
def Region.SavedOk (r : Region) : Prop := ∀ p ∈ r.saved, Memory.wf p.2.loc = true

theorem Table.mem_of_find {α : Type} {t : Table α} {k : Nat} {v : α} (h : Table.find t k = some v) : (k, v) ∈ t := by
  induction t with
  | nil => contradiction
  | cons e t ih =>
    simp only [Table.find] at h
    split at h
    · next hk => cases h; rw [hk]; exact List.mem_cons_self
    · split at h
      · contradiction
      · exact List.mem_cons_of_mem _ (ih h)

theorem Table.mem_put {α : Type} {t : Table α} {k : Nat} {v : α} {e : Nat × α} (h : e ∈ Table.put k v t) :
    e = (k, v) ∨ e ∈ t := by
  induction t with
  | nil => exact .inl (List.mem_singleton.mp h)
  | cons x t ih =>
    by_cases h1 : k < x.1
    · simpa [Table.put, h1] using h
    · by_cases h2 : k = x.1
      · rw [Table.put_eq v t h2] at h
        exact (List.mem_cons.mp h).imp_right (List.mem_cons_of_mem _)
      · rw [Table.put_gt v t h1 h2] at h
        rcases List.mem_cons.mp h with rfl | h
        · exact .inr List.mem_cons_self
        · exact (ih h).imp_right (List.mem_cons_of_mem _)

theorem Region.SavedOk.find {r : Region} {role : Nat} {c : Core} (h : r.SavedOk) (e : Table.find r.saved role = some c) :
    Memory.wf c.loc = true := h _ (Table.mem_of_find e)

theorem Region.savedOk_nil {r : Region} (h : r.saved = []) : r.SavedOk := fun p hp => by simp [h] at hp

theorem State.MemOk.saved {s : State} {r : Region} (h : s.MemOk) (hr : r ∈ s.regions) : r.SavedOk := h.2.2.2 r hr

theorem State.MemOk.find?_savedOk {s : State} {p : Region → Bool} {r : Region} (h : s.MemOk) (e : s.regions.find? p = some r) :
    r.SavedOk := h.saved (List.mem_of_find?_eq_some e)

theorem State.MemOk.regionOf_savedOk {s : State} {lid : Nat} {r : Region} (h : s.MemOk) (e : s.regionOf lid = some r) :
    r.SavedOk := h.find?_savedOk e

/-! ## Parts replaced -/

namespace State.MemOk

variable {s t : State}

/-- Memories depend on four parts of the state alone. -/
theorem congr (h : s.MemOk) (hext : t.ext = s.ext) (hhost : t.hostMem = s.hostMem) (hcores : t.cores = s.cores)
    (hregions : t.regions = s.regions) : t.MemOk := by
  unfold State.MemOk State.core
  rw [hext, hhost, hcores, hregions]
  exact h

theorem setCore (h : s.MemOk) {lid : Nat} {c : Core} (hc : Memory.wf c.loc = true) : (s.setCore lid c).MemOk := by
  refine ⟨h.ext, h.hostMem, fun k => ?_, fun r hr => h.saved hr⟩
  by_cases hk : k = lid
  · rw [hk, core_setCore_self]; exact hc
  · rw [core_setCore_ne _ hk]; exact h.core k

theorem setMe (h : s.MemOk) {c : Core} (hc : Memory.wf c.loc = true) : (s.setMe c).MemOk := h.setCore hc

theorem setCluster (h : s.MemOk) (cl : Nat) (e : Cluster) : (s.setCluster cl e).MemOk := h

theorem setBrim (h : s.MemOk) (p : Nat) (b : Brim) : (s.setBrim p b).MemOk := h

theorem setPort (h : s.MemOk) (p : Nat) (k : LinkPort) : (s.setPort p k).MemOk := h

theorem setQueue (h : s.MemOk) (q : Nat) (k : Queue) : (s.setQueue q k).MemOk := h

theorem dropMigs (h : s.MemOk) (lids : List Nat) : (s.dropMigs lids).MemOk := h

theorem withRegions (h : s.MemOk) {rs : List Region} (hr : ∀ r ∈ rs, r.SavedOk) : { s with regions := rs }.MemOk :=
  ⟨h.ext, h.hostMem, h.core, hr⟩

theorem mapRegions (h : s.MemOk) {f : Region → Region} (hf : ∀ r, r.SavedOk → (f r).SavedOk) :
    { s with regions := s.regions.map f }.MemOk :=
  h.withRegions fun r hr => by
    obtain ⟨r', hr', rfl⟩ := List.mem_map.mp hr
    exact hf r' (h.saved hr')

theorem setRegion (h : s.MemOk) {r : Region} (hr : r.SavedOk) : (s.setRegion r).MemOk :=
  h.mapRegions fun r' hr' => by split <;> assumption

theorem writeExt (h : s.MemOk) (ds : List Nat) (bytes : List Byte) : (s.writeExt ds bytes).MemOk :=
  ⟨writeDevices_wf _ _ _ h.ext, h.hostMem, h.core, fun _ hr => h.saved hr⟩

theorem withGroups (h : s.MemOk) (gs : Table Group) : { s with groups := gs }.MemOk := h

theorem withHostMem (h : s.MemOk) (a : Nat) (bytes : List Byte) : { s with hostMem := writeCells s.hostMem a bytes }.MemOk :=
  ⟨h.ext, writeCells_wf _ _ _ h.hostMem, h.core, fun _ hr => h.saved hr⟩

theorem foldl {α : Type} {f : State → α → State} (hf : ∀ s a, s.MemOk → (f s a).MemOk) (h : s.MemOk) (xs : List α) :
    (xs.foldl f s).MemOk := by
  induction xs generalizing s with
  | nil => exact h
  | cons x xs ih => exact ih (hf s x h)

end State.MemOk

/-! ## Updates that may fail -/

/-- Whatever state an update answers has its memories in canonical form. -/
def SomeOk (o : Option State) : Prop := ∀ t, o = some t → t.MemOk

namespace SomeOk

theorem some {s : State} (h : s.MemOk) : SomeOk (some s) := fun _ e => by cases e; exact h

theorem none : SomeOk none := nofun

theorem bind {α : Type} {o : Option α} {f : α → Option State} (hf : ∀ a, o = Option.some a → SomeOk (f a)) :
    SomeOk (o >>= f) := by
  cases o with
  | none => exact .none
  | some a => exact hf a rfl

theorem andThen {o : Option State} {f : State → Option State} (ho : SomeOk o) (hf : ∀ s, s.MemOk → SomeOk (f s)) :
    SomeOk (o >>= f) := .bind fun s e => hf s (ho s e)

theorem getD {o : Option State} {s : State} (ho : SomeOk o) (h : s.MemOk) : (o.getD s).MemOk := by
  cases o with
  | none => exact h
  | some t => exact ho t rfl

end SomeOk

/-! ## External memory (07 R226-R247) -/

namespace State.MemOk

variable {s t : State}

theorem extWrite (h : s.MemOk) (pa : Nat) (bytes : List Byte) : SomeOk (extWrite s pa bytes) := by
  unfold Machine.extWrite
  split
  · exact .some (h.writeExt _ _)
  · exact .none

theorem vaWrite (h : s.MemOk) (root va : Nat) (bytes : List Byte) : SomeOk (vaWrite s root va bytes) := by
  unfold Machine.vaWrite
  split
  · exact .none
  · split
    · exact h.extWrite _ _
    · exact .none

theorem scalarXlate (h : s.MemOk) (eng job root va : Nat) (write : Bool) : (scalarXlate s eng job root va write).2.MemOk := by
  unfold Machine.scalarXlate
  dsimp only
  repeat' split
  all_goals exact h

/-! ## Records, faults and traps (05 R173, R176; 08 R287; 14 R422, R424) -/

theorem restartWaits (h : s.MemOk) (s0 : State) : (restartWaits s0 s).MemOk := by
  unfold Machine.restartWaits
  refine h.foldl (fun s p h => ?_) _
  dsimp only
  split
  · exact h.foldl (fun s l h => h.setCore (by simpa using h.core l)) _
  · exact h

theorem post (h : s.MemOk) (q : Nat) (words : List Word) (ready : RecWhen) : (s.post q words ready).MemOk := h

theorem reach (h : s.MemOk) (id : Nat) (goals : List RecGoal) (froze : Bool) : (s.reach id goals froze).MemOk := h

theorem raise (h : s.MemOk) (v : Nat) : (s.raise v).MemOk := by
  unfold State.raise; split <;> exact h

theorem ringAppend (h : s.MemOk) (root : Nat) (n : Node) (record : List Word) : SomeOk (ringAppend s root n record) := by
  unfold Machine.ringAppend
  refine .bind fun tailB _ => .bind fun headB _ => ?_
  dsimp only
  split
  · exact .none
  · exact (h.vaWrite _ _ _).andThen fun s h => (h.vaWrite _ _ _).andThen fun s h => .some (h.raise _)

theorem ringDrop (h : s.MemOk) (root : Nat) (n : Node) : (ringDrop s root n).MemOk := by
  unfold Machine.ringDrop
  split
  · exact h
  · exact (h.vaWrite _ _ _).getD h

theorem reportFault (h : s.MemOk) (r : Region) (record : List Word) : (reportFault s r record).MemOk := by
  unfold Machine.reportFault
  split
  · exact h
  · next j _ =>
    dsimp only
    split
    · exact h.post _ _ _
    · next n _ =>
      split
      · next t e => exact h.ringAppend _ _ _ t e
      · exact (h.ringDrop j.ptroot n).post _ _ _

theorem completeFreeze (h : s.MemOk) {r : Region} (hr : r.SavedOk) : (completeFreeze s r).MemOk := by
  unfold Machine.completeFreeze
  split
  · exact h
  · exact (((h.setRegion (by exact hr)).dropMigs _).reach _ _ _).reportFault _ _

theorem gatherFault (h : s.MemOk) {r : Region} (hr : r.SavedOk) (lid : Nat) (f : FaultInfo) : (gatherFault s r lid f).MemOk := by
  unfold Machine.gatherFault
  dsimp only
  split
  · split
    · exact h
    · exact h.setRegion hr
  · split
    · exact h
    · exact h.setRegion hr
  · exact h

theorem freezeRegion (h : s.MemOk) {r : Region} (hr : r.SavedOk) (lid : Nat) (f : FaultInfo) :
    (freezeRegion s r lid f).MemOk := by
  unfold Machine.freezeRegion
  split
  · exact h.gatherFault hr lid f
  · exact h

theorem freezeAt (h : s.MemOk) (lid : Nat) (f : FaultInfo) : (freezeAt s lid f).MemOk := by
  unfold Machine.freezeAt
  split
  · next r e =>
    have h' := h.gatherFault (h.regionOf_savedOk e) lid f
    exact h'.setCore (h'.core lid)
  · exact h.setCore (h.core lid)

theorem withdrawRequests (h : s.MemOk) (lid : Nat) : (s.withdrawRequests lid).MemOk := by
  unfold State.withdrawRequests
  extract_lets
  split <;> exact h

theorem leaveScalar (h : s.MemOk) (lid : Nat) (pc : BitVec 16) : (s.leaveScalar lid pc).MemOk := by
  unfold State.leaveScalar
  dsimp only
  split
  · exact (h.withdrawRequests lid).setCore (h.core lid)
  · exact h

theorem takeTrap (h : s.MemOk) (lid : Nat) (t : TrapInfo) (pc : BitVec 16) (spec : Bool) (word : Word) :
    (takeTrap s lid t pc spec word).MemOk := by
  unfold Machine.takeTrap
  dsimp only
  split
  · exact h.freezeAt _ _
  · have h' := h.leaveScalar lid pc
    exact h'.setCore (h'.core lid)

theorem deliverTrap (h : s.MemOk) (t : TrapInfo) (pc : BitVec 16) (word : Word) : (deliverTrap s t pc word).MemOk := by
  unfold Machine.deliverTrap
  dsimp only
  split
  · exact h.setMe (by simpa using h.me)
  · exact h.takeTrap _ _ _ _ _

theorem markIssued (h : s.MemOk) : s.markIssued.MemOk := by
  unfold State.markIssued
  split <;> exact h.setMe h.me

theorem beginStall (h : s.MemOk) (cause : BitVec 8) (va : Nat) (write : Bool) (val word : Word) :
    (beginStall s cause va write val word).MemOk := by
  have hwait (w : Wait) (stalls : List ScalarStall) :
      { s.setMe (if s.inRpt then { s.me with rptWait := some w } else { s.me with wait := some w })
        with scalarStalls := stalls }.MemOk := by
    split <;> exact (h.setMe (by exact h.me)).congr rfl rfl rfl rfl
  unfold Machine.beginStall
  dsimp only
  split
  · exact h
  · split
    · exact hwait _ _
    · exact (hwait _ _).reportFault _ _

theorem askTurn (h : s.MemOk) (lid : Nat) (r : AtomReq) : (s.askTurn lid r).MemOk := by
  unfold State.askTurn
  dsimp only
  split <;> exact h

end State.MemOk

/-! ## Outcomes -/

/-- Whatever state an outcome goes on to has its memories in canonical form. -/
def NextOk (o : Host.Outcome State Fault Refusal) : Prop := ∀ t, o = .next t → t.MemOk

theorem NextOk.next {s : State} (h : s.MemOk) : NextOk (.next s) := fun _ e => by cases e; exact h

theorem NextOk.fault (f : Fault) : NextOk (.fault f) := nofun

/-! ## Computations -/

/-- A computation that ends, or stops, with the memories in canonical form where it begins so. -/
def Keeps {α : Type} (m : Op α) : Prop :=
  ∀ s : State, s.MemOk → match m s with
    | .ok _ t => t.MemOk
    | .error _ t => t.MemOk

namespace Keeps

variable {α β : Type}

theorem pure (a : α) : Keeps (Pure.pure a : Op α) := fun _ h => h

theorem throw (e : Stop) : Keeps (MonadExcept.throw e : Op α) := fun _ h => h

theorem trapWith (code : BitVec 8) (val : Word) : Keeps (Machine.trapWith code val : Op α) := fun _ h => h

theorem bind {m : Op α} {f : α → Op β} (hm : Keeps m) (hf : ∀ a, Keeps (f a)) : Keeps (m >>= f) := by
  intro s h
  have hs := hm s h
  show match EStateM.bind m f s with
    | .ok _ t => t.MemOk
    | .error _ t => t.MemOk
  unfold EStateM.bind
  cases e : m s with
  | ok a t => rw [e] at hs; exact hf a t hs
  | error x t => rw [e] at hs; exact hs

theorem ite {c : Prop} [Decidable c] {m n : Op α} (hm : c → Keeps m) (hn : ¬c → Keeps n) : Keeps (if c then m else n) := by
  split
  · exact hm ‹_›
  · exact hn ‹_›

theorem get {f : State → Op β} (hf : ∀ s : State, s.MemOk → Keeps (f s)) : Keeps (MonadState.get >>= f) :=
  fun s h => hf s h s h

theorem getMe {f : Core → Op β} (hf : ∀ c : Core, Memory.wf c.loc = true → Keeps (f c)) : Keeps (Machine.getMe >>= f) :=
  fun s h => hf s.me h.me s h

theorem set {s : State} (h : s.MemOk) : Keeps (MonadStateOf.set s : Op PUnit) := fun _ _ => h

theorem modifyState {f : State → State} (hf : ∀ s : State, s.MemOk → (f s).MemOk) : Keeps (modify f : Op PUnit) :=
  fun s h => hf s h

theorem modMe {f : Core → Core} (hf : ∀ c : Core, Memory.wf c.loc = true → Memory.wf (f c).loc = true) :
    Keeps (Machine.modMe f) := fun _ h => h.setMe (hf _ h.me)

theorem forIn {xs : List α} {b : β} {f : α → β → Op (ForInStep β)} (hf : ∀ a b, Keeps (f a b)) :
    Keeps (ForIn.forIn xs b f) := by
  induction xs generalizing b with
  | nil => exact .pure b
  | cons x xs ih =>
    rw [List.forIn_cons]
    refine (hf x b).bind fun r => ?_
    cases r with
    | done b => exact .pure b
    | yield b => exact ih

theorem waitUnless (ok : Bool) (val : Word) : Keeps (Machine.waitUnless ok val) := by
  unfold Machine.waitUnless
  split
  · exact .pure _
  · exact .throw _

theorem setProgress (n : Nat) : Keeps (Machine.setProgress n) := by
  unfold Machine.setProgress
  refine .get fun s _ => ?_
  split <;> exact .modMe fun _ h => h

end Keeps

/-- Nothing comes after a stop. -/
@[simp] theorem throw_bind {α β : Type} (e : Stop) (f : α → Op β) :
    ((MonadExcept.throw e : Op α) >>= f) = MonadExcept.throw e := rfl

@[simp] theorem trapWith_bind {α β : Type} (code : BitVec 8) (val : Word) (f : α → Op β) :
    ((trapWith code val : Op α) >>= f) = trapWith code val := rfl

/-! ## One instruction (03 R103; 05 R169, R176) -/

theorem Keeps.checks (w : Word) : Keeps (checks w) := by
  unfold Machine.checks
  simp only [throw_bind, trapWith_bind]
  grind [Keeps.get, Keeps.pure, Keeps.throw, Keeps.trapWith]

theorem Keeps.stalls (i : Instr) (w : Word) : Keeps (stalls i w) := by
  unfold Machine.stalls
  simp only [throw_bind]
  grind [Keeps.get, Keeps.pure, Keeps.throw]

theorem nextOk_finish {s : State} (h : s.MemOk) (word : Word) {m : Op Next} {t : State} (hm : Keeps m) (ht : t.MemOk) :
    NextOk (finish s word (m t)) := by
  have hmt := hm t ht
  cases e : m t with
  | ok n u =>
    rw [e] at hmt
    exact .next (hmt.setMe (by simpa using hmt.me))
  | error x u =>
    rw [e] at hmt
    cases x with
    | trap i =>
      refine .next ?_
      split
      · exact h
      · exact hmt.deliverTrap _ _ _
    | trapAt i pc =>
      refine .next ?_
      split
      · exact h
      · exact hmt.deliverTrap _ _ _
    | wait val => exact .next (h.setMe (by simpa using h.me))
    | pipe => exact .next h
    | hold val => exact .next (hmt.markIssued.setMe (by simpa using hmt.markIssued.me))
    | keep => exact .next hmt.markIssued
    | page cause va write val => exact .next ((h.congr rfl rfl rfl rfl : { s with brims := u.brims }.MemOk).beginStall _ _ _ _ _)
    | turn home a => exact .next (h.askTurn _ _)

/-- An instruction whose body keeps the memories in canonical form keeps them so, however it ends. -/
theorem Keeps.issue {body : Op Next} (hb : Keeps body) (i : Instr) {s : State} (h : s.MemOk) : NextOk (issue i body s) := by
  unfold Machine.issue
  split
  · exact .fault _
  · have hc := Keeps.checks (i.word?.getD 0) s h
    dsimp only
    split
    · exact nextOk_finish h.markIssued _ ((Keeps.stalls i _).bind fun _ => hb) h
    · next u e =>
      exact nextOk_finish h _ (Keeps.pure Next.seq) (by rw [EStateM.run] at e; rw [e] at hc; exact hc)
    · next x u e =>
      exact nextOk_finish h _ (Keeps.throw x) (by rw [EStateM.run] at e; rw [e] at hc; exact hc)

theorem Keeps.issueSeq {body : Op Unit} (hb : Keeps body) (i : Instr) {s : State} (h : s.MemOk) : NextOk (issueSeq i body s) :=
  (hb.bind fun _ => .pure Next.seq).issue i h

end Sys2Proof.Machine
end

section
/-! PROOFS. The canonical form of the memories through the operations that instructions share: accesses to LOC, CLU and EXT, operand
fields, and the shapes of the integer, floating-point and lane instructions. -/

namespace Sys2Proof.Machine

open Sys2Proof

/-- The rules for a computation's parts, as one fact that a proof hands to automation. -/
theorem keeps_rules :
    (∀ (α : Type) (a : α), Keeps (Pure.pure a : Op α))
    ∧ (∀ (α : Type) (e : Stop), Keeps (MonadExcept.throw e : Op α))
    ∧ (∀ (α : Type) (code : BitVec 8) (val : Word), Keeps (trapWith code val : Op α))
    ∧ (∀ (α β : Type) (m : Op α) (f : α → Op β), Keeps m → (∀ a, Keeps (f a)) → Keeps (m >>= f))
    ∧ (∀ (β : Type) (f : State → Op β), (∀ s : State, s.MemOk → Keeps (f s)) → Keeps (MonadState.get >>= f))
    ∧ (∀ (β : Type) (f : Core → Op β), (∀ c : Core, Memory.wf c.loc = true → Keeps (f c)) → Keeps (getMe >>= f))
    ∧ (∀ f : Core → Core, (∀ c : Core, Memory.wf c.loc = true → Memory.wf (f c).loc = true) → Keeps (modMe f))
    ∧ (∀ s : State, s.MemOk → Keeps (MonadStateOf.set s : Op PUnit))
    ∧ (∀ n : Nat, Keeps (setProgress n))
    ∧ ∀ (ok : Bool) (val : Word), Keeps (waitUnless ok val) :=
  ⟨fun _ => .pure, fun _ => .throw, fun _ => .trapWith, fun _ _ _ _ => .bind, fun _ _ => .get, fun _ _ => .getMe, fun _ => .modMe,
    fun _ => .set, .setProgress, .waitUnless⟩

theorem Keeps.mapM {α β : Type} {f : α → Op β} (hf : ∀ a, Keeps (f a)) (xs : List α) : Keeps (xs.mapM f) := by
  induction xs with
  | nil => exact .pure []
  | cons x xs ih =>
    rw [List.mapM_cons]
    exact (hf x).bind fun _ => ih.bind fun _ => .pure _

/-! ## Accesses (04 R124-R142; 07 R233-R242; 12 R385) -/

theorem State.MemOk.plainAccess {s : State} (h : s.MemOk) (lid home a : Nat) : SomeOk (s.plainAccess lid home a) := by
  unfold State.plainAccess
  dsimp only
  split
  · exact .some h
  · split
    · exact .some (h.setCluster _ _)
    · exact .none

theorem Keeps.homeLoad (lid a n : Nat) (val : Word) : Keeps (homeLoad lid a n val) := by
  have := keeps_rules
  unfold Machine.homeLoad
  grind [State.MemOk.plainAccess, SomeOk]

theorem Keeps.bankGate (a : Nat) : Keeps (bankGate a) := .getMe fun _ _ => .waitUnless _ _

theorem Keeps.locLoad (a n : Nat) (val : Word) : Keeps (locLoad a n val) := by
  have := keeps_rules
  unfold Machine.locLoad
  grind [Keeps.bankGate, Keeps.homeLoad]

theorem Keeps.pushSb (e : SbEntry) : Keeps (pushSb e) := by
  have := keeps_rules
  unfold Machine.pushSb
  grind

theorem Keeps.locStore (a : Nat) (bytes : List Byte) : Keeps (locStore a bytes) := by
  have := keeps_rules
  unfold Machine.locStore
  grind [Keeps.bankGate, Keeps.pushSb]

theorem Keeps.extXlate (va : Int) (write : Bool) (val : Word) : Keeps (extXlate va write val) := by
  have := keeps_rules
  unfold Machine.extXlate
  grind [State.MemOk.scalarXlate]

theorem Keeps.extLoad (va : Int) (n : Nat) (val : Word) : Keeps (extLoad va n val) := by
  have := keeps_rules
  unfold Machine.extLoad
  grind [Keeps.extXlate]

theorem Keeps.extStore (va : Int) (bytes : List Byte) (val : Word) : Keeps (extStore va bytes val) := by
  have := keeps_rules
  unfold Machine.extStore
  grind [Keeps.extXlate, State.MemOk.extWrite, SomeOk]

theorem Keeps.checkAlign (ea : Int) (n : Nat) : Keeps (checkAlign ea n) := by
  have := keeps_rules
  unfold Machine.checkAlign
  grind

theorem Keeps.resolveLoc (ea : Int) : Keeps (resolveLoc ea) := by
  have := keeps_rules
  unfold Machine.resolveLoc
  grind

theorem Keeps.loadAt (t : Target) (n : Nat) (val : Word) : Keeps (loadAt t n val) := by
  cases t with
  | loc a => exact .locLoad a n val
  | ext va => exact .extLoad va n val

theorem Keeps.storeAt (t : Target) (bytes : List Byte) (val : Word) : Keeps (storeAt t bytes val) := by
  cases t with
  | loc a => exact .locStore a bytes
  | ext va => exact .extStore va bytes val

theorem Keeps.ldlAt (ea : Int) (n : Nat) : Keeps (ldlAt ea n) :=
  (Keeps.checkAlign ea n).bind fun _ => (Keeps.resolveLoc ea).bind fun t => .loadAt t n _

theorem Keeps.stlAt (ea : Int) (bytes : List Byte) : Keeps (stlAt ea bytes) :=
  (Keeps.checkAlign ea _).bind fun _ => (Keeps.resolveLoc ea).bind fun t => .storeAt t bytes _

theorem Keeps.resolveClu (ea : Int) (spread : Bool) : Keeps (resolveClu ea spread) := by
  have := keeps_rules
  unfold Machine.resolveClu
  grind

theorem Keeps.discardFetched : Keeps discardFetched := .modMe fun _ h => h

theorem Keeps.releaseAt (scope : Nat) : Keeps (releaseAt scope) := .get fun _ _ => (Keeps.waitUnless _ _).bind fun _ => .discardFetched

theorem Keeps.acquire : Keeps acquire := .discardFetched

/-! ## Operand fields (03 R83-R90; 05 R153, R154; 06 R202, R203) -/

theorem Keeps.raise (f : BitVec 7) : Keeps (raise f) := .modMe fun c h => by simpa using h

theorem Keeps.headOf (n : Nat) : Keeps (headOf n) := by
  have := keeps_rules
  unfold Machine.headOf
  grind

theorem Keeps.checkData (f : Flit) (n : Nat) : Keeps (checkData f n) := by
  have := keeps_rules
  unfold Machine.checkData
  grind

theorem Keeps.checkFmt (f : Flit) (n : Nat) (accepts : Nat → Bool) : Keeps (checkFmt f n accepts) := by
  have := keeps_rules
  unfold Machine.checkFmt
  grind

theorem Keeps.popHead (n path : Nat) : Keeps (popHead n path) := by
  refine .modMe fun c h => ?_
  split
  · simpa using h
  · exact h

theorem Keeps.popScalar (n : Nat) : Keeps (popScalar n) := by
  have := keeps_rules
  unfold Machine.popScalar
  grind [Keeps.headOf, Keeps.popHead]

theorem Keeps.readS (r : BitVec 5) : Keeps (readS r) := by
  have := keeps_rules
  unfold Machine.readS
  grind [Keeps.popScalar]

theorem Keeps.checkTag (tag : Nat) : Keeps (checkTag tag) := by
  have := keeps_rules
  unfold Machine.checkTag
  grind

theorem Keeps.waitRoom (n : Nat) : Keeps (waitRoom n) := .getMe fun _ _ => .waitUnless _ _

theorem Keeps.pushFlits (fs : List Flit) : Keeps (pushFlits fs) := .modMe fun _ h => h

theorem Keeps.pushScalar (n : Nat) (v : Word) : Keeps (pushScalar n v) :=
  .getMe fun _ _ => (Keeps.checkTag _).bind fun _ => (Keeps.waitRoom 1).bind fun _ => .pushFlits _

theorem Keeps.writeS (r : BitVec 5) (v : Word) : Keeps (writeS r v) := by
  unfold Machine.writeS
  split
  · exact .modMe fun c h => by simpa using h
  · exact .pushScalar _ _

theorem Keeps.destReady (r : BitVec 5) (n : Nat) : Keeps (destReady r n) := by
  have := keeps_rules
  unfold Machine.destReady
  grind [Keeps.checkTag, Keeps.waitRoom]

theorem Keeps.readBase (r : BitVec 5) : Keeps (readBase r) := .getMe fun _ _ => .pure _

theorem Keeps.popVector (n : Nat) (bx : Bool) : Keeps (popVector n bx) := by
  have := keeps_rules
  unfold Machine.popVector
  grind [Keeps.forIn, Keeps.checkData, Keeps.checkFmt, Keeps.popHead]

theorem Keeps.readV (r : BitVec 5) (bx : Bool) : Keeps (readV r bx) := by
  have := keeps_rules
  unfold Machine.readV
  grind [Keeps.popVector]

theorem Keeps.pushVector (n : Nat) (v : Vec) (tags : BitVec 72) (fmt : Option Nat) : Keeps (pushVector n v tags fmt) := by
  have := keeps_rules
  unfold Machine.pushVector
  grind [Keeps.forIn, Keeps.checkTag, Keeps.waitRoom, Keeps.pushFlits]

theorem Keeps.writeV (r : BitVec 5) (v : Vec) (tags : BitVec 72) (fmt : Option Nat) : Keeps (writeV r v tags fmt) := by
  unfold Machine.writeV
  split
  · exact .modMe fun c h => h
  · exact .pushVector _ _ _ _

theorem Keeps.postUpdate (x : FormM) : Keeps (postUpdate x) := by
  unfold Machine.postUpdate
  split
  · exact .modMe fun c h => by simpa using h
  · exact .pure _

/-! ## Shapes of the integer instructions (05 R181-R184) -/

section

variable {s : State} (h : s.MemOk) (i : Instr)

include h

theorem nextOk_binary (x : FormS3) (f : Word → Word → Word) : NextOk (binary i x f s) :=
  ((Keeps.readS _).bind fun _ => (Keeps.readS _).bind fun _ => .writeS _ _).issueSeq i h

theorem nextOk_unary (x : FormS3) (f : Word → Word) : NextOk (unary i x f s) :=
  ((Keeps.readS _).bind fun _ => .writeS _ _).issueSeq i h

theorem nextOk_immediate (x : FormSI) (f : Word → Word → Word) : NextOk (immediate i x f s) :=
  ((Keeps.readS _).bind fun _ => .writeS _ _).issueSeq i h

end

theorem Keeps.writeTruth (d : BitVec 5) (fd : BitVec 3) (v : Bool) : Keeps (writeTruth d fd v) :=
  (Keeps.writeS _ _).bind fun _ => .modMe fun c h => by simpa using h

theorem Keeps.fieldOf (x : FormS3) : Keeps (fieldOf x) := by
  have := keeps_rules
  unfold Machine.fieldOf
  grind [Keeps.readS]

/-! ## Shapes of the fops (05 R186) -/

theorem Keeps.fopWrite (d : BitVec 5) (r : FpRes) : Keeps (fopWrite d r) :=
  (Keeps.destReady _ _).bind fun _ => (Keeps.raise _).bind fun _ => .writeS _ _

section

variable {s : State} (h : s.MemOk) (i : Instr) (x : FormS3)

include h

theorem nextOk_fopUnary (g : FpFormat → BitVec 2 → Bool → FpVal → FpRes) : NextOk (fopUnary i x g s) :=
  ((Keeps.readS _).bind fun _ => .getMe fun _ _ => .fopWrite _ _).issueSeq i h

theorem nextOk_fopBinary (g : FpFormat → BitVec 2 → Bool → FpVal → FpVal → FpRes) : NextOk (fopBinary i x g s) :=
  ((Keeps.readS _).bind fun _ => (Keeps.readS _).bind fun _ => .getMe fun _ _ => .fopWrite _ _).issueSeq i h

theorem nextOk_fopInt (lo hi : Int) : NextOk (fopInt i x lo hi s) :=
  ((Keeps.readS _).bind fun _ => .getMe fun _ _ => (Keeps.destReady _ _).bind fun _ => (Keeps.raise _).bind fun _ =>
    .writeS _ _).issueSeq i h

theorem nextOk_fopFrom (g : Word → Int) : NextOk (fopFrom i x g s) :=
  ((Keeps.readS _).bind fun _ => .getMe fun _ _ => .fopWrite _ _).issueSeq i h

theorem nextOk_fopCompare (cc : Nat) : NextOk (fopCompare i x cc s) :=
  ((Keeps.readS _).bind fun _ => (Keeps.readS _).bind fun _ => .getMe fun _ _ => (Keeps.destReady _ _).bind fun _ =>
    (Keeps.raise _).bind fun _ => .writeTruth _ _ _).issueSeq i h

end

/-! ## Shapes of the lane instructions (06 R200-R224) -/

theorem Keeps.laneWrite (d : BitVec 5) (fmt : Nat) (r : Vec × BitVec 7) : Keeps (laneWrite d fmt r) :=
  (Keeps.destReady _ _).bind fun _ => (Keeps.raise _).bind fun _ => .writeV _ _ _ _

theorem Keeps.readIf (has : Bool) (r : BitVec 5) : Keeps (readIf has r) := by
  unfold Machine.readIf
  split
  · exact (Keeps.readV r false).bind fun _ => .pure _
  · exact .pure _

theorem Keeps.vectorParts (x : FormM) (strided : Bool) : Keeps (vectorParts x strided) := by
  have := keeps_rules
  unfold Machine.vectorParts
  grind [Keeps.readBase]

theorem Keeps.vectorTargets (base : Int) (eas : List Int) (n : Nat) : Keeps (vectorTargets base eas n) :=
  (Keeps.checkAlign _ _).bind fun _ => (Keeps.forIn fun _ _ => (Keeps.checkAlign _ _).bind fun _ => .pure _).bind fun _ =>
    .mapM (fun _ => (Keeps.resolveLoc _).bind fun _ => .pure _) _

theorem Keeps.checkStore (n : Nat) (p : Target × Word) : Keeps (checkStore n p) := by
  have := keeps_rules
  unfold Machine.checkStore
  grind [Keeps.extXlate]

section

variable {s : State} (h : s.MemOk) (i : Instr)

include h

theorem nextOk_laneOp (x : FormV) (n : Nat) (f : Core → Nat → Nat → Nat → Nat × BitVec 7) : NextOk (laneOp i x n f s) :=
  ((Keeps.readIf _ _).bind fun _ => (Keeps.readIf _ _).bind fun _ => (Keeps.readIf _ _).bind fun _ => .getMe fun _ _ =>
    .laneWrite _ _ _).issueSeq i h

theorem nextOk_laneShift (x : FormV) (f : Nat → Nat → Nat → Nat) : NextOk (laneShift i x f s) := nextOk_laneOp h i x _ _

theorem nextOk_laneReduce (x : FormV) (step : Core → Nat → Nat → FpRes) : NextOk (laneReduce i x step s) :=
  ((Keeps.readIf _ _).bind fun _ => .getMe fun _ _ => .laneWrite _ _ _).issueSeq i h

theorem nextOk_vectorLoad (x : FormM) (strided : Bool) : NextOk (vectorLoad i x strided s) := by
  refine Keeps.issueSeq ?_ i h
  have := keeps_rules
  grind [Keeps.vectorParts, Keeps.vectorTargets, Keeps.releaseAt, Keeps.mapM, Keeps.loadAt, Keeps.writeV, Keeps.acquire,
    Keeps.postUpdate]

theorem nextOk_vectorStore (x : FormM) (strided : Bool) : NextOk (vectorStore i x strided s) := by
  refine Keeps.issueSeq ?_ i h
  have := keeps_rules
  grind [Keeps.vectorParts, Keeps.readV, Keeps.vectorTargets, Keeps.releaseAt, Keeps.forIn, Keeps.checkStore, Keeps.storeAt,
    Keeps.postUpdate]

end

/-! ## The lane instructions of a shape of their own -/

section

variable {s : State} (h : s.MemOk) (x : FormV)

include h

theorem nextOk_execVdot4 : NextOk (execVdot4 x s) :=
  ((Keeps.readIf _ _).bind fun _ => (Keeps.readIf _ _).bind fun _ => (Keeps.readIf _ _).bind fun _ => .getMe fun _ _ =>
    .laneWrite _ _ _).issueSeq _ h

theorem nextOk_execVcmp : NextOk (execVcmp x s) := by
  refine Keeps.issueSeq ?_ _ h
  have := keeps_rules
  grind [Keeps.readIf, Keeps.raise, Core.setPred_loc, Core.setFlag_loc]

theorem nextOk_execVsel : NextOk (execVsel x s) := by
  refine Keeps.issueSeq ?_ _ h
  have := keeps_rules
  grind [Keeps.readV, Keeps.writeV]

theorem nextOk_execVplog : NextOk (execVplog x s) :=
  (Keeps.getMe fun _ _ => .modMe fun c h => by simpa using h).issueSeq _ h

theorem nextOk_execVpany : NextOk (execVpany x s) :=
  (Keeps.getMe fun _ _ => .modMe fun c h => by simpa using h).issueSeq _ h

theorem nextOk_execVpall : NextOk (execVpall x s) :=
  (Keeps.getMe fun _ _ => .modMe fun c h => by simpa using h).issueSeq _ h

theorem nextOk_execVpset : NextOk (execVpset x s) :=
  ((Keeps.readS _).bind fun _ => .modMe fun c h => by simpa using h).issueSeq _ h

theorem nextOk_execVbcast : NextOk (execVbcast x s) :=
  ((Keeps.readS _).bind fun _ => .getMe fun _ _ => .laneWrite _ _ _).issueSeq _ h

theorem nextOk_execVperm : NextOk (execVperm x s) :=
  ((Keeps.readIf _ _).bind fun _ => (Keeps.readIf _ _).bind fun _ => .getMe fun _ _ => .laneWrite _ _ _).issueSeq _ h

theorem nextOk_execVmovs : NextOk (execVmovs x s) := by
  refine Keeps.issueSeq ?_ _ h
  have := keeps_rules
  grind [Keeps.readV, Keeps.writeS]

theorem nextOk_execVins : NextOk (execVins x s) := by
  refine Keeps.issueSeq ?_ _ h
  have := keeps_rules
  grind [Keeps.readS, Core.setVreg_loc]

theorem nextOk_execVcvt : NextOk (execVcvt x s) :=
  ((Keeps.readIf _ _).bind fun _ => .getMe fun _ _ => .laneWrite _ _ _).issueSeq _ h

theorem nextOk_execVbxpack : NextOk (execVbxpack x s) := by
  refine Keeps.issueSeq ?_ _ h
  have := keeps_rules
  grind [Keeps.readIf, Keeps.raise, Core.setVreg_loc]

theorem nextOk_execVbxunpack : NextOk (execVbxunpack x s) := by
  refine Keeps.issueSeq ?_ _ h
  have := keeps_rules
  grind [Keeps.readV, Keeps.laneWrite]

end

end Sys2Proof.Machine
end

section
/-! PROOFS. The canonical form of the memories through frames, control registers, control transfers, the repeat buffer, tasks and
waits. -/

namespace Sys2Proof.Machine

open Sys2Proof

/-! ## Frames of the links (13 R399-R403) -/

namespace State.MemOk

variable {s : State}

theorem sendFrame (h : s.MemOk) (p ftype : Nat) (body : BitVec 448) : (sendFrame s p ftype body).MemOk := h

theorem setGeWords (h : s.MemOk) (job ge : Nat) (ws : List (Nat × Word)) : (s.setGeWords job ge ws).MemOk := h

theorem plainFrame (h : s.MemOk) (port : Nat) (fr : BitVec 512) : (s.plainFrame port fr).MemOk := by
  unfold State.plainFrame
  split <;> exact h

end State.MemOk

theorem nextOk_frameEvent {s : State} (h : s.MemOk) (port ftype : Nat) (fr : BitVec 512) {f : State → BitVec 448 → State}
    (hf : ∀ (s : State) (b : BitVec 448), s.MemOk → (f s b).MemOk) : NextOk (frameEvent port ftype fr s f) := by
  unfold frameEvent
  split
  · exact .fault _
  · split
    · exact .next (hf _ _ (h.setPort _ _))
    · exact .next h

theorem nextOk_execLinkCreditFrame {s : State} (h : s.MemOk) (port : Nat) (fr : BitVec 512) :
    NextOk (execLinkCreditFrame port fr s) := nextOk_frameEvent h _ _ _ fun _ _ h => h

theorem nextOk_execLinkFrameResend {s : State} (h : s.MemOk) (port : Nat) : NextOk (execLinkFrameResend port s) := by
  unfold execLinkFrameResend
  split
  · exact .fault _
  · dsimp only
    split
    · exact .next (h.setPort _ _)
    · exact .next h

/-! ## Control registers (05 R159, R189) -/

theorem nextOk_csrReadOp {s : State} (h : s.MemOk) (i : Instr) (x : FormS3) : NextOk (csrReadOp i x s) := by
  refine Keeps.issueSeq ?_ i h
  have := keeps_rules
  grind [Keeps.writeS]

theorem nextOk_csrWriteOp {s : State} (h : s.MemOk) (i : Instr) (x : FormS3) (f : Word → Word → Word) :
    NextOk (csrWriteOp i x f s) := by
  refine Keeps.issueSeq ?_ i h
  have := keeps_rules
  grind [Keeps.readS, Keeps.destReady, Core.setCsr_loc, Keeps.writeS]

theorem nextOk_execFpFlagsAccess {s : State} (h : s.MemOk) (write : Bool) (x : FormS3) : NextOk (execFpFlagsAccess write x s) := by
  unfold execFpFlagsAccess
  split
  · exact nextOk_csrWriteOp h _ _ _
  · exact nextOk_csrReadOp h _ _

theorem nextOk_execPredsAccess {s : State} (h : s.MemOk) (write : Bool) (x : FormS3) : NextOk (execPredsAccess write x s) := by
  unfold execPredsAccess
  split
  · exact nextOk_csrWriteOp h _ _ _
  · exact nextOk_csrReadOp h _ _

/-! ## Control transfers (05 R185) -/

theorem Keeps.waitBody : Keeps waitBody := by
  have := keeps_rules
  unfold Machine.waitBody
  grind

theorem Keeps.pushReturn (ra : BitVec 16) : Keeps (pushReturn ra) := by
  have := keeps_rules
  unfold Machine.pushReturn
  grind [Keeps.waitBody, Keeps.stlAt]

theorem Keeps.popReturn : Keeps popReturn := by
  have := keeps_rules
  unfold Machine.popReturn
  grind [Keeps.waitBody, Keeps.ldlAt]

theorem Keeps.checkTarget (a : Word) : Keeps (checkTarget a) := by
  have := keeps_rules
  unfold Machine.checkTarget
  grind

/-! ## Loads, stores and fences (05 R187, R188) -/

theorem Keeps.addressOf (x : FormM) (size : Nat) : Keeps (addressOf x size) :=
  (Keeps.readBase _).bind fun _ => (Keeps.readBase _).bind fun _ => .pure _

theorem Keeps.cluLoad (spread : Bool) (ea : Int) (n : Nat) : Keeps (cluLoad spread ea n) :=
  (Keeps.resolveClu _ _).bind fun _ => .homeLoad _ _ _ _

theorem Keeps.cluStore (spread : Bool) (ea : Int) (bytes : List Byte) : Keeps (cluStore spread ea bytes) :=
  (Keeps.resolveClu _ _).bind fun _ => .pushSb _

section

variable {s : State} (h : s.MemOk)

include h

theorem nextOk_loadOp (i : Instr) (x : FormM) {get : Int → Nat → Op (List Byte)} (hget : ∀ ea n, Keeps (get ea n)) :
    NextOk (loadOp i x get s) := by
  refine Keeps.issueSeq ?_ i h
  have := keeps_rules
  grind [Keeps.addressOf, Keeps.checkAlign, Keeps.releaseAt, Keeps.writeS, Keeps.acquire, Keeps.postUpdate]

theorem nextOk_storeOp (i : Instr) (x : FormM) {put : Int → List Byte → Op Unit} (hput : ∀ ea bytes, Keeps (put ea bytes)) :
    NextOk (storeOp i x put s) := by
  refine Keeps.issueSeq ?_ i h
  have := keeps_rules
  grind [Keeps.addressOf, Keeps.readS, Keeps.checkAlign, Keeps.releaseAt, Keeps.postUpdate]

theorem nextOk_execFence (x : FormM) : NextOk (execFence x s) :=
  (Keeps.get fun _ _ => (Keeps.waitUnless _ _).bind fun _ => .discardFetched).issueSeq _ h

theorem nextOk_execJmp (x : FormJ) : NextOk (execJmp x s) := (Keeps.getMe fun _ _ => .pure _).issue _ h

theorem nextOk_execCall (x : FormJ) : NextOk (execCall x s) :=
  (Keeps.getMe fun _ _ => (Keeps.pushReturn _).bind fun _ => .pure _).issue _ h

theorem nextOk_execJr (x : FormS3) : NextOk (execJr x s) :=
  ((Keeps.readS _).bind fun _ => (Keeps.checkTarget _).bind fun _ => .pure _).issue _ h

theorem nextOk_execCallr (x : FormS3) : NextOk (execCallr x s) :=
  ((Keeps.readS _).bind fun _ => (Keeps.checkTarget _).bind fun _ => .getMe fun _ _ => (Keeps.pushReturn _).bind fun _ =>
    .pure _).issue _ h

theorem nextOk_execRet (x : FormS3) : NextOk (execRet x s) := (Keeps.popReturn.bind fun _ => .pure _).issue _ h

theorem nextOk_execLi (x : FormLI) : NextOk (execLi x s) := (Keeps.writeS _ _).issueSeq _ h

theorem nextOk_execBext (x : FormS3) : NextOk (execBext x s) :=
  ((Keeps.readS _).bind fun _ => (Keeps.fieldOf _).bind fun _ => .writeS _ _).issueSeq _ h

theorem nextOk_execBins (x : FormS3) : NextOk (execBins x s) := by
  refine Keeps.issueSeq ?_ _ h
  have := keeps_rules
  grind [Keeps.readS, Keeps.fieldOf, Keeps.writeS]

theorem nextOk_execSel (x : FormS3) : NextOk (execSel x s) :=
  ((Keeps.readS _).bind fun _ => (Keeps.readS _).bind fun _ => .getMe fun _ _ => .writeS _ _).issueSeq _ h

theorem nextOk_execCmp (x : FormS3) : NextOk (execCmp x s) := by
  refine Keeps.issueSeq ?_ _ h
  have := keeps_rules
  grind [Keeps.readS, Keeps.writeTruth]

theorem nextOk_execCmpi (x : FormC) : NextOk (execCmpi x s) := by
  refine Keeps.issueSeq ?_ _ h
  have := keeps_rules
  grind [Keeps.readS, Keeps.writeTruth]

theorem nextOk_execFopFma (x : FormS3) : NextOk (execFopFma x s) :=
  ((Keeps.readS _).bind fun _ => (Keeps.readS _).bind fun _ => (Keeps.readS _).bind fun _ => .getMe fun _ _ =>
    .fopWrite _ _).issueSeq _ h

end

/-! ## The repeat buffer (05 R170-R173; 14 R445) -/

theorem Keeps.bodyWords (fetch : State → Nat → Nat → Word) (a n : Nat) : Keeps (bodyWords fetch a n) := by
  induction n generalizing a with
  | zero => exact .pure []
  | succ n ih =>
    have := keeps_rules
    unfold Machine.bodyWords
    grind

theorem Keeps.resumeRpt (skip : Bool) : Keeps (resumeRpt skip) := by
  have := keeps_rules
  unfold Machine.resumeRpt
  grind [Keeps.bodyWords]

theorem Keeps.trapReturn (skip : Bool) : Keeps (trapReturn skip) := by
  have := keeps_rules
  unfold Machine.trapReturn
  grind [Keeps.resumeRpt]

theorem State.MemOk.refillRpt {s : State} (h : s.MemOk) (lid : Nat) : (s.refillRpt lid).MemOk := by
  unfold State.refillRpt
  dsimp only
  split
  · split
    · exact h
    · split
      · exact h.setCore (h.core lid)
      · exact (h.setCore (by exact h.core lid)).takeTrap _ _ _ _ _
      · exact h
  · exact h

section

variable {s : State} (h : s.MemOk)

include h

theorem nextOk_execRpt (x : FormSI) : NextOk (execRpt x s) := by
  refine Keeps.issue ?_ _ h
  have := keeps_rules
  grind [Keeps.bodyWords]

theorem nextOk_execTrapret (x : FormY) : NextOk (execTrapret x s) := (Keeps.trapReturn _).issue _ h

theorem nextOk_execTrapretSkip (x : FormY) : NextOk (execTrapretSkip x s) := (Keeps.trapReturn _).issue _ h

/-! ## Waits, tasks and traps of an instruction (05 R191-R195) -/

theorem nextOk_waitQueues (i : Instr) (x : FormS3) (ok : Nat → Nat → Bool) : NextOk (waitQueues i x ok s) :=
  (Keeps.getMe fun _ _ => (Keeps.waitUnless _ _).bind fun _ => .writeS _ _).issueSeq _ h

theorem nextOk_execWaitOsp (x : FormS3) : NextOk (execWaitOsp x s) := (Keeps.getMe fun _ _ => .waitUnless _ _).issueSeq _ h

theorem nextOk_execWaitUntil (x : FormS3) : NextOk (execWaitUntil x s) :=
  ((Keeps.readS _).bind fun _ => .get fun _ _ => (Keeps.waitUnless _ _).bind fun _ => .writeS _ _).issueSeq _ h

theorem nextOk_execDone (x : FormS3) : NextOk (execDone x s) :=
  ((Keeps.modMe fun c h => by simpa using h).bind fun _ => .pure _).issue _ h

theorem nextOk_execIdle (x : FormY) : NextOk (execIdle x s) :=
  ((Keeps.modMe fun c h => by simpa using h).bind fun _ => .pure _).issue _ h

theorem nextOk_execPost (x : FormS3) : NextOk (execPost x s) := by
  refine Keeps.issueSeq ?_ _ h
  have := keeps_rules
  grind [Keeps.readS, Core.appendTask_loc]

theorem nextOk_execTrap (x : FormS3) : NextOk (execTrap x s) := ((Keeps.readS _).bind fun _ => .throw _).issueSeq _ h

theorem nextOk_execBrk (x : FormS3) : NextOk (execBrk x s) := (Keeps.throw _).issueSeq _ h

theorem nextOk_execNop (x : FormS3) : NextOk (execNop x s) := (Keeps.pure _).issueSeq _ h

theorem nextOk_execTick (x : FormS3) : NextOk (execTick x s) :=
  ((Keeps.readS _).bind fun _ => .get fun _ _ => .writeS _ _).issueSeq _ h

theorem nextOk_execIllegalOpcode (w : Word) : NextOk (execIllegalOpcode w s) := by
  unfold execIllegalOpcode
  split
  · exact .fault _
  · refine .next ?_
    split
    · exact h
    · exact h.deliverTrap _ _ _

end

/-! ## Timeouts and tasks (05 R163-R165, R169; 09 R314) -/

namespace State.MemOk

variable {s : State}

theorem gangTrap (h : s.MemOk) (val : Word) (lid : Nat) : (gangTrap val s lid).MemOk :=
  (h.setCore (by exact h.core lid)).takeTrap _ _ _ _ _

theorem gangOthersTrap (h : s.MemOk) (lid i : Nat) : (gangOthersTrap s lid i).MemOk := by
  unfold Machine.gangOthersTrap
  split
  · exact h.foldl (fun _ l h => h.gangTrap _ l) _
  · exact h

theorem withdraw (h : s.MemOk) (lid : Nat) (inRpt : Bool) : (s.withdraw lid inRpt).MemOk := by
  have hcore (t : Tensor) (r : Router) (a : Option Word) :
      ((s.dropMigs [lid]).setCore lid { s.core lid with tensor := t, router := r, answer := a }).MemOk :=
    (h.dropMigs [lid]).setCore (h.core lid)
  unfold State.withdraw
  dsimp only
  split
  · exact hcore _ _ _
  · exact (hcore _ _ _).withdrawRequests lid

theorem timeoutAt (h : s.MemOk) (lid : Nat) (inRpt : Bool) (w : Wait) : (timeoutAt s lid inRpt w).MemOk := by
  have hgang : (if gangStepWait w.val then Machine.gangOthersTrap s lid (bitsOf w.val 24 6) else s).MemOk := by
    split
    · exact h.gangOthersTrap _ _
    · exact h
  unfold Machine.timeoutAt
  extract_lets t c i
  have ht : t.MemOk := hgang.withdraw _ _
  split
  · exact (ht.setCore (by simpa using ht.core lid)).takeTrap _ _ _ _ _
  · exact ht.takeTrap _ _ _ _ _

theorem timeout (h : s.MemOk) (lid : Nat) : (timeout s lid).MemOk := by
  unfold Machine.timeout
  dsimp only
  split
  · exact h.timeoutAt _ _ _
  · split
    · exact h
    · exact h.timeoutAt _ _ _
  · exact h

end State.MemOk

section

variable {s : State} (h : s.MemOk) (lid : Nat)

include h

theorem nextOk_execWaitTimeout : NextOk (execWaitTimeout lid s) := by
  unfold execWaitTimeout
  split
  · exact .fault _
  · refine .next ?_
    split
    · exact h.timeout lid
    · exact h

theorem nextOk_execTriggerFire : NextOk (execTriggerFire lid s) := by
  have hc := h.core lid
  unfold execTriggerFire
  grind [NextOk.next, NextOk.fault, State.MemOk.setCore, Core.fire_loc]

theorem nextOk_execInboxTaskCreate : NextOk (execInboxTaskCreate lid s) := by
  have hc := h.core lid
  unfold execInboxTaskCreate
  grind [NextOk.next, NextOk.fault, State.MemOk.setCore, Core.bindMessage_loc]

theorem nextOk_execInboxAccept : NextOk (execInboxAccept lid s) := by
  have hc := h.core lid
  unfold execInboxAccept
  grind [NextOk.next, NextOk.fault, State.MemOk.setCore, Core.consumeNow_loc]

theorem nextOk_execWaitUntilCycleReached : NextOk (execWaitUntilCycleReached lid s) := by
  unfold execWaitUntilCycleReached
  split
  · exact .fault _
  · split
    · split
      · exact nextOk_execWaitUntil (s := s.running lid false) h _
      · exact .next h
    · exact .next h

end

end Sys2Proof.Machine
end

section
/-! PROOFS. The canonical form of the memories through the crown tree and the atomic engines. -/

namespace Sys2Proof.Machine

open Sys2Proof

/-! ## Episodes (11 R355-R361; 13 R411) -/

namespace State.MemOk

variable {s : State}

theorem passBarrier (h : s.MemOk) (lid : Nat) : (s.passBarrier lid).MemOk := h

theorem passMember (h : s.MemOk) (m : Member) : (s.passMember m).MemOk := by
  unfold State.passMember
  split
  · exact h.passBarrier _
  · next r _ e =>
    have hr : r.SavedOk := h.find?_savedOk e
    dsimp only
    split
    · exact h.setRegion (by exact hr)
    · exact h
  · exact h

theorem finishEpisode (h : s.MemOk) (n : Nat) (g : Group) (msg : TreeMsg) : (finishEpisode s n g msg).MemOk := by
  unfold Machine.finishEpisode
  extract_lets _ _ passes t _
  have ht : t.MemOk := h.foldl (fun _ m h => h.passMember m) passes
  exact ht.withGroups _

theorem sendCrown (h : s.MemOk) (what dst : Nat) (g : Group) (p : Partial) (w : Word) : (sendCrown s what dst g p w).MemOk := by
  unfold Machine.sendCrown
  split <;> exact h

theorem sendCrowns (h : s.MemOk) (what : Nat → Nat) (g : Group) (p : Nat → Partial) (w : Word) (ranks : List Nat) :
    (ranks.foldl (fun s r => Machine.sendCrown s (what r) r g (p r) w) s).MemOk :=
  h.foldl (fun _ r h => h.sendCrown (what r) r g (p r) w) ranks

theorem formAcross (h : s.MemOk) (n : Nat) (g : Group) (ranks : List Nat) : (formAcross s n g ranks).MemOk := by
  unfold Machine.formAcross
  split
  · exact h
  · dsimp only
    split
    · exact h
    · split
      · exact (h.sendCrowns (fun _ => 1) _ (fun _ => _) _ _).finishEpisode _ _ _
      · exact (h.sendCrowns (fun _ => 4) _ _ _ _).finishEpisode _ _ _

theorem crownTake (h : s.MemOk) (n : Nat) (g : Group) (b : BitVec 448) : (crownTake s n g b).MemOk := by
  unfold Machine.crownTake
  grind [State.MemOk.withGroups, State.MemOk.finishEpisode, State.MemOk.restartWaits, State.MemOk.sendCrown]

theorem crownPending (h : s.MemOk) : (crownPending s).MemOk := by
  refine State.MemOk.foldl (fun s b h => ?_) (s := { s with crownIn := [] }) h _
  split
  · exact h.crownTake _ _ _
  · exact h

theorem reportHeld (h : s.MemOk) (n : Nat) (g : Group) : (reportHeld s n g).MemOk := by
  unfold Machine.reportHeld
  extract_lets idle ranks t told
  have ht : t.MemOk := h.foldl (fun _ r h => h.sendCrown _ r g _ _) ranks
  exact ht.withGroups _

theorem completeAcross (h : s.MemOk) (n : Nat) (g : Group) (ge : Nat) : (completeAcross s n g ge).MemOk := by
  unfold Machine.completeAcross
  dsimp only
  split
  · exact (h.sendCrowns (fun _ => 4) _ (fun _ => _) _ _).finishEpisode _ _ _
  · split
    · exact h
    · split
      · exact (h.withGroups _).formAcross _ _ _
      · split
        · exact h
        · exact (h.withGroups _).sendCrown _ _ _ _ _

/-! ## Results at a core (11 R359, R366-R371) -/

theorem commitSpec (h : s.MemOk) (lid : Nat) (sp : Spec) : (commitSpec s lid sp).MemOk := by
  unfold Machine.commitSpec
  extract_lets c c' t
  have ht : t.MemOk := h.setCore (h.core lid)
  split
  · exact ht.takeTrap _ _ _ _ _
  · exact ht

theorem trapAtBranch (h : s.MemOk) (lid : Nat) (sp : Spec) (t : TrapInfo) : (trapAtBranch s lid sp t).MemOk :=
  (h.setCore (by simpa using h.core lid)).takeTrap _ _ _ _ _

theorem resolveSpec (h : s.MemOk) (lid : Nat) (sp : Spec) (w : Word) : (resolveSpec s lid sp w).MemOk := by
  unfold Machine.resolveSpec
  split
  · exact h.trapAtBranch _ _ _
  · split
    · exact h.commitSpec _ _
    · exact h.setCore (by simpa using h.core lid)

theorem deliverResult (h : s.MemOk) (lid ch : Nat) (w : Word) : (deliverResult s lid ch w).MemOk := by
  have hc := h.core lid
  unfold Machine.deliverResult
  grind [State.MemOk.setCore, State.MemOk.core, Core.setChan_loc, Core.learn_loc, State.MemOk.passBarrier, State.MemOk.resolveSpec]

theorem deliverFailure (h : s.MemOk) (lid ch reason : Nat) (seq : BitVec 32) : (deliverFailure s lid ch reason seq).MemOk := by
  have hc := h.core lid
  unfold Machine.deliverFailure
  grind [State.MemOk.setCore, Core.setChan_loc, State.MemOk.trapAtBranch]

end State.MemOk

section

variable {s : State} (h : s.MemOk)

include h

theorem nextOk_execCrownPartialFrame (port : Nat) (fr : BitVec 512) : NextOk (execCrownPartialFrame port fr s) := by
  refine nextOk_frameEvent h _ _ _ fun s b h => ?_
  split
  · exact h
  · exact State.MemOk.crownPending (s := { s with crownIn := s.crownIn ++ [b] }) h

theorem nextOk_execEpisodeComplete (g : Nat) : NextOk (execEpisodeComplete g s) := by
  unfold execEpisodeComplete
  grind [NextOk.next, State.MemOk.reportHeld, State.MemOk.completeAcross, State.MemOk.finishEpisode]

theorem nextOk_treeArrival (outcome : Bool) (lid ch : Nat) : NextOk (treeArrival outcome lid ch s) := by
  unfold treeArrival
  grind [NextOk.next, NextOk.fault, State.MemOk.withGroups, State.MemOk.deliverResult, State.MemOk.deliverFailure]

end

/-! ## Barriers, excusals and branches (11 R362-R381) -/

theorem Keeps.modChan (ch : Nat) (f : Chan → Chan) : Keeps (modChan ch f) := .modMe fun _ h => h

theorem Keeps.needChan (ch : Nat) : Keeps (needChan ch) := by
  have := keeps_rules
  unfold Machine.needChan
  simp only [trapWith_bind]
  grind [Keeps.modChan]

theorem Keeps.waitPrevious (ch : Nat) : Keeps (waitPrevious ch) := .getMe fun _ _ => .waitUnless _ _

theorem Keeps.contribute (ch : Nat) (kind : TreeKind) (b : Bool) (count : Nat) : Keeps (contribute ch kind b count) := by
  have := keeps_rules
  unfold Machine.contribute
  grind [Keeps.modChan, State.MemOk.withGroups]

theorem Keeps.arrive (x : FormB) (g : Group) : Keeps (arrive x g) :=
  (Keeps.waitPrevious _).bind fun _ => (Keeps.releaseAt _).bind fun _ => .getMe fun _ _ => .contribute _ _ _ _

theorem Keeps.takeBarrier (x : FormB) (w : Word) : Keeps (takeBarrier x w) :=
  (Keeps.writeS _ _).bind fun _ => (Keeps.modChan _ _).bind fun _ => .acquire

theorem Keeps.putGroup (n : Nat) (g : Group) : Keeps (putGroup n g) := .modifyState fun _ h => h

section

variable {s : State} (h : s.MemOk)

include h

theorem nextOk_execBarr (x : FormB) : NextOk (execBarr x s) :=
  ((Keeps.needChan _).bind fun _ => .arrive _ _).issueSeq _ h

theorem nextOk_execBwait (x : FormB) : NextOk (execBwait x s) := by
  refine Keeps.issueSeq ?_ _ h
  have := keeps_rules
  grind [Keeps.needChan, Keeps.takeBarrier]

theorem nextOk_execBarw (x : FormB) : NextOk (execBarw x s) := by
  refine Keeps.issueSeq ?_ _ h
  have := keeps_rules
  simp only [throw_bind]
  grind [Keeps.needChan, Keeps.arrive, Keeps.takeBarrier]

theorem nextOk_execBexcuse (x : FormB) : NextOk (execBexcuse x s) := by
  have := keeps_rules
  refine Keeps.issueSeq ((Keeps.needChan _).bind fun (m, n, g) => .get fun s _ => ?_) _ h
  extract_lets takeResult
  have htake (u : Unit) : Keeps (takeResult u) := by grind [Keeps.modChan, Keeps.writeS]
  clear_value takeResult
  grind [Keeps.putGroup, Keeps.modChan]

theorem nextOk_execBgleave (x : FormB) : NextOk (execBgleave x s) :=
  ((Keeps.needChan _).bind fun _ => .putGroup _ _).issueSeq _ h

theorem nextOk_execBgjoin (x : FormB) : NextOk (execBgjoin x s) := by
  refine Keeps.issueSeq ?_ _ h
  have := keeps_rules
  grind [Keeps.needChan, Keeps.putGroup, Keeps.modChan]

theorem nextOk_execBmask (x : FormB) : NextOk (execBmask x s) := by
  refine Keeps.issueSeq ?_ _ h
  have := keeps_rules
  grind [Keeps.needChan, Keeps.readS, Keeps.destReady, Keeps.putGroup, Keeps.writeS]

theorem nextOk_branchOp (i : Instr) (x : FormB) (cond : Core → Bool) : NextOk (branchOp i x cond s) := by
  refine Keeps.issue ?_ i h
  have := keeps_rules
  grind [Keeps.needChan, Keeps.waitPrevious, Keeps.contribute]

theorem nextOk_execCbrres (x : FormB) : NextOk (execCbrres x s) := by
  refine Keeps.issueSeq ?_ _ h
  have := keeps_rules
  grind [Keeps.needChan, Keeps.writeS]

theorem nextOk_execTcount (x : FormB) : NextOk (execTcount x s) := by
  have := keeps_rules
  refine Keeps.issueSeq (.get fun s _ => ?_) _ h
  dsimp only
  split
  · refine (Keeps.needChan _).bind fun _ => .get fun t ht => (Keeps.readS _).bind fun a => (Keeps.set ht).bind fun _ =>
      (Keeps.waitPrevious _).bind fun _ => (Keeps.contribute _ _ _ _).bind fun _ => (Keeps.modChan _ _).bind fun _ => 
      (Keeps.setProgress _).bind fun _ => ?_
    grind [Keeps.readS, Keeps.modChan, Keeps.destReady, Keeps.writeS]
  · grind [Keeps.needChan, Keeps.readS, Keeps.modChan, Keeps.destReady, Keeps.writeS]

theorem nextOk_execSpecstat (x : FormB) : NextOk (execSpecstat x s) := (Keeps.getMe fun _ _ => .writeS _ _).issueSeq _ h

end

/-! ## The atomic engines (12 R385-R390; 04 R138) -/

namespace State.MemOk

variable {s : State}

theorem performLine (h : s.MemOk) (r : AtomReq) : (performLine s r).2.MemOk := by
  unfold Machine.performLine
  dsimp only
  split
  · exact h.setCore (writeLoc_wf _ _ _ (h.core _))
  · exact h

theorem answerLine (h : s.MemOk) (lid : Nat) (r : AtomReq) (old : Nat) : (answerLine s lid r old).MemOk := by
  unfold Machine.answerLine
  dsimp only
  split <;> exact h.setCore (h.core lid)

theorem poisonedLine (h : s.MemOk) (lid : Nat) (r : AtomReq) : (poisonedLine s lid r).MemOk := by
  unfold Machine.poisonedLine
  extract_lets c e i t
  have ht : t.MemOk := h.setCore (h.core lid)
  split
  · exact (h.setCluster _ _).setCore (h.core lid)
  · split
    · exact ht.takeTrap _ _ _ _ _
    · exact ht.freezeAt _ _

theorem performRequest (h : s.MemOk) (lid : Nat) (r : AtomReq) : (performRequest s lid r).MemOk := by
  unfold Machine.performRequest
  split
  · exact h.poisonedLine lid r
  · exact (h.performLine r).answerLine _ _ _

theorem serveLine (h : s.MemOk) (cl : Nat) : (serveLine s cl).MemOk := by
  unfold Machine.serveLine
  dsimp only
  split
  · exact h.setCluster _ _
  · split
    · exact h.setCluster _ _
    · exact (h.setCluster _ _).performRequest _ _

theorem serveCell (h : s.MemOk) (cl : Nat) : (serveCell s cl).MemOk := by
  unfold Machine.serveCell
  grind [State.MemOk.setCluster, State.MemOk.setCore, State.MemOk.core]

theorem performHeld (h : s.MemOk) (cl lid : Nat) : (performHeld cl s lid).MemOk := by
  unfold Machine.performHeld
  dsimp only
  split
  · exact h
  · exact (h.setCluster _ _).performRequest _ _

theorem performOldest (h : s.MemOk) (lid : Nat) : (performOldest s lid).MemOk := by
  unfold Machine.performOldest
  dsimp only
  split
  · exact h
  · next home a bytes rest _ =>
    split
    · exact h.askTurn _ _
    · next t e =>
      have hu : (t.setCore lid { s.core lid with sb := rest }).MemOk := (h.plainAccess lid home a t e).setCore (h.core lid)
      exact hu.setCore (writeLoc_wf _ _ _ (hu.core home))
  · split
    · exact h
    · split <;> exact h

end State.MemOk

section

variable {s : State} (h : s.MemOk)

include h

theorem nextOk_execAtomicServe (cl : Nat) : NextOk (execAtomicServe cl s) := by
  unfold execAtomicServe
  split
  · exact .fault _
  · exact .next ((h.serveLine cl).serveCell cl)

theorem nextOk_execDetAcasStep (cl : Nat) : NextOk (execDetAcasStep cl s) := by
  unfold execDetAcasStep
  split
  · exact .fault _
  · dsimp only
    split
    · exact .next h
    · split
      · exact .next (h.foldl (fun _ l h => h.performHeld cl l) _)
      · exact .next h

theorem nextOk_execStoreBufferPerform (lid : Nat) : NextOk (execStoreBufferPerform lid s) := by
  unfold execStoreBufferPerform
  split
  · exact .fault _
  · refine .next ?_
    split
    · exact h.performOldest lid
    · exact h

end

/-! ## Atomics and cell instructions (12 R389-R396) -/

theorem Keeps.atomicOperands (x : FormA) (cas : Bool) : Keeps (atomicOperands x cas) := by
  have := keeps_rules
  unfold Machine.atomicOperands
  grind [Keeps.readBase, Keeps.readS]

theorem Keeps.atomicChecks (x : FormA) (op : BitVec 8) (lid a n : Nat) : Keeps (atomicChecks x op lid a n) := by
  have := keeps_rules
  unfold Machine.atomicChecks
  grind

theorem Keeps.noteAcas (op : BitVec 8) : Keeps (noteAcas op) := by
  have := keeps_rules
  unfold Machine.noteAcas
  grind [State.MemOk.setCluster]

theorem Keeps.requestLine (r : AtomReq) : Keeps (requestLine r) := by
  have := keeps_rules
  unfold Machine.requestLine
  grind [State.MemOk.setCluster]

theorem Keeps.takeAnswer : Keeps takeAnswer := by
  have := keeps_rules
  unfold Machine.takeAnswer
  grind

theorem Keeps.cellNumber (x : FormA) : Keeps (cellNumber x) := by
  have := keeps_rules
  unfold Machine.cellNumber
  grind [Keeps.readBase]

theorem Keeps.requestCell (op : BitVec 8) (n : Nat) (b : Word) (ft : BitVec 2) (exc answer : Bool) :
    Keeps (requestCell op n b ft exc answer) := by
  have := keeps_rules
  unfold Machine.requestCell
  grind [State.MemOk.setCluster]

theorem Keeps.cellReadOp (x : FormA) (op : BitVec 8) : Keeps (cellReadOp x op) := by
  have := keeps_rules
  unfold Machine.cellReadOp
  grind [Keeps.cellNumber, Keeps.requestCell, Keeps.takeAnswer, Keeps.raise, Keeps.writeS]

section

variable {s : State} (h : s.MemOk)

include h

theorem nextOk_atomicOp (i : Instr) (x : FormA) (op : BitVec 8) : NextOk (atomicOp i x op s) := by
  have := keeps_rules
  refine Keeps.issueSeq (.get fun s h => (Keeps.atomicOperands _ _).bind fun (ea, b, c) => ?_) i h
  extract_lets n complete
  have hcomplete (u : Unit) : Keeps (complete u) := by grind [Keeps.writeS, Keeps.acquire]
  clear_value complete
  refine Keeps.ite (fun _ => ?_) fun _ => hcomplete ()
  refine (Keeps.checkAlign _ _).bind fun _ => (Keeps.resolveClu _ _).bind fun (lid, a) =>
    (Keeps.atomicChecks _ _ _ _ _).bind fun _ => ?_
  extract_lets request send
  have hrequest (u : Unit) : Keeps (request u) := by grind [Keeps.discardFetched, Keeps.noteAcas, Keeps.requestLine]
  clear_value request
  have hsend (u : Unit) : Keeps (send u) := by grind [Keeps.noteAcas, Keeps.pushSb, Keeps.discardFetched]
  exact .ite (fun _ => (Keeps.releaseAt _).bind hsend) fun _ => hsend ()

theorem nextOk_execAfadd (x : FormA) : NextOk (execAfadd x s) := by
  refine Keeps.issueSeq ?_ _ h
  have := keeps_rules
  grind [Keeps.readS, Keeps.cellNumber, Keeps.requestCell, Keeps.raise]

theorem nextOk_execAfrd (x : FormA) : NextOk (execAfrd x s) := (Keeps.cellReadOp _ _).issueSeq _ h

theorem nextOk_execAfclr (x : FormA) : NextOk (execAfclr x s) := by
  refine Keeps.issueSeq ?_ _ h
  have := keeps_rules
  grind [Keeps.cellNumber, Keeps.requestCell, Keeps.cellReadOp]

theorem nextOk_execAfence (x : FormA) : NextOk (execAfence x s) := (Keeps.get fun _ _ => .waitUnless _ _).issueSeq _ h

end

end Sys2Proof.Machine
end

section
/-! PROOFS. The canonical form of the memories through the routers. -/

namespace Sys2Proof.Machine

open Sys2Proof

/-! ## The regions of a router's tags (08 R287) -/

namespace State.MemOk

variable {s : State}

theorem holderOf_savedOk {lid tag : Nat} {r : Region} (h : s.MemOk) (e : s.holderOf lid tag = some r) : r.SavedOk := by
  unfold State.holderOf at e
  rcases Option.or_eq_some_iff.mp e with e | ⟨_, e⟩
  · exact h.find?_savedOk e
  · exact h.regionOf_savedOk e

theorem feederOf_savedOk {lid tag : Nat} {r : Region} (h : s.MemOk) (e : s.feederOf lid tag = some r) : r.SavedOk := by
  unfold State.feederOf at e
  obtain ⟨d, _, e⟩ := List.exists_of_findSome?_eq_some e
  obtain ⟨n, _, e⟩ := Option.bind_eq_some_iff.mp e
  obtain ⟨⟨t, x⟩, _, e⟩ := List.exists_of_findSome?_eq_some e
  exact h.holderOf_savedOk (Option.ite_none_right_eq_some.mp e).2

theorem ownerOf_savedOk {lid tag : Nat} {r : Region} (h : s.MemOk) (e : s.ownerOf lid tag = some r) : r.SavedOk := by
  unfold State.ownerOf at e
  rcases Option.or_eq_some_iff.mp e with e | ⟨_, e⟩
  · exact h.holderOf_savedOk e
  · exact h.feederOf_savedOk e

theorem nextAt_savedOk {lid k : Nat} {p : Place} {f : Held} {r : Region} (h : s.MemOk) (e : s.nextAt lid p = some (k, f, r)) :
    r.SavedOk := by
  unfold State.nextAt at e
  obtain ⟨⟨f, k⟩, _, e⟩ := List.exists_of_findSome?_eq_some e
  dsimp only at e
  split at e
  · next r' hr =>
    split at e
    · cases e; exact h.ownerOf_savedOk hr
    · contradiction
  · contradiction

/-! ## Flits that leave an entry (08 R267-R283) -/

theorem modRouter (h : s.MemOk) (lid : Nat) (f : Router → Router) : (s.modRouter lid f).MemOk := h.setCore (h.core lid)

theorem deliver (h : s.MemOk) (lid : Nat) (f : Flit) (k : Sink) : (k.deliver s lid f).MemOk := by
  cases k with
  | port n d => exact h.modRouter _ _
  | stream p n =>
    simp only [Sink.deliver]
    split <;> exact h
  | credit p n =>
    simp only [Sink.deliver]
    split <;> exact h
  | queue n => exact h.setCore (by simpa using h.core lid)
  | buffer n =>
    simp only [Sink.deliver]
    split
    · exact h.setCore (Core.bufferFlit_wf _ _ _ (h.core lid))
    · exact h
  | bufferCredit n =>
    simp only [Sink.deliver]
    split
    · exact h.setCore (h.core lid)
    · exact h
  | inbox => exact h.modRouter _ _
  | gang => exact h.setCore (h.core lid)
  | lattice => exact h.setCore (h.core lid)
  | link _ => exact h
  | nowhere => exact h

theorem routerFault (h : s.MemOk) {r : Region} (hr : r.SavedOk) (lid : Nat) (cause : BitVec 8) (tag qn fmt kind : Nat) :
    (routerFault s lid r cause tag qn fmt kind).MemOk := h.freezeRegion hr _ _

theorem streamFormatFault (h : s.MemOk) {r : Region} (hr : r.SavedOk) (lid eng ctx : Nat) (cause : BitVec 8) (f : Flit) :
    (streamFormatFault s r lid eng ctx cause f).MemOk := by
  unfold Machine.streamFormatFault
  split
  · next c _ =>
    refine h.freezeRegion ?_ _ _
    cases e : s.regionOf c.lid with
    | none => exact hr
    | some q => exact h.regionOf_savedOk e
  · exact h.routerFault hr _ _ _ _ _ _

end State.MemOk

/-- An attempt to move a flit that leaves the memories in canonical form. -/
def Moved.Ok (m : Moved) : Prop := ∀ t, m = .moved t → t.MemOk

theorem Moved.Ok.moved {s : State} (h : s.MemOk) : Moved.Ok (.moved s) := fun _ e => by cases e; exact h

theorem Moved.Ok.settle {m : Moved} (hm : m.Ok) {s : State} (h : s.MemOk) (lid : Nat) {r : Region} (hr : r.SavedOk) :
    (m.settle s lid r).MemOk := by
  cases m with
  | stay => exact h
  | moved t => exact hm t rfl
  | fault cause tag qn fmt kind => exact h.routerFault hr _ _ _ _ _ _
  | badFormat eng ctx cause f => exact h.streamFormatFault hr _ _ _ _ _

section

variable {s : State} (h : s.MemOk) (lid : Nat) (p : Place) (k : Nat) (f : Held)

include h

theorem emitFlit_ok : (emitFlit s lid p k f).Ok := by
  unfold emitFlit
  dsimp only
  split
  · exact nofun
  · split
    · exact nofun
    · split
      · exact nofun
      · exact .moved ((h.modRouter _ _).foldl (fun _ k h => h.deliver lid _ k) _)

theorem sumAccept_ok : (sumAccept s lid p k f).Ok := by
  unfold sumAccept
  dsimp only
  split
  · exact nofun
  · split
    · exact nofun
    · exact nofun
    · exact .moved (h.modRouter _ _)

theorem toDelay_ok : (toDelay s lid p k f).Ok := by
  unfold toDelay
  dsimp only
  split
  · exact nofun
  · exact .moved (h.modRouter _ _)

theorem forwardPlain_ok : (forwardPlain s lid p k f).Ok := by
  have hemit := emitFlit_ok h lid p k f
  unfold forwardPlain
  dsimp only
  split
  · exact hemit
  · split
    · exact nofun
    · split
      · split
        · exact hemit
        · exact nofun
      · split
        · exact .moved ((h.modRouter _ _).modRouter _ _)
        · split
          · next t e => exact .moved ((hemit t e).modRouter _ _)
          · exact hemit

theorem forward_ok : (forward s lid p k f).Ok := by
  have hemit := emitFlit_ok h lid p k f
  unfold forward
  grind [sumAccept_ok, toDelay_ok, forwardPlain_ok, Moved.Ok]

end

/-! ## The events of a router (08 R273-R283) -/

section

variable {s : State} (h : s.MemOk)

include h

theorem nextOk_placeEvent (lid : Nat) (p : Place) {f : Nat → Held → Region → State}
    (hf : ∀ k x r, r.SavedOk → (f k x r).MemOk) : NextOk (placeEvent lid p s f) := by
  unfold placeEvent
  split
  · exact .fault _
  · split
    · next e => exact .next (hf _ _ _ (h.nextAt_savedOk e))
    · exact .next h

theorem nextOk_entryEvent (lid tag : Nat) {f : Core → Word → Region → State}
    (hf : ∀ e r, (f (s.core lid) e r).MemOk) : NextOk (entryEvent lid tag s f) := by
  unfold entryEvent
  grind [NextOk.next, NextOk.fault]

theorem nextOk_execFlitForward (lid : Nat) (p : Place) : NextOk (execFlitForward lid p s) := by
  refine nextOk_placeEvent h lid p fun k x r hr => ?_
  split
  · exact h
  · exact (forward_ok h lid p k x).settle h lid hr

theorem nextOk_execCbEntryFlit (lid : Nat) (p : Place) : NextOk (execCbEntryFlit lid p s) := by
  refine nextOk_placeEvent h lid p fun k x r hr => ?_
  have hmove := (forward_ok h lid p k x).settle h lid hr
  split
  · split
    · split
      · exact hmove
      · exact h.setCore (h.core lid)
    · exact h
  · exact h

theorem nextOk_execCbCreditArrival (lid : Nat) (p : Place) : NextOk (execCbCreditArrival lid p s) := by
  refine nextOk_placeEvent h lid p fun k x r hr => ?_
  split
  · exact (forward_ok h lid p k x).settle h lid hr
  · exact h

theorem nextOk_execSumRound (lid tag : Nat) : NextOk (execSumRound lid tag s) := by
  refine nextOk_entryEvent h lid tag fun e r => ?_
  grind [State.MemOk.modRouter]

theorem nextOk_execSumControlFlit (lid tag : Nat) : NextOk (execSumControlFlit lid tag s) := by
  refine nextOk_entryEvent h lid tag fun e r => ?_
  dsimp only
  grind [State.MemOk.modRouter]

theorem nextOk_execRenormRecord (lid : Nat) (p : Place) : NextOk (execRenormRecord lid p s) := by
  refine nextOk_placeEvent h lid p fun k x r hr => ?_
  have hemit := emitFlit_ok h lid p k x
  dsimp only
  split
  · exact h
  · split
    · exact (h.modRouter _ _).modRouter _ _
    · split
      · next t e => exact (hemit t e).modRouter _ _
      · exact hemit.settle h lid hr

theorem nextOk_execWidthAdapt (lid : Nat) (p : Place) : NextOk (execWidthAdapt lid p s) := by
  refine nextOk_placeEvent h lid p fun k x r hr => ?_
  have hemit := (emitFlit_ok h lid p k x).settle h lid hr
  dsimp only
  grind [State.MemOk.routerFault, State.MemOk.modRouter]

end

end Sys2Proof.Machine
end

section
/-! PROOFS. The canonical form of the memories through the BRIM engines: streams, circular buffers and migrations. -/

namespace Sys2Proof.Machine

open Sys2Proof

/-! ## Streams (07 R233-R247) -/

namespace State.MemOk

variable {s : State}

theorem setCtx (h : s.MemOk) (eng n : Nat) (c : StreamCtx) : (s.setCtx eng n c).MemOk := h

theorem streamFatal (h : s.MemOk) (eng : Nat) (c : StreamCtx) (cause : BitVec 8) (va : Nat) :
    (streamFatal s eng c cause va).MemOk := h.freezeAt _ _

theorem streamStall (h : s.MemOk) (eng n : Nat) (c : StreamCtx) (cause : BitVec 8) (va : Nat) (write : Bool) :
    (streamStall s eng n c cause va write).MemOk := by
  unfold Machine.streamStall
  dsimp only
  split
  · exact h
  · split
    · exact (h.setCtx _ _ _).reportFault _ _
    · exact h

theorem streamStop (h : s.MemOk) (eng n : Nat) (c : StreamCtx) (r : WalkResult) (va : Nat) (write : Bool) :
    (streamStop s eng n c r va write).MemOk := by
  unfold Machine.streamStop
  split
  · exact h.streamFatal _ _ _ _
  · exact h.streamStall _ _ _ _ _ _
  · exact h.streamStall _ _ _ _ _ _

theorem streamFinish (h : s.MemOk) (eng n : Nat) (c : StreamCtx) (code : BitVec 2) : (streamFinish s eng n c code).MemOk := by
  unfold Machine.streamFinish
  extract_lets t k _ u
  have ht : t.MemOk := h.setCtx _ _ _
  have hu : u.MemOk := ht.setCore (by simpa [k] using ht.core c.lid)
  exact hu

theorem writePieces (h : s.MemOk) (ps : List (Nat × Nat)) (bytes : List Byte) : SomeOk (writePieces s ps bytes) := by
  induction ps generalizing s bytes with
  | nil => exact .some h
  | cons p ps ih => exact (h.extWrite _ _).andThen fun t ht => ih ht _

theorem streamRead (h : s.MemOk) (eng n : Nat) (c : StreamCtx) : (streamRead s eng n c).MemOk := by
  unfold Machine.streamRead
  dsimp only
  split
  · exact h
  · split
    · exact h.streamStop _ _ _ _ _ _
    · split
      · exact h.streamFatal _ _ _ _
      · exact h.setCtx _ _ _

theorem streamDeliver (h : s.MemOk) (eng n : Nat) (c : StreamCtx) : (streamDeliver s eng n c).MemOk := by
  unfold Machine.streamDeliver
  split
  · dsimp only
    split
    · exact h
    · exact (h.modRouter _ _).setCtx _ _ _
  · exact h

theorem streamWrite (h : s.MemOk) (eng n : Nat) (c : StreamCtx) : (streamWrite s eng n c).MemOk := by
  unfold Machine.streamWrite
  dsimp only
  split
  · exact h
  · split
    · exact h.streamStop _ _ _ _ _ _
    · split
      · exact h.streamFatal _ _ _ _
      · next t e => exact (h.writePieces _ _ t e).setCtx _ _ _

theorem streamRetry (h : s.MemOk) (eng n : Nat) : (streamRetry s eng n).MemOk := by
  unfold Machine.streamRetry
  grind [State.MemOk.setCtx, State.MemOk.streamStop]

theorem scalarRetry (h : s.MemOk) (lid : Nat) : (scalarRetry s lid).MemOk := h

/-! ## Invalidations and migrations (07 R244-R247) -/

theorem shootEngine (h : s.MemOk) (job root : Nat) (g : PageRange) (eng : Nat) : (shootEngine job root g s eng).MemOk := by
  unfold Machine.shootEngine
  dsimp only
  split
  · exact h
  · exact ((h.setBrim _ _).foldl (fun _ (e : Nat × StreamCtx) h => h.streamRetry eng e.1) _).foldl
      (fun _ (x : ScalarStall) h => h.scalarRetry x.lid) _

theorem shootDown (h : s.MemOk) (job root : Nat) (g : PageRange) : (shootDown s job root g).MemOk :=
  h.foldl (fun _ eng h => h.shootEngine job root g eng) _

theorem startMig (h : s.MemOk) (va npa size : Nat) : (startMig s va npa size).1.MemOk := by
  unfold Machine.startMig
  dsimp only
  split
  · exact h
  · split
    · exact h
    · split
      · exact h
      · exact State.MemOk.congr (s := s) h rfl rfl rfl rfl

theorem endMig (h : s.MemOk) (l : LeafEntry) (m : Migration) : (endMig s l m).1.MemOk := by
  unfold Machine.endMig
  dsimp only
  split
  · exact h
  · next t e =>
    have ht : t.MemOk := (h.dropMigs [s.cur]).extWrite _ _ t e
    dsimp only
    exact ht.shootDown _ _ _

theorem copyBlock (h : s.MemOk) (m : Migration) : (copyBlock s m).1.MemOk := by
  unfold Machine.copyBlock
  split
  · exact h
  · split
    · exact h
    · split
      · exact h
      · next t e =>
        have ht := h.extWrite _ _ t e
        split
        · exact ht.endMig _ _
        · exact ht

theorem migrate (h : s.MemOk) (va npa size : Nat) : (migrate s va npa size).1.MemOk := by
  unfold Machine.migrate
  split
  · exact h.startMig _ _ _
  · exact h.copyBlock _

theorem freeSlot (h : s.MemOk) (n : Nat) : (s.freeSlot n).MemOk := by
  unfold State.freeSlot
  extract_lets sl b t
  have ht : t.MemOk := h
  refine ht.setMe ?_
  show Memory.wf (t.me.setSlot n { st := .free, eng := 0, ctx := 0 }).loc = true
  simpa using ht.me

end State.MemOk

/-! ## Instructions at a stream or buffer (07 R248-R264) -/

theorem Keeps.tryCatch {α : Type} {m : Op α} {f : Stop → Op α} (hm : Keeps m) (hf : ∀ e, Keeps (f e)) :
    Keeps (MonadExcept.tryCatch m f) := by
  intro s h
  have hs := hm s h
  show match EStateM.tryCatch m f s with
    | .ok _ t => t.MemOk
    | .error _ t => t.MemOk
  unfold EStateM.tryCatch
  cases e : m s with
  | ok a t => rw [e] at hs; exact hs
  | error x t => rw [e] at hs; exact hf x t hs

theorem nextOk_issueBrim {body : Op Unit} (hb : Keeps body) (i : Instr) (n : Nat) {s : State} (h : s.MemOk) :
    NextOk (issueBrim i n body s) := by
  refine (hb.tryCatch fun e => ?_).issueSeq i h
  cases e <;> exact .throw _

theorem Keeps.slotMisuse {α : Type} (st : SlotState) (n : Nat) : Keeps (slotMisuse st n : Op α) := .trapWith _ _

theorem Keeps.cbMisuse {α : Type} (b : Option CbCtx) (n : Nat) : Keeps (cbMisuse b n : Op α) := .trapWith _ _

@[simp] theorem slotMisuse_bind {α β : Type} (st : SlotState) (n : Nat) (f : α → Op β) :
    ((slotMisuse st n : Op α) >>= f) = slotMisuse st n := rfl

@[simp] theorem cbMisuse_bind {α β : Type} (b : Option CbCtx) (n : Nat) (f : α → Op β) :
    ((cbMisuse b n : Op α) >>= f) = cbMisuse b n := rfl

theorem Keeps.locWords (a : Word) (n : Nat) : Keeps (locWords a n) := by
  have := keeps_rules
  have hwords := Keeps.mapM (f := fun k => do
    return BitVec.ofNat 64 (natOfBytes (← Machine.locLoad (a.toNat + 8 * k) 8 a))) (fun _ => (Keeps.locLoad _ _ _).bind fun _ => .pure _)
    (List.range n)
  unfold Machine.locWords
  simp only [trapWith_bind]
  grind

theorem Keeps.modStream (n : Nat) (st : SlotState) (f : StreamCtx → StreamCtx) : Keeps (modStream n st f) := by
  have := keeps_rules
  unfold Machine.modStream
  grind [State.MemOk.setCtx, Core.setSlot_loc]

theorem Keeps.sopenWords (a : Word) : Keeps (sopenWords a) := by
  have := keeps_rules
  unfold Machine.sopenWords
  grind [Keeps.locWords]

theorem Keeps.cbConsumer (n : Nat) : Keeps (cbConsumer n) := by
  have := keeps_rules
  unfold Machine.cbConsumer
  grind [Keeps.cbMisuse]

theorem Keeps.cbProducer (n : Nat) : Keeps (cbProducer n) := by
  have := keeps_rules
  unfold Machine.cbProducer
  grind [Keeps.cbMisuse]

theorem Keeps.brimRoom (k n : Nat) : Keeps (brimRoom k n) := .getMe fun _ _ => .waitUnless _ _

section

variable {s : State} (h : s.MemOk) (x : FormS3)

include h

theorem nextOk_execSopen : NextOk (execSopen x s) := by
  have := keeps_rules
  refine nextOk_issueBrim ((Keeps.readBase _).bind fun a => .get fun s h => ?_) _ _ h
  simp only [slotMisuse_bind, trapWith_bind]
  refine .ite (fun _ => Keeps.slotMisuse _ _) fun _ => (Keeps.sopenWords a).bind fun ws => ?_
  split
  · exact .trapWith _ _
  · refine .ite (fun _ => Keeps.slotMisuse _ _) fun _ => ?_
    split
    · exact Keeps.bind (.modMe fun _ h => h) fun _ => .throw _
    · exact Keeps.bind (.modifyState fun _ h => (h.setBrim _ _).setCtx _ _ _) fun _ => .modMe fun _ h => by simpa using h

theorem nextOk_execSgo : NextOk (execSgo x s) := by
  have := keeps_rules
  refine nextOk_issueBrim ?_ _ _ h
  grind [Keeps.slotMisuse, Keeps.modStream, Keeps.discardFetched]

theorem nextOk_execSstop : NextOk (execSstop x s) := by
  have := keeps_rules
  refine nextOk_issueBrim ?_ _ _ h
  grind [Keeps.slotMisuse, Keeps.modStream]

theorem nextOk_execSstopClose : NextOk (execSstopClose x s) := by
  have := keeps_rules
  refine nextOk_issueBrim ?_ _ _ h
  grind [Keeps.slotMisuse, State.MemOk.setCtx, State.MemOk.streamFinish]

theorem nextOk_execSwait : NextOk (execSwait x s) := by
  refine nextOk_issueBrim (.get fun s h => ?_) _ _ h
  simp only [slotMisuse_bind]
  have hend : Keeps (do
      modify (·.freeSlot (bitsOf x.aux 0 3))
      acquire
      writeS x.d (streamStatus s (bitsOf x.aux 0 3))) :=
    (Keeps.modifyState fun _ h => h.freeSlot _).bind fun _ => Keeps.acquire.bind fun _ => .writeS _ _
  exact .ite (fun _ => Keeps.slotMisuse _ _) fun _ => (Keeps.waitUnless _ _).bind fun _ => (Keeps.destReady _ _).bind fun _ =>
    .ite (fun _ => (Keeps.raise _).bind fun _ => hend) fun _ => hend

theorem nextOk_execSstat : NextOk (execSstat x s) := nextOk_issueBrim (.get fun _ _ => .writeS _ _) _ _ h

theorem nextOk_execSstatCnt : NextOk (execSstatCnt x s) := nextOk_issueBrim (.get fun _ _ => .writeS _ _) _ _ h

theorem nextOk_execCbinit : NextOk (execCbinit x s) := by
  have := keeps_rules
  refine nextOk_issueBrim ((Keeps.readBase _).bind fun a => (Keeps.locWords _ _).bind fun ws => .getMe fun c _ => ?_) _ _ h
  simp only [cbMisuse_bind, trapWith_bind]
  grind [Keeps.cbMisuse]

theorem nextOk_execCbwait : NextOk (execCbwait x s) := by
  have := keeps_rules
  refine nextOk_issueBrim ((Keeps.cbConsumer _).bind fun b => ?_) _ _ h
  simp only [cbMisuse_bind]
  refine .ite (fun _ => Keeps.cbMisuse _ _) fun _ => ?_
  split
  · exact .trapWith _ _
  · grind [Keeps.destReady, Keeps.raise, Keeps.acquire, Keeps.writeS]

theorem nextOk_execCbrel : NextOk (execCbrel x s) := by
  have := keeps_rules
  refine nextOk_issueBrim ((Keeps.cbConsumer _).bind fun b => ?_) _ _ h
  simp only [cbMisuse_bind]
  grind [Keeps.cbMisuse, Keeps.checkTag, Keeps.brimRoom, Keeps.pushFlits]

theorem nextOk_execCbput : NextOk (execCbput x s) := by
  have := keeps_rules
  refine nextOk_issueBrim ((Keeps.readV _ _).bind fun (v, _) => (Keeps.cbProducer _).bind fun b => ?_) _ _ h
  grind [Keeps.checkTag, Keeps.brimRoom, Keeps.pushFlits]

theorem nextOk_execCbstat : NextOk (execCbstat x s) := nextOk_issueBrim (.getMe fun _ _ => .writeS _ _) _ _ h

theorem nextOk_execSmig : NextOk (execSmig x s) := by
  have := keeps_rules
  refine nextOk_issueBrim ((Keeps.readBase _).bind fun a => (Keeps.readBase _).bind fun b => ?_) _ _ h
  simp only [trapWith_bind]
  refine .ite (fun _ => .trapWith _ _) fun _ => .ite (fun _ => .trapWith _ _) fun _ => .ite (fun _ => .trapWith _ _) fun _ =>
    (Keeps.destReady _ _).bind fun _ => .get fun s h => (Keeps.set (h.migrate _ _ _)).bind fun _ => ?_
  split
  · exact .writeS _ _
  · exact .throw _

theorem nextOk_execSinval : NextOk (execSinval x s) :=
  nextOk_issueBrim ((Keeps.readBase _).bind fun _ => (Keeps.readBase _).bind fun _ => .get fun _ _ =>
    (Keeps.waitUnless _ _).bind fun _ => .modifyState fun _ h => h.shootDown _ _ _) _ _ h

end

/-! ## The events of the engines (07 R239-R247, R257) -/

section

variable {s : State} (h : s.MemOk)

include h

theorem nextOk_ctxEvent (eng n : Nat) {f : StreamCtx → State} (hf : ∀ c, (f c).MemOk) : NextOk (ctxEvent eng n s f) := by
  unfold ctxEvent
  grind [NextOk.next, NextOk.fault]

theorem nextOk_execStreamItemRead (eng ctx : Nat) : NextOk (execStreamItemRead eng ctx s) := by
  refine nextOk_ctxEvent h eng ctx fun c => ?_
  have hread := h.streamRead eng ctx c
  grind [State.MemOk.streamDeliver]

theorem nextOk_execStreamItemWrite (eng ctx : Nat) : NextOk (execStreamItemWrite eng ctx s) := by
  refine nextOk_ctxEvent h eng ctx fun c => ?_
  split
  · exact h.streamWrite _ _ _
  · exact h

theorem nextOk_execStreamEnd (eng ctx : Nat) : NextOk (execStreamEnd eng ctx s) := by
  refine nextOk_ctxEvent h eng ctx fun c => ?_
  grind [State.MemOk.streamFinish]

theorem nextOk_execCompletionTokenArrival (lid : Nat) : NextOk (execCompletionTokenArrival lid s) := by
  unfold execCompletionTokenArrival
  split
  · exact .fault _
  · split
    · exact .next (State.MemOk.setCore (s := { s with tokens := _ }) h (h.core lid))
    · exact .next h

theorem nextOk_execWalkRetry (site : WalkSite) : NextOk (execWalkRetry site s) := by
  unfold execWalkRetry
  split
  · refine nextOk_ctxEvent h _ _ fun c => ?_
    grind [State.MemOk.streamRetry]
  · grind [NextOk.next, NextOk.fault, State.MemOk.scalarRetry]

theorem nextOk_execEngineSleep (eng : Nat) : NextOk (execEngineSleep eng s) := by
  unfold execEngineSleep
  grind [NextOk.next, NextOk.fault, State.MemOk.setBrim]

theorem nextOk_execEngineWake (eng : Nat) : NextOk (execEngineWake eng s) := by
  unfold execEngineWake
  grind [NextOk.next, NextOk.fault, State.MemOk.setBrim]

end

end Sys2Proof.Machine
end

section
/-! PROOFS. The canonical form of the memories through the tensor unit. -/

namespace Sys2Proof.Machine

open Sys2Proof

/-! ## Operands, steps and tiles (09 R300-R325) -/

theorem Keeps.modT (f : Tensor → Tensor) : Keeps (modT f) := .modMe fun _ h => by simpa using h

theorem Keeps.needWords (lo n : Nat) : Keeps (needWords lo n) := by
  have := keeps_rules
  unfold Machine.needWords
  grind

theorem Keeps.needAcc (tile : Nat) : Keeps (needAcc tile) := .needWords _ _

theorem Keeps.needHalf (tile h : Nat) : Keeps (needHalf tile h) := .needWords _ _

theorem Keeps.tensorRange (a : Word) (n : Nat) : Keeps (tensorRange a n) := by
  have := keeps_rules
  unfold Machine.tensorRange
  simp only [trapWith_bind]
  grind

theorem Keeps.tensorLoc (a : Word) (n : Nat) : Keeps (tensorLoc a n) :=
  (Keeps.tensorRange _ _).bind fun _ => (Keeps.bankGate _).bind fun _ => (Keeps.bankGate _).bind fun _ => .pure _

theorem Keeps.locSpan (a n : Nat) (val : Word) : Keeps (locSpan a n val) :=
  (Keeps.mapM (fun _ => .locLoad _ _ _) _).bind fun _ => .pure _

theorem Keeps.locBlock (a kind b : Nat) (val : Word) : Keeps (locBlock a kind b val) :=
  (Keeps.locSpan _ _ _).bind fun _ => (Keeps.locSpan _ _ _).bind fun _ => .pure _

theorem Keeps.inStep (i : Nat) {x : Op Unit} (hx : Keeps x) : Keeps (inStep i x) := by
  refine hx.tryCatch fun e => ?_
  cases e <;> exact .throw _

theorem Keeps.runSteps (n : Nat) {step : Nat → Op Unit} (hstep : ∀ i, Keeps (step i)) : Keeps (runSteps n step) :=
  .get fun _ _ => Keeps.bind (.forIn fun i _ => ((hstep i).inStep i).bind fun _ => (Keeps.setProgress _).bind fun _ => .pure _)
    fun _ => .pure _

theorem Keeps.bxHead (n kind : Nat) : Keeps (bxHead n kind) :=
  (Keeps.headOf _).bind fun _ => (Keeps.checkData _ _).bind fun _ => (Keeps.checkFmt _ _ _).bind fun _ => .pure _

theorem Keeps.vectorBlock (r : BitVec 5) (kind sl : Nat) : Keeps (vectorBlock r kind sl) := by
  have := keeps_rules
  unfold Machine.vectorBlock
  simp only [trapWith_bind]
  grind

theorem Keeps.gangHead (kind : Nat) : Keeps (gangHead kind) := by
  have := keeps_rules
  unfold Machine.gangHead
  simp only [trapWith_bind]
  grind [Keeps.checkFmt]

theorem Keeps.popGang : Keeps popGang :=
  .modMe fun c h => by
    split
    · simpa using h
    · exact h

theorem Keeps.normTile (tile : Nat) (target : Int) : Keeps (normTile tile target) :=
  .getMe fun _ _ => (Keeps.modT _).bind fun _ => .raise _

theorem Keeps.checkBa40 (fs : List Flit) (n : Nat) : Keeps (checkBa40 fs n) := by
  have := keeps_rules
  refine Keeps.bind (.forIn fun f _ => (Keeps.checkData _ _).bind fun _ => (Keeps.checkFmt _ _ _).bind fun _ => .pure _) fun _ => ?_
  grind

/-! ## Gangs (09 R302-R320) -/

theorem State.MemOk.memberPoison {s : State} (h : s.MemOk) (i l addr : Nat) : (memberPoison i l addr s).MemOk :=
  (h.setCore (by simpa using h.core l)).takeTrap _ _ _ _ _

theorem State.MemOk.gangTraps {s : State} (h : s.MemOk) (val : Word) (others : List Nat) :
    (others.foldl (Machine.gangTrap val) s).MemOk := h.foldl (fun _ l h => h.gangTrap val l) others

theorem Keeps.gangBarrier (x : FormT) (w : Word) (cnt sl : Nat) : Keeps (gangBarrier x w cnt sl) := by
  have := keeps_rules
  unfold Machine.gangBarrier
  simp only [trapWith_bind, throw_bind]
  refine .ite (fun _ => .pure _) fun _ => .getMe fun _ _ => ?_
  refine .ite (fun _ => .trapWith _ _) fun _ => .ite (fun _ => .trapWith _ _) fun _ => (Keeps.modT _).bind fun _ =>
    .get fun s _ => .ite (fun _ => .throw _) fun _ => ?_
  split
  · exact .throw _
  · exact .ite (fun _ => .throw _) fun _ => .ite
      (fun _ => Keeps.bind (.modifyState fun _ h => h.gangTraps _ _) fun _ => (Keeps.modT _).bind fun _ => .trapWith _ _)
      fun _ => .pure _

theorem Keeps.headStep (others : List Nat) (i : Nat) {x : Op Unit} (hx : Keeps x) : Keeps (headStep others i x) := by
  refine hx.tryCatch fun e => ?_
  split
  · refine Keeps.bind (.modifyState fun s h => ?_) fun _ => (Keeps.modT _).bind fun _ => .throw _
    split
    · exact h
    · exact h.gangOthersTrap _ _
  · exact .throw _

theorem State.MemOk.gangSteps {s : State} (h : s.MemOk) (i : Nat) (a : ABlock) (others : List Nat) :
    (others.foldl (fun s l =>
      s.setCore l ((((s.core l).tensorStep ((s.core l).tensor.gangOp.getD 0) i a)).gangStepped i)) s).MemOk :=
  h.foldl (fun _ l h => h.setCore (by simpa using h.core l)) others

theorem State.MemOk.gangDones {s : State} (h : s.MemOk) (others : List Nat) :
    (others.foldl (fun s l => s.setCore l (s.core l).gangDone) s).MemOk :=
  h.foldl (fun _ l h => h.setCore (by simpa using h.core l)) others

theorem Keeps.tensorOp (w : Word) (n : Nat) (others : List Nat) {read : Nat → Op ABlock} {done : Nat → Op Unit}
    (hread : ∀ i, Keeps (read i)) (hdone : ∀ i, Keeps (done i)) : Keeps (tensorOp w n others read done) := by
  refine .get fun _ _ => Keeps.bind (.forIn fun i _ => Keeps.bind (.inStep i (.headStep others i (.get fun s h => ?_)))
    fun _ => (Keeps.setProgress _).bind fun _ => .pure _) fun _ =>
    Keeps.bind (.modifyState fun _ h => h.gangDones others) fun _ => .modT _
  have hstep (a : ABlock) : Keeps (do
      Machine.modMe fun c => c.tensorStep w i a
      modify fun s => others.foldl (fun s l =>
        let c := s.core l
        s.setCore l (((c.tensorStep (c.tensor.gangOp.getD 0) i a)).gangStepped i)) s
      done i) :=
    Keeps.bind (.modMe fun _ h => by simpa using h) fun _ => Keeps.bind (.modifyState fun _ h => h.gangSteps i a others) fun _ =>
      hdone i
  simp only [throw_bind, trapWith_bind]
  split
  · exact (Keeps.set (h.memberPoison _ _ _)).bind fun _ => .throw _
  · split
    · exact .trapWith _ _
    · exact (hread i).bind hstep

/-! ## Instructions -/

section

variable {s : State} (h : s.MemOk) (x : FormT)

include h

theorem nextOk_execTldb : NextOk (execTldb x s) :=
  ((Keeps.readBase _).bind fun _ => (Keeps.tensorLoc _ _).bind fun _ => (Keeps.mapM (fun _ => .locBlock _ _ _ _) _).bind fun _ =>
    .modT _).issueSeq _ h

theorem nextOk_execTldbq : NextOk (execTldbq x s) := by
  refine Keeps.issueSeq ((Keeps.runSteps _ fun i => (Keeps.bxHead _ _).bind fun f => (Keeps.modT _).bind fun _ => ?_).bind fun _ =>
    .modT _) _ h
  exact .ite (fun _ => .popHead _ _) fun _ => .pure _

theorem nextOk_execTmac : NextOk (execTmac x s) :=
  ((Keeps.gangBarrier _ _ _ _).bind fun _ => .tensorOp _ _ _
    (fun _ => .getMe fun _ _ => (Keeps.vectorBlock _ _ _).bind fun _ => .pure _) fun _ => .pure _).issueSeq _ h

theorem nextOk_execTmacq : NextOk (execTmacq x s) := by
  have := keeps_rules
  refine Keeps.issueSeq ((Keeps.gangBarrier _ _ _ _).bind fun _ => .tensorOp _ _ _ (fun i => ?_) fun i => ?_) _ h
  · grind [Keeps.gangHead, Keeps.bxHead]
  · grind [Keeps.popGang, Keeps.popHead]

theorem nextOk_execTmacl : NextOk (execTmacl x s) := by
  have hop (a : Nat) (v : Word) : Keeps (do
      let others ← gangBarrier x (x.word 0x94) (tCnt x) 0
      tensorOp (x.word 0x94) (tCnt x) others
        (fun i => do return { kind := x.af.toNat, tec := (← getMe).tec, block := ← locBlock a x.af.toNat i v })
        (fun _ => pure ())) :=
    (Keeps.gangBarrier _ _ _ _).bind fun _ => .tensorOp _ _ _
      (fun _ => .getMe fun _ _ => (Keeps.locBlock _ _ _ _).bind fun _ => .pure _) fun _ => .pure _
  refine Keeps.issueSeq (.getMe fun c _ => (Keeps.readBase _).bind fun v => ?_) _ h
  exact .ite (fun _ => (Keeps.pure _).bind fun a => hop a v) fun _ => (Keeps.tensorRange _ _).bind fun a => hop a v

theorem nextOk_execTgang : NextOk (execTgang x s) := by
  have := keeps_rules
  refine Keeps.issueSeq (.getMe fun c _ => ?_) _ h
  simp only [trapWith_bind, throw_bind]
  refine .ite (fun _ => .trapWith _ _) fun _ => .ite (fun _ => .modT _) fun _ => .get fun _ _ => (Keeps.modT _).bind fun _ =>
    .get fun s h => ?_
  split
  · exact .throw _
  · refine .ite (fun _ => .throw _) fun _ => .set (h.foldl (fun s q h => h.setCore ?_) _)
    have := h.core q.2
    split <;> simpa using this

theorem nextOk_execTclr : NextOk (execTclr x s) := (Keeps.modT _).issueSeq _ h

theorem nextOk_execTadd : NextOk (execTadd x s) :=
  ((Keeps.needAcc _).bind fun _ => (Keeps.needAcc _).bind fun _ => .getMe fun _ _ => (Keeps.modT _).bind fun _ =>
    .raise _).issueSeq _ h

theorem nextOk_execTnorm : NextOk (execTnorm x s) := by
  have := keeps_rules
  refine Keeps.issueSeq ?_ _ h
  simp only [trapWith_bind]
  grind [Keeps.needAcc, Keeps.readS, Keeps.normTile]

theorem nextOk_execTnormMax : NextOk (execTnormMax x s) := by
  have := keeps_rules
  refine Keeps.issueSeq ?_ _ h
  grind [Keeps.needAcc, Keeps.normTile]

theorem nextOk_execTmovTt : NextOk (execTmovTt x s) :=
  (Keeps.runSteps _ fun _ => (Keeps.needHalf _ _).bind fun _ => .modT _).issueSeq _ h

theorem nextOk_execTmovOut : NextOk (execTmovOut x s) :=
  (Keeps.runSteps _ fun _ => (Keeps.needHalf _ _).bind fun _ => .getMe fun _ _ => (Keeps.checkTag _).bind fun _ =>
    (Keeps.waitRoom _).bind fun _ => .getMe fun _ _ => .pushFlits _).issueSeq _ h

theorem nextOk_execTmovIn : NextOk (execTmovIn x s) :=
  (Keeps.runSteps _ fun _ => .getMe fun _ _ => (Keeps.waitUnless _ _).bind fun _ => (Keeps.checkBa40 _ _).bind fun _ =>
    Keeps.bind (.forIn fun _ _ => (Keeps.popHead _ _).bind fun _ => .pure _) fun _ => .modT _).issueSeq _ h

theorem nextOk_execTsta : NextOk (execTsta x s) := by
  have := keeps_rules
  refine Keeps.issueSeq ((Keeps.readBase _).bind fun _ => (Keeps.tensorLoc _ _).bind fun _ => (Keeps.needAcc _).bind fun _ =>
    .getMe fun _ _ => .get fun _ _ => Keeps.bind (.forIn fun k _ => ?_) fun _ => .pure _) _ h
  simp only [throw_bind]
  grind [Keeps.locStore]

theorem nextOk_execTlda : NextOk (execTlda x s) :=
  ((Keeps.readBase _).bind fun _ => (Keeps.tensorLoc _ _).bind fun _ => (Keeps.mapM (fun _ => .locLoad _ _ _) _).bind fun _ =>
    .modT _).issueSeq _ h

theorem nextOk_execTout : NextOk (execTout x s) := by
  refine Keeps.issueSeq (Keeps.bind (.forIn fun _ _ => (Keeps.needHalf _ _).bind fun _ => .pure _) fun _ => .getMe fun c _ => ?_) _ h
  exact .ite (fun _ => (Keeps.raise _).bind fun _ => .modMe fun _ h => h) fun _ => (Keeps.destReady _ _).bind fun _ =>
    (Keeps.raise _).bind fun _ => .getMe fun _ _ => .pushFlits _

theorem nextOk_execTexp : NextOk (execTexp x s) :=
  ((Keeps.needAcc _).bind fun _ => .getMe fun _ _ => .writeS _ _).issueSeq _ h

end

end Sys2Proof.Machine
end

section
/-! PROOFS. The canonical form of the memories through the lattice. -/

namespace Sys2Proof.Machine

open Sys2Proof

/-! ## Images and blocks (10 R326-R347) -/

theorem Keeps.modL (f : Lattice → Lattice) : Keeps (modL f) := .modMe fun _ h => h

theorem Keeps.checkImageWord (g : GraphSpec) (header : Word) (k : Nat) (w : Word) : Keeps (checkImageWord g header k w) := by
  refine .getMe fun c _ => ?_
  dsimp only
  split
  · exact (Keeps.modL _).bind fun _ => .trapWith _ _
  · exact .pure _

theorem Keeps.checkImage (g : GraphSpec) (words : List Word) : Keeps (checkImage g words) :=
  Keeps.bind (.forIn fun _ _ => (Keeps.checkImageWord _ _ _ _).bind fun _ => .pure _) fun _ => .pure _

theorem Keeps.wordFlit (n : Nat) : Keeps (wordFlit n) :=
  (Keeps.headOf _).bind fun _ => (Keeps.checkData _ _).bind fun _ => (Keeps.checkFmt _ _ _).bind fun _ => .pure _

theorem Keeps.takeWords (g : GraphSpec) (ws : List Word) : Keeps (takeWords g ws) := by
  induction ws with
  | nil => exact .pure _
  | cons w ws ih =>
    exact .getMe fun _ _ => .ite (fun _ => (Keeps.modL _).bind fun _ => (Keeps.checkImageWord _ _ _ _).bind fun _ => ih)
      fun _ => .pure _

theorem Keeps.lglqFlit (g : GraphSpec) (n : Nat) : Keeps (lglqFlit g n) := by
  refine .inStep _ (Keeps.bind ((Keeps.wordFlit n).tryCatch fun e => ?_) fun f => (Keeps.popHead _ _).bind fun _ => .takeWords _ _)
  split
  · exact (Keeps.modL _).bind fun _ => .throw _
  · exact .throw _

theorem Keeps.latticeTrap {α : Type} (reason pg : Nat) : Keeps (latticeTrap reason pg : Op α) := .trapWith _ _

@[simp] theorem latticeTrap_bind {α β : Type} (reason pg : Nat) (f : α → Op β) :
    ((latticeTrap reason pg : Op α) >>= f) = latticeTrap reason pg := rfl

theorem Keeps.needGraph (pg : Nat) : Keeps (needGraph pg) :=
  .getMe fun _ _ => .ite (fun _ => .latticeTrap _ _) fun _ => .pure _

theorem Keeps.sinkTag (d : Nat) : Keeps (sinkTag d) :=
  .ite (fun _ => .getMe fun _ _ => .checkTag _) fun _ => .pure _

theorem Keeps.latticeBlock (x : FormL) (b : BxBlock) (exc : Bool) : Keeps (latticeBlock x b exc) := by
  refine .getMe fun c _ => ?_
  extract_lets _ d _ _ _ _ _ _ run inRange clean
  have hrun (u : Unit) : Keeps (run u) :=
    .ite (fun _ => (Keeps.pushFlits _).bind fun _ => .modL _) fun _ => (Keeps.modT _).bind fun _ => .raise _
  have hinRange (u : Unit) : Keeps (inRange u) := by
    unfold inRange
    split
    · exact .trapWith _ _
    · exact hrun ()
  have hclean (u : Unit) : Keeps (clean u) := by
    unfold clean
    split
    · exact .trapWith _ _
    · exact hinRange ()
  exact .ite (fun _ => (Keeps.waitRoom _).bind hclean) fun _ => (Keeps.needAcc _).bind hclean

theorem Keeps.blockRan (x : FormL) (b : BxBlock) : Keeps (blockRan x b) :=
  .getMe fun _ _ => (Keeps.modL _).bind fun _ => .raise _

theorem Keeps.pushRest : Keeps pushRest :=
  .getMe fun _ _ => .ite (fun _ => (Keeps.waitRoom _).bind fun _ => .getMe fun _ _ => (Keeps.pushFlits _).bind fun _ => .modL _)
    fun _ => .pure _

theorem Keeps.latticeHead (kind : Nat) : Keeps (latticeHead kind) := by
  have := keeps_rules
  unfold Machine.latticeHead
  simp only [trapWith_bind]
  grind [Keeps.checkFmt]

theorem Keeps.popLattice : Keeps popLattice :=
  .modMe fun c h => by
    split
    · simpa using h
    · exact h

theorem Keeps.lrunPop (x : FormL) (kind i : Nat) : Keeps (lrunPop x kind i) :=
  .ite (fun _ => .ite (fun _ => .popLattice) fun _ => .popHead _ _) fun _ => .pure _

theorem Keeps.blockStep (x : FormL) (b : BxBlock) (exc : Bool) : Keeps (blockStep x b exc) := by
  have hend : Keeps (do
      Machine.pushRest
      Machine.blockRan x b) := Keeps.pushRest.bind fun _ => .blockRan _ _
  exact .getMe fun _ _ => .ite (fun _ => (Keeps.latticeBlock _ _ _).bind fun _ => hend) fun _ => hend

theorem Keeps.lrunStep (x : FormL) (i : Nat) : Keeps (lrunStep x i) := by
  refine (Keeps.needGraph _).bind fun _ => .getMe fun c _ => ?_
  have hend (f : Flit) : Keeps (do
      Machine.blockStep x (stepBlock (lgdKind (c.lattice.graph x.pg.toNat)) i f) f.exc
      Machine.lrunPop x (lgdKind (c.lattice.graph x.pg.toNat)) i) := (Keeps.blockStep _ _ _).bind fun _ => .lrunPop _ _ _
  exact .ite (fun _ => (Keeps.latticeHead _).bind hend) fun _ => (Keeps.bxHead _ _).bind hend

theorem Keeps.lrunvStep (x : FormL) : Keeps (lrunvStep x) :=
  .getMe fun _ _ => (Keeps.vectorBlock _ _ _).bind fun _ => .blockStep _ _ _

theorem Keeps.finishBlock (i : Instr) : Keeps (finishBlock i) := by
  unfold Machine.finishBlock
  split
  · exact .get fun _ _ => (Keeps.lrunStep _ _).bind fun _ => .setProgress _
  · exact (Keeps.lrunvStep _).bind fun _ => .setProgress _
  · exact .pure _

theorem State.MemOk.finishLattice {s : State} (h : s.MemOk) (lid : Nat) : SomeOk (s.finishLattice lid) := by
  unfold State.finishLattice
  dsimp only
  split
  · exact .some h
  · split
    · next t e =>
      obtain ⟨i, _, e⟩ := Option.map_eq_some_iff.mp e
      have ht := Keeps.finishBlock i { s with cur := lid, inRpt := (s.core lid).rpt.isSome } h
      rw [EStateM.run] at e
      rw [e] at ht
      exact .some ht
    · exact .none

theorem Keeps.streamPushed : Keeps streamPushed := .getMe fun _ _ => .waitUnless _ _

theorem Keeps.freeGraphs (pg : Nat) (gs : List Nat) : Keeps (freeGraphs pg gs) :=
  .get fun _ _ => .ite (fun _ => .latticeTrap _ _) fun _ => .modL _

/-! ## Instructions -/

section

variable {s : State} (h : s.MemOk) (x : FormL)

include h

theorem nextOk_execLgl : NextOk (execLgl x s) :=
  ((Keeps.readBase _).bind fun _ => (Keeps.tensorLoc _ _).bind fun _ => Keeps.bind ((Keeps.locLoad _ _ _).bind fun _ => .pure _)
    fun _ => (Keeps.tensorLoc _ _).bind fun _ => Keeps.bind (.mapM (fun _ => (Keeps.locLoad _ _ _).bind fun _ => .pure _) _)
    fun _ => (Keeps.checkImage _ _).bind fun _ => .modL _).issueSeq _ h

theorem nextOk_execLglq : NextOk (execLglq x s) := by
  refine Keeps.issueSeq (Keeps.bind (.forIn fun _ _ => .getMe fun _ _ => ?_) fun _ => .modL _) _ h
  exact .ite (fun _ => (Keeps.lglqFlit _ _).bind fun _ => .getMe fun _ _ => (Keeps.setProgress _).bind fun _ => .pure _)
    fun _ => .pure _

theorem nextOk_execLrun : NextOk (execLrun x s) := by
  have htag : Keeps (Machine.sinkTag x.d.toNat) := .sinkTag _
  refine Keeps.issueSeq (.get fun _ _ => Keeps.bind (.inStep _ ?_) fun _ => .runSteps _ fun _ => .lrunStep _ _) _ h
  have := keeps_rules
  simp only [latticeTrap_bind]
  grind [Keeps.latticeTrap]

theorem nextOk_execLrunv : NextOk (execLrunv x s) := by
  refine Keeps.issueSeq ((Keeps.needGraph _).bind fun _ => .getMe fun _ _ => ?_) _ h
  exact .ite (fun _ => .trapWith _ _) fun _ => (Keeps.sinkTag _).bind fun _ => .runSteps _ fun _ => .lrunvStep _

theorem nextOk_execLsel : NextOk (execLsel x s) :=
  ((Keeps.needGraph _).bind fun _ => (Keeps.checkTag _).bind fun _ => Keeps.streamPushed.bind fun _ => .modL _).issueSeq _ h

theorem nextOk_execLselOff : NextOk (execLselOff x s) := (Keeps.streamPushed.bind fun _ => .modL _).issueSeq _ h

theorem nextOk_execLbound : NextOk (execLbound x s) := (Keeps.modL _).issueSeq _ h

theorem nextOk_execLstatSt : NextOk (execLstatSt x s) := by
  refine Keeps.issueSeq ((Keeps.destReady _ _).bind fun _ => .getMe fun _ _ => ?_) _ h
  exact .ite (fun _ => (Keeps.modL _).bind fun _ => .writeS _ _) fun _ => .writeS _ _

theorem nextOk_execLstatTap : NextOk (execLstatTap x s) := (Keeps.getMe fun _ _ => .writeS _ _).issueSeq _ h

theorem nextOk_execLstatExp : NextOk (execLstatExp x s) := (Keeps.getMe fun _ _ => .writeS _ _).issueSeq _ h

theorem nextOk_execLfree : NextOk (execLfree x s) := (Keeps.getMe fun _ _ => .freeGraphs _ _).issueSeq _ h

theorem nextOk_execLfreeAll : NextOk (execLfreeAll x s) := (Keeps.getMe fun _ _ => .freeGraphs _ _).issueSeq _ h

theorem nextOk_execLsum : NextOk (execLsum x s) := by
  refine Keeps.issueSeq ((Keeps.readBase _).bind fun _ => (Keeps.tensorLoc _ _).bind fun _ => (Keeps.needGraph _).bind fun _ =>
    (Keeps.destReady _ _).bind fun _ => .getMe fun _ _ => ?_) _ h
  dsimp only
  split
  · exact .trapWith _ _
  · exact Keeps.bind (.forIn fun _ _ => (Keeps.locStore _ _).bind fun _ => .pure _) fun _ => .writeS _ _

/-! ## The stream block (10 R348-R352) -/

theorem nextOk_execLatticeStreamBlock (lid : Nat) : NextOk (execLatticeStreamBlock lid s) := by
  have hset {c : Core} (hc : c.loc = (s.core lid).loc) : (s.setCore lid c).MemOk := h.setCore (by simpa [hc] using h.core lid)
  unfold execLatticeStreamBlock
  split
  · exact .fault _
  · extract_lets c sel
    split
    · exact .next h
    · split
      · extract_lets n
        refine .next ?_
        split
        · exact hset (by simp [c])
        · exact h
      · split
        · exact .next h
        · split
          · exact .next h
          · split
            · exact .next (hset (by simp [c]))
            · split
              · exact .next (h.freezeAt _ _)
              · exact .next (hset (by simp [c]))

end

end Sys2Proof.Machine
end

section
/-! PROOFS. The canonical form of the memories through the links, launches, messages and host queues. -/

namespace Sys2Proof.Machine

open Sys2Proof

/-! ## Collectives over the links (13 R402-R416) -/

namespace State.MemOk

variable {s : State}

theorem setColl (h : s.MemOk) (n : Nat) (c : Collective) : (s.setColl n c).MemOk := h

theorem sendHeader (h : s.MemOk) (port : Nat) (p : Packet) : (sendHeader s port p).MemOk := by
  unfold Machine.sendHeader
  split
  · exact h
  · exact (h.sendFrame _ _ _).setPort _ _

theorem sendChunk (h : s.MemOk) (p : Packet) (exc : Bool) (flags : BitVec 7) (final : Bool) (bytes : List Byte) :
    (sendChunk s p exc flags final bytes).MemOk := by
  unfold Machine.sendChunk
  split
  · exact h
  · exact (h.sendHeader _ _).foldl (fun _ b h => h.sendFrame _ _ b) _

theorem sendUnits (h : s.MemOk) (c : Collective) (route : List Hop) : (sendUnits s c route).MemOk := by
  unfold Machine.sendUnits
  extract_lets n t
  have ht : t.MemOk := h.foldl (fun _ _ h => h.sendChunk _ _ _ _ _) (List.range n)
  exact ht

theorem joinData (h : s.MemOk) (p : Packet) (hop : Hop) (b : BitVec 448) : (joinData s p hop b).MemOk := by
  unfold Machine.joinData
  dsimp only
  split <;> exact h

theorem collectiveUp (h : s.MemOk) (n : Nat) (c : Collective) (pairs : List (Nat × Nat × Nat)) :
    (collectiveUp s n c pairs).MemOk := by
  unfold Machine.collectiveUp
  dsimp only
  split
  · exact h
  · generalize (if c.combined = 0 then upRoute pairs 16 s.mg.rank.toNat else c.route) = route
    split
    · exact h
    · exact (h.setColl _ _).sendUnits _ _

theorem collectiveDown (h : s.MemOk) (n : Nat) (c : Collective) (pairs : List (Nat × Nat × Nat)) :
    (collectiveDown s n c pairs).MemOk := by
  unfold Machine.collectiveDown
  dsimp only
  generalize (if (parentOf pairs s.mg.rank.toNat).isNone = true then downRoutes pairs else []) = routes
  split
  · exact (h.setColl _ _).foldl (fun _ r h => h.sendUnits _ r) routes
  · exact h

theorem collectiveRead (h : s.MemOk) (n : Nat) (c : Collective) : (collectiveRead s n c).MemOk := by
  unfold Machine.collectiveRead
  split
  · exact h
  · split <;> exact h

theorem collectiveStep (h : s.MemOk) (n : Nat) (c : Collective) : (collectiveStep s n c).MemOk := by
  unfold Machine.collectiveStep
  grind [State.MemOk.collectiveRead, State.MemOk.setColl, State.MemOk.collectiveDown, State.MemOk.collectiveUp]

theorem writeResult (h : s.MemOk) (lid : Nat) (c : Collective) : (writeResult s lid c).MemOk := by
  unfold Machine.writeResult
  split
  · exact h
  · exact h.setCore (writeLoc_wf _ _ _ (h.core lid))

theorem endCollective (h : s.MemOk) (n : Nat) (c : Collective) (lid : Nat) : (endCollective s n c lid).MemOk := by
  unfold Machine.endCollective
  extract_lets t k u
  have ht : t.MemOk := by
    unfold t
    split
    · exact h
    · exact h.writeResult _ _
  have hu : u.MemOk := ht.setCore (ht.core lid)
  exact hu

end State.MemOk

section

variable {s : State} (h : s.MemOk)

include h

theorem nextOk_execCollectiveHeaderFrame (port : Nat) (fr : BitVec 512) : NextOk (execCollectiveHeaderFrame port fr s) := by
  unfold execCollectiveHeaderFrame
  extract_lets q waits
  split
  · exact .next h
  · refine nextOk_frameEvent h _ _ _ fun s b h => ?_
    split
    · next hop rest _ =>
      extract_lets p _ t
      have ht : t.MemOk := h.setPort _ _
      split
      · exact h
      · split
        · split
          · exact ht.sendHeader _ _
          · exact ht
        · exact ht
    · exact h

theorem nextOk_execCollectiveDataFrame (port : Nat) (fr : BitVec 512) : NextOk (execCollectiveDataFrame port fr s) := by
  unfold execCollectiveDataFrame
  extract_lets waits
  split
  · exact .next h
  · refine nextOk_frameEvent h _ _ _ fun s b h => ?_
    split
    · exact h
    · next p hop _ =>
      extract_lets t
      have ht : t.MemOk := by
        unfold t
        split
        · exact h
        · exact h.joinData _ _ _
      split
      · split
        · exact (ht.sendHeader _ _).sendFrame _ _ _
        · exact ht
      · exact ht

theorem nextOk_execCollectiveCombine (c : Nat) : NextOk (execCollectiveCombine c s) := by
  unfold execCollectiveCombine
  split
  · refine .next ?_
    split
    · exact h
    · exact h.collectiveStep _ _
  · exact .next h

theorem nextOk_execCollectiveComplete (c : Nat) : NextOk (execCollectiveComplete c s) := by
  unfold execCollectiveComplete
  split
  · split
    · refine .next ?_
      split
      · exact h.endCollective _ _ _
      · exact h
    · exact .next h
  · exact .next h

theorem nextOk_execCollectiveUnreachable (c : Nat) : NextOk (execCollectiveUnreachable c s) := by
  unfold execCollectiveUnreachable
  grind [NextOk.next, State.MemOk.setColl]

end

/-! ## lkgrp, lkcoll, lkwait and lkstat (13 R405, R415-R418) -/

theorem Keeps.collMisuse (k : Nat) (st : BitVec 2) : Keeps (collMisuse k st) := .trapWith _ _

@[simp] theorem collMisuse_bind {β : Type} (k : Nat) (st : BitVec 2) (f : Unit → Op β) :
    (collMisuse k st >>= f) = trapWith causeQueue (BitVec.ofNat 64 (2 ^ 21 + k * 2 ^ 8 + st.toNat)) := rfl

theorem Keeps.needEntry (ge : Nat) : Keeps (needEntry ge) :=
  .get fun _ _ => .ite (fun _ => .trapWith _ _) fun _ => .pure _

theorem Keeps.checkSpans (a b : Word) (ko fm n : Nat) : Keeps (checkSpans a b ko fm n) := by
  have := keeps_rules
  unfold Machine.checkSpans
  simp only [trapWith_bind]
  grind

theorem Keeps.freeSlotOf (k : Nat) : Keeps (freeSlotOf k) := .modMe fun _ h => h

section

variable {s : State} (h : s.MemOk) (x : FormK)

include h

theorem nextOk_execLkgrp : NextOk (execLkgrp x s) := by
  refine Keeps.issueSeq ((Keeps.readBase _).bind fun _ => Keeps.bind
    (.mapM (fun _ => (Keeps.ldlAt _ _).bind fun _ => .pure _) _) fun _ => .get fun s h => ?_) _ h
  exact .ite (fun _ => .trapWith _ _) fun _ => .ite (fun _ => .trapWith _ _) fun _ => (Keeps.destReady _ _).bind fun _ =>
    Keeps.bind (.modifyState fun _ h => h.setGeWords _ _ _) fun _ => .writeS _ _

theorem nextOk_execLkseq : NextOk (execLkseq x s) :=
  ((Keeps.needEntry _).bind fun _ => .get fun _ _ => .writeS _ _).issueSeq _ h

theorem nextOk_execLkseqSet : NextOk (execLkseqSet x s) := by
  refine Keeps.issueSeq ((Keeps.readBase _).bind fun _ => (Keeps.needEntry _).bind fun _ => .get fun s h => ?_) _ h
  exact .ite (fun _ => .trapWith _ _) fun _ => (Keeps.destReady _ _).bind fun _ =>
    Keeps.bind (.modifyState fun _ h => h.setGeWords _ _ _) fun _ => .writeS _ _

theorem nextOk_collOp (i : Instr) : NextOk (collOp i x s) := by
  refine Keeps.issueSeq ((Keeps.readBase _).bind fun a => (Keeps.readBase _).bind fun b => (Keeps.readBase _).bind fun c =>
    .getMe fun m _ => ?_) i h
  extract_lets slot n _ prepare inRange valid
  have hprepare (u : Unit) : Keeps (prepare u) := by
    refine (Keeps.needEntry _).bind fun job => .get fun s h => ?_
    extract_lets w16 seq read units exc coll start performed clean
    have hstart (u : Unit) : Keeps (start u) :=
      (Keeps.set ((h.setGeWords _ _ _).setColl _ _)).bind fun _ => .modMe fun _ h => h
    have hperformed (u : Unit) : Keeps (performed u) :=
      .ite (fun _ => (Keeps.waitUnless _ _).bind hstart) fun _ => hstart ()
    have hclean (u : Unit) : Keeps (clean u) := .ite (fun _ => .trapWith _ _) fun _ => hperformed ()
    exact .ite (fun _ => .trapWith _ _) fun _ => hclean ()
  have hinRange (u : Unit) : Keeps (inRange u) :=
    .ite (fun _ => .ite (fun _ => .trapWith _ _) fun _ => hprepare ()) fun _ => (Keeps.checkSpans _ _ _ _ _).bind hprepare
  have hvalid (u : Unit) : Keeps (valid u) := .ite (fun _ => .trapWith _ _) fun _ => hinRange ()
  exact .ite (fun _ => .trapWith _ _) fun _ => hvalid ()

theorem nextOk_execLkwait : NextOk (execLkwait x s) := by
  have := keeps_rules
  refine Keeps.issueSeq (.getMe fun c _ => ?_) _ h
  simp only [collMisuse_bind]
  refine .ite (fun _ => .trapWith _ _) fun _ => (Keeps.waitUnless _ _).bind fun _ => ?_
  refine .ite (fun _ => (Keeps.freeSlotOf _).bind fun _ => .trapWith _ _) fun _ => (Keeps.destReady _ _).bind fun _ =>
    (Keeps.freeSlotOf _).bind fun _ => (Keeps.writeS _ _).bind fun _ => Keeps.bind (.modMe fun _ h => h) fun _ => .acquire

theorem nextOk_execLkstatSlot : NextOk (execLkstatSlot x s) := (Keeps.getMe fun _ _ => .writeS _ _).issueSeq _ h

theorem nextOk_execLkstatPort : NextOk (execLkstatPort x s) :=
  ((Keeps.readBase _).bind fun _ => .ite (fun _ => .trapWith _ _) fun _ => .get fun _ _ => .writeS _ _).issueSeq _ h

end

/-! ## Launches (14 R428-R433) -/

namespace State.MemOk

variable {s : State}

theorem takeEntry (h : s.MemOk) (q : Nat) : (s.takeEntry q).MemOk := h

theorem badEntry (h : s.MemOk) (q : Nat) (e : QueueEntry) : (badEntry s q e).MemOk := h

theorem addJob (h : s.MemOk) (tag q : Nat) (w : Walked) : (s.addJob tag q w).MemOk := by
  refine (h.withRegions (rs := s.regions ++ _) fun r hr => ?_ : State.MemOk { s with regions := s.regions ++ _ })
  rcases List.mem_append.mp hr with hr | hr
  · exact h.saved hr
  · obtain ⟨k, hk, rfl⟩ := List.mem_mapIdx.mp hr
    exact Region.savedOk_nil rfl

theorem launchJob (h : s.MemOk) (q : Nat) (e : QueueEntry) : (launchJob q s e).MemOk := by
  unfold Machine.launchJob
  split
  · exact h
  · split
    · exact h
    · exact (h.addJob _ _ _).post _ _ _

end State.MemOk

section

variable {s : State} (h : s.MemOk)

include h

theorem nextOk_queueEvent (ty q : Nat) {act : State → QueueEntry → State} (hact : ∀ (t : State) e, t.MemOk → (act t e).MemOk) :
    NextOk (queueEvent ty q s act) := by
  unfold queueEvent
  grind [NextOk.next, NextOk.fault, State.MemOk.takeEntry, State.MemOk.badEntry]

theorem nextOk_execLaunch (q : Nat) : NextOk (execLaunch q s) := nextOk_queueEvent h 1 q fun _ e h => h.launchJob q e

end

/-! ## Queues and routers (08 R265-R299) -/

theorem Keeps.modRt (f : Router → Router) : Keeps (modRt f) := .modMe fun _ h => h

theorem Keeps.sendRelease (x : FormQ) : Keeps (sendRelease x) := .ite (fun _ => .releaseAt _) fun _ => .pure _

theorem Keeps.writeEntry {s : State} (h : s.MemOk) (t : Nat) (e : Word) : Keeps (writeEntry s t e) := by
  have := keeps_rules
  unfold Machine.writeEntry
  simp only [throw_bind, trapWith_bind]
  grind [Keeps.modRt]

theorem State.MemOk.reportPassage {s : State} (h : s.MemOk) (c : Nat) : (reportPassage c s).MemOk := by
  unfold Machine.reportPassage
  split
  · next r e =>
    have hr : r.SavedOk := h.regionOf_savedOk e
    dsimp only
    split
    · exact h
    · exact h.setRegion (by exact hr)
  · exact h

section

variable {s : State} (h : s.MemOk) (x : FormQ)

include h

theorem nextOk_execSendw2 : NextOk (execSendw2 x s) :=
  ((Keeps.readS _).bind fun _ => (Keeps.readS _).bind fun _ => (Keeps.readS _).bind fun _ => (Keeps.checkTag _).bind fun _ =>
    (Keeps.sendRelease _).bind fun _ => (Keeps.waitRoom _).bind fun _ => .getMe fun _ _ => .pushFlits _).issueSeq _ h

theorem nextOk_execSendm : NextOk (execSendm x s) :=
  ((Keeps.readS _).bind fun _ => (Keeps.readS _).bind fun _ => Keeps.bind
    (.mapM (fun _ => (Keeps.ldlAt _ _).bind fun _ => .pure _) _) fun _ => (Keeps.checkTag _).bind fun _ =>
    (Keeps.sendRelease _).bind fun _ => (Keeps.waitRoom _).bind fun _ => .getMe fun _ _ => .pushFlits _).issueSeq _ h

theorem nextOk_execQflush : NextOk (execQflush x s) :=
  ((Keeps.destReady _ _).bind fun _ => .getMe fun _ _ => Keeps.bind (.modMe fun _ h => by simpa using h) fun _ =>
    .writeS _ _).issueSeq _ h

theorem nextOk_execQpeek : NextOk (execQpeek x s) := (Keeps.getMe fun _ _ => .writeS _ _).issueSeq _ h

theorem nextOk_execQstat : NextOk (execQstat x s) := (Keeps.getMe fun _ _ => .writeS _ _).issueSeq _ h

theorem nextOk_execQdrop : NextOk (execQdrop x s) := by
  refine Keeps.issueSeq ((Keeps.headOf _).bind fun f => (Keeps.destReady _ _).bind fun _ => .getMe fun _ _ =>
    (Keeps.popHead _ _).bind fun _ => ?_) _ h
  exact .ite (fun _ => Keeps.bind (.modMe fun _ h => h) fun _ => .writeS _ _) fun _ => .writeS _ _

theorem nextOk_execRtget : NextOk (execRtget x s) := (Keeps.getMe fun _ _ => .writeS _ _).issueSeq _ h

theorem nextOk_execRtset : NextOk (execRtset x s) :=
  (Keeps.get fun _ h => (Keeps.readS _).bind fun _ => .writeEntry h _ _).issueSeq _ h

theorem nextOk_execDmqset : NextOk (execDmqset x s) :=
  (Keeps.get fun _ h => .getMe fun _ _ => .writeEntry h _ _).issueSeq _ h

theorem nextOk_execTagset : NextOk (execTagset x s) := (Keeps.modRt _).issueSeq _ h

theorem nextOk_execExcq : NextOk (execExcq x s) := (Keeps.getMe fun _ _ => .writeS _ _).issueSeq _ h

theorem nextOk_execExcqClr : NextOk (execExcqClr x s) :=
  ((Keeps.destReady _ _).bind fun _ => .getMe fun _ _ => (Keeps.modRt _).bind fun _ => .writeS _ _).issueSeq _ h

theorem nextOk_drainOp (i : Instr) (onward : Bool) : NextOk (drainOp i x onward s) := by
  refine Keeps.issueSeq ((Keeps.headOf _).bind fun f => .getMe fun c _ => ?_) i h
  have hend : Keeps (do
      destReady x.d 1
      popHead x.qn.toNat 0
      writeS x.d (BitVec.ofNat 64 (bitsOf f.payload 0 32))
      modify (reportPassage (bitsOf f.payload 0 128))
      if onward then
        pushFlits [mkFlit 15 3 ((← getMe).fpFlagsRead.getLsbD 6) (x.rl == 1) 0 0 0 x.tag f.payload]) :=
    (Keeps.destReady _ _).bind fun _ => (Keeps.popHead _ _).bind fun _ => (Keeps.writeS _ _).bind fun _ =>
      Keeps.bind (.modifyState fun _ h => h.reportPassage _) fun _ =>
      .ite (fun _ => .getMe fun _ _ => .pushFlits _) fun _ => .pure _
  exact .ite (fun _ => .trapWith _ _) fun _ => .ite (fun _ => .trapWith _ _) fun _ =>
    .ite (fun _ => (Keeps.checkTag _).bind fun _ => (Keeps.sendRelease _).bind fun _ => (Keeps.waitRoom _).bind fun _ => hend)
      fun _ => hend

theorem nextOk_execBankpass : NextOk (execBankpass x s) :=
  ((Keeps.checkTag _).bind fun _ => (Keeps.sendRelease _).bind fun _ => (Keeps.waitRoom _).bind fun _ => .get fun _ _ =>
    .pushFlits _).issueSeq _ h

end

/-! ## Host queues (14 R421-R426) -/

namespace State.MemOk

variable {s : State}

theorem dropJob (h : s.MemOk) (tag : Nat) : (s.dropJob tag).MemOk := by
  unfold State.dropJob
  exact (h.withRegions (rs := s.regions.filter (·.job != tag)) fun r hr => h.saved (List.mem_of_mem_filter hr) :
    State.MemOk { s with regions := s.regions.filter (·.job != tag) })

theorem afterRecord (h : s.MemOk) (p : Pending) : (afterRecord s p).MemOk := by
  unfold Machine.afterRecord
  split
  · exact h.dropJob _
  · exact h

theorem writeRecord (h : s.MemOk) (q : Nat) (p : Pending) : (writeRecord s q p).MemOk := by
  unfold Machine.writeRecord
  extract_lets k bytes t u v
  have ht : t.MemOk := h.withHostMem _ _
  have hu : u.MemOk := ht.setQueue _ _
  have hv : v.MemOk := by
    unfold v
    split
    · exact hu.raise _
    · exact hu
  exact hv.afterRecord _

end State.MemOk

section

variable {s : State} (h : s.MemOk)

include h

theorem nextOk_execCompletionRecordWrite (q : Nat) : NextOk (execCompletionRecordWrite q s) := by
  unfold execCompletionRecordWrite
  split
  · exact .fault _
  · dsimp only
    split
    · refine .next ?_
      split
      · exact h
      · exact h.writeRecord _ _
    · exact .next h

theorem nextOk_queueWrite (q : Nat) (f : Queue → Queue) : NextOk (queueWrite q s f) := by
  unfold queueWrite
  split
  · exact .fault _
  · exact .next h

theorem nextOk_execDoorbell (q : Nat) (val : BitVec 64) : NextOk (execDoorbell q val s) := nextOk_queueWrite h _ _

theorem nextOk_execWqcfgWrite (q : Nat) (val : BitVec 64) : NextOk (execWqcfgWrite q val s) := nextOk_queueWrite h _ _

theorem nextOk_execCqcfgWrite (q : Nat) (val : BitVec 64) : NextOk (execCqcfgWrite q val s) := nextOk_queueWrite h _ _

theorem nextOk_execCqctlWrite (q : Nat) (val : BitVec 64) : NextOk (execCqctlWrite q val s) := nextOk_queueWrite h _ _

theorem nextOk_execQstatClear (q : Nat) (val : BitVec 64) : NextOk (execQstatClear q val s) := nextOk_queueWrite h _ _

end

end Sys2Proof.Machine
end

section
/-! PROOFS. The canonical form of the memories through the life of a region: its end, its placement, its staging and its steps. -/

namespace Sys2Proof.Machine

open Sys2Proof

/-! ## Folds that may fail -/

/-- What each step of a fold keeps holds of its result. -/
theorem foldlM_some {α β : Type} {f : β → α → Option β} {P : β → Prop} (hf : ∀ b a, P b → ∀ b', f b a = some b' → P b') {b b' : β}
    (h : P b) {xs : List α} (e : xs.foldlM f b = some b') : P b' := by
  induction xs generalizing b with
  | nil => cases e; exact h
  | cons x xs ih =>
    rw [List.foldlM_cons] at e
    obtain ⟨c, hc, e⟩ := Option.bind_eq_some_iff.mp e
    exact ih (hf b x h c hc) e

theorem SomeOk.foldlM {α : Type} {f : State → α → Option State} (hf : ∀ s a, s.MemOk → SomeOk (f s a)) {s : State} (h : s.MemOk)
    (xs : List α) : SomeOk (xs.foldlM f s) := fun _ e => foldlM_some (fun s a h => hf s a h) h e

theorem SomeOk.ite {c : Prop} [Decidable c] {o p : Option State} (ho : c → SomeOk o) (hp : ¬c → SomeOk p) :
    SomeOk (if c then o else p) := by
  split
  · exact ho ‹_›
  · exact hp ‹_›

theorem SomeOk.map {o : Option State} (ho : SomeOk o) {f : State → State} (hf : ∀ s : State, s.MemOk → (f s).MemOk) :
    SomeOk (o.map f) := by
  intro t e
  obtain ⟨u, hu, rfl⟩ := Option.map_eq_some_iff.mp e
  exact hf u (ho u hu)

theorem SomeOk.or {o p : Option State} (ho : SomeOk o) (hp : SomeOk p) : SomeOk (o.or p) := by
  intro t e
  rcases Option.or_eq_some_iff.mp e with e | ⟨_, e⟩
  · exact ho t e
  · exact hp t e

/-! ## Endings (14 R422, R433-R436, R446; 11 R373) -/

namespace State.MemOk

variable {s : State}

theorem retireCore (h : s.MemOk) (lid : Nat) : (retireCore s lid).MemOk := by
  unfold Machine.retireCore
  extract_lets groups
  have hg : State.MemOk { s with retired := s.retired ++ [Retired.core lid], groups } := h
  exact hg.setCore (h.core lid)

theorem retireFree (h : s.MemOk) (lid : Nat) : (retireFree s lid).MemOk := by
  unfold Machine.retireFree
  split
  · exact h.retireCore lid
  · exact h

theorem retireLeft (h : s.MemOk) (lids : List Nat) : (s.retireLeft lids).MemOk := h.foldl (fun _ l h => h.retireFree l) lids

theorem closeContexts (h : s.MemOk) (r : Region) : (s.closeContexts r).MemOk := h

theorem vacate (h : s.MemOk) (r : Region) : (s.vacate r).MemOk := by
  unfold State.vacate
  extract_lets mine t transit u
  have ht : t.MemOk := h.foldl (fun s l h => h.setCore (by simpa using h.core l)) r.bind
  have hu : u.MemOk := ht.foldl (fun s l h => h.modRouter l _) transit
  exact (hu.closeContexts r).dropMigs r.bind

theorem endJob (h : s.MemOk) (tag : Nat) : (s.endJob tag).MemOk := by
  unfold State.endJob
  split
  · exact h
  · dsimp only
    split <;> exact h

theorem endRegion (h : s.MemOk) (r : Region) (status info : Nat) : (endRegion s r status info).MemOk := by
  unfold Machine.endRegion
  extract_lets e t u _ v
  have ht : t.MemOk := h.vacate r
  have hu : u.MemOk := ht
  have hv : v.MemOk := hu.setRegion (Region.savedOk_nil rfl)
  exact (((hv.retireLeft r.bind).reach _ _ _).endJob _).restartWaits s

theorem completeStop (h : s.MemOk) {r : Region} (hr : r.SavedOk) : (completeStop s r).MemOk := by
  unfold Machine.completeStop
  split
  · exact h.endRegion _ _ _
  · exact h.completeFreeze hr

theorem completeStops (h : s.MemOk) (ids : List Nat) : (completeStops s ids).MemOk := by
  refine h.foldl (fun s id h => ?_) ids
  split
  · next r e =>
    split
    · exact h.completeStop (h.find?_savedOk e)
    · exact h
  · exact h

theorem unload (h : s.MemOk) {r : Region} (hr : r.SavedOk) : (unload s r).MemOk := by
  unfold Machine.unload
  extract_lets back _ t
  have ht : t.MemOk := by
    unfold t
    split
    · exact (h.closeContexts r).setRegion (by exact hr)
    · exact ((h.vacate r).setRegion (by exact hr)).retireLeft _
  exact ht.reach _ _ _

theorem abortLoad (h : s.MemOk) {r : Region} (hr : r.SavedOk) : (abortLoad s r).MemOk := by
  unfold Machine.abortLoad
  split
  · exact h.endRegion _ _ _
  · split
    · exact h.setRegion (by exact hr)
    · exact h.unload (by exact hr)

/-! ## Placement (14 R429-R431; 07 R263; 08 R289) -/

theorem layRoutes (h : s.MemOk) (pl : Placement) : SomeOk (layRoutes s pl) := by
  refine SomeOk.foldlM (fun s p h => ?_) (h.foldl (fun s l h => h.modRouter l _) pl.bind) _
  dsimp only
  exact .ite (fun _ => .some (h.modRouter _ _)) fun _ => .none

theorem openOn (h : s.MemOk) (eng : Nat) (c : StreamCtx) : SomeOk (openOn eng s c) :=
  .bind fun _ _ => .ite (fun _ => .none) fun _ => .some ((h.setBrim _ _).setCtx _ _ _)

theorem openAll (h : s.MemOk) (cs : List StreamCtx) : SomeOk (openAll s cs) := .foldlM (fun _ c h => h.openOn _ c) h cs

theorem takeLink (h : s.MemOk) (j : Job) : (s.takeLink j).MemOk := by
  unfold State.takeLink
  dsimp only
  split
  · exact h
  · split <;> exact h

theorem placeBack (h : s.MemOk) {r : Region} (hr : r.SavedOk) (ports : List Nat) : SomeOk (placeBack s r ports) := by
  unfold Machine.placeBack
  refine .ite (fun _ => .none) fun _ => ?_
  refine .or ((h.setRegion (by exact hr)).openAll _) (.bind fun i _ => .ite (fun _ => ?_) fun _ => .none)
  exact State.MemOk.openAll (h.setRegion (by exact hr)) _

theorem noteMapped (h : s.MemOk) (key : MapKey) (out : Option Placement) : (s.noteMapped key out).MemOk := by
  unfold State.noteMapped
  split <;> exact h

theorem noteAnswer (h : s.MemOk) (key : MapKey) (pl : Placement) : (s.noteAnswer key pl).MemOk :=
  (h.noteMapped _ _).noteMapped _ _

theorem routedOn (h : s.MemOk) (j : Job) {r : Region} (hr : r.SavedOk) (pl : Placement) (i : Image) :
    SomeOk (routedOn s j r pl i) := by
  unfold Machine.routedOn
  refine .ite (fun _ => .bind fun t e => ?_) fun _ => .none
  have hlaid : (t.setRegion (r.bound pl)).MemOk := (h.layRoutes pl t e).setRegion (by exact hr)
  exact .ite (fun _ => .some hlaid) fun _ => .none

theorem placeOn (h : s.MemOk) (j : Job) {r : Region} (hr : r.SavedOk) (pl : Placement) (i : Image) :
    SomeOk (placeOn s j r pl i) :=
  .ite (fun _ => .none) fun _ => .bind fun t e => (h.routedOn j hr pl i t e).openAll _

theorem noteTried (h : s.MemOk) (tried : List Tried) : SomeOk (noteTried s tried) := by
  refine .foldlM (fun s x h => .bind fun r _ => .bind fun i _ => .bind fun key _ => .ite (fun _ => .none) fun _ => ?_) h tried
  split
  · exact .ite (fun _ => .some (h.noteAnswer _ _)) fun _ => .none
  · exact .ite (fun _ => .some (h.noteMapped _ _)) fun _ => .none

theorem placeAt (h : s.MemOk) (j : Job) {r : Region} (hr : r.SavedOk) (tried : List Tried) (pl : Placement) :
    SomeOk (placeAt s j r tried pl) := by
  unfold Machine.placeAt
  refine .bind fun i _ => .bind fun key _ => ?_
  exact .ite (fun _ => (h.placeOn j hr pl i).map fun _ h => h.noteAnswer _ _) fun _ => .none

theorem rewriteEntries (h : s.MemOk) (r : Region) : SomeOk (rewriteEntries s r) :=
  .foldlM (fun _ _ h => .foldlM (fun _ _ h => .ite (fun _ => .some (h.modRouter _ _)) fun _ => .none) h _) h r.saved

theorem restoreEntries (h : s.MemOk) (r : Region) : SomeOk (restoreEntries s r) := by
  refine .bind fun (t, used) e => .some ?_
  refine foldlM_some (P := fun p : State × List Site => p.1.MemOk) (fun (s, used) x h p e => ?_) h e
  dsimp only at e
  split at e
  · cases e
    exact State.MemOk.modRouter h _ _
  · contradiction

theorem holdAlong (h : s.MemOk) (left n lid place tag : Nat) : (holdAlong left n lid place tag s).MemOk := by
  induction n generalizing s lid place tag with
  | zero => exact h
  | succ n ih =>
    unfold Machine.holdAlong
    extract_lets e put t tag'
    have hput (o : Nat) {s : State} (h : s.MemOk) : (put o s).MemOk := h.modRouter _ _
    split
    · split
      · exact ih (hput _ h) _ _ _
      · exact hput _ h
    · refine h.foldl (fun s o h => ?_) _
      dsimp only
      generalize (if o < 4 then neighbour lid o else none) = next
      split
      · split
        · exact hput _ h
        · exact ih (hput _ h) _ _ _
      · exact hput _ h

theorem putFlit {r : Region} {x : SavedFlit} {lid place tag : Nat} {acc acc' : State × List (SavedFlit × Site × Nat × Nat)}
    (h : acc.1.MemOk) (e : putFlit r x lid place tag acc = some acc') : acc'.1.MemOk := by
  unfold Machine.putFlit at e
  dsimp only at e
  obtain ⟨_, e⟩ := Option.ite_none_right_eq_some.mp e
  cases e
  exact h.modRouter _ _

theorem placeFlits (h : s.MemOk) (r : Region) (pl : Placement) : SomeOk (placeFlits s r pl) := by
  unfold Machine.placeFlits
  refine .bind fun t e => .bind fun u e' => ?_
  have hu := (h.rewriteEntries r t e).restoreEntries r u e'
  refine .ite (fun _ => .none) fun _ => .bind fun (v, placed) ev => .some ?_
  have hv : v.MemOk := foldlM_some (P := fun p : State × List (SavedFlit × Site × Nat × Nat) => p.1.MemOk)
    (fun p x h q e => State.MemOk.putFlit h e) hu ev
  refine State.MemOk.foldl (fun s p h => ?_) (hv.foldl (fun s x h => ?_) placed) r.saved
  · dsimp only
    split
    · exact h.holdAlong _ _ _ _ _
    · exact h
  · dsimp only
    split
    · exact h
    · exact h.holdAlong _ _ _ _ _

theorem placeOne (h : s.MemOk) (j : Job) (tried : List Tried) (id : Nat) (pl : Placement) : SomeOk (placeOne s j tried id pl) := by
  refine .bind fun r e => ?_
  have hr : r.SavedOk := h.find?_savedOk e
  refine .ite (fun _ => .none) fun _ => .ite (fun _ => h.placeBack hr _) fun _ => .bind fun t e => ?_
  have ht := h.placeAt j hr tried pl t e
  exact .ite (fun _ => .bind fun q _ => ht.placeFlits q pl) fun _ => .some ht

theorem placeAll (h : s.MemOk) (j : Job) (unit : List Region) (tried : List Tried) (pls : List (Nat × Placement)) :
    SomeOk (placeAll s j unit tried pls) := by
  unfold Machine.placeAll
  refine .ite (fun _ => .bind fun t e => .bind fun u e' => .some ?_) fun _ => .none
  exact (SomeOk.foldlM (fun s p h => h.placeOne j tried p.1 p.2) (h.noteTried tried t e) pls u e').takeLink j

/-! ## Staging and commit (14 R433, R442) -/

theorem stageCore (h : s.MemOk) (r : Region) (i : Image) (lpg : Nat) (area : List Byte) (role lid : Nat) :
    Memory.wf (stageCore s r i lpg area role lid).loc = true := by
  have hc := h.core lid
  unfold Machine.stageCore
  dsimp only
  rw [bindSlots_loc]
  split
  · split
    · rw [Core.restore_loc]
      exact Core.withStores_wf _ _
    · exact hc
  · exact Core.loaded_wf _ _ _ _ hc

theorem restoreCells (h : s.MemOk) (r : Region) (area : List Byte) : (restoreCells s r area).MemOk := by
  refine h.foldl (fun s p h => ?_) r.savedCells
  split <;> exact h

theorem stageRegion (h : s.MemOk) {r : Region} (hr : r.SavedOk) : (stageRegion s r).MemOk := by
  unfold Machine.stageRegion
  extract_lets node lpg area
  split
  · next i area _ _ =>
    extract_lets t u
    have ht : t.MemOk := h.foldl (fun s p h => h.setCore (h.stageCore _ _ _ _ _ _)) _
    have hu : u.MemOk := by
      unfold u
      split
      · exact ht.restoreCells _ _
      · exact ht
    exact hu.setRegion (by exact hr)
  · exact h.abortLoad hr

theorem joinGroup (h : s.MemOk) (r : Region) (seq : BitVec 32) (g : GroupRec) : (joinGroup r seq s g).MemOk := by
  unfold Machine.joinGroup
  dsimp only
  split <;> exact h

theorem commitRegion (h : s.MemOk) (r : Region) : (commitRegion s r).MemOk := by
  unfold Machine.commitRegion
  extract_lets r' t
  have ht : t.MemOk := by
    unfold t
    split
    · exact h
    · exact h.foldl (fun s g h => h.joinGroup r 1 g) _
  exact (ht.setRegion (Region.savedOk_nil rfl)).reach _ _ _

theorem deliverEnded (h : s.MemOk) (lid : Nat) : (deliverEnded s lid).MemOk := by
  unfold Machine.deliverEnded
  split
  · exact h
  · exact h.foldl (fun _ (c : Nat × Collective) h => h.endCollective c.1 c.2 lid) _

/-! ## Configuration steps (14 R437, R438) -/

theorem regroup (h : s.MemOk) (r : Region) (gs : List GroupRec) : (regroup s r gs).MemOk := by
  unfold Machine.regroup
  extract_lets seqOf kept dropped seqs t
  have ht : t.MemOk := State.MemOk.foldl (s := { s with groups := dropped }) (fun s p h => h.joinGroup r p.2 p.1) h seqs
  exact ht

theorem vacateRoutes (h : s.MemOk) (r : Region) : (s.vacateRoutes r).MemOk := h.foldl (fun _ l h => h.modRouter l _) _

theorem stepEngines (h : s.MemOk) (r : Region) : (s.stepEngines r).MemOk := h

theorem stepCoreOf (h : s.MemOk) (i : Image) (r : Region) (old new role : Nat) :
    Memory.wf (stepCoreOf s i r old new role).loc = true := by
  unfold Machine.stepCoreOf
  extract_lets _ now c _ c' _
  have hc' : Memory.wf c'.loc = true := by
    unfold c'
    split <;> exact h.core old
  exact Core.stepped_wf i role hc'

theorem rebind_savedOk {feats : Nat} {r r' : Region} (hr : r.SavedOk) {k : Nat} (e : rebind s feats r k = some r') :
    r'.SavedOk := by
  induction k generalizing r' with
  | zero => cases e; exact hr
  | succ k ih =>
    unfold rebind at e
    obtain ⟨q, hq, e⟩ := Option.bind_eq_some_iff.mp e
    have hq := ih hq
    dsimp only at e
    split at e
    · obtain ⟨l, _, e⟩ := Option.bind_eq_some_iff.mp e
      cases e
      exact hq
    · cases e
      exact hq

theorem switchTo (h : s.MemOk) {r : Region} (hr : r.SavedOk) (i : Image) (pl : Placement) : SomeOk (switchTo s r i pl) := by
  unfold Machine.switchTo
  refine .bind fun new hnew => .bind fun key _ => .ite (fun _ => .none) fun _ => .bind fun s1 e1 => ?_
  have h1 : s1.MemOk := (h.vacateRoutes r).layRoutes pl s1 e1
  have hnew := rebind_savedOk hr hnew
  extract_lets cores s2 s2' s2'' r'
  have h2 : s2.MemOk := by
    unfold s2 cores
    rw [List.foldl_map]
    exact h1.foldl (fun s k h => h.setCore (h1.stepCoreOf _ _ _ _ _)) _
  have h2 : s2''.MemOk := (h2.noteMapped _ _).stepEngines r
  refine .ite (fun _ => .none) fun _ => .bind fun s3 e3 => .some ?_
  have h3 : s3.MemOk := (h2.setRegion (by exact hnew)).openAll _ s3 e3
  exact (h3.foldl (fun s l h => h.setCore (by simpa using h.core l)) _).regroup _ _

theorem beginDrain (h : s.MemOk) {r : Region} (hr : r.SavedOk) (k : Nat) : (beginDrain s r k).MemOk := by
  unfold Machine.beginDrain
  split
  · exact h.setRegion (by exact hr)
  · exact h

theorem stepRegion (h : s.MemOk) {r : Region} (hr : r.SavedOk) (pl : Option Placement) : (stepRegion s r pl).MemOk := by
  unfold Machine.stepRegion
  split
  · exact h.abortLoad hr
  · dsimp only
    split
    · split
      · exact h.endRegion _ _ _
      · split
        · exact (h.noteMapped _ _).endRegion _ _ _
        · exact h
    · exact h
    · split
      · exact h.endRegion _ _ _
      · exact (h.switchTo hr _ _).getD h
    · exact h.beginDrain (by exact hr) _

end State.MemOk

section

variable {s : State} (h : s.MemOk)

include h

theorem nextOk_execRegionPlace (rg : Nat) (pls : MapperAnswer) : NextOk (execRegionPlace rg pls s) := by
  unfold execRegionPlace
  split
  · exact .next h
  · split
    · exact .next h
    · dsimp only
      split
      · exact .next h
      · split
        · exact .next (h.endRegion _ _ _)
        · split
          · refine .next ?_
            split
            · exact (h.placeAll _ _ _ _).getD h
            · exact h
          · split
            · next t e =>
              refine .next ?_
              split
              · exact (h.noteTried _ t e).endRegion _ _ _
              · exact h
            · exact .next h

theorem nextOk_execStagingComplete (rg : Nat) : NextOk (execStagingComplete rg s) := by
  unfold execStagingComplete
  split
  · exact .next h
  · next r e =>
    split
    · exact .next (h.stageRegion (h.find?_savedOk e))
    · dsimp only
      split
      · exact .next ((h.foldl (fun s r h => h.commitRegion r) _).crownPending.restartWaits s)
      · exact .next h
    · exact .next h

theorem nextOk_execCommitTokenArrival (lid : Nat) : NextOk (execCommitTokenArrival lid s) := by
  unfold execCommitTokenArrival
  split
  · exact .fault _
  · split
    · next r e =>
      have hr := h.regionOf_savedOk e
      dsimp only
      split
      · exact .next ((((h.setRegion (by exact hr)).setCore (by exact h.core lid)).deliverEnded lid).refillRpt lid)
      · exact .next h
    · exact .next h

theorem nextOk_execLoadAbort (lid : Nat) : NextOk (execLoadAbort lid s) := by
  unfold execLoadAbort
  split
  · exact .fault _
  · split
    · next r e =>
      dsimp only
      split
      · exact .next ((h.setCore (by exact h.core lid)).abortLoad (h.regionOf_savedOk e))
      · exact .next h
    · exact .next h

theorem nextOk_execRegionComplete (rg : Nat) : NextOk (execRegionComplete rg s) := by
  unfold execRegionComplete
  grind [NextOk.next, State.MemOk.endRegion]

theorem nextOk_execDrainTokenPush (rg : Nat) : NextOk (execDrainTokenPush rg s) := by
  unfold execDrainTokenPush
  split
  · exact .next h
  · next r e =>
    have hr := h.find?_savedOk e
    split
    · split
      · next lid _ =>
        dsimp only
        split
        · exact .next ((h.setCore (by simpa using h.core lid)).setRegion (by exact hr))
        · exact .next h
      · exact .next h
    · exact .next h

theorem nextOk_execConfigStepSwitch (rg : Nat) (pl : Option Placement) : NextOk (execConfigStepSwitch rg pl s) := by
  unfold execConfigStepSwitch
  split
  · exact .next h
  · next r e =>
    refine .next ?_
    split
    · have hr : r.SavedOk := h.find?_savedOk e
      exact (h.stepRegion (by exact hr) pl).restartWaits s
    · exact h

end

end Sys2Proof.Machine
end

section
/-! PROOFS. The canonical form of the memories through queue entries, the save of a region, the wafer controller and boot. -/

namespace Sys2Proof.Machine

open Sys2Proof

/-! ## Queue entries (14 R422, R427, R428, R440, R442) -/

namespace State.MemOk

variable {s : State}

theorem foldl_mem {α : Type} {f : State → α → State} {xs : List α} (h : s.MemOk)
    (hf : ∀ s a, a ∈ xs → s.MemOk → (f s a).MemOk) : (xs.foldl f s).MemOk := by
  induction xs generalizing s with
  | nil => exact h
  | cons x xs ih => exact ih (hf s x List.mem_cons_self h) fun s a ha => hf s a (List.mem_cons_of_mem x ha)

theorem withMg (h : s.MemOk) (m : Mgmt) : { s with mg := m }.MemOk := h

theorem postDone (h : s.MemOk) (q tag : Nat) (g : RecGoal) (ids : List Nat) (froze : Option Nat) :
    (postDone s q tag g ids froze).MemOk := h

theorem preemptRegion (h : s.MemOk) (id : Nat) : (preemptRegion s id).MemOk := by
  unfold Machine.preemptRegion
  split
  · exact h
  · next r e =>
    have hr : r.SavedOk := h.find?_savedOk e
    split
    · exact h.beginDrain hr _
    · exact h.unload hr
    · exact h.unload hr
    · exact h

theorem preemptPart (h : s.MemOk) (q : Nat) (e : QueueEntry) : (preemptPart q s e).MemOk := by
  unfold Machine.preemptPart
  split
  · exact h
  · extract_lets mine t draining
    have ht : t.MemOk := h.foldl (fun _ id h => h.preemptRegion id) _
    exact (ht.postDone _ _ _ _ _).restartWaits s

theorem resumeJob (h : s.MemOk) (q : Nat) (e : QueueEntry) : (resumeJob q s e).MemOk := by
  unfold Machine.resumeJob
  split
  · exact h
  · extract_lets saved t
    have ht : t.MemOk := h.mapRegions fun r hr => by
      split
      · exact hr
      · exact hr
    exact ht.postDone _ _ _ _ _

theorem releaseJob (h : s.MemOk) (q : Nat) (e : QueueEntry) : (releaseJob q s e).MemOk := by
  unfold Machine.releaseJob
  split
  · exact h
  · exact (h.postDone _ _ _ _ _).foldl (fun _ r h => h.endRegion r _ _) _

theorem cancelJob (h : s.MemOk) (q : Nat) (e : QueueEntry) : (cancelJob q s e).MemOk := by
  unfold Machine.cancelJob
  extract_lets ended t u
  have hu : u.MemOk := h
  split
  · exact h
  · exact hu.foldl (fun s r h => h.endRegion (r.decided s 2) _ _) _

theorem invalidateJob (h : s.MemOk) (q : Nat) (e : QueueEntry) : (invalidateJob q s e).MemOk := by
  unfold Machine.invalidateJob
  split
  · exact h
  · exact (h.shootDown _ _ _).post _ _ _

/-! ## The page-fault time limit (07 R243) -/

theorem drainStream (h : s.MemOk) (eng n : Nat) (c : StreamCtx) : (drainStream s eng n c).MemOk := by
  unfold Machine.drainStream
  split
  · next r st e _ =>
    dsimp only
    split
    · exact ((h.setCtx _ _ _).beginDrain (h.regionOf_savedOk e) _).reportFault _ _
    · exact h
  · exact h

theorem drainScalar (h : s.MemOk) (lid : Nat) : (drainScalar s lid).MemOk := by
  unfold Machine.drainScalar
  split
  · next r x e _ =>
    split
    · extract_lets t
      have ht : t.MemOk := h
      exact (ht.beginDrain (h.regionOf_savedOk e) _).reportFault _ _
    · exact h
  · exact h

/-! ## The halt of a core and the save of its region (14 R440; 11 R372) -/

theorem withdrawFrom (h : s.MemOk) (lid ch n : Nat) : (withdrawFrom s lid ch n).MemOk := by
  unfold Machine.withdrawFrom
  split
  · extract_lets g c k c'
    have hc : Memory.wf c'.loc = true := by
      unfold c'
      split
      · simpa [c] using h.core lid
      · exact h.core lid
    exact State.MemOk.setCore (h.withGroups _) (by simpa using hc)
  · exact h

theorem withdrawOn (h : s.MemOk) (lid ch : Nat) : (withdrawOn s lid ch).1.MemOk := by
  unfold Machine.withdrawOn
  split
  · exact h.withdrawFrom _ _ _
  · split
    · split
      · exact h
      · dsimp only
        exact State.MemOk.sendCrown (h.withGroups _) _ _ _ _ _
    · exact h
  · exact h
  · exact h

theorem withdrawAll (h : s.MemOk) (lid : Nat) : (withdrawAll s lid).1.MemOk := by
  unfold Machine.withdrawAll
  suffices hfold : ∀ (chs : List Nat) (p : State × Bool), p.1.MemOk →
      (chs.foldl (fun p ch => ((Machine.withdrawOn p.1 lid ch).1, p.2 && (Machine.withdrawOn p.1 lid ch).2)) p).1.MemOk from
    hfold _ _ h
  intro chs
  induction chs with
  | nil => exact fun _ h => h
  | cons ch chs ih => exact fun p h => ih _ (h.withdrawOn lid ch)

theorem takeTokens (h : s.MemOk) (lid : Nat) : (takeTokens s lid).MemOk := by
  unfold Machine.takeTokens
  exact State.MemOk.setCore (s := { s with tokens := _ }) h (h.core lid)

theorem stopCore (h : s.MemOk) (lid : Nat) : (stopCore s lid).MemOk := by
  unfold Machine.stopCore
  extract_lets t c tensor router _
  have ht : t.MemOk := h.takeTokens lid
  refine State.MemOk.setCore (s := { t.dropMigs [lid] with scalarStalls := _ }) ht ?_
  show Memory.wf (t.core lid).haltRpt.loc = true
  simpa using ht.core lid

theorem saveRegion (h : s.MemOk) {r : Region} (hr : r.SavedOk) : (saveRegion s r).MemOk := by
  unfold Machine.saveRegion
  extract_lets r' t brims clusters
  have ht : t.MemOk := h.foldl (fun _ l h => h.takeTokens l) r.bind
  have hu : State.MemOk { t with brims, clusters } := ht
  exact (hu.setRegion (by exact hr)).reach _ _ _

/-! ## Eviction (14 R441) -/

theorem vaWriteSpan (h : s.MemOk) (root k va : Nat) (bytes : List Byte) : SomeOk (vaWriteSpan root k va bytes s) := by
  induction k generalizing s va bytes with
  | zero => exact .some h
  | succ k ih =>
    unfold Machine.vaWriteSpan
    exact .ite (fun _ => .some h) fun _ => .bind fun t e => ih (h.vaWrite _ _ _ t e) _ _

theorem evictFails (h : s.MemOk) {r : Region} (hr : r.SavedOk) (role : Nat) : (evictFails s r role).MemOk :=
  h.completeFreeze (by exact hr)

theorem evicted (h : s.MemOk) (r : Region) : (evicted s r).MemOk := by
  unfold Machine.evicted
  extract_lets saved cells
  refine ((h.vacate r).setRegion ?_).retireLeft _
  have hsaved : ∀ (ks : List Nat) (t : Table Core), (∀ p ∈ t, Memory.wf p.2.loc = true) →
      ∀ p ∈ ks.foldl (fun t k =>
        let c := s.core (r.bind.getD k 0)
        Table.put k { c with sb := c.sb.map (·.rehome r.roleOf) } t) t, Memory.wf p.2.loc = true := by
    intro ks
    induction ks with
    | nil => exact fun _ h => h
    | cons k ks ih =>
      refine fun t ht => ih _ fun p hp => ?_
      rcases Table.mem_put hp with rfl | hp
      · exact h.core _
      · exact ht p hp
  exact hsaved _ [] (by simp)

end State.MemOk

section

variable {s : State} (h : s.MemOk)

include h

theorem nextOk_whenDecided (q k : Nat) (rs : QueueEntry → List Region) {o : Host.Outcome State Fault Refusal} (ho : NextOk o) :
    NextOk (whenDecided q k s rs o) := by
  unfold whenDecided
  split
  · exact ho
  · exact .next h

theorem nextOk_execPreempt (q : Nat) : NextOk (execPreempt q s) :=
  nextOk_whenDecided h _ _ _ (nextOk_queueEvent h 2 q fun _ e h => h.preemptPart q e)

theorem nextOk_execResume (q : Nat) : NextOk (execResume q s) := nextOk_queueEvent h 3 q fun _ e h => h.resumeJob q e

theorem nextOk_execRelease (q : Nat) : NextOk (execRelease q s) := nextOk_queueEvent h 4 q fun _ e h => h.releaseJob q e

theorem nextOk_execCancel (q : Nat) : NextOk (execCancel q s) :=
  nextOk_whenDecided h _ _ _ (nextOk_queueEvent h 5 q fun _ e h => h.cancelJob q e)

theorem nextOk_execInvalidate (q : Nat) : NextOk (execInvalidate q s) :=
  nextOk_queueEvent h 6 q fun _ e h => h.invalidateJob q e

theorem nextOk_execPageFaultTimeLimit (site : WalkSite) : NextOk (execPageFaultTimeLimit site s) := by
  unfold execPageFaultTimeLimit
  split
  · exact nextOk_ctxEvent h _ _ fun c => h.drainStream _ _ c
  · split
    · exact .fault _
    · exact .next (h.drainScalar _)

theorem nextOk_execCoreHalt (lid : Nat) : NextOk (execCoreHalt lid s) := by
  unfold execCoreHalt
  split
  · exact .fault _
  · split
    · dsimp only
      split
      · split
        · exact .next h
        · next t e =>
          have ht := (h.finishLattice lid t e).withdrawAll lid
          split
          · next u e =>
            rw [e] at ht
            exact .next (State.MemOk.stopCore ht lid)
          · next u e =>
            rw [e] at ht
            exact .next ht
      · exact .next h
    · exact .next h

theorem nextOk_execContextSaved (rg : Nat) : NextOk (execContextSaved rg s) := by
  unfold execContextSaved
  split
  · exact .next h
  · next r e =>
    refine .next ?_
    split
    · exact h.saveRegion (h.find?_savedOk e)
    · exact h

theorem nextOk_execRegionEvict (rg : Nat) : NextOk (execRegionEvict rg s) := by
  unfold execRegionEvict
  split
  · exact .next h
  · next r e =>
    have hr : r.SavedOk := h.find?_savedOk e
    split
    · split
      · exact .next (h.evictFails hr _)
      · dsimp only
        split
        · next t e => exact .next ((h.vaWriteSpan _ _ _ _ t e).evicted r)
        · exact .next (h.evictFails hr _)
    · exact .next h

theorem nextOk_execCoreRetire (lid : Nat) : NextOk (execCoreRetire lid s) := by
  unfold execCoreRetire
  split
  · exact .fault _
  · refine .next ?_
    split
    · exact h.retireCore lid
    · exact h

end

/-! ## The wafer controller (15 R455-R466) -/

namespace State.MemOk

variable {s : State}

theorem endCommand (h : s.MemOk) (result : BitVec 8) (rsp : List Byte) : (endCommand s result rsp).MemOk := by
  unfold Machine.endCommand
  extract_lets m mbRsp t
  have ht : t.MemOk := h
  split
  · exact ht.raise _
  · exact ht

theorem writeCommand (h : s.MemOk) (val : Word) : (writeCommand s val).MemOk := by
  unfold Machine.writeCommand
  extract_lets _ t code
  have ht : t.MemOk := h
  split
  · split
    · exact h
    · exact ht.endCommand _ _
  · exact ht

theorem firmwareLoad (h : s.MemOk) : (firmwareLoad s).2.2.MemOk := by
  unfold Machine.firmwareLoad
  grind [State.MemOk.congr]

theorem mgmtSet (h : s.MemOk) (off : Nat) (val : Word) : (mgmtSet s off val).MemOk := by
  unfold Machine.mgmtSet
  grind [State.MemOk.withMg, State.MemOk.writeCommand]

theorem dark (h : s.MemOk) : s.dark.MemOk :=
  ⟨h.ext, h.hostMem, fun _ => rfl, fun _ hr => nomatch hr⟩

theorem atReset (h : s.MemOk) : s.atReset.MemOk :=
  ⟨h.ext, h.hostMem, fun _ => rfl, fun _ hr => nomatch hr⟩

theorem trainWafer (h : s.MemOk) (b : BootInputs) : (trainWafer b s).MemOk := h

theorem boot (h : s.MemOk) (b : BootInputs) : (boot b s).MemOk := by
  unfold Machine.boot
  extract_lets t _ u m m'
  have hu : u.MemOk := h.atReset
  split
  · exact hu
  · split
    · exact hu
    · split
      · exact hu
      · exact (hu.withMg _).trainWafer b

/-! ## Errors (15 R458-R461) -/

theorem degradeCore (h : s.MemOk) (lid : Nat) {f : Core → Core} (hf : (f (s.core lid)).loc = (s.core lid).loc) :
    (degradeCore s lid f).MemOk :=
  (h.setCore (by simpa [hf] using h.core lid)).retireFree lid

theorem configError (h : s.MemOk) (lid : Nat) : (configError s lid).MemOk := by
  unfold Machine.configError
  split
  · exact h
  · next r e =>
    have hr : r.SavedOk := h.regionOf_savedOk e
    dsimp only
    split
    · exact h.abortLoad hr
    · exact h.abortLoad hr
    · exact h.completeFreeze (by exact hr)
    · exact h.freezeAt _ _

theorem uncorrectable (h : s.MemOk) (site : ErrSite) : (uncorrectable s site).MemOk := by
  unfold Machine.uncorrectable
  split
  · exact h.degradeCore _ (by split <;> rfl)
  · exact h.degradeCore _ (by split <;> simp)
  · exact h.degradeCore _ (by split <;> rfl)
  · exact (h.degradeCore _ rfl).configError _

theorem freezeOver (h : s.MemOk) (lid : Nat) (ends : List (Nat × Dir)) {r : Region} (hr : r.SavedOk) :
    (freezeOver lid ends s r).MemOk := by
  unfold Machine.freezeOver
  split
  · exact h.freezeRegion hr _ _
  · exact h

theorem killLink (h : s.MemOk) (lid : Nat) (d : Dir) : (killLink s lid d).MemOk := by
  unfold Machine.killLink
  extract_lets ends t
  have ht : t.MemOk := h
  exact ht.foldl_mem fun _ r hr h => h.freezeOver lid ends (ht.saved hr)

theorem portDown (h : s.MemOk) (p : Nat) : (portDown s p).MemOk := h

end State.MemOk

section

variable {s : State} (h : s.MemOk)

include h

theorem nextOk_execMgHdmWrite (word : Nat) (val : BitVec 64) : NextOk (execMgHdmWrite word val s) := by
  refine .next ?_
  split <;> exact h

theorem nextOk_execMgPcapWrite (val : BitVec 64) : NextOk (execMgPcapWrite val s) := .next h

theorem nextOk_command (code : Nat) {act : BitVec 8 × List Byte × State} (hact : act.2.2.MemOk) : NextOk (command code s act) := by
  unfold command
  split
  · exact .next h
  · split
    · exact .next (h.endCommand _ _)
    · exact .next (hact.endCommand _ _)

theorem nextOk_execFwload : NextOk (execFwload s) := nextOk_command h _ h.firmwareLoad

theorem nextOk_execSvnraise : NextOk (execSvnraise s) := nextOk_command h _ (by split <;> exact h)

theorem nextOk_execAttest : NextOk (execAttest s) := by
  refine nextOk_command h _ ?_
  split
  · exact h
  · split <;> exact h

theorem nextOk_execRetlist : NextOk (execRetlist s) := nextOk_command h _ (by split <;> exact h)

theorem nextOk_execRetclear : NextOk (execRetclear s) := nextOk_command h _ (by split <;> exact h)

theorem nextOk_execPartset : NextOk (execPartset s) := by
  refine nextOk_command h _ ?_
  split
  · exact h
  · split
    · exact h
    · exact h.withMg _

theorem nextOk_execReady : NextOk (execReady s) := nextOk_command h _ (by split <;> exact h)

theorem nextOk_execMgmtRegisterWrite (off : Nat) (val : BitVec 64) : NextOk (execMgmtRegisterWrite off val s) :=
  .next (h.mgmtSet _ _)

theorem nextOk_execModuleReset (b : BootInputs) : NextOk (execModuleReset b s) := .next (h.boot b)

theorem nextOk_execCorrectedEccError (lid : Nat) : NextOk (execCorrectedEccError lid s) := by
  unfold execCorrectedEccError
  split
  · exact .fault _
  · exact .next ((h.setCore (by simpa using h.core lid)).retireFree lid)

theorem nextOk_execUncorrectableError (site : ErrSite) : NextOk (execUncorrectableError site s) := by
  unfold execUncorrectableError
  split
  · exact .fault _
  · exact .next (h.uncorrectable site)

theorem nextOk_execMeshLinkCrcRetry (lid : Nat) (dir : Dir) : NextOk (execMeshLinkCrcRetry lid dir s) := by
  unfold execMeshLinkCrcRetry
  split
  · exact .fault _
  · extract_lets key w old n t
    have ht : t.MemOk := h
    refine .next ?_
    split
    · exact ht.killLink _ _
    · exact ht

theorem nextOk_execLinkPortDown (port : Nat) (training : Bool) : NextOk (execLinkPortDown port training s) := by
  unfold execLinkPortDown
  split
  · exact .fault _
  · refine .next ?_
    split
    · exact h.portDown _
    · exact h

theorem nextOk_execBrimLinkDown (port : Nat) : NextOk (execBrimLinkDown port s) := by
  unfold execBrimLinkDown
  split
  · exact .fault _
  · split <;> exact .next (h.setBrim _ _)

theorem nextOk_execThermalThrottle (temp : BitVec 16) : NextOk (execThermalThrottle temp s) := by
  refine .next ?_
  split <;> exact h

theorem nextOk_execPowerCapThrottle (watts : BitVec 32) : NextOk (execPowerCapThrottle watts s) := .next h

theorem nextOk_execThermalTrip (temp : BitVec 16) : NextOk (execThermalTrip temp s) := by
  refine .next ?_
  split
  · exact (h.withMg _).dark
  · exact h

theorem nextOk_execCoolantFlowTrip (flow : Nat) : NextOk (execCoolantFlowTrip flow s) := by
  refine .next ?_
  split
  · exact h.dark
  · exact h

theorem nextOk_barWrite (bar off : Nat) (val : BitVec 64) : NextOk (barWrite bar off val s) := by
  unfold barWrite
  split
  · exact .next h
  · split
    · split
      · exact nextOk_execDoorbell h _ _
      · exact .next h
    · grind [NextOk.next, nextOk_execWqcfgWrite, nextOk_execCqcfgWrite, nextOk_execCqctlWrite, nextOk_execQstatClear]
    · grind [NextOk.next, nextOk_execMgPcapWrite, nextOk_execMgHdmWrite, nextOk_execMgmtRegisterWrite]
    · exact .next h

end

end Sys2Proof.Machine
end

section
/-! PROOFS. The canonical form of the memories through one step of the module (04 R125, R136). -/

namespace Sys2Proof.Machine

open Sys2Proof

/-! ## halt, feat and syscall (14 R446, R447, R449) -/

theorem Keeps.drainStores : Keeps drainStores := .getMe fun _ _ => .waitUnless _ _

theorem State.MemOk.stopMyRegion {s : State} (h : s.MemOk) (code : Nat) :
    (match s.regionOf s.cur with
      | some r =>
        s.setRegion { r with halts := r.halts ++ [(r.roleOf s.cur, code)], stopFrom := r.stopFrom.or (some s.cycle) }
      | none => s).MemOk := by
  split
  · next r e =>
    have hr : r.SavedOk := h.regionOf_savedOk e
    exact h.setRegion (by exact hr)
  · exact h

section

variable {s : State} (h : s.MemOk) (x : FormY)

include h

theorem nextOk_execHalt : NextOk (execHalt x s) :=
  (Keeps.drainStores.bind fun _ => Keeps.bind (.modMe fun _ h => by simpa using h) fun _ => .pure _).issue _ h

theorem nextOk_execHaltRgn : NextOk (execHaltRgn x s) :=
  (Keeps.drainStores.bind fun _ => Keeps.bind (.modMe fun _ h => by simpa using h) fun _ =>
    Keeps.bind (.modifyState fun _ h => h.stopMyRegion _) fun _ => .pure _).issue _ h

theorem nextOk_execFeat : NextOk (execFeat x s) := (Keeps.get fun _ _ => .writeS _ _).issueSeq _ h

theorem nextOk_execSyscall : NextOk (execSyscall x s) := ((Keeps.readS _).bind fun _ => .throw _).issueSeq _ h

theorem nextOk_execSyscallNotify : NextOk (execSyscallNotify x s) := by
  refine Keeps.issueSeq ((Keeps.readS _).bind fun a => .get fun s _ => (Keeps.waitUnless _ _).bind fun _ =>
    (Keeps.destReady _ _).bind fun _ => ?_) _ h
  refine Keeps.bind (.modifyState fun t h => ?_) fun _ => .writeS _ _
  exact h.post _ _ _

theorem nextOk_execSyscallStep : NextOk (execSyscallStep x s) := by
  refine Keeps.issueSeq ((Keeps.readS _).bind fun _ => (Keeps.destReady _ _).bind fun _ => .get fun s h => ?_) _ h
  split
  · next r e =>
    have hr : r.SavedOk := h.regionOf_savedOk e
    have hset : (s.setRegion { r with step := .requested }).MemOk := h.setRegion (by exact hr)
    extract_lets n write
    have hwrite (u : Unit) : Keeps (write u) := .writeS _ _
    clear_value write
    exact .ite (fun _ => (Keeps.set hset).bind hwrite) fun _ => hwrite ()
  · exact .writeS _ _

end

/-! ## Every instruction and event -/

theorem nextOk_exec {s : State} (h : s.MemOk) (i : Instr) : NextOk (exec i s) := by
  cases i with
  | add x | sub x | mul x | mulh x | mulhn x | div x | divn x | rem x | remn x | and x | or x | xor x | andn x | sll x
  | srl x | sra x | rotl x | rotr x | min x | max x | minn x | maxn x => exact nextOk_binary h _ x _
  | clz x | ctz x | popc x => exact nextOk_unary h _ x _
  | addi x | andi x | ori x | xori x => exact nextOk_immediate h _ x _
  | slli x => exact (nextOk_immediate h _ x _ : NextOk (execSlli x s))
  | srli x => exact (nextOk_immediate h _ x _ : NextOk (execSrli x s))
  | srai x => exact (nextOk_immediate h _ x _ : NextOk (execSrai x s))
  | li x => exact nextOk_execLi h x
  | bext x => exact nextOk_execBext h x
  | bins x => exact nextOk_execBins h x
  | sel x => exact nextOk_execSel h x
  | cmp x => exact nextOk_execCmp h x
  | cmpi x => exact nextOk_execCmpi h x
  | fopAdd x => exact (nextOk_fopBinary h _ x _ : NextOk (execFopAdd x s))
  | fopSub x => exact (nextOk_fopBinary h _ x _ : NextOk (execFopSub x s))
  | fopMul x => exact (nextOk_fopBinary h _ x _ : NextOk (execFopMul x s))
  | fopFma x => exact nextOk_execFopFma h x
  | fopDiv x => exact (nextOk_fopBinary h _ x _ : NextOk (execFopDiv x s))
  | fopSqrt x => exact (nextOk_fopUnary h _ x _ : NextOk (execFopSqrt x s))
  | fopMin x => exact (nextOk_fopBinary h _ x _ : NextOk (execFopMin x s))
  | fopMax x => exact (nextOk_fopBinary h _ x _ : NextOk (execFopMax x s))
  | fopAbs x => exact (nextOk_fopUnary h _ x _ : NextOk (execFopAbs x s))
  | fopNeg x => exact (nextOk_fopUnary h _ x _ : NextOk (execFopNeg x s))
  | fopCvt x => exact (nextOk_fopUnary h _ x _ : NextOk (execFopCvt x s))
  | fopToi x | fopTon x => exact nextOk_fopInt h _ x _ _
  | fopFromi x | fopFromn x => exact nextOk_fopFrom h _ x _
  | fopEq x | fopLt x | fopLe x | fopUn x => exact nextOk_fopCompare h _ x _
  | jmp x => exact nextOk_execJmp h x
  | call x => exact nextOk_execCall h x
  | jr x => exact nextOk_execJr h x
  | callr x => exact nextOk_execCallr h x
  | ret x => exact nextOk_execRet h x
  | ldl x => exact nextOk_loadOp h _ x fun _ _ => .ldlAt _ _
  | stl x => exact nextOk_storeOp h _ x fun _ _ => .stlAt _ _
  | ldc x => exact nextOk_loadOp h _ x fun _ _ => .cluLoad _ _ _
  | stc x => exact nextOk_storeOp h _ x fun _ _ => .cluStore _ _ _
  | ldx x => exact (nextOk_loadOp h _ x fun _ _ => .extLoad _ _ _ : NextOk (execLdx x s))
  | stx x => exact (nextOk_storeOp h _ x fun _ _ => .extStore _ _ _ : NextOk (execStx x s))
  | fence x => exact nextOk_execFence h x
  | csrr x => exact nextOk_csrReadOp h _ x
  | csrw x => exact (nextOk_csrWriteOp h _ x _ : NextOk (execCsrw x s))
  | csrwSet x => exact (nextOk_csrWriteOp h _ x _ : NextOk (execCsrwSet x s))
  | csrwClr x => exact (nextOk_csrWriteOp h _ x _ : NextOk (execCsrwClr x s))
  | fpFlagsAccess write x => exact nextOk_execFpFlagsAccess h write x
  | predsAccess write x => exact nextOk_execPredsAccess h write x
  | triggerEntryWrite x => exact (nextOk_csrWriteOp h _ x _ : NextOk (execTriggerEntryWrite x s))
  | lbndWrite x => exact (nextOk_csrWriteOp h _ x _ : NextOk (execLbndWrite x s))
  | bankwaitWrite x => exact (nextOk_csrWriteOp h _ x _ : NextOk (execBankwaitWrite x s))
  | rpt x => exact nextOk_execRpt h x
  | waitAll x => exact (nextOk_waitQueues h _ x _ : NextOk (execWaitAll x s))
  | waitAny x => exact (nextOk_waitQueues h _ x _ : NextOk (execWaitAny x s))
  | waitOsp x => exact nextOk_execWaitOsp h x
  | waitUntil x => exact nextOk_execWaitUntil h x
  | done x => exact nextOk_execDone h x
  | post x => exact nextOk_execPost h x
  | trap x => exact nextOk_execTrap h x
  | brk x => exact nextOk_execBrk h x
  | nop x => exact nextOk_execNop h x
  | tick x => exact nextOk_execTick h x
  | vadd x => exact (nextOk_laneOp h _ x _ _ : NextOk (execVadd x s))
  | vsub x => exact (nextOk_laneOp h _ x _ _ : NextOk (execVsub x s))
  | vmul x => exact (nextOk_laneOp h _ x _ _ : NextOk (execVmul x s))
  | vfma x => exact (nextOk_laneOp h _ x _ _ : NextOk (execVfma x s))
  | vfms x => exact (nextOk_laneOp h _ x _ _ : NextOk (execVfms x s))
  | vfnma x => exact (nextOk_laneOp h _ x _ _ : NextOk (execVfnma x s))
  | vmin x => exact (nextOk_laneOp h _ x _ _ : NextOk (execVmin x s))
  | vmax x => exact (nextOk_laneOp h _ x _ _ : NextOk (execVmax x s))
  | vabs x => exact (nextOk_laneOp h _ x _ _ : NextOk (execVabs x s))
  | vneg x => exact (nextOk_laneOp h _ x _ _ : NextOk (execVneg x s))
  | vand x => exact (nextOk_laneOp h _ x _ _ : NextOk (execVand x s))
  | vor x => exact (nextOk_laneOp h _ x _ _ : NextOk (execVor x s))
  | vxor x => exact (nextOk_laneOp h _ x _ _ : NextOk (execVxor x s))
  | vshl x => exact (nextOk_laneShift h _ x _ : NextOk (execVshl x s))
  | vshr x => exact (nextOk_laneShift h _ x _ : NextOk (execVshr x s))
  | vsra x => exact (nextOk_laneShift h _ x _ : NextOk (execVsra x s))
  | vcmp x => exact nextOk_execVcmp h x
  | vsel x => exact nextOk_execVsel h x
  | vcvt x => exact nextOk_execVcvt h x
  | vbxpack x => exact nextOk_execVbxpack h x
  | vbxunpack x => exact nextOk_execVbxunpack h x
  | vrcp x => exact (nextOk_laneOp h _ x _ _ : NextOk (execVrcp x s))
  | vrsqrt x => exact (nextOk_laneOp h _ x _ _ : NextOk (execVrsqrt x s))
  | vexp2 x => exact (nextOk_laneOp h _ x _ _ : NextOk (execVexp2 x s))
  | vlog2 x => exact (nextOk_laneOp h _ x _ _ : NextOk (execVlog2 x s))
  | vsqrt x => exact (nextOk_laneOp h _ x _ _ : NextOk (execVsqrt x s))
  | vdiv x => exact (nextOk_laneOp h _ x _ _ : NextOk (execVdiv x s))
  | vredsum x | vredmax x => exact nextOk_laneReduce h _ x _
  | vbcast x => exact nextOk_execVbcast h x
  | vperm x => exact nextOk_execVperm h x
  | vmovs x => exact nextOk_execVmovs h x
  | vins x => exact nextOk_execVins h x
  | vld x | vldq x => exact nextOk_vectorLoad h _ x _
  | vst x | vstq x => exact nextOk_vectorStore h _ x _
  | vplog x => exact nextOk_execVplog h x
  | vpany x => exact nextOk_execVpany h x
  | vpall x => exact nextOk_execVpall h x
  | vpset x => exact nextOk_execVpset h x
  | vdot4 x => exact nextOk_execVdot4 h x
  | vclass x => exact (nextOk_laneOp h _ x _ _ : NextOk (execVclass x s))
  | sopen x => exact nextOk_execSopen h x
  | sgo x => exact nextOk_execSgo h x
  | sstop x => exact nextOk_execSstop h x
  | sstopClose x => exact nextOk_execSstopClose h x
  | swait x => exact nextOk_execSwait h x
  | sstat x => exact nextOk_execSstat h x
  | sstatCnt x => exact nextOk_execSstatCnt h x
  | cbinit x => exact nextOk_execCbinit h x
  | cbwait x => exact nextOk_execCbwait h x
  | cbrel x => exact nextOk_execCbrel h x
  | cbput x => exact nextOk_execCbput h x
  | cbstat x => exact nextOk_execCbstat h x
  | smig x => exact nextOk_execSmig h x
  | sinval x => exact nextOk_execSinval h x
  | sendw2 x => exact nextOk_execSendw2 h x
  | sendm x => exact nextOk_execSendm h x
  | qflush x => exact nextOk_execQflush h x
  | qpeek x => exact nextOk_execQpeek h x
  | qstat x => exact nextOk_execQstat h x
  | qdrop x => exact nextOk_execQdrop h x
  | rtget x => exact nextOk_execRtget h x
  | rtset x => exact nextOk_execRtset h x
  | tagset x => exact nextOk_execTagset h x
  | dmqset x => exact nextOk_execDmqset h x
  | excq x => exact nextOk_execExcq h x
  | excqClr x => exact nextOk_execExcqClr h x
  | drain x | drainEnd x => exact nextOk_drainOp h x _ _
  | bankpass x => exact nextOk_execBankpass h x
  | tldb x => exact nextOk_execTldb h x
  | tldbq x => exact nextOk_execTldbq h x
  | tmac x => exact nextOk_execTmac h x
  | tmacq x => exact nextOk_execTmacq h x
  | tmacl x => exact nextOk_execTmacl h x
  | tgang x => exact nextOk_execTgang h x
  | tclr x => exact nextOk_execTclr h x
  | tadd x => exact nextOk_execTadd h x
  | tnorm x => exact nextOk_execTnorm h x
  | tnormMax x => exact nextOk_execTnormMax h x
  | tmovTt x => exact nextOk_execTmovTt h x
  | tmovOut x => exact nextOk_execTmovOut h x
  | tmovIn x => exact nextOk_execTmovIn h x
  | tsta x => exact nextOk_execTsta h x
  | tlda x => exact nextOk_execTlda h x
  | tout x => exact nextOk_execTout h x
  | texp x => exact nextOk_execTexp h x
  | lgl x => exact nextOk_execLgl h x
  | lglq x => exact nextOk_execLglq h x
  | lsel x => exact nextOk_execLsel h x
  | lselOff x => exact nextOk_execLselOff h x
  | lrun x => exact nextOk_execLrun h x
  | lrunv x => exact nextOk_execLrunv h x
  | lbound x => exact nextOk_execLbound h x
  | lstatSt x => exact nextOk_execLstatSt h x
  | lstatTap x => exact nextOk_execLstatTap h x
  | lstatExp x => exact nextOk_execLstatExp h x
  | lfree x => exact nextOk_execLfree h x
  | lfreeAll x => exact nextOk_execLfreeAll h x
  | lsum x => exact nextOk_execLsum h x
  | barr x => exact nextOk_execBarr h x
  | bwait x => exact nextOk_execBwait h x
  | barw x => exact nextOk_execBarw h x
  | bexcuse x => exact nextOk_execBexcuse h x
  | bgjoin x => exact nextOk_execBgjoin h x
  | bgleave x => exact nextOk_execBgleave h x
  | cbr x | cbrv x => exact nextOk_branchOp h _ x _
  | cbrres x => exact nextOk_execCbrres h x
  | specstat x => exact nextOk_execSpecstat h x
  | bmask x => exact nextOk_execBmask h x
  | tcount x => exact nextOk_execTcount h x
  | aadd x | aand x | aor x | axor x | amin x | amax x | aminn x | amaxn x | aswap x | acas x | aincl x =>
    exact nextOk_atomicOp h _ x _
  | afadd x => exact nextOk_execAfadd h x
  | afrd x => exact nextOk_execAfrd h x
  | afclr x => exact nextOk_execAfclr h x
  | afence x => exact nextOk_execAfence h x
  | lkgrp x => exact nextOk_execLkgrp h x
  | lkcollBcast x | lkcollFsum x | lkcollIsum x | lkcollMin x | lkcollMax x | lkcollAnd x | lkcollOr x | lkcollCell x =>
    exact nextOk_collOp h x _
  | lkwait x => exact nextOk_execLkwait h x
  | lkstatSlot x => exact nextOk_execLkstatSlot h x
  | lkstatPort x => exact nextOk_execLkstatPort h x
  | lkseq x => exact nextOk_execLkseq h x
  | lkseqSet x => exact nextOk_execLkseqSet h x
  | trapret x => exact nextOk_execTrapret h x
  | trapretSkip x => exact nextOk_execTrapretSkip h x
  | halt x => exact nextOk_execHalt h x
  | haltRgn x => exact nextOk_execHaltRgn h x
  | feat x => exact nextOk_execFeat h x
  | idle x => exact nextOk_execIdle h x
  | syscall x => exact nextOk_execSyscall h x
  | syscallNotify x => exact nextOk_execSyscallNotify h x
  | syscallStep x => exact nextOk_execSyscallStep h x
  | illegalOpcode w => exact nextOk_execIllegalOpcode h w
  | waitTimeout lid => exact nextOk_execWaitTimeout h lid
  | triggerFire lid => exact nextOk_execTriggerFire h lid
  | inboxTaskCreate lid => exact nextOk_execInboxTaskCreate h lid
  | storeBufferPerform lid => exact nextOk_execStoreBufferPerform h lid
  | streamItemRead eng ctx => exact nextOk_execStreamItemRead h eng ctx
  | streamItemWrite eng ctx => exact nextOk_execStreamItemWrite h eng ctx
  | streamEnd eng ctx => exact nextOk_execStreamEnd h eng ctx
  | walkRetry site => exact nextOk_execWalkRetry h site
  | pageFaultTimeLimit site => exact nextOk_execPageFaultTimeLimit h site
  | engineSleep eng => exact nextOk_execEngineSleep h eng
  | engineWake eng => exact nextOk_execEngineWake h eng
  | cbEntryFlit lid p => exact nextOk_execCbEntryFlit h lid p
  | cbCreditArrival lid p => exact nextOk_execCbCreditArrival h lid p
  | completionTokenArrival lid => exact nextOk_execCompletionTokenArrival h lid
  | flitForward lid p => exact nextOk_execFlitForward h lid p
  | sumRound lid tag => exact nextOk_execSumRound h lid tag
  | sumControlFlit lid tag => exact nextOk_execSumControlFlit h lid tag
  | renormRecord lid p => exact nextOk_execRenormRecord h lid p
  | widthAdapt lid p => exact nextOk_execWidthAdapt h lid p
  | inboxAccept lid => exact nextOk_execInboxAccept h lid
  | latticeStreamBlock lid => exact nextOk_execLatticeStreamBlock h lid
  | episodeComplete g => exact nextOk_execEpisodeComplete h g
  | treeResultArrival lid ch | outcomeArrival lid ch => exact nextOk_treeArrival h _ _ _
  | coreRetire lid => exact nextOk_execCoreRetire h lid
  | atomicServe cl => exact nextOk_execAtomicServe h cl
  | detAcasStep cl => exact nextOk_execDetAcasStep h cl
  | collectiveHeaderFrame port fr => exact nextOk_execCollectiveHeaderFrame h port fr
  | collectiveDataFrame port fr => exact nextOk_execCollectiveDataFrame h port fr
  | collectiveCombine c => exact nextOk_execCollectiveCombine h c
  | collectiveComplete c => exact nextOk_execCollectiveComplete h c
  | collectiveUnreachable c => exact nextOk_execCollectiveUnreachable h c
  | crownPartialFrame port fr => exact nextOk_execCrownPartialFrame h port fr
  | linkCreditFrame port fr => exact nextOk_execLinkCreditFrame h port fr
  | linkFrameResend port => exact nextOk_execLinkFrameResend h port
  | drainTokenPush rg => exact nextOk_execDrainTokenPush h rg
  | configStepSwitch rg pl => exact nextOk_execConfigStepSwitch h rg pl
  | launch q => exact nextOk_execLaunch h q
  | preempt q => exact nextOk_execPreempt h q
  | resume q => exact nextOk_execResume h q
  | release q => exact nextOk_execRelease h q
  | cancel q => exact nextOk_execCancel h q
  | invalidate q => exact nextOk_execInvalidate h q
  | regionPlace rg pls => exact nextOk_execRegionPlace h rg pls
  | stagingComplete rg => exact nextOk_execStagingComplete h rg
  | commitTokenArrival lid => exact nextOk_execCommitTokenArrival h lid
  | loadAbort lid => exact nextOk_execLoadAbort h lid
  | regionComplete rg => exact nextOk_execRegionComplete h rg
  | coreHalt lid => exact nextOk_execCoreHalt h lid
  | contextSaved rg => exact nextOk_execContextSaved h rg
  | regionEvict rg => exact nextOk_execRegionEvict h rg
  | completionRecordWrite q => exact nextOk_execCompletionRecordWrite h q
  | doorbell q val => exact nextOk_execDoorbell h q val
  | wqcfgWrite q val => exact nextOk_execWqcfgWrite h q val
  | cqcfgWrite q val => exact nextOk_execCqcfgWrite h q val
  | cqctlWrite q val => exact nextOk_execCqctlWrite h q val
  | qstatClear q val => exact nextOk_execQstatClear h q val
  | mgPcapWrite val => exact nextOk_execMgPcapWrite h val
  | mgHdmWrite word val => exact nextOk_execMgHdmWrite h word val
  | mgmtRegisterWrite off val => exact nextOk_execMgmtRegisterWrite h off val
  | fwload => exact nextOk_execFwload h
  | svnraise => exact nextOk_execSvnraise h
  | attest => exact nextOk_execAttest h
  | retlist => exact nextOk_execRetlist h
  | retclear => exact nextOk_execRetclear h
  | partset => exact nextOk_execPartset h
  | ready => exact nextOk_execReady h
  | moduleReset b => exact nextOk_execModuleReset h b
  | correctedEccError lid => exact nextOk_execCorrectedEccError h lid
  | uncorrectableError site => exact nextOk_execUncorrectableError h site
  | meshLinkCrcRetry lid dir => exact nextOk_execMeshLinkCrcRetry h lid dir
  | linkPortDown port training => exact nextOk_execLinkPortDown h port training
  | thermalThrottle temp => exact nextOk_execThermalThrottle h temp
  | powerCapThrottle watts => exact nextOk_execPowerCapThrottle h watts
  | thermalTrip temp => exact nextOk_execThermalTrip h temp
  | coolantFlowTrip flow => exact nextOk_execCoolantFlowTrip h flow
  | waitUntilCycleReached lid => exact nextOk_execWaitUntilCycleReached h lid
  | brimLinkDown port => exact nextOk_execBrimLinkDown h port

/-! ## Every move (03 R80-R82; 05 R170, R173) -/

section

variable {s : State} (h : s.MemOk)

include h

theorem nextOk_stepCore (lid : Nat) : NextOk (stepCore s lid) := by
  unfold stepCore
  split
  · exact .next h
  · split
    · exact .next (h.timeout lid)
    · extract_lets u
      have hu : u.MemOk := (h.setCore (h.core lid) : (s.keepWord lid).MemOk)
      split
      · exact nextOk_exec hu _
      · refine .next ?_
        split
        · exact hu
        · exact hu.deliverTrap _ _ _

theorem nextOk_stepRpt (lid : Nat) : NextOk (stepRpt s lid) := by
  unfold stepRpt
  split
  · exact .next h
  · split
    · exact .next (h.timeout lid)
    · split
      · exact .next h
      · extract_lets u
        have hu : u.MemOk := h
        split
        · exact nextOk_exec hu _
        · exact .next (hu.deliverTrap _ _ _)

theorem State.MemOk.elapse (n : Nat) : (s.elapse n).MemOk :=
  State.MemOk.completeStops (s := { s with cycle := s.cycle + BitVec.ofNat 64 n }) h _

theorem nextOk_stepMove (m : Move) : NextOk (stepMove s m) := by
  cases m with
  | core lid => exact nextOk_stepCore h lid
  | rpt lid => exact nextOk_stepRpt h lid
  | event i =>
    simp only [stepMove]
    split
    · exact nextOk_exec h i
    · exact .next h
  | stop rg => exact .next (h.completeStops _)
  | frame port fr => exact .next (h.plainFrame port fr)
  | elapse n => exact .next (h.elapse n)
  | sensors t w => exact .next h
  | bar b off val => exact nextOk_barWrite h b off val
  | hostWrite a bytes => exact .next (h.withHostMem a bytes)
  | extWrite a bytes => exact .next (h.writeExt _ bytes)

end

theorem nextOk_step {s : State} (h : s.MemOk) : NextOk (step s) := nextOk_stepMove (s := s.tick) h s.nextMove

end Sys2Proof.Machine
end

section
/-! PROOFS. The invariant of the memories settled (04 R125, R136). -/

namespace Sys2Proof.Proofs

open Sys2Proof.Machine Sys2Proof.Claims

/-- Settles O25, move by move: each instruction's computation and each event keeps the canonical form of every memory. -/
theorem stepKeepsCanonicalForm : Obligations.StepKeepsCanonicalForm := fun _ t h e => nextOk_step h t e

end Sys2Proof.Proofs
end

section
/-! PROOFS. A fence (04 R142): the condition it waits for, and its completion (O6). -/

namespace Sys2Proof.Machine
open Sys2Proof.Claims

/-- A fence may complete where no store waits for the core's own LOC, the scope has performed (but for an acquire fence), and the
store buffer is drained (for a full fence). -/
theorem fenceDone_of_performed {s : State} {x : FormM} (hHome : ∀ e ∈ s.me.sb, e.isHome s.cur = false)
    (hScope : ¬(x.aq = 1 ∧ x.rl = 0) → s.scopePerformed s.cur x.sc.toNat = true) (hFull : x.aq = x.rl → s.me.sb = []) :
    fenceDone s x = true := by
  have home : (!s.me.sb.any (·.isHome s.cur)) = true := by simpa using hHome
  unfold fenceDone
  dsimp only
  split
  · exact home
  · next hAcquire =>
    split
    · rw [home, hScope hAcquire]; rfl
    · next hRelease =>
      have bit : ∀ b : BitVec 1, b = 0 ∨ b = 1 := by decide
      have same : x.aq = x.rl := by
        rcases bit x.aq with ha | ha <;> rcases bit x.rl with hr | hr <;> simp_all
      rw [hFull same, hScope hAcquire]; rfl

end Sys2Proof.Machine

namespace Sys2Proof.Proofs
open Sys2Proof.Machine Sys2Proof.Claims

/-- Settles O6: what the fence names is performed, so its one wait ends, and discarding the words fetched ahead is all that it
does. -/
theorem fenceCompletesWhenPerformed : Obligations.FenceCompletesWhenPerformed := by
  intro x s hIssues hHome hScope hFull
  refine issueSeq_near hIssues ?_ ((Near.refl s).setMe { s.me with oldWords := [] }) hIssues.2.2.1
  rw [op_bind_ok (op_get s), fenceDone_of_performed hHome hScope hFull, op_bind_ok (waitUnless_true _ s)]
  rfl

end Sys2Proof.Proofs
end

section
/-! PROOFS. What an instruction that has read its operands sees of the module: everything but the executing core is as before, so the
translation of an address, a release and the home of a CLU access come out as they stand at the start. -/

namespace Sys2Proof.Machine
open Sys2Proof.Claims

/-! ## A state that differs in its cores alone -/

theorem Near.eq_cores {s s' : State} {c : Core} (h : Near s s' c) : s' = { s with cores := s'.cores } := by
  have hs := h.2 Core.reset
  cases s
  cases s'
  simp only [State.setMe, State.setCore, State.mk.injEq] at hs ⊢
  simp [hs]

theorem Near.trans {s s1 s2 : State} {c d : Core} (h : Near s s1 c) (h' : Near s1 s2 d) : Near s s2 d :=
  ⟨h'.1, fun e => (h'.2 e).trans (h.2 e)⟩

/-- The executing core replaced. -/
theorem Near.set (s : State) (c : Core) : Near s (s.setMe c) c := (Near.refl s).setMe c

/-- What an operation makes of the rest of the module, it makes of it beside another executing core. -/
theorem Near.of_cores {s s' t : State} {c : Core} (h : Near s s' c) (hcores : t.cores = s.cores) (hcur : t.cur = s.cur) :
    Near t { t with cores := s'.cores } c := by
  refine ⟨?_, fun d => ?_⟩
  · have hc := h.1
    rw [State.me, State.core, h.cur] at hc
    simpa [State.me, State.core, hcur] using hc
  · have hd := congrArg State.cores (h.2 d)
    simp only [State.setMe, State.setCore, h.cur] at hd
    simp [State.setMe, State.setCore, hcores, hcur, hd]

theorem Near.scopePerformed {s s' : State} {c : Core} {scope : Nat} (h : Near s s' c) (hspec : c.spec = s.me.spec)
    (hsb : c.sb = s.me.sb) : s'.scopePerformed s'.cur scope = s.scopePerformed s.cur scope := by
  have hc : s'.core s'.cur = c := h.1
  have hq : s'.linksQuiet s'.cur = s.linksQuiet s.cur := by rw [h.eq_cores]; rfl
  have hp : s'.cellPending s'.cur = s.cellPending s.cur := by rw [h.eq_cores]; rfl
  have hs : s.core s.cur = s.me := rfl
  unfold State.scopePerformed
  dsimp only
  rw [hc, hq, hp, hs, Core.holdsNone, Core.holdsNone, hspec, hsb, h.cur]

/-! ## A scalar read -/

/-- What a scalar read leaves of a core off the path of a collective branch: its LOC, its
store buffer, its registers, its answer, its mode. -/
structure Core.SameStore (c c' : Core) : Prop where
  sb : c'.sb = c.sb
  loc : c'.loc = c.loc
  spec : c'.spec = c.spec
  answer : c'.answer = c.answer
  mode : c'.mode = c.mode
  locPoison : c'.locPoison = c.locPoison
  regs : c'.regs = c.regs

theorem Core.SameStore.refl (c : Core) : c.SameStore c := ⟨rfl, rfl, rfl, rfl, rfl, rfl, rfl⟩

theorem Core.SameStore.trans {c c1 c2 : Core} (h : c.SameStore c1) (h' : c1.SameStore c2) : c.SameStore c2 :=
  ⟨h'.sb.trans h.sb, h'.loc.trans h.loc, h'.spec.trans h.spec, h'.answer.trans h.answer, h'.mode.trans h.mode,
    h'.locPoison.trans h.locPoison, h'.regs.trans h.regs⟩

theorem Core.SameStore.det {c c' : Core} (h : c.SameStore c') : c'.det = c.det := by rw [Core.det, h.mode, ← Core.det]

theorem raiseFlags_sameStore {c : Core} (f : BitVec 7) (h : c.spec = none) : c.SameStore (c.raiseFlags f) := by
  simp only [Core.raiseFlags, h]
  exact ⟨rfl, rfl, h.symm, rfl, rfl, rfl, rfl⟩

theorem consume_sameStore {c : Core} (f : Flit) (n p : Nat) (h : c.spec = none) : c.SameStore (c.consume f n p) := by
  obtain ⟨hsb, hloc, hspec, hans, hmode, hpoison, hregs⟩ := raiseFlags_sameStore flagEXC h
  by_cases he : f.exc <;> by_cases hr : f.rel <;> simp only [Core.consume, he, hr, if_true, if_false, Bool.false_eq_true]
  · exact ⟨hsb, hloc, hspec, hans, hmode, hpoison, hregs⟩
  · exact ⟨hsb, hloc, hspec, hans, hmode, hpoison, hregs⟩
  · exact ⟨rfl, rfl, rfl, rfl, rfl, rfl, rfl⟩
  · exact .refl c

theorem popped_sameStore {c : Core} (n : Nat) (f : Flit) (rest : List Flit) (h : c.spec = none) :
    c.SameStore (c.popped n f rest) :=
  .trans (c1 := { c.setQueue n rest with half := putBits c.half n 1 0 }) ⟨rfl, rfl, rfl, rfl, rfl, rfl, rfl⟩ (consume_sameStore f n 0 h)

theorem scalarRead_sameStore {c c' : Core} {r : BitVec 5} {v : Word} (h : scalarRead c r = some (v, c'))
    (hs : c.spec = none) : c.SameStore c' := by
  unfold scalarRead at h
  dsimp only at h
  split at h
  · cases h; exact .refl _
  · split at h
    · contradiction
    · split at h
      · contradiction
      · split at h
        · cases h; exact popped_sameStore _ _ _ hs
        · split at h
          · cases h; exact popped_sameStore _ _ _ hs
          · cases h; exact ⟨rfl, rfl, rfl, rfl, rfl, rfl, rfl⟩

/-! ## Release, base and address of a scalar access -/

theorem readBase_run (r : BitVec 5) (s : State) : (readBase r).run s = .ok (s.me.reg r.toNat) s := rfl

theorem addressOf_run (x : FormM) (s : State) : (addressOf x (sizeOf x.sz)).run s = .ok (effective s.me x) s := by
  unfold addressOf
  rw [op_bind_ok (readBase_run x.a s), op_bind_ok (readBase_run x.b s), op_pure]
  simp [mAddress, effective, sizeOf]

theorem ordered_sameStore (c : Core) (b : Prop) [Decidable b] : c.SameStore (ordered c b) := by
  unfold ordered
  split <;> exact ⟨rfl, rfl, rfl, rfl, rfl, rfl, rfl⟩

/-- A release that need not wait discards the words fetched ahead; an instruction that is no release goes on at once. -/
theorem releaseAt_near {s s' : State} {c : Core} {rl : BitVec 1} {scope : Nat} (hn : Near s s' c) (hc : s.me.SameStore c)
    (h : rl = 1 → s.scopePerformed s.cur scope = true) :
    ∃ s2, Near s s2 (ordered c (rl = 1)) ∧ ∀ {β : Type} (k : Unit → Op β),
      (if rl = 1 then releaseAt scope >>= k else k ()).run s' = (k ()).run s2 := by
  by_cases hrl : rl = 1
  · refine ⟨s'.setMe { s'.me with oldWords := [] }, ?_, fun k => ?_⟩
    · rw [hn.1, ordered, if_pos hrl]
      exact hn.setMe _
    · have hw : (releaseAt scope).run s' = .ok () (s'.setMe { s'.me with oldWords := [] }) := by
        unfold releaseAt
        rw [op_bind_ok (op_get s'), hn.scopePerformed hc.spec hc.sb, h hrl, op_bind_ok (waitUnless_true _ s')]
        rfl
      rw [if_pos hrl, op_bind_ok hw]
  · refine ⟨s', ?_, fun k => by rw [if_neg hrl]⟩
    rwa [ordered, if_neg hrl]

/-- The base register is post-updated. -/
theorem postUpdate_near {s s' : State} {c : Core} (x : FormM) (hn : Near s s' c) :
    ∃ s2, (postUpdate x).run s' = .ok () s2 ∧ Near s s2 (postBase c x) := by
  unfold postUpdate postBase
  split
  · exact ⟨_, modMe_run _ _, hn.1 ▸ hn.setMe _⟩
  · exact ⟨s', rfl, hn⟩

@[simp] theorem postBase_spec (c : Core) (x : FormM) : (postBase c x).spec = c.spec := by
  unfold postBase Core.setReg
  repeat' split
  all_goals rfl

@[simp] theorem postBase_loc (c : Core) (x : FormM) : (postBase c x).loc = c.loc := by
  unfold postBase Core.setReg
  repeat' split
  all_goals rfl

/-- An instruction that completes beside what it made of the rest of the module. -/
theorem issueSeq_done {i : Instr} {s u s' : State} {c : Core} {body : Op Unit} (h : Issues i s)
    (hb : body.run s = .ok () s') (hn : Near u s' c) (hs : c.spec = none) : issueSeq i body s = .next (u.completed c) := by
  rw [issueSeq_ok h hb (by rw [hn.1]; exact hs), hn.1]
  simp [State.completed, hn.2, hn.inRpt]

/-- A scalar store: its operand read, its release performed, the access made, its base post-updated. -/
theorem storeOp_ok {i : Instr} {x : FormM} {put : Int → List Byte → Op Unit} {s t : State} {v : Word} {c1 c2 : Core}
    (h : Issues i s) (hv : scalarRead s.me x.d = some (v, c1)) (ha : effective s.me x % 2 ^ x.sz.toNat = 0)
    (hrel : ReleaseReady s x) (hspec : c2.spec = none)
    (hput : ∀ s', Near s s' (ordered c1 (x.rl = 1)) →
      ∃ t', (put (effective s.me x) (bytesOfNat (2 ^ x.sz.toNat) v.toNat)).run s' = .ok () t' ∧ Near t t' c2) :
    storeOp i x put s = .next (t.completed (postBase c2 x)) := by
  obtain ⟨s1, e1, n1⟩ := readS_near (Near.refl s) hv
  obtain ⟨s2, n2, e2⟩ := releaseAt_near n1 (scalarRead_sameStore hv h.2.2.1) hrel
  obtain ⟨t1, e3, n3⟩ := hput s2 n2
  obtain ⟨t2, e4, n4⟩ := postUpdate_near x n3
  have halign : effective s.me x % (sizeOf x.sz : Nat) = 0 := by simpa [sizeOf] using ha
  unfold storeOp
  refine issueSeq_done h ?_ n4 ((postBase_spec c2 x).trans hspec)
  dsimp only
  rw [op_bind_ok (addressOf_run x s), op_bind_ok e1, op_bind_ok (checkAlign_ok halign s1)]
  exact (e2 _).trans ((op_bind_ok e3).trans e4)

end Sys2Proof.Machine
end

section
/-! PROOFS. External memory under a scalar store (07 R227, R233): the bytes within one interleave granule lie at consecutive device
addresses, and a translation keeps the place of an address in its page. -/

namespace Sys2Proof.Machine
open Sys2Proof.Claims

/-! ## Device addresses -/

/-- Every HDM range begins and ends between granules, so two addresses of one granule lie in the same ranges. -/
theorem hdmHolds_same {m : Mgmt} {pa qa : Nat} (h : qa / 256 = pa / 256) (i : Nat) : hdmHolds m qa i = hdmHolds m pa i := by
  unfold hdmHolds
  dsimp only
  generalize bitsOf (hdmWord m i 0) 28 24 = base
  generalize bitsOf (hdmWord m i 1) 28 24 = size
  rw [show decide (base * 2 ^ 28 ≤ qa) = decide (base * 2 ^ 28 ≤ pa) from decide_eq_decide.2 (by omega),
    show decide (qa < base * 2 ^ 28 + size * 2 ^ 28) = decide (pa < base * 2 ^ 28 + size * 2 ^ 28) from
      decide_eq_decide.2 (by omega)]

theorem hdmRange_same {m : Mgmt} {pa qa : Nat} (h : qa / 256 = pa / 256) : hdmRange m qa = hdmRange m pa := by
  unfold hdmRange
  rw [funext (hdmHolds_same h)]

theorem hdmWay_same {m : Mgmt} {pa qa : Nat} (h : qa / 256 = pa / 256) (i : Nat) : hdmWay m i qa = hdmWay m i pa := by
  unfold hdmWay hdmIndex
  simp only [← Nat.div_div_eq_div_mul, h]

/-- A decoded address and the one k bytes behind it in its granule: k device addresses apart. -/
theorem deviceAddr_add {m : Mgmt} {pa k i : Nat} (hi : hdmRange m pa = some i) (h : pa % 256 + k < 256) :
    deviceAddr m (pa + k) = deviceAddr m pa + k := by
  have hd : (pa + k) / 256 = pa / 256 := by omega
  have hbase : bitsOf (hdmWord m i 0) 28 24 * 2 ^ 28 ≤ pa := by
    have hh : hdmHolds m pa i = true := List.find?_some hi
    simp only [hdmHolds, Bool.and_eq_true, decide_eq_true_eq] at hh
    exact hh.1.2
  unfold deviceAddr
  rw [hdmRange_same hd, hi]
  dsimp only
  rw [hdmWay_same hd]
  generalize bitsOf (hdmWord m i 0) 28 24 = base at hbase ⊢
  have hoff : pa + k - base * 2 ^ 28 = (pa - base * 2 ^ 28) + k := by omega
  have hmod : (pa - base * 2 ^ 28) % 256 + k < 256 := by omega
  rw [hoff]
  generalize pa - base * 2 ^ 28 = off at hmod ⊢
  have hblock : (off + k) / 256 = off / 256 := by omega
  have hplace : (off + k) % 256 = off % 256 + k := by omega
  unfold hdmGranule
  simp only [Nat.mul_assoc, ← Nat.div_div_eq_div_mul, Nat.mod_mul, hblock, hplace]
  omega

/-- The device addresses of bytes that lie in one granule are different. -/
theorem deviceAddrs_nodup {m : Mgmt} {pa n i : Nat} (hi : hdmRange m pa = some i) (h : pa % 256 + n ≤ 256) :
    (deviceAddrs m pa n).Nodup := by
  have hmap : deviceAddrs m pa n = (List.range n).map (deviceAddr m pa + ·) :=
    List.map_congr_left fun k hk => deviceAddr_add hi (by have := List.mem_range.1 hk; omega)
  rw [hmap]
  exact List.nodup_range.map fun a b hab => Nat.add_left_cancel hab

/-- What is written at different device addresses reads back. -/
theorem writeDevices_reads {mem : List Host.Cell} {ds : List Nat} {bs : List Byte} (hd : ds.Nodup)
    (hl : ds.length = bs.length) : ds.map (Table.get 0 (writeDevices mem ds bs)) = bs := by
  induction ds generalizing mem bs with
  | nil => exact (List.eq_nil_of_length_eq_zero hl.symm).symm
  | cons d ds ih =>
    cases bs with
    | nil => simp at hl
    | cons b bs =>
      obtain ⟨hnot, hrest⟩ := List.nodup_cons.1 hd
      rw [List.map_cons, writeDevices, ih hrest (Nat.succ.inj hl), writeDevices_outside _ _ _ _ hnot, Table.get_set_self]

/-! ## Translation -/

theorem walkFrom_cores (s : State) (K : Table Core) (va : Nat) (write : Bool) (lvl t : Nat) :
    walkFrom { s with cores := K } va write lvl t = walkFrom s va write lvl t := by
  induction lvl generalizing t with
  | zero => rfl
  | succ lvl ih =>
    simp only [walkFrom, ih]
    rfl

/-- A translation sees nothing of the cores and keeps them. -/
theorem scalarXlate_cores (s : State) (K : Table Core) (eng job root va : Nat) (write : Bool) :
    scalarXlate { s with cores := K } eng job root va write
      = ((scalarXlate s eng job root va write).1, { (scalarXlate s eng job root va write).2 with cores := K }) := by
  have hb : ({ s with cores := K } : State).brim eng = s.brim eng := rfl
  simp only [scalarXlate, walk, walkFrom_cores, hb]
  cases (s.brim eng).wake.scalar.find? fun e => e.2.1 == job && e.2.2.permits va write with
  | some _ => rfl
  | none => cases walkFrom s va write 5 root <;> rfl

/-- A leaf keeps the place of the address in its page. -/
theorem walkFrom_leaf {s : State} {va lvl t pa size : Nat} {write w : Bool}
    (h : walkFrom s va write lvl t = .leaf pa size w) : pa % 4096 = va % 4096 := by
  induction lvl generalizing t with
  | zero => cases h
  | succ lvl ih =>
    simp only [walkFrom] at h
    have hpage : 2 ^ (12 + 9 * lvl) = 4096 * 2 ^ (9 * lvl) := by rw [Nat.pow_add]
    split at h
    · cases h
    split at h
    · cases h
    split at h
    · cases h
    split at h
    · cases h
    split at h
    · split at h
      · cases h
      · exact ih h
    split at h
    · cases h
    split at h
    · cases h
    split at h
    · cases h
    · cases h
      rw [hpage, Nat.mod_mul]
      omega

/-- A translated address keeps its place in the page, and the translation changes its brim engine alone. -/
theorem scalarXlate_leaf {s s1 : State} {eng job root va pa size : Nat} {write w : Bool}
    (h : scalarXlate s eng job root va write = (.leaf pa size w, s1)) :
    pa % 4096 = va % 4096 ∧ ∃ b, s1 = s.setBrim eng b := by
  simp only [scalarXlate] at h
  split at h
  · next e _ =>
    simp only [Prod.mk.injEq, WalkResult.leaf.injEq] at h
    refine ⟨?_, _, h.2.symm⟩
    rw [← h.1.1, Window.map]
    omega
  · split at h
    · next hw =>
      simp only [Prod.mk.injEq, WalkResult.leaf.injEq] at h
      obtain ⟨⟨hpa, _, _⟩, hs⟩ := h
      exact ⟨hpa ▸ walkFrom_leaf hw, _, hs.symm⟩
    · next hno => exact absurd (Prod.mk.inj h).1 (hno _ _ _)

theorem place_of_translates {s s1 : State} {ea : Int} {write : Bool} {pa : Nat} (h : Translates s ea write pa s1) :
    pa % 4096 = ea.toNat % 4096 ∧ ∃ eng b, s1 = s.setBrim eng b := by
  obtain ⟨_, _, size, w, r, _, _, hx⟩ := h
  obtain ⟨hpa, b, hs⟩ := scalarXlate_leaf hx
  exact ⟨hpa, _, b, hs⟩

/-- The translation of a scalar access, with another core executing. -/
theorem extXlate_near {s s1 s' : State} {c : Core} {ea : Int} {write : Bool} {pa : Nat} {val : Word}
    (hn : Near s s' c) (h : Translates s ea write pa s1) :
    ∃ s2, (extXlate ea write val).run s' = .ok pa s2 ∧ Near s1 s2 c := by
  obtain ⟨eng, b, hs1⟩ := (place_of_translates h).2
  obtain ⟨h0, h1, size, w, r, hr, hfrozen, hx⟩ := h
  refine ⟨{ s1 with cores := s'.cores }, ?_, hn.of_cores (by rw [hs1]; rfl) (by rw [hs1]; rfl)⟩
  rw [hn.eq_cores]
  unfold extXlate
  rw [if_neg (by omega), op_bind_ok (op_get _)]
  have hr' : ({ s with cores := s'.cores } : State).regionOf s.cur = some r := hr
  have hport : ({ s with cores := s'.cores } : State).portOf s.cur = s.portOf s.cur := rfl
  have hroot : ({ s with cores := s'.cores } : State).rootOf r = s.rootOf r := rfl
  have hf' : ({ s with cores := s'.cores } : State).frozenPage r.job ea.toNat 1 = false := hfrozen
  simp only [hr', hf', hport, hroot, scalarXlate_cores, hx, Bool.false_eq_true, if_false]
  rfl

/-- A store to EXT at a translated address that its home port accepts. -/
theorem extStore_near {s s1 s2 s' : State} {c : Core} {ea : Int} {pa : Nat} {bytes : List Byte} {val : Word}
    (hn : Near s s' c) (h : Translates s ea true pa s1) (hw : extWrite s1 pa bytes = some s2) :
    ∃ s3, (extStore ea bytes val).run s' = .ok () s3 ∧ Near s2 s3 c := by
  obtain ⟨s4, e4, n4⟩ := extXlate_near (val := val) hn h
  unfold extWrite at hw
  split at hw
  · next hr =>
    cases hw
    refine ⟨s4.writeExt (deviceAddrs s1.mg pa bytes.length) bytes, ?_, ?_⟩
    · unfold extStore extWrite
      rw [op_bind_ok e4, op_bind_ok (op_get s4)]
      have hr' : reachable s4 pa bytes.length = true := by rw [n4.eq_cores]; exact hr
      have hmg : s4.mg = s1.mg := by rw [n4.eq_cores]
      rw [if_pos hr', hmg]
      rfl
    · have hn' := n4.of_cores (t := s1.writeExt (deviceAddrs s1.mg pa bytes.length) bytes) rfl rfl
      rw [n4.eq_cores]
      exact hn'
  · cases hw

end Sys2Proof.Machine
end

section
/-! PROOFS. The scalar stores (05 R187), and the bytes that they leave alone (O30). -/

namespace Sys2Proof.Machine
open Sys2Proof.Claims

/-! ## The three stores -/

theorem length_bytesOfNat (n v : Nat) : (bytesOfNat n v).length = n := by
  induction n generalizing v with
  | zero => rfl
  | succ n ih => rw [bytesOfNat, List.length_cons, ih]

/-- The core with one more access in its store buffer. -/
def Core.buffered (c : Core) (e : SbEntry) : Core := { c with sb := c.sb ++ [e] }

@[simp] theorem Core.buffered_loc (c : Core) (e : SbEntry) : (c.buffered e).loc = c.loc := rfl

theorem pushSb_buffered {s s' : State} {c : Core} {e : SbEntry} (hn : Near s s' c) (h : c.sb.length < 16) :
    (pushSb e).run s' = .ok () (s'.setMe (c.buffered e)) := by
  rw [pushSb_ok (by rw [hn.1]; exact h), hn.1]
  rfl

theorem stx_ok {x : FormM} {s s1 s2 : State} {v : Word} {pa : Nat} {c1 : Core} (h : Issues (.stx x) s)
    (hv : scalarRead s.me x.d = some (v, c1)) (ha : effective s.me x % 2 ^ x.sz.toNat = 0)
    (ht : Translates s (effective s.me x) true pa s1) (hrel : ReleaseReady s x)
    (hw : extWrite s1 pa (bytesOfNat (2 ^ x.sz.toNat) v.toNat) = some s2) :
    exec (.stx x) s = .next (s2.completed (postBase (ordered c1 (x.rl = 1)) x)) :=
  storeOp_ok (put := fun ea bytes => extStore ea bytes (trunc 64 ea)) h hv ha hrel
    ((ordered_sameStore c1 _).spec.trans (scalarRead_spec hv h.2.2.1)) fun _ hn => extStore_near hn ht hw

/-- The home of a CLU access, with another core executing. -/
theorem resolveClu_near {s s' : State} {c : Core} {ea : Int} {spread : Bool} {ci lid a : Nat} (hn : Near s s' c)
    (h0 : 0 ≤ ea) (h1 : ea < 2 ^ 22) (hsplit : cluSplit spread ea.toNat = (ci, a)) (hmate : clusterMate s ci = some lid) :
    (resolveClu ea spread).run s' = .ok (lid, a) s' := by
  have hmate' : clusterMate s' ci = some lid := by rw [hn.eq_cores]; exact hmate
  unfold resolveClu
  rw [if_neg (by omega), hsplit]
  simp only
  rw [op_bind_ok (op_get s'), hmate']
  rfl

theorem stc_ok {x : FormM} {s : State} {v : Word} {lid a : Nat} {c1 : Core} (h : Issues (.stc x) s)
    (hv : scalarRead s.me x.d = some (v, c1)) (hclu : CluAccess s x (effective s.me x) (2 ^ x.sz.toNat) lid a)
    (hrel : ReleaseReady s x) (hroom : s.me.sb.length < 16) :
    exec (.stc x) s = .next (s.completed (postBase ((ordered c1 (x.rl = 1)).buffered
      (.store lid a (bytesOfNat (2 ^ x.sz.toNat) v.toNat))) x)) := by
  obtain ⟨h0, h1, halign, ci, hsplit, hmate⟩ := hclu
  have hsame := (scalarRead_sameStore hv h.2.2.1).trans (ordered_sameStore c1 (x.rl = 1))
  refine storeOp_ok h hv ?_ hrel (hsame.spec.trans h.2.2.1) fun s' hn => ⟨_, ?_, hn.setMe _⟩
  · simpa using halign
  · unfold cluStore
    rw [op_bind_ok (resolveClu_near hn h0 h1 hsplit hmate)]
    exact pushSb_buffered hn (by rw [hsame.sb]; exact hroom)

theorem stl_ok {x : FormM} {s : State} {v : Word} {c1 : Core} (h : Issues (.stl x) s)
    (hv : scalarRead s.me x.d = some (v, c1)) (hloc : LocAccess c1 (effective s.me x) (2 ^ x.sz.toNat))
    (hrel : ReleaseReady s x) (hroom : s.me.sb.length < 16) :
    exec (.stl x) s = .next (s.completed (postBase ((ordered c1 (x.rl = 1)).buffered
      (.store s.cur (effective s.me x).toNat (bytesOfNat (2 ^ x.sz.toNat) v.toNat))) x)) := by
  have hsame := (scalarRead_sameStore hv h.2.2.1).trans (ordered_sameStore c1 (x.rl = 1))
  have hordered : LocAccess (ordered c1 (x.rl = 1)) (effective s.me x) (2 ^ x.sz.toNat) := by
    unfold ordered
    split
    · exact hloc
    · exact hloc
  obtain ⟨h0, h1, halign, hspill, hbank⟩ := hordered
  refine storeOp_ok h hv (by simpa using halign) hrel (hsame.spec.trans h.2.2.1) fun s' hn => ⟨_, ?_, hn.setMe _⟩
  have hres : (resolveLoc (effective s.me x)).run s' = .ok (.loc (effective s.me x).toNat) s' :=
    resolveLoc_loc h0 h1 (by rw [hn.1]; simpa [redirected] using hspill)
  refine stlAt_loc (by simpa [length_bytesOfNat] using halign) hres ?_
  rw [locStore_ok (by rw [hn.1]; exact hbank) (by rw [hn.1, hsame.spec, h.2.2.1])
    (by rw [hn.1, hsame.sb]; exact hroom), hn.1, hn.cur]
  rfl

/-! ## What they leave -/

/-- Completing with a core of the same LOC changes no LOC. -/
theorem completed_loc {s t : State} {c : Core} (hcores : t.cores = s.cores) (hcur : t.cur = s.cur)
    (hloc : c.loc = s.me.loc) (lid : Nat) : ((t.completed c).core lid).loc = (s.core lid).loc := by
  have hcore : t.core lid = s.core lid := by rw [State.core, hcores, ← State.core]
  by_cases hl : lid = t.cur
  · subst hl
    have hc : (c.completed t.inRpt).loc = c.loc := by
      unfold Core.completed
      split <;> rfl
    rw [State.completed, State.core_setMe_self, hc, hloc, hcur, State.me]
  · rw [State.completed, State.core_setMe_ne _ hl, hcore]

/-- A write of EXT that is accepted: its bytes at its device addresses, and nothing else changed. -/
theorem extWrite_some {s t : State} {pa : Nat} {bytes : List Byte} (h : extWrite s pa bytes = some t) :
    reachable s pa bytes.length = true ∧ t = s.writeExt (deviceAddrs s.mg pa bytes.length) bytes := by
  unfold extWrite at h
  split at h
  · next hr => exact ⟨hr, (Option.some.inj h).symm⟩
  · cases h

/-- A reachable address is decoded. -/
theorem hdmRange_of_reachable {s : State} {pa n : Nat} (h : reachable s pa n = true) (hn : 0 < n) :
    ∃ i, hdmRange s.mg pa = some i := by
  have h0 := List.all_eq_true.1 h 0 (List.mem_range.2 hn)
  cases hr : hdmRange s.mg pa with
  | some i => exact ⟨i, rfl⟩
  | none => simp [homeTarget, hr] at h0

/-- The bytes of a write within one granule read back. -/
theorem extBytes_of_write {s t : State} {pa : Nat} {bytes : List Byte} (h : extWrite s pa bytes = some t)
    (hgranule : pa % 256 + bytes.length ≤ 256) (hne : 0 < bytes.length) : extBytes t pa bytes.length = bytes := by
  obtain ⟨hr, rfl⟩ := extWrite_some h
  obtain ⟨i, hi⟩ := hdmRange_of_reachable hr hne
  exact writeDevices_reads (deviceAddrs_nodup hi hgranule) (by simp [deviceAddrs])

/-- An aligned scalar access lies in one granule. -/
theorem granule_of_aligned {ea : Int} {pa : Nat} {sz : BitVec 2} (_ : 0 ≤ ea) (ha : ea % 2 ^ sz.toNat = 0)
    (hp : pa % 4096 = ea.toNat % 4096) : pa % 256 + 2 ^ sz.toNat ≤ 256 := by
  have hsz : sz.toNat = 0 ∨ sz.toNat = 1 ∨ sz.toNat = 2 ∨ sz.toNat = 3 := by have := sz.isLt; omega
  rcases hsz with h | h | h | h <;> rw [h] at ha ⊢ <;> omega

end Sys2Proof.Machine

namespace Sys2Proof.Proofs
open Sys2Proof.Machine Sys2Proof.Claims

/-- Settles O30: stx writes at the device addresses of one granule, which are different, and stl and stc change the store buffer. -/
theorem storesTouchOnlyTheirBytes : Obligations.StoresTouchOnlyTheirBytes := by
  refine ⟨?stx, ?stc, ?stl⟩
  case stx =>
    intro x s s1 s2 v pa c1 hI hv ha ht hrel hw
    have hlen := length_bytesOfNat (2 ^ x.sz.toNat) v.toNat
    have hsame := (scalarRead_sameStore hv hI.2.2.1).trans (ordered_sameStore c1 (x.rl = 1))
    obtain ⟨hplace, eng, b, hs1⟩ := place_of_translates ht
    obtain ⟨_, hs2⟩ := extWrite_some hw
    refine ⟨_, stx_ok hI hv ha ht hrel hw, fun d hd => ?_, ?_, fun lid a => ?_⟩
    · rw [State.completed_ext, hs2, hs1, hlen]
      exact writeDevices_outside _ _ _ _ hd
    · have hgranule := granule_of_aligned ht.1 ha hplace
      have hbytes := extBytes_of_write hw (by rw [hlen]; exact hgranule) (by rw [hlen]; exact Nat.two_pow_pos _)
      rw [hlen] at hbytes
      exact hbytes
    · rw [completed_loc (s := s) (by rw [hs2, hs1]; rfl) (by rw [hs2, hs1]; rfl) ((postBase_loc _ x).trans hsame.loc)]
  case stc =>
    intro x s v lid a c1 hI hv hclu hrel hroom
    have hsame := (scalarRead_sameStore hv hI.2.2.1).trans (ordered_sameStore c1 (x.rl = 1))
    exact ⟨_, stc_ok hI hv hclu hrel hroom, rfl, fun lid' b =>
      congrArg (Table.get 0 · b) (completed_loc rfl rfl ((postBase_loc (Core.buffered _ _) x).trans hsame.loc) lid')⟩
  case stl =>
    intro x s v c1 hI hv hloc hrel hroom
    have hsame := (scalarRead_sameStore hv hI.2.2.1).trans (ordered_sameStore c1 (x.rl = 1))
    exact ⟨_, stl_ok hI hv hloc hrel hroom, rfl, fun lid' b =>
      congrArg (Table.get 0 · b) (completed_loc rfl rfl ((postBase_loc (Core.buffered _ _) x).trans hsame.loc) lid')⟩

end Sys2Proof.Proofs
end

section
/-! PROOFS. The CLU atomics (12 R389-R393): what they check, where they note a step's acas and put their request, and how they
wait. -/

namespace Sys2Proof.Machine
open Sys2Proof.Claims

/-! ## Waiting behind a step that stands (05 R169; 09 R307) -/

theorem setProgress_run (n : Nat) (s : State) : (setProgress n).run s = .ok () (progressed s n) := by
  unfold setProgress progressed
  rw [op_bind_ok (op_get s)]
  cases h : s.inRpt <;> simp

@[simp] theorem progressed_inRpt (s : State) (n : Nat) : (progressed s n).inRpt = s.inRpt := rfl

@[simp] theorem progressed_cycle (s : State) (n : Nat) : (progressed s n).cycle = s.cycle := rfl

theorem progressed_progress (s : State) (n : Nat) : (progressed s n).progress = n := by
  unfold State.progress progressed
  cases h : s.inRpt <;> simp [h]

theorem markIssued_progress (s : State) : s.markIssued.progress = s.progress := by
  unfold State.progress State.markIssued
  cases h : s.inRpt <;> simp [h]

/-- An instruction that has made its next step and waits. -/
theorem issueSeq_held {i : Instr} {s u : State} {body : Op Unit} {n : Nat} {val : Word} (h : Issues i s)
    (hb : body.run s = .error (.hold val) (progressed u n)) (hp : n ≠ s.progress) :
    issueSeq i body s = .next (heldAt u n val) := by
  unfold issueSeq
  rw [issue_run h, op_bind, hb]
  have hne : (n != s.progress) = true := by simpa using hp
  simp [finish, heldAt, progressed_progress, markIssued_progress, hne]

theorem heldAt_near {u s' : State} {c : Core} (n : Nat) (val : Word) (hn : Near u s' c) :
    heldAt s' n val = heldAt (u.setMe c) n val := by
  simp [heldAt, progressed, State.markIssued, hn.1, hn.2, hn.inRpt, hn.cycle]

theorem heldAt_setMe_me (u : State) (n : Nat) (val : Word) : heldAt (u.setMe u.me) n val = heldAt u n val :=
  (heldAt_near n val (Near.refl u)).symm

/-! ## The engine's tables, seen by a core that has read its operands -/

theorem notedAcas_cores (s : State) (op : BitVec 8) : (notedAcas s op).cores = s.cores := by
  unfold notedAcas
  split <;> rfl

theorem notedAcas_cur (s : State) (op : BitVec 8) : (notedAcas s op).cur = s.cur := by
  unfold notedAcas
  split <;> rfl

theorem notedAcas_me (s : State) (op : BitVec 8) : (notedAcas s op).me = s.me := by
  rw [State.me, State.core, notedAcas_cores, notedAcas_cur, ← State.core, ← State.me]

theorem noteAcas_near {s s' : State} {c : Core} (op : BitVec 8) (hn : Near s s' c) (hdet : c.det = s.me.det) :
    ∃ s2, (noteAcas op).run s' = .ok () s2 ∧ Near (notedAcas s op) s2 c := by
  refine ⟨_, ?_, hn.of_cores (notedAcas_cores s op) (notedAcas_cur s op)⟩
  unfold noteAcas notedAcas
  rw [op_bind_ok (op_get s'), hn.1, hdet]
  by_cases h : s.me.det = true ∧ op = 0xC9
  · rw [if_pos (by simpa using h), if_pos h, hn.eq_cores]
    rfl
  · rw [if_neg (by simpa using h), if_neg h, ← hn.eq_cores]
    rfl

theorem requestLine_near {s s' : State} {c : Core} (r : AtomReq) (hn : Near s s' c) (hdet : c.det = s.me.det) :
    ∃ s2, (requestLine r).run s' = .ok () s2 ∧ Near (requested s r) s2 c := by
  refine ⟨{ requested s r with cores := s'.cores }, ?_, hn.of_cores rfl rfl⟩
  unfold requestLine requested
  rw [op_bind_ok (op_get s'), hn.1, hdet]
  dsimp only
  by_cases h : s.me.det = true ∧ r.op = 0xC9
  · rw [if_pos (by simpa using h), if_pos h, hn.eq_cores]
    rfl
  · rw [if_neg (by simpa using h), if_neg h, hn.eq_cores]
    rfl

/-! ## Operands and checks of a CLU atomic -/

/-- An acquire or release that has no access to wait for discards the words fetched ahead. -/
theorem discarded_near {s s' : State} {c : Core} (hn : Near s s' c) (b : BitVec 1) :
    ∃ s2, Near s s2 (ordered c (b = 1)) ∧ ∀ {β : Type} (k : Unit → Op β),
      (if b = 1 then discardFetched >>= k else k ()).run s' = (k ()).run s2 := by
  by_cases hb : b = 1
  · refine ⟨s'.setMe { s'.me with oldWords := [] }, ?_, fun k => ?_⟩
    · rw [hn.1, ordered, if_pos hb]
      exact hn.setMe _
    · have hd : discardFetched.run s' = .ok () (s'.setMe { s'.me with oldWords := [] }) := modMe_run _ s'
      rw [if_pos hb, op_bind_ok hd]
  · refine ⟨s', ?_, fun k => by rw [if_neg hb]⟩
    rwa [ordered, if_neg hb]

theorem atomicRead_sameStore {c c' : Core} {x : FormA} {op : BitVec 8} {b d : Word}
    (h : atomicRead c x op = some (b, d, c')) (hs : c.spec = none) : c.SameStore c' := by
  unfold atomicRead at h
  split at h
  · cases h
  · next hb =>
    have h1 := scalarRead_sameStore hb hs
    split at h
    · obtain ⟨p, hp, he⟩ := Option.map_eq_some_iff.1 h
      cases he
      exact h1.trans (scalarRead_sameStore hp (h1.spec.trans hs))
    · cases h
      exact h1

theorem atomicOperands_near {s : State} {x : FormA} {op : BitVec 8} {b d : Word} {c : Core}
    (h : atomicRead s.me x op = some (b, d, c)) :
    ∃ s1, (atomicOperands x (op == 0xC9)).run s = .ok (atomicAddress s.me x, b, d) s1 ∧ Near s s1 c := by
  unfold atomicRead at h
  unfold atomicOperands
  split at h
  · cases h
  · next b' c1 hb =>
    obtain ⟨s1, e1, n1⟩ := readS_near (Near.refl s) hb
    rw [op_bind_ok (readBase_run x.a s), op_bind_ok e1]
    split at h
    · next hop =>
      obtain ⟨⟨d', c2⟩, hc, he⟩ := Option.map_eq_some_iff.1 h
      cases he
      obtain ⟨s2, e2, n2⟩ := readS_near n1 hc
      refine ⟨s2, ?_, n2⟩
      dsimp only
      rw [if_pos (by simpa using hop), op_bind_ok e2]
      rfl
    · next hop =>
      cases h
      refine ⟨s1, ?_, n1⟩
      dsimp only
      rw [if_neg (by simpa using hop)]
      rfl

/-- The poison of a LOC, with a core of the same LOC executing. -/
theorem Near.locPoisoned {s s' : State} {c : Core} (hn : Near s s' c) (hc : s.me.SameStore c) (lid a n : Nat) :
    (s'.core lid).locPoisoned a n = (s.core lid).locPoisoned a n := by
  have hcore : s'.core lid = (s.setMe c).core lid := by
    rw [← hn.2 c, ← hn.1]
    by_cases h : lid = s'.cur
    · subst h; rw [State.core_setMe_self]; rfl
    · rw [State.core_setMe_ne _ h]
  by_cases h : lid = s.cur
  · subst h
    rw [hcore, State.core_setMe_self, Core.locPoisoned, hc.locPoison]
    rfl
  · rw [hcore, State.core_setMe_ne _ h]

theorem atomicChecks_ok {s s' : State} {c : Core} {x : FormA} {op : BitVec 8} {lid a : Nat} (hn : Near s s' c)
    (hc : s.me.SameStore c) (h : AtomicOk s x op lid a) :
    (atomicChecks x op lid a (atomicWidth x)).run s' = .ok () s' := by
  obtain ⟨_, _, _, _, hpoison, hdet, _⟩ := h
  have hme : s'.me.det = s.me.det := by rw [hn.1, hc.det]
  have hused : Table.get 0 (s'.cluster (clusterOf s'.cur)).detUsed s'.cur
      = Table.get 0 (s.cluster (clusterOf s.cur)).detUsed s.cur := by rw [hn.eq_cores]; rfl
  have hstep : s'.detStep s'.cur = s.detStep s.cur := by rw [hn.eq_cores]; rfl
  have hform : (s'.me.det && detForbids op x.d) = false := by
    cases hd : s.me.det with
    | false => rw [hme, hd]; rfl
    | true =>
      obtain ⟨hswap, hincl, hanswer, _⟩ := hdet hd
      rw [hme, hd, Bool.true_and, detForbids, beq_false_of_ne hswap, beq_false_of_ne hincl]
      rcases hanswer with h0 | h0 <;> simp [h0]
  have hstepped : (s'.me.det && op == 0xC9
      && Table.get 0 (s'.cluster (clusterOf s'.cur)).detUsed s'.cur == s'.detStep s'.cur) = false := by
    rw [hme, hused, hstep]
    cases hd : s.me.det with
    | false => rfl
    | true =>
      by_cases hop : op = 0xC9
      · simpa [hop] using (hdet hd).2.2.2 hop
      · rw [beq_false_of_ne hop]; rfl
  unfold atomicChecks
  rw [op_bind_ok (op_get s')]
  simp only [hform, hstepped, hn.locPoisoned hc, hpoison, Bool.false_eq_true, if_false]
  rfl

/-- A CLU atomic that may go to its home: its operands are read, its checks pass, its release is performed. -/
theorem atomic_ready {s : State} {x : FormA} {op : BitVec 8} {lid a : Nat} {b d : Word} {c : Core}
    (hspec : s.me.spec = none) (hr : atomicRead s.me x op = some (b, d, c)) (hok : AtomicOk s x op lid a) :
    ∃ s1 s2, (atomicOperands x (op == 0xC9)).run s = .ok (atomicAddress s.me x, b, d) s1
      ∧ (checkAlign (atomicAddress s.me x) (atomicWidth x)).run s1 = .ok () s1
      ∧ (resolveClu (atomicAddress s.me x) (x.cm == 1)).run s1 = .ok (lid, a) s1
      ∧ (atomicChecks x op lid a (atomicWidth x)).run s1 = .ok () s1
      ∧ Near s s2 (ordered c (x.rl = 1))
      ∧ ∀ {β : Type} (k : Unit → Op β),
        (if x.rl = 1 then releaseAt x.sc.toNat >>= k else k ()).run s1 = (k ()).run s2 := by
  have hc := atomicRead_sameStore hr hspec
  obtain ⟨s1, e1, n1⟩ := atomicOperands_near hr
  have hchecks := atomicChecks_ok n1 hc hok
  obtain ⟨h0, h1, halign, ⟨ci, hsplit, hmate⟩, _, _, hrel⟩ := hok
  obtain ⟨s2, n2, e2⟩ := releaseAt_near n1 hc hrel
  exact ⟨s1, s2, e1, checkAlign_ok halign s1, resolveClu_near n1 h0 h1 hsplit hmate, hchecks, n2, e2⟩

/-! ## The three ways of a CLU atomic -/

theorem run_ok {α β : Type} {m : Op α} {f : α → Op β} {s s' : State} {a : α} {r : EStateM.Result Stop State β}
    (h : m.run s = .ok a s') (hf : (f a).run s' = r) : (m >>= f).run s = r := (op_bind_ok h).trans hf

theorem run_if_pos {α : Type} {p : Prop} [Decidable p] {m k : Op α} {s : State} {r : EStateM.Result Stop State α} (h : p)
    (hm : m.run s = r) : (if p then m else k).run s = r := by rw [if_pos h, hm]

theorem run_if_neg {α : Type} {p : Prop} [Decidable p] {m k : Op α} {s : State} {r : EStateM.Result Stop State α} (h : ¬p)
    (hk : k.run s = r) : (if p then m else k).run s = r := by rw [if_neg h, hk]

/-- Its result not read, it enters the store buffer. -/
theorem atomicOp_buffered {i : Instr} {x : FormA} {op : BitVec 8} {s : State} {lid a : Nat} {b d : Word} {c : Core}
    (h : Issues i s) (hp : s.progress = 0) (hr : atomicRead s.me x op = some (b, d, c)) (hok : AtomicOk s x op lid a)
    (hd : x.d = 0) (haq : x.aq = 0) (hroom : s.me.sb.length < 16) :
    atomicOp i x op s = .next ((notedAcas s op).completed { ordered c (x.rl = 1) with
      sb := s.me.sb ++ [.atomic op lid a (atomicWidth x) b d] }) := by
  obtain ⟨s1, s2, e1, e2, e3, e4, n2, e5⟩ := atomic_ready h.2.2.1 hr hok
  have hsame := (atomicRead_sameStore hr h.2.2.1).trans (ordered_sameStore c (x.rl = 1))
  obtain ⟨s3, e6, n3⟩ := noteAcas_near op n2 hsame.det
  have hroom2 : decide (s2.me.sb.length < 16) = true := by rw [n2.1, hsame.sb]; simpa using hroom
  have e7 := pushSb_buffered (e := .atomic op lid a (atomicWidth x) b d) n3 (by rw [hsame.sb]; exact hroom)
  have hbuf : { ordered c (x.rl = 1) with sb := s.me.sb ++ [.atomic op lid a (atomicWidth x) b d] }
      = (ordered c (x.rl = 1)).buffered (.atomic op lid a (atomicWidth x) b d) := by
    rw [Core.buffered, hsame.sb]
  rw [hbuf]
  refine issueSeq_done h ?_ (n3.setMe _) (hsame.spec.trans h.2.2.1)
  refine run_ok (op_get s) (run_ok e1 (run_if_pos hp (run_ok e2 (run_ok e3 (run_ok e4 ?_)))))
  refine (e5 _).trans (run_if_pos ⟨hd, haq⟩ (run_ok (getMe_run s2) ?_))
  rw [hroom2]
  exact run_ok (waitUnless_true _ s2) (run_ok e6 (run_ok e7 rfl))

/-- Its result read, it goes to its engine from an empty store buffer, and waits; its operands stay where they are. -/
theorem atomicOp_requested {i : Instr} {x : FormA} {op : BitVec 8} {s : State} {lid a : Nat} {b d : Word} {c : Core}
    (h : Issues i s) (hp : s.progress = 0) (hr : atomicRead s.me x op = some (b, d, c)) (hok : AtomicOk s x op lid a)
    (hd : ¬(x.d = 0 ∧ x.aq = 0)) (hempty : s.me.sb = []) :
    atomicOp i x op s
      = .next (heldAt ((requested (notedAcas s op) (lineRequest op lid a (atomicWidth x) b d true)).setMe
          (ordered s.me (x.rl = 1))) 1 atomicWait) := by
  obtain ⟨s1, s2, e1, e2, e3, e4, n2, e5⟩ := atomic_ready h.2.2.1 hr hok
  have hsame := (atomicRead_sameStore hr h.2.2.1).trans (ordered_sameStore c (x.rl = 1))
  have hempty2 : s2.me.sb.isEmpty = true := by rw [n2.1, hsame.sb, hempty]; rfl
  obtain ⟨s3, n3, e6⟩ := discarded_near (Near.refl s) x.rl
  have hdet := (ordered_sameStore s.me (x.rl = 1)).det
  obtain ⟨s4, e7, n4⟩ := noteAcas_near op n3 hdet
  obtain ⟨s5, e8, n5⟩ := requestLine_near (lineRequest op lid a (atomicWidth x) b d true) n4
    (hdet.trans (congrArg Core.det (notedAcas_me s op).symm))
  rw [← heldAt_near 1 atomicWait n5]
  refine issueSeq_held h ?_ (by rw [hp]; exact one_ne_zero)
  refine run_ok (op_get s) (run_ok e1 (run_if_pos hp (run_ok e2 (run_ok e3 (run_ok e4 ?_)))))
  refine (e5 _).trans (run_if_neg hd (run_ok (getMe_run s2) ?_))
  rw [hempty2]
  refine run_ok (waitUnless_true _ s2) (run_ok (s' := s) (a := ⟨⟩) rfl ?_)
  refine (e6 _).trans (run_ok e7 (run_ok e8 (run_ok (setProgress_run 1 s5) rfl)))

/-- The answer there, it completes: its operands are read, the answer is taken and written. -/
theorem atomicOp_answered {i : Instr} {x : FormA} {op : BitVec 8} {s : State} {b d w : Word} {c c1 : Core}
    (h : Issues i s) (hp : s.progress ≠ 0) (hr : atomicRead s.me x op = some (b, d, c)) (hans : s.me.answer = some w)
    (hd : scalarWrite { c with answer := none } x.d w = some c1) :
    atomicOp i x op s = .next (s.completed (ordered c1 (x.aq = 1))) := by
  have hsame := atomicRead_sameStore hr h.2.2.1
  obtain ⟨s1, e1, n1⟩ := atomicOperands_near hr
  have hans1 : s1.me.answer = some w := by rw [n1.1, hsame.answer, hans]
  have n2 : Near s (s1.setMe { s1.me with answer := none }) { c with answer := none } := by rw [n1.1]; exact n1.setMe _
  obtain ⟨s3, e3, n3⟩ := writeS_near n2 hd
  obtain ⟨s4, n4, e4⟩ := discarded_near n3 x.aq
  have hspec : c1.spec = none := scalarWrite_spec hd (hsame.spec.trans h.2.2.1)
  refine issueSeq_near h ?_ n4 ((ordered_sameStore c1 (x.aq = 1)).spec.trans hspec)
  refine run_ok (op_get s) (run_ok e1 (run_if_neg hp (run_ok (getMe_run s1) ?_)))
  rw [hans1]
  refine run_ok (modMe_run _ s1) (run_ok e3 ?_)
  exact e4 pure

end Sys2Proof.Machine
end

section
/-! PROOFS. The cell instructions (12 R384, R392, R394-R396), and the CLU atomics and cell instructions together (O56). -/

namespace Sys2Proof.Machine
open Sys2Proof.Claims

/-! ## A cell's number, its request and its answer -/

theorem cellNumber_run {x : FormA} {s : State} {n : Nat} (h : CellAt s.me x n) : (cellNumber x).run s = .ok n s := by
  obtain ⟨hsum, hlt⟩ := h
  unfold cellNumber
  refine run_ok (readBase_run x.a s) ?_
  dsimp only
  rw [hsum, if_neg (by omega)]
  rfl

theorem requestCell_near {s s' : State} {c : Core} {op : BitVec 8} {n : Nat} {b : Word} {ft : BitVec 2} {exc answer : Bool}
    (hn : Near s s' c) (hfree : CellFree s) :
    ∃ s2, (requestCell op n b ft exc answer).run s' = .ok () s2 ∧ Near (cellRequested s c op n b ft exc answer) s2 c := by
  refine ⟨{ cellRequested s c op n b ft exc answer with cores := s'.cores }, ?_, hn.of_cores rfl rfl⟩
  have hfree' : (Table.find (s'.cluster (clusterOf s'.cur)).cellReqs s'.cur).isNone = true := by
    rw [hn.eq_cores]
    exact Option.isNone_iff_eq_none.2 hfree
  unfold requestCell
  refine run_ok (op_get s') ?_
  dsimp only
  rw [hfree', hn.1]
  refine run_ok (waitUnless_true _ s') ?_
  rw [hn.eq_cores]
  rfl

theorem takeAnswer_run {s : State} {w : Word} (h : s.me.answer = some w) :
    takeAnswer.run s = .ok w (s.setMe { s.me with answer := none }) := by
  unfold takeAnswer
  refine run_ok (getMe_run s) ?_
  rw [h]
  rfl

/-- The low 32 bits of a word. -/
theorem and_low32 (w : Word) : w &&& 0xFFFFFFFF = .ofNat 64 (bitsOf w 0 32) := by
  apply BitVec.eq_of_toNat_eq
  have hmask : w.toNat &&& (2 ^ 32 - 1) = w.toNat % 2 ^ 32 := Nat.and_two_pow_sub_one_eq_mod _ 32
  simp [bitsOf] at hmask ⊢
  omega

/-! ## Reading a cell -/

/-- A read of a cell that asks for it: its request stands, and the core waits. -/
theorem cellReadOp_requested {i : Instr} {x : FormA} {op : BitVec 8} {s : State} {n : Nat} (h : Issues i s)
    (hp : s.progress = 0) (hn : CellAt s.me x n) (hfree : CellFree s) :
    issueSeq i (cellReadOp x op) s = .next (heldAt (cellRequested s s.me op n 0 0 false true) 1 atomicWait) := by
  obtain ⟨s2, e2, n2⟩ := requestCell_near (op := op) (n := n) (b := 0) (ft := 0) (exc := false) (answer := true)
    (Near.refl s) hfree
  have hheld : heldAt s2 1 atomicWait = heldAt (cellRequested s s.me op n 0 0 false true) 1 atomicWait :=
    (heldAt_near 1 atomicWait n2).trans (heldAt_setMe_me _ 1 atomicWait)
  rw [← hheld]
  refine issueSeq_held h ?_ (by rw [hp]; exact one_ne_zero)
  exact run_ok (op_get s) (run_if_pos hp (run_ok (cellNumber_run hn) (run_ok e2 (run_ok (setProgress_run 1 s2) rfl))))

/-- A read of a cell whose answer is there: the flags of the answer are raised, and its sum is written. -/
theorem cellReadOp_answered {i : Instr} {x : FormA} {op : BitVec 8} {s : State} {w : Word} {c : Core} (h : Issues i s)
    (hp : s.progress ≠ 0) (hans : s.me.answer = some w)
    (hd : scalarWrite ({ s.me with answer := none }.raiseFlags (w.extractLsb' 32 7)) x.d (.ofNat 64 (bitsOf w 0 32))
      = some c) :
    issueSeq i (cellReadOp x op) s = .next (s.completed c) := by
  have hraised := raiseFlags_sameStore (c := { s.me with answer := none }) (w.extractLsb' 32 7) h.2.2.1
  have hflags : (raise (w.extractLsb' 32 7)).run (s.setMe { s.me with answer := none })
      = .ok () (s.setMe ({ s.me with answer := none }.raiseFlags (w.extractLsb' 32 7))) := by
    rw [raise, modMe_run, State.me_setMe, State.setMe_setMe]
  obtain ⟨s2, e2, n2⟩ := writeS_near (Near.set s _) hd
  refine issueSeq_near h ?_ n2 (scalarWrite_spec hd (hraised.spec.trans h.2.2.1))
  refine run_ok (op_get s) (run_if_neg hp (run_ok (takeAnswer_run hans) (run_ok hflags ?_)))
  rw [and_low32]
  exact e2

/-- afclr that reads is a read of a cell. -/
theorem execAfclr_read {x : FormA} (h : x.d ≠ 0) : execAfclr x = issueSeq (.afclr x) (cellReadOp x 0xCD) := by
  unfold execAfclr
  rw [if_neg h]

/-! ## The instructions that do not wait -/

theorem afadd_ok {x : FormA} {s : State} {b : Word} {c : Core} {n : Nat} {nv : Bool} (h : Issues (.afadd x) s)
    (hb : scalarRead s.me x.b = some (b, c)) (hn : CellAt s.me x n) (hfree : CellFree s)
    (hnv : nv = (cellAddend x.ft c.ftz b).isSignalling) :
    execAfadd x s = .next ((cellRequested s c 0xCB n b x.ft (excNow c || nv) false).completed
      (if nv then c.raiseFlags flagNV else c)) := by
  have hsame := scalarRead_sameStore hb h.2.2.1
  have hspec : c.spec = none := hsame.spec.trans h.2.2.1
  obtain ⟨s1, e1, n1⟩ := readS_near (Near.refl s) hb
  obtain ⟨s2, e2, n2⟩ := requestCell_near (op := 0xCB) (n := n) (b := b) (ft := x.ft) (exc := excNow c || nv)
    (answer := false) n1 hfree
  have hn1 : CellAt s1.me x n := by
    rw [n1.1]
    unfold CellAt Core.reg
    rw [hsame.regs]
    exact hn
  have hbody : ∀ {s3 : State}, (if nv = true then raise flagNV else pure () : Op Unit).run s2 = .ok () s3 →
      (do
        let b ← readS x.b
        let n ← cellNumber x
        let c ← getMe
        let nv := (cellAddend x.ft c.ftz b).isSignalling
        requestCell 0xCB n b x.ft (c.fpFlagsRead.getLsbD 6 || nv) false
        if nv then raise flagNV : Op Unit).run s = .ok () s3 := by
    intro s3 e3
    refine run_ok e1 (run_ok (cellNumber_run hn1) (run_ok (getMe_run s1) ?_))
    dsimp only
    rw [n1.1, ← hnv]
    exact run_ok e2 e3
  cases nv with
  | false => exact issueSeq_done h (hbody rfl) n2 hspec
  | true =>
    have hraised := raiseFlags_sameStore flagNV hspec
    refine issueSeq_done h (hbody (modMe_run (·.raiseFlags flagNV) s2)) ?_ (hraised.spec.trans hspec)
    rw [n2.1]
    exact n2.setMe _

theorem afclr_ok {x : FormA} {s : State} {n : Nat} (h : Issues (.afclr x) s) (hd : x.d = 0) (hn : CellAt s.me x n)
    (hfree : CellFree s) :
    execAfclr x s = .next ((cellRequested s s.me 0xCD n 0 0 false false).completed s.me) := by
  obtain ⟨s2, e2, n2⟩ := requestCell_near (op := 0xCD) (n := n) (b := 0) (ft := 0) (exc := false) (answer := false)
    (Near.refl s) hfree
  exact issueSeq_done h (run_if_pos hd (run_ok (cellNumber_run hn) e2)) n2 h.2.2.1

theorem afence_ok {x : FormA} {s : State} (h : Issues (.afence x) s)
    (hsb : ∀ op l a w b d, .atomic op l a w b d ∉ s.me.sb) (hfree : CellFree s) :
    execAfence x s = .next (s.completed s.me) := by
  have hstores : ∀ p : SbEntry → Bool, (∀ home a bytes, p (.store home a bytes) = false) → s.me.sb.any p = false := by
    intro p hp
    rw [List.any_eq_false]
    intro e he
    cases e with
    | store home a bytes => rw [hp]; exact Bool.false_ne_true
    | atomic op l a w b d => exact absurd he (hsb op l a w b d)
  have hpending : s.cellPending s.cur = false := by
    rw [State.cellPending, hfree]
    rfl
  refine issueSeq_near h ?_ (Near.refl s) h.2.2.1
  refine run_ok (op_get s) ?_
  dsimp only
  rw [hpending, hstores]
  · rfl
  · exact fun _ _ _ => rfl

end Sys2Proof.Machine

namespace Sys2Proof.Proofs
open Sys2Proof.Machine Sys2Proof.Claims

/-- The CLU atomics have one meaning, by their opcode. -/
theorem exec_atomic {p : (FormA → Instr) × BitVec 8 × (Nat → Nat → Nat → Nat → Nat)} (hp : p ∈ atomics) (x : FormA) (s : State) :
    exec (p.1 x) s = atomicOp (p.1 x) x p.2.1 s := by
  simp only [atomics, List.mem_cons, List.not_mem_nil, or_false] at hp
  rcases hp with h | h | h | h | h | h | h | h | h | h | h <;> (subst h; rfl)

/-- afrd, and afclr that reads, are reads of a cell. -/
theorem exec_cellRead {p : (FormA → Instr) × BitVec 8}
    (hp : p ∈ ([(.afrd, 0xCC), (.afclr, 0xCD)] : List ((FormA → Instr) × BitVec 8))) {x : FormA} (hd : p.2 = 0xCD → x.d ≠ 0)
    (s : State) : exec (p.1 x) s = issueSeq (p.1 x) (cellReadOp x p.2) s := by
  simp only [List.mem_cons, List.not_mem_nil, or_false] at hp
  rcases hp with h | h
  · subst h
    rfl
  · subst h
    exact congrFun (execAfclr_read (hd rfl)) s

theorem atomicsCompleteWithTheirAnswer : AtomicsCompleteWithTheirAnswer := by
  refine ⟨?buffered, ?requested, ?answered⟩
  case buffered =>
    intro p hp x s lid a b d c hI hprog hr hok hd haq hroom
    rw [exec_atomic hp, atomicOp_buffered hI hprog hr hok hd haq hroom]
  case requested =>
    intro p hp x s lid a b d c hI hprog hr hok hd hempty
    rw [exec_atomic hp, atomicOp_requested hI hprog hr hok hd hempty]
  case answered =>
    intro p hp x s b d w c c1 hI hprog hr hans hd
    rw [exec_atomic hp, atomicOp_answered hI hprog hr hans hd]

theorem cellInstructionsComplete : CellInstructionsComplete := by
  refine ⟨?afadd, ?request, ?answer, ?afclr, ?afence⟩
  case afadd => exact fun x s b c n nv hI hb hn hfree hnv => afadd_ok hI hb hn hfree hnv
  case request =>
    intro p hp x s n hI hd hprog hn hfree
    rw [exec_cellRead hp hd, cellReadOp_requested hI hprog hn hfree]
  case answer =>
    intro p hp x s w c hI hd hprog hans hw
    rw [exec_cellRead hp hd, cellReadOp_answered hI hprog hans hw]
  case afclr => exact fun x s n hI hd hn hfree => afclr_ok hI hd hn hfree
  case afence => exact fun x s hI hsb hfree => afence_ok hI hsb hfree

/-- Settles O56: the CLU atomics by their three ways through one meaning, the cell instructions each by its own. -/
theorem atomicInstructionsComplete : Obligations.AtomicInstructionsComplete :=
  ⟨atomicsCompleteWithTheirAnswer, cellInstructionsComplete⟩

end Sys2Proof.Proofs
end

section
/-! PROOFS. The order of service of an atomic engine (12 R385, R386): the tables of its requests, the choice among the ready ones, and
what being passed over does. -/

namespace Sys2Proof.Machine
open Sys2Proof.Claims

/-! ## Tables with an entry taken out or changed -/

/-- A table with each value changed, by its key. -/
def Table.mapValues {α β : Type} (f : Nat → α → β) (t : Table α) : Table β := t.map fun e => (e.1, f e.1 e.2)

theorem Table.find_mapValues {α β : Type} (f : Nat → α → β) (t : Table α) (k : Nat) :
    Table.find (Table.mapValues f t) k = (Table.find t k).map (f k) := by
  induction t with
  | nil => rfl
  | cons e t ih =>
    change Table.find ((e.1, f e.1 e.2) :: Table.mapValues f t) k = _
    simp only [Table.find, ih]
    split
    · next h => rw [h]; rfl
    · split <;> rfl

/-- An entry found is an entry read of a table whose unlisted keys read as none. -/
theorem Table.find_eq_get {α : Type} (t : Table α) (k : Nat) :
    Table.find t k = Table.get none (Table.mapValues (fun _ v => some v) t) k := by
  induction t with
  | nil => rfl
  | cons e t ih =>
    change _ = Table.get none ((e.1, some e.2) :: Table.mapValues (fun _ v => some v) t) k
    simp only [Table.find, Table.get, ih]

theorem Table.mapValues_erase {α β : Type} (f : Nat → α → β) (k : Nat) (t : Table α) :
    Table.mapValues f (Table.erase k t) = Table.erase k (Table.mapValues f t) := by
  induction t with
  | nil => rfl
  | cons e t ih =>
    change _ = Table.erase k ((e.1, f e.1 e.2) :: Table.mapValues f t)
    simp only [Table.erase]
    split
    · rfl
    · split
      · simp only [Table.mapValues, List.dropWhile_map]
        rfl
      · rw [← ih]; rfl

theorem Table.find_erase_self {α : Type} (k : Nat) (t : Table α) : Table.find (Table.erase k t) k = none := by
  rw [Table.find_eq_get, Table.mapValues_erase, Table.get_erase_self]

theorem Table.find_erase_ne {α : Type} {k l : Nat} (h : l ≠ k) (t : Table α) :
    Table.find (Table.erase k t) l = Table.find t l := by
  rw [Table.find_eq_get, Table.mapValues_erase, Table.get_erase_ne none h, ← Table.find_eq_get]

theorem Table.find_of_mem_above {α : Type} {t : Table α} {lo k : Nat} {v : α} (ht : Table.rising (some lo) t = true)
    (h : (k, v) ∈ t) : lo < k ∧ Table.find t k = some v := by
  induction t generalizing lo with
  | nil => cases h
  | cons e t ih =>
    simp only [Table.rising, Bool.and_eq_true, decide_eq_true_eq] at ht
    obtain ⟨hlo, hrest⟩ := ht
    rcases List.mem_cons.1 h with he | he
    · subst he
      exact ⟨hlo, by simp [Table.find]⟩
    · obtain ⟨hk, hf⟩ := ih hrest he
      refine ⟨by omega, ?_⟩
      rw [Table.find, if_neg (by omega), if_neg (by omega), hf]

/-- Where the keys rise, every entry is found. -/
theorem Table.find_of_mem {α : Type} {t : Table α} {k : Nat} {v : α} (ht : Table.rising none t = true) (h : (k, v) ∈ t) :
    Table.find t k = some v := by
  cases t with
  | nil => cases h
  | cons e t =>
    rw [Table.rising_none_cons] at ht
    rcases List.mem_cons.1 h with he | he
    · subst he
      simp [Table.find]
    · obtain ⟨hk, hf⟩ := Table.find_of_mem_above ht he
      rw [Table.find, if_neg (by omega), if_neg (by omega), hf]

/-! ## The choice among the ready requests -/

theorem chooseReq_nil (s : State) (promo : List Nat) : chooseReq s promo [] = none := by
  have hnone : promo.find? ([] : List Nat).contains = none := List.find?_eq_none.2 fun _ _ => Bool.false_ne_true
  rw [chooseReq, hnone]
  rfl

theorem chooseReq_single (s : State) (promo : List Nat) (l : Nat) : chooseReq s promo [l] = some l := by
  rw [chooseReq]
  cases h : promo.find? [l].contains with
  | none => rfl
  | some k =>
    have hk : [l].contains k = true := List.find?_some h
    simp only [List.contains_cons, List.contains_nil, Bool.or_false, beq_iff_eq] at hk
    rw [hk]

/-- The oldest promoted request that is ready is chosen. -/
theorem chooseReq_promoted {s : State} {front rest ready : List Nat} {l : Nat} (hl : l ∈ ready)
    (hfront : ∀ k ∈ front, k ∉ ready) : chooseReq s (front ++ l :: rest) ready = some l := by
  have hnone : front.find? ready.contains = none := by simpa using hfront
  have hfind : (front ++ l :: rest).find? ready.contains = some l := by
    rw [List.find?_append, hnone, Option.none_or, List.find?_cons_of_pos (by simpa using hl)]
  rw [chooseReq, hfind]

/-- A ready request that is lower than every other ready one is found by going through them. -/
theorem foldl_lowest {s : State} {l : Nat} (ready : List Nat) (b : Option Nat) (hl : l ∈ ready ∨ b = some l)
    (hlow : ∀ k ∈ ready, k ≠ l → s.serveKey l < s.serveKey k) (hb : ∀ k, b = some k → k ≠ l → s.serveKey l < s.serveKey k) :
    ready.foldl (fun b l => match b with
      | none => some l
      | some m => if s.serveKey l < s.serveKey m then some l else some m) b = some l := by
  induction ready generalizing b with
  | nil => simpa using hl
  | cons k ready ih =>
    rw [List.foldl_cons]
    have hrest : ∀ j ∈ ready, j ≠ l → s.serveKey l < s.serveKey j := fun j hj => hlow j (List.mem_cons_of_mem k hj)
    have hk := hlow k List.mem_cons_self
    cases b with
    | none =>
      refine ih (some k) ?_ hrest fun j hj => by cases hj; exact hk
      simpa [eq_comm, or_comm] using hl
    | some m =>
      have hm := hb m rfl
      dsimp only
      split
      · next hlt =>
        refine ih (some k) ?_ hrest fun j hj => by cases hj; exact hk
        rcases hl with hl | hl
        · rcases List.mem_cons.1 hl with rfl | hl
          · exact .inr rfl
          · exact .inl hl
        · rw [Option.some.inj hl] at hlt
          by_cases hkl : k = l
          · exact .inr (congrArg some hkl)
          · exact absurd hlt (Nat.lt_asymm (hk hkl))
      · next hge =>
        refine ih (some m) ?_ hrest fun j hj => by cases hj; exact hm
        rcases hl with hl | hl
        · rcases List.mem_cons.1 hl with rfl | hl
          · exact .inr (congrArg some (by_contra fun hml => hge (hm hml)))
          · exact .inl hl
        · exact .inr hl

/-- With no promoted request ready, the lowest is chosen. -/
theorem chooseReq_lowest {s : State} {promo ready : List Nat} {l : Nat} (hl : l ∈ ready) (hpromo : ∀ k ∈ promo, k ∉ ready)
    (hlow : ∀ k ∈ ready, k ≠ l → s.serveKey l < s.serveKey k) : chooseReq s promo ready = some l := by
  have hnone : promo.find? ready.contains = none := by simpa using hpromo
  rw [chooseReq, hnone]
  exact foldl_lowest ready none (.inl hl) hlow fun _ h => nomatch h

/-! ## Passing over -/

/-- A request once another was chosen: one pass more where it was ready. -/
def passed (chosen : Nat) (ready : List Nat) (l : Nat) (r : AtomReq) : AtomReq :=
  if ready.contains l && l != chosen then { r with pass := r.pass + 1 } else r

theorem passOver_fst (chosen : Nat) (ready : List Nat) (t : Table AtomReq) :
    (passOver chosen ready t).1 = Table.mapValues (passed chosen ready) t :=
  List.map_congr_left fun e _ => by
    obtain ⟨l, r⟩ := e
    simp only [passed]
    split <;> rfl

/-- The requests promoted are the ready ones whose passes reach 64. -/
theorem mem_passOver_snd {chosen l : Nat} {ready : List Nat} {t : Table AtomReq} (ht : Table.rising none t = true) :
    l ∈ (passOver chosen ready t).2
      ↔ l ≠ chosen ∧ l ∈ ready ∧ ∃ r, Table.find t l = some r ∧ r.pass + 1 = 64 := by
  have hsnd : (passOver chosen ready t).2 = ((Table.mapValues (passed chosen ready) t).filter
      fun p => ready.contains p.1 && p.1 != chosen && p.2.pass == 64).map (·.1) := by
    rw [← passOver_fst]; rfl
  rw [hsnd]
  constructor
  · intro h
    obtain ⟨⟨k, r'⟩, hmem, rfl⟩ := List.mem_map.1 h
    obtain ⟨hin, hcond⟩ := List.mem_filter.1 hmem
    obtain ⟨⟨k', r⟩, hr, he⟩ := List.mem_map.1 hin
    cases he
    simp only [Bool.and_eq_true, List.contains_iff_mem, bne_iff_ne, ne_eq, beq_iff_eq] at hcond
    obtain ⟨⟨hready, hne⟩, hpass⟩ := hcond
    refine ⟨hne, hready, r, Table.find_of_mem ht hr, ?_⟩
    simpa [passed, hready, hne] using hpass
  · rintro ⟨hne, hready, r, hr, hpass⟩
    refine List.mem_map.2 ⟨(l, passed chosen ready l r), List.mem_filter.2 ⟨?_, ?_⟩, rfl⟩
    · exact List.mem_map.2 ⟨(l, r), Table.mem_of_find hr, rfl⟩
    · simp [passed, hready, hne, hpass]

/-! ## The ready requests of an engine with no plain access pending -/

theorem readyLines_of_noPlain {s : State} {e : Cluster} (hplain : e.plain = []) :
    readyLines s e = (e.lines.filter (lineReady s e)).map (·.1) := by
  simp [readyLines, hplain]

theorem mem_readyLines {s : State} {e : Cluster} {l : Nat} (hplain : e.plain = []) (ht : Table.rising none e.lines = true) :
    l ∈ readyLines s e ↔ LineReady s e l := by
  rw [readyLines_of_noPlain hplain]
  constructor
  · intro h
    obtain ⟨⟨k, r⟩, hmem, rfl⟩ := List.mem_map.1 h
    obtain ⟨hin, hcond⟩ := List.mem_filter.1 hmem
    simp only [lineReady, Bool.and_eq_true, List.contains_iff_mem] at hcond
    exact ⟨r, Table.find_of_mem ht hin, hcond.2, hcond.1⟩
  · rintro ⟨r, hr, hserves, hhot⟩
    refine List.mem_map.2 ⟨(l, r), List.mem_filter.2 ⟨Table.mem_of_find hr, ?_⟩, rfl⟩
    simp [lineReady, hserves, hhot]

/-- The request chosen by 12 R386 is the one that the engine chooses. -/
theorem chooseReq_of_chosen {s : State} {e : Cluster} {lid : Nat} (hplain : e.plain = [])
    (ht : Table.rising none e.lines = true) (h : Chosen s e lid) :
    chooseReq s e.linePromo (readyLines s e) = some lid := by
  have hmem : ∀ {l}, l ∈ readyLines s e ↔ LineReady s e l := mem_readyLines hplain ht
  obtain ⟨hready, ⟨front, rest, hpromo, hfront⟩ | ⟨hpromo, hlow⟩⟩ := h
  · rw [hpromo]
    exact chooseReq_promoted (hmem.2 hready) fun k hk hin => hfront k hk (hmem.1 hin)
  · exact chooseReq_lowest (hmem.2 hready) (fun k hk hin => hpromo k hk (hmem.1 hin)) fun k hk => hlow k (hmem.1 hk)

/-! ## The engine after its choice -/

@[simp] theorem Cluster.served_lines (e : Cluster) (l : Nat × Nat) : (e.served l).lines = e.lines := by
  unfold Cluster.served
  split <;> rfl

@[simp] theorem Cluster.served_linePromo (e : Cluster) (l : Nat × Nat) : (e.served l).linePromo = e.linePromo := by
  unfold Cluster.served
  split <;> rfl

@[simp] theorem Cluster.served_cellReqs (e : Cluster) (l : Nat × Nat) : (e.served l).cellReqs = e.cellReqs := by
  unfold Cluster.served
  split <;> rfl

@[simp] theorem Cluster.served_detHeld (e : Cluster) (l : Nat × Nat) : (e.served l).detHeld = e.detHeld := by
  unfold Cluster.served
  split <;> rfl

theorem Cluster.mem_served_hot {e : Cluster} {l : Nat × Nat} (h : l ∈ e.hot) : l ∈ (e.served l).hot := by
  unfold Cluster.served
  rw [if_pos (List.contains_iff_mem.2 h)]
  exact List.mem_append_right _ List.mem_cons_self

@[simp] theorem Cluster.chosen_lines (e : Cluster) (l : Nat) (ready : List Nat) :
    (e.chosen l ready).lines = Table.erase l (Table.mapValues (passed l ready) e.lines) := by
  rw [← passOver_fst]; rfl

@[simp] theorem Cluster.chosen_hot (e : Cluster) (l : Nat) (ready : List Nat) : (e.chosen l ready).hot = e.hot := rfl

@[simp] theorem Cluster.chosen_cellReqs (e : Cluster) (l : Nat) (ready : List Nat) :
    (e.chosen l ready).cellReqs = e.cellReqs := rfl

theorem Cluster.chosen_linePromo {e : Cluster} (l : Nat) (ready : List Nat) (hplain : e.plain = []) :
    (e.chosen l ready).linePromo = e.linePromo.filter (· != l) ++ (passOver l ready e.lines).2 := by
  simp [Cluster.chosen, hplain, passOver]

/-- Choosing passes the other ready requests over. -/
theorem passedOver_of_choice {s : State} {e : Cluster} {lid : Nat} {line : Nat × Nat} (hplain : e.plain = [])
    (ht : Table.rising none e.lines = true) : PassedOver s e ((e.chosen lid (readyLines s e)).served line) lid := by
  have hmem : ∀ {l}, l ∈ readyLines s e ↔ LineReady s e l := mem_readyLines hplain ht
  refine ⟨?_, fun l r hne hr => ?_, (passOver lid (readyLines s e) e.lines).2, ?_, fun l => ?_⟩
  · rw [Cluster.served_lines, Cluster.chosen_lines, Table.find_erase_self]
  · refine ⟨passed lid (readyLines s e) l r, ?_, fun hready => ?_, fun hready => ?_⟩
    · rw [Cluster.served_lines, Cluster.chosen_lines, Table.find_erase_ne hne, Table.find_mapValues, hr]
      rfl
    · simp [passed, hmem.2 hready, hne]
    · simp [passed, mt hmem.1 hready]
  · rw [Cluster.served_linePromo, Cluster.chosen_linePromo _ _ hplain]
  · rw [mem_passOver_snd ht, hmem]

/-! ## The hot-line store -/

theorem Cluster.fill_of_mem {e : Cluster} {l : Nat × Nat} (h : l ∈ e.hot) : e.fill l = e := by
  unfold Cluster.fill
  rw [if_pos (List.contains_iff_mem.2 h)]

theorem Cluster.foldl_fill_of_mem {e : Cluster} (ls : List (Nat × Nat)) (h : ∀ l ∈ ls, l ∈ e.hot) :
    ls.foldl Cluster.fill e = e := by
  induction ls with
  | nil => rfl
  | cons l ls ih =>
    rw [List.foldl_cons, Cluster.fill_of_mem (h l List.mem_cons_self)]
    exact ih fun k hk => h k (List.mem_cons_of_mem l hk)

/-- Bringing a line in changes the hot-line store alone. -/
theorem Cluster.fill_eq (e : Cluster) (l : Nat × Nat) : e.fill l = { e with hot := (e.fill l).hot } := by
  unfold Cluster.fill
  split
  · rfl
  · split
    · rfl
    · split <;> rfl

/-- A line is brought in where the store has room. -/
theorem Cluster.mem_fill_hot {e : Cluster} {l : Nat × Nat} (h : l ∈ e.hot ∨ e.hot.length < 64) : l ∈ (e.fill l).hot := by
  by_cases hmem : l ∈ e.hot
  · rw [Cluster.fill_of_mem hmem]
    exact hmem
  · unfold Cluster.fill
    rw [if_neg (mt List.contains_iff_mem.1 hmem), if_pos (h.resolve_left hmem)]
    exact List.mem_append_right _ List.mem_cons_self

end Sys2Proof.Machine
end

section
/-! PROOFS. What the engines perform (04 R138; 12 R385-R387, R390), and the statement about it (O21). -/

namespace Sys2Proof.Machine
open Sys2Proof.Claims

/-! ## A write at home leaves the rest of its core -/

/-- What noting an overwritten code word leaves alone, a write at home leaves alone. -/
theorem foldl_noteOld {α : Type} {f : Core → α} (hf : ∀ c a, f (c.noteOld a) = f c) (g : Nat → Nat) (ks : List Nat) (c : Core) :
    f (ks.foldl (fun c k => c.noteOld (g k)) c) = f c := by
  induction ks generalizing c with
  | nil => rfl
  | cons k ks ih => rw [List.foldl_cons, ih, hf]

@[simp] theorem noteOld_sb (c : Core) (a : Nat) : (c.noteOld a).sb = c.sb := by
  unfold Core.noteOld
  dsimp only
  repeat' split
  all_goals rfl

@[simp] theorem noteOld_answer (c : Core) (a : Nat) : (c.noteOld a).answer = c.answer := by
  unfold Core.noteOld
  dsimp only
  repeat' split
  all_goals rfl

@[simp] theorem noteOld_regs (c : Core) (a : Nat) : (c.noteOld a).regs = c.regs := by
  unfold Core.noteOld
  dsimp only
  repeat' split
  all_goals rfl

@[simp] theorem writeLoc_sb (c : Core) (a : Nat) (bs : List Byte) : (c.writeLoc a bs).sb = c.sb :=
  foldl_noteOld (f := Core.sb) noteOld_sb _ _ c

@[simp] theorem writeLoc_answer (c : Core) (a : Nat) (bs : List Byte) : (c.writeLoc a bs).answer = c.answer :=
  foldl_noteOld (f := Core.answer) noteOld_answer _ _ c

@[simp] theorem writeLoc_regs (c : Core) (a : Nat) (bs : List Byte) : (c.writeLoc a bs).regs = c.regs :=
  foldl_noteOld (f := Core.regs) noteOld_regs _ _ c

/-- A field that a replaced core keeps is kept in every core. -/
theorem core_setCore_field {α : Type} (f : Core → α) {s : State} {k : Nat} {c : Core} (h : f c = f (s.core k)) (l : Nat) :
    f ((s.setCore k c).core l) = f (s.core l) := by
  by_cases hl : l = k
  · subst hl
    rw [State.core_setCore_self, h]
  · rw [State.core_setCore_ne _ hl]

/-! ## A line request performed -/

theorem performLine_setCluster (s : State) (cl : Nat) (e : Cluster) (r : AtomReq) :
    performLine (s.setCluster cl e) r = ((performLine s r).1, (performLine s r).2.setCluster cl e) := by
  have hcore : (s.setCluster cl e).core r.home = s.core r.home := rfl
  unfold performLine
  simp only [hcore]
  split <;> rfl

/-- Performing a line request at its home leaves what a write at home leaves. -/
theorem performLine_field {α : Type} (f : Core → α) (hf : ∀ c a bs, f (c.writeLoc a bs) = f c) (s : State) (r : AtomReq)
    (l : Nat) : f ((performLine s r).2.core l) = f (s.core l) := by
  unfold performLine
  dsimp only
  split
  · exact core_setCore_field f (hf _ _ _) l
  · rfl

theorem performRequest_eq {s : State} (cl : Nat) (e : Cluster) (lid : Nat) {r : AtomReq}
    (h : (s.core r.home).locPoisoned r.addr r.width = false) :
    performRequest (s.setCluster cl e) lid r
      = answerLine ((performLine s r).2.setCluster cl e) lid r (performLine s r).1 := by
  have hcore : (s.setCluster cl e).core r.home = s.core r.home := rfl
  unfold performRequest
  rw [hcore, h, if_neg Bool.false_ne_true, performLine_setCluster]

theorem answerLine_loc (s : State) (lid : Nat) (r : AtomReq) (old l : Nat) :
    ((answerLine s lid r old).core l).loc = (s.core l).loc := by
  unfold answerLine
  dsimp only
  split
  · exact core_setCore_field Core.loc (c := { s.core lid with answer := some (.ofNat 64 old) }) rfl l
  · exact core_setCore_field Core.loc (c := { s.core lid with sb := (s.core lid).sb.tail }) rfl l

theorem answerLine_clusters (s : State) (lid : Nat) (r : AtomReq) (old : Nat) :
    (answerLine s lid r old).clusters = s.clusters := by
  unfold answerLine
  dsimp only
  split <;> rfl

/-- A request of an engine, its home not poisoned: performed and answered, and the engine as it was left. -/
theorem performRequest_ok {s : State} (cl : Nat) (e : Cluster) (lid : Nat) {r : AtomReq}
    (h : (s.core r.home).locPoisoned r.addr r.width = false) :
    (performRequest (s.setCluster cl e) lid r).cluster cl = e
      ∧ Answered s (performRequest (s.setCluster cl e) lid r) lid r
      ∧ ((performRequest (s.setCluster cl e) lid r).core r.home).loc = ((performLine s r).2.core r.home).loc := by
  rw [performRequest_eq cl e lid h]
  have hsb := performLine_field Core.sb writeLoc_sb s r lid
  have hans := performLine_field Core.answer writeLoc_answer s r lid
  have hcore : ∀ l, ((performLine s r).2.setCluster cl e).core l = (performLine s r).2.core l := fun _ => rfl
  refine ⟨?_, ⟨fun hd => ?_, fun hd => ?_⟩, ?_⟩
  · rw [State.cluster, answerLine_clusters]
    exact State.cluster_setCluster_self ..
  · rw [answerLine, if_pos hd, State.core_setCore_self]
    exact ⟨rfl, hsb⟩
  · rw [answerLine, if_neg (by simp [hd]), State.core_setCore_self, hcore, hsb]
    exact ⟨rfl, hans⟩
  · rw [answerLine_loc, hcore]

/-! ## The turns of an engine -/

theorem engine_of_noPlain {s : State} {cl : Nat} (h : (s.cluster cl).plain = []) : s.engine cl = s.cluster cl := by
  unfold State.engine
  dsimp only
  rw [h]
  exact congrArg (fun p => { s.cluster cl with plain := p }) h.symm

/-- The engine's turn for its line requests, by the request that it chooses. -/
theorem serveLine_chosen {s : State} {cl lid : Nat} {e : Cluster} {r : AtomReq}
    (he : ((s.engine cl).lines.map (·.2.line)).foldl Cluster.fill (s.engine cl) = e)
    (hchoose : chooseReq s e.linePromo (readyLines s e) = some lid) (hr : Table.find e.lines lid = some r) :
    serveLine s cl = performRequest (s.setCluster cl ((e.chosen lid (readyLines s e)).served r.line)) lid r := by
  unfold serveLine
  simp only [he, hchoose, hr]

theorem serveCell_none {s : State} {cl : Nat} (h : (s.cluster cl).cellReqs = []) : serveCell s cl = s := by
  unfold serveCell
  simp only [h, List.filter_nil, List.map_nil, chooseReq_nil]

theorem exec_atomicServe {s : State} {cl : Nat} (h : cl < 16128) :
    exec (.atomicServe cl) s = .next (serveCell (serveLine s cl) cl) := if_neg (Nat.not_le.2 h)

/-- Where no cell request is pending, ATOMIC_SERVE serves a line request. -/
theorem exec_atomicServe_line {s : State} {cl lid : Nat} {e : Cluster} {r : AtomReq} (hcl : cl < 16128)
    (he : ((s.engine cl).lines.map (·.2.line)).foldl Cluster.fill (s.engine cl) = e) (hcells : e.cellReqs = [])
    (hchoose : chooseReq s e.linePromo (readyLines s e) = some lid) (hr : Table.find e.lines lid = some r)
    (hpoison : (s.core r.home).locPoisoned r.addr r.width = false) :
    ∃ t, exec (.atomicServe cl) s = .next t ∧ t.cluster cl = (e.chosen lid (readyLines s e)).served r.line
      ∧ Answered s t lid r ∧ (t.core r.home).loc = ((performLine s r).2.core r.home).loc := by
  obtain ⟨hcluster, hanswered, hloc⟩ := performRequest_ok cl ((e.chosen lid (readyLines s e)).served r.line) lid hpoison
  refine ⟨_, ?_, hcluster, hanswered, hloc⟩
  rw [exec_atomicServe hcl, serveLine_chosen he hchoose hr, serveCell_none]
  rw [hcluster, Cluster.served_cellReqs, Cluster.chosen_cellReqs, hcells]

/-! ## The store buffer -/

/-- A plain access that is made changes an engine at most. -/
theorem plainAccess_some {s s1 : State} {lid home a : Nat} (h : s.plainAccess lid home a = some s1) :
    ∃ cs, s1 = { s with clusters := cs } := by
  unfold State.plainAccess at h
  dsimp only at h
  split at h
  · exact ⟨s.clusters, (Option.some.inj h).symm⟩
  · split at h
    · exact ⟨_, (Option.some.inj h).symm⟩
    · cases h

theorem length_cellsAt (m : List Host.Cell) (a n : Nat) : (cellsAt m a n).length = n := by
  induction n generalizing a with
  | zero => rfl
  | succ n ih => rw [cellsAt, List.length_cons, ih]

theorem getElem_cellsAt (m : List Host.Cell) (a n k : Nat) (h : k < (cellsAt m a n).length) :
    (cellsAt m a n)[k] = Table.get 0 m (a + k) := by
  induction n generalizing a k with
  | zero => exact absurd h (Nat.not_lt_zero k)
  | succ n ih =>
    cases k with
    | zero => rfl
    | succ k =>
      simp only [cellsAt, List.getElem_cons_succ]
      rw [ih, Nat.add_right_comm, Nat.add_assoc]

/-- A byte written at home is read back there. -/
theorem get_writeLoc (c : Core) (a : Nat) (bs : List Byte) (k : Nat) (h : k < bs.length) :
    Table.get 0 (c.writeLoc a bs).loc (a + k) = bs[k] := by
  have hk : k < (cellsAt (c.writeLoc a bs).loc a bs.length).length := by rw [length_cellsAt]; exact h
  rw [← getElem_cellsAt _ _ _ _ hk]
  exact List.getElem_of_eq (writeLoc_reads c a bs) hk

theorem exec_storeBufferPerform {s : State} {lid : Nat} (hlid : lid < coreCount) (h : s.serves lid = true) :
    exec (.storeBufferPerform lid) s = .next (performOldest s lid) := by
  change execStoreBufferPerform lid s = _
  unfold execStoreBufferPerform
  rw [if_neg (Nat.not_le.2 hlid), if_pos h]

/-- The oldest store taken from the buffer and written at its home. -/
theorem performOldest_store {s : State} {lid home a : Nat} {bytes : List Byte} {rest : List SbEntry}
    (hsb : (s.core lid).sb = .store home a bytes :: rest) (h : (s.plainAccess lid home a).isSome = true) :
    ∃ s2 : State, performOldest s lid = s2.setCore home ((s2.core home).writeLoc a bytes) ∧ (s2.core lid).sb = rest
      ∧ (∀ l, (s2.core l).loc = (s.core l).loc) ∧ (∀ l, (s2.core l).regs = (s.core l).regs) ∧ s2.ext = s.ext := by
  obtain ⟨s1, hs1⟩ := Option.isSome_iff_exists.1 h
  obtain ⟨cs, he⟩ := plainAccess_some hs1
  have hcore : ∀ l, s1.core l = s.core l := fun l => by rw [he]; rfl
  refine ⟨s1.setCore lid { s.core lid with sb := rest }, ?_, ?_, fun l => ?_, fun l => ?_, by rw [he]; rfl⟩
  · unfold performOldest
    simp only [hsb, hs1]
  · rw [State.core_setCore_self]
  · rw [core_setCore_field Core.loc (by rw [hcore]), hcore]
  · rw [core_setCore_field Core.regs (by rw [hcore]), hcore]

theorem performOldest_turn {s : State} {lid home a : Nat} {bytes : List Byte} {rest : List SbEntry}
    (hsb : (s.core lid).sb = .store home a bytes :: rest) (h : s.plainAccess lid home a = none) :
    performOldest s lid = s.askTurn lid (bufferedReq 1 home a 0 0 0) := by
  unfold performOldest
  simp only [hsb, h]

/-- A plain access that asks for its turn is pending at the engine of its home. -/
theorem find_askTurn (s : State) (lid : Nat) (r : AtomReq) :
    ∃ q, Table.find ((s.askTurn lid r).cluster (clusterOf r.home)).plain lid = some q ∧ q.line = r.line := by
  unfold State.askTurn
  dsimp only
  split
  · next h =>
    obtain ⟨q, hq, he⟩ := Option.map_eq_some_iff.1 h
    exact ⟨q, hq, by rw [← he]; rfl⟩
  · exact ⟨r, by rw [State.cluster_setCluster_self, Table.find_put_self], rfl⟩

theorem performOldest_atomic {s : State} {lid home a w : Nat} {op : BitVec 8} {b d : Word} {rest : List SbEntry}
    (hsb : (s.core lid).sb = .atomic op home a w b d :: rest) (hlines : Table.find (s.cluster (clusterOf lid)).lines lid = none)
    (hheld : Table.find (s.cluster (clusterOf lid)).detHeld lid = none) :
    performOldest s lid = s.setCluster (clusterOf lid)
      (if op = 0xC9 ∧ (s.core lid).det = true then
        (s.cluster (clusterOf lid)).hold lid (s.detStep lid) (lineRequest op home a w b d false)
       else { s.cluster (clusterOf lid) with
        lines := Table.put lid (lineRequest op home a w b d false) (s.cluster (clusterOf lid)).lines }) := by
  unfold performOldest
  simp only [hsb, hlines, hheld]
  by_cases h : op = 0xC9 ∧ (s.core lid).det = true
  · rw [if_pos h]
    rw [if_neg (by simp), if_pos (by simpa using h)]
    rfl
  · rw [if_neg h, if_neg (by simp), if_neg (by simpa using h)]
    rfl

/-! ## The other turns -/

/-- With no line request pending, the engine drops the plain accesses that nobody makes any more, and serves none. -/
theorem serveLine_noLines {s : State} {cl : Nat} (h : (s.cluster cl).lines = []) :
    serveLine s cl = s.setCluster cl (s.engine cl) := by
  have hlines : (s.engine cl).lines = [] := h
  unfold serveLine
  simp only [hlines, List.map_nil, List.foldl_nil]
  split
  · rfl
  · rfl

/-- The one cell request pending is performed and answered. -/
theorem serveCell_lone {s : State} {cl lid : Nat} {r : AtomReq} (h : (s.cluster cl).cellReqs = [(lid, r)])
    (hserves : s.serves lid = true) (hheld : s.cellHeld cl r.addr = false) (hd : r.dNonzero = true) :
    ((serveCell s cl).cluster cl).cellReqs = []
      ∧ Table.get 0 ((serveCell s cl).cluster cl).cells r.addr = (performCell r (Table.get 0 (s.cluster cl).cells r.addr)).2
      ∧ ((serveCell s cl).core lid).answer = some (performCell r (Table.get 0 (s.cluster cl).cells r.addr)).1 := by
  have hready : ((s.cluster cl).cellReqs.filter fun p => s.serves p.1 && !s.cellHeld cl p.2.addr).map (·.1) = [lid] := by
    simp [h, hserves, hheld]
  have hfind : Table.find (s.cluster cl).cellReqs lid = some r := by simp [h, Table.find]
  have hrest : Table.erase lid (passOver lid [lid] (s.cluster cl).cellReqs).1 = [] := by
    simp [h, passOver, Table.erase]
  unfold serveCell
  simp only [hready, chooseReq_single, hfind, hrest, hd, if_true]
  refine ⟨?_, ?_, ?_⟩
  · exact congrArg Cluster.cellReqs (State.cluster_setCluster_self ..)
  · refine (congrArg (fun e : Cluster => Table.get 0 e.cells r.addr) (State.cluster_setCluster_self ..)).trans ?_
    exact Table.get_set_self ..
  · rw [State.core_setCore_self]

/-- DET_ACAS_STEP, where one acas is held and its step is ready: it is performed. -/
theorem exec_detAcasStep_lone {s : State} {cl lid : Nat} {r : AtomReq} (hcl : cl < 16128)
    (h : (s.cluster cl).detHeld = [(lid, r)]) (hserves : s.serves lid = true)
    (hready : s.detReady cl ((s.cluster cl).heldStep lid) lid = true) :
    exec (.detAcasStep cl) s
      = .next (performRequest (s.setCluster cl ((((s.engine cl).unhold lid).fill r.line).served r.line)) lid r) := by
  have hfind : Table.find (s.engine cl).detHeld lid = some r := by
    change Table.find (s.cluster cl).detHeld lid = some r
    simp [h, Table.find]
  change execDetAcasStep cl s = _
  unfold execDetAcasStep
  rw [if_neg (show ¬clusterCount ≤ cl from Nat.not_le.2 hcl)]
  simp [h, hready, hserves, insertKey, performHeld, hfind]

end Sys2Proof.Machine

namespace Sys2Proof.Proofs
open Sys2Proof.Machine Sys2Proof.Claims

/-- Settles O21: each event by the operation of the engine that it is. -/
theorem enginesPerformRequests : Obligations.EnginesPerformRequests := by
  refine ⟨?store, ?atomic, ?turn, ?line, ?loneLine, ?loneCell, ?acas⟩
  case store =>
    intro lid home a s bytes rest hlid hserves hsb haccess
    obtain ⟨s2, hs2, hrest, hloc, hregs, hext⟩ := performOldest_store hsb haccess
    refine ⟨_, (exec_storeBufferPerform hlid hserves).trans (congrArg _ hs2), ?_, fun k hk => ?_, fun l k hout => ?_,
      fun l => ?_, hext⟩
    · rw [core_setCore_field Core.sb (writeLoc_sb _ _ _), hrest]
    · rw [State.core_setCore_self, get_writeLoc _ _ _ _ hk]
    · by_cases hl : l = home
      · subst hl
        rw [State.core_setCore_self, writeLoc_outside _ _ _ _ (hout.resolve_left (not_not_intro rfl)), hloc]
      · rw [State.core_setCore_ne _ hl, hloc]
    · rw [core_setCore_field Core.regs (writeLoc_regs _ _ _), hregs]
  case atomic =>
    intro lid home a w s op b d rest hlid hserves hsb hlines hheld
    refine ⟨_, (exec_storeBufferPerform hlid hserves).trans (congrArg _ (performOldest_atomic hsb hlines hheld)), rfl, ?_⟩
    rw [State.cluster_setCluster_self]
    split
    · exact Table.find_put_self ..
    · exact Table.find_put_self ..
  case turn =>
    intro lid home a s bytes rest hlid hserves hsb haccess
    obtain ⟨q, hq, hline⟩ := find_askTurn s lid (bufferedReq 1 home a 0 0 0)
    refine ⟨_, q, (exec_storeBufferPerform hlid hserves).trans (congrArg _ (performOldest_turn hsb haccess)), ?_, hq, hline⟩
    unfold State.askTurn
    dsimp only
    split <;> rfl
  case line =>
    intro cl lid s e r hcl he hrising hplain hcells hhot hchosen hr hpoison
    subst he
    have hengine := engine_of_noPlain hplain
    have hfill : ((s.engine cl).lines.map (·.2.line)).foldl Cluster.fill (s.engine cl) = s.cluster cl := by
      rw [hengine]
      refine Cluster.foldl_fill_of_mem _ fun l hl => ?_
      obtain ⟨p, hp, rfl⟩ := List.mem_map.1 hl
      exact hhot p hp
    obtain ⟨t, ht, hcluster, hanswered, hloc⟩ :=
      exec_atomicServe_line hcl hfill hcells (chooseReq_of_chosen hplain hrising hchosen) hr hpoison
    exact ⟨t, ht, hcluster ▸ passedOver_of_choice hplain hrising, hanswered, hloc⟩
  case loneLine =>
    intro cl lid s e r hcl he hlines hplain hcells hserves hroom hpoison
    subst he
    have hengine := engine_of_noPlain hplain
    have hfill : ((s.engine cl).lines.map (·.2.line)).foldl Cluster.fill (s.engine cl) = (s.cluster cl).fill r.line := by
      rw [hengine, hlines]
      rfl
    have hhot := Cluster.mem_fill_hot hroom
    have hlines' : ((s.cluster cl).fill r.line).lines = [(lid, r)] := by rw [Cluster.fill_eq, hlines]
    have hplain' : ((s.cluster cl).fill r.line).plain = [] := by rw [Cluster.fill_eq, hplain]
    have hcells' : ((s.cluster cl).fill r.line).cellReqs = [] := by rw [Cluster.fill_eq, hcells]
    have hready : readyLines s ((s.cluster cl).fill r.line) = [lid] := by
      rw [readyLines_of_noPlain hplain', hlines']
      simp [lineReady, hserves, hhot]
    obtain ⟨t, ht, hcluster, hanswered, hloc⟩ :=
      exec_atomicServe_line hcl hfill hcells' (hready ▸ chooseReq_single s _ lid) (by rw [hlines']; simp [Table.find]) hpoison
    refine ⟨t, ht, ?_, ?_, hanswered, hloc⟩
    · rw [hcluster, Cluster.served_lines, Cluster.chosen_lines, hlines']
      simp [Table.mapValues, Table.erase]
    · rw [hcluster]
      exact Cluster.mem_served_hot hhot
  case loneCell =>
    intro cl lid s e r hcl he hlines hcells hserves hheld hd
    subst he
    have hcluster : (s.setCluster cl (s.engine cl)).cluster cl = s.engine cl := State.cluster_setCluster_self ..
    obtain ⟨hnone, hcell, hanswer⟩ := serveCell_lone (s := s.setCluster cl (s.engine cl)) (by rw [hcluster]; exact hcells)
      hserves hheld hd
    rw [hcluster] at hcell hanswer
    exact ⟨_, (exec_atomicServe hcl).trans (congrArg _ (by rw [serveLine_noLines hlines])), hnone, hcell, hanswer⟩
  case acas =>
    intro cl lid s r hcl hheld hserves hready hpoison
    obtain ⟨hcluster, hanswered, hloc⟩ :=
      performRequest_ok cl ((((s.engine cl).unhold lid).fill r.line).served r.line) lid hpoison
    refine ⟨_, exec_detAcasStep_lone hcl hheld hserves hready, ?_, hanswered, hloc⟩
    rw [hcluster, Cluster.served_detHeld, Cluster.fill_eq]
    change Table.erase lid (s.cluster cl).detHeld = []
    simp [hheld, Table.erase]

end Sys2Proof.Proofs
end

section
/-! PROOFS. Bit fields of words: the bits of a field that was written, and what it and the fields beside it read as. -/

namespace Sys2Proof.Machine

/-- The bits of a number with the field of n bits at lo replaced. -/
theorem testBit_replaceField (x lo n v i : Nat) :
    (x - x / 2 ^ lo % 2 ^ n * 2 ^ lo + v % 2 ^ n * 2 ^ lo).testBit i
      = if lo ≤ i ∧ i < lo + n then v.testBit (i - lo) else x.testBit i := by
  have hsplit : x = 2 ^ lo * (2 ^ n * (x / 2 ^ (lo + n)) + x / 2 ^ lo % 2 ^ n) + x % 2 ^ lo := by
    rw [pow_add, ← Nat.div_div_eq_div_mul, Nat.div_add_mod, Nat.div_add_mod]
  have hnew : x - x / 2 ^ lo % 2 ^ n * 2 ^ lo + v % 2 ^ n * 2 ^ lo
      = 2 ^ lo * (2 ^ n * (x / 2 ^ (lo + n)) + v % 2 ^ n) + x % 2 ^ lo := by
    rw [Nat.mul_add] at hsplit ⊢
    have h1 := Nat.mul_comm (2 ^ lo) (x / 2 ^ lo % 2 ^ n)
    have h2 := Nat.mul_comm (2 ^ lo) (v % 2 ^ n)
    omega
  rw [hnew, Nat.testBit_two_pow_mul_add _ (Nat.mod_lt _ (Nat.two_pow_pos _)),
    Nat.testBit_two_pow_mul_add _ (Nat.mod_lt _ (Nat.two_pow_pos _)), Nat.testBit_mod_two_pow, Nat.testBit_mod_two_pow,
    Nat.testBit_div_two_pow]
  by_cases hlow : i < lo
  · simp [hlow, show ¬lo ≤ i by omega]
  · by_cases hin : i - lo < n
    · simp [hlow, hin, show lo ≤ i by omega, show i < lo + n by omega]
    · simp [hlow, hin, show ¬i < lo + n by omega, show i - lo - n + (lo + n) = i by omega]

theorem getLsbD_putBits {w : Nat} (x : BitVec w) (lo n v i : Nat) :
    (putBits x lo n v).getLsbD i
      = (decide (i < w) && if lo ≤ i ∧ i < lo + n then v.testBit (i - lo) else x.getLsbD i) := by
  rw [putBits, BitVec.getLsbD_ofNat, testBit_replaceField]
  rfl

theorem toNat_extractLsb'_eq_bitsOf {w : Nat} (x : BitVec w) (lo n : Nat) : (x.extractLsb' lo n).toNat = bitsOf x lo n := by
  rw [BitVec.extractLsb'_toNat, Nat.shiftRight_eq_div_pow]
  rfl

theorem testBit_bitsOf {w : Nat} (x : BitVec w) (lo n i : Nat) :
    (bitsOf x lo n).testBit i = (decide (i < n) && x.getLsbD (i + lo)) := by
  rw [bitsOf, Nat.testBit_mod_two_pow, Nat.testBit_div_two_pow]
  rfl

/-- A field of as many bits as are written reads back what was written. -/
theorem bitsOf_putBits_self {w : Nat} (x : BitVec w) {lo n : Nat} (v : Nat) (h : lo + n ≤ w) :
    bitsOf (putBits x lo n v) lo n = v % 2 ^ n := by
  refine Nat.eq_of_testBit_eq fun i => ?_
  rw [testBit_bitsOf, getLsbD_putBits, Nat.testBit_mod_two_pow]
  by_cases hi : i < n
  · simp [hi, show i + lo < w by omega, show lo ≤ i + lo ∧ i + lo < lo + n by omega]
  · simp [hi]

/-- A field beside the one written reads as before. -/
theorem bitsOf_putBits_beside {w : Nat} (x : BitVec w) {lo n lo' n' : Nat} (v : Nat) (h : lo' + n' ≤ lo ∨ lo + n ≤ lo') :
    bitsOf (putBits x lo n v) lo' n' = bitsOf x lo' n' := by
  refine Nat.eq_of_testBit_eq fun i => ?_
  rw [testBit_bitsOf, testBit_bitsOf, getLsbD_putBits]
  by_cases hi : i < n'
  · rw [if_neg (by omega)]
    by_cases hw : i + lo' < w
    · simp [hw]
    · simp [hw, BitVec.getLsbD_of_ge x (i + lo') (by omega)]
  · simp [hi]

end Sys2Proof.Machine
end

section
/-! PROOFS. The integer instructions (05 R181-R184): the arithmetic of the model against that of the rules, their completion, and the
words that their rules reserve. -/

namespace Sys2Proof.Machine
open Sys2Proof.Claims

/-! ## Two operands (02 R48; 05 R181) -/

theorem ofInt_toInt_add (a b : Word) : a + b = .ofInt 64 (a.toInt + b.toInt) := by
  rw [BitVec.ofInt_add, BitVec.ofInt_toInt, BitVec.ofInt_toInt]

theorem ofInt_toInt_sub (a b : Word) : a - b = .ofInt 64 (a.toInt - b.toInt) := by
  exact BitVec.eq_of_toInt_eq (by simp [BitVec.toInt_sub])

theorem ofInt_toInt_mul (a b : Word) : a * b = .ofInt 64 (a.toInt * b.toInt) := by
  rw [BitVec.ofInt_mul, BitVec.ofInt_toInt, BitVec.ofInt_toInt]

/-- A word holds an integer modulo 2^64, so the modulus of the quotient is not seen. -/
theorem trunc_quotient (x y : Int) : trunc 64 (quotient 64 x y) = .ofInt 64 (quo x y) := by
  unfold quotient quo trunc
  split
  · rfl
  · exact BitVec.eq_of_toInt_eq (by rw [BitVec.toInt_ofInt, BitVec.toInt_ofInt]; exact_mod_cast Int.emod_bmod (x.tdiv y) (2 ^ 64))

theorem shiftLeft_eq_mul (a : Word) (n : Nat) : shiftLeft a n = if 64 ≤ n then 0 else .ofNat 64 (a.toNat * 2 ^ n) := by
  unfold shiftLeft
  split
  · rfl
  · exact BitVec.eq_of_toNat_eq (by simp [Nat.shiftLeft_eq])

theorem shiftRight_eq_div (a : Word) (n : Nat) : shiftRight a n = if 64 ≤ n then 0 else .ofNat 64 (a.toNat / 2 ^ n) := by
  unfold shiftRight
  split
  · rfl
  · have hlt : a.toNat / 2 ^ n < 2 ^ 64 := (Nat.div_le_self _ _).trans_lt a.isLt
    refine BitVec.eq_of_toNat_eq ?_
    rw [BitVec.toNat_ushiftRight, BitVec.toNat_ofNat, Nat.mod_eq_of_lt hlt, Nat.shiftRight_eq_div_pow]

theorem shiftArith_eq_div (a : Word) (n : Nat) : shiftArith a n = .ofInt 64 (a.toInt / 2 ^ min n 63) := by
  rw [shiftArith, BitVec.sshiftRight, Int.shiftRight_eq_div_pow]
  rfl

/-- A rotation by a count below the width: a count of 0 shifts nothing out. -/
theorem rotateLeft_eq (a : Word) (n : Nat) : rotateLeft a n = a.rotateLeft (n % 64) := by
  have hn : n % 64 < 64 := Nat.mod_lt _ (by decide)
  rw [rotateLeft, BitVec.rotateLeft_def, Nat.mod_mod, shiftLeft, if_neg (by omega), shiftRight, if_neg (by omega)]
  rcases Nat.eq_zero_or_pos (n % 64) with h | h
  · simp [h, BitVec.ushiftRight_eq_zero]
  · rw [Nat.mod_eq_of_lt (by omega : 64 - n % 64 < 64)]

theorem rotateRight_eq (a : Word) (n : Nat) : rotateRight a n = a.rotateRight (n % 64) := by
  have hn : n % 64 < 64 := Nat.mod_lt _ (by decide)
  rw [rotateRight, BitVec.rotateRight_def, Nat.mod_mod, shiftRight, if_neg (by omega), shiftLeft, if_neg (by omega)]
  rcases Nat.eq_zero_or_pos (n % 64) with h | h
  · simp [h]
  · rw [Nat.mod_eq_of_lt (by omega : 64 - n % 64 < 64)]

theorem ofInt_min (a b : Word) : (if a.toInt ≤ b.toInt then a else b) = .ofInt 64 (min a.toInt b.toInt) := by
  rw [min_def, apply_ite (BitVec.ofInt 64), BitVec.ofInt_toInt, BitVec.ofInt_toInt]

theorem ofInt_max (a b : Word) : (if a.toInt ≤ b.toInt then b else a) = .ofInt 64 (max a.toInt b.toInt) := by
  rw [max_def, apply_ite (BitVec.ofInt 64), BitVec.ofInt_toInt, BitVec.ofInt_toInt]

theorem ofNat_min (a b : Word) : (if a.toNat ≤ b.toNat then a else b) = .ofNat 64 (min a.toNat b.toNat) := by
  rw [min_def, apply_ite (BitVec.ofNat 64), BitVec.ofNat_toNat, BitVec.ofNat_toNat, BitVec.setWidth_eq, BitVec.setWidth_eq]

theorem ofNat_max (a b : Word) : (if a.toNat ≤ b.toNat then b else a) = .ofNat 64 (max a.toNat b.toNat) := by
  rw [max_def, apply_ite (BitVec.ofNat 64), BitVec.ofNat_toNat, BitVec.ofNat_toNat, BitVec.setWidth_eq, BitVec.setWidth_eq]

theorem binary_congr {i : Instr} {x : FormS3} {f g : Word → Word → Word} (h : ∀ a b, f a b = g a b) :
    binary i x f = binary i x g := by
  rw [funext₂ h]

/-- Each of the two-operand instructions is its operation of 05 R181 on its operands. -/
theorem exec_twoOperand : ∀ p ∈ twoOperand, ∀ x : FormS3, exec (p.1 x) = binary (p.1 x) x p.2 := by
  simp only [twoOperand, List.forall_mem_cons]
  exact ⟨fun _ => binary_congr ofInt_toInt_add, fun _ => binary_congr ofInt_toInt_sub, fun _ => binary_congr ofInt_toInt_mul,
    fun _ => rfl, fun _ => rfl, fun _ => binary_congr fun _ _ => trunc_quotient _ _,
    fun _ => binary_congr fun _ _ => trunc_quotient _ _, fun _ => rfl, fun _ => rfl,
    fun _ => rfl, fun _ => rfl, fun _ => rfl, fun _ => rfl,
    fun _ => binary_congr fun _ _ => shiftLeft_eq_mul _ _, fun _ => binary_congr fun _ _ => shiftRight_eq_div _ _,
    fun _ => binary_congr fun _ _ => shiftArith_eq_div _ _, fun _ => binary_congr fun _ _ => rotateLeft_eq _ _,
    fun _ => binary_congr fun _ _ => rotateRight_eq _ _, fun _ => binary_congr ofInt_min, fun _ => binary_congr ofInt_max,
    fun _ => binary_congr ofNat_min, fun _ => binary_congr ofNat_max, fun _ h => absurd h List.not_mem_nil⟩

/-! ## One operand (05 R182) -/

/-- The leading zero bits of a number of n bits end at its highest one bit. -/
theorem div_leadingZeros {v n : Nat} (hv : v ≠ 0) (h : v < 2 ^ n) :
    leadingZeros v n < n ∧ v / 2 ^ (n - 1 - leadingZeros v n) = 1 := by
  induction n with
  | zero => simp at h; exact absurd h hv
  | succ n ih =>
    have hle : v / 2 ^ n < 2 := Nat.div_lt_of_lt_mul (by rw [pow_succ] at h; omega)
    rw [leadingZeros]
    rcases Nat.le_one_iff_eq_zero_or_eq_one.1 (Nat.lt_succ_iff.1 hle) with h0 | h1
    · obtain ⟨hlt, hdiv⟩ := ih ((Nat.div_eq_zero_iff_lt (Nat.two_pow_pos n)).1 h0)
      rw [if_neg (by rw [h0]; decide)]
      refine ⟨by omega, ?_⟩
      rwa [show n + 1 - 1 - (1 + leadingZeros v n) = n - 1 - leadingZeros v n by omega]
    · rw [if_pos (by rw [h1])]
      exact ⟨n.succ_pos, h1⟩

theorem leadingZeros_zero (n : Nat) : leadingZeros 0 n = n := by
  induction n with
  | zero => rfl
  | succ n ih => simp [leadingZeros, ih, Nat.add_comm]

/-- The trailing zero bits of a number of n bits end at its lowest one bit. -/
theorem testBit_trailingZeros {v n : Nat} (hv : v ≠ 0) (h : v < 2 ^ n) :
    trailingZeros v n < n ∧ v % 2 ^ trailingZeros v n = 0 ∧ v.testBit (trailingZeros v n) = true := by
  induction n generalizing v with
  | zero => simp at h; exact absurd h hv
  | succ n ih =>
    rw [trailingZeros]
    by_cases h1 : v % 2 = 1
    · simp [h1, Nat.mod_one]
    · obtain ⟨hlt, hmod, hbit⟩ := ih (v := v / 2) (by omega) (by rw [pow_succ] at h; omega)
      simp only [h1, if_false]
      refine ⟨by omega, ?_, ?_⟩
      · rw [pow_add, Nat.mod_mul, pow_one, hmod]
        omega
      · rw [Nat.add_comm, Nat.testBit_succ]
        exact hbit

theorem trailingZeros_zero (n : Nat) : trailingZeros 0 n = n := by
  induction n with
  | zero => rfl
  | succ n ih => simp [trailingZeros, ih, Nat.add_comm]

theorem oneBits_eq_countP (v n : Nat) : oneBits v n = (List.range n).countP (v.testBit ·) := by
  induction n generalizing v with
  | zero => rfl
  | succ n ih =>
    have htail : (List.range n).countP (fun i => v.testBit (i + 1)) = oneBits (v / 2) n := by
      rw [ih]
      exact List.countP_congr fun i _ => by rw [Nat.testBit_succ]
    rw [oneBits, List.range_succ_eq_map, List.countP_cons, List.countP_map, ← htail, Nat.add_comm]
    rcases Nat.mod_two_eq_zero_or_one v with h | h <;> simp [h, Function.comp_def]

theorem clz_spec (a : Word) : if a = 0 then BitVec.ofNat 64 (leadingZeros a.toNat 64) = 64
    else (BitVec.ofNat 64 (leadingZeros a.toNat 64)).toNat < 64
      ∧ a.toNat / 2 ^ (63 - (BitVec.ofNat 64 (leadingZeros a.toNat 64)).toNat) = 1 := by
  split
  · next h => rw [h]; exact congrArg (BitVec.ofNat 64) (leadingZeros_zero 64)
  · next h =>
    obtain ⟨hlt, hdiv⟩ := div_leadingZeros (fun h0 => h (BitVec.eq_of_toNat_eq h0)) a.isLt
    rw [BitVec.toNat_ofNat, Nat.mod_eq_of_lt (by omega)]
    exact ⟨hlt, hdiv⟩

theorem ctz_spec (a : Word) : if a = 0 then BitVec.ofNat 64 (trailingZeros a.toNat 64) = 64
    else (BitVec.ofNat 64 (trailingZeros a.toNat 64)).toNat < 64
      ∧ a.toNat % 2 ^ (BitVec.ofNat 64 (trailingZeros a.toNat 64)).toNat = 0
      ∧ a.getLsbD (BitVec.ofNat 64 (trailingZeros a.toNat 64)).toNat = true := by
  split
  · next h => rw [h]; exact congrArg (BitVec.ofNat 64) (trailingZeros_zero 64)
  · next h =>
    have hctz := testBit_trailingZeros (fun h0 => h (BitVec.eq_of_toNat_eq h0)) a.isLt
    rw [BitVec.toNat_ofNat, Nat.mod_eq_of_lt (by omega)]
    exact hctz

theorem popc_spec (a : Word) : (BitVec.ofNat 64 (oneBits a.toNat 64)).toNat = ones a := by
  have hle := (List.range 64).countP_le_length (p := (a.toNat.testBit ·))
  rw [List.length_range] at hle
  rw [oneBits_eq_countP, BitVec.toNat_ofNat, Nat.mod_eq_of_lt (by omega)]
  rfl

/-- Each instruction of one source is an operation that gives what 05 R182 says. -/
theorem exec_oneOperand : ∀ p ∈ oneOperand, ∃ f : Word → Word, (∀ a, p.2 a (f a)) ∧
    ∀ x : FormS3, exec (p.1 x) = unary (p.1 x) x f := by
  simp only [oneOperand, List.forall_mem_cons]
  exact ⟨⟨_, clz_spec, fun _ => rfl⟩, ⟨_, ctz_spec, fun _ => rfl⟩, ⟨_, popc_spec, fun _ => rfl⟩,
    fun _ h => absurd h List.not_mem_nil⟩

theorem immediate_congr {i : Instr} {x : FormSI} {f g : Word → Word → Word} (h : ∀ a b, f a b = g a b) :
    immediate i x f = immediate i x g := by
  rw [funext₂ h]

theorem exec_immediates : ∀ p ∈ immediates, ∀ x : FormSI, exec (p.1 x) = immediate (p.1 x) x p.2 := by
  simp only [immediates, List.forall_mem_cons]
  exact ⟨fun _ => immediate_congr ofInt_toInt_add, fun _ => rfl, fun _ => rfl, fun _ => rfl,
    fun x => .trans (b := execSlli x) rfl (immediate_congr fun _ _ => shiftLeft_eq_mul _ _),
    fun x => .trans (b := execSrli x) rfl (immediate_congr fun _ _ => shiftRight_eq_div _ _),
    fun x => .trans (b := execSrai x) rfl (immediate_congr fun _ _ => shiftArith_eq_div _ _),
    fun _ h => absurd h List.not_mem_nil⟩

/-- sD := a word. -/
theorem writeOnly_ok {i : Instr} {d : BitVec 5} {v : Word} {s : State} {c : Core} (h : Issues i s)
    (hd : scalarWrite s.me d v = some c) : issueSeq i (writeS d v) s = .next (s.completed c) := by
  obtain ⟨s1, e1, n1⟩ := writeS_near (Near.refl s) hd
  exact issueSeq_near h e1 n1 (scalarWrite_spec hd h.2.2.1)

/-! ## Fields, selection and comparison (05 R183, R184) -/

theorem extractField_eq_extracted (sx : Bool) (a : Word) (ofs wid : Nat) :
    extractField sx a.toNat ofs wid = extracted sx a ofs wid := by
  unfold extractField extracted
  split
  · rfl
  · have hcast : ((a.toNat : Int) / 2 ^ ofs % 2 ^ wid) = ((a.toNat / 2 ^ ofs % 2 ^ wid : Nat) : Int) := by push_cast; rfl
    have hle : ((2 : Int) ^ (wid - 1) ≤ ((a.toNat / 2 ^ ofs % 2 ^ wid : Nat) : Int))
        ↔ 2 ^ (wid - 1) ≤ a.toNat / 2 ^ ofs % 2 ^ wid := by exact_mod_cast Iff.rfl
    simp only [hcast, Bool.and_eq_true, decide_eq_true_eq, hle]
    split
    · rfl
    · exact (BitVec.ofInt_natCast ..).symm

theorem insertField_eq_inserted (d a : Word) (ofs wid : Nat) :
    insertField d.toNat a.toNat ofs wid = if wid = 0 ∨ 64 ≤ ofs then none else some (inserted d a ofs wid) := by
  unfold insertField inserted
  split
  · rfl
  · next h =>
    refine congrArg some (BitVec.eq_of_getLsbD_eq fun i hi => ?_)
    have hput := getLsbD_putBits d ofs (min wid (64 - ofs)) a.toNat i
    rw [putBits] at hput
    refine hput.trans ?_
    simp only [BitVec.getLsbD_or, BitVec.getLsbD_and, BitVec.getLsbD_not, BitVec.getLsbD_ofNat, hi, decide_true, Bool.true_and,
      Nat.testBit_mul_two_pow, Nat.testBit_mod_two_pow, Nat.testBit_two_pow_sub_one]
    by_cases hlo : ofs ≤ i
    · by_cases hhi : i < ofs + min wid (64 - ofs)
      · simp [hlo, hhi, show i - ofs < min wid (64 - ofs) by omega]
      · simp [hlo, hhi, show ¬i - ofs < min wid (64 - ofs) by omega]
    · simp [hlo]

theorem condition_iff_holds (sf : Nat) (a b : Word) : condition sf a b = true ↔ holds sf a b := by
  unfold condition holds
  split <;> simp

/-- The field of bext and bins, read. -/
theorem fieldOf_near {s s1 : State} {c c' : Core} {x : FormS3} {ofs wid : Nat} (hn : Near s s1 c)
    (h : fieldRead c x = some (ofs, wid, c')) : ∃ s2, (fieldOf x).run s1 = .ok (ofs, wid) s2 ∧ Near s s2 c' := by
  have hbits : ∀ {n : Nat} (w : BitVec n), bitsOf w 0 8 = w.toNat % 256 := fun w => by simp [bitsOf]
  unfold fieldRead at h
  unfold fieldOf
  split at h
  · next hb =>
    simp only [Option.some.injEq, Prod.mk.injEq] at h
    obtain ⟨rfl, rfl, rfl⟩ := h
    rw [if_pos hb, hbits]
    exact ⟨s1, rfl, hn⟩
  · next hb =>
    obtain ⟨⟨v, c2⟩, hv, h⟩ := Option.map_eq_some_iff.1 h
    simp only [Prod.mk.injEq] at h
    obtain ⟨rfl, rfl, rfl⟩ := h
    obtain ⟨s2, e2, n2⟩ := readS_near hn hv
    rw [if_neg hb, op_bind_ok e2, hbits]
    exact ⟨s2, rfl, n2⟩

theorem fieldRead_spec {c c' : Core} {x : FormS3} {ofs wid : Nat} (h : fieldRead c x = some (ofs, wid, c'))
    (hs : c.spec = none) : c'.spec = none := by
  unfold fieldRead at h
  split at h
  · cases h; exact hs
  · obtain ⟨⟨v, c2⟩, hv, h⟩ := Option.map_eq_some_iff.1 h
    cases h
    exact scalarRead_spec hv hs

theorem bext_ok {x : FormS3} {s : State} {a : Word} {c1 c2 c3 : Core} {ofs wid : Nat} (h : Issues (.bext x) s)
    (ha : scalarRead s.me x.a = some (a, c1)) (hf : fieldRead c1 x = some (ofs, wid, c2))
    (hd : scalarWrite c2 x.d (extracted (x.sf == 1) a ofs wid) = some c3) : exec (.bext x) s = .next (s.completed c3) := by
  obtain ⟨s1, e1, n1⟩ := readS_near (Near.refl s) ha
  obtain ⟨s2, e2, n2⟩ := fieldOf_near n1 hf
  obtain ⟨s3, e3, n3⟩ := writeS_near n2 hd
  refine issueSeq_near h ?_ n3 (scalarWrite_spec hd (fieldRead_spec hf (scalarRead_spec ha h.2.2.1)))
  rw [op_bind_ok e1, op_bind_ok e2, ← e3, ← extractField_eq_extracted]

/-- The core once bins has put its field into sD. -/
def binsWritten (c : Core) (x : FormS3) (a : Word) (ofs wid : Nat) : Core :=
  if wid = 0 ∨ 64 ≤ ofs then c else c.setReg x.d.toNat (inserted (c.reg x.d.toNat) a ofs wid)

theorem bins_ok {x : FormS3} {s : State} {a : Word} {c1 c2 : Core} {ofs wid : Nat} (h : Issues (.bins x) s)
    (hx : x.d.toNat < 24) (ha : scalarRead s.me x.a = some (a, c1)) (hf : fieldRead c1 x = some (ofs, wid, c2)) :
    exec (.bins x) s = .next (s.completed (binsWritten c2 x a ofs wid)) := by
  obtain ⟨s1, e1, n1⟩ := readS_near (Near.refl s) ha
  obtain ⟨s2, e2, n2⟩ := fieldOf_near n1 hf
  have hspec : c2.spec = none := fieldRead_spec hf (scalarRead_spec ha h.2.2.1)
  have hinsert := insertField_eq_inserted (c2.reg x.d.toNat) a ofs wid
  unfold binsWritten
  split at hinsert
  · next hnone =>
    rw [if_pos hnone]
    refine issueSeq_near h ?_ n2 hspec
    rw [op_bind_ok e1, op_bind_ok e2, op_bind_ok (getMe_run s2), n2.1]
    simp only [hinsert, op_pure]
  · next hsome =>
    rw [if_neg hsome]
    have hd : scalarWrite c2 x.d (inserted (c2.reg x.d.toNat) a ofs wid)
        = some (c2.setReg x.d.toNat (inserted (c2.reg x.d.toNat) a ofs wid)) := if_pos hx
    obtain ⟨s3, e3, n3⟩ := writeS_near n2 hd
    refine issueSeq_near h ?_ n3 (scalarWrite_spec hd hspec)
    rw [op_bind_ok e1, op_bind_ok e2, op_bind_ok (getMe_run s2), n2.1]
    simp only [hinsert, e3]

theorem consume_flags (c : Core) (f : Flit) (n p : Nat) : (c.consume f n p).flags = c.flags := by
  unfold Core.consume Core.raiseFlags
  repeat' split
  all_goals rfl

theorem scalarRead_flags {c c' : Core} {r : BitVec 5} {v : Word} (h : scalarRead c r = some (v, c')) :
    c'.flags = c.flags := by
  unfold scalarRead at h
  dsimp only at h
  repeat' split at h
  all_goals cases h
  · rfl
  · exact consume_flags _ _ _ _
  · exact consume_flags _ _ _ _
  · rfl

theorem sel_ok {x : FormS3} {s : State} {a b : Word} {c1 c2 c3 : Core} (h : Issues (.sel x) s)
    (ha : scalarRead s.me x.a = some (a, c1)) (hb : scalarRead c1 x.b = some (b, c2))
    (hd : scalarWrite c2 x.d (if s.me.flag x.c.toNat then a else b) = some c3) :
    exec (.sel x) s = .next (s.completed c3) := by
  obtain ⟨s1, e1, n1⟩ := readS_near (Near.refl s) ha
  obtain ⟨s2, e2, n2⟩ := readS_near n1 hb
  obtain ⟨s3, e3, n3⟩ := writeS_near n2 hd
  have hflag : c2.flag x.c.toNat = s.me.flag x.c.toNat := by
    rw [Core.flag, scalarRead_flags hb, scalarRead_flags ha, ← Core.flag]
  refine issueSeq_near h ?_ n3 (scalarWrite_spec hd (scalarRead_spec hb (scalarRead_spec ha h.2.2.1)))
  rw [op_bind_ok e1, op_bind_ok e2, op_bind_ok (getMe_run s2), n2.1, hflag, e3]

@[simp] theorem setFlag_spec (c : Core) (n : Nat) (v : Bool) : (c.setFlag n v).spec = c.spec := by
  unfold Core.setFlag
  split <;> rfl

/-- A truth value that both its destinations take, written. -/
theorem writeTruth_of_truthWrite {s s1 : State} {c c' : Core} {d : BitVec 5} {fd : BitVec 3} {v : Bool} (hn : Near s s1 c)
    (h : truthWrite c d fd v = some c') (hs : c.spec = none) :
    c'.spec = none ∧ ∃ s2, (writeTruth d fd v).run s1 = .ok () s2 ∧ Near s s2 c' := by
  obtain ⟨c2, hw, rfl⟩ := Option.map_eq_some_iff.1 h
  exact ⟨(setFlag_spec _ _ _).trans (scalarWrite_spec hw hs), writeTruth_near hn hw⟩

theorem cmp_ok {x : FormS3} {s : State} {a b : Word} {c1 c2 c3 : Core} (h : Issues (.cmp x) s)
    (ha : scalarRead s.me x.a = some (a, c1)) (hb : scalarRead c1 x.b = some (b, c2))
    (hd : truthWrite c2 x.d x.fd (condition x.sf.toNat a b) = some c3) : exec (.cmp x) s = .next (s.completed c3) := by
  obtain ⟨s1, e1, n1⟩ := readS_near (Near.refl s) ha
  obtain ⟨s2, e2, n2⟩ := readS_near n1 hb
  obtain ⟨hspec, s3, e3, n3⟩ := writeTruth_of_truthWrite n2 hd (scalarRead_spec hb (scalarRead_spec ha h.2.2.1))
  refine issueSeq_near h ?_ n3 hspec
  rw [op_bind_ok e1, op_bind_ok e2, e3]

theorem cmpi_ok {x : FormC} {s : State} {a : Word} {c1 c2 : Core} (h : Issues (.cmpi x) s)
    (ha : scalarRead s.me x.a = some (a, c1))
    (hd : truthWrite c1 x.d x.fd (condition x.sf.toNat a (x.imm.signExtend 64)) = some c2) :
    exec (.cmpi x) s = .next (s.completed c2) := by
  obtain ⟨s1, e1, n1⟩ := readS_near (Near.refl s) ha
  obtain ⟨hspec, s2, e2, n2⟩ := writeTruth_of_truthWrite n1 hd (scalarRead_spec ha h.2.2.1)
  refine issueSeq_near h ?_ n2 hspec
  rw [op_bind_ok e1, e2]

end Sys2Proof.Machine

namespace Sys2Proof.Proofs
open Sys2Proof.Machine Sys2Proof.Claims

/-! ## What the decoder refuses (05 R182-R184) -/

/-- A word that selects an instruction which is not well formed is refused. -/
theorem decodeWord_refused {w : Word} {i : Instr} (h : Selects w i) (hwf : i.wellFormed = false) :
    decodeWord w = .error .reservedField := by
  rw [decodeWord, if_pos h.1, h.2]
  simp [hwf]

theorem wellFormed_of_extraOk_false {i : Instr} (h : i.extraOk = false) : i.wellFormed = false := by
  rw [Instr.wellFormed, h, Bool.false_and]

/-- An instruction of form S3 whose opcode alone selects it. -/
theorem selects_formS3 {f : FormS3 → Instr} {op : BitVec 8} {x : FormS3} (ha : opAssigned op.toNat = true)
    (hw : (f x).word? = some (x.word op))
    (hrow : ∀ w, pickRow (op.toNat / 16) (op.toNat % 16) w = some (f (.ofWord w))) : Selects (wordOf (f x)) (f x) := by
  rw [wordOf, hw]
  exact selects_of_row (formS3_op_word _ _) (formS3_ofWord_word _ _) ha (hrow _)

theorem refused_shiftImmediate : ∀ i ∈ [Instr.slli, .srli, .srai], ∀ x : FormSI, 64 ≤ x.imm.toNat →
    decodeWord (wordOf (i x)) = .error .reservedField := by
  have hselects : ∀ i ∈ [Instr.slli, .srli, .srai], ∀ x : FormSI, Selects (wordOf (i x)) (i x) := by
    simp only [List.forall_mem_cons]
    exact ⟨fun x => selects_of_row (formSI_op_word _ _) (formSI_ofWord_word _ x) rfl rfl,
      fun x => selects_of_row (formSI_op_word _ _) (formSI_ofWord_word _ x) rfl rfl,
      fun x => selects_of_row (formSI_op_word _ _) (formSI_ofWord_word _ x) rfl rfl, fun _ h => absurd h List.not_mem_nil⟩
  have hextra : ∀ i ∈ [Instr.slli, .srli, .srai], ∀ x : FormSI, (i x).extraOk = decide (x.imm.toNat < 64) := by
    simp only [List.forall_mem_cons]
    exact ⟨fun _ => rfl, fun _ => rfl, fun _ => rfl, fun _ h => absurd h List.not_mem_nil⟩
  intro i hi x h
  refine decodeWord_refused (hselects i hi x) (wellFormed_of_extraOk_false ?_)
  rw [hextra i hi x, decide_eq_false (Nat.not_lt.2 h)]

theorem beq_zero_or_false {m n : Nat} {b : BitVec m} {c : BitVec n} (h : b ≠ 0 ∧ c ≠ 0) : (b == 0 || c == 0) = false := by
  rw [beq_eq_false_iff_ne.2 h.1, beq_eq_false_iff_ne.2 h.2, Bool.or_self]

theorem refused_bext (x : FormS3) (h : 1 < x.sf.toNat ∨ (x.b ≠ 0 ∧ x.aux ≠ 0)) :
    decodeWord (wordOf (.bext x)) = .error .reservedField := by
  refine decodeWord_refused (selects_formS3 rfl rfl fun _ => rfl) (wellFormed_of_extraOk_false ?_)
  rcases h with h | h
  · simp [Instr.extraOk, Nat.not_le.2 h]
  · rw [Instr.extraOk, beq_zero_or_false h, Bool.and_false]

theorem refused_cmp (x : FormS3) (h : 12 ≤ x.sf.toNat) : decodeWord (wordOf (.cmp x)) = .error .reservedField := by
  refine decodeWord_refused (selects_formS3 rfl rfl fun _ => rfl) (wellFormed_of_extraOk_false ?_)
  simp [Instr.extraOk, Nat.not_lt.2 h]

theorem refused_cmpi (x : FormC) (h : 12 ≤ x.sf.toNat) : decodeWord (wordOf (.cmpi x)) = .error .reservedField := by
  refine decodeWord_refused (selects_of_row (formC_op_word _ _) (formC_ofWord_word _ x) rfl rfl)
    (wellFormed_of_extraOk_false ?_)
  simp [Instr.extraOk, Nat.not_lt.2 h]

/-- Bits outside the fields that a shape reads must be 0: so must a field there. -/
theorem shape_ok_false_of_field {sh : Shape} {w : Word} (lo n : Nat) (h : w.extractLsb' lo n ≠ 0)
    (hm : (bitRange 31 0 &&& ~~~ sh.x.foldr (fun r m => bitRange r.1 r.2 ||| m) 0).extractLsb' lo n = BitVec.allOnes n) :
    sh.ok w = false := by
  have hx : (w &&& bitRange 31 0 &&& ~~~ sh.x.foldr (fun r m => bitRange r.1 r.2 ||| m) 0) ≠ 0 := by
    intro h0
    have hfield := congrArg (BitVec.extractLsb' lo n) h0
    rw [BitVec.and_assoc, BitVec.extractLsb'_and, hm, BitVec.and_allOnes] at hfield
    exact h (hfield.trans (BitVec.extractLsb'_zero ..))
  rw [Shape.ok, beq_eq_false_iff_ne.2 hx, Bool.and_false]

theorem refused_bins (x : FormS3) (h : x.sf ≠ 0 ∨ 24 ≤ x.d.toNat ∨ (x.b ≠ 0 ∧ x.aux ≠ 0)) :
    decodeWord (wordOf (.bins x)) = .error .reservedField := by
  have hread : FormS3.ofWord (x.word 0x1F) = x := formS3_ofWord_word _ x
  refine decodeWord_refused (selects_formS3 rfl rfl fun _ => rfl) ?_
  have hshape : x.sf ≠ 0 ∨ 24 ≤ x.d.toNat →
      Shape.ok ⟨.scalarReg, .scalar, .scalar, .zero, [(15, 0)]⟩ (x.word 0x1F) = false := by
    rintro (hsf | hd)
    · have hfield : (x.word 0x1F).extractLsb' 26 6 = x.sf := congrArg FormS3.sf hread
      exact shape_ok_false_of_field 26 6 (by rw [hfield]; exact hsf) (by decide)
    · have hfield : (x.word 0x1F).extractLsb' 47 5 = x.d := congrArg FormS3.d hread
      simp only [Shape.ok, hfield, RegKind.ok, decide_eq_false (Nat.not_lt.2 hd), Bool.and_false, Bool.false_and]
  rcases h with hsf | hd | h
  · exact Bool.and_eq_false_iff.2 (.inr (hshape (.inl hsf)))
  · exact Bool.and_eq_false_iff.2 (.inr (hshape (.inr hd)))
  · exact wellFormed_of_extraOk_false (beq_zero_or_false h)

/-- Settles O1: each instruction is the operation of its rule on what its fields read. -/
theorem twoOperandIntegerResults : Obligations.TwoOperandIntegerResults := by
  intro p hp x s a b c1 c2 c3 h ha hb hd
  rw [exec_twoOperand p hp x]
  exact binary_ok h ha hb hd

/-- Settles O41: each instruction is the operation of its rule on what its fields read; where a rule reserves a field value, the word
selects an instruction that is not well formed. -/
theorem integerInstructionResults : Obligations.IntegerInstructionResults := by
  refine ⟨⟨?one, ?imm, fun x s c1 h hd => writeOnly_ok h hd, refused_shiftImmediate⟩,
    fun x s a c1 c2 c3 ofs wid h ha hf hd => bext_ok h ha hf hd,
    fun x s a c1 c2 ofs wid h hx ha hf => ⟨_, bins_ok h hx ha hf, rfl⟩,
    fun x s a b c1 c2 c3 h ha hb hd => sel_ok h ha hb hd, ?cmp, ?cmpi,
    refused_bext, refused_bins, refused_cmp, refused_cmpi⟩
  case one =>
    intro p hp x s a c1 h ha
    obtain ⟨f, hf, hexec⟩ := exec_oneOperand p hp
    exact ⟨f a, hf a, fun c2 hd => (congrFun (hexec x) s).trans (unary_ok h ha hd)⟩
  case imm =>
    intro p hp x s a c1 c2 h ha hd
    rw [exec_immediates p hp x]
    exact immediate_ok h ha hd
  case cmp =>
    intro x s a b c1 c2 c3 v h ha hb hv hd
    have hcond : v = condition x.sf.toNat a b := Bool.eq_iff_iff.2 (hv.trans (condition_iff_holds _ _ _).symm)
    exact cmp_ok h ha hb (hcond ▸ hd)
  case cmpi =>
    intro x s a c1 c2 v h ha hv hd
    have hcond : v = condition x.sf.toNat a (x.imm.signExtend 64) :=
      Bool.eq_iff_iff.2 (hv.trans (condition_iff_holds _ _ _).symm)
    exact cmpi_ok h ha (hcond ▸ hd)

end Sys2Proof.Proofs
end

section
/-! PROOFS. The scalar floating-point operations (05 R186): flags raised, then the result written. -/

namespace Sys2Proof.Machine
open Sys2Proof.Claims

@[simp] theorem raiseFlags_spec {c : Core} (f : BitVec 7) (h : c.spec = none) : (c.raiseFlags f).spec = none := by
  simp [Core.raiseFlags, h]

@[simp] theorem raiseFlags_canPush (c : Core) (f : BitVec 7) (n k : Nat) : (c.raiseFlags f).canPush n k = c.canPush n k := by
  unfold Core.raiseFlags
  split <;> rfl

/-- A field that takes a value can push where it names a queue. -/
theorem canPush_of_scalarWrite {c c' : Core} {r : BitVec 5} {v : Word} (h : scalarWrite c r v = some c') (hr : 24 ≤ r.toNat) :
    c.canPush (r.toNat - 24) 1 = true := by
  rw [scalarWrite, if_neg (Nat.not_lt.2 hr)] at h
  dsimp only at h
  split at h
  · assumption
  · contradiction

/-- The destination is ready: it is a register, or one flit can be pushed through the queue. -/
theorem destReady_ok {s : State} {r : BitVec 5} (h : 24 ≤ r.toNat → s.me.canPush (r.toNat - 24) 1 = true) :
    (destReady r 1).run s = .ok () s := by
  unfold destReady
  split
  · next hr => rw [op_bind_ok (getMe_run s), op_bind_ok (checkTag_canPush (h hr)), waitRoom_canPush (h hr)]
  · rfl

theorem raise_near {s s1 : State} {c : Core} (f : BitVec 7) (hn : Near s s1 c) :
    ∃ s2, (raise f).run s1 = .ok () s2 ∧ Near s s2 (c.raiseFlags f) := by
  unfold raise
  exact ⟨_, modMe_run _ _, hn.1 ▸ hn.setMe _⟩

/-- A destination that takes the result once the flags are raised is ready before. -/
theorem destReady_of_fopWritten {s1 : State} {c c' : Core} {d : BitVec 5} {v : Word} {f : BitVec 7} (hc : s1.me = c)
    (h : scalarWrite (c.raiseFlags f) d v = some c') : (destReady d 1).run s1 = .ok () s1 :=
  destReady_ok fun hr => by rw [hc, ← raiseFlags_canPush c f]; exact canPush_of_scalarWrite h hr

/-- The flags of a fop raised and its result written. -/
theorem fopWritten_near {s s1 : State} {c c' : Core} {d : BitVec 5} {v : Word} {f : BitVec 7} (hn : Near s s1 c)
    (h : fopWritten c d v f = some c') :
    ∃ s2, (do destReady d 1; raise f; writeS d v : Op Unit).run s1 = .ok () s2 ∧ Near s s2 c' := by
  obtain ⟨s2, e2, n2⟩ := raise_near f hn
  obtain ⟨s3, e3, n3⟩ := writeS_near n2 h
  exact ⟨s3, by rw [op_bind_ok (destReady_of_fopWritten hn.1 h), op_bind_ok e2, e3], n3⟩

theorem fopWritten_spec {c c' : Core} {d : BitVec 5} {v : Word} {f : BitVec 7} (h : fopWritten c d v f = some c')
    (hs : c.spec = none) : c'.spec = none := scalarWrite_spec h (raiseFlags_spec f hs)

/-- A fop of one operand: g gives its result and flags. -/
theorem fopOne_ok {i : Instr} {x : FormS3} {g : Core → FormS3 → Word → Word × BitVec 7} {s : State} {a : Word}
    {c1 c2 : Core} (h : Issues i s) (ha : scalarRead s.me x.a = some (a, c1))
    (hd : fopWritten c1 x.d (g c1 x a).1 (g c1 x a).2 = some c2) :
    issueSeq i (do
      let a ← readS x.a
      let c ← getMe
      destReady x.d 1
      raise (g c x a).2
      writeS x.d (g c x a).1) s = .next (s.completed c2) := by
  obtain ⟨s1, e1, n1⟩ := readS_near (Near.refl s) ha
  obtain ⟨s2, e2, n2⟩ := fopWritten_near n1 hd
  refine issueSeq_near h ?_ n2 (fopWritten_spec hd (scalarRead_spec ha h.2.2.1))
  rw [op_bind_ok e1, op_bind_ok (getMe_run s1), n1.1, e2]

/-- Each fop of one operand computes what the table of 05 R186 gives. -/
theorem exec_fopOne : ∀ p ∈ fopOne, ∀ x : FormS3, exec (p.1 x) = issueSeq (p.1 x) (do
      let a ← readS x.a
      let c ← getMe
      destReady x.d 1
      raise (p.2 c x a).2
      writeS x.d (p.2 c x a).1) := by
  have hmod : ∀ x : FormS3, x.aux.toNat % 16 = bitsOf x.aux 0 4 := fun x => by simp [bitsOf]
  simp only [fopOne, List.forall_mem_cons, hmod]
  exact ⟨fun _ => rfl, fun _ => rfl, fun _ => rfl, fun _ => rfl, fun _ => rfl, fun _ => rfl, fun _ => rfl, fun _ => rfl,
    fun _ h => absurd h List.not_mem_nil⟩

theorem exec_fopTwo : ∀ p ∈ fopTwo, ∀ x : FormS3, exec (p.1 x) = fopBinary (p.1 x) x p.2 := by
  simp only [fopTwo, List.forall_mem_cons]
  exact ⟨fun _ => rfl, fun _ => rfl, fun _ => rfl, fun _ => rfl, fun _ => rfl, fun _ => rfl,
    fun _ h => absurd h List.not_mem_nil⟩

theorem fopTwo_ok {i : Instr} {x : FormS3} {g : FpFormat → BitVec 2 → Bool → FpVal → FpVal → FpRes} {s : State} {a b : Word}
    {c1 c2 c3 : Core} {r : FpRes} (h : Issues i s) (ha : scalarRead s.me x.a = some (a, c1))
    (hb : scalarRead c1 x.b = some (b, c2))
    (hr : r = g (fpOf x.ty.toNat) (fopMode c2 x) c2.ftz (fopArg c2 x a) (fopArg c2 x b))
    (hd : fopWritten c2 x.d (.ofNat 64 r.1) r.2 = some c3) : fopBinary i x g s = .next (s.completed c3) := by
  subst hr
  obtain ⟨s1, e1, n1⟩ := readS_near (Near.refl s) ha
  obtain ⟨s2, e2, n2⟩ := readS_near n1 hb
  obtain ⟨s3, e3, n3⟩ := fopWritten_near n2 hd
  refine issueSeq_near h ?_ n3 (fopWritten_spec hd (scalarRead_spec hb (scalarRead_spec ha h.2.2.1)))
  rw [op_bind_ok e1, op_bind_ok e2, op_bind_ok (getMe_run s2), n2.1]
  exact e3

theorem fopFma_ok {x : FormS3} {s : State} {a b e : Word} {c1 c2 c3 c4 : Core} {r : FpRes} (h : Issues (.fopFma x) s)
    (ha : scalarRead s.me x.a = some (a, c1)) (hb : scalarRead c1 x.b = some (b, c2)) (he : scalarRead c2 x.c = some (e, c3))
    (hr : r = fpFma (fpOf x.ty.toNat) (fopMode c3 x) c3.ftz (fopArg c3 x a) (fopArg c3 x b) (fopArg c3 x e))
    (hd : fopWritten c3 x.d (.ofNat 64 r.1) r.2 = some c4) : exec (.fopFma x) s = .next (s.completed c4) := by
  subst hr
  obtain ⟨s1, e1, n1⟩ := readS_near (Near.refl s) ha
  obtain ⟨s2, e2, n2⟩ := readS_near n1 hb
  obtain ⟨s3, e3, n3⟩ := readS_near n2 he
  obtain ⟨s4, e4, n4⟩ := fopWritten_near n3 hd
  refine issueSeq_near h ?_ n4
    (fopWritten_spec hd (scalarRead_spec he (scalarRead_spec hb (scalarRead_spec ha h.2.2.1))))
  rw [op_bind_ok e1, op_bind_ok e2, op_bind_ok e3, op_bind_ok (getMe_run s3), n3.1]
  exact e4

/-! ## Compares -/

/-- The truth and the flags of a fop compare (05 R186): p is what the table of compares gives for it. -/
def fopTruth (p : (Ordering → Bool) × Bool × Bool) (u v : FpVal) : Bool × BitVec 7 :=
  (if u.isNan || v.isNan then p.2.2 else p.1 (fpCompare u v),
   if u.isSignalling || v.isSignalling || ((u.isNan || v.isNan) && p.2.1) then flagNV else 0)

/-- Each fop compare is the condition that its row names. -/
theorem exec_fopTests : ∀ p ∈ fopTests, ∃ cc, (∀ x : FormS3, exec (p.1 x) = fopCompare (p.1 x) x cc)
    ∧ ∀ u v, fpCondition cc u v = fopTruth p.2 u v := by
  have hrow : ∀ (cc : Nat) (p : (Ordering → Bool) × Bool × Bool),
      (∀ u v, (fpCondition cc u v).1 = (fopTruth p u v).1) → p.2.1 = (decide (2 ≤ cc) && decide (cc ≤ 5)) →
      ∀ u v, fpCondition cc u v = fopTruth p u v := fun cc p h1 h2 u v =>
    Prod.ext (h1 u v) (by simp only [fpCondition, fopTruth, h2, Bool.and_assoc]; rfl)
  simp only [fopTests, List.forall_mem_cons]
  refine ⟨⟨0, fun _ => rfl, hrow _ _ (fun u v => ?_) rfl⟩, ⟨2, fun _ => rfl, hrow _ _ (fun u v => ?_) rfl⟩,
    ⟨3, fun _ => rfl, hrow _ _ (fun u v => ?_) rfl⟩, ⟨6, fun _ => rfl, hrow _ _ (fun u v => ?_) rfl⟩,
    fun _ h => absurd h List.not_mem_nil⟩
  all_goals cases hn : u.isNan || v.isNan <;> simp [fpCondition, fopTruth, hn]

theorem fopCompare_ok {i : Instr} {x : FormS3} {cc : Nat} {s : State} {a b : Word} {c1 c2 c3 : Core} {t : Bool} {fl : BitVec 7}
    (h : Issues i s) (ha : scalarRead s.me x.a = some (a, c1)) (hb : scalarRead c1 x.b = some (b, c2))
    (ht : fpCondition cc (fopArg c2 x a) (fopArg c2 x b) = (t, fl))
    (hd : truthWrite (c2.raiseFlags fl) x.d x.fd t = some c3) : fopCompare i x cc s = .next (s.completed c3) := by
  obtain ⟨s1, e1, n1⟩ := readS_near (Near.refl s) ha
  obtain ⟨s2, e2, n2⟩ := readS_near n1 hb
  obtain ⟨s3, e3, n3⟩ := raise_near fl n2
  obtain ⟨hspec, s4, e4, n4⟩ := writeTruth_of_truthWrite n3 hd
    (raiseFlags_spec fl (scalarRead_spec hb (scalarRead_spec ha h.2.2.1)))
  obtain ⟨c, hw, -⟩ := Option.map_eq_some_iff.1 hd
  have ht' : fpCondition cc (fopVal c2 x a) (fopVal c2 x b) = (t, fl) := ht
  refine issueSeq_near h ?_ n4 hspec
  rw [op_bind_ok e1, op_bind_ok e2, op_bind_ok (getMe_run s2), n2.1, ht']
  exact (op_bind_ok (destReady_of_fopWritten n2.1 hw)).trans ((op_bind_ok e3).trans e4)

end Sys2Proof.Machine

namespace Sys2Proof.Proofs
open Sys2Proof.Machine Sys2Proof.Claims

/-- Settles O2: the operands are read, the destination is seen to be ready, the flags are raised and the result is written. -/
theorem fopResults : Obligations.FopResults := by
  refine ⟨fun p hp x s a c1 c2 h ha hd => ?_, fun p hp x s a b c1 c2 c3 r h ha hb hr hd => ?_,
    fun x s a b e c1 c2 c3 c4 r h ha hb he hr hd => fopFma_ok h ha hb he hr hd,
    fun p hp x s a b c1 c2 c3 u v t fl h ha hb hu hv ht hfl hd => ?_⟩
  · rw [exec_fopOne p hp x]
    exact fopOne_ok h ha hd
  · rw [exec_fopTwo p hp x]
    exact fopTwo_ok h ha hb hr hd
  · obtain ⟨cc, hexec, hcond⟩ := exec_fopTests p hp
    subst hu hv ht hfl
    rw [hexec x]
    exact fopCompare_ok h ha hb (hcond _ _) hd

end Sys2Proof.Proofs
end

section
/-! PROOFS. The frame of the register instructions (05 R181-R184, R186): registers, flags and FP_FLAGS apart, the executing core is as
before but for where it stands. -/

namespace Sys2Proof.Machine
open Sys2Proof.Claims

/-! ## Scalar fields that name registers -/

theorem scalarRead_reg {r : BitVec 5} (h : r.toNat < 24) (c : Core) : scalarRead c r = some (c.reg r.toNat, c) := if_pos h

theorem scalarWrite_reg {r : BitVec 5} (h : r.toNat < 24) (c : Core) (v : Word) :
    scalarWrite c r v = some (c.setReg r.toNat v) := if_pos h

theorem truthWrite_reg {d : BitVec 5} (h : d.toNat < 24) (c : Core) (fd : BitVec 3) (v : Bool) :
    truthWrite c d fd v = some ((c.setReg d.toNat (if v then 1 else 0)).setFlag fd.toNat v) := by
  rw [truthWrite, scalarWrite_reg h, Option.map_some]

/-! ## A core that differs in registers, flags and FP_FLAGS -/

theorem Core.reg_setReg_ne (c : Core) {n d : Nat} (v : Word) (h : n ≠ d) : (c.setReg d v).reg n = c.reg n := by
  unfold Core.setReg
  split
  · rfl
  · rw [Core.reg, Core.reg, Table.get_set_ne (0 : Word) h]

theorem Core.flag_setFlag_ne (c : Core) {n d : Nat} (v : Bool) (hn : n < 8) (h : n ≠ d) :
    (c.setFlag d v).flag n = c.flag n := by
  unfold Core.setFlag Core.flag
  split
  · rfl
  · rw [getLsbD_putBits, if_neg (by omega)]
    simp [hn]

/-- Two cores are the same but for registers, flags and FP_FLAGS. -/
def Core.RegsDiffer (c c' : Core) : Prop := c' = { c with regs := c'.regs, flags := c'.flags, fpFlags := c'.fpFlags }

theorem Core.RegsDiffer.refl (c : Core) : c.RegsDiffer c := rfl

theorem Core.RegsDiffer.setReg {c c' : Core} (h : c.RegsDiffer c') (d : Nat) (v : Word) : c.RegsDiffer (c'.setReg d v) := by
  unfold Core.RegsDiffer at h ⊢
  unfold Core.setReg
  split
  · exact h
  · rw [h]

theorem Core.RegsDiffer.setFlag {c c' : Core} (h : c.RegsDiffer c') (d : Nat) (v : Bool) : c.RegsDiffer (c'.setFlag d v) := by
  unfold Core.RegsDiffer at h ⊢
  unfold Core.setFlag
  split
  · exact h
  · rw [h]

theorem raiseFlags_noSpec {c : Core} (f : BitVec 7) (h : c.spec = none) :
    c.raiseFlags f = { c with fpFlags := c.fpFlags ||| withExc f } := by
  rw [Core.raiseFlags, h]

theorem Core.RegsDiffer.raiseFlags {c : Core} (f : BitVec 7) (h : c.spec = none) : c.RegsDiffer (c.raiseFlags f) := by
  rw [raiseFlags_noSpec f h]
  rfl

@[simp] theorem completed_regs (c : Core) (b : Bool) : (c.completed b).regs = c.regs := by cases b <;> rfl
@[simp] theorem completed_flags (c : Core) (b : Bool) : (c.completed b).flags = c.flags := by cases b <;> rfl
@[simp] theorem completed_fpFlags (c : Core) (b : Bool) : (c.completed b).fpFlags = c.fpFlags := by cases b <;> rfl

/-- Completing with such a core changes registers, flags, FP_FLAGS and where the core stands. -/
theorem onlyRegisters_completed {s : State} {c : Core} (h : s.me.RegsDiffer c) : OnlyRegisters s (s.completed c) := by
  refine ⟨?_, fun _ => rfl, fun lid a => ?_⟩
  · rw [State.me_completed, State.completed]
    refine congrArg s.setMe ?_
    rw [Core.RegsDiffer] at h
    rw [h]
    cases s.inRpt <;> rfl
  · rw [completed_loc rfl rfl (by rw [h])]

/-- What the frame of a register instruction says of the state after it: D is its destination, and its flags and FP_FLAGS are those
of c. -/
theorem frame_completed {s t : State} {c : Core} {d : Nat} (ht : t = s.completed c) (h : s.me.RegsDiffer c)
    (hreg : ∀ n, n ≠ d → c.reg n = s.me.reg n) :
    OnlyRegisters s t ∧ t.me.flags = c.flags ∧ t.me.fpFlags = c.fpFlags ∧ ∀ n < 24, n ≠ d → t.me.reg n = s.me.reg n := by
  subst ht
  refine ⟨onlyRegisters_completed h, ?_, ?_, fun n _ hn => ?_⟩
  · rw [State.me_completed, completed_flags]
  · rw [State.me_completed, completed_fpFlags]
  · rw [State.me_completed, ← hreg n hn, Core.reg, completed_regs, ← Core.reg]

theorem eq_of_exec_next {i : Instr} {s t u : State} (ht : exec i s = .next t) (hu : exec i s = .next u) : t = u := by
  rw [ht] at hu
  exact Host.Outcome.next.inj hu

/-- The frame of an instruction that writes one register. -/
theorem frame_setReg {s t : State} {d : Nat} {v : Word} (ht : t = s.completed (s.me.setReg d v)) :
    OnlyRegisters s t ∧ t.me.flags = s.me.flags ∧ t.me.fpFlags = s.me.fpFlags
      ∧ ∀ n < 24, n ≠ d → t.me.reg n = s.me.reg n := by
  have h := frame_completed ht ((Core.RegsDiffer.refl _).setReg d v) fun n hn => Core.reg_setReg_ne _ v hn
  simpa using h

/-- The frame of a compare. -/
theorem frame_truth {s t : State} {d fd : Nat} {v : Bool} {w : Word}
    (ht : t = s.completed ((s.me.setReg d w).setFlag fd v)) :
    OnlyRegisters s t ∧ t.me.fpFlags = s.me.fpFlags ∧ (∀ n < 8, n ≠ fd → t.me.flag n = s.me.flag n)
      ∧ ∀ n < 24, n ≠ d → t.me.reg n = s.me.reg n := by
  have hreg : ∀ n, n ≠ d → ((s.me.setReg d w).setFlag fd v).reg n = s.me.reg n := fun n hn => by
    rw [Core.reg, Core.setFlag_regs, ← Core.reg, Core.reg_setReg_ne _ w hn]
  obtain ⟨hframe, hflags, hfp, hregs⟩ := frame_completed ht (((Core.RegsDiffer.refl _).setReg d w).setFlag fd v) hreg
  refine ⟨hframe, by simpa using hfp, fun n hn hne => ?_, hregs⟩
  rw [Core.flag, hflags, ← Core.flag, Core.flag_setFlag_ne _ v hn hne, Core.flag, Core.setReg_flags, ← Core.flag]

theorem or_and_self (a b : BitVec 7) : (a ||| b) &&& a = a := by
  ext i hi
  simp only [BitVec.getElem_and, BitVec.getElem_or]
  cases a[i] <;> simp

/-- FP_FLAGS keeps the flags that it holds. -/
theorem raiseFlags_keeps {c : Core} (f : BitVec 7) (h : c.spec = none) : (c.raiseFlags f).fpFlags &&& c.fpFlags = c.fpFlags := by
  rw [raiseFlags_noSpec f h]
  exact or_and_self _ _

theorem raiseFlags_flags (c : Core) (f : BitVec 7) : (c.raiseFlags f).flags = c.flags := by
  unfold Core.raiseFlags
  split <;> rfl

theorem raiseFlags_regs (c : Core) (f : BitVec 7) : (c.raiseFlags f).regs = c.regs := by
  unfold Core.raiseFlags
  split <;> rfl

/-- The frame of a fop that writes one register. -/
theorem frame_fop {s t : State} {d : Nat} {v : Word} {f : BitVec 7} (hs : s.me.spec = none)
    (ht : t = s.completed ((s.me.raiseFlags f).setReg d v)) :
    OnlyRegisters s t ∧ t.me.flags = s.me.flags ∧ t.me.fpFlags &&& s.me.fpFlags = s.me.fpFlags
      ∧ ∀ n < 24, n ≠ d → t.me.reg n = s.me.reg n := by
  have hreg : ∀ n, n ≠ d → ((s.me.raiseFlags f).setReg d v).reg n = s.me.reg n := fun n hn => by
    rw [Core.reg_setReg_ne _ v hn, Core.reg, raiseFlags_regs, ← Core.reg]
  obtain ⟨hframe, hflags, hfp, hregs⟩ := frame_completed ht ((Core.RegsDiffer.raiseFlags f hs).setReg d v) hreg
  refine ⟨hframe, ?_, ?_, hregs⟩
  · rw [hflags, Core.setReg_flags, raiseFlags_flags]
  · rw [hfp, Core.setReg_fpFlags, raiseFlags_keeps f hs]

/-- The frame of a fop compare. -/
theorem frame_fopTruth {s t : State} {d fd : Nat} {v : Bool} {w : Word} {f : BitVec 7} (hs : s.me.spec = none)
    (ht : t = s.completed (((s.me.raiseFlags f).setReg d w).setFlag fd v)) :
    OnlyRegisters s t ∧ t.me.fpFlags &&& s.me.fpFlags = s.me.fpFlags ∧ (∀ n < 8, n ≠ fd → t.me.flag n = s.me.flag n)
      ∧ ∀ n < 24, n ≠ d → t.me.reg n = s.me.reg n := by
  have hreg : ∀ n, n ≠ d → (((s.me.raiseFlags f).setReg d w).setFlag fd v).reg n = s.me.reg n := fun n hn => by
    rw [Core.reg, Core.setFlag_regs, ← Core.reg, Core.reg_setReg_ne _ w hn, Core.reg, raiseFlags_regs, ← Core.reg]
  obtain ⟨hframe, hflags, hfp, hregs⟩ :=
    frame_completed ht (((Core.RegsDiffer.raiseFlags f hs).setReg d w).setFlag fd v) hreg
  refine ⟨hframe, ?_, fun n hn hne => ?_, hregs⟩
  · rw [hfp, Core.setFlag_fpFlags, Core.setReg_fpFlags, raiseFlags_keeps f hs]
  · rw [Core.flag, hflags, ← Core.flag, Core.flag_setFlag_ne _ v hn hne, Core.flag, Core.setReg_flags, raiseFlags_flags,
      ← Core.flag]

theorem fieldRead_plain {x : FormS3} (h : x.b.toNat < 24) (c : Core) : ∃ ofs wid, fieldRead c x = some (ofs, wid, c) := by
  unfold fieldRead
  split
  · exact ⟨_, _, rfl⟩
  · rw [scalarRead_reg h]
    exact ⟨_, _, rfl⟩

end Sys2Proof.Machine

namespace Sys2Proof.Proofs
open Sys2Proof.Machine Sys2Proof.Claims

/-- The frame of clz, ctz, popc, bext, bins and sel; bins may leave its destination as it is. -/
theorem frame_oneResult {i : FormS3 → Instr} (hi : i ∈ [Instr.clz, .ctz, .popc, .bext, .bins, .sel]) {x : FormS3} {s t : State}
    (h : Issues (i x) s) (hx : plainS3 x) (ht : exec (i x) s = .next t) :
    OnlyRegisters s t ∧ t.me.flags = s.me.flags ∧ t.me.fpFlags = s.me.fpFlags
      ∧ ∀ n < 24, n ≠ x.d.toNat → t.me.reg n = s.me.reg n := by
  obtain ⟨hd, ha, hb, -⟩ := hx
  have hread := scalarRead_reg ha s.me
  have hone : ∀ j ∈ oneOperand.map (·.1), Issues (j x) s → exec (j x) s = .next t →
      OnlyRegisters s t ∧ t.me.flags = s.me.flags ∧ t.me.fpFlags = s.me.fpFlags
        ∧ ∀ n < 24, n ≠ x.d.toNat → t.me.reg n = s.me.reg n := fun j hj h ht => by
    obtain ⟨p, hp, rfl⟩ := List.mem_map.1 hj
    obtain ⟨f, -, hexec⟩ := exec_oneOperand p hp
    exact frame_setReg (eq_of_exec_next ht ((congrFun (hexec x) s).trans (unary_ok h hread (scalarWrite_reg hd _ _))))
  obtain ⟨ofs, wid, hfield⟩ := fieldRead_plain hb s.me
  simp only [List.mem_cons, List.not_mem_nil, or_false] at hi
  rcases hi with rfl | rfl | rfl | rfl | rfl | rfl
  · exact hone .clz (by simp [oneOperand]) h ht
  · exact hone .ctz (by simp [oneOperand]) h ht
  · exact hone .popc (by simp [oneOperand]) h ht
  · exact frame_setReg (eq_of_exec_next ht (bext_ok h hread hfield (scalarWrite_reg hd _ _)))
  · have ht' := eq_of_exec_next ht (bins_ok h hd hread hfield)
    unfold binsWritten at ht'
    split at ht'
    · exact frame_completed ht' (.refl _) fun _ _ => rfl
    · exact frame_setReg ht'
  · exact frame_setReg (eq_of_exec_next ht (sel_ok h hread (scalarRead_reg hb _) (scalarWrite_reg hd _ _)))

/-- The frame of the fops that deliver a number. -/
theorem frame_fopResult {i : FormS3 → Instr} (hi : i ∈ fopOne.map (·.1) ++ fopTwo.map (·.1) ++ [Instr.fopFma]) {x : FormS3}
    {s t : State} (h : Issues (i x) s) (hx : plainS3 x) (ht : exec (i x) s = .next t) :
    OnlyRegisters s t ∧ t.me.flags = s.me.flags ∧ t.me.fpFlags &&& s.me.fpFlags = s.me.fpFlags
      ∧ ∀ n < 24, n ≠ x.d.toNat → t.me.reg n = s.me.reg n := by
  obtain ⟨hd, ha, hb, hc⟩ := hx
  have hwrite : ∀ v f, fopWritten s.me x.d v f = some ((s.me.raiseFlags f).setReg x.d.toNat v) := fun v f =>
    scalarWrite_reg hd _ _
  rcases List.mem_append.1 hi with hi | hi
  · rcases List.mem_append.1 hi with hi | hi
    · obtain ⟨p, hp, rfl⟩ := List.mem_map.1 hi
      exact frame_fop h.2.2.1 (eq_of_exec_next ht
        ((congrFun (exec_fopOne p hp x) s).trans (fopOne_ok h (scalarRead_reg ha _) (hwrite _ _))))
    · obtain ⟨p, hp, rfl⟩ := List.mem_map.1 hi
      exact frame_fop h.2.2.1 (eq_of_exec_next ht ((congrFun (exec_fopTwo p hp x) s).trans
        (fopTwo_ok h (scalarRead_reg ha _) (scalarRead_reg hb _) rfl (hwrite _ _))))
  · rw [List.mem_singleton] at hi
    subst hi
    exact frame_fop h.2.2.1 (eq_of_exec_next ht
      (fopFma_ok h (scalarRead_reg ha _) (scalarRead_reg hb _) (scalarRead_reg hc _) rfl (hwrite _ _)))

/-- Settles O29: with general registers in its fields each instruction completes, and the core that it completes with differs from the
one before in its destination, the flag of a compare and the raised FP_FLAGS alone. -/
theorem frameOfRegisterInstructions : Obligations.FrameOfRegisterInstructions := by
  refine ⟨fun p hp x s t h hx ht => ?_, fun i hi x s t h hx ht => frame_oneResult hi h hx ht,
    fun p hp x s t h hd ha ht => ?_, fun x s t h hx ht => ?_, fun x s t h hd ht => ?_, fun x s t h hd ha ht => ?_,
    fun i hi x s t h hx ht => ?_, fun i hi x s t h hx ht => frame_fopResult hi h hx ht⟩
  · obtain ⟨hd, ha, hb, -⟩ := hx
    exact frame_setReg (eq_of_exec_next ht
      (twoOperandIntegerResults p hp x s _ _ _ _ _ h (scalarRead_reg ha _) (scalarRead_reg hb _) (scalarWrite_reg hd _ _)))
  · exact frame_setReg (eq_of_exec_next ht ((congrFun (exec_immediates p hp x) s).trans
      (immediate_ok h (scalarRead_reg ha _) (scalarWrite_reg hd _ _))))
  · obtain ⟨hd, ha, hb, -⟩ := hx
    exact frame_truth (eq_of_exec_next ht (cmp_ok h (scalarRead_reg ha _) (scalarRead_reg hb _) (truthWrite_reg hd _ _ _)))
  · exact frame_setReg (eq_of_exec_next ht (writeOnly_ok h (scalarWrite_reg hd _ _)))
  · exact frame_truth (eq_of_exec_next ht (cmpi_ok h (scalarRead_reg ha _) (truthWrite_reg hd _ _ _)))
  · obtain ⟨hd, ha, hb, -⟩ := hx
    obtain ⟨p, hp, rfl⟩ := List.mem_map.1 hi
    obtain ⟨cc, hexec, hcond⟩ := exec_fopTests p hp
    exact frame_fopTruth h.2.2.1 (eq_of_exec_next ht ((congrFun (hexec x) s).trans
      (fopCompare_ok h (scalarRead_reg ha _) (scalarRead_reg hb _) (hcond _ _) (truthWrite_reg hd _ _ _))))

end Sys2Proof.Proofs
end

section
/-! PROOFS. The scalar loads and stores (05 R187; 04 R125-R138), from where a core has read its operands and performed its release: what
it discards of the words fetched ahead is seen by no access. -/

namespace Sys2Proof.Machine
open Sys2Proof.Claims

/-! ## A core that discarded the words fetched ahead -/

@[simp] theorem ordered_false (c : Core) : ordered c False = c := if_neg id

theorem Near.of_setMe {s t : State} {c : Core} (h : Near s t c) (d : Core) : Near (s.setMe d) t c :=
  ⟨h.1, fun e => by rw [h.2 e]; exact (s.setMe_setMe d e).symm⟩

theorem ordered_eq (c : Core) (b : Prop) [Decidable b] : ∃ w, ordered c b = { c with oldWords := w } := by
  unfold ordered
  split
  · exact ⟨_, rfl⟩
  · exact ⟨_, rfl⟩

/-- Every core is as before, but for the words fetched ahead. -/
theorem Near.core_eq {s s' : State} {b : Prop} [Decidable b] (h : Near s s' (ordered s.me b)) (lid : Nat) :
    ∃ w, s'.core lid = { s.core lid with oldWords := w } := by
  have hcore : s'.core lid = (s.setMe (ordered s.me b)).core lid := by
    rw [← h.2, ← h.1]
    by_cases hl : lid = s'.cur
    · subst hl; rw [State.core_setMe_self]; rfl
    · rw [State.core_setMe_ne _ hl]
  rw [hcore]
  by_cases hl : lid = s.cur
  · subst hl
    rw [State.core_setMe_self]
    exact ordered_eq s.me b
  · exact ⟨_, State.core_setMe_ne _ hl _⟩

theorem ordered_ordered (c : Core) (b d : Prop) [Decidable b] [Decidable d] :
    ordered (ordered c b) d = ordered c (d ∨ b) := by
  unfold ordered
  by_cases hb : b <;> by_cases hd : d <;> simp [hb, hd]

theorem scalarWrite_oldWords {c c' : Core} {r : BitVec 5} {v : Word} (w : Table (List Word)) (h : scalarWrite c r v = some c') :
    scalarWrite { c with oldWords := w } r v = some { c' with oldWords := w } := by
  unfold scalarWrite at h ⊢
  dsimp only at h ⊢
  by_cases hr : r.toNat < 24
  · rw [if_pos hr] at h ⊢
    cases h
    unfold Core.setReg
    by_cases h0 : r.toNat = 0
    · simp only [if_pos h0]
    · simp only [if_neg h0]
  · rw [if_neg hr] at h ⊢
    by_cases hp : c.canPush (r.toNat - 24) 1 = true
    · rw [if_pos hp] at h
      cases h
      exact if_pos hp
    · rw [if_neg hp] at h
      contradiction

/-- A write of a scalar field sees nothing of the words fetched ahead. -/
theorem scalarWrite_ordered {c c' : Core} {r : BitVec 5} {v : Word} (b : Prop) [Decidable b]
    (h : scalarWrite c r v = some c') : scalarWrite (ordered c b) r v = some (ordered c' b) := by
  by_cases hb : b
  · simp only [ordered, if_pos hb]
    exact scalarWrite_oldWords [] h
  · simpa only [ordered, if_neg hb] using h

/-! ## A plain access at a hot line (12 R385, R386) -/

section

variable {s : State} {K : Table Core} (hK : ∀ lid, ∃ w, ({ s with cores := K } : State).core lid = { s.core lid with oldWords := w })
include hK

theorem canIssue_cores (lid : Nat) : ({ s with cores := K } : State).canIssue lid = s.canIssue lid := by
  obtain ⟨w, hw⟩ := hK lid
  simp only [State.canIssue, State.runsTask, hw]
  rfl

theorem engine_cores (cl : Nat) : ({ s with cores := K } : State).engine cl = s.engine cl := by
  have hwants : ∀ lid r, ({ s with cores := K } : State).wants lid r = s.wants lid r := fun lid r => by
    obtain ⟨w, hw⟩ := hK lid
    simp only [State.wants, canIssue_cores hK, hw]
    rfl
  simp only [State.engine, hwants]
  rfl

theorem chooseReq_cores (promo ready : List Nat) :
    chooseReq ({ s with cores := K } : State) promo ready = chooseReq s promo ready := by
  have hkey : ({ s with cores := K } : State).serveKey = s.serveKey := funext fun lid => by
    obtain ⟨w, hw⟩ := hK lid
    simp only [State.serveKey, hw]
    rfl
  simp only [chooseReq, hkey]

/-- The engine serves a core's plain access whatever the cores have fetched ahead. -/
theorem plainAccess_cores (lid home a : Nat) :
    ({ s with cores := K } : State).plainAccess lid home a
      = (s.plainAccess lid home a).map fun t => { t with cores := K } := by
  have hready : ∀ e, readyLines ({ s with cores := K } : State) e = readyLines s e := fun _ => rfl
  simp only [State.plainAccess, engine_cores hK, chooseReq_cores hK, hready]
  split
  · rfl
  · split <;> rfl

theorem loaded_cores {lid a n : Nat} {t : State} (hcur : allForwarded ({ s with cores := K } : State).me.sb lid a n
    = allForwarded s.me.sb lid a n) (h : s.loaded lid a n = some t) :
    ({ s with cores := K } : State).loaded lid a n = some { t with cores := K } := by
  unfold State.loaded at h ⊢
  rw [hcur]
  split at h
  · next hall => cases h; rw [if_pos hall]
  · next hall => rw [if_neg hall, plainAccess_cores hK, h]; rfl

end

/-- A plain access changes engines alone. -/
theorem loaded_keeps {s t : State} {lid a n : Nat} (h : s.loaded lid a n = some t) : t.cores = s.cores ∧ t.cur = s.cur := by
  unfold State.loaded State.plainAccess at h
  dsimp only at h
  repeat' split at h
  all_goals cases h
  all_goals exact ⟨rfl, rfl⟩

/-! ## Loads -/

/-- A load at its home, made by a core that may have discarded the words fetched ahead. -/
theorem homeLoad_near {s s' t : State} {b : Prop} [Decidable b] {lid a n : Nat} {val : Word}
    (hn : Near s s' (ordered s.me b)) (hr : Readable s lid a n) (hl : s.loaded lid a n = some t) :
    ∃ t', (homeLoad lid a n val).run s' = .ok (loadBytes s s.me.sb lid a n) t' ∧ Near t t' (ordered s.me b) := by
  have hsb : s'.me.sb = s.me.sb := by rw [hn.1, (ordered_sameStore s.me b).sb]
  obtain ⟨hpending, hpoison⟩ := hr
  obtain ⟨hcores, hcur⟩ := loaded_keeps hl
  have hpoison' : ((s'.core lid).locPoisoned a n && !allForwarded s'.me.sb lid a n) = false := by
    rw [hn.locPoisoned (ordered_sameStore s.me b), hsb]
    rcases hpoison with h | h <;> simp [h]
  have hload : s'.loaded lid a n = some { t with cores := s'.cores } := by
    have hs := hn.eq_cores
    rw [hs]
    exact loaded_cores (by rw [← hs]; exact hn.core_eq) (by rw [← hs, hsb]) hl
  have hbytes : loadBytes s' s'.me.sb lid a n = loadBytes s s.me.sb lid a n := by
    obtain ⟨w, hw⟩ := hn.core_eq lid
    rw [hsb, Sys2Proof.Proofs.loadBytes_congr (s := s) (by rw [hw])]
  exact ⟨_, hbytes ▸ homeLoad_ok (by rw [hsb]; exact hpending) hpoison' hload, hn.of_cores hcores hcur⟩

/-- An address of the redirected spill area leads to EXT (04 R128). -/
theorem resolveLoc_spill {ea : Int} {s : State} (h0 : 0 ≤ ea) (hr : redirected s.me ea) (hovf : s.me.spillOvf.getLsbD 0 = true)
    (hs : s.me.spec = none) : (resolveLoc ea).run s = .ok (.ext (spillTarget s.me ea)) s := by
  obtain ⟨h1, h2, h3⟩ := hr
  have hr' : s.me.spillBase.toNat < s.me.spillLim.toNat ∧ (s.me.spillLim.toNat * 8 : Int) ≤ ea
      ∧ ea < (s.me.spillLim.toNat * 8 : Int) + 2 ^ 24 := ⟨h1, by push_cast at h2; exact h2, by push_cast at h3; exact h3⟩
  unfold resolveLoc
  rw [op_bind_ok (getMe_run s)]
  simp only [if_neg (show ¬ea < 0 by omega), if_pos hr', hovf, hs]
  rw [spillTarget]
  push_cast
  rfl

theorem extLoad_near {s s1 s' : State} {c : Core} {ea : Int} {pa n : Nat} {bytes : List Byte} {val : Word}
    (hn : Near s s' c) (h : Translates s ea false pa s1) (hr : extRead s1 pa n = some bytes) :
    ∃ s2, (extLoad ea n val).run s' = .ok bytes s2 ∧ Near s1 s2 c := by
  obtain ⟨s2, e2, n2⟩ := extXlate_near (val := val) hn h
  have hr' : extRead s2 pa n = some bytes := by rw [n2.eq_cores]; exact hr
  refine ⟨s2, ?_, n2⟩
  unfold extLoad
  rw [op_bind_ok e2, op_bind_ok (op_get s2), hr']
  rfl

/-- A load at a LOC address: from LOC in its order, or from EXT for the redirected spill area. -/
theorem ldlAt_near {s s' t : State} {b : Prop} [Decidable b] {ea : Int} {n : Nat} {bytes : List Byte}
    (hn : Near s s' (ordered s.me b)) (hs : s.me.spec = none) (h : LdlAt s s.me ea n bytes t) :
    ∃ t', (ldlAt ea n).run s' = .ok bytes t' ∧ Near t t' (ordered s.me b) := by
  obtain ⟨w, hw⟩ := ordered_eq s.me b
  have hme : s'.me = { s.me with oldWords := w } := hn.1.trans hw
  rcases h with ⟨⟨h0, h1, halign, hspill, hbank⟩, hread, rfl, s0, hl, rfl⟩ | ⟨h0, halign, hredir, hovf, pa, s1, ht, hr, rfl⟩
  · obtain ⟨t', e, nt⟩ := homeLoad_near (val := trunc 64 ea) hn hread hl
    have hres : (resolveLoc ea).run s' = .ok (.loc ea.toNat) s' :=
      resolveLoc_loc h0 h1 (by rw [hme]; simpa [redirected] using hspill)
    refine ⟨t', ldlAt_loc halign hres ?_, nt.of_setMe _⟩
    unfold locLoad
    rw [op_bind_ok (bankGate_open (by rw [hme]; exact hbank)), op_bind_ok (op_get s'), hme, hn.cur]
    simp only [hs]
    exact e
  · obtain ⟨t', e, nt⟩ := extLoad_near (val := trunc 64 ea) hn ht hr
    have hres : (resolveLoc ea).run s' = .ok (.ext (spillTarget s.me ea)) s' := by
      have hres' := resolveLoc_spill (s := s') h0 (by rw [hme]; exact hredir) (by rw [hme]; exact hovf) (by rw [hme]; exact hs)
      rw [hres', hme]
      rfl
    refine ⟨t', ?_, nt.of_setMe _⟩
    unfold ldlAt
    rw [op_bind_ok (checkAlign_ok halign s'), op_bind_ok hres]
    exact e

theorem loadValue_eq_loaded (x : FormM) (bytes : List Byte) : loadValue x bytes = loaded x bytes := by
  unfold loadValue loaded sizeOf signed trunc
  dsimp only
  split
  · refine congrArg (BitVec.ofInt 64) ?_
    push_cast
    by_cases h : natOfBytes bytes % 2 ^ (8 * 2 ^ x.sz.toNat) < 2 ^ (8 * 2 ^ x.sz.toNat - 1)
    · rw [if_pos h, if_neg (Nat.not_le.2 h)]
    · rw [if_neg h, if_pos (Nat.not_lt.1 h)]
  · rfl

/-- A scalar load: its release performed, the access made, sD written, its acquire, its base post-updated. -/
theorem loadOp_ok {i : Instr} {x : FormM} {get : Int → Nat → Op (List Byte)} {s t : State} {bytes : List Byte} {c1 : Core}
    (h : Issues i s) (ha : effective s.me x % 2 ^ x.sz.toNat = 0) (hrel : ReleaseReady s x)
    (hd : scalarWrite s.me x.d (loaded x bytes) = some c1)
    (hget : ∀ s', Near s s' (ordered s.me (x.rl = 1)) →
      ∃ t', (get (effective s.me x) (2 ^ x.sz.toNat)).run s' = .ok bytes t' ∧ Near t t' (ordered s.me (x.rl = 1))) :
    loadOp i x get s = .next (t.completed (postBase (ordered c1 (x.aq = 1 ∨ x.rl = 1)) x)) := by
  obtain ⟨s1, n1, e1⟩ := releaseAt_near (Near.refl s) (.refl _) hrel
  obtain ⟨t1, e2, n2⟩ := hget s1 n1
  obtain ⟨t2, e3, n3⟩ := writeS_near n2 (scalarWrite_ordered (x.rl = 1) hd)
  obtain ⟨t3, n4, e4⟩ := discarded_near n3 x.aq
  rw [ordered_ordered] at n4
  obtain ⟨t4, e5, n5⟩ := postUpdate_near x n4
  have halign : effective s.me x % (sizeOf x.sz : Nat) = 0 := by simpa [sizeOf] using ha
  have hspec : (ordered c1 (x.aq = 1 ∨ x.rl = 1)).spec = none :=
    (ordered_sameStore c1 _).spec.trans (scalarWrite_spec hd h.2.2.1)
  rw [← loadValue_eq_loaded] at e3
  unfold loadOp
  refine issueSeq_done h ?_ n5 ((postBase_spec _ x).trans hspec)
  dsimp only
  rw [op_bind_ok (addressOf_run x s), op_bind_ok (checkAlign_ok halign s)]
  exact (e1 _).trans ((op_bind_ok e2).trans ((op_bind_ok e3).trans ((e4 _).trans e5)))

/-! ## Stores -/

/-- A store at a LOC address: into the store buffer, or to EXT for the redirected spill area. -/
theorem stlAt_near {s s' t : State} {c : Core} {b : Prop} [Decidable b] {ea : Int} {bytes : List Byte}
    (hn : Near s s' (ordered c b)) (hs : c.spec = none) (h : StlAt s c ea bytes t) :
    ∃ t', (stlAt ea bytes).run s' = .ok () t' ∧ Near t t' (ordered t.me b) ∧ t.me.spec = none := by
  obtain ⟨w, hw⟩ := ordered_eq c b
  have hme : s'.me = { c with oldWords := w } := hn.1.trans hw
  rcases h with ⟨⟨h0, h1, halign, hspill, hbank⟩, hroom, rfl⟩ | ⟨h0, halign, hredir, hovf, pa, s1, s2, ht, hwr, rfl⟩
  · have hres : (resolveLoc ea).run s' = .ok (.loc ea.toNat) s' :=
      resolveLoc_loc h0 h1 (by rw [hme]; simpa [redirected] using hspill)
    have hstore : (locStore ea.toNat bytes).run s'
        = .ok () (s'.setMe (ordered { c with sb := c.sb ++ [.store s.cur ea.toNat bytes] } b)) := by
      rw [locStore_ok (by rw [hme]; exact hbank) (by rw [hme]; exact hs) (by rw [hme]; exact hroom), hn.1, hn.cur]
      unfold ordered
      split <;> rfl
    refine ⟨_, stlAt_loc halign hres hstore, ?_, by rw [State.me_setMe]; exact hs⟩
    rw [State.me_setMe]
    exact (hn.setMe _).of_setMe _
  · obtain ⟨t', e, nt⟩ := extStore_near (val := trunc 64 ea) hn ht hwr
    have hres : (resolveLoc ea).run s' = .ok (.ext (spillTarget c ea)) s' := by
      have hres' := resolveLoc_spill (s := s') h0 (by rw [hme]; exact hredir) (by rw [hme]; exact hovf) (by rw [hme]; exact hs)
      rw [hres', hme]
      rfl
    refine ⟨t', ?_, ?_, by rw [State.me_setMe]; exact hs⟩
    · unfold stlAt
      rw [op_bind_ok (checkAlign_ok halign s'), op_bind_ok hres]
      exact e
    · rw [State.me_setMe]
      exact nt.of_setMe _

theorem align_of_stlAt {s t : State} {c : Core} {ea : Int} {bytes : List Byte} (h : StlAt s c ea bytes t) :
    ea % bytes.length = 0 := by
  rcases h with ⟨⟨_, _, halign, _⟩, _⟩ | ⟨_, halign, _⟩
  · exact halign
  · exact halign

theorem align_of_ldlAt {s t : State} {c : Core} {ea : Int} {n : Nat} {bytes : List Byte} (h : LdlAt s c ea n bytes t) :
    ea % n = 0 := by
  rcases h with ⟨⟨_, _, halign, _⟩, _⟩ | ⟨_, halign, _⟩
  · exact halign
  · exact halign

end Sys2Proof.Machine

namespace Sys2Proof.Proofs
open Sys2Proof.Machine Sys2Proof.Claims

/-- Settles O4: the three loads differ in their access alone, and each access delivers the bytes of its space. -/
theorem loadsDeliverMemory : Obligations.LoadsDeliverMemory := by
  refine ⟨fun x s s1 bytes c1 h hat hrel hd => ?_, fun x s s1 lid a c1 h hclu hread hl hrel hd => ?_,
    fun x s s1 pa bytes c1 h ha ht hrel hr hd => ?_⟩
  · exact loadOp_ok h (by simpa using align_of_ldlAt hat) hrel hd fun s' hn => ldlAt_near hn h.2.2.1 hat
  · obtain ⟨h0, h1, halign, ci, hsplit, hmate⟩ := hclu
    refine loadOp_ok h (by simpa using halign) hrel hd fun s' hn => ?_
    obtain ⟨t', e, nt⟩ := homeLoad_near (val := BitVec.ofNat 64 a) hn hread hl
    exact ⟨t', (op_bind_ok (resolveClu_near hn h0 h1 hsplit hmate)).trans e, nt⟩
  · exact loadOp_ok (get := fun ea n => extLoad ea n (trunc 64 ea)) h ha hrel hd fun s' hn => extLoad_near hn ht hr

/-- Settles O5: the three stores differ in their access alone: the store buffer takes the bytes of stl and stc, EXT those of stx and
of a redirected stl. -/
theorem storesReachTheirSpace : Obligations.StoresReachTheirSpace := by
  refine ⟨fun x s s1 v c1 h hv hat hrel => ?_, fun x s v lid a c1 h hv hclu hrel hroom => ?_,
    fun x s s1 s2 v pa c1 h hv ha ht hrel hw => stx_ok h hv ha ht hrel hw⟩
  · have hspec := scalarRead_spec hv h.2.2.1
    have halign := align_of_stlAt hat
    rw [length_bytesOfNat] at halign
    obtain ⟨_, _, _, hs1⟩ := stlAt_near ((Near.set s (ordered c1 False))) hspec hat
    exact storeOp_ok h hv (by simpa using halign) hrel ((ordered_sameStore _ _).spec.trans hs1) fun s' hn => by
      obtain ⟨t', e, nt, _⟩ := stlAt_near hn hspec hat
      exact ⟨t', e, nt⟩
  · rw [stc_ok h hv hclu hrel hroom, Core.buffered, (ordered_sameStore c1 _).sb]

end Sys2Proof.Proofs
end

section
/-! PROOFS. The control registers (05 R156-R160, R189): what reads back, and the accesses of csrr and csrw, with the traps of the scalar
port that a handler takes (05 R176). -/

namespace Sys2Proof.Machine
open Sys2Proof.Claims

/-! ## Traps that a handler takes -/

/-- c' is c but for what the read of an operand takes: its queues, the marks of its halves, the flags of what was consumed, and the
words fetched ahead. -/
def Core.ReadFrom (c c' : Core) : Prop := ∃ router half fpFlags oldWords, c' = { c with router, half, fpFlags, oldWords }

theorem Core.ReadFrom.refl (c : Core) : c.ReadFrom c := ⟨_, _, _, _, rfl⟩

theorem Core.ReadFrom.pc {c c' : Core} (h : c.ReadFrom c') : c'.pc = c.pc := by obtain ⟨_, _, _, _, rfl⟩ := h; rfl
theorem Core.ReadFrom.spec {c c' : Core} (h : c.ReadFrom c') : c'.spec = c.spec := by obtain ⟨_, _, _, _, rfl⟩ := h; rfl
theorem Core.ReadFrom.handler {c c' : Core} (h : c.ReadFrom c') (hh : HandlesTraps c) : HandlesTraps c' := by
  obtain ⟨_, _, _, _, rfl⟩ := h; exact hh

theorem scalarRead_readFrom {c c' : Core} {r : BitVec 5} {v : Word} (h : scalarRead c r = some (v, c')) (hs : c.spec = none) :
    c.ReadFrom c' := by
  have hpopped : ∀ n f rest, c.ReadFrom (c.popped n f rest) := fun n f rest => by
    unfold Core.popped Core.consume
    dsimp only
    rw [raiseFlags_noSpec (c := { c.setQueue n rest with half := putBits c.half n 1 0 }) _ hs]
    split <;> split <;> exact ⟨_, _, _, _, rfl⟩
  unfold scalarRead at h
  dsimp only at h
  repeat' split at h
  all_goals cases h
  · exact ⟨_, _, _, _, rfl⟩
  · exact hpopped _ _ _
  · exact hpopped _ _ _
  · exact ⟨_, _, _, _, rfl⟩

/-- Where the trapping word stands at the PC, the handler is entered with its cause and its SUB. -/
theorem enterTrap_eq_trapped_sub (c : Core) (t : TrapInfo) : c.enterTrap t c.pc false = trapped c t.code t.val t.sub.toNat c.pc := by
  have hsuspend : c.suspend c.pc = none := by simp [Core.suspend]
  cases hr : c.rpt <;> simp [Core.enterTrap, trapped, hsuspend, hr, bit, Rpt.state, rptRecord]

/-- A trap of the scalar port's word, raised once operands were read, is taken by the handler. -/
theorem issue_handled {i : Instr} {s s' : State} {c : Core} {body : Op Next} {t : TrapInfo} (h : Issues i s) (hr : s.inRpt = false)
    (hm : s.midBody = false) (hh : HandlesTraps s.me) (hb : body.run s = .error (.trap t) s') (hn : Near s s' c)
    (hc : s.me.ReadFrom c)
    (he : (t.code == causeConfigUe || t.code == causeSoftError) = false) :
    issue i body s = .next (s.setMe (trapped c t.code t.val t.sub.toNat s.me.pc)) := by
  obtain ⟨hvec, hin⟩ := hc.handler hh
  have hfatal : trapFatal (s'.core s'.cur) t.code = false := by
    rw [show s'.core s'.cur = c from hn.1]
    simp [trapFatal, he, hvec, hin]
  have hleave : s'.leaveScalar s'.cur s'.me.pc = s' := leaveScalar_pc s' s'.cur
  rw [issue_trap h hm hb (by rw [hn.1, hc.spec]; exact h.2.2.1), hn.inRpt, hr]
  rw [show s'.me.execPc false = s'.me.pc from rfl, takeTrap_handler hfatal, hleave, show s'.core s'.cur = s'.me from rfl,
    enterTrap_eq_trapped_sub, hn.1, hc.pc]
  exact congrArg _ (hn.2 _)

/-- So is one of an instruction of the seq form. -/
theorem issueSeq_handled {i : Instr} {s s' : State} {c : Core} {body : Op Unit} {t : TrapInfo} (h : Issues i s) (hr : s.inRpt = false)
    (hm : s.midBody = false) (hh : HandlesTraps s.me) (hb : body.run s = .error (.trap t) s') (hn : Near s s' c)
    (hc : s.me.ReadFrom c)
    (he : (t.code == causeConfigUe || t.code == causeSoftError) = false) :
    issueSeq i body s = .next (s.setMe (trapped c t.code t.val t.sub.toNat s.me.pc)) := by
  unfold issueSeq
  exact issue_handled h hr hm hh (by rw [op_bind, hb]) hn hc he

/-! ## Values -/

/-- The value of a control register is one of the executing core, of CYCLE, of the trees' marks and of the module's rank. -/
theorem csrValue_congr {s t : State} (hme : t.me = s.me) (hcur : t.cur = s.cur) (hcycle : t.cycle = s.cycle) (hmg : t.mg = s.mg)
    (htree : t.treeStat t.cur = s.treeStat s.cur) (addr : Nat) : csrValue t addr = csrValue s addr := by
  unfold csrValue
  simp only [hme, hcur, hcycle, hmg, hcur ▸ htree]

theorem treeStat_congr {s t : State} {lid : Nat} (ht : t = { s with cores := t.cores }) (hc : t.core lid = s.core lid) :
    t.treeStat lid = s.treeStat lid := by
  have hleft : ∀ n, t.leftOn lid n = s.leftOn lid n := fun n => by rw [ht]; rfl
  simp only [State.treeStat, hc, hleft]

/-- It is the same in a state that differs in the executing core at most. -/
theorem csrValue_near {s s' : State} {c : Core} (h : Near s s' c) (addr : Nat) : csrValue s' addr = csrValue (s.setMe c) addr := by
  have hs : s' = { s.setMe c with cores := s'.cores } := h.eq_cores
  have hme : s'.me = (s.setMe c).me := h.1.trans (s.me_setMe c).symm
  have hcore : s'.core s'.cur = (s.setMe c).core s'.cur := by rw [h.cur]; exact (congrArg _ h.cur).symm.trans hme
  refine csrValue_congr hme h.cur h.cycle (by rw [hs]) ?_ addr
  rw [treeStat_congr hs hcore, h.cur]
  rfl

/-! ## What a csrw may leave in a register -/

section

variable {v old m : Word} (hkeep : (v ^^^ old) &&& ~~~m = 0)
include hkeep

theorem getLsbD_kept {n : Nat} (hm : m.getLsbD n = false) : v.getLsbD n = old.getLsbD n := by
  by_cases hn : n < 64
  · have h := congrArg (fun w : Word => w.getLsbD n) hkeep
    simp only [BitVec.getLsbD_and, BitVec.getLsbD_xor, BitVec.getLsbD_not, hm, hn, decide_true, Bool.not_false,
      Bool.and_true] at h
    exact bne_eq_false_iff_eq.1 (h.trans BitVec.getLsbD_zero)
  · rw [BitVec.getLsbD_of_ge _ _ (by omega), BitVec.getLsbD_of_ge _ _ (by omega)]

/-- A register of k bits, none beyond it writable, reads as the word written. -/
theorem setWidth_kept {k : Nat} (x : BitVec k) (hold : old = x.setWidth 64) (hm : m.toNat < 2 ^ k) :
    (v.setWidth k).setWidth 64 = v := by
  refine BitVec.eq_of_getLsbD_eq fun i hi => ?_
  by_cases hk : i < k
  · simp [hi, hk]
  · have hmi : m.getLsbD i = false := Nat.testBit_lt_two_pow (hm.trans_le (Nat.pow_le_pow_right (by omega) (by omega)))
    rw [getLsbD_kept hkeep hmi, hold]
    simp [hk, BitVec.getLsbD_of_ge x i (by omega)]

/-- So does one of k bits that stands three bits up. -/
theorem shifted_kept {k : Nat} (x : BitVec k) (hold : old = x.setWidth 64 <<< 3) (hm : m.toNat < 2 ^ (k + 3))
    (hlow : ∀ n < 3, m.getLsbD n = false) : ((v >>> 3).setWidth k).setWidth 64 <<< 3 = v := by
  refine BitVec.eq_of_getLsbD_eq fun i hi => ?_
  by_cases h3 : i < 3
  · rw [getLsbD_kept hkeep (hlow i h3), hold]
    simp [h3]
  · by_cases hk : i < k + 3
    · have h1 : i - 3 < k := by omega
      have h2 : 3 + (i - 3) = i := by omega
      simp [hi, h3, h1, h2, show i - 3 < 64 by omega]
    · have hmi : m.getLsbD i = false := Nat.testBit_lt_two_pow (hm.trans_le (Nat.pow_le_pow_right (by omega) (by omega)))
      rw [getLsbD_kept hkeep hmi, hold]
      simp [show ¬i - 3 < k by omega, BitVec.getLsbD_of_ge x (i - 3) (by omega)]

/-- FLAGS, whose bit 0 is always one. -/
theorem flags_kept (f : BitVec 8) (hold : old = (f ||| 1).setWidth 64) (hm : m.toNat < 2 ^ 8) (h0 : m.getLsbD 0 = false) :
    (v.setWidth 8 ||| 1 ||| 1).setWidth 64 = v := by
  have hone : v.getLsbD 0 = true := by
    rw [getLsbD_kept hkeep h0, hold]
    simp
  have hor : ∀ w : BitVec 8, w.getLsbD 0 = true → w ||| 1 ||| 1 = w := by decide
  rw [hor _ (by simpa using hone), setWidth_kept hkeep _ hold hm]

/-- PRV, PPRV and INTRAP, of which PRV is not writable. -/
theorem privilege_kept (p q r : Bool) (hold : old = .ofNat 64 (bit p + 2 * bit q + 4 * bit r)) (hm : m.toNat < 2 ^ 3)
    (h0 : m.getLsbD 0 = false) : BitVec.ofNat 64 (bit p + 2 * bit (v.getLsbD 1) + 4 * bit (v.getLsbD 2)) = v := by
  have hthree : ∀ p q r : Bool, BitVec.ofNat 64 (bit p + 2 * bit q + 4 * bit r)
      = (BitVec.ofNat 3 (bit p + 2 * bit q + 4 * bit r)).setWidth 64 := by decide
  have hbit : ∀ p q r : Bool, (BitVec.ofNat 64 (bit p + 2 * bit q + 4 * bit r)).getLsbD 0 = p := by decide
  have hbits : ∀ w : BitVec 3, BitVec.ofNat 64 (bit (w.getLsbD 0) + 2 * bit (w.getLsbD 1) + 4 * bit (w.getLsbD 2)) = w.setWidth 64 := by
    decide
  have hv := setWidth_kept hkeep _ (hold.trans (hthree p q r)) hm
  have hp : v.getLsbD 0 = p := by rw [getLsbD_kept hkeep h0, hold, hbit]
  rw [← hp]
  simpa [hv] using hbits (v.setWidth 3)

end

/-! ## Addresses without a fixed name -/

theorem csrValue_trigger (s : State) {addr : Nat} (h : 0x100 ≤ addr ∧ addr ≤ 0x11F) :
    csrValue s addr = Table.get 0 s.me.trig (addr - 0x100) := by
  unfold csrValue
  split
  case h_42 => rw [if_neg (by omega), if_pos h]
  all_goals omega

end Sys2Proof.Machine

namespace Sys2Proof.Proofs
open Sys2Proof.Machine Sys2Proof.Claims

/-- Settles O7: by the cases of the write; a register keeps what the mask leaves it, and an address that no csrw changes reads as
before. -/
theorem csrReadsWhatWasWritten : Obligations.CsrReadsWhatWasWritten := by
  intro s addr v hs hkeep hok
  generalize hc : s.me.setCsr addr v = c'
  revert hc
  fun_cases Core.setCsr s.me addr v
  all_goals intro hc; subst hc
  case case24 ht => rw [csrValue_trigger _ ht, State.me_setMe, Table.get_set_self]
  case case25 =>
    have hmask : csrMask addr = 0 := by
      unfold csrMask
      split
      case h_24 => rw [if_neg ‹_›]
      all_goals contradiction
    rw [← csrValue_near (Near.refl s)]
    refine BitVec.eq_of_getLsbD_eq fun i _ => (getLsbD_kept hkeep ?_).symm
    rw [hmask]
    exact BitVec.getLsbD_zero
  all_goals simp only [csrValue, State.me_setMe]
  case case1 => exact setWidth_kept hkeep s.me.mode rfl (by decide)
  case case2 => 
    rw [Core.fpFlagsRead, hs]
    exact setWidth_kept hkeep s.me.fpFlagsRead rfl (by decide)
  case case3 => exact flags_kept hkeep s.me.flags rfl (by decide) rfl
  case case4 => exact setWidth_kept hkeep s.me.waitLimit rfl (by decide)
  case case6 => exact shifted_kept hkeep s.me.spillBase rfl (by decide) (by decide)
  case case7 => exact shifted_kept hkeep s.me.spillLim rfl (by decide) (by decide)
  case case9 => exact shifted_kept hkeep s.me.rasSp rfl (by decide) (by decide)
  case case10 => exact shifted_kept hkeep s.me.rasFloor rfl (by decide) (by decide)
  case case11 => exact privilege_kept hkeep _ _ _ rfl (by decide) rfl
  case case13 => exact setWidth_kept hkeep s.me.trapPc rfl (by decide)
  case case15 => exact setWidth_kept hkeep s.me.trapVec rfl (by decide)
  case case22 => exact setWidth_kept hkeep s.me.lattice.lbnd rfl (by decide)
  case case23 => exact setWidth_kept hkeep s.me.bankWait rfl (by decide)

/-! ## The accesses -/

theorem setCsr_spec (c : Core) (addr : Nat) (v : Word) : (c.setCsr addr v).spec = c.spec := by
  unfold Core.setCsr
  split
  case h_24 => split <;> rfl
  all_goals rfl

theorem setCsr_canPush (c : Core) (addr : Nat) (v : Word) (n k : Nat) : (c.setCsr addr v).canPush n k = c.canPush n k := by
  unfold Core.setCsr
  split
  case h_24 => split <;> rfl
  all_goals rfl

theorem csrReadOp_ok {i : Instr} {x : FormS3} {s : State} {c1 : Core} (h : Issues i s) (hp : csrSo x.aux.toNat = true → s.me.prv = true)
    (hd : scalarWrite s.me x.d (csrValue s x.aux.toNat) = some c1) : csrReadOp i x s = .next (s.completed c1) := by
  obtain ⟨s1, e1, n1⟩ := writeS_near (Near.refl s) hd
  have hfree : (csrSo x.aux.toNat && !s.me.prv) = false := by
    cases hso : csrSo x.aux.toNat
    · rfl
    · simp [hp hso]
  unfold csrReadOp
  refine issueSeq_done h ?_ n1 (scalarWrite_spec hd h.2.2.1)
  rw [op_bind_ok (op_get s)]
  simp only [hfree, Bool.false_eq_true, if_false]
  exact e1

/-- The two checks of a csrw, and its effects behind them. -/
theorem csrWriteOp_ok {i : Instr} {x : FormS3} {f : Word → Word → Word} {s : State} {a old new : Word} {c1 c2 : Core}
    (h : Issues i s) (hp : csrSv s.me x.aux.toNat = true → s.me.prv = true) (ha : scalarRead s.me x.a = some (a, c1))
    (hold : old = csrValue (s.setMe c1) x.aux.toNat)
    (hnew : new = if x.aux.toNat = 0x12 then f old a ||| 1 else f old a) (hmask : (new ^^^ old) &&& ~~~csrMask x.aux.toNat = 0)
    (hok : csrValueOk x.aux.toNat new = true) (hd : scalarWrite (c1.setCsr x.aux.toNat new) x.d old = some c2) :
    csrWriteOp i x f s = .next (s.completed c2) := by
  obtain ⟨s1, e1, n1⟩ := readS_near (Near.refl s) ha
  have hold1 : csrValue s1 x.aux.toNat = old := (csrValue_near n1 _).trans hold.symm
  obtain ⟨s2, e2, n2⟩ := writeS_near (n1.setMe (c1.setCsr x.aux.toNat new)) hd
  have hready : (destReady x.d 1).run s1 = .ok () s1 := destReady_ok fun hr => by
    rw [n1.1, ← setCsr_canPush c1 x.aux.toNat new]
    exact canPush_of_scalarWrite hd hr
  have hfree : (csrSv s.me x.aux.toNat && !s.me.prv) = false := by
    cases hsv : csrSv s.me x.aux.toNat
    · rfl
    · simp [hp hsv]
  unfold csrWriteOp
  refine issueSeq_done h ?_ n2 (scalarWrite_spec hd (by rw [setCsr_spec]; exact scalarRead_spec ha h.2.2.1))
  dsimp only
  rw [op_bind_ok (getMe_run s)]
  simp only [hfree, Bool.false_eq_true, if_false]
  refine (op_bind_ok e1).trans ((op_bind_ok (op_get s1)).trans ?_)
  simp only [hold1, ← hnew, hmask, hok, bne_self_eq_false, Bool.not_true, Bool.or_self, Bool.false_eq_true, if_false]
  refine (op_bind_ok hready).trans ((op_bind_ok (modMe_run _ s1)).trans ?_)
  rw [n1.1]
  exact e2

/-- A csrw without its privilege traps before it reads its operand. -/
theorem csrWriteOp_privilege {i : Instr} {x : FormS3} {f : Word → Word → Word} {s : State} (h : Issues i s) (hr : s.inRpt = false)
    (hm : s.midBody = false) (hh : HandlesTraps s.me) (hsv : csrSv s.me x.aux.toNat = true) (hprv : s.me.prv = false) :
    csrWriteOp i x f s = .next (s.setMe (trapped s.me causePrivilege (wordOf i) 0 s.me.pc)) := by
  have hb : ∀ k : Unit → Op Unit, (do
      let c ← getMe
      if csrSv c x.aux.toNat && !c.prv then trapWith causePrivilege (wordOf i)
      k () : Op Unit).run s = .error (.trap { code := causePrivilege, val := wordOf i, sub := 0 }) s := fun k => by
    rw [op_bind_ok (getMe_run s)]
    simp only [hsv, hprv, Bool.not_false, Bool.and_self, if_true]
    rfl
  exact issueSeq_handled h hr hm hh (hb fun _ => _) (Near.refl s) (.refl _) rfl

/-- One that changes a bit it may not traps with its operand read. -/
theorem csrWriteOp_reserved {i : Instr} {x : FormS3} {f : Word → Word → Word} {s : State} {a old new : Word} {c1 : Core}
    (h : Issues i s) (hr : s.inRpt = false) (hm : s.midBody = false) (hh : HandlesTraps s.me)
    (hp : csrSv s.me x.aux.toNat = true → s.me.prv = true) (ha : scalarRead s.me x.a = some (a, c1))
    (hold : old = csrValue (s.setMe c1) x.aux.toNat)
    (hnew : new = if x.aux.toNat = 0x12 then f old a ||| 1 else f old a) (hmask : (new ^^^ old) &&& ~~~csrMask x.aux.toNat ≠ 0) :
    csrWriteOp i x f s = .next (s.setMe (trapped c1 causeReserved (wordOf i) 0 s.me.pc)) := by
  obtain ⟨s1, e1, n1⟩ := readS_near (Near.refl s) ha
  have hold1 : csrValue s1 x.aux.toNat = old := (csrValue_near n1 _).trans hold.symm
  have hfree : (csrSv s.me x.aux.toNat && !s.me.prv) = false := by
    cases hsv : csrSv s.me x.aux.toNat
    · rfl
    · simp [hp hsv]
  unfold csrWriteOp
  refine issueSeq_handled (t := { code := causeReserved, val := wordOf i, sub := 0 }) h hr hm hh ?_ n1
    (scalarRead_readFrom ha h.2.2.1) rfl
  dsimp only
  rw [op_bind_ok (getMe_run s)]
  simp only [hfree, Bool.false_eq_true, if_false]
  refine (op_bind_ok e1).trans ((op_bind_ok (op_get s1)).trans ?_)
  simp only [hold1, ← hnew, bne_iff_ne.2 hmask, Bool.true_or, if_true]
  rfl

/-- csrr, with csrr of FP_FLAGS and of PREDS. -/
theorem exec_csrReads {x : FormS3} {i : Instr} (hi : i ∈ csrReads x) (s : State) : exec i s = csrReadOp i x s := by
  simp only [csrReads, List.mem_cons, List.not_mem_nil, or_false] at hi
  rcases hi with rfl | rfl | rfl <;> rfl

/-- The rows that are a csrw apply the form of their suffix. -/
theorem exec_csrWrites {x : FormS3} {p : Instr × Nat} (hp : p ∈ csrWrites x) (s : State) :
    exec p.1 s = csrWriteOp p.1 x (csrForm p.2) s := by
  simp only [csrWrites, List.mem_cons, List.not_mem_nil, or_false] at hp
  rcases hp with rfl | rfl | rfl | rfl | rfl | rfl | rfl | rfl <;> rfl

theorem csrWriteRefusals : CsrWriteRefusals :=
  ⟨fun _ s _ hp h hr hm hh hsv hprv => (exec_csrWrites hp s).trans (csrWriteOp_privilege h hr hm hh hsv hprv),
    fun _ s _ _ _ _ _ hp h hr hm hh hpriv ha hold hnew hmask =>
      (exec_csrWrites hp s).trans (csrWriteOp_reserved h hr hm hh hpriv ha hold hnew hmask)⟩

/-- Settles O42: every csrr is the one read, every csrw the one write with the form of its suffix. -/
theorem csrAccesses : Obligations.CsrAccesses :=
  ⟨fun _ s _ _ hi h hp hd => (exec_csrReads hi s).trans (csrReadOp_ok h hp hd),
    fun _ s _ _ _ _ _ _ hp h hpriv ha hold hnew hmask hok hd =>
      (exec_csrWrites hp s).trans (csrWriteOp_ok h hpriv ha hold hnew hmask hok hd),
    csrWriteRefusals⟩

end Sys2Proof.Proofs
end

section
/-! PROOFS. Control transfer (05 R185) with the return-address store of 05 R174. -/

namespace Sys2Proof.Machine
open Sys2Proof.Claims

/-! ## The return-address store -/

theorem waitBody_ok {s : State} (h : ∀ r, s.me.rpt = some r → r.touches = false) : waitBody.run s = .ok () s := by
  unfold waitBody
  rw [op_bind_ok (getMe_run s)]
  split
  · next r hr => simp only [h r hr, Bool.false_eq_true, if_false]; rfl
  · rfl

/-- Of the core, a store changes the store buffer at most. -/
theorem stlAt_me {s t : State} {c : Core} {ea : Int} {bytes : List Byte} (h : StlAt s c ea bytes t) :
    ∃ sb, t.me = { c with sb } := by
  rcases h with ⟨_, _, rfl⟩ | ⟨_, _, _, _, _, _, _, _, _, rfl⟩
  · exact ⟨_, State.me_setMe _ _⟩
  · exact ⟨c.sb, State.me_setMe _ _⟩

theorem ldlAt_me {s t : State} {c : Core} {ea : Int} {n : Nat} {bytes : List Byte} (h : LdlAt s c ea n bytes t) : t.me = c := by
  rcases h with ⟨_, _, _, _, _, rfl⟩ | ⟨_, _, _, _, _, _, _, _, rfl⟩
  · exact State.me_setMe _ _
  · exact State.me_setMe _ _

theorem translates_inRpt {s s1 : State} {ea : Int} {write : Bool} {pa : Nat} (h : Translates s ea write pa s1) : s1.inRpt = s.inRpt := by
  obtain ⟨_, _, _, _, _, _, _, hx⟩ := h
  obtain ⟨_, b, rfl⟩ := scalarXlate_leaf hx
  rfl

theorem extWrite_inRpt {s s1 : State} {pa : Nat} {bytes : List Byte} (h : extWrite s pa bytes = some s1) : s1.inRpt = s.inRpt := by
  unfold extWrite at h
  split at h
  · cases h; rfl
  · contradiction

theorem loaded_inRpt {s t : State} {lid a n : Nat} (h : s.loaded lid a n = some t) : t.inRpt = s.inRpt := by
  unfold State.loaded State.plainAccess at h
  dsimp only at h
  repeat' split at h
  all_goals cases h
  all_goals rfl

theorem pushes_inRpt {s t : State} {c : Core} {ra : BitVec 16} (h : Pushes s c ra t) : t.inRpt = s.inRpt := by
  rcases h with ⟨_, rfl⟩ | ⟨_, _, s1, hst, rfl⟩
  · rfl
  · rcases hst with ⟨_, _, rfl⟩ | ⟨_, _, _, _, pa, s2, s3, ht, hw, rfl⟩
    · rfl
    · exact (extWrite_inRpt hw).trans (translates_inRpt ht)

theorem pops_inRpt {s t : State} {ra : BitVec 16} (h : Pops s ra t) : t.inRpt = s.inRpt := by
  rcases h with ⟨_, _, rfl⟩ | ⟨_, _, _, b, s1, hld, _, rfl⟩
  · rfl
  · rcases hld with ⟨_, _, _, s0, hl, rfl⟩ | ⟨_, _, _, _, pa, s2, ht, _, rfl⟩
    · exact (loaded_inRpt hl : s0.inRpt = s.inRpt)
    · exact (translates_inRpt ht : s2.inRpt = s.inRpt)

theorem pushReturn_near {s s' t : State} {c : Core} {ra : BitVec 16} (hn : Near s s' c) (hs : c.spec = none) (h : Pushes s c ra t) :
    ∃ t', (pushReturn ra).run s' = .ok () t' ∧ Near t t' t.me ∧ t.me.spec = none := by
  have hme : s'.me = c := hn.1
  rcases h with ⟨hroom, rfl⟩ | ⟨hfull, hbody, s1, hst, rfl⟩
  · refine ⟨s'.setMe { c with ras := ra :: c.ras }, ?_, ?_, by rw [State.me_setMe]; exact hs⟩
    · unfold pushReturn
      rw [op_bind_ok (getMe_run s'), hme, if_pos hroom, modMe_run, hme]
    · rw [State.me_setMe]
      exact (hn.setMe _).of_setMe _
  · obtain ⟨t1, e1, n1, hs1⟩ := stlAt_near (b := False) (by simpa using hn) hs hst
    rw [ordered_false] at n1
    obtain ⟨sb, hsb⟩ := stlAt_me hst
    refine ⟨t1.setMe { s1.me with rasSp := s1.me.rasSp + 1, ras := ra :: s1.me.ras.dropLast }, ?_, ?_, ?_⟩
    · unfold pushReturn
      rw [op_bind_ok (getMe_run s'), hme, if_neg (Nat.not_lt.2 hfull)]
      rw [op_bind_ok (waitBody_ok (by rw [hme]; exact hbody)), op_bind_ok e1, modMe_run, n1.1]
    · rw [State.me_setMe, hsb]
      exact (n1.setMe _).of_setMe _
    · rw [State.me_setMe]
      exact hs1

theorem popReturn_near {s t : State} {ra : BitVec 16} (hs : s.me.spec = none) (h : Pops s ra t) :
    ∃ t', popReturn.run s = .ok ra t' ∧ Near t t' t.me ∧ t.me.spec = none := by
  rcases h with ⟨rest, hras, rfl⟩ | ⟨hras, hfloor, hbody, b, s1, hld, rfl, rfl⟩
  · refine ⟨_, ?_, Near.refl _, by rw [State.me_setMe]; exact hs⟩
    unfold popReturn
    rw [op_bind_ok (getMe_run s)]
    simp only [hras]
    rw [op_bind_ok (modMe_run _ s)]
    rfl
  · obtain ⟨t1, e1, n1⟩ := ldlAt_near (b := False) (by simpa using Near.refl s) hs hld
    rw [ordered_false] at n1
    have hme := ldlAt_me hld
    refine ⟨t1.setMe { s1.me with rasSp := s1.me.rasSp - 1 }, ?_, ?_, by rw [State.me_setMe, hme]; exact hs⟩
    · unfold popReturn
      rw [op_bind_ok (getMe_run s)]
      simp only [hras, hfloor, if_false]
      rw [op_bind_ok (waitBody_ok hbody)]
      refine (op_bind_ok e1).trans ((op_bind_ok (modMe_run _ t1)).trans ?_)
      rw [n1.1, hme]
      rfl
    · rw [State.me_setMe]
      exact (n1.setMe _).of_setMe _

/-! ## The target of a register jump -/

theorem checkTarget_ok {a : Word} (h : TargetOk a) (s : State) : (checkTarget a).run s = .ok (a.setWidth 16) s := by
  obtain ⟨h8, hlim⟩ := h
  unfold checkTarget
  rw [if_neg (by omega), if_neg (by omega)]
  rfl

/-- A target that no code may have traps: ALIGN before LOC_RANGE. -/
theorem checkTarget_traps {a : Word} (h : ¬TargetOk a) (s : State) :
    (checkTarget a).run s
      = .error (.trap { code := if a.toNat % 8 = 0 then causeLocRange else causeAlign, val := a, sub := 0 }) s := by
  unfold checkTarget
  by_cases h8 : a.toNat % 8 = 0
  · have hlim : 65536 ≤ a.toNat := Nat.not_lt.1 fun hlt => h ⟨h8, hlt⟩
    rw [if_neg (by omega), if_pos h8, if_pos hlim]
    rfl
  · rw [if_pos h8, if_neg h8]
    rfl

end Sys2Proof.Machine
namespace Sys2Proof.Proofs
open Sys2Proof.Machine Sys2Proof.Claims

/-- A jump once its target stands. -/
theorem goto_ok {i : Instr} {s t t' : State} {body : Op Next} {pc : BitVec 16} (h : Issues i s)
    (hb : body.run s = .ok (.goto pc) t') (hn : Near t t' t.me) (hrun : t.inRpt = false) (hs : t.me.spec = none) :
    issue i body s = .next (t.setMe (t.me.jumped pc)) := by
  rw [issue_run h, hb]
  simp [finish, hn.1, hn.inRpt, hrun, retire_goto _ _ hs, hn.2]

theorem callr_ok {x : FormS3} {s t : State} {a : Word} {c1 : Core} (h : Issues (.callr x) s) (hr : s.inRpt = false)
    (ha : scalarRead s.me x.a = some (a, c1)) (ht : TargetOk a) (hp : Pushes s c1 (s.me.pc + 8) t) :
    exec (.callr x) s = .next (t.setMe (t.me.jumped (a.setWidth 16))) := by
  obtain ⟨s1, e1, n1⟩ := readS_near (Near.refl s) ha
  have hframe := scalarRead_readFrom ha h.2.2.1
  obtain ⟨t', e2, n2, hs⟩ := pushReturn_near n1 (hframe.spec.trans h.2.2.1) hp
  refine goto_ok (i := .callr x) h ?_ n2 ((pushes_inRpt hp).trans hr) hs
  rw [op_bind_ok e1, op_bind_ok (checkTarget_ok ht s1), op_bind_ok (getMe_run s1), n1.1, hframe.pc, op_bind_ok e2]
  rfl

/-- A register target that no code may have traps, its operand read and nothing pushed. -/
theorem target_traps {i : Instr} {x : FormS3} {s : State} {a : Word} {c1 : Core} {k : BitVec 16 → Op Next} (h : Issues i s)
    (hr : s.inRpt = false) (hm : s.midBody = false) (hh : HandlesTraps s.me) (ha : scalarRead s.me x.a = some (a, c1))
    (ht : ¬TargetOk a) :
    issue i (do let v ← readS x.a; let t ← checkTarget v; k t) s
      = .next (s.setMe (trapped c1 (if a.toNat % 8 = 0 then causeLocRange else causeAlign) a 0 s.me.pc)) := by
  obtain ⟨s1, e1, n1⟩ := readS_near (Near.refl s) ha
  refine issue_handled h hr hm hh ?_ n1 (scalarRead_readFrom ha h.2.2.1) ?_
    (t := { code := if a.toNat % 8 = 0 then causeLocRange else causeAlign, val := a, sub := 0 })
  · rw [op_bind_ok e1, op_bind, checkTarget_traps ht]
  · dsimp only
    split <;> rfl

/-- A core at a PC that its code does not reach takes LOC_RANGE at its fetch. -/
theorem stepCore_beyondCode {s : State} {lid : Nat} (hi : s.canIssue lid = true) (he : s.anyExpired lid = false)
    (ha : (s.core lid).pc.toNat % 8 = 0) (hl : (s.core lid).codeLim ≤ (s.core lid).pc.toNat) (hs : (s.core lid).spec = none)
    (hm : (s.core lid).midBody = false) (hh : HandlesTraps (s.core lid)) :
    stepCore s lid = .next ((issuing s lid).setCore lid
      (trapped { s.core lid with fetched := s.wordAt lid } causeLocRange (.ofNat 64 (s.core lid).pc.toNat) 0 (s.core lid).pc)) := by
  have hcore := core_issuing s lid
  have hstage : fetchStage ((s.keepWord lid).running lid false) lid
      = .trap { code := causeLocRange, val := .ofNat 64 (s.core lid).pc.toNat, sub := 0 } 0 := by
    rw [← issuing, fetchStage, hcore]
    simp [ha, hl]
  have hmid : (issuing s lid).midBody = false := by
    show (!false && ((issuing s lid).core lid).midBody) = false
    rw [hcore]
    exact hm
  have hspec : (issuing s lid).me.spec = none := (congrArg Core.spec hcore).trans hs
  have hfatal : trapFatal ((issuing s lid).core lid) causeLocRange = false := by
    obtain ⟨hvec, hin⟩ := hh
    rw [hcore]
    simp [trapFatal, hvec, hin, causeLocRange, causeConfigUe, causeSoftError]
  simp only [stepCore, hi, he, hstage, Bool.not_true, Bool.false_eq_true, if_false, deliverTrap]
  rw [← issuing, hmid, hspec]
  simp only [Bool.false_eq_true, if_false]
  rw [show (issuing s lid).cur = lid from rfl, takeTrap_handler hfatal, leaveScalar_pc, enterTrap_eq_trapped_sub, hcore]
  rfl

theorem completed_eq_jumped (c : Core) : c.completed false = c.jumped (c.pc + 8) := rfl

/-- A jump, call or return whose guard is false falls through. -/
theorem falls_through {i : Instr} {s : State} {w : Word} (hw : i.word? = some w) (hill : ∀ v, i ≠ .illegalOpcode v)
    (hop : w.extractLsb' 56 8 ∈ [0x28#8, 0x29, 0x2A, 0x2B, 0x2C]) (hg : GuardFalse s (wordOf i)) :
    exec i s = .next (s.setMe (s.me.jumped (s.me.pc + 8))) := by
  obtain ⟨hcur, hspec, hrpt, hissued, hwrites, hguard⟩ := hg
  have hword : wordOf i = w := by rw [wordOf, hw]; rfl
  have hpermitted : Permitted i s := by
    have hfield : bitsOf w 56 8 ∈ [0x28, 0x29, 0x2A, 0x2B, 0x2C] := by
      rw [← toNat_extractLsb'_eq_bitsOf]
      exact List.mem_map_of_mem (f := BitVec.toNat) hop
    rw [Permitted, hword, featureOf]
    simp only [List.mem_cons, List.not_mem_nil, or_false] at hfield
    rcases hfield with h | h | h | h | h <;> simp [h, supervisorOnly]
  have hreads : ReadsGuard s (wordOf i) := ⟨by rw [State.hasIssued, hrpt]; exact hissued, fun _ => hwrites⟩
  rw [exec_falseGuard (by rw [hw]; rfl) hill hcur hpermitted hspec hreads hguard, State.completed, hrpt, completed_eq_jumped]

/-- Settles O8: each transfer's body gives its target, the return-address store pushed or popped before; a word whose guard is false
completes alone. -/
theorem controlTransfers : Obligations.ControlTransfers := by
  refine ⟨fun x s h hr => ?_, fun x s t h hr hp => ?_, fun x s a c1 h hr ha ht => ?_, fun x s t a c1 => callr_ok,
    fun x s t ra h hr hp => ?_, fun i hi x s a c1 h hr hm hh ha ht => ?_, fun s lid rest hsched hi he ha hl hs hm hh => ?_,
    fun i hi x s hg => ?_, fun i hi x s hg => ?_⟩
  · exact issue_goto (i := .jmp x) h hr (op_bind_ok (getMe_run s)) (Near.refl s) h.2.2.1
  · obtain ⟨t', e, n, hs⟩ := pushReturn_near (Near.refl s) h.2.2.1 hp
    exact goto_ok (i := .call x) h ((op_bind_ok (getMe_run s)).trans (op_bind_ok e)) n ((pushes_inRpt hp).trans hr) hs
  · obtain ⟨s1, e1, n1⟩ := readS_near (Near.refl s) ha
    exact issue_goto (i := .jr x) h hr ((op_bind_ok e1).trans (op_bind_ok (checkTarget_ok ht s1))) n1 (scalarRead_spec ha h.2.2.1)
  · obtain ⟨t', e, n, hs⟩ := popReturn_near h.2.2.1 hp
    exact goto_ok (i := .ret x) h (op_bind_ok e) n ((pops_inRpt hp).trans hr) hs
  · simp only [List.mem_cons, List.not_mem_nil, or_false] at hi
    rcases hi with rfl | rfl
    · exact target_traps (i := .jr x) h hr hm hh ha ht
    · exact target_traps (i := .callr x) h hr hm hh ha ht
  · refine ⟨s.tick.wordAt lid, ?_⟩
    rw [step_of_sched hsched, stepMove, stepCore_beyondCode (s := s.tick) hi he ha hl hs hm hh, issuing_tick hsched]
    rw [← State.setCore_setCore { s with sched := rest, ticks := s.ticks + 1, cur := lid, inRpt := false } lid
      { s.core lid with fetched := s.tick.wordAt lid }]
    rfl
  · simp only [List.mem_cons, List.not_mem_nil, or_false] at hi
    rcases hi with rfl | rfl | rfl
    · exact falls_through (i := .jr x) rfl nofun (by rw [formS3_op_word]; decide) hg
    · exact falls_through (i := .callr x) rfl nofun (by rw [formS3_op_word]; decide) hg
    · exact falls_through (i := .ret x) rfl nofun (by rw [formS3_op_word]; decide) hg
  · simp only [List.mem_cons, List.not_mem_nil, or_false] at hi
    rcases hi with rfl | rfl
    · exact falls_through (i := .jmp x) rfl nofun (by rw [formJ_op_word]; decide) hg
    · exact falls_through (i := .call x) rfl nofun (by rw [formJ_op_word]; decide) hg

end Sys2Proof.Proofs
end

section
/-! PROOFS. The wait instructions, tick and nop (05 R191, R194, R195), and the end and the post of a task (05 R161, R164, R192, R193). -/

namespace Sys2Proof.Machine
open Sys2Proof.Claims

theorem Core.ReadFrom.trans {c c1 c2 : Core} (h : c.ReadFrom c1) (h' : c1.ReadFrom c2) : c.ReadFrom c2 := by
  obtain ⟨_, _, _, _, rfl⟩ := h
  obtain ⟨_, _, _, _, rfl⟩ := h'
  exact ⟨_, _, _, _, rfl⟩

theorem Core.ReadFrom.runq {c c' : Core} (h : c.ReadFrom c') : c'.runq = c.runq := by obtain ⟨_, _, _, _, rfl⟩ := h; rfl

/-! ## The mask of the queues that hold a flit -/

/-- The number whose first k bits are those of p. -/
def bitsBelow (p : Nat → Bool) (k : Nat) : Nat := (List.range k).foldl (fun r n => r + bit (p n) * 2 ^ n) 0

theorem bitsBelow_succ (p : Nat → Bool) (k : Nat) : bitsBelow p (k + 1) = 2 ^ k * bit (p k) + bitsBelow p k := by
  rw [bitsBelow, List.range_succ, List.foldl_append, bitsBelow, Nat.mul_comm, Nat.add_comm]
  rfl

theorem bitsBelow_lt (p : Nat → Bool) (k : Nat) : bitsBelow p k < 2 ^ k := by
  induction k with
  | zero => exact Nat.one_pos
  | succ k ih =>
    have hbit : bit (p k) ≤ 1 := by cases p k <;> decide
    rw [bitsBelow_succ, Nat.pow_succ]
    nlinarith

theorem testBit_bitsBelow (p : Nat → Bool) (k n : Nat) : (bitsBelow p k).testBit n = (decide (n < k) && p n) := by
  induction k with
  | zero => simp [bitsBelow]
  | succ k ih =>
    rw [bitsBelow_succ, Nat.testBit_two_pow_mul_add _ (bitsBelow_lt p k), ih]
    have hbit : ∀ b j, (bit b).testBit j = (b && decide (j = 0)) := by
      intro b j
      cases b <;> cases j <;> simp [bit, Nat.testBit_succ]
    by_cases hlt : n < k
    · simp [hlt, Nat.lt_succ_of_lt hlt]
    · by_cases heq : n = k
      · subst heq; simp [hbit]
      · simp [hlt, hbit, show ¬ n < k + 1 by omega, show n - k ≠ 0 by omega]

/-- Queue n of the mask holds a flit. -/
theorem testBit_queueMask (c : Core) (aux : BitVec 16) (n : Nat) :
    (queueMask c (bitsOf aux 0 8)).testBit n = (decide (n < 8) && aux.getLsbD n && !(c.queue n).isEmpty) := by
  have hbit : ∀ k < 8, decide (bitsOf aux 0 8 / 2 ^ k % 2 = 1) = aux.getLsbD k := fun k hk => by
    rw [← Nat.testBit_eq_decide_div_mod_eq, testBit_bitsOf, decide_eq_true hk, Nat.add_zero, Bool.true_and]
  have hmask : queueMask c (bitsOf aux 0 8) = bitsBelow (fun k => decide (bitsOf aux 0 8 / 2 ^ k % 2 = 1) && !(c.queue k).isEmpty) 8 := rfl
  rw [hmask, testBit_bitsBelow]
  by_cases hn : n < 8
  · simp only [hbit n hn, hn, decide_true, Bool.true_and]
  · simp [hn]

end Sys2Proof.Machine

namespace Sys2Proof.Proofs
open Sys2Proof.Machine Sys2Proof.Claims

/-- A wait on queues whose condition holds delivers the mask of those that hold a flit. -/
theorem waitQueues_ok {i : Instr} {x : FormS3} {ok : Nat → Nat → Bool} {s : State} {v : Word} {c1 : Core} (h : Issues i s)
    (hok : ok (queueMask s.me (bitsOf x.aux 0 8)) (bitsOf x.aux 0 8) = true)
    (hv : ∀ n < 64, v.getLsbD n = (queueMask s.me (bitsOf x.aux 0 8)).testBit n) (hd : scalarWrite s.me x.d v = some c1) :
    waitQueues i x ok s = .next (s.completed c1) := by
  have hval : BitVec.ofNat 64 (queueMask s.me (bitsOf x.aux 0 8)) = v := BitVec.eq_of_getLsbD_eq fun n hn => by
    rw [hv n hn, BitVec.getLsbD_ofNat]
    simp [hn]
  obtain ⟨s1, e1, n1⟩ := writeS_near (Near.refl s) hd
  unfold waitQueues
  refine issueSeq_near h ?_ n1 (scalarWrite_spec hd h.2.2.1)
  dsimp only
  rw [op_bind_ok (getMe_run s), hok, op_bind_ok (waitUnless_true _ s), hval, e1]

theorem waitUntil_ok {x : FormS3} {s : State} {a : Word} {c1 c2 : Core} (h : Issues (.waitUntil x) s)
    (ha : scalarRead s.me x.a = some (a, c1)) (ht : a.toNat ≤ s.cycle.toNat) (hd : scalarWrite c1 x.d s.cycle = some c2) :
    execWaitUntil x s = .next (s.completed c2) := by
  obtain ⟨s1, e1, n1⟩ := readS_near (Near.refl s) ha
  obtain ⟨s2, e2, n2⟩ := writeS_near n1 hd
  unfold execWaitUntil
  refine issueSeq_near h ?_ n2 (scalarWrite_spec hd (scalarRead_spec ha h.2.2.1))
  rw [op_bind_ok e1, op_bind_ok (op_get s1), n1.cycle, decide_eq_true ht, op_bind_ok (waitUnless_true _ s1), e2]

theorem waitOsp_ok {x : FormS3} {s : State} (h : Issues (.waitOsp x) s) (hroom : s.me.router.outq.length + x.aux.toNat % 16 ≤ 8) :
    exec (.waitOsp x) s = .next (s.completed s.me) := by
  have hfree : s.me.router.outq.length + bitsOf x.aux 0 4 ≤ 8 := by
    rw [bitsOf, Nat.pow_zero, Nat.div_one]
    exact hroom
  change execWaitOsp x s = _
  unfold execWaitOsp
  refine issueSeq_near h ?_ (Near.refl s) h.2.2.1
  rw [op_bind_ok (getMe_run s), decide_eq_true hfree, waitUnless_true]

theorem tick_ok {x : FormS3} {s : State} {a : Word} {c1 c2 : Core} (h : Issues (.tick x) s)
    (ha : scalarRead s.me x.a = some (a, c1)) (hd : scalarWrite c1 x.d (s.cycle - a) = some c2) :
    exec (.tick x) s = .next (s.completed c2) := by
  obtain ⟨s1, e1, n1⟩ := readS_near (Near.refl s) ha
  obtain ⟨s2, e2, n2⟩ := writeS_near n1 hd
  refine issueSeq_near h ?_ n2 (scalarWrite_spec hd (scalarRead_spec ha h.2.2.1))
  rw [op_bind_ok e1, op_bind_ok (op_get s1), n1.cycle, e2]

/-- Settles O9: the condition of each wait holds, so what is left of its body is the write of its result. -/
theorem waitsCompleteOnTheirCondition : Obligations.WaitsCompleteOnTheirCondition := by
  refine ⟨fun x s v c1 h hall hv hd => ?_, fun x s v c1 h hany hv hd => ?_, fun x s h hroom => ?_,
    fun x s a c1 c2 => waitUntil_ok, fun x s a c1 c2 => tick_ok, fun x s h => issueSeq_near h rfl (Near.refl s) h.2.2.1⟩
  · have hmask : queueMask s.me (bitsOf x.aux 0 8) = bitsOf x.aux 0 8 := by
      refine Nat.eq_of_testBit_eq fun n => ?_
      rw [testBit_queueMask, testBit_bitsOf, Nat.add_zero]
      by_cases hn : n < 8
      · cases hbit : x.aux.getLsbD n
        · simp
        · simp [hall n hn hbit]
      · simp [hn]
    refine waitQueues_ok (i := .waitAll x) (ok := fun h m => h == m) h (beq_iff_eq.2 hmask) (fun n hn => ?_) hd
    rw [hv n hn, hmask, testBit_bitsOf, Nat.add_zero]
  · obtain ⟨n, hn, haux, hq⟩ := hany
    refine waitQueues_ok (i := .waitAny x) (ok := fun h _ => h != 0) h (bne_iff_ne.2 fun h0 => ?_)
      (fun n hn => by rw [hv n hn, testBit_queueMask]) hd
    have hbit := testBit_queueMask s.me x.aux n
    rw [h0, Nat.zero_testBit] at hbit
    simp [hn, haux, hq] at hbit
  · exact waitOsp_ok h hroom

/-- What the end of a task frees by its ORIGIN, and the end of a handler. -/
def triggerFreed (c : Core) (o : Nat) : Core := if o < 16 then { c with trigBusy := putBits c.trigBusy o 1 0 } else c
def messageFreed (c : Core) (o : Nat) : Core := if 16 ≤ o ∧ o < 32 then { c with inbox := Table.erase (o - 16) c.inbox } else c
def handlerEnded (c : Core) : Core :=
  if c.intrap then { c with intrap := false, prv := false, rptState := putBits c.rptState 63 1 0 } else c

theorem triggerFreed_eq (c : Core) (o : Nat) :
    triggerFreed c o = { c with trigBusy := if o < 16 then putBits c.trigBusy o 1 0 else c.trigBusy } := by
  unfold triggerFreed
  split <;> rfl

theorem messageFreed_eq (c : Core) (o : Nat) :
    messageFreed c o = { c with inbox := if 16 ≤ o ∧ o < 32 then Table.erase (o - 16) c.inbox else c.inbox } := by
  unfold messageFreed
  split <;> rfl

theorem handlerEnded_eq (c : Core) :
    handlerEnded c = { c with
      intrap := false
      prv := if c.intrap then false else c.prv
      rptState := if c.intrap then putBits c.rptState 63 1 0 else c.rptState } := by
  unfold handlerEnded
  by_cases h : c.intrap = true
  · simp only [if_pos h]
  · cases c
    simp only [Bool.not_eq_true] at h
    subst h
    rfl

theorem endTask_cons {c : Core} {t : Task} {rest : List Task} (h : c.runq = t :: rest) :
    c.endTask
      = { handlerEnded (messageFreed (triggerFreed c t.origin.toNat) t.origin.toNat) with ras := [], runq := rest }.startTask := by
  unfold Core.endTask
  split
  · next heq => exact absurd (heq.symm.trans h) (by simp)
  · next heq =>
    cases heq.symm.trans h
    rfl

theorem endTask_eq_taskEnded (c : Core) {t : Task} {rest : List Task} (h : c.runq = t :: rest) :
    c.endTask = taskEnded c t rest := by
  rw [endTask_cons h, handlerEnded_eq, messageFreed_eq, triggerFreed_eq]
  cases rest <;> rfl

theorem taskEnded_spec (c : Core) (t : Task) (rest : List Task) : (taskEnded c t rest).spec = c.spec := by
  unfold taskEnded started
  dsimp only
  split <;> rfl

theorem endsTask {i : Instr} {s : State} {t : Task} {rest : List Task} (h : Issues i s) (hr : s.inRpt = false)
    (hq : s.me.runq = t :: rest) :
    issue i (do modMe (·.endTask); return .keep) s
      = .next (s.setMe ((taskEnded s.me t rest).jumped (taskEnded s.me t rest).pc)) := by
  refine issue_keep h hr (op_bind_ok (modMe_run _ s)) (endTask_eq_taskEnded s.me hq ▸ Near.set s _) ?_
  exact (taskEnded_spec _ _ _).trans h.2.2.1

theorem appendTask_running {c : Core} (h : c.runq ≠ []) (t : Task) : c.appendTask t = { c with runq := c.runq ++ [t] } := by
  have hempty : c.runq.isEmpty = false := by cases hq : c.runq <;> simp_all
  rw [Core.appendTask, hempty]
  rfl

section

variable {x : FormS3} {s : State} {a b : Word} {c1 c2 : Core} (h : Issues (.post x) s) (ha : scalarRead s.me x.a = some (a, c1))
  (hb : scalarRead c1 x.b = some (b, c2))
include h ha hb

/-- The operands of post, read. -/
theorem post_reads : ∃ s2, Near s s2 c2 ∧ s.me.ReadFrom c2 ∧ ∀ k : Word → Word → Core → Op Unit,
    (do let v ← readS x.a; let w ← readS x.b; let c ← getMe; k v w c : Op Unit).run s = (k a b c2).run s2 := by
  obtain ⟨s1, e1, n1⟩ := readS_near (Near.refl s) ha
  obtain ⟨s2, e2, n2⟩ := readS_near n1 hb
  have hs1 := scalarRead_spec ha h.2.2.1
  refine ⟨s2, n2, (scalarRead_readFrom ha h.2.2.1).trans (scalarRead_readFrom hb hs1), fun k => ?_⟩
  rw [op_bind_ok e1, op_bind_ok e2, op_bind_ok (getMe_run s2), n2.1]

theorem post_ok (h8 : a.toNat % 8 = 0) (hlim : a.toNat < c2.codeLim) (hrun : s.me.runq ≠ []) (hlen : s.me.runq.length < 32) :
    exec (.post x) s
      = .next (s.completed { c2 with runq := s.me.runq ++ [{ entry := a.setWidth 16, origin := 0x20, m0 := b }] }) := by
  obtain ⟨s2, n2, hread, hbody⟩ := post_reads h ha hb
  refine issueSeq_near h ((hbody _).trans ?_) (n2.setMe _) (hread.spec.trans h.2.2.1)
  simp only [if_neg (not_not.2 h8), if_neg (Nat.not_le.2 hlim), hread.runq, decide_eq_true hlen]
  refine (op_bind_ok (waitUnless_true _ s2)).trans ((modMe_run _ s2).trans ?_)
  rw [n2.1, appendTask_running (by rw [hread.runq]; exact hrun), hread.runq]

theorem post_traps (hr : s.inRpt = false) (hm : s.midBody = false) (hh : HandlesTraps s.me)
    (hbad : a.toNat % 8 ≠ 0 ∨ c2.codeLim ≤ a.toNat) :
    exec (.post x) s = .next (s.setMe (trapped c2 (if a.toNat % 8 = 0 then causeLocRange else causeAlign) a 0 s.me.pc)) := by
  obtain ⟨s2, n2, hread, hbody⟩ := post_reads h ha hb
  refine issueSeq_handled (t := { code := if a.toNat % 8 = 0 then causeLocRange else causeAlign, val := a, sub := 0 }) h hr hm hh
    ((hbody _).trans ?_) n2 hread ?_
  · by_cases h8 : a.toNat % 8 = 0
    · have hlim : c2.codeLim ≤ a.toNat := hbad.resolve_left (not_not.2 h8)
      simp only [if_neg (not_not.2 h8), if_pos hlim, if_pos h8]
      rfl
    · simp only [if_pos h8, if_neg h8]
      rfl
  · dsimp only
    split <;> rfl

/-- With 32 tasks in the run queue post is left where it is, and waits. -/
theorem post_waits (hr : s.inRpt = false) (h8 : a.toNat % 8 = 0) (hlim : a.toNat < c2.codeLim) (hlen : s.me.runq.length = 32) :
    ∃ t, exec (.post x) s = .next t ∧ t.me = { s.me with wait := t.me.wait, issued := true } ∧ t.me.wait.isSome = true := by
  obtain ⟨s2, n2, hread, hbody⟩ := post_reads h ha hb
  refine ⟨s.waiting (waitVal 4 0), issueSeq_wait (s' := s2) h ((hbody _).trans ?_), ?_, ?_⟩
  · simp only [if_neg (not_not.2 h8), if_neg (Nat.not_le.2 hlim), hread.runq, hlen]
    rfl
  · simp [State.waiting, State.markIssued, Core.noteWait, hr]
  · simp [State.waiting, State.markIssued, Core.noteWait, hr]

end

/-- Settles O10: done and idle end the task by one operation, and post has read its operands when it traps, waits or appends. -/
theorem tasksEndAndArePosted : Obligations.TasksEndAndArePosted := by
  refine ⟨fun x s t rest h hr hq => ⟨_, rfl, endsTask (i := .done x) h hr hq⟩,
    fun x s t rest h hr hq => ⟨_, rfl, endsTask (i := .idle x) h hr hq⟩, fun x s a b c1 c2 t h ha hb h8 hlim hrun hlen ht => ?_,
    fun x s a b c1 c2 h hr hm hh ha hb hbad => post_traps h ha hb hr hm hh hbad,
    fun x s a b c1 c2 h hr ha hb h8 hlim hlen => post_waits h ha hb hr h8 hlim hlen⟩
  subst ht
  exact post_ok h ha hb h8 hlim hrun hlen

end Sys2Proof.Proofs
end

section
/-! PROOFS. Traps of instructions (05 R176, R194): into the handler, or fatal to the region, whose freeze then gathers a fault record
(08 R287, R288) and completes once its stop has reached every core. -/

namespace Sys2Proof.Machine
open Sys2Proof.Claims

/-! ## Fatal traps -/

theorem trapFatal_of_noHandler {c : Core} (h : ¬HandlesTraps c) (code : BitVec 8) : trapFatal c code = true := by
  unfold trapFatal
  cases hv : c.trapVec.getLsbD 0 <;> cases hi : c.intrap <;> simp only [Bool.not_false, Bool.not_true, Bool.or_true, Bool.or_false]
  exact absurd ⟨hv, hi⟩ h

theorem Core.ReadFrom.noHandler {c c' : Core} (h : c.ReadFrom c') (hh : ¬HandlesTraps c) : ¬HandlesTraps c' := by
  obtain ⟨_, _, _, _, rfl⟩ := h; exact hh

/-- The first fault of a core of a running region stops the core and goes into the region's record. -/
theorem freezeAt_first {s : State} {r : Region} {lid : Nat} (f : FaultInfo) (hreg : s.regionOf lid = some r)
    (hst : r.st = .live ∨ r.st = .draining) (hfirst : FirstFault r lid) :
    freezeAt s lid f = (s.setRegion (freezing s r lid (faultRecord s r lid f))).setCore lid { s.core lid with halted := true } := by
  have hnew : r.gathered.any (·.1 == r.roleOf lid) = false := by
    rw [List.any_eq_false]
    exact fun p hp => by simpa using hfirst p hp
  have hgather : gatherFault s r lid f = s.setRegion (freezing s r lid (faultRecord s r lid f)) := by
    unfold gatherFault
    split
    · exact if_neg (Bool.eq_false_iff.1 hnew)
    · exact if_neg (Bool.eq_false_iff.1 hnew)
    · next hlive hdraining => exact (hst.elim hlive hdraining).elim
  unfold freezeAt
  simp only [hreg, hgather]
  rfl

/-- Bits 7:0 of a fault record's first word tell the cause. -/
theorem faultRecord_cause (s : State) (r : Region) (lid : Nat) (f : FaultInfo) (hc : f.cause < 256) :
    ((faultRecord s r lid f).getD 0 0).toNat % 256 = f.cause := by
  simp only [faultRecord, List.getD_cons_zero, BitVec.toNat_ofNat]
  omega

/-- The module after the executing core, which is c, has stopped with the fault record rec. -/
def faulted (s s' : State) (r : Region) (c : Core) (rec : List Word) : State :=
  (s'.setRegion (freezing s r s.cur rec)).setCore s.cur { c with halted := true }

theorem faulted_me {s s' : State} {c : Core} (hn : Near s s' c) (r : Region) (rec : List Word) :
    (faulted s s' r c rec).me = { c with halted := true } := by
  unfold faulted
  rw [← hn.cur]
  exact State.core_setCore_self _ _ _

theorem faulted_core {s s' : State} {c : Core} (hn : Near s s' c) (r : Region) (rec : List Word) {l : Nat} (hl : l ≠ s.cur) :
    (faulted s s' r c rec).core l = s.core l := by
  have hs : s'.core l = s.core l := by
    rw [← State.core_setMe_ne s' (by rw [hn.cur]; exact hl) c, hn.2, State.core_setMe_ne s hl]
  exact (State.core_setCore_ne _ hl _).trans hs

theorem faulted_regions {s s' : State} {c : Core} (hn : Near s s' c) (r : Region) (rec : List Word) :
    (faulted s s' r c rec).regions = s.regions.map fun r' => if r'.id = r.id then freezing s r s.cur rec else r' := by
  have hs : s'.regions = s.regions := by rw [hn.eq_cores]
  exact congrArg _ hs

/-- An instruction whose trap is fatal, its operands read. -/
theorem issueSeq_fatal {i : Instr} {s s' : State} {c : Core} {r : Region} {body : Op Unit} {t : TrapInfo} (h : Issues i s)
    (hm : s.midBody = false) (hh : ¬HandlesTraps s.me) (hb : body.run s = .error (.trap t) s') (hn : Near s s' c)
    (hc : s.me.ReadFrom c) (hreg : s.regionOf s.cur = some r) (hst : r.st = .live ∨ r.st = .draining)
    (hfirst : FirstFault r s.cur) :
    ∃ pc, issueSeq i body s
      = .next (faulted s s' r c (faultRecord s' r s.cur (trapFault c t pc false (wordOf i)))) := by
  have hcore : s'.core s.cur = c := by rw [← hn.cur]; exact hn.1
  have hreg' : s'.regionOf s.cur = some r := by rw [hn.eq_cores]; exact hreg
  have hfatal : trapFatal (s'.core s.cur) t.code = true := by rw [hcore]; exact trapFatal_of_noHandler (hc.noHandler hh) _
  refine ⟨s'.me.execPc s'.inRpt, (issueSeq_trap h hm hb (by rw [hn.1, hc.spec]; exact h.2.2.1)).trans ?_⟩
  rw [hn.cur, takeTrap_fatal hfatal, freezeAt_first _ hreg' hst hfirst, hcore, faulted, freezing, freezing, hn.cycle]

/-! ## The completion of a freeze -/

theorem lowestRole_cons_cons {α : Type} (m x : Nat × α) (xs : List (Nat × α)) :
    lowestRole (m :: x :: xs) = lowestRole ((if x.1 < m.1 then x else m) :: xs) := by
  unfold lowestRole
  by_cases hx : x.1 < m.1
  · simp [hx]
  · simp [hx]

theorem lowestRole_cons {α : Type} (xs : List (Nat × α)) (m : Nat × α) :
    ∃ y ∈ m :: xs, (∀ x ∈ m :: xs, y.1 ≤ x.1) ∧ lowestRole (m :: xs) = some y := by
  induction xs generalizing m with
  | nil => exact ⟨m, by simp, by simp, rfl⟩
  | cons x xs ih =>
    rw [lowestRole_cons_cons]
    generalize hz : (if x.1 < m.1 then x else m) = z
    have hzmem : z = m ∨ z = x := by rw [← hz]; split <;> simp
    have hzle : z.1 ≤ m.1 ∧ z.1 ≤ x.1 := by rw [← hz]; split <;> omega
    obtain ⟨y, hy, hmin, heq⟩ := ih z
    have hyz := hmin z (by simp)
    refine ⟨y, ?_, ?_, heq⟩
    · simp only [List.mem_cons] at hy ⊢
      rcases hy with rfl | hy
      · exact hzmem.imp_right .inl
      · exact .inr (.inr hy)
    · intro p hp
      simp only [List.mem_cons] at hp
      rcases hp with rfl | rfl | hp
      · omega
      · omega
      · exact hmin p (List.mem_cons_of_mem _ hp)

/-- The entry of the lowest role, where no role stands twice. -/
theorem lowestRole_eq {α : Type} {xs : List (Nat × α)} {p : Nat × α} (hnodup : (xs.map (·.1)).Nodup) (hp : p ∈ xs)
    (hmin : ∀ q ∈ xs, p.1 ≤ q.1) : lowestRole xs = some p := by
  cases xs with
  | nil => simp at hp
  | cons m xs =>
    obtain ⟨y, hy, hle, heq⟩ := lowestRole_cons xs m
    have hsame : y = p := List.inj_on_of_nodup_map hnodup hy hp (Nat.le_antisymm (hle p hp) (hmin y hy))
    rw [heq, hsame]

/-! Reports and records leave the regions. -/

theorem vaWrite_regions {s t : State} {root va : Nat} {bytes : List Byte} (h : vaWrite s root va bytes = some t) :
    t.regions = s.regions := by
  unfold vaWrite extWrite at h
  repeat' split at h
  all_goals cases h
  rfl

theorem raise_regions (s : State) (v : Nat) : (s.raise v).regions = s.regions := by
  unfold State.raise
  split <;> rfl

theorem ringAppend_regions {s t : State} {root : Nat} {n : Node} {record : List Word} (h : ringAppend s root n record = some t) :
    t.regions = s.regions := by
  unfold ringAppend at h
  simp only [Option.bind_eq_bind, Option.bind_eq_some_iff] at h
  obtain ⟨tailB, _, headB, _, h⟩ := h
  split at h
  · simp at h
  · simp only [Option.bind_eq_some_iff] at h
    obtain ⟨s1, h1, s2, h2, h⟩ := h
    cases h
    rw [raise_regions, vaWrite_regions h2, vaWrite_regions h1]

theorem ringDrop_regions (s : State) (root : Nat) (n : Node) : (ringDrop s root n).regions = s.regions := by
  unfold ringDrop
  split
  · rfl
  · cases hw : vaWrite s root (n.fring + 16) _ with
    | none => rfl
    | some t => exact vaWrite_regions hw

theorem reportFault_regions (s : State) (r : Region) (record : List Word) : (reportFault s r record).regions = s.regions := by
  unfold reportFault
  dsimp only
  split
  · rfl
  · split
    · rfl
    · split
      · next h => exact ringAppend_regions h
      · exact ringDrop_regions s _ _

/-- The record of a frozen region keeps its other words, and of word 0 all but NFAULT's bits. -/
theorem frozenRecord_getD (r : Region) (s : State) (rec : List Word) {k : Nat} (h1 : 1 ≤ k) (h6 : k ≤ 6) :
    (r.frozenRecord s rec).getD k 0 = rec.getD k 0 := by
  simp only [Region.frozenRecord, List.getD_eq_getElem?_getD, List.getElem?_mapIdx]
  cases rec[k]? with
  | none => rfl
  | some w => simp [show k ≠ 0 by omega, show k ≠ 7 by omega]

theorem frozenRecord_zero (r : Region) (s : State) (w : Word) (ws : List Word) :
    (r.frozenRecord s (w :: ws)).getD 0 0 = putBits w 24 8 (min 255 r.gathered.length) := by
  simp [Region.frozenRecord]

/-- The record that a frozen region keeps, and the region. -/
theorem completeFreeze_spec {s : State} {r : Region} {role : Nat} {rec : List Word} (hlow : lowestRole r.gathered = some (role, rec)) :
    (completeFreeze s r).regions = s.regions.map fun r' => if r'.id = r.id then
      { r with st := .frozen, fault := some (r.frozenRecord s rec), gathered := [], halts := [], stopFrom := none } else r' := by
  unfold completeFreeze
  simp only [hlow, reportFault_regions]
  rfl

end Sys2Proof.Machine

namespace Sys2Proof.Proofs
open Sys2Proof.Machine Sys2Proof.Claims

theorem trap_body {x : FormS3} {s : State} {a : Word} {c1 : Core} (ha : scalarRead s.me x.a = some (a, c1)) :
    ∃ s1, Near s s1 c1 ∧ (do let v ← readS x.a; throw (.trap { code := causeSoftware, val := v, sub := x.aux }) : Op Unit).run s
      = .error (.trap { code := causeSoftware, val := a, sub := x.aux }) s1 := by
  obtain ⟨s1, e1, n1⟩ := readS_near (Near.refl s) ha
  exact ⟨s1, n1, op_bind_ok e1⟩

theorem trapsEnterTheHandler : TrapsEnterTheHandler := by
  refine ⟨fun x s a c1 h hr hm hh ha => ?_, fun x s h hr hm hh => ?_, fun w s hcur hs hr hm hh => ?_, fun x s h hm => ?_,
    fun x s h => issueSeq_near h rfl (Near.refl s) h.2.2.1⟩
  · obtain ⟨s1, n1, e1⟩ := trap_body ha
    exact issueSeq_handled (i := .trap x) h hr hm hh e1 n1 (scalarRead_readFrom ha h.2.2.1) rfl
  · exact issueSeq_handled (i := .brk x) (t := { code := causeBreakpoint, val := 0, sub := x.aux }) h hr hm hh rfl
      (Near.refl s) (.refl _) rfl
  · change execIllegalOpcode w s = _
    rw [execIllegalOpcode, if_neg (Nat.not_le.2 hcur), hm, hr, execPc_scalar, if_neg Bool.false_ne_true,
      deliverTrap_handled w hs hh (by decide) (by decide)]
  · have hr : s.inRpt = false := by
      cases hr : s.inRpt
      · rfl
      · simp [State.midBody, hr] at hm
    refine (issue_trap_mid (i := .brk x) h hm rfl).trans ?_
    rw [State.markIssued, hr]
    rfl

/-- trap and brk, where no handler may take them. -/
theorem software_fatal {x : FormS3} {s : State} {r : Region} {i : Instr} {a : Word} {c1 : Core} {cause : BitVec 8}
    (hi : i = .brk x ∧ a = 0 ∧ c1 = s.me ∧ cause = causeBreakpoint
      ∨ i = .trap x ∧ scalarRead s.me x.a = some (a, c1) ∧ cause = causeSoftware)
    (h : Issues i s) (hm : s.midBody = false) (hh : ¬HandlesTraps s.me) (hreg : s.regionOf s.cur = some r)
    (hst : r.st = .live ∨ r.st = .draining) (hfirst : FirstFault r s.cur) :
    ∃ s' f, Near s s' c1 ∧ f.cause = cause.toNat ∧ f.val = a ∧ f.opnd = wordOf i
      ∧ exec i s = .next (faulted s s' r c1 (faultRecord s' r s.cur f)) := by
  rcases hi with ⟨rfl, rfl, rfl, rfl⟩ | ⟨rfl, ha, rfl⟩
  · obtain ⟨pc, e⟩ := issueSeq_fatal (i := .brk x) (t := { code := causeBreakpoint, val := 0, sub := x.aux }) h hm hh rfl (Near.refl s)
      (.refl _) hreg hst hfirst
    exact ⟨s, _, Near.refl s, rfl, rfl, rfl, e⟩
  · obtain ⟨s1, n1, e1⟩ := trap_body ha
    obtain ⟨pc, e⟩ := issueSeq_fatal (i := .trap x) h hm hh e1 n1 (scalarRead_readFrom ha h.2.2.1) hreg hst hfirst
    exact ⟨s1, _, n1, rfl, rfl, rfl, e⟩

/-- A stop of a region with gathered faults completes as its freeze, after the cycle in which it began. -/
theorem step_completesFreeze {s : State} {rest : List Move} {r : Region} (hsched : s.sched = .stop r.id :: rest)
    (hfind : s.regions.find? (·.id == r.id) = some r) (hstop : ∃ t, r.stopFrom = some t ∧ t ≠ s.cycle) (hne : r.gathered ≠ []) :
    step s = .next (completeFreeze s.tick r) := by
  obtain ⟨t, ht, hlater⟩ := hstop
  have hreaches : r.stopReaches s.tick = true := by
    rw [Region.stopReaches, ht]
    exact bne_iff_ne.2 hlater
  have hfind' : s.tick.regions.find? (·.id == r.id) = some r := hfind
  have hstopped : completeStop s.tick r = completeFreeze s.tick r := by
    unfold completeStop
    split
    · next hnil _ => exact absurd hnil hne
    · rfl
  rw [step_of_sched hsched, stepMove, completeStops, List.foldl_cons, List.foldl_nil]
  simp only [hfind', hreaches, if_true, hstopped]

theorem fatalTrapsFreezeTheRegion : FatalTrapsFreezeTheRegion := by
  refine ⟨fun x s r i a c1 cause hi h hm hh hreg hst hfirst => ?_, fun s rest r role rec hsched hfind hstop hnodup hmem hmin hlen => ?_⟩
  · obtain ⟨s', f, hn, hcause, hval, hopnd, e⟩ := software_fatal hi h hm hh hreg hst hfirst
    refine ⟨_, _, e, faulted_me hn r _, fun l hl => faulted_core hn r _ hl, faulted_regions hn r _, rfl, ?_, rfl, hval, hopnd⟩
    rw [faultRecord_cause _ _ _ _ (by rw [hcause]; exact cause.isLt), hcause]
  · have hlow := lowestRole_eq hnodup hmem fun q hq => hmin q hq
    refine ⟨_, r.frozenRecord s.tick rec, step_completesFreeze hsched hfind hstop (List.ne_nil_of_mem hmem), completeFreeze_spec hlow,
      ?_, ?_, ?_, fun k h1 h6 => frozenRecord_getD r _ rec h1 h6⟩
    · simpa [Region.frozenRecord] using hlen
    · obtain ⟨w, ws, rfl⟩ := List.exists_cons_of_length_eq_add_one hlen
      rw [frozenRecord_zero]
      exact (bitsOf_putBits_self w (lo := 24) (n := 8) _ (by omega)).trans (by omega)
    · obtain ⟨w, ws, rfl⟩ := List.exists_cons_of_length_eq_add_one hlen
      rw [frozenRecord_zero]
      have hlow24 := bitsOf_putBits_beside w (lo := 24) (n := 8) (lo' := 0) (n' := 24) (min 255 r.gathered.length) (by omega)
      simpa [bitsOf] using hlow24

/-- Settles O43: a trap is taken with what was read standing; a fatal one leaves its core stopped and its record gathered, and the stop
that reaches every core writes the record of the lowest role. -/
theorem trapsAreTaken : Obligations.TrapsAreTaken := ⟨trapsEnterTheHandler, fatalTrapsFreezeTheRegion⟩

end Sys2Proof.Proofs
end

section
/-! PROOFS. The repeat buffer (05 R170-R172): what rpt fills, the order of issue, and the strides of the fields of a body word. -/

namespace Sys2Proof.Machine
open Sys2Proof.Claims

/-! ## Filling the buffer -/

/-- Body words that all pass are the words that fetch gives. -/
theorem bodyWords_ok {s : State} (fetch : State → Nat → Nat → Word) (n a : Nat)
    (h : ∀ k < n, a + 8 * k < s.me.codeLim ∧ s.me.locPoisoned (a + 8 * k) 8 = false
      ∧ bodyAllowed (bitsOf (fetch s s.cur (a + 8 * k)) 56 8) = true) :
    (bodyWords fetch a n).run s = .ok ((List.range n).map fun k => fetch s s.cur (a + 8 * k)) s := by
  induction n generalizing a with
  | zero => rfl
  | succ n ih =>
    obtain ⟨hlim, hpoison, hallowed⟩ := h 0 n.succ_pos
    simp only [Nat.mul_zero, Nat.add_zero] at hlim hpoison hallowed
    have hnext : ∀ k, a + 8 + 8 * k = a + 8 * (k + 1) := fun k => by omega
    have hrest := ih (a + 8) fun k hk => by rw [hnext]; exact h (k + 1) (by omega)
    unfold bodyWords
    rw [op_bind_ok (op_get s)]
    simp only [if_neg (Nat.not_le.2 hlim), hpoison, hallowed, Bool.not_true, Bool.false_eq_true, if_false]
    rw [op_bind_ok hrest, List.range_succ_eq_map, List.map_cons, List.map_map]
    simp only [hnext]
    rfl

/-! ## A field of a word replaced -/

/-- A field replaced where the word reads it. -/
def putIf (reads : Bool) (w : Word) (lo n v : Nat) : Word := if reads then putBits w lo n v else w

theorem putIf_def (reads : Bool) (w : Word) (lo n v : Nat) : putIf reads w lo n v = if reads then putBits w lo n v else w := rfl

theorem bitsOf_putIf_beside (reads : Bool) (w : Word) (v : Nat) {lo n lo' n' : Nat} (h : lo' + n' ≤ lo ∨ lo + n ≤ lo') :
    bitsOf (putIf reads w lo n v) lo' n' = bitsOf w lo' n' := by
  unfold putIf
  split
  · exact bitsOf_putBits_beside w v h
  · rfl

theorem bitsOf_putIf_self (reads : Bool) (w : Word) {v lo n : Nat} (h : lo + n ≤ 64) (hv : v < 2 ^ n) :
    bitsOf (putIf reads w lo n v) lo n = if reads then v else bitsOf w lo n := by
  unfold putIf
  split
  · rw [bitsOf_putBits_self w v h, Nat.mod_eq_of_lt hv]
  · rfl

theorem getLsbD_putIf_beside (reads : Bool) (w : Word) (v : Nat) {lo n k : Nat} (h : k < lo ∨ lo + n ≤ k) :
    (putIf reads w lo n v).getLsbD k = w.getLsbD k := by
  unfold putIf
  split
  · rw [getLsbD_putBits, if_neg (by omega)]
    by_cases hk : k < 64
    · simp [hk]
    · simp [hk, BitVec.getLsbD_of_ge w k (by omega)]
  · rfl

theorem strideReg_eq_putIf (w : Word) (lo : Nat) (reads : Bool) (stride : Int) (i : Nat) :
    strideReg w lo reads stride i
      = putIf (reads && decide (bitsOf w lo 5 < 16)) w lo 5 (((bitsOf w lo 5 : Int) + i * stride) % 16).toNat := rfl

/-- A register field in iteration i: moved on modulo 16 where it is read as a vector register. -/
theorem bitsOf_strideReg_self (w : Word) {lo : Nat} (reads : Bool) (stride : Int) (i : Nat) (h : lo + 5 ≤ 64) :
    (bitsOf (strideReg w lo reads stride i) lo 5 : Int)
      = if reads = true ∧ bitsOf w lo 5 < 16 then ((bitsOf w lo 5 : Int) + i * stride) % 16 else bitsOf w lo 5 := by
  rw [strideReg_eq_putIf, bitsOf_putIf_self _ _ h (by omega)]
  by_cases hr : reads = true ∧ bitsOf w lo 5 < 16
  · rw [if_pos hr, if_pos (by simpa using hr)]
    omega
  · rw [if_neg hr, if_neg (by simpa using hr)]

theorem bitsOf_strideReg_beside (w : Word) (reads : Bool) (stride : Int) (i : Nat) {lo lo' n' : Nat}
    (h : lo' + n' ≤ lo ∨ lo + 5 ≤ lo') : bitsOf (strideReg w lo reads stride i) lo' n' = bitsOf w lo' n' := by
  rw [strideReg_eq_putIf, bitsOf_putIf_beside _ _ _ h]

theorem getLsbD_strideReg_beside (w : Word) (reads : Bool) (stride : Int) (i : Nat) {lo k : Nat} (h : k < lo ∨ lo + 5 ≤ k) :
    (strideReg w lo reads stride i).getLsbD k = w.getLsbD k := by
  rw [strideReg_eq_putIf, getLsbD_putIf_beside _ _ _ h]

/-! ## What a body word reads -/

/-- The fields that an instruction's word reads under the strides. -/
structure Reads where
  d : Bool
  a : Bool
  b : Bool
  c : Bool
  at_ : Bool
  bt : Bool

/-- A body word whose register fields have moved. -/
def regsMoved (rpt w : Word) (i : Nat) (f : Reads) : Word :=
  let st (lo n : Nat) : Int := signed n (bitsOf rpt lo n)
  strideReg (strideReg (strideReg (strideReg w 47 f.d (st 15 4) i) 42 f.a (st 19 4) i) 37 f.b (st 23 4) i) 32 f.c (st 27 4) i

/-- A body word whose fields have all moved. -/
def moved (rpt w : Word) (i : Nat) (f : Reads) : Word :=
  let w4 := regsMoved rpt w i f
  let w5 := putIf f.at_ w4 30 2 ((bitsOf w4 30 2 + i * bitsOf rpt 31 2) % 4)
  putIf f.bt w5 26 4 (((bitsOf w5 26 4 : Int) + i * signed 4 (bitsOf rpt 33 4)) % 16).toNat

theorem bitsOf_regsMoved_beside (rpt w : Word) (i : Nat) (f : Reads) {lo n : Nat} (h : lo + n ≤ 32 ∨ 52 ≤ lo) :
    bitsOf (regsMoved rpt w i f) lo n = bitsOf w lo n := by
  unfold regsMoved
  simp (disch := omega) only [bitsOf_strideReg_beside]

theorem getLsbD_moved_beside (rpt w : Word) (i : Nat) (f : Reads) {k : Nat} (h : k < 26 ∨ 52 ≤ k) :
    (moved rpt w i f).getLsbD k = w.getLsbD k := by
  unfold moved regsMoved
  simp (disch := omega) only [getLsbD_putIf_beside, getLsbD_strideReg_beside]

/-- The register fields of a moved word. -/
theorem bitsOf_moved_reg (rpt w : Word) (i : Nat) (f : Reads) :
    ∀ p ∈ [(47, f.d, 15), (42, f.a, 19), (37, f.b, 23), (32, f.c, 27)], (bitsOf (moved rpt w i f) p.1 5 : Int)
      = if p.2.1 = true ∧ bitsOf w p.1 5 < 16 then (bitsOf w p.1 5 + i * signed 4 (bitsOf rpt p.2.2 4)) % 16
        else bitsOf w p.1 5 := by
  intro p hp
  simp only [List.mem_cons, List.not_mem_nil, or_false] at hp
  unfold moved regsMoved
  rcases hp with rfl | rfl | rfl | rfl
  all_goals simp (disch := omega) only [bitsOf_putIf_beside, bitsOf_strideReg_beside, bitsOf_strideReg_self]

theorem bitsOf_moved_at (rpt w : Word) (i : Nat) (f : Reads) :
    bitsOf (moved rpt w i f) 30 2 = if f.at_ then (bitsOf w 30 2 + i * bitsOf rpt 31 2) % 4 else bitsOf w 30 2 := by
  unfold moved
  simp (disch := omega) only [bitsOf_putIf_beside, bitsOf_putIf_self, bitsOf_regsMoved_beside]

theorem bitsOf_moved_bt (rpt w : Word) (i : Nat) (f : Reads) :
    (bitsOf (moved rpt w i f) 26 4 : Int)
      = if f.bt then (bitsOf w 26 4 + i * signed 4 (bitsOf rpt 33 4)) % 16 else bitsOf w 26 4 := by
  unfold moved
  simp (disch := omega) only [bitsOf_putIf_beside, bitsOf_putIf_self, bitsOf_regsMoved_beside]
  split <;> omega

/-- The reads that the shape of an instruction gives, imm telling of bit 19 and fp32 of type 8. -/
def shapeReads (sh : Shape) (op : Nat) (imm fp32 : Bool) : Reads :=
  let tensor := decide (0x90 ≤ op) && decide (op ≤ 0x9D)
  { d := kindVector sh.d
    a := kindVector sh.a
    b := kindVector sh.b && !((decide (0x4D ≤ op) && decide (op ≤ 0x4F) && imm) || (op == 0x53 && !fp32))
    c := kindVector sh.c
    at_ := tensor && sh.x.contains (31, 30)
    bt := tensor && sh.x.contains (29, 26) }

/-- The reads of 06 and 09 for an opcode. -/
def tableReads (op : Nat) (imm fp32 : Bool) : Reads :=
  { d := vectorD op
    a := vectorA op
    b := within op [(0x40, 0x47), (0x4A, 0x4C), (0x50, 0x51), (0x5A, 0x5A), (0x5E, 0x5E), (0x69, 0x69)]
      || (within op [(0x4D, 0x4F)] && !imm) || (op == 0x53 && fp32)
    c := vectorC op
    at_ := readsAT op
    bt := readsBT op }

/-- An instruction whose shape gives the reads of its opcode. -/
def ReadsAs (op : Nat) (i : Instr) : Prop := ∃ sh, i.shape = some sh ∧ ∀ imm fp32, shapeReads sh op imm fp32 = tableReads op imm fp32

theorem row4_reads {lo : Nat} {w : Word} {i : Instr} (hi : pickRow4 lo w = some i) : ReadsAs (0x40 + lo) i := by
  unfold pickRow4 at hi
  split at hi
  all_goals cases hi
  all_goals exact ⟨_, rfl, by intro imm fp32; cases imm <;> cases fp32 <;> rfl⟩

theorem row5_reads {lo : Nat} {w : Word} {i : Instr} (hi : pickRow5 lo w = some i) (h : bodyAllowed (0x50 + lo) = true) :
    ReadsAs (0x50 + lo) i := by
  unfold pickRow5 at hi
  split at hi
  case h_16 => exact absurd h (by decide)
  all_goals cases hi
  all_goals exact ⟨_, rfl, by intro imm fp32; cases imm <;> cases fp32 <;> rfl⟩

theorem row6_reads {lo : Nat} {w : Word} {i : Instr} (hi : pickRow6 lo w = some i) (h : bodyAllowed (0x60 + lo) = true) :
    ReadsAs (0x60 + lo) i := by
  unfold pickRow6 at hi
  split at hi
  case h_7 | h_8 => exact absurd h (by decide)
  all_goals cases hi
  all_goals exact ⟨_, rfl, by intro imm fp32; cases imm <;> cases fp32 <;> rfl⟩

theorem row9_reads {lo : Nat} {w : Word} {i : Instr} (hi : pickRow9 lo w = some i) (h : bodyAllowed (0x90 + lo) = true) :
    ReadsAs (0x90 + lo) i := by
  unfold pickRow9 at hi
  dsimp only at hi
  split at hi
  case h_6 => exact absurd h (by decide)
  all_goals repeat' split at hi
  all_goals cases hi
  all_goals exact ⟨_, rfl, by intro imm fp32; cases imm <;> cases fp32 <;> rfl⟩

theorem rowA_reads {lo : Nat} {w : Word} {i : Instr} (hi : pickRowA lo w = some i) (h : lo = 3 ∨ lo = 4) : ReadsAs (0xA0 + lo) i := by
  rcases h with rfl | rfl
  all_goals cases hi
  all_goals exact ⟨_, rfl, by intro imm fp32; cases imm <;> cases fp32 <;> rfl⟩

/-- A body word reads what its opcode says. -/
theorem body_reads {w : Word} {i : Instr} (hi : pickInstr w = some i) (h : bodyAllowed (bitsOf w 56 8) = true) :
    ReadsAs (bitsOf w 56 8) i := by
  rw [Sys2Proof.Proofs.pickInstr_eq_pickRow, toNat_extractLsb'_eq_bitsOf] at hi
  generalize bitsOf w 56 8 = op at hi h
  have hdigits : op = op / 16 * 16 + op % 16 := by omega
  have hrow : op / 16 = 4 ∨ op / 16 = 5 ∨ op / 16 = 6 ∨ op / 16 = 9 ∨ op / 16 = 10 ∧ (op % 16 = 3 ∨ op % 16 = 4) := by
    simp only [bodyAllowed, Bool.or_eq_true, Bool.and_eq_true, decide_eq_true_eq, beq_iff_eq] at h
    omega
  rcases hrow with hr | hr | hr | hr | ⟨hr, hlo⟩ <;> rw [hr] at hi hdigits <;> rw [hdigits] at h ⊢
  · exact row4_reads hi
  · exact row5_reads hi h
  · exact row6_reads hi h
  · exact row9_reads hi h
  · exact rowA_reads hi hlo

/-- The reads of a body word. -/
def wordReads (w : Word) : Reads := tableReads (bitsOf w 56 8) (w.getLsbD 19) (bitsOf w 20 4 == 8)

/-- The adjusted body word is the word with the fields that its opcode reads moved. -/
theorem strideWord_eq_moved (rpt : Word) {w : Word} {i : Instr} (k : Nat) (hi : pickInstr w = some i)
    (h : bodyAllowed (bitsOf w 56 8) = true) : strideWord rpt w k = moved rpt w k (wordReads w) := by
  obtain ⟨sh, hsh, hreads⟩ := body_reads hi h
  rw [wordReads, ← hreads]
  unfold strideWord
  simp only [hi, Option.bind_some, hsh]
  simp (disch := omega) only [moved, regsMoved, shapeReads, readsB, bne, ← putIf_def, bitsOf_putIf_beside, bitsOf_strideReg_beside,
    getLsbD_strideReg_beside]

theorem next_eq_moved {r : Rpt} {w : Word} {i : Nat} (hw : w = r.words.getD r.idx 0) (hallowed : bodyAllowed (bitsOf w 56 8) = true)
    (hpick : (pickInstr w).isSome = true) (hcount : i + r.left + 1 = rptCnt r.word) : r.next = moved r.word w i (wordReads w) := by
  obtain ⟨ins, hins⟩ := Option.isSome_iff_exists.1 hpick
  rw [Rpt.next, ← hw, show rptCnt r.word - 1 - r.left = i by omega, strideWord_eq_moved _ _ hins hallowed]

end Sys2Proof.Machine

namespace Sys2Proof.Proofs
open Sys2Proof.Machine Sys2Proof.Claims

theorem rptFillsTheRepeatBuffer : RptFillsTheRepeatBuffer := by
  intro x s words h hr hbody
  obtain ⟨hwords, hall⟩ := hbody
  have hstart : (s.me.pc + 8).toNat * 2 ^ 16 / 2 ^ 16 % 2 ^ 16 = (s.me.pc + 8).toNat := by
    have := (s.me.pc + 8).isLt
    omega
  rw [hstart] at hwords hall
  have hfetch := bodyWords_ok fetchWord _ (s.me.pc + 8).toNat hall
  rw [← hwords] at hfetch
  change execRpt x s = _
  unfold execRpt
  refine issue_goto h hr ?_ (Near.set s _) h.2.2.1
  exact (op_bind_ok (getMe_run s)).trans ((op_bind_ok hfetch).trans (op_bind_ok (modMe_run _ s)))

theorem repeatBufferOrder : RepeatBufferOrder := by
  refine ⟨fun r h => if_pos h, fun r h h0 => ?_, fun r h h0 => ?_, fun r w i op hw hop hallowed hpick hcount => ?_,
    fun s lid rest r i hsched hi he hr hd => ?_⟩
  · rw [Rpt.advance, if_neg (Nat.not_lt.2 h), if_pos h0]
  · rw [Rpt.advance, if_neg (Nat.not_lt.2 h), if_neg h0]
  · subst hop
    rw [next_eq_moved hw hallowed hpick hcount]
    exact ⟨fun p hp => bitsOf_moved_reg _ _ _ (wordReads w) p hp, bitsOf_moved_at _ _ _ _, bitsOf_moved_bt _ _ _ _,
      fun k hk => getLsbD_moved_beside _ _ _ _ hk⟩
  · rw [step_of_sched hsched, stepMove, stepRpt_run (s := s.tick) hi he hr hd, State.running, tick_of_sched hsched]

/-- Settles O44: the fill is an induction over the words, the strides move one field after another, none beside its own. -/
theorem repeatBufferRuns : Obligations.RepeatBufferRuns := ⟨rptFillsTheRepeatBuffer, repeatBufferOrder⟩

end Sys2Proof.Proofs
end

section
/-! PROOFS. The events of a core (05 R163-R165, R169, R191; 08 R285): the end of a wait that has reached its limit, the two sources of
tasks in their turn, the acceptance of a message, and the end of a wait.until. -/

namespace Sys2Proof.Machine
open Sys2Proof.Claims

/-! ## What a trap of another core leaves -/

@[simp] theorem withdrawRequests_core (s : State) (l k : Nat) : (s.withdrawRequests l).core k = s.core k := by
  unfold State.withdrawRequests
  dsimp only
  repeat' split
  all_goals rfl

theorem gatherFault_core (s : State) (r : Region) (l : Nat) (f : FaultInfo) (k : Nat) : (gatherFault s r l f).core k = s.core k := by
  unfold gatherFault
  split
  · exact (apply_ite (State.core · k) _ _ _).trans (ite_self _)
  · exact (apply_ite (State.core · k) _ _ _).trans (ite_self _)
  · rfl

theorem freezeAt_core_ne {s : State} {l k : Nat} (f : FaultInfo) (h : k ≠ l) : (freezeAt s l f).core k = s.core k := by
  unfold freezeAt
  dsimp only
  rw [State.core_setCore_ne _ h]
  split
  · exact gatherFault_core _ _ _ _ _
  · rfl

theorem leaveScalar_core_ne {s : State} {l k : Nat} (pc : BitVec 16) (h : k ≠ l) : (s.leaveScalar l pc).core k = s.core k := by
  unfold State.leaveScalar
  dsimp only
  split
  · rw [State.core_setCore_ne _ h, withdrawRequests_core]
  · rfl

theorem takeTrap_core_ne {s : State} {l k : Nat} (t : TrapInfo) (pc : BitVec 16) (b : Bool) (w : Word) (h : k ≠ l) :
    (takeTrap s l t pc b w).core k = s.core k := by
  unfold takeTrap
  dsimp only
  split
  · exact freezeAt_core_ne _ h
  · rw [State.core_setCore_ne _ h, leaveScalar_core_ne _ h]

theorem gangTrap_core_ne {s : State} {l k : Nat} (val : Word) (h : k ≠ l) : (gangTrap val s l).core k = s.core k := by
  unfold gangTrap
  dsimp only
  rw [takeTrap_core_ne _ _ _ _ h, State.core_setCore_ne _ h]

theorem gangTraps_core {ls : List Nat} {k : Nat} (val : Word) (h : k ∉ ls) (s : State) :
    (ls.foldl (gangTrap val) s).core k = s.core k := by
  induction ls generalizing s with
  | nil => rfl
  | cons l ls ih =>
    simp only [List.mem_cons, not_or] at h
    rw [List.foldl_cons, ih h.2, gangTrap_core_ne val h.1]

/-- The head of a gang is no other member of it. -/
theorem gangOthersTrap_core (s : State) (lid i : Nat) : (gangOthersTrap s lid i).core lid = s.core lid := by
  have hother : lid ∉ gangOthers s lid := by
    unfold gangOthers
    dsimp only
    split
    · simp
    · simp
  unfold gangOthersTrap
  split
  · exact gangTraps_core _ hother s
  · rfl

/-! ## The end of a wait -/

/-- The core without what its waiting instruction had put into other units. -/
def withdrawn (c : Core) : Core :=
  { c with tensor := { c.tensor with join := none, gangOp := none }, router := { c.router with rtsetWait := none }, answer := none }

theorem withdraw_core (s : State) (lid : Nat) : (s.withdraw lid false).core lid = withdrawn (s.core lid) := by
  unfold State.withdraw
  dsimp only
  rw [if_neg Bool.false_ne_true, withdrawRequests_core, State.core_setCore_self]
  rfl

/-- A wait of the scalar port ends with the trap of the word at the PC. -/
theorem timeoutAt_core {s : State} {lid : Nat} (w : Wait) (hs : (s.core lid).spec = none) (hh : HandlesTraps (s.core lid)) :
    (timeoutAt s lid false w).core lid = trapped (withdrawn (s.core lid)) causeTimeout w.val 0 (s.core lid).pc := by
  unfold timeoutAt
  rw [Bool.false_and]
  generalize hs1 : (if gangStepWait w.val then gangOthersTrap s lid (bitsOf w.val 24 6) else s) = s1
  have hcore1 : s1.core lid = s.core lid := by
    rw [← hs1]
    split
    · exact gangOthersTrap_core _ _ _
    · rfl
  have hcore : (s1.withdraw lid false).core lid = withdrawn (s.core lid) := by rw [withdraw_core, hcore1]
  have hspec : ((s1.withdraw lid false).core lid).spec = none := by rw [hcore]; exact hs
  have hfatal : trapFatal ((s1.withdraw lid false).core lid) causeTimeout = false := by
    obtain ⟨hvec, hin⟩ := hh
    rw [hcore]
    simp [trapFatal, withdrawn, hvec, hin, causeTimeout, causeConfigUe, causeSoftError]
  dsimp only
  rw [hspec]
  dsimp only
  rw [takeTrap_handler hfatal, show ((s1.withdraw lid false).core lid).execPc false = ((s1.withdraw lid false).core lid).pc from rfl,
    leaveScalar_pc, State.core_setCore_self, enterTrap_eq_trapped_sub, hcore]
  rfl

theorem expired_of_waitedOut {s : State} {lid : Nat} {w : Wait} (h : WaitedOut s lid w) : s.expired lid w = true := by
  obtain ⟨htimed, hans, hgroup, hlimit⟩ := h
  unfold State.expired
  simp only [htimed, hans, Option.isNone_none, Bool.true_and, Bool.and_eq_true, Bool.not_eq_true', decide_eq_true_eq]
  refine ⟨?_, hlimit⟩
  cases h7 : bitsOf w.val 0 4 == 7 with
  | false => rfl
  | true =>
    rw [Bool.true_and]
    split
    · next n g hg => exact hgroup (beq_iff_eq.1 h7) n g hg
    · rfl

/-! ## Tasks appended -/

/-- An appended task stands behind the others, and starts where there is none. -/
theorem appendTask_spec (c : Core) (t : Task) :
    ∃ pc prv ras rasSp, c.appendTask t = { c with runq := c.runq ++ [t], pc, prv, ras, rasSp }
      ∧ (c.runq ≠ [] → pc = c.pc) ∧ (c.runq = [] → pc = t.entry) := by
  unfold Core.appendTask
  by_cases hq : c.runq = []
  · refine ⟨t.entry, false, [], c.rasFloor.setWidth 22, ?_, fun h => absurd hq h, fun _ => rfl⟩
    rw [hq]
    rfl
  · have hempty : c.runq.isEmpty = false := by simpa using hq
    refine ⟨c.pc, c.prv, c.ras, c.rasSp, ?_, fun _ => rfl, fun h => absurd h hq⟩
    rw [hempty]
    rfl

/-- The entry that moves to the end of the order stands in its last nibble. -/
theorem bitsOf_rotateOrder (order : Word) {i : Nat} (hi : i < 16) : bitsOf (rotateOrder order i) 60 4 = bitsOf order (4 * i) 4 := by
  have hn : bitsOf order (4 * i) 4 < 16 := Nat.mod_lt _ (by decide)
  have hsplit : (2 : Nat) ^ (4 * i) * 2 ^ (60 - 4 * i) = 2 ^ 60 := by rw [← Nat.pow_add]; congr 1; omega
  have hlo : order.toNat % 2 ^ (4 * i) < 2 ^ (4 * i) := Nat.mod_lt _ (Nat.two_pow_pos _)
  have hhi : order.toNat / 2 ^ (4 * i + 4) < 2 ^ (60 - 4 * i) := by
    rw [Nat.div_lt_iff_lt_mul (Nat.two_pow_pos _), ← Nat.pow_add]
    exact order.isLt.trans_le (Nat.pow_le_pow_right (by decide) (by omega))
  have hbelow : order.toNat % 2 ^ (4 * i) + order.toNat / 2 ^ (4 * i + 4) * 2 ^ (4 * i) < 2 ^ 60 := by
    calc order.toNat % 2 ^ (4 * i) + order.toNat / 2 ^ (4 * i + 4) * 2 ^ (4 * i)
        < 2 ^ (4 * i) * (order.toNat / 2 ^ (4 * i + 4) + 1) := by rw [Nat.mul_add, Nat.mul_comm (2 ^ (4 * i)) (_ / _)]; omega
      _ ≤ 2 ^ (4 * i) * 2 ^ (60 - 4 * i) := Nat.mul_le_mul_left _ hhi
      _ = 2 ^ 60 := hsplit
  unfold rotateOrder
  dsimp only
  generalize order.toNat % 2 ^ (4 * i) + order.toNat / 2 ^ (4 * i + 4) * 2 ^ (4 * i) = low at hbelow
  generalize bitsOf order (4 * i) 4 = n at hn
  rw [bitsOf, BitVec.toNat_ofNat]
  omega

theorem firstReady_eq {c : Core} {i : Nat} (hi : i < 16) (hready : c.ready (c.trigAt i) = true)
    (hfirst : ∀ j < i, c.ready (c.trigAt j) = false) : c.firstReady = some i :=
  List.find?_range_eq_some.2 ⟨hready, List.mem_range.2 hi, fun j hj => by simp [hfirst j hj]⟩

theorem freeSlot_eq {c : Core} {k : Nat} (hk : k < 16) (hfree : Table.find c.inbox k = none)
    (hlow : ∀ j < k, Table.find c.inbox j ≠ none) : c.freeSlot = some k :=
  List.find?_range_eq_some.2 ⟨by simp [hfree], List.mem_range.2 hk, fun j hj => by simpa using Option.ne_none_iff_isSome.1 (hlow j hj)⟩

/-! ## Flits consumed apart from instructions -/

/-- What is consumed raises EXC, is noted in EXLOG, and drops the words fetched ahead. -/
theorem consumeNow_spec (c : Core) (f : Flit) (n p : Nat) :
    ∃ exlog fpFlags oldWords, c.consumeNow f n p = { c with router := { c.router with exlog }, fpFlags, oldWords }
      ∧ fpFlags.getLsbD 6 = (c.fpFlags.getLsbD 6 || f.exc) := by
  unfold Core.consumeNow
  cases hexc : f.exc <;> cases hrel : f.rel
  · exact ⟨_, _, _, rfl, by simp⟩
  · exact ⟨_, _, _, rfl, by simp⟩
  · exact ⟨_, _, _, rfl, by simp [flagEXC]⟩
  · exact ⟨_, _, _, rfl, by simp [flagEXC]⟩

theorem consumedNow_spec (fs : List Flit) (c : Core) (n p : Nat) :
    ∃ exlog fpFlags oldWords, fs.foldl (fun c f => c.consumeNow f n p) c = { c with router := { c.router with exlog }, fpFlags, oldWords }
      ∧ fpFlags.getLsbD 6 = (c.fpFlags.getLsbD 6 || fs.any (·.exc)) := by
  induction fs generalizing c with
  | nil => exact ⟨_, _, _, rfl, by simp⟩
  | cons f fs ih =>
    obtain ⟨ex1, ff1, ow1, h1, hexc1⟩ := consumeNow_spec c f n p
    obtain ⟨ex2, ff2, ow2, h2, hexc2⟩ := ih (c.consumeNow f n p)
    refine ⟨ex2, ff2, ow2, ?_, ?_⟩
    · rw [List.foldl_cons, h2, h1]
    · rw [hexc2, h1, hexc1, List.any_cons, Bool.or_assoc]

end Sys2Proof.Machine

namespace Sys2Proof.Proofs
open Sys2Proof.Machine Sys2Proof.Claims

theorem waitTimeoutTraps : WaitTimeoutTraps := by
  intro lid s c w hlid hruns hc hs hm hrpt hw hout hh
  subst hc
  have htimeout : timeout s lid = timeoutAt s lid false w := by
    have hexp := expired_of_waitedOut hout
    unfold timeout
    simp only [hrpt, hw, Option.filter_none, Option.filter_some, hexp, if_true, hm, Bool.false_eq_true, if_false]
  refine ⟨timeoutAt s lid false w, ?_, ?_⟩
  · change execWaitTimeout lid s = _
    rw [execWaitTimeout, if_neg (Nat.not_le.2 hlid), hruns, if_pos rfl, htimeout]
  · rw [timeoutAt_core w hs hh]
    exact ⟨rfl, rfl, rfl, rfl, rfl, rfl, rfl, rfl, rfl, rfl⟩

/-- The core whose entry at position i fires, its task apart. -/
def firing (c : Core) (i : Nat) : Core :=
  let n := c.trigAt i
  let w0 := c.trigWord n 0
  let w1 := c.trigWord n 1
  { c with
    trigBusy := putBits c.trigBusy n 1 1
    lastSource := some true
    trig := if w0.getLsbD 60 then Table.set 0 (2 * n + 1) (putBits w1 16 16 (bitsOf w1 16 16 + 1)) c.trig else c.trig
    trigOrder := if w0.getLsbD 62 then rotateOrder c.trigOrder i else c.trigOrder }

theorem fire_eq (c : Core) (i : Nat) : c.fire i = (firing c i).appendTask
    { entry := (c.trigWord (c.trigAt i) 0).setWidth 16, origin := BitVec.ofNat 6 (c.trigAt i), m0 := 0 } := rfl

theorem triggerFire_fires {lid : Nat} {s : State} {c : Core} {i n : Nat} (hlid : lid < coreCount) (hpicks : s.picks lid = true)
    (hc : c = s.core lid) (hi : i < 16) (hn : n = c.trigAt i) (hready : c.ready n = true)
    (hfirst : ∀ j < i, c.ready (c.trigAt j) = false) (hturn : c.unbound = [] ∨ c.lastSource ≠ some true) :
    exec (.triggerFire lid) s = .next (s.setCore lid (c.fire i)) := by
  subst hc hn
  have hmay : (s.core lid).unbound.isEmpty || (s.core lid).lastSource != some true := by
    simpa [List.isEmpty_iff] using hturn
  change execTriggerFire lid s = _
  rw [execTriggerFire, if_neg (Nat.not_le.2 hlid)]
  simp only [firstReady_eq hi hready hfirst, hpicks, hmay, Bool.and_self, if_true]

theorem inboxTaskCreate_binds {lid : Nat} {s : State} {c : Core} {k : Nat} {rest : List Nat} (hlid : lid < coreCount)
    (hpicks : s.picks lid = true) (hc : c = s.core lid) (hk : c.unbound = k :: rest)
    (hturn : c.firstReady = none ∨ c.lastSource = some true) :
    exec (.inboxTaskCreate lid) s = .next (s.setCore lid (c.bindMessage k rest)) := by
  subst hc
  have hmay : (s.core lid).firstReady.isNone || (s.core lid).lastSource == some true := by
    simpa using hturn
  change execInboxTaskCreate lid s = _
  rw [execInboxTaskCreate, if_neg (Nat.not_le.2 hlid)]
  simp only [hk, hpicks, hmay, Bool.and_self, if_true]

/-- The core with a message in a slot of its inbox. -/
def messageIn (c : Core) (k : Nat) (h a b d : Flit) : Core :=
  { c with
    router := { c.router with asm := [] }
    inbox := Table.put k { hdr := h.payload.setWidth 64, words := [a, b, d].flatMap fun f =>
      [f.payload.setWidth 64, f.payload.extractLsb' 64 64] } c.inbox
    unbound := c.unbound ++ [k] }

theorem inboxAccept_accepts {lid : Nat} {s : State} {c : Core} {h a b d : Flit} {k : Nat} (hlid : lid < coreCount)
    (hlive : s.coreLive lid = true) (hc : c = s.core lid) (hcl : c.live = true) (hno : c.noTasks = false)
    (hasm : c.router.asm = [h, a, b, d]) (hslot : c.freeSlot = some k) :
    exec (.inboxAccept lid) s
      = .next (s.setCore lid ([h, a, b, d].foldl (fun c f => c.consumeNow f 0 2) (messageIn c k h a b d))) := by
  subst hc
  change execInboxAccept lid s = _
  rw [execInboxAccept, if_neg (Nat.not_le.2 hlid)]
  have hmay : (s.coreLive lid && (s.core lid).live && !(s.core lid).noTasks) = true := by rw [hlive, hcl, hno]; rfl
  simp only [hasm, hslot, if_pos hmay]
  simp only [Nat.mul_zero, Nat.mul_one, ← BitVec.setWidth_eq_extractLsb' (show 64 ≤ 128 by decide)]
  rfl

theorem taskEventsHappen : TaskEventsHappen := by
  refine ⟨fun lid s c i n hlid hpicks hc hi hn hready hfirst hturn => ?_, fun lid s c k rest m hlid hpicks hc hk hm hturn => ?_,
    fun lid s c h a b d k hlid hlive hc hcl hno hasm hk hfree hlow => ?_,
    fun lid s s1 x a c1 c2 hlid hissue hwait hd hs1 hI ha ht hw => ?_⟩
  · refine ⟨c.fire i, triggerFire_fires hlid hpicks hc hi hn hready hfirst hturn, ?_⟩
    subst hn
    obtain ⟨pc, prv, ras, rasSp, heq, hstay, hstart⟩ := appendTask_spec (firing c i)
      { entry := (c.trigWord (c.trigAt i) 0).setWidth 16, origin := BitVec.ofNat 6 (c.trigAt i), m0 := 0 }
    rw [fire_eq, heq]
    refine ⟨rfl, rfl, rfl, rfl, rfl, fun h => if_neg (Bool.eq_false_iff.1 h), fun h => ?_, hstay, hstart⟩
    exact (congrArg (bitsOf · 60 4) (if_pos h)).trans (bitsOf_rotateOrder _ hi)
  · refine ⟨c.bindMessage k rest, inboxTaskCreate_binds hlid hpicks hc hk hturn, ?_⟩
    obtain ⟨pc, prv, ras, rasSp, heq, -⟩ := appendTask_spec { c with unbound := rest, lastSource := some false }
      { entry := m.hdr.setWidth 16, origin := BitVec.ofNat 6 (16 + k), m0 := 0 }
    rw [Core.bindMessage, hm]
    dsimp only [Option.map_some, Option.getD_some]
    rw [heq]
    exact ⟨rfl, rfl, rfl, rfl, rfl⟩
  · refine ⟨_, inboxAccept_accepts hlid hlive hc hcl hno hasm (freeSlot_eq hk hfree hlow), ?_⟩
    obtain ⟨exlog, fpFlags, oldWords, heq, hexc⟩ := consumedNow_spec [h, a, b, d] (messageIn c k h a b d) 0 2
    rw [heq]
    exact ⟨Table.find_put_self _ _ _, rfl, rfl, rfl, rfl, hexc⟩
  · subst hs1
    change execWaitUntilCycleReached lid s = _
    rw [execWaitUntilCycleReached, if_neg (Nat.not_le.2 hlid)]
    simp only [hd, hissue, hwait, Bool.and_self, if_true]
    exact waitUntil_ok hI ha ht hw

/-- Settles O54: a wait ends in the trap of its own word, the picker's two sources take turns, a message enters the lowest free slot,
and a wait.until executes again. -/
theorem coreEventsHappen : Obligations.CoreEventsHappen := ⟨waitTimeoutTraps, taskEventsHappen⟩

end Sys2Proof.Proofs
end

section
/-! PROOFS. The reset state (05 R152, R155, R160, R162; 06 R196; 08 R269, R284; 14 R439; 15 R462). -/

namespace Sys2Proof.Proofs
open Sys2Proof.Machine Sys2Proof.Claims

/-- No table of the reset state lists an entry, so each core is the reset core. -/
theorem core_reset (lid : Nat) : State.reset.core lid = Core.reset := rfl

theorem reg_reset (n : Nat) : Core.reset.reg n = 0 := ite_self _

theorem vreg_reset (n : Nat) : Core.reset.vreg n = 0 := rfl

/-- No memory lists a byte. -/
theorem memOk_reset : State.reset.MemOk := ⟨rfl, rfl, fun _ => rfl, fun _ h => absurd h List.not_mem_nil⟩

/-- Settles O26: the tables are empty, so a register, an accumulator and a memory read as their defaults; the flags and the control
registers of core 0 are evaluated. -/
theorem resetStateHoldsTheResetValues : Obligations.ResetStateHoldsTheResetValues := by
  refine ⟨fun lid n => ⟨?_, ?_⟩, fun _ _ _ => ?_, by decide, by decide, rfl, rfl, rfl, memOk_reset⟩
  · rw [core_reset, reg_reset]
  · rw [core_reset, vreg_reset]
  · rfl

end Sys2Proof.Proofs
end

section
/-! PROOFS. The operands of a lane instruction (06 R198-R203): a vector field that is read, and one that takes a result once its flags
are raised. -/

namespace Sys2Proof.Machine
open Sys2Proof.Claims

/-! ## Computations that leave the state -/

/-- A loop whose rounds all pass and change nothing. -/
theorem forIn_pass {α : Type} {xs : List α} {f : α → PUnit → Op (ForInStep PUnit)} {s : State}
    (h : ∀ a ∈ xs, (f a ⟨⟩).run s = .ok (.yield ⟨⟩) s) : (forIn xs ⟨⟩ f).run s = .ok ⟨⟩ s := by
  induction xs with
  | nil => rw [List.forIn_nil, op_pure]
  | cons a xs ih =>
    rw [List.forIn_cons, op_bind_ok (h a List.mem_cons_self)]
    exact ih fun b hb => h b (List.mem_cons_of_mem a hb)

/-! ## A vector field that is read (06 R202) -/

theorem consume_inq (c : Core) (f : Flit) (n p : Nat) : (c.consume f n p).router.inq = c.router.inq := by
  unfold Core.consume
  cases f.exc <;> cases f.rel <;> simp only [if_true, if_false, Bool.false_eq_true]

theorem consume_queue (c : Core) (f : Flit) (n p m : Nat) : (c.consume f n p).queue m = c.queue m := by
  rw [Core.queue, consume_inq, ← Core.queue]

theorem popped_queue (c : Core) (n : Nat) (f : Flit) (rest : List Flit) : (c.popped n f rest).queue n = rest := by
  rw [Core.popped, consume_queue]
  exact Table.get_set_self [] n rest c.router.inq

theorem checkData_ok {s : State} {f : Flit} {n : Nat} (hhalf : s.me.half.getLsbD n = false) (hkind : f.kind = 0) :
    (checkData f n).run s = .ok () s := by
  unfold checkData
  rw [op_bind_ok (getMe_run s), hhalf, hkind]
  rfl

theorem checkFmt_ok {s : State} {f : Flit} {n : Nat} {accepts : Nat → Bool} (hfmt : accepts f.fmt = true)
    (htec : isBx f.fmt = true → bxTec f.fmt = s.me.tec) : (checkFmt f n accepts).run s = .ok () s := by
  have hmode : (isBx f.fmt && bxTec f.fmt != s.me.tec) = false := by
    cases hbx : isBx f.fmt with
    | false => rfl
    | true => simp [htec hbx]
  unfold checkFmt
  simp only [hfmt, Bool.not_true, Bool.false_eq_true, if_false]
  rw [op_bind_ok (getMe_run s), hmode]
  rfl

theorem popHead_near {s s1 : State} {c : Core} {n : Nat} {f : Flit} {rest : List Flit} (hn : Near s s1 c)
    (hq : c.queue n = f :: rest) : ∃ s2, (popHead n 0).run s1 = .ok () s2 ∧ Near s s2 (c.popped n f rest) := by
  rw [popHead_run (by rw [hn.1]; exact hq), hn.1]
  exact ⟨_, rfl, hn.setMe _⟩

/-- The checks of both flits, then both pops. -/
theorem popVector_near {s s1 : State} {c : Core} {n : Nat} {bx : Bool} {f g : Flit} {rest : List Flit} (hn : Near s s1 c)
    (hq : c.queue n = f :: g :: rest) (hhalf : c.half.getLsbD n = false) (hflits : ∀ h ∈ [f, g], vectorFlit c bx h = true) :
    ∃ s2, (popVector n bx).run s1 = .ok (g.payload ++ f.payload, if bx then halfTagOf g ++ halfTagOf f else 0) s2
      ∧ Near s s2 ((c.popped n f (g :: rest)).popped n g rest) := by
  obtain ⟨s2, e2, n2⟩ := popHead_near hn hq
  obtain ⟨s3, e3, n3⟩ := popHead_near n2 (popped_queue c n f (g :: rest))
  refine ⟨s3, ?_, n3⟩
  unfold popVector
  rw [op_bind_ok (getMe_run s1), hn.1, hq]
  refine (op_bind_ok (forIn_pass fun h hh => ?_)).trans ((op_bind_ok e2).trans ((op_bind_ok e3).trans rfl))
  have hflit := hflits h hh
  simp only [vectorFlit, Bool.and_eq_true, Bool.or_eq_true, beq_iff_eq, Bool.not_eq_true'] at hflit
  obtain ⟨⟨hkind, hfmt⟩, htec⟩ := hflit
  refine (op_bind_ok (checkData_ok (by rw [hn.1]; exact hhalf) hkind)).trans ((op_bind_ok (checkFmt_ok hfmt fun hbx => ?_)).trans rfl)
  rw [hn.1]
  exact htec.resolve_left (by rw [hbx]; decide)

/-- What a vector field that can be read is: a register, or a queue with two flits that both pass their checks. -/
theorem vectorRead_cases {c c' : Core} {r : BitVec 5} {bx : Bool} {v : Vec} {t : BitVec 72}
    (h : vectorRead c r bx = some (v, t, c')) :
    (r.toNat < 24 ∧ v = c.vreg r.toNat ∧ t = c.vtag r.toNat ∧ c' = c) ∨
    (¬r.toNat < 24 ∧ ∃ f g rest, c.queue (r.toNat - 24) = f :: g :: rest ∧ c.half.getLsbD (r.toNat - 24) = false
      ∧ (∀ h ∈ [f, g], vectorFlit c bx h = true) ∧ v = g.payload ++ f.payload
      ∧ t = (if bx then halfTagOf g ++ halfTagOf f else 0)
      ∧ c' = (c.popped (r.toNat - 24) f (g :: rest)).popped (r.toNat - 24) g rest) := by
  unfold vectorRead at h
  split at h
  · next hr => cases h; exact .inl ⟨hr, rfl, rfl, rfl⟩
  · next hr =>
    dsimp only at h
    split at h
    · next f g rest hq =>
      split at h
      · next hok =>
        cases h
        simp only [Bool.and_eq_true, Bool.not_eq_true'] at hok
        exact .inr ⟨hr, f, g, rest, hq, hok.1.1, by simpa using ⟨hok.1.2, hok.2⟩, rfl, rfl, rfl⟩
      · cases h
    · cases h

/-- A vector read delivers what the field delivers, and leaves the core that the field leaves. -/
theorem readV_near {s s1 : State} {c c' : Core} {r : BitVec 5} {bx : Bool} {v : Vec} {t : BitVec 72} (hn : Near s s1 c)
    (h : vectorRead c r bx = some (v, t, c')) : ∃ s2, (readV r bx).run s1 = .ok (v, t) s2 ∧ Near s s2 c' := by
  unfold readV
  rcases vectorRead_cases h with ⟨hr, rfl, rfl, rfl⟩ | ⟨hr, f, g, rest, hq, hhalf, hflits, rfl, rfl, rfl⟩
  · rw [if_pos hr, op_bind_ok (getMe_run s1), hn.1]
    exact ⟨s1, rfl, hn⟩
  · rw [if_neg hr]
    exact popVector_near hn hq hhalf hflits

theorem vectorRead_sameStore {c c' : Core} {r : BitVec 5} {bx : Bool} {v : Vec} {t : BitVec 72}
    (h : vectorRead c r bx = some (v, t, c')) (hs : c.spec = none) : c.SameStore c' := by
  rcases vectorRead_cases h with ⟨_, _, _, rfl⟩ | ⟨_, f, g, rest, _, _, _, _, _, rfl⟩
  · exact .refl _
  · have hfirst := popped_sameStore (r.toNat - 24) f (g :: rest) hs
    exact hfirst.trans (popped_sameStore _ g rest (hfirst.spec.trans hs))

theorem vectorRead_spec {c c' : Core} {r : BitVec 5} {bx : Bool} {v : Vec} {t : BitVec 72}
    (h : vectorRead c r bx = some (v, t, c')) (hs : c.spec = none) : c'.spec = none :=
  (vectorRead_sameStore h hs).spec.trans hs

/-- A source that the instruction has is read, another delivers 0. -/
theorem readIf_near {s s1 : State} {c c' : Core} {has : Bool} {r : BitVec 5} {v : Vec} (hn : Near s s1 c)
    (h : vectorReadIf has c r = some (v, c')) : ∃ s2, (readIf has r).run s1 = .ok v s2 ∧ Near s s2 c' := by
  cases has with
  | false => cases h; exact ⟨s1, rfl, hn⟩
  | true =>
    obtain ⟨⟨v, t, c'⟩, hv, he⟩ := Option.map_eq_some_iff.1 h
    cases he
    obtain ⟨s2, e2, n2⟩ := readV_near hn hv
    exact ⟨s2, op_bind_ok e2, n2⟩

theorem vectorReadIf_spec {c c' : Core} {has : Bool} {r : BitVec 5} {v : Vec} (h : vectorReadIf has c r = some (v, c'))
    (hs : c.spec = none) : c'.spec = none := by
  cases has with
  | false => cases h; exact hs
  | true =>
    obtain ⟨⟨v, t, c'⟩, hv, he⟩ := Option.map_eq_some_iff.1 h
    cases he
    exact vectorRead_spec hv hs

/-! ## A vector field that is written (06 R198, R203) -/

/-- What a vector field that takes a result is: a register, or a queue into which two flits can be pushed, of BX codes where they go
under their tags. -/
theorem vectorWrite_cases {c c' : Core} {r : BitVec 5} {v : Vec} {tags : BitVec 72} {fmt : Option Nat}
    (h : vectorWrite c r v tags fmt = some c') :
    (r.toNat < 24 ∧ c' = c.setVreg r.toNat v tags) ∨
    (¬r.toNat < 24 ∧ c.canPush (r.toNat - 24) 2 = true
      ∧ (fmt = none → isBx (bitsOf tags 32 4) = true ∧ isBx (bitsOf tags 68 4) = true)
      ∧ c' = c.pushed (vectorFlits c (r.toNat - 24) v tags fmt)) := by
  unfold vectorWrite at h
  split at h
  · next hr => cases h; exact .inl ⟨hr, rfl⟩
  · next hr =>
    dsimp only at h
    split at h
    · next hok =>
      cases h
      rw [Bool.and_eq_true] at hok
      refine .inr ⟨hr, hok.1, fun hf => ?_, rfl⟩
      simpa [hf] using hok.2
    · cases h

theorem vectorWrite_spec {c c' : Core} {r : BitVec 5} {v : Vec} {tags : BitVec 72} {fmt : Option Nat}
    (h : vectorWrite c r v tags fmt = some c') (hs : c.spec = none) : c'.spec = none := by
  rcases vectorWrite_cases h with ⟨_, rfl⟩ | ⟨_, _, _, rfl⟩
  · exact hs
  · exact hs

theorem canPush_of_vectorWrite {c c' : Core} {r : BitVec 5} {v : Vec} {tags : BitVec 72} {fmt : Option Nat}
    (h : vectorWrite c r v tags fmt = some c') (hr : 24 ≤ r.toNat) : c.canPush (r.toNat - 24) 2 = true := by
  rcases vectorWrite_cases h with ⟨hlt, _⟩ | ⟨_, hpush, _⟩
  · exact absurd hr (Nat.not_le.2 hlt)
  · exact hpush

/-- SCALE of a BX flit: its first block's scale word alone but for BX4 (02 R53). -/
theorem bxScale_eq (code : Nat) (sc : BitVec 32) :
    bxScale code sc = if bxKind code = 0 then sc else .ofNat 32 (bitsOf sc 16 16 * 2 ^ 16) := by
  unfold bxScale
  split
  · rfl
  · refine BitVec.eq_of_getLsbD_eq fun i hi => ?_
    have hmask : (0xFFFF0000 : BitVec 32) = .ofNat 32 ((2 ^ 16 - 1) * 2 ^ 16) := rfl
    rw [hmask, BitVec.getLsbD_and, BitVec.getLsbD_ofNat, BitVec.getLsbD_ofNat, Nat.testBit_mul_two_pow, Nat.testBit_mul_two_pow,
      Nat.testBit_two_pow_sub_one, testBit_bitsOf]
    by_cases hlow : 16 ≤ i
    · simp [hi, hlow, show i - 16 < 16 by omega]
    · simp [hlow]

/-- The payload of a BX flit: its low 96 bits alone for BX6 (02 R53). -/
theorem bxPayload_eq (code : Nat) (p : Quad) :
    bxPayload code p = if bxKind code == 1 then .ofNat 128 (bitsOf p 0 96) else p := by
  unfold bxPayload
  by_cases h : bxKind code = 1
  · rw [if_pos h, if_pos (by simpa using h)]
    refine BitVec.eq_of_toNat_eq ?_
    rw [BitVec.toNat_and, BitVec.toNat_ofNat, BitVec.toNat_ofNat, bitsOf, Nat.mod_eq_of_lt (by decide : 2 ^ 96 - 1 < 2 ^ 128),
      Nat.and_two_pow_sub_one_eq_mod, Nat.pow_zero, Nat.div_one]
    exact (Nat.mod_eq_of_lt ((Nat.mod_lt _ (by decide)).trans (by decide))).symm
  · rw [if_neg h, if_neg (by simpa using h)]

theorem pushVector_near {s s1 : State} {c : Core} {n : Nat} {v : Vec} {tags : BitVec 72} {fmt : Option Nat} (hn : Near s s1 c)
    (hpush : c.canPush n 2 = true) (hbx : fmt = none → isBx (bitsOf tags 32 4) = true ∧ isBx (bitsOf tags 68 4) = true) :
    ∃ s2, (pushVector n v tags fmt).run s1 = .ok () s2 ∧ Near s s2 (c.pushed (vectorFlits c n v tags fmt)) := by
  rw [← hn.1] at hpush
  refine ⟨_, ?_, hn.setMe _⟩
  unfold pushVector
  rw [op_bind_ok (getMe_run s1)]
  cases fmt with
  | some code =>
    refine (op_bind_ok (checkTag_canPush hpush)).trans ((op_bind_ok (waitRoom_canPush hpush)).trans ?_)
    rw [op_bind_ok (getMe_run s1), hn.1]
    exact (modMe_run _ s1).trans (by rw [hn.1]; rfl)
  | none =>
    obtain ⟨hlow, hhigh⟩ := hbx rfl
    refine (op_bind_ok (forIn_pass fun h hh => ?_)).trans ((op_bind_ok (checkTag_canPush hpush)).trans
      ((op_bind_ok (waitRoom_canPush hpush)).trans ?_))
    · simp only [List.mem_cons, List.not_mem_nil, or_false] at hh
      rcases hh with rfl | rfl <;> simp [hlow, hhigh]
    · rw [op_bind_ok (getMe_run s1), hn.1]
      refine (modMe_run _ s1).trans ?_
      simp only [hn.1, bxScale_eq, bxPayload_eq]
      rfl

/-- A vector write leaves the core that the destination field leaves. -/
theorem writeV_near {s s1 : State} {c c' : Core} {r : BitVec 5} {v : Vec} {tags : BitVec 72} {fmt : Option Nat}
    (hn : Near s s1 c) (h : vectorWrite c r v tags fmt = some c') :
    ∃ s2, (writeV r v tags fmt).run s1 = .ok () s2 ∧ Near s s2 c' := by
  unfold writeV
  rcases vectorWrite_cases h with ⟨hr, rfl⟩ | ⟨hr, hpush, hbx, rfl⟩
  · rw [if_pos hr, modMe_run, hn.1]
    exact ⟨_, rfl, hn.setMe _⟩
  · rw [if_neg hr]
    exact pushVector_near hn hpush hbx

/-- A destination that takes the vector once the flags are raised is ready before. -/
theorem destReady_vector {s1 : State} {c c' : Core} {d : BitVec 5} {v : Vec} {tags : BitVec 72} {fmt : Option Nat} {f : BitVec 7}
    (hc : s1.me = c) (h : vectorWrite (c.raiseFlags f) d v tags fmt = some c') : (destReady d 2).run s1 = .ok () s1 := by
  unfold destReady
  split
  · next hr =>
    have hpush : s1.me.canPush (d.toNat - 24) 2 = true := by
      rw [hc, ← raiseFlags_canPush c f]
      exact canPush_of_vectorWrite h hr
    rw [op_bind_ok (getMe_run s1), op_bind_ok (checkTag_canPush hpush), waitRoom_canPush hpush]
  · rfl

/-- The flags of a lane instruction raised and its result written. -/
theorem laneWrite_near {s s1 : State} {c c' : Core} {d : BitVec 5} {fmt : Nat} {v : Vec} {fl : BitVec 7} (hn : Near s s1 c)
    (h : vectorWrite (c.raiseFlags fl) d v 0 (some fmt) = some c') :
    ∃ s2, (laneWrite d fmt (v, fl)).run s1 = .ok () s2 ∧ Near s s2 c' := by
  obtain ⟨s2, e2, n2⟩ := raise_near fl hn
  obtain ⟨s3, e3, n3⟩ := writeV_near n2 h
  refine ⟨s3, ?_, n3⟩
  unfold laneWrite
  rw [op_bind_ok (destReady_vector hn.1 h)]
  exact (op_bind_ok e2).trans e3

/-- A lane instruction with its sources read: what it writes, it completes with. -/
theorem laneResult_ok {i : Instr} {d : BitVec 5} {fmt : Nat} {s s1 : State} {v : Vec} {fl : BitVec 7} {c c' : Core} {body : Op Unit}
    (h : Issues i s) (hn : Near s s1 c) (hs : c.spec = none) (hd : vectorWrite (c.raiseFlags fl) d v 0 (some fmt) = some c')
    (hbody : body.run s = (laneWrite d fmt (v, fl)).run s1) : issueSeq i body s = .next (s.completed c') := by
  obtain ⟨s2, e2, n2⟩ := laneWrite_near hn hd
  exact issueSeq_near h (hbody.trans e2) n2 (vectorWrite_spec hd (raiseFlags_spec fl hs))

end Sys2Proof.Machine
end

section
/-! PROOFS. The elements of a vector (06 R197, R200): a vector is its elements, and the lane map delivers those of the selected lanes. -/

namespace Sys2Proof.Machine
open Sys2Proof.Claims

/-! ## A vector is its elements -/

/-- An element width that divides a vector evenly. -/
def ElemWidth (w : Nat) : Prop := w = 8 ∨ w = 16 ∨ w = 32

theorem ElemWidth.mul_laneCount {w : Nat} (h : ElemWidth w) : w * laneCount w = 256 := by
  rcases h with rfl | rfl | rfl <;> rfl

theorem elemWidth_etWidth (t : BitVec 4) : ElemWidth (etWidth t) := by
  unfold ElemWidth
  revert t
  decide

theorem elemWidth_vWidth (x : FormV) : ElemWidth (vWidth x) := elemWidth_etWidth x.et

theorem elemOf_mod (v : Vec) (w j : Nat) : elemOf v w j % 2 ^ w = elemOf v w j := Nat.mod_mod _ _

theorem vec_ext {w : Nat} (hw : ElemWidth w) {u v : Vec} (h : ∀ j < laneCount w, elemOf u w j = elemOf v w j) : u = v := by
  refine BitVec.eq_of_getLsbD_eq fun i hi => ?_
  have hpos : 0 < w := by rcases hw with rfl | rfl | rfl <;> decide
  have hj : i / w < laneCount w := Nat.div_lt_of_lt_mul (by rw [hw.mul_laneCount]; exact hi)
  have hbit : ∀ x : Vec, (elemOf x w (i / w)).testBit (i % w) = x.getLsbD i := fun x => by
    rw [elemOf, testBit_bitsOf, Nat.mod_add_div, decide_eq_true (Nat.mod_lt i hpos), Bool.true_and]
  rw [← hbit u, ← hbit v, h _ hj]

/-- Element j of joined elements. -/
theorem joinFrom_elem (w : Nat) (xs : List Nat) (j : Nat) :
    joinFrom w xs / 2 ^ (w * j) % 2 ^ w = xs.getD j 0 % 2 ^ w := by
  induction xs generalizing j with
  | nil => simp [joinFrom]
  | cons x xs ih =>
    rw [joinFrom]
    cases j with
    | zero => simp
    | succ j =>
      have hlow : (x % 2 ^ w + 2 ^ w * joinFrom w xs) / 2 ^ w = joinFrom w xs := by
        rw [Nat.add_mul_div_left _ _ (Nat.two_pow_pos w), Nat.div_eq_of_lt (Nat.mod_lt _ (Nat.two_pow_pos w)), Nat.zero_add]
      rw [Nat.mul_succ, Nat.add_comm (w * j), Nat.pow_add, ← Nat.div_div_eq_div_mul, hlow, ih, List.getD_cons_succ]

/-- An element of a vector made of elements. -/
theorem elemOf_vecOf {w : Nat} (hw : ElemWidth w) (f : Nat → Nat) {j : Nat} (hj : j < laneCount w) :
    elemOf (vecOf w ((List.range (laneCount w)).map f)) w j = f j % 2 ^ w := by
  have hin : w * j + w ≤ 256 := by
    rw [← hw.mul_laneCount, ← Nat.mul_succ]
    exact Nat.mul_le_mul_left w hj
  rw [elemOf, vecOf, bitsOf, BitVec.toNat_ofNat, show 256 = w * j + (256 - w * j) by omega, Nat.pow_add, Nat.mod_mul_right_div_self,
    Nat.mod_mod_of_dvd _ (Nat.pow_dvd_pow 2 (by omega)), joinFrom_elem]
  simp [List.getD_eq_getElem?_getD, hj]

/-- The vector whose elements are f's. -/
theorem vecOf_eq {w : Nat} (hw : ElemWidth w) {f : Nat → Nat} {v : Vec} (h : ∀ j < laneCount w, elemOf v w j = f j % 2 ^ w) :
    vecOf w ((List.range (laneCount w)).map f) = v :=
  vec_ext hw fun j hj => by rw [elemOf_vecOf hw f hj, h j hj]

/-! ## The lane map (06 R200, R211) -/

/-- What the lane map puts into element j. -/
def laneElem (c : Core) (x : FormV) (w : Nat) (old : Vec) (f : Nat → Nat × BitVec 7) (j : Nat) : Nat × BitVec 7 :=
  if vSel x c (laneOf w j) then f j else (elemOf old w j, 0)

/-- Element j put before the elements behind it, its flags raised. -/
def laneStep (c : Core) (x : FormV) (w : Nat) (old : Vec) (f : Nat → Nat × BitVec 7) (j : Nat) (r : Vec × BitVec 7) : Vec × BitVec 7 :=
  (.ofNat 256 ((laneElem c x w old f j).1 % 2 ^ w + 2 ^ w * r.1.toNat), r.2 ||| (laneElem c x w old f j).2)

theorem laneMap_eq_foldr (c : Core) (x : FormV) (w : Nat) (old : Vec) (f : Nat → Nat × BitVec 7) :
    laneMap c x w old f = (List.range (laneCount w)).foldr (laneStep c x w old f) (0, 0) := rfl

theorem laneMap_vec (c : Core) (x : FormV) (w : Nat) (old : Vec) (f : Nat → Nat × BitVec 7) :
    (laneMap c x w old f).1 = vecOf w ((List.range (laneCount w)).map fun j => (laneElem c x w old f j).1) := by
  rw [laneMap_eq_foldr]
  induction List.range (laneCount w) with
  | nil => rfl
  | cons j js ih =>
    rw [List.foldr_cons, laneStep, ih, List.map_cons, vecOf, vecOf, joinFrom]
    refine BitVec.eq_of_toNat_eq ?_
    simp only [BitVec.toNat_ofNat, Nat.add_mod, Nat.mul_mod, Nat.mod_mod]

/-- The flags of the selected elements are raised, in whatever order. -/
theorem laneMap_flags (c : Core) (x : FormV) (w : Nat) (old : Vec) (f : Nat → Nat × BitVec 7) :
    (laneMap c x w old f).2
      = (List.range (laneCount w)).foldl (fun r j => if vSel x c (laneOf w j) then r ||| (f j).2 else r) 0 := by
  have hstep : ∀ r j, (if vSel x c (laneOf w j) then r ||| (f j).2 else r) = r ||| (laneElem c x w old f j).2 := fun r j => by
    unfold laneElem
    split <;> simp
  have hfold : ∀ (js : List Nat) (r : BitVec 7), js.foldl (fun r j => r ||| (laneElem c x w old f j).2) r
      = r ||| (js.foldr (laneStep c x w old f) (0, 0)).2 := fun js => by
    induction js with
    | nil => simp
    | cons j js ih =>
      intro r
      rw [List.foldl_cons, ih, List.foldr_cons, laneStep, BitVec.or_assoc, BitVec.or_comm (laneElem c x w old f j).2]
  rw [laneMap_eq_foldr, funext₂ hstep, hfold]
  exact BitVec.zero_or.symm

/-- The lane map delivers what LanesAre asks for. -/
theorem laneMap_eq {c : Core} {x : FormV} {w : Nat} {f : Nat → Nat × BitVec 7} {v : Vec} {fl : BitVec 7} (hw : ElemWidth w)
    (h : LanesAre c x w f v fl) : laneMap c x w (oldOf c x.d) f = (v, fl) := by
  obtain ⟨hv, hfl⟩ := h
  refine Prod.ext ?_ ((laneMap_flags ..).trans hfl.symm)
  refine (laneMap_vec ..).trans (vecOf_eq hw fun j hj => (hv j hj).trans ?_)
  unfold laneElem
  split
  · rfl
  · exact (elemOf_mod ..).symm

/-- The FMT of a queue destination, in the model and in the rule (06 R203). -/
theorem laneFmt_eq_queueFmt (et : Nat) : laneFmt et = queueFmt et := by
  unfold laneFmt queueFmt
  split <;> simp_all

end Sys2Proof.Machine
end

section
/-! PROOFS. The element-wise lane instructions and the reductions (06 R211-R214, R223; 02 R72, R73). -/

namespace Sys2Proof.Machine
open Sys2Proof.Claims

/-! ## Element operations (06 R211, R212) -/

theorem etLo_le_etHi (et w : Nat) : etLo et w ≤ etHi et w := by
  have h1 : (0 : Int) < 2 ^ (w - 1) := by positivity
  have h2 : (0 : Int) < 2 ^ w := by positivity
  unfold etLo etHi
  split <;> omega

theorem sat_eq_clamp {lo hi : Int} (h : lo ≤ hi) (v : Int) : sat v lo hi = max lo (min hi v) := by
  unfold sat
  split
  · omega
  · split <;> omega

/-- Fix of 06 R211 is Sat or Trunc. -/
theorem fixInt_eq (et w : Nat) (saturate : Bool) (t : Int) : fixInt et w saturate t =
    if saturate then
      ((max (etLo et w) (min (etHi et w) t) % 2 ^ w).toNat, if max (etLo et w) (min (etHi et w) t) = t then 0 else flagSA)
    else ((t % 2 ^ w).toNat, 0) := by
  rw [fixInt, sat_eq_clamp (etLo_le_etHi et w)]
  rfl

/-- The model and the statements read ET alike as a floating-point type, but for bx: the feature check counts it among them (03 R106). -/
theorem fpType_toNat {et : BitVec 4} (h : et ≠ 9) : Sys2Proof.fpType (et.toNat : BitVec 4) = fpType et.toNat := by
  revert et
  decide

section

variable {x : FormV} (hx : x.et ≠ 9)
include hx

theorem byType_eq_elemOp (fi : Int → Int → Int) (ff : FpFormat → BitVec 2 → Bool → FpVal → FpVal → FpRes) :
    byType x fi ff = elemOp fi ff x := by
  funext c a b
  simp only [byType, elemOp, fixInt_eq, fpType_toNat hx]
  rfl

theorem laneOp_byType (i : Instr) (n : Nat) (fi : Int → Int → Int) (ff : FpFormat → BitVec 2 → Bool → FpVal → FpVal → FpRes)
    (g : Nat → Nat) : laneOp i x n (fun c a b _ => byType x fi ff c a (g b)) = laneOp i x n fun c a b _ => elemOp fi ff x c a (g b) := by
  rw [byType_eq_elemOp hx]

end

theorem natAbs_eq_ite (t : Int) : (t.natAbs : Int) = if t < 0 then -t else t := by
  split <;> omega

/-- No element-wise instruction takes ET bx (06 R210). -/
theorem extraOk_elementwise_bx : ∀ p ∈ elementwise, ∀ x : FormV, x.et = 9 → (p.1 x).extraOk = false := by
  simp only [elementwise, List.forall_mem_cons, List.not_mem_nil, false_implies, implies_true, and_true]
  and_intros
  all_goals
    intro x hx
    simp [Instr.extraOk, etIn, hx]

theorem et_ne_bx_of_wellFormed {i : FormV → Instr} {x : FormV} (hi : x.et = 9 → (i x).extraOk = false)
    (h : (i x).wellFormed = true) : x.et ≠ 9 := fun hx =>
  absurd (Sys2Proof.Proofs.extraOk_of_wellFormed h) (by rw [hi hx]; decide)

/-- Each element-wise instruction is the operation that its row names, on as many sources. -/
theorem exec_elementwise : ∀ p ∈ elementwise, ∀ x : FormV, x.et ≠ 9 → exec (p.1 x) = laneOp (p.1 x) x (p.2.1 x) (p.2.2 x) := by
  simp only [elementwise, List.forall_mem_cons]
  exact ⟨fun _ hx => laneOp_byType hx _ _ _ _ id, fun _ hx => laneOp_byType hx _ _ _ _ id, fun _ hx => laneOp_byType hx _ _ _ _ id,
    fun _ hx => laneOp_byType hx _ _ _ _ id, fun _ hx => laneOp_byType hx _ _ _ _ id,
    fun x hx => .trans (b := execVabs x) rfl
      ((laneOp_byType hx _ _ _ _ fun _ => 0).trans (by rw [funext₂ fun t _ => natAbs_eq_ite t])),
    fun _ hx => laneOp_byType hx _ _ _ _ fun _ => 0,
    fun _ _ => rfl, fun _ _ => rfl, fun _ _ => rfl, fun _ _ => rfl, fun _ _ => rfl, fun _ _ => rfl, fun _ _ => rfl, fun _ _ => rfl,
    fun _ _ => rfl, fun _ _ => rfl, fun _ _ => rfl, fun _ _ => rfl, fun _ _ => rfl, fun _ _ => rfl, fun _ _ => rfl, fun _ _ => rfl,
    fun _ h => absurd h List.not_mem_nil⟩

theorem laneOp_ok {i : Instr} {x : FormV} {n : Nat} {f : Core → Nat → Nat → Nat → Nat × BitVec 7} {s : State} {a b e v : Vec}
    {fl : BitVec 7} {c1 c2 c3 c4 : Core} (h : Issues i s) (ha : vectorReadIf (decide (1 ≤ n)) s.me x.a = some (a, c1))
    (hb : vectorReadIf (decide (2 ≤ n)) c1 x.b = some (b, c2)) (he : vectorReadIf (decide (3 ≤ n)) c2 x.c = some (e, c3))
    (hv : LanesAre c3 x (vWidth x) (fun j => f c3 (elemOf a (vWidth x) j) (elemOf b (vWidth x) j) (elemOf e (vWidth x) j)) v fl)
    (hd : vectorWrite (c3.raiseFlags fl) x.d v 0 (some (queueFmt x.et.toNat)) = some c4) :
    laneOp i x n f s = .next (s.completed c4) := by
  obtain ⟨s1, e1, n1⟩ := readIf_near (Near.refl s) ha
  obtain ⟨s2, e2, n2⟩ := readIf_near n1 hb
  obtain ⟨s3, e3, n3⟩ := readIf_near n2 he
  refine laneResult_ok h n3 (vectorReadIf_spec he (vectorReadIf_spec hb (vectorReadIf_spec ha h.2.2.1))) hd ?_
  rw [op_bind_ok e1, op_bind_ok e2, op_bind_ok e3, op_bind_ok (getMe_run s3), n3.1, laneFmt_eq_queueFmt]
  dsimp only
  rw [laneMap_eq (elemWidth_vWidth x) hv]

/-- The first clause of O12, of every instruction that the decoder can answer. -/
theorem elementwise_ok : ∀ p ∈ elementwise, ∀ {x : FormV} {s : State} {a b e v : Vec} {fl : BitVec 7} {c1 c2 c3 c4 : Core},
    (p.1 x).wellFormed = true → Issues (p.1 x) s → vectorReadIf (decide (1 ≤ p.2.1 x)) s.me x.a = some (a, c1) →
    vectorReadIf (decide (2 ≤ p.2.1 x)) c1 x.b = some (b, c2) → vectorReadIf (decide (3 ≤ p.2.1 x)) c2 x.c = some (e, c3) →
    LanesAre c3 x (vWidth x)
      (fun j => p.2.2 x c3 (elemOf a (vWidth x) j) (elemOf b (vWidth x) j) (elemOf e (vWidth x) j)) v fl →
    vectorWrite (c3.raiseFlags fl) x.d v 0 (some (queueFmt x.et.toNat)) = some c4 →
    exec (p.1 x) s = .next (s.completed c4) := by
  intro p hp x s a b e v fl c1 c2 c3 c4 hwf h ha hb he hv hd
  rw [exec_elementwise p hp x (et_ne_bx_of_wellFormed (extraOk_elementwise_bx p hp x) hwf)]
  exact laneOp_ok h ha hb he hv hd

/-! ## vdot4 (06 R213) -/

theorem foldl_add_eq_sum (f : Nat → Int) (is : List Nat) (t : Int) : is.foldl (fun t i => t + f i) t = t + (is.map f).sum := by
  induction is generalizing t with
  | nil => simp
  | cons i is ih => rw [List.foldl_cons, ih, List.map_cons, List.sum_cons, Int.add_assoc]

/-- The second clause of O12: the four products are summed from C on. -/
theorem vdot4_ok {x : FormV} {s : State} {a b e v : Vec} {fl : BitVec 7} {c1 c2 c3 c4 : Core} (h : Issues (.vdot4 x) s)
    (ha : vectorReadIf true s.me x.a = some (a, c1)) (hb : vectorReadIf true c1 x.b = some (b, c2))
    (he : vectorReadIf true c2 x.c = some (e, c3))
    (hv : LanesAre c3 x 32 (fun k =>
      let et := if x.et.toNat < 3 then 2 else 5
      let t := etInt et 32 (elemOf e 32 k) + ((List.range 4).map fun i =>
        etInt x.et.toNat 8 (elemOf a 8 (4 * k + i)) * etInt x.et.toNat 8 (elemOf b 8 (4 * k + i))).sum
      fixInt et 32 (vSat x) t) v fl)
    (hd : vectorWrite (c3.raiseFlags fl) x.d v 0 (some 2) = some c4) : exec (.vdot4 x) s = .next (s.completed c4) := by
  obtain ⟨s1, e1, n1⟩ := readIf_near (Near.refl s) ha
  obtain ⟨s2, e2, n2⟩ := readIf_near n1 hb
  obtain ⟨s3, e3, n3⟩ := readIf_near n2 he
  refine laneResult_ok h n3 (vectorReadIf_spec he (vectorReadIf_spec hb (vectorReadIf_spec ha h.2.2.1))) hd ?_
  rw [op_bind_ok e1, op_bind_ok e2, op_bind_ok e3, op_bind_ok (getMe_run s3), n3.1, ← laneMap_eq (.inr (.inr rfl)) hv]
  simp only [dotLane, foldl_add_eq_sum, etSigned, decide_eq_true_eq]

/-! ## Reductions (06 R223) -/

theorem laneReduce_ok {i : Instr} {x : FormV} {step : Core → Nat → Nat → FpRes} {s : State} {a : Vec} {c1 c2 : Core} (h : Issues i s)
    (ha : vectorReadIf true s.me x.a = some (a, c1)) :
    let leaves := (List.range (laneCount (vWidth x))).map fun j =>
      if vSel x c1 (laneOf (vWidth x) j) then some (elemOf a (vWidth x) j) else none
    let r := treeReduce (step c1) 5 leaves 0
    vectorWrite (c1.raiseFlags r.2) x.d (.ofNat 256 (r.1.getD 0)) 0 (some (queueFmt x.et.toNat)) = some c2 →
    laneReduce i x step s = .next (s.completed c2) := by
  intro leaves r hd
  obtain ⟨s1, e1, n1⟩ := readIf_near (Near.refl s) ha
  refine laneResult_ok h n1 (vectorReadIf_spec ha h.2.2.1) hd ?_
  rw [op_bind_ok e1, op_bind_ok (getMe_run s1), n1.1, laneFmt_eq_queueFmt]

/-- The reductions with the node of each tree. -/
def reductions : List ((FormV → Instr) × (FormV → Core → Nat → Nat → Nat × BitVec 7)) :=
  [(.vredsum, elemOp (· + ·) fpAdd), (.vredmax, elemOp max (fun f _ _ a b => fpMinMax f true a b))]

/-- Neither reduction takes ET bx (06 R210). -/
theorem extraOk_reductions_bx : ∀ p ∈ reductions, ∀ x : FormV, x.et = 9 → (p.1 x).extraOk = false := by
  simp only [reductions, List.forall_mem_cons]
  exact ⟨fun x hx => by simp [Instr.extraOk, etIn, hx], fun x hx => by simp [Instr.extraOk, etIn, hx],
    fun _ h => absurd h List.not_mem_nil⟩

theorem exec_reductions : ∀ p ∈ reductions, ∀ x : FormV, x.et ≠ 9 → exec (p.1 x) = laneReduce (p.1 x) x (p.2 x) := by
  simp only [reductions, List.forall_mem_cons]
  refine ⟨fun x hx => ?_, fun x hx => ?_, fun _ h => absurd h List.not_mem_nil⟩
  · rw [← byType_eq_elemOp hx]
    rfl
  · rw [← byType_eq_elemOp hx]
    rfl

/-- What O13 says, of every reduction that the decoder can answer. -/
theorem reductions_ok : ∀ p ∈ reductions, ∀ {x : FormV} {s : State} {a : Vec} {c1 c2 : Core},
    (p.1 x).wellFormed = true → Issues (p.1 x) s → vectorReadIf true s.me x.a = some (a, c1) →
    let leaves := (List.range (laneCount (vWidth x))).map fun j =>
      if vSel x c1 (laneOf (vWidth x) j) then some (elemOf a (vWidth x) j) else none
    let r := treeReduce (p.2 x c1) 5 leaves 0
    vectorWrite (c1.raiseFlags r.2) x.d (.ofNat 256 (r.1.getD 0)) 0 (some (queueFmt x.et.toNat)) = some c2 →
    exec (p.1 x) s = .next (s.completed c2) := by
  intro p hp x s a c1 c2 hwf h ha leaves r hd
  rw [exec_reductions p hp x (et_ne_bx_of_wellFormed (extraOk_reductions_bx p hp x) hwf)]
  exact laneReduce_ok h ha hd

end Sys2Proof.Machine
end

section
/-! PROOFS. The lane instructions that write predicates and flags, and vsel (06 R201, R215-R217). -/

namespace Sys2Proof.Machine
open Sys2Proof.Claims

/-! ## A predicate and a flag that are written -/

@[simp] theorem setPred_spec (c : Core) (n : Nat) (p : BitVec 8) : (c.setPred n p).spec = c.spec := by
  unfold Core.setPred
  split <;> rfl

/-- An instruction whose last act makes f of the executing core. -/
theorem issueSeq_modMe {i : Instr} {s s1 : State} {c : Core} {f : Core → Core} {body : Op Unit} (h : Issues i s) (hn : Near s s1 c)
    (hs : (f c).spec = none) (hbody : body.run s = (modMe f).run s1) : issueSeq i body s = .next (s.completed (f c)) :=
  issueSeq_near h (hbody.trans (modMe_run f s1)) (hn.1 ▸ hn.setMe _) hs

theorem testBit_eq_mod (p k : Nat) : decide (p / 2 ^ k % 2 = 1) = p.testBit k := Nat.testBit_eq_decide_div_mod_eq.symm

/-- The OR or AND of a predicate over the selected lanes (06 R201). -/
theorem quantified_eq {x : FormV} {c : Core} {all : Bool} {p : BitVec 8} {t : Bool} (h : Quantifies x c all p t) :
    quantified x c all p.toNat = t := by
  refine Bool.eq_iff_iff.2 (Iff.trans ?_ h.symm)
  have hbit : ∀ k, p.toNat.testBit k = p.getLsbD k := fun _ => rfl
  unfold quantified
  cases all with
  | false => simp [testBit_eq_mod, hbit]
  | true => simp [testBit_eq_mod, hbit, imp_iff_not_or]

/-! ## vcmp (06 R215) -/

theorem elemCompare_eq_comparesTo {x : FormV} (hx : x.et ≠ 9) : elemCompare x = comparesTo x := by
  funext c a b
  simp only [elemCompare, comparesTo, fpType_toNat hx]
  rfl

/-- The compare of lane k's element EL. -/
def laneCompare (x : FormV) (c : Core) (a b : Vec) (k : Nat) : Bool × BitVec 7 :=
  elemCompare x c (elemOf a (vWidth x) (k * (laneCount (vWidth x) / 8) + bitsOf x.imm 4 2))
    (elemOf b (vWidth x) (k * (laneCount (vWidth x) / 8) + bitsOf x.imm 4 2))

/-- The predicate bits and the flags of the selected lanes, gathered apart. -/
theorem compareLanes_eq (x : FormV) (c : Core) (a b : Vec) : compareLanes x c a b
    = (bitsBelow (fun k => vSel x c k && (laneCompare x c a b k).1) 8,
      (List.range 8).foldl (fun r k => if vSel x c k then r ||| (laneCompare x c a b k).2 else r) 0) := by
  unfold compareLanes bitsBelow
  generalize (0 : Nat) = p
  generalize (0 : BitVec 7) = fl
  dsimp only
  induction List.range 8 generalizing p fl with
  | nil => rfl
  | cons k ks ih =>
    rw [List.foldl_cons, List.foldl_cons, List.foldl_cons, ← ih]
    cases vSel x c k with
    | false => simp [bit]
    | true => rfl

theorem vcmp_ok {x : FormV} {s : State} {a b : Vec} {p : BitVec 8} {fl : BitVec 7} {t : Bool} {c1 c2 : Core}
    (hwf : (Instr.vcmp x).wellFormed = true) (h : Issues (.vcmp x) s)
    (ha : vectorReadIf true s.me x.a = some (a, c1)) (hb : vectorReadIf true c1 x.b = some (b, c2))
    (hp : ∀ k < 8, p.getLsbD k = (vSel x c2 k && (comparesTo x c2
      (elemOf a (vWidth x) (k * (laneCount (vWidth x) / 8) + bitsOf x.imm 4 2))
      (elemOf b (vWidth x) (k * (laneCount (vWidth x) / 8) + bitsOf x.imm 4 2))).1))
    (hfl : fl = (List.range 8).foldl (fun r k => if vSel x c2 k then r ||| (comparesTo x c2
      (elemOf a (vWidth x) (k * (laneCount (vWidth x) / 8) + bitsOf x.imm 4 2))
      (elemOf b (vWidth x) (k * (laneCount (vWidth x) / 8) + bitsOf x.imm 4 2))).2 else r) 0)
    (ht : Quantifies x c2 (x.qf == 2) p t) :
    exec (.vcmp x) s = .next (s.completed
      (if x.qf = 0 then (c2.raiseFlags fl).setPred x.d.toNat p
       else ((c2.raiseFlags fl).setPred x.d.toNat p).setFlag x.c.toNat t)) := by
  have hx : x.et ≠ 9 := et_ne_bx_of_wellFormed (i := .vcmp) (fun hx => by simp [Instr.extraOk, etIn, hx]) hwf
  obtain ⟨s1, e1, n1⟩ := readIf_near (Near.refl s) ha
  obtain ⟨s2, e2, n2⟩ := readIf_near n1 hb
  obtain ⟨s3, e3, n3⟩ := raise_near fl n2
  have hbits : bitsBelow (fun k => vSel x c2 k && (laneCompare x c2 a b k).1) 8 = p.toNat := by
    refine Nat.eq_of_testBit_eq fun k => ?_
    rw [testBit_bitsBelow]
    change _ = p.getLsbD k
    by_cases hk : k < 8
    · rw [hp k hk, laneCompare, elemCompare_eq_comparesTo hx, decide_eq_true hk, Bool.true_and]
    · rw [decide_eq_false hk, Bool.false_and, BitVec.getLsbD_of_ge p k (Nat.le_of_not_lt hk)]
  have hlanes : compareLanes x c2 a b = (p.toNat, fl) := by
    rw [compareLanes_eq, hbits, hfl]
    simp only [laneCompare, elemCompare_eq_comparesTo hx]
  have hspec : ((c2.raiseFlags fl).setPred x.d.toNat p).spec = none :=
    (setPred_spec ..).trans (raiseFlags_spec fl (vectorReadIf_spec hb (vectorReadIf_spec ha h.2.2.1)))
  by_cases hqf : x.qf = 0
  · rw [if_pos hqf]
    refine issueSeq_modMe (f := (·.setPred x.d.toNat p)) h n3 hspec ?_
    rw [op_bind_ok e1, op_bind_ok e2, op_bind_ok (getMe_run s2), n2.1, hlanes]
    refine (op_bind_ok e3).trans ?_
    rw [if_neg (by simp [hqf]), BitVec.ofNat_toNat, BitVec.setWidth_eq]
    rfl
  · rw [if_neg hqf]
    refine issueSeq_modMe (f := (·.setFlag x.c.toNat t)) h (n3.setMe ((c2.raiseFlags fl).setPred x.d.toNat p))
      ((setFlag_spec ..).trans hspec) ?_
    rw [op_bind_ok e1, op_bind_ok e2, op_bind_ok (getMe_run s2), n2.1, hlanes]
    refine (op_bind_ok e3).trans ((op_bind_ok (modMe_run _ s3)).trans ?_)
    rw [if_pos (bne_iff_ne.2 hqf), quantified_eq ht, n3.1, BitVec.ofNat_toNat, BitVec.setWidth_eq]

/-! ## vsel (06 R216) -/

theorem vsel_ok {x : FormV} {s : State} {a b v : Vec} {ta tb : BitVec 72} {c1 c2 c3 : Core} (h : Issues (.vsel x) s)
    (hx : x.et ≠ 9) (ha : vectorRead s.me x.a false = some (a, ta, c1)) (hb : vectorRead c1 x.b false = some (b, tb, c2))
    (hv : ∀ j < laneCount (vWidth x), elemOf v (vWidth x) j
      = elemOf (if vSel x c2 (laneOf (vWidth x) j) then a else b) (vWidth x) j)
    (hd : vectorWrite c2 x.d v 0 (some (queueFmt x.et.toNat)) = some c3) : exec (.vsel x) s = .next (s.completed c3) := by
  have hbx : (x.et == 9) = false := beq_eq_false_iff_ne.2 hx
  obtain ⟨s1, e1, n1⟩ := readV_near (Near.refl s) ha
  obtain ⟨s2, e2, n2⟩ := readV_near n1 hb
  obtain ⟨s3, e3, n3⟩ := writeV_near n2 hd
  have hvec : vecOf (vWidth x) ((List.range (laneCount (vWidth x))).map fun j =>
      elemOf (if vSel x c2 (laneOf (vWidth x) j) then a else b) (vWidth x) j) = v :=
    vecOf_eq (elemWidth_vWidth x) fun j hj => (hv j hj).trans (elemOf_mod ..).symm
  refine issueSeq_near h ?_ n3 (vectorWrite_spec hd (vectorRead_spec hb (vectorRead_spec ha h.2.2.1)))
  dsimp only
  rw [hbx, op_bind_ok e1, op_bind_ok e2, op_bind_ok (getMe_run s2), n2.1, if_neg (by decide)]
  dsimp only
  rw [hvec, laneFmt_eq_queueFmt, e3]

/-- Of type bx each half goes with its tag. -/
theorem vsel_bx_ok {x : FormV} {s : State} {a b : Vec} {ta tb : BitVec 72} {c1 c2 c3 : Core} (h : Issues (.vsel x) s)
    (hx : x.et = 9) (ha : vectorRead s.me x.a true = some (a, ta, c1)) (hb : vectorRead c1 x.b true = some (b, tb, c2))
    (hd : vectorWrite c2 x.d
      ((if vSel x c2 4 then a else b).extractLsb' 128 128 ++ (if vSel x c2 0 then a else b).extractLsb' 0 128)
      ((if vSel x c2 4 then ta else tb).extractLsb' 36 36 ++ (if vSel x c2 0 then ta else tb).extractLsb' 0 36) none
      = some c3) : exec (.vsel x) s = .next (s.completed c3) := by
  have hbx : (x.et == 9) = true := beq_iff_eq.2 hx
  obtain ⟨s1, e1, n1⟩ := readV_near (Near.refl s) ha
  obtain ⟨s2, e2, n2⟩ := readV_near n1 hb
  obtain ⟨s3, e3, n3⟩ := writeV_near n2 hd
  refine issueSeq_near h ?_ n3 (vectorWrite_spec hd (vectorRead_spec hb (vectorRead_spec ha h.2.2.1)))
  dsimp only
  rw [hbx, op_bind_ok e1, op_bind_ok e2, op_bind_ok (getMe_run s2), n2.1]
  exact e3

/-! ## Predicates (06 R217) -/

theorem vplog_ok {x : FormV} {s : State} {p : BitVec 8} (h : Issues (.vplog x) s)
    (hp : ∀ k < 8, p.getLsbD k =
      let u := (s.me.pred x.a.toNat).getLsbD k
      let v := (s.me.pred x.b.toNat).getLsbD k
      match bitsOf x.imm 0 3 with
      | 0 => u && v
      | 1 => u || v
      | 2 => u != v
      | 3 => u && !v
      | 4 => u || !v
      | 5 => !(u && v)
      | 6 => !(u || v)
      | _ => !u) :
    exec (.vplog x) s = .next (s.completed (s.me.setPred x.d.toNat p)) := by
  have hlogic : predLogic (bitsOf x.imm 0 3) (s.me.pred x.a.toNat) (s.me.pred x.b.toNat) = p := by
    refine BitVec.eq_of_getLsbD_eq fun k hk => ((hp k hk).trans ?_).symm
    unfold predLogic
    split <;> simp [*]
  refine issueSeq_modMe (f := (·.setPred x.d.toNat p)) h (Near.refl s) ((setPred_spec ..).trans h.2.2.1) ?_
  rw [op_bind_ok (getMe_run s), hlogic]

theorem vpany_ok {x : FormV} {s : State} {t : Bool} (h : Issues (.vpany x) s)
    (ht : Quantifies x s.me false (s.me.pred x.a.toNat) t) :
    exec (.vpany x) s = .next (s.completed (s.me.setFlag x.d.toNat t)) := by
  refine issueSeq_modMe (f := (·.setFlag x.d.toNat t)) h (Near.refl s) ((setFlag_spec ..).trans h.2.2.1) ?_
  rw [op_bind_ok (getMe_run s), quantified_eq ht]

theorem vpall_ok {x : FormV} {s : State} {t : Bool} (h : Issues (.vpall x) s)
    (ht : Quantifies x s.me true (s.me.pred x.a.toNat) t) :
    exec (.vpall x) s = .next (s.completed (s.me.setFlag x.d.toNat t)) := by
  refine issueSeq_modMe (f := (·.setFlag x.d.toNat t)) h (Near.refl s) ((setFlag_spec ..).trans h.2.2.1) ?_
  rw [op_bind_ok (getMe_run s), quantified_eq ht]

theorem vpset_ok {x : FormV} {s : State} {a : Word} {c1 : Core} (h : Issues (.vpset x) s)
    (ha : scalarRead s.me x.a = some (a, c1)) :
    exec (.vpset x) s = .next (s.completed (c1.setPred x.d.toNat (a.setWidth 8 ||| x.imm.setWidth 8))) := by
  obtain ⟨s1, e1, n1⟩ := readS_near (Near.refl s) ha
  exact issueSeq_modMe (f := (·.setPred x.d.toNat (a.setWidth 8 ||| x.imm.setWidth 8))) h n1
    ((setPred_spec ..).trans (scalarRead_spec ha h.2.2.1)) (op_bind_ok e1)

end Sys2Proof.Machine
end

section
/-! PROOFS. The lane instructions that move, convert and pack elements (06 R218-R222). -/

namespace Sys2Proof.Machine
open Sys2Proof.Claims

/-! ## Moves (06 R218, R219) -/

/-- Raising no flag changes nothing. -/
theorem raiseFlags_zero {c : Core} (h : c.spec = none) : c.raiseFlags 0 = c := by
  rw [raiseFlags_noSpec 0 h, show c.fpFlags ||| withExc 0 = c.fpFlags from BitVec.or_zero]

/-- Lanes that raise no flag. -/
theorem flags_of_lanesAre {c : Core} {x : FormV} {w : Nat} {f : Nat → Nat} {v : Vec} {fl : BitVec 7}
    (h : LanesAre c x w (fun j => (f j, 0)) v fl) : fl = 0 := by
  rw [h.2]
  simp

theorem vbcast_ok {x : FormV} {s : State} {a : Word} {v : Vec} {fl : BitVec 7} {c1 c2 : Core} (h : Issues (.vbcast x) s)
    (ha : scalarRead s.me x.a = some (a, c1)) (hv : LanesAre c1 x (vWidth x) (fun _ => (a.toNat, 0)) v fl)
    (hd : vectorWrite c1 x.d v 0 (some (queueFmt x.et.toNat)) = some c2) : exec (.vbcast x) s = .next (s.completed c2) := by
  obtain ⟨s1, e1, n1⟩ := readS_near (Near.refl s) ha
  have hspec := scalarRead_spec ha h.2.2.1
  have hv' : LanesAre c1 x (vWidth x) (fun _ => (a.toNat % 2 ^ vWidth x, 0)) v fl := by
    simpa only [LanesAre, Nat.mod_mod] using hv
  obtain rfl := flags_of_lanesAre hv
  refine laneResult_ok h n1 hspec ((raiseFlags_zero hspec).symm ▸ hd) ?_
  rw [op_bind_ok e1, op_bind_ok (getMe_run s1), n1.1, laneFmt_eq_queueFmt, laneMap_eq (elemWidth_vWidth x) hv']

theorem vperm_ok {x : FormV} {s : State} {a b v : Vec} {fl : BitVec 7} {c1 c2 c3 : Core} (h : Issues (.vperm x) s)
    (ha : vectorReadIf true s.me x.a = some (a, c1)) (hb : vectorReadIf true c1 x.b = some (b, c2))
    (hv : LanesAre c2 x (vWidth x) (fun j => (elemOf a (vWidth x) (elemOf b (vWidth x) j % laneCount (vWidth x)), 0)) v fl)
    (hd : vectorWrite c2 x.d v 0 (some (queueFmt x.et.toNat)) = some c3) : exec (.vperm x) s = .next (s.completed c3) := by
  obtain ⟨s1, e1, n1⟩ := readIf_near (Near.refl s) ha
  obtain ⟨s2, e2, n2⟩ := readIf_near n1 hb
  have hspec := vectorReadIf_spec hb (vectorReadIf_spec ha h.2.2.1)
  obtain rfl := flags_of_lanesAre hv
  refine laneResult_ok h n2 hspec ((raiseFlags_zero hspec).symm ▸ hd) ?_
  rw [op_bind_ok e1, op_bind_ok e2, op_bind_ok (getMe_run s2), n2.1, laneFmt_eq_queueFmt]
  dsimp only
  rw [laneMap_eq (elemWidth_vWidth x) hv]

theorem vmovs_ok {x : FormV} {s : State} {a : Vec} {t : BitVec 72} {c1 c2 : Core} (h : Issues (.vmovs x) s)
    (ha : vectorRead s.me x.a (x.et == 9) = some (a, t, c1))
    (hd : scalarWrite c1 x.d
      (if x.et = 9 then .ofNat 64 (bitsOf t (36 * bitsOf x.imm 0 5) 36)
       else .ofInt 64 (etInt x.et.toNat (vWidth x) (elemOf a (vWidth x) (bitsOf x.imm 0 5)))) = some c2) :
    exec (.vmovs x) s = .next (s.completed c2) := by
  obtain ⟨s1, e1, n1⟩ := readV_near (Near.refl s) ha
  obtain ⟨s2, e2, n2⟩ := writeS_near n1 hd
  refine issueSeq_near h ((op_bind_ok e1).trans (Eq.trans ?_ e2)) n2 (scalarWrite_spec hd (vectorRead_spec ha h.2.2.1))
  dsimp only
  by_cases hx : x.et = 9
  · rw [if_pos hx, if_pos (beq_iff_eq.2 hx)]
  · rw [if_neg hx, if_neg (by simpa using hx)]
    rfl

theorem vins_ok {x : FormV} {s : State} {a : Word} {c1 : Core} (h : Issues (.vins x) s)
    (ha : scalarRead s.me x.a = some (a, c1)) (hfits : x.et = 9 → a.toNat < 2 ^ 36) :
    exec (.vins x) s = .next (s.completed
      (if x.et = 9 then
         c1.setVreg x.d.toNat (c1.vreg x.d.toNat) (putBits (c1.vtag x.d.toNat) (36 * bitsOf x.imm 0 5) 36 a.toNat)
       else c1.setVreg x.d.toNat (putBits (c1.vreg x.d.toNat) (vWidth x * bitsOf x.imm 0 5) (vWidth x) a.toNat) 0)) := by
  obtain ⟨s1, e1, n1⟩ := readS_near (Near.refl s) ha
  have hspec := scalarRead_spec ha h.2.2.1
  by_cases hx : x.et = 9
  · rw [if_pos hx]
    refine issueSeq_modMe (f := (·.setVreg _ _ _)) h n1 hspec ?_
    rw [op_bind_ok e1, op_bind_ok (getMe_run s1), n1.1]
    dsimp only
    rw [if_pos hx, if_neg (Nat.not_le.2 (hfits hx))]
  · rw [if_neg hx]
    refine issueSeq_modMe (f := (·.setVreg _ _ _)) h n1 hspec ?_
    rw [op_bind_ok e1, op_bind_ok (getMe_run s1), n1.1]
    dsimp only
    rw [if_neg hx]

/-! ## Conversion (06 R220) -/

theorem vcvt_ok {x : FormV} {s : State} {a v : Vec} {fl : BitVec 7} {c1 c2 : Core} (h : Issues (.vcvt x) s)
    (ha : vectorReadIf true s.me x.a = some (a, c1))
    (hv : let ws := etWidth (x.imm.extractLsb' 0 4)
      let ns := laneCount ws
      let nd := laneCount (vWidth x)
      let h := bitsOf x.imm 4 2
      LanesAre c1 x (vWidth x) (fun j =>
        if nd < ns then convertElem x c1 (elemOf a ws (h * nd + j))
        else if ns = nd then convertElem x c1 (elemOf a ws j)
        else if h * ns ≤ j ∧ j < (h + 1) * ns then convertElem x c1 (elemOf a ws (j - h * ns))
        else (elemOf (oldOf c1 x.d) (vWidth x) j, 0)) v fl)
    (hd : vectorWrite (c1.raiseFlags fl) x.d v 0 (some (queueFmt x.et.toNat)) = some c2) :
    exec (.vcvt x) s = .next (s.completed c2) := by
  obtain ⟨s1, e1, n1⟩ := readIf_near (Near.refl s) ha
  refine laneResult_ok h n1 (vectorReadIf_spec ha h.2.2.1) hd ?_
  rw [op_bind_ok e1, op_bind_ok (getMe_run s1), n1.1, laneFmt_eq_queueFmt, ← laneMap_eq (elemWidth_vWidth x) hv]
  dsimp only
  refine congrArg (fun f => (laneWrite x.d _ (laneMap c1 x (vWidth x) (oldOf c1 x.d) f)).run s1) (funext fun j => ?_)
  generalize laneCount (vWidth x) = nd
  generalize laneCount (etWidth (x.imm.extractLsb' 0 4)) = ns
  rcases Nat.lt_trichotomy ns nd with hlt | heq | hgt
  · rw [if_pos hlt, if_neg (Nat.lt_asymm hlt), if_neg (Nat.ne_of_lt hlt), Nat.succ_mul]
  · rw [if_neg (Nat.lt_irrefl _ <| heq ▸ ·), if_neg (Nat.lt_irrefl _ <| heq ▸ ·), if_neg (Nat.lt_irrefl _ <| heq ▸ ·), if_pos heq]
  · rw [if_neg (Nat.lt_asymm hgt), if_pos hgt, if_pos hgt]

/-! ## Block packing (06 R221, R222) -/

theorem vbxpack_ok {x : FormV} {s : State} {a b : Vec} {c1 c2 : Core} (h : Issues (.vbxpack x) s)
    (ha : vectorReadIf true s.me x.a = some (a, c1)) (hb : vectorReadIf (x.et == 8) c1 x.b = some (b, c2)) :
    let kind := bitsOf x.imm 2 2
    let sl := bitsOf x.imm 0 2
    let h := if kind = 0 then sl / 2 else sl
    let vals := (List.range 16).map fun j => fpDecode (fpOf x.et.toNat) c2.ftz
      (if x.et = 8 ∧ 8 ≤ j then elemOf b 32 (j - 8) else elemOf a (vWidth x) j)
    let p := bxPack kind c2.tec vals
    let r := packHalf kind (bxFmt kind c2.tec) sl p.1 ((c2.vreg x.d.toNat).extractLsb' (128 * h) 128)
      ((c2.vtag x.d.toNat).extractLsb' (36 * h) 36)
    exec (.vbxpack x) s = .next (s.completed ((c2.raiseFlags p.2).setVreg x.d.toNat
      (putBits (c2.vreg x.d.toNat) (128 * h) 128 r.1.toNat) (putBits (c2.vtag x.d.toNat) (36 * h) 36 r.2.toNat))) := by
  intro kind sl half vals p r
  obtain ⟨s1, e1, n1⟩ := readIf_near (Near.refl s) ha
  obtain ⟨s2, e2, n2⟩ := readIf_near n1 hb
  obtain ⟨s3, e3, n3⟩ := raise_near p.2 n2
  have hvals : ((List.range 16).map fun j => elemVal c2 x.et.toNat
      (if x.et == 8 && decide (8 ≤ j) then elemOf b 32 (j - 8) else elemOf a (vWidth x) j)) = vals := by
    simp only [elemVal, Bool.and_eq_true, beq_iff_eq, decide_eq_true_eq]
    rfl
  refine issueSeq_modMe (f := (·.setVreg _ _ _)) h n3
    (raiseFlags_spec p.2 (vectorReadIf_spec hb (vectorReadIf_spec ha h.2.2.1))) ?_
  dsimp only
  rw [op_bind_ok e1, op_bind_ok e2, op_bind_ok (getMe_run s2), n2.1, hvals]
  exact op_bind_ok e3

theorem vbxunpack_ok {x : FormV} {s : State} {a v : Vec} {t : BitVec 72} {fl : BitVec 7} {c1 c2 : Core} {h fmt : Nat}
    (hi : Issues (.vbxunpack x) s) (ha : vectorRead s.me x.a true = some (a, t, c1))
    (hh : h = unpackHalf (bitsOf x.imm 0 2) (bitsOf t 32 4)) (hfmt : fmt = bitsOf t (36 * h + 32) 4) (hbx : isBx fmt = true)
    (htec : bxTec fmt = c1.tec) (hslot : 2 ≤ bitsOf x.imm 0 2 → bxKind fmt = 0)
    (hv : let sl := bitsOf x.imm 0 2
      let blocks := bxBlocks (bxKind fmt) (a.extractLsb' (128 * h) 128) (t.extractLsb' (36 * h) 32)
      let part := if bxKind fmt = 0 ∧ (h = 0 ∨ 2 ≤ sl) then sl % 2 else 0
      let vals := (blocks.getD part bxZero).values (bxKind fmt) c1.tec
      let base := if x.et = 8 then 8 * bitsOf x.imm 4 1 else 0
      LanesAre c1 x (vWidth x) (fun j =>
        fpRoundVal (fpOf x.et.toNat) x.rm c1.ftz (vals.getD (base + j) (.fin false 0 0))) v fl)
    (hd : vectorWrite (c1.raiseFlags fl) x.d v 0 (some (queueFmt x.et.toNat)) = some c2) :
    exec (.vbxunpack x) s = .next (s.completed c2) := by
  subst hh hfmt
  obtain ⟨s1, e1, n1⟩ := readV_near (Near.refl s) ha
  have het : x.et.toNat = 8 ↔ x.et = 8 := BitVec.toNat_inj (y := 8)
  refine laneResult_ok hi n1 (vectorRead_spec ha hi.2.2.1) hd ((op_bind_ok e1).trans ?_)
  dsimp only at hv ⊢
  rw [op_bind_ok (getMe_run s1), n1.1, hbx, htec, if_neg (by decide), if_neg (by simp), if_neg fun h => h.2 (hslot h.1),
    laneFmt_eq_queueFmt, ← laneMap_eq (elemWidth_vWidth x) hv]
  simp only [het]

end Sys2Proof.Machine

namespace Sys2Proof.Proofs
open Sys2Proof.Machine Sys2Proof.Claims

/-- The moves, conversions and packings hold as they are stated, of every instruction (06 R218-R222). -/
theorem laneMovesAndConversions : LaneMovesAndConversions :=
  ⟨fun _ _ _ _ _ _ _ h ha hv hd => vbcast_ok h ha hv hd, fun _ _ _ _ _ _ _ _ _ h ha hb hv hd => vperm_ok h ha hb hv hd,
    fun _ _ _ _ _ _ h ha hd => vmovs_ok h ha hd, fun _ _ _ _ h ha hfits => vins_ok h ha hfits,
    fun _ _ _ _ _ _ _ h ha hv hd => vcvt_ok h ha hv hd, fun _ _ _ _ _ _ h ha hb => vbxpack_ok h ha hb,
    fun _ _ _ _ _ _ _ _ _ _ h ha hh hfmt hbx htec hslot hv hd => vbxunpack_ok h ha hh hfmt hbx htec hslot hv hd⟩

end Sys2Proof.Proofs
end

section
/-! PROOFS. The element type bx on an instruction that computes elements: no word that decodes holds it (06 R206, R210), the statements
admit it, and there the model takes the elements for fp32 where the statements take them for integers. -/

namespace Sys2Proof.Proofs
open Sys2Proof.Machine Sys2Proof.Claims

/-- Fields that name ET bx, D 5, A 1 and B 2, and select every lane. -/
def bxFields : FormV := { gd := 0, d := 5, a := 1, b := 2, c := 0, pr := 0, pn := 0, qf := 0, rm := 0, et := 9, imm := 0 }

/-- Core 0 with the feature of the floating-point types: v1 holds 1.0 and, in lane 1, −0, and v2 holds 1.0, read as fp32. -/
def bxCore : Core :=
  { Core.reset with dcl := 4, vregs := [(1, 0x800000003F800000), (2, 0x3F800000)] }

/-- The module after reset but for core 0. -/
def bxState : State := { State.reset with cores := [(0, bxCore)] }

/-- What a step leaves in a core 0. -/
def meAfter {α : Type} (f : Core → α) : Host.Outcome State Fault Refusal → Option α
  | .next t => some (f t.me)
  | _ => none

theorem issues_bxFields {i : Instr} (hi : i ∈ [Instr.vadd bxFields, .vredsum bxFields, .vcmp bxFields]) : Issues i bxState := by
  have hfeature : ∀ i ∈ [Instr.vadd bxFields, .vredsum bxFields, .vcmp bxFields], featureOf (wordOf i) = some 2
      ∧ supervisorOnly (bitsOf (wordOf i) 56 8) = false ∧ guardHolds bxState.me (wordOf i) = true := by decide
  obtain ⟨hf, hsup, hguard⟩ := hfeature i hi
  refine ⟨by decide, ⟨fun f h => ?_, fun h => ?_⟩, rfl, (fun _ r hr => by cases hr), .inr hguard⟩
  · rw [hf] at h
    cases h
    rfl
  · rw [hsup] at h
    cases h

/-- Refutes O12: the statement ranges over every ET, and with ET bx, which no word that decodes holds on these instructions, the model
adds the lanes of bxState as fp32 (1.0 + 1.0 = 2.0) where the statement adds them as integers (0x7F000000). Of the instructions that
decode it holds: `elementwise_ok` and `vdot4_ok`. -/
theorem not_laneElementwiseResults : ¬ Obligations.LaneElementwiseResults := by
  unfold Obligations.LaneElementwiseResults
  rintro ⟨h, -⟩
  have hlanes : LanesAre bxCore bxFields 32 (fun j => elemOp (· + ·) fpAdd bxFields bxCore
      (elemOf (bxCore.vreg 1) 32 j) (elemOf (bxCore.vreg 2) 32 j)) 0x800000007F000000 0 := by
    unfold LanesAre
    decide +kernel
  have hexec := h _ (.head _) bxFields bxState _ _ 0 0x800000007F000000 0 _ _ _ _ (issues_bxFields (by decide)) rfl rfl rfl hlanes rfl
  exact absurd (congrArg (meAfter (·.vreg 5)) hexec) (by decide +kernel)

/-- Refutes O13: with ET bx, which no word that decodes holds on these instructions, the model's vredsum of 1.0, −0 and six +0 is the
fp32 sum 1.0, the statement's the integer sum 0xBF800000. Of the instructions that decode it holds: `reductions_ok`. -/
theorem not_laneReductionsFollowTheTree : ¬ Obligations.LaneReductionsFollowTheTree := by
  unfold Obligations.LaneReductionsFollowTheTree
  intro h
  have hexec := h _ (.head _) bxFields bxState _ _ _ (issues_bxFields (by decide)) rfl rfl
  exact absurd (congrArg (meAfter (·.vreg 5)) hexec) (by decide +kernel)

/-- Refutes O45, by its clause on vcmp alone: with ET bx, which no word that decodes holds on vcmp, the model compares −0 and +0 in lane
1 as fp32, which are equal, the statement as integers, which differ. Of the vcmp that decode the clause holds, and of all instructions
the other clauses hold: `vcmp_ok`, `vsel_ok`, `vsel_bx_ok`, `vplog_ok`, `vpany_ok`, `vpall_ok`, `vpset_ok` and
`laneMovesAndConversions`. -/
theorem not_laneMovesAndPredicates : ¬ Obligations.LaneMovesAndPredicates := by
  unfold Obligations.LaneMovesAndPredicates LanePredicateResults
  rintro ⟨⟨hvcmp, -⟩, -⟩
  have hexec := hvcmp bxFields bxState _ _ 0xFD 0 true _ _ (issues_bxFields (by decide)) rfl rfl (by decide +kernel)
    (by decide +kernel) (by unfold Quantifies; decide +kernel)
  exact absurd (congrArg (meAfter (·.pred 5)) hexec) (by decide +kernel)

end Sys2Proof.Proofs
end

section
/-! PROOFS. The vector loads and stores (06 R224): every address is checked before any part is accessed, and the parts are then made in
order, each as an access of its own. -/

namespace Sys2Proof.Machine
open Sys2Proof.Claims

/-! ## A loop of acts -/

/-- The loop that makes act f for each of the xs in order. -/
def forEach {α : Type} (xs : List α) (f : α → Op Unit) : Op PUnit :=
  forIn xs ⟨⟩ fun a _ => do
    f a
    return ForInStep.yield PUnit.unit

theorem forEach_nil {α : Type} (f : α → Op Unit) (s : State) : (forEach [] f).run s = .ok ⟨⟩ s := by
  rw [forEach, List.forIn_nil, op_pure]

theorem forEach_cons {α : Type} {a : α} {as : List α} {f : α → Op Unit} {s s1 : State} (h : (f a).run s = .ok () s1) :
    (forEach (a :: as) f).run s = (forEach as f).run s1 := by
  have hround : (do f a; return ForInStep.yield PUnit.unit : Op (ForInStep PUnit)).run s = .ok (.yield ⟨⟩) s1 := by
    rw [op_bind_ok h, op_pure]
  rw [forEach, List.forIn_cons, op_bind_ok hround]
  rfl

/-! ## Where an address leads (04 R127, R128) -/

/-- Where an access at a LOC address goes: to LOC, or to EXT for the redirected spill area. -/
def LeadsTo (c : Core) (ea : Int) : Target → Prop
  | .loc a => 0 ≤ ea ∧ ea < 65536 ∧ ¬redirected c ea ∧ a = ea.toNat
  | .ext va => 0 ≤ ea ∧ redirected c ea ∧ c.spillOvf.getLsbD 0 = true ∧ va = spillTarget c ea

theorem resolveLoc_leadsTo {ea : Int} {t : Target} {s : State} (h : LeadsTo s.me ea t) (hs : s.me.spec = none) :
    (resolveLoc ea).run s = .ok t s := by
  cases t with
  | loc a =>
    obtain ⟨h0, h1, hspill, rfl⟩ := h
    exact resolveLoc_loc h0 h1 (by simpa [redirected] using hspill)
  | ext va =>
    obtain ⟨h0, hredir, hovf, rfl⟩ := h
    exact resolveLoc_spill h0 hredir hovf hs

theorem leadsTo_of_ldlAt {s t : State} {c : Core} {ea : Int} {n : Nat} {bytes : List Byte} (h : LdlAt s c ea n bytes t) :
    ∃ tgt, LeadsTo c ea tgt := by
  rcases h with ⟨⟨h0, h1, _, hspill, _⟩, _⟩ | ⟨h0, _, hredir, hovf, _⟩
  · exact ⟨.loc ea.toNat, h0, h1, hspill, rfl⟩
  · exact ⟨.ext (spillTarget c ea), h0, hredir, hovf, rfl⟩

theorem leadsTo_of_stlAt {s t : State} {c : Core} {ea : Int} {bytes : List Byte} (h : StlAt s c ea bytes t) :
    ∃ tgt, LeadsTo c ea tgt := by
  rcases h with ⟨⟨h0, h1, _, hspill, _⟩, _⟩ | ⟨h0, _, hredir, hovf, _⟩
  · exact ⟨.loc ea.toNat, h0, h1, hspill, rfl⟩
  · exact ⟨.ext (spillTarget c ea), h0, hredir, hovf, rfl⟩

/-- The store buffer and the words fetched ahead lead no address elsewhere. -/
theorem LeadsTo.congr {c : Core} {ea : Int} {t : Target} (h : LeadsTo c ea t) (sb : List SbEntry) (w : Table (List Word)) :
    LeadsTo { c with sb, oldWords := w } ea t := by
  cases t with
  | loc a => exact h
  | ext va => exact h

theorem translates_me {s t : State} {ea : Int} {write : Bool} {pa : Nat} (h : Translates s ea write pa t) : t.me = s.me := by
  obtain ⟨_, eng, b, rfl⟩ := place_of_translates h
  rfl

/-! ## The checks of all addresses (06 R224; 04 R125, R128) -/

/-- The targets of addresses, each with the TRAP_VAL of its traps. -/
def Targets (c : Core) (eas : List Int) (ts : List (Target × Word)) : Prop :=
  List.Forall₂ (fun ea p => LeadsTo c ea p.1 ∧ p.2 = trunc 64 ea) eas ts

theorem Targets.congr {c : Core} {eas : List Int} {ts : List (Target × Word)} (h : Targets c eas ts) (sb : List SbEntry)
    (w : Table (List Word)) : Targets { c with sb, oldWords := w } eas ts := h.imp fun _ _ hp => ⟨hp.1.congr sb w, hp.2⟩

theorem Targets.resolve {s : State} {eas : List Int} {ts : List (Target × Word)} (h : Targets s.me eas ts) (hs : s.me.spec = none) :
    (eas.mapM fun ea => (do return (← resolveLoc ea, trunc 64 ea) : Op (Target × Word))).run s = .ok ts s := by
  induction h with
  | nil => rfl
  | @cons ea p eas ts hp _ ih =>
    rw [List.mapM_cons, op_bind, op_bind_ok (resolveLoc_leadsTo hp.1 hs), ← hp.2]
    exact (op_bind_ok ih).trans rfl

theorem vectorTargets_ok {s : State} {base : Int} {eas : List Int} {n : Nat} {ts : List (Target × Word)} (hbase : base % 32 = 0)
    (heas : ∀ ea ∈ eas, ea % n = 0) (h : Targets s.me eas ts) (hs : s.me.spec = none) :
    (vectorTargets base eas n).run s = .ok ts s := by
  unfold vectorTargets
  rw [op_bind_ok (checkAlign_ok hbase s)]
  exact (op_bind_ok (forIn_pass fun ea hea => op_bind_ok (checkAlign_ok (heas ea hea) s))).trans (h.resolve hs)

theorem vectorParts_run (x : FormM) (strided : Bool) (s : State) : (vectorParts x strided).run s = .ok (partsOf s.me x strided) s := by
  unfold vectorParts
  rw [op_bind_ok (readBase_run x.a s), op_bind_ok (readBase_run x.b s)]
  cases strided <;> rfl

/-! ## Loads -/

/-- An access at a checked address is the access at its target. -/
theorem ldlAt_run {s : State} {ea : Int} {n : Nat} {t : Target} (ha : ea % n = 0) (h : LeadsTo s.me ea t) (hs : s.me.spec = none) :
    (ldlAt ea n).run s = (loadAt t n (trunc 64 ea)).run s :=
  (op_bind_ok (checkAlign_ok ha s)).trans (op_bind_ok (resolveLoc_leadsTo h hs))

theorem ldlsAt_align {n : Nat} {eas : List Int} {s t : State} {bytes : List Byte} (h : LdlsAt n s eas bytes t) :
    ∀ ea ∈ eas, ea % n = 0 := by
  induction eas generalizing s bytes with
  | nil => exact fun _ h => absurd h List.not_mem_nil
  | cons ea eas ih =>
    obtain ⟨b, bs, s1, hat, hrest, _⟩ := h
    exact List.forall_mem_cons.2 ⟨align_of_ldlAt hat, ih hrest⟩

theorem targets_of_ldlsAt {n : Nat} {eas : List Int} {s t : State} {bytes : List Byte} (h : LdlsAt n s eas bytes t) :
    ∃ ts, Targets s.me eas ts := by
  induction eas generalizing s bytes with
  | nil => exact ⟨[], .nil⟩
  | cons ea eas ih =>
    obtain ⟨b, bs, s1, hat, hrest, _⟩ := h
    obtain ⟨tgt, htgt⟩ := leadsTo_of_ldlAt hat
    obtain ⟨ts, hts⟩ := ih hrest
    rw [ldlAt_me hat] at hts
    exact ⟨(tgt, trunc 64 ea) :: ts, .cons ⟨htgt, rfl⟩ hts⟩

/-- A core that discarded the words fetched ahead finds the same target. -/
theorem LeadsTo.ordered {c : Core} {ea : Int} {t : Target} (h : LeadsTo c ea t) (b : Prop) [Decidable b] :
    LeadsTo (ordered c b) ea t := by
  obtain ⟨w, hw⟩ := ordered_eq c b
  rw [hw]
  exact h.congr c.sb w

/-- The parts of a load, made in order by a core that may have discarded the words fetched ahead. -/
theorem loads_near {n : Nat} {c : Core} {eas : List Int} {ts : List (Target × Word)} {s s' t : State} {bytes : List Byte} {b : Prop}
    [Decidable b] (hc : s.me = c) (hs : c.spec = none) (hts : Targets c eas ts) (hn : Near s s' (ordered c b))
    (h : LdlsAt n s eas bytes t) :
    ∃ parts t', (ts.mapM fun p => loadAt p.1 n p.2).run s' = .ok parts t' ∧ parts.flatten = bytes ∧ Near t t' (ordered c b) := by
  induction hts generalizing s s' bytes with
  | nil =>
    obtain ⟨rfl, rfl⟩ := h
    exact ⟨[], s', rfl, rfl, hn⟩
  | @cons ea p eas ts hp _ ih =>
    obtain ⟨part, rest, s1, hat, hrest, rfl⟩ := h
    subst hc
    obtain ⟨s2, e2, n2⟩ := ldlAt_near hn hs hat
    have hspec : s'.me.spec = none := by rw [hn.1]; exact (ordered_sameStore ..).spec.trans hs
    rw [ldlAt_run (align_of_ldlAt hat) (by rw [hn.1]; exact hp.1.ordered b) hspec, ← hp.2] at e2
    obtain ⟨parts, t', e3, hparts, n3⟩ := ih (ldlAt_me hat) n2 hrest
    refine ⟨part :: parts, t', ?_, by rw [List.flatten_cons, hparts], n3⟩
    rw [List.mapM_cons, op_bind_ok e2, op_bind_ok e3]
    rfl

/-- A write of a vector field sees nothing of the words fetched ahead. -/
theorem vectorWrite_ordered {c c' : Core} {r : BitVec 5} {v : Vec} {tags : BitVec 72} {fmt : Option Nat} (b : Prop) [Decidable b]
    (h : vectorWrite c r v tags fmt = some c') : vectorWrite (ordered c b) r v tags fmt = some (ordered c' b) := by
  unfold vectorWrite at h ⊢
  by_cases hb : b
  · simp only [ordered, if_pos hb]
    by_cases hr : r.toNat < 24
    · rw [if_pos hr] at h ⊢
      cases h
      rfl
    · rw [if_neg hr] at h ⊢
      dsimp only at h ⊢
      split at h
      · next hok => cases h; exact if_pos hok
      · cases h
  · simpa only [ordered, if_neg hb] using h

/-- A vector load: its addresses checked, its release performed, its parts made, vD written, its acquire, its base post-updated. -/
theorem vectorLoad_ok {i : Instr} {x : FormM} {strided : Bool} {s t : State} {bytes : List Byte} {c1 : Core} (h : Issues i s)
    (hbase : (partsOf s.me x strided).1 % 32 = 0)
    (hat : LdlsAt (partsOf s.me x strided).2.2 s (partsOf s.me x strided).2.1 bytes t) (hrel : ReleaseReady s x)
    (hd : vectorWrite s.me x.d (.ofNat 256 (natOfBytes bytes)) 0 (some 1) = some c1) :
    vectorLoad i x strided s = .next (t.completed (postBase (ordered c1 (x.aq = 1 ∨ x.rl = 1)) x)) := by
  obtain ⟨ts, hts⟩ := targets_of_ldlsAt hat
  obtain ⟨s1, n1, e1⟩ := releaseAt_near (Near.refl s) (.refl _) hrel
  obtain ⟨parts, s2, e2, rfl, n2⟩ := loads_near rfl h.2.2.1 hts n1 hat
  obtain ⟨s3, e3, n3⟩ := writeV_near n2 (vectorWrite_ordered (x.rl = 1) hd)
  obtain ⟨s4, n4, e4⟩ := discarded_near n3 x.aq
  rw [ordered_ordered] at n4
  obtain ⟨s5, e5, n5⟩ := postUpdate_near x n4
  have hspec : (ordered c1 (x.aq = 1 ∨ x.rl = 1)).spec = none :=
    (ordered_sameStore c1 _).spec.trans (vectorWrite_spec hd h.2.2.1)
  refine issueSeq_done h ((op_bind_ok (vectorParts_run x strided s)).trans ?_) n5 ((postBase_spec _ x).trans hspec)
  refine (op_bind_ok (vectorTargets_ok hbase (ldlsAt_align hat) hts h.2.2.1)).trans ?_
  exact (e1 _).trans ((op_bind_ok e2).trans ((op_bind_ok e3).trans ((e4 _).trans e5)))

/-! ## Stores -/

theorem stlAt_run {s : State} {ea : Int} {bytes : List Byte} {t : Target} (ha : ea % bytes.length = 0) (h : LeadsTo s.me ea t)
    (hs : s.me.spec = none) : (stlAt ea bytes).run s = (storeAt t bytes (trunc 64 ea)).run s :=
  (op_bind_ok (checkAlign_ok ha s)).trans (op_bind_ok (resolveLoc_leadsTo h hs))

/-- The stores of parts f k at addresses ea, the numbers k going with them. -/
def partStores (f : Nat → List Byte) (ks : List Nat) (eas : List Int) : List (Int × List Byte) :=
  (ks.zip eas).map fun q => (q.2, f q.1)

theorem stlsAt_align {n : Nat} {f : Nat → List Byte} (hf : ∀ k, (f k).length = n) {ks : List Nat} {eas : List Int} {s t : State}
    (hlen : eas.length ≤ ks.length) (h : StlsAt s (partStores f ks eas) t) : ∀ ea ∈ eas, ea % n = 0 := by
  induction eas generalizing s ks with
  | nil => exact fun _ h => absurd h List.not_mem_nil
  | cons ea eas ih =>
    cases ks with
    | nil => simp at hlen
    | cons k ks =>
      obtain ⟨s1, hat, hrest⟩ := h
      have halign := align_of_stlAt hat
      rw [hf] at halign
      exact List.forall_mem_cons.2 ⟨halign, ih (Nat.le_of_succ_le_succ hlen) hrest⟩

theorem targets_of_stlsAt {f : Nat → List Byte} {ks : List Nat} {eas : List Int} {s t : State} (hlen : eas.length ≤ ks.length)
    (h : StlsAt s (partStores f ks eas) t) : ∃ ts, Targets s.me eas ts := by
  induction eas generalizing s ks with
  | nil => exact ⟨[], .nil⟩
  | cons ea eas ih =>
    cases ks with
    | nil => simp at hlen
    | cons k ks =>
      obtain ⟨s1, hat, hrest⟩ := h
      obtain ⟨tgt, htgt⟩ := leadsTo_of_stlAt hat
      obtain ⟨ts, hts⟩ := ih (Nat.le_of_succ_le_succ hlen) hrest
      obtain ⟨sb, hsb⟩ := stlAt_me hat
      have hback := hts.congr s.me.sb s.me.oldWords
      rw [hsb] at hback
      exact ⟨(tgt, trunc 64 ea) :: ts, .cons ⟨htgt, rfl⟩ hback⟩

/-- The parts of a store, made in order by a core that may have discarded the words fetched ahead. -/
theorem stores_near {f : Nat → List Byte} {ks : List Nat} {eas : List Int} {ts : List (Target × Word)} {s s' t : State}
    {b : Prop} [Decidable b] (hs : s.me.spec = none) (hts : Targets s.me eas ts) (hn : Near s s' (ordered s.me b))
    (h : StlsAt s (partStores f ks eas) t) :
    ∃ t', (forEach (ks.zip ts) fun q => storeAt q.2.1 (f q.1) q.2.2).run s' = .ok ⟨⟩ t' ∧ Near t t' (ordered t.me b)
      ∧ t.me.spec = none := by
  induction ks generalizing s s' eas ts with
  | nil =>
    obtain rfl : t = s := h
    exact ⟨s', forEach_nil _ s', hn, hs⟩
  | cons k ks ih =>
    cases hts with
    | nil =>
      obtain rfl : t = s := h
      exact ⟨s', forEach_nil _ s', hn, hs⟩
    | @cons ea p eas ts hp hrest =>
      obtain ⟨s1, hat, hstores⟩ := h
      obtain ⟨s2, e2, n2, hs1⟩ := stlAt_near hn hs hat
      have hspec : s'.me.spec = none := by rw [hn.1]; exact (ordered_sameStore ..).spec.trans hs
      rw [stlAt_run (align_of_stlAt hat) (by rw [hn.1]; exact hp.1.ordered b) hspec, ← hp.2] at e2
      obtain ⟨sb, hsb⟩ := stlAt_me hat
      obtain ⟨t', e3, n3, ht⟩ := ih hs1 (by rw [hsb]; exact Targets.congr hrest sb s.me.oldWords) n2 hstores
      exact ⟨t', (forEach_cons (a := (k, p)) (f := fun q => storeAt q.2.1 (f q.1) q.2.2) e2).trans e3, n3, ht⟩

theorem partsWritable_me {n : Nat} {eas : List Int} {s t : State} (h : PartsWritable n s eas t) : t.me = s.me := by
  induction eas generalizing s with
  | nil => exact congrArg State.me h
  | cons ea eas ih =>
    rcases h with ⟨_, hrest⟩ | ⟨_, pa, s1, htrans, _, hrest⟩
    · exact ih hrest
    · exact (ih hrest).trans (translates_me htrans)

/-- The redirected parts are seen to be writable before any part is stored (07 R241). -/
theorem checks_near {n : Nat} {c d : Core} {eas : List Int} {ts : List (Target × Word)} {s s' t : State} (hc : s.me = c)
    (hts : Targets c eas ts) (hn : Near s s' d) (h : PartsWritable n s eas t) :
    ∃ t', (forEach ts (checkStore n)).run s' = .ok ⟨⟩ t' ∧ Near t t' d := by
  induction hts generalizing s s' with
  | nil =>
    obtain rfl : t = s := h
    exact ⟨s', forEach_nil _ s', hn⟩
  | @cons ea p eas ts hp _ ih =>
    obtain ⟨tgt, val⟩ := p
    obtain ⟨hlead, rfl⟩ := hp
    subst hc
    rcases h with ⟨hspill, hrest⟩ | ⟨hspill, pa, s1, htrans, hreach, hrest⟩
    · cases tgt with
      | loc a =>
        have hcheck : (checkStore n (.loc a, trunc 64 ea)).run s' = .ok () s' := rfl
        obtain ⟨t', e, nt⟩ := ih rfl hn hrest
        exact ⟨t', (forEach_cons hcheck).trans e, nt⟩
      | ext va => exact absurd hlead.2.1 hspill
    · cases tgt with
      | loc a => exact absurd hspill hlead.2.2.1
      | ext va =>
        obtain ⟨_, _, _, rfl⟩ := hlead
        obtain ⟨s2, e2, n2⟩ := extXlate_near (val := trunc 64 ea) hn htrans
        have hreach2 : reachable s2 pa n = true := by rw [n2.eq_cores]; exact hreach
        have hcheck : (checkStore n (.ext (spillTarget s.me ea), trunc 64 ea)).run s' = .ok () s2 := by
          refine (op_bind_ok e2).trans ((op_bind_ok (op_get s2)).trans ?_)
          rw [hreach2]
          rfl
        obtain ⟨t', e3, n3⟩ := ih (translates_me htrans) n2 hrest
        exact ⟨t', (forEach_cons hcheck).trans e3, n3⟩

/-- The addresses of the parts are as many as the parts, at most eight. -/
theorem length_partsOf_le (c : Core) (x : FormM) (strided : Bool) : (partsOf c x strided).2.1.length ≤ (List.range 8).length := by
  cases strided <;> simp [partsOf]

/-- Part k of a value stored in parts of n bytes. -/
def partBytes (v : Vec) (n k : Nat) : List Byte := bytesOfNat n (bitsOf v (8 * n * k) (8 * n))

/-- A vector store whose parts are the addresses eas of n bytes from base. -/
theorem vectorStore_parts {i : Instr} {x : FormM} {strided : Bool} {s s1 s2 : State} {v : Vec} {t : BitVec 72} {c1 : Core}
    {base : Int} {eas : List Int} {n : Nat} (h : Issues i s) (hparts : (vectorParts x strided).run s = .ok (base, eas, n) s)
    (hlen : eas.length ≤ (List.range 8).length) (hv : vectorRead s.me x.d false = some (v, t, c1)) (hbase : base % 32 = 0)
    (hrel : ReleaseReady s x) (hwritable : PartsWritable n (s.setMe c1) eas s1)
    (hstores : StlsAt s1 (partStores (partBytes v n) (List.range 8) eas) s2) :
    vectorStore i x strided s = .next (s2.completed (postBase (ordered s2.me (x.rl = 1)) x)) := by
  have hsame := vectorRead_sameStore hv h.2.2.1
  have hspec := hsame.spec.trans h.2.2.1
  have hme : s1.me = c1 := (partsWritable_me hwritable).trans (State.me_setMe ..)
  have halign := stlsAt_align (fun k => length_bytesOfNat ..) hlen hstores
  obtain ⟨ts, hts⟩ := targets_of_stlsAt hlen hstores
  obtain ⟨s3, e3, n3⟩ := readV_near (Near.refl s) hv
  obtain ⟨s4, n4, e4⟩ := releaseAt_near n3 hsame hrel
  obtain ⟨s5, e5, n5⟩ := checks_near (State.me_setMe ..) (hme ▸ hts) (n4.of_setMe c1) hwritable
  obtain ⟨s6, e6, n6, hs2⟩ := stores_near (hme ▸ hspec) hts (hme ▸ n5) hstores
  obtain ⟨s7, e7, n7⟩ := postUpdate_near x n6
  refine issueSeq_done h ((op_bind_ok hparts).trans ((op_bind_ok e3).trans ?_)) n7
    ((postBase_spec _ x).trans ((ordered_sameStore s2.me _).spec.trans hs2))
  have hts3 : Targets s3.me eas ts := by rw [n3.1, ← hme]; exact hts
  refine (op_bind_ok (vectorTargets_ok hbase halign hts3 (by rw [n3.1]; exact hspec))).trans ?_
  exact (e4 _).trans ((op_bind_ok e5).trans ((op_bind_ok e6).trans e7))

/-- A vector store: vD read, its addresses checked, its release performed, its redirected parts seen to be writable, its parts made,
its base post-updated. -/
theorem vectorStore_ok {i : Instr} {x : FormM} {strided : Bool} {s s1 s2 : State} {v : Vec} {t : BitVec 72} {c1 : Core} (h : Issues i s)
    (hv : vectorRead s.me x.d false = some (v, t, c1)) (hbase : (partsOf s.me x strided).1 % 32 = 0) (hrel : ReleaseReady s x)
    (hwritable : PartsWritable (partsOf s.me x strided).2.2 (s.setMe c1) (partsOf s.me x strided).2.1 s1)
    (hstores : StlsAt s1 (partStores (partBytes v (partsOf s.me x strided).2.2) (List.range 8) (partsOf s.me x strided).2.1) s2) :
    vectorStore i x strided s = .next (s2.completed (postBase (ordered s2.me (x.rl = 1)) x)) :=
  vectorStore_parts h (vectorParts_run x strided s) (length_partsOf_le s.me x strided) hv hbase hrel hwritable hstores

end Sys2Proof.Machine

namespace Sys2Proof.Proofs
open Sys2Proof.Machine Sys2Proof.Claims

/-- Settles O14: of both loads and both stores, which differ in where their parts lie and in nothing else. -/
theorem laneMemoryAccesses : Obligations.LaneMemoryAccesses := by
  unfold Obligations.LaneMemoryAccesses
  simp only [List.forall_mem_cons]
  exact ⟨⟨fun _ _ _ _ _ h hbase hat hrel hd => vectorLoad_ok h hbase hat hrel hd,
      fun _ _ _ _ _ h hbase hat hrel hd => vectorLoad_ok h hbase hat hrel hd, fun _ h => absurd h List.not_mem_nil⟩,
    fun _ _ _ _ _ _ _ h hv hbase hrel hw hst => vectorStore_ok h hv hbase hrel hw hst,
    fun _ _ _ _ _ _ _ h hv hbase hrel hw hst => vectorStore_ok h hv hbase hrel hw hst, fun _ h => absurd h List.not_mem_nil⟩

end Sys2Proof.Proofs
end

section
/-! PROOFS. The events of the brim engines (07 R237-R242, R246, R257): what an item's translation leaves of its stream, where a flit enters
the mesh, and each event by the operation of the engine that it is. -/

namespace Sys2Proof.Machine
open Sys2Proof.Claims

/-! ## Stream contexts -/

@[simp] theorem State.ctx_setCtx_self (s : State) (eng n : Nat) (c : StreamCtx) : (s.setCtx eng n c).ctx eng n = some c := by
  rw [State.ctx, State.setCtx, State.brim_setBrim_self]
  exact Table.find_put_self c n _

theorem State.core_setCtx (s : State) (eng n : Nat) (c : StreamCtx) (l : Nat) : (s.setCtx eng n c).core l = s.core l := rfl

theorem State.core_modRouter_self (s : State) (l : Nat) (f : Router → Router) :
    (s.modRouter l f).core l = { s.core l with router := f (s.core l).router } := State.core_setCore_self _ _ _

theorem ctxEvent_next {s : State} {eng n : Nat} {c : StreamCtx} (heng : eng < 48) (hn : n < 32) (hc : s.ctx eng n = some c)
    (hended : c.ended = false) (f : StreamCtx → State) : ctxEvent eng n s f = .next (f c) := by
  unfold ctxEvent
  rw [if_neg (by omega), hc]
  simp only [hended, Bool.false_eq_true, if_false]

theorem ctxEvent_streamAt {s : State} {eng n : Nat} {c : StreamCtx} (h : StreamAt s eng n c) (f : StreamCtx → State) :
    ctxEvent eng n s f = .next (f c) := by
  obtain ⟨heng, hn, hc, hended, -⟩ := h
  exact ctxEvent_next heng hn hc hended f

/-! ## Translation of an item (07 R231) -/

/-- c1 is c but for its windows and the place of the next one. -/
def StreamCtx.SameButWindows (c c1 : StreamCtx) : Prop := ∃ windows rr, c1 = { c with windows, rr }

theorem StreamCtx.xlate_sameButWindows {c c1 : StreamCtx} {s : State} {root va pa : Nat} {write : Bool}
    (h : c.xlate s root va write = .ok (pa, c1)) : c.SameButWindows c1 := by
  unfold StreamCtx.xlate at h
  split at h
  · cases h; exact ⟨_, _, rfl⟩
  · split at h
    · dsimp only at h
      split at h
      · cases h; exact ⟨_, _, rfl⟩
      · cases h; exact ⟨_, _, rfl⟩
    · cases h

theorem StreamCtx.xlateAll_sameButWindows {s : State} {root : Nat} {write : Bool} {places ps : List (Nat × Nat)} {c c1 : StreamCtx}
    (h : StreamCtx.xlateAll s root write c places = .pieces ps c1) : c.SameButWindows c1 := by
  induction places generalizing c ps with
  | nil => cases h; exact ⟨_, _, rfl⟩
  | cons p places ih =>
    unfold StreamCtx.xlateAll at h
    split at h
    · cases h
    · next pa c2 hx =>
      obtain ⟨_, _, rfl⟩ := xlate_sameButWindows hx
      split at h
      · next hrest =>
        cases h
        obtain ⟨_, _, rfl⟩ := ih hrest
        exact ⟨_, _, rfl⟩
      · next hstop => exact absurd h (hstop _ _)

theorem frozen_of_pagesStand {s : State} {c : StreamCtx} (h : PagesStand s c) : c.frozen s = false := by
  unfold StreamCtx.frozen
  split
  · next r hr => exact List.any_eq_false.2 fun p hp => by simp [h r p hr hp]
  · rfl

/-! ## Items (07 R237-R239) -/

/-- An item that translates and reads leaves its flits to be delivered. -/
theorem streamRead_reads {s : State} {eng n : Nat} {c c1 : StreamCtx} {ps : List (Nat × Nat)} {bytes : List Byte}
    (hpages : PagesStand s c) (hx : StreamCtx.xlateAll s (s.rootAt c.lid) false c (itemPieces c) = .pieces ps c1)
    (hbytes : readPieces s ps = some bytes) : streamRead s eng n c
      = s.setCtx eng n { c1 with stall := none, got := c1.flitsOf c.items (splitBytes (c.places c.items) bytes) } := by
  have hitems : c1.items = c.items := by obtain ⟨_, _, rfl⟩ := StreamCtx.xlateAll_sameButWindows hx; rfl
  unfold itemPieces at hx
  unfold streamRead
  simp only [frozen_of_pagesStand hpages, Bool.false_eq_true, if_false, hx, hbytes, hitems]

/-- An item that translates is written where its bytes go. -/
theorem streamWrite_writes {s s1 : State} {eng n : Nat} {c c1 : StreamCtx} {ps : List (Nat × Nat)}
    (hpages : PagesStand s c) (hx : StreamCtx.xlateAll s (s.rootAt c.lid) true c (itemPieces c) = .pieces ps c1)
    (hbytes : writePieces s ps (c1.bytesOf c.got).flatten = some s1) : streamWrite s eng n c
      = s1.setCtx eng n { c1 with stall := none, got := [], items := c.items + c.itemsPerGroup } := by
  obtain ⟨_, _, rfl⟩ := StreamCtx.xlateAll_sameButWindows hx
  unfold itemPieces at hx
  unfold streamWrite
  simp only [frozen_of_pagesStand hpages, Bool.false_eq_true, if_false, hx, hbytes]
  rfl

/-- The flits of a stream enter where there is room, and for the first of an entry a credit. -/
theorem streamDeliver_enters {s : State} {eng n : Nat} {c : StreamCtx} {j : Inject} {f : Flit} {rest : List Flit}
    (hgot : c.got = f :: rest) (h : MayEnter s c j) : Entered s (streamDeliver s eng n c) eng n c j f rest := by
  obtain ⟨hinject, hroom, hcredit⟩ := h
  have hopen : ¬(2 ≤ (Table.get [] (s.core j.lid).router.ports (dirNum j.dir)).length ∨ (c.beginsEntry ∧ c.credits = 0)) := by
    rintro (hfull | ⟨hbegins, hnone⟩)
    · omega
    · exact hcredit hbegins hnone
  unfold streamDeliver
  rw [hgot, hinject]
  simp only [hopen, if_false]
  refine ⟨⟨_, State.ctx_setCtx_self _ _ _ _, rfl, ?_, rfl⟩, ?_, rfl⟩
  · cases rest <;> rfl
  · rw [State.core_setCtx, State.core_modRouter_self]
    exact Table.get_set_self _ _ _ _

theorem issued_false_of_got {c : StreamCtx} (h : c.got = []) : c.issued = false := by
  have hflits : ¬c.flitsPerItem ≤ 0 := by unfold StreamCtx.flitsPerItem; split <;> decide
  unfold StreamCtx.issued
  rw [h]
  split
  · exact decide_eq_false hflits
  · rfl

theorem Core.slot_setSlot_self {k : Core} {n : Nat} {v : Slot} (h : v.st ≠ .free) : (k.setSlot n v).slot n = v := by
  unfold Core.setSlot Core.slot
  rw [if_neg (by simpa using h)]
  exact Table.get_put_self _ v n _

/-! ## Retries, sleep and wake (07 R242, R246) -/

theorem due_of_le {st : Stall} {now : Nat} (h : st.lastTry + 16384 ≤ now) : st.due now = true := decide_eq_true h

theorem streamRetry_ok {s : State} {eng n pa : Nat} {c c1 : StreamCtx} {st : Stall} (hc : s.ctx eng n = some c) (hst : c.stall = some st)
    (hx : c.xlate s (s.rootAt c.lid) st.va st.write = .ok (pa, c1)) :
    streamRetry s eng n = s.setCtx eng n { c1 with stall := none } := by
  unfold streamRetry
  simp only [hc, hst, hx]

theorem scalarRetry_leaf {s : State} {lid pa size : Nat} {w : Bool} {x : ScalarStall} (hs : s.scalarStalls = [x]) (hx : x.lid = lid)
    (hw : walk s (s.rootAt lid) x.stall.va x.stall.write = .leaf pa size w) : scalarRetry s lid = { s with scalarStalls := [] } := by
  unfold scalarRetry
  simp [hs, hx, hw]

theorem Brim.wake_asleep (b : Brim) : b.wake.asleep = false := by
  unfold Brim.wake
  split
  · rfl
  · next h => simpa using h

theorem Brim.wake_scalar {b : Brim} (h : b.asleep = true) : b.wake.scalar = [] := by
  unfold Brim.wake
  rw [if_pos h]

end Sys2Proof.Machine

namespace Sys2Proof.Proofs
open Sys2Proof.Machine Sys2Proof.Claims

section

variable {eng ctx : Nat} {s : State} {c c1 : StreamCtx}

/-- STREAM_ITEM_READ of a stream with no flits left: it reads its next item, and the first of its flits enters the mesh. -/
theorem streamItemRead_reads {ps : List (Nat × Nat)} {bytes : List Byte} {j : Inject} {f : Flit} {rest : List Flit}
    (h : StreamAt s eng ctx c) (hdir : c.dir ≠ 2) (hgot : c.got = []) (hrunning : c.running = true) (hclosing : c.closing = false)
    (hitems : c.items < c.total) (hrun : s.streamsRun c = true) (hpages : PagesStand s c)
    (hx : StreamCtx.xlateAll s (s.rootAt c.lid) false c (itemPieces c) = .pieces ps c1) (hbytes : readPieces s ps = some bytes)
    (hflits : c1.flitsOf c.items (splitBytes (c.places c.items) bytes) = f :: rest) (henter : MayEnter s c j) :
    ∃ t, exec (.streamItemRead eng ctx) s = .next t ∧ Entered s t eng ctx c j f rest := by
  refine ⟨_, ctxEvent_streamAt h _, ?_⟩
  obtain ⟨-, -, -, -, hstall⟩ := h
  have hread := streamRead_reads (eng := eng) (n := ctx) hpages hx hbytes
  rw [hflits] at hread
  simp only [hdir, hstall, hgot, hrunning, hclosing, hitems, hrun, hread, State.ctx_setCtx_self, Option.isSome_none,
    Bool.false_eq_true, or_self, if_false, List.isEmpty_nil, if_true, Bool.not_false, Bool.and_self, decide_true]
  obtain ⟨_, _, rfl⟩ := StreamCtx.xlateAll_sameButWindows hx
  exact streamDeliver_enters rfl henter

/-- STREAM_ITEM_READ of a stream with flits left: the next one enters the mesh. -/
theorem streamItemRead_delivers {j : Inject} {f : Flit} {rest : List Flit} (h : StreamAt s eng ctx c) (hdir : c.dir ≠ 2)
    (hgot : c.got = f :: rest) (hrun : s.streamsRun c = true) (henter : MayEnter s c j) :
    ∃ t, exec (.streamItemRead eng ctx) s = .next t ∧ Entered s t eng ctx c j f rest := by
  refine ⟨_, ctxEvent_streamAt h _, ?_⟩
  obtain ⟨-, -, -, -, hstall⟩ := h
  have henters := streamDeliver_enters (eng := eng) (n := ctx) hgot henter
  simp only [hdir, hstall, hgot, hrun, Option.isSome_none, Bool.false_eq_true, or_self, if_false, List.isEmpty_cons, Bool.true_or,
    if_true]
  exact henters

theorem streamItemWrite_writes {s1 : State} {ps : List (Nat × Nat)} (h : StreamAt s eng ctx c) (hdir : c.dir = 2)
    (hgot : c.flitsPerItem ≤ c.got.length) (hfinish : s.streamsFinish c = true) (hpages : PagesStand s c)
    (hx : StreamCtx.xlateAll s (s.rootAt c.lid) true c (itemPieces c) = .pieces ps c1)
    (hbytes : writePieces s ps (c1.bytesOf c.got).flatten = some s1) :
    exec (.streamItemWrite eng ctx) s
      = .next (s1.setCtx eng ctx { c1 with stall := none, got := [], items := c.items + c.itemsPerGroup }) := by
  have hissued : c.issued = true := by simp [StreamCtx.issued, hdir, hgot]
  refine (ctxEvent_streamAt h _).trans ?_
  obtain ⟨-, -, -, -, hstall⟩ := h
  simp only [hdir, hstall, hissued, hfinish, streamWrite_writes hpages hx hbytes]
  rfl

/-- STREAM_END of a stream with nothing issued: closing, it ends with code 2, its items done, with code 1. -/
theorem streamEnd_finishes {code : BitVec 2} (h : StreamAt s eng ctx c) (hgot : c.got = []) (hfinish : s.streamsFinish c = true)
    (hcode : c.closing = true ∧ code = 2 ∨ c.closing = false ∧ c.running = true ∧ c.total ≤ c.items ∧ code = 1) :
    exec (.streamEnd eng ctx) s = .next (streamFinish s eng ctx c code) := by
  refine (ctxEvent_streamAt h _).trans ?_
  simp only [issued_false_of_got hgot, hfinish, Bool.not_true, Bool.or_self, Bool.false_eq_true, if_false]
  rcases hcode with ⟨hclosing, rfl⟩ | ⟨hclosing, hrunning, hdone, rfl⟩
  · rw [if_pos hclosing]
  · simp [hclosing, hrunning, hdone]

theorem streamFinish_ends (code : BitVec 2) : ∃ c', (streamFinish s eng ctx c code).ctx eng ctx = some c' ∧ c'.ended = true
    ∧ c'.endCode = code ∧ c'.items = c.items ∧ (((streamFinish s eng ctx c code).core c.lid).slot c.slot).st = .ended
    ∧ (streamFinish s eng ctx c code).tokens = s.tokens ++ [(c.lid, .stream c.slot)] ∧ (streamFinish s eng ctx c code).ext = s.ext := by
  refine ⟨_, State.ctx_setCtx_self s eng ctx _, rfl, rfl, rfl, ?_, rfl, rfl⟩
  exact (congrArg (fun k : Core => (k.slot c.slot).st) (State.core_setCore_self _ _ _)).trans
    (congrArg Slot.st (Core.slot_setSlot_self (by simp)))

theorem completionTokenArrival_arrives {lid : Nat} {k : Token} {rest : List (Nat × Token)} (hlid : lid < coreCount)
    (htokens : s.tokens = (lid, k) :: rest) :
    exec (.completionTokenArrival lid) s
      = .next ({ s with tokens := rest }.setCore lid { s.core lid with tokens := (s.core lid).tokens ++ [k] }) := by
  show execCompletionTokenArrival lid s = _
  unfold execCompletionTokenArrival
  rw [if_neg (Nat.not_le.2 hlid)]
  simp [htokens]

theorem walkRetry_stream {pa : Nat} {st : Stall} (heng : eng < 48) (hctx : ctx < 32) (hc : s.ctx eng ctx = some c)
    (hended : c.ended = false) (hst : c.stall = some st) (hdue : st.lastTry + 16384 ≤ s.cycle.toNat) (hrun : s.streamsRun c = true)
    (hx : c.xlate s (s.rootAt c.lid) st.va st.write = .ok (pa, c1)) :
    exec (.walkRetry (.stream eng ctx)) s = .next (s.setCtx eng ctx { c1 with stall := none }) := by
  refine (ctxEvent_next heng hctx hc hended _).trans ?_
  simp only [hst, due_of_le hdue, hrun, streamRetry_ok hc hst hx]
  rfl

theorem walkRetry_scalar {lid pa size : Nat} {w : Bool} {x : ScalarStall} (hlid : lid < coreCount) (hs : s.scalarStalls = [x])
    (hx : x.lid = lid) (hdue : x.stall.lastTry + 16384 ≤ s.cycle.toNat) (hlive : s.coreLive lid = true)
    (hw : walk s (s.rootAt lid) x.stall.va x.stall.write = .leaf pa size w) :
    exec (.walkRetry (.scalar lid)) s = .next { s with scalarStalls := [] } := by
  have hfind : s.scalarStalls.find? (·.lid == lid) = some x := by simp [hs, hx]
  show execWalkRetry (.scalar lid) s = _
  unfold execWalkRetry
  simp only [if_neg (Nat.not_le.2 hlid), hfind, due_of_le hdue, hlive, scalarRetry_leaf hs hx hw]
  rfl

theorem engineSleep_sleeps (heng : eng < 48) (hctxs : (s.brim eng).ctxs = []) (hstalls : s.scalarStalls = []) :
    exec (.engineSleep eng) s = .next (s.setBrim eng { s.brim eng with asleep := true }) := by
  show execEngineSleep eng s = _
  unfold execEngineSleep
  rw [if_neg (Nat.not_le.2 heng)]
  simp only [hctxs, hstalls]
  rfl

theorem engineWake_wakes (heng : eng < 48) : exec (.engineWake eng) s = .next (s.setBrim eng (s.brim eng).wake) :=
  if_neg (Nat.not_le.2 heng)

end

/-- Settles O32: each event by the operation of the engine that it is, on a stream that nothing hinders. -/
theorem streamEventsHappen : Obligations.StreamEventsHappen := by
  unfold Obligations.StreamEventsHappen
  refine ⟨fun _ _ _ _ _ _ _ _ _ _ => streamItemRead_reads, fun _ _ _ _ _ _ _ => streamItemRead_delivers,
    fun _ _ _ _ _ _ _ => streamItemWrite_writes, ?_, ?_, fun _ _ _ _ _ _ _ => walkRetry_stream,
    fun _ _ _ _ _ _ => walkRetry_scalar, fun _ _ => engineSleep_sleeps, ?_⟩
  · intro eng ctx s c code h hgot hfinish hcode
    obtain ⟨c', hends⟩ := streamFinish_ends (s := s) (eng := eng) (ctx := ctx) (c := c) code
    exact ⟨_, c', streamEnd_finishes h hgot hfinish hcode, hends⟩
  · intro lid s k rest hlid htokens
    exact ⟨_, completionTokenArrival_arrives hlid htokens, rfl, State.core_setCore_self _ _ _,
      fun l hl => State.core_setCore_ne _ hl _⟩
  · intro eng s heng
    refine ⟨_, engineWake_wakes heng, ?_, fun hasleep => ?_, rfl, rfl⟩
    · rw [State.brim_setBrim_self]; exact (s.brim eng).wake_asleep
    · rw [State.brim_setBrim_self]; exact Brim.wake_scalar hasleep

end Sys2Proof.Proofs
end

section
/-! PROOFS. The brim instructions as computations (07 R255), and what reads the core's own LOC for them: a load changes the engine of its
cluster alone. -/

namespace Sys2Proof.Machine
open Sys2Proof.Claims

/-! ## A brim instruction -/

theorem tryCatch_ok {α : Type} {m : Op α} {f : Stop → Op α} {s t : State} {a : α} (h : m.run s = .ok a t) :
    (tryCatch m f : Op α).run s = .ok a t := by
  show EStateM.tryCatch m f s = _
  rw [EStateM.run] at h
  simp only [EStateM.tryCatch, h]

theorem tryCatch_error {α : Type} {m : Op α} {f : Stop → Op α} {s t : State} {e : Stop} (h : m.run s = .error e t) :
    (tryCatch m f : Op α).run s = (f e).run t := by
  show EStateM.tryCatch m f s = _
  rw [EStateM.run] at h
  simp only [EStateM.tryCatch, h]
  rfl

section

variable {i : Instr} {n : Nat} {s s' : State} {body : Op Unit}

/-- A brim instruction whose body completes moves on to the next word. -/
theorem issueBrim_ok (h : Issues i s) (hb : body.run s = .ok () s') (hs : s'.me.spec = none) :
    issueBrim i n body s = .next (s'.completed s'.me) := issueSeq_ok h (tryCatch_ok hb) hs

/-- One that completes beside what it made of the rest of the module. -/
theorem issueBrim_done {u : State} {c : Core} (h : Issues i s) (hb : body.run s = .ok () s') (hn : Near u s' c) (hs : c.spec = none) :
    issueBrim i n body s = .next (u.completed c) := issueSeq_done h (tryCatch_ok hb) hn hs

/-- A trap raised before anything was changed is taken by the handler. -/
theorem issueBrim_handled {t : TrapInfo} (h : Issues i s) (hr : s.inRpt = false) (hm : s.midBody = false) (hh : HandlesTraps s.me)
    (hb : body.run s = .error (.trap t) s) (he : (t.code == causeConfigUe || t.code == causeSoftError) = false) :
    issueBrim i n body s = .next (s.setMe (trapped s.me t.code t.val t.sub.toNat s.me.pc)) :=
  issueSeq_handled h hr hm hh (tryCatch_error hb) (.refl s) (.refl s.me) he

/-- A wait names the slot or context. -/
theorem issueBrim_wait {v : Word} (h : Issues i s) (hb : body.run s = .error (.wait v) s') :
    issueBrim i n body s = .next (s.waiting (brimVal n v)) := issueSeq_wait h (tryCatch_error hb)

/-- So does one behind a step that stands. -/
theorem issueBrim_hold {v : Word} (h : Issues i s) (hr : s'.inRpt = false) (hb : body.run s = .error (.hold v) s') :
    ∃ w : Wait, w.val = brimVal n v
      ∧ issueBrim i n body s = .next (s'.setMe { s'.me with wait := some w, issued := true }) := by
  unfold issueBrim issueSeq
  rw [issue_run h, op_bind, tryCatch_error hb]
  simp only [op_throw, finish, State.markIssued, hr, Core.noteWait, State.setMe_setMe, State.me_setMe]
  exact ⟨_, rfl, rfl⟩

end

theorem brimVal_brimWait (n : Nat) : brimVal n (brimWait n) = brimWait n := ite_self _

/-! ## Words of the core's own LOC (04 R125, R136) -/

/-- A load changes its cluster's engine alone. -/
theorem loaded_clusters {s t : State} {lid a n : Nat} (h : s.loaded lid a n = some t) : t = { s with clusters := t.clusters } := by
  unfold State.loaded State.plainAccess at h
  dsimp only at h
  repeat' split at h
  all_goals cases h
  all_goals rfl

theorem wordsAt_clusters {s t : State} {as : List Nat} {ws : List Word} (h : WordsAt s as ws t) :
    t = { s with clusters := t.clusters } ∧ ws.length = as.length := by
  induction as generalizing s ws with
  | nil => obtain ⟨rfl, rfl⟩ := h; exact ⟨rfl, rfl⟩
  | cons a as ih =>
    obtain ⟨-, -, s1, w, hl, hrest, rfl⟩ := h
    obtain ⟨ht, hlen⟩ := ih hrest
    rw [loaded_clusters hl] at ht
    exact ⟨ht, congrArg (· + 1) hlen⟩

/-- Words that can be read in order are read. -/
theorem mapM_locLoad {s t : State} {ks : List Nat} {f : Nat → Nat} {ws : List Word} {v : Word} (hs : s.me.spec = none)
    (h : WordsAt s (ks.map f) ws t) :
    (ks.mapM fun k => do return BitVec.ofNat 64 (natOfBytes (← locLoad (f k) 8 v)) : Op (List Word)).run s = .ok ws t := by
  induction ks generalizing s ws with
  | nil => obtain ⟨rfl, rfl⟩ := h; rfl
  | cons k ks ih =>
    obtain ⟨hbank, ⟨hpending, hpoison⟩, s1, w, hl, hrest, rfl⟩ := h
    have hclean : ((s.core s.cur).locPoisoned (f k) 8 && !allForwarded s.me.sb s.cur (f k) 8) = false := by
      rcases hpoison with hp | hp <;> simp [hp]
    have hspec : s1.me.spec = none := by rw [loaded_clusters hl]; exact hs
    have hload := locLoad_ok (val := v) hbank hs hpending hclean hl
    rw [List.mapM_cons]
    exact run_ok (run_ok hload (op_pure _ _)) (run_ok (ih hspec hrest) rfl)

theorem locWords_ok {s t : State} {a : Word} {n : Nat} {ws : List Word} (hs : s.me.spec = none) (h : LocWords s a.toNat n ws t) :
    (locWords a n).run s = .ok ws t := by
  obtain ⟨halign, hrange, hwords⟩ := h
  unfold locWords
  rw [if_neg (not_not.2 halign), if_neg (Nat.not_lt.2 hrange)]
  exact mapM_locLoad hs hwords

end Sys2Proof.Machine
end

section
/-! PROOFS. The stream instructions (07 R234, R255-R258): each by what its slot holds. -/

namespace Sys2Proof.Machine
open Sys2Proof.Claims

/-! ## Slots -/

@[simp] theorem setSlot_spec (k : Core) (n : Nat) (v : Slot) : (k.setSlot n v).spec = k.spec := rfl

theorem slotStream_of_holds {s : State} {n : Nat} {st : SlotState} {c : StreamCtx} (h : SlotHolds s n st c) :
    slotStream s n = some (s.me.slot n, c) := by
  unfold slotStream
  dsimp only
  rw [h.2]
  rfl

theorem modStream_run {s : State} {n : Nat} {st : SlotState} {sl : Slot} {c : StreamCtx} (f : StreamCtx → StreamCtx)
    (h : slotStream s n = some (sl, c)) :
    (modStream n st f).run s = .ok () ((s.setCtx sl.eng sl.ctx (f c)).setMe (s.me.setSlot n { sl with st })) := by
  unfold modStream
  rw [op_bind_ok (op_get s), h]
  rfl

/-- An engine replaced, beside another executing core. -/
theorem Near.setBrim {s s' : State} {c : Core} (h : Near s s' c) (p : Nat) (b : Brim) : Near (s.setBrim p b) (s'.setBrim p b) c := by
  have hset : s'.setBrim p b = { s.setBrim p b with cores := s'.cores } := by rw [h.eq_cores]; rfl
  rw [hset]
  exact h.of_cores rfl rfl

theorem Near.setCtx {s s' : State} {c : Core} (h : Near s s' c) (eng n : Nat) (k : StreamCtx) :
    Near (s.setCtx eng n k) (s'.setCtx eng n k) c := by
  have hbrim : s'.brim eng = s.brim eng := by rw [h.eq_cores]; rfl
  rw [State.setCtx, State.setCtx, hbrim]
  exact h.setBrim _ _

theorem Near.ctx {s s' : State} {c : Core} (h : Near s s' c) (eng n : Nat) : s'.ctx eng n = s.ctx eng n := by rw [h.eq_cores]; rfl

theorem ordered_slot (k : Core) (b : Prop) [Decidable b] (n : Nat) : (ordered k b).slot n = k.slot n := by
  obtain ⟨_, h⟩ := ordered_eq k b
  rw [h]
  rfl

/-- The stream of a slot is changed, by a core that may have discarded the words fetched ahead. -/
theorem modStream_near {s s' : State} {n : Nat} {st st' : SlotState} {c : StreamCtx} {b : Prop} [Decidable b] (f : StreamCtx → StreamCtx)
    (hn : Near s s' (ordered s.me b)) (h : SlotHolds s n st c) : ∃ t, (modStream n st' f).run s' = .ok () t
      ∧ Near (s.setCtx (s.me.slot n).eng (s.me.slot n).ctx (f c)) t ((ordered s.me b).setSlot n { s.me.slot n with st := st' }) := by
  have hslot : s'.me.slot n = s.me.slot n := by rw [hn.1, ordered_slot]
  have hstream : slotStream s' n = some (s.me.slot n, c) := by
    rw [slotStream, hslot, hn.ctx, h.2]
    rfl
  refine ⟨_, modStream_run f hstream, ?_⟩
  rw [hn.1]
  exact (hn.setCtx _ _ _).setMe _

/-! ## What a slot does not allow (07 R234) -/

theorem slotMisuse_handled {i : Instr} {n : Nat} {st : SlotState} {s : State} {body : Op Unit} (h : Issues i s) (hr : s.inRpt = false)
    (hm : s.midBody = false) (hh : HandlesTraps s.me) (hb : body.run s = (slotMisuse st n : Op Unit).run s) :
    issueBrim i n body s
      = .next (s.setMe (trapped s.me causeQueue (.ofNat 64 (st.code + 16 + n * 2 ^ 8)) 0 s.me.pc)) :=
  issueBrim_handled h hr hm hh hb rfl

section

variable {x : FormS3} {s : State} {n : Nat} {st : SlotState} {c : StreamCtx}

/-! ## sgo, sstop and sstop.close (07 R257) -/

/-- The acquire of an sgo whose stream asks for one, its scope performed. -/
theorem acquireIf_near {b : Prop} [Decidable b] {scope : Nat} (val : Word) (h : b → s.scopePerformed s.cur scope = true) :
    ∃ s1, Near s s1 (ordered s.me b) ∧ ∀ k : Op Unit,
      (if b then (do waitUnless (s.scopePerformed s.cur scope) val; discardFetched; k) else k).run s = k.run s1 := by
  by_cases hb : b
  · refine ⟨_, Near.set s (ordered s.me b), fun k => ?_⟩
    rw [if_pos hb, h hb, op_bind_ok (waitUnless_true val s), ordered, if_pos hb]
    rfl
  · refine ⟨s, ?_, fun k => by rw [if_neg hb]⟩
    rw [ordered, if_neg hb]
    exact .refl s

theorem sgo_runs (h : Issues (.sgo x) s) (hn : n = bitsOf x.aux 0 3) (hst : st = .opened ∨ st = .paused) (hc : SlotHolds s n st c)
    (hacq : c.acq = true → s.scopePerformed s.cur c.scope = true) :
    execSgo x s = .next (restreamed s (ordered s.me (c.acq = true)) n .run { c with running := true }) := by
  subst hn
  obtain ⟨s1, n1, e1⟩ := acquireIf_near (brimWait (bitsOf x.aux 0 3)) hacq
  obtain ⟨t, e2, n2⟩ := modStream_near (st' := .run) (fun c => { c with running := true }) n1 hc
  refine issueBrim_done h ?_ n2 ((ordered_sameStore s.me _).spec.trans h.2.2.1)
  rw [op_bind_ok (op_get s), hc.1, slotStream_of_holds hc]
  rcases hst with rfl | rfl
  · exact (e1 _).trans e2
  · exact (e1 _).trans e2

theorem sstop_pauses (h : Issues (.sstop x) s) (hn : n = bitsOf x.aux 0 3) (hc : SlotHolds s n .run c) :
    execSstop x s = .next (restreamed s s.me n .paused { c with running := false }) := by
  subst hn
  refine issueBrim_done h ?_ (Near.set _ _) h.2.2.1
  rw [op_bind_ok (getMe_run s), hc.1]
  exact modStream_run _ (slotStream_of_holds hc)

/-- A slot whose state asks for nothing is left as it is. -/
theorem noEffect_ok {i : Instr} {body : Op Unit} (h : Issues i s) (hb : body.run s = .ok () s) :
    issueBrim i n body s = .next (s.completed s.me) := issueBrim_ok h hb h.2.2.1

theorem streamFinish_spec (s : State) (eng n : Nat) (c : StreamCtx) (code : BitVec 2) :
    (streamFinish s eng n c code).me.spec = s.me.spec := by
  unfold streamFinish
  extract_lets t k u
  exact core_setCore_field (s := t) (k := c.lid) (c := k.setSlot c.slot { k.slot c.slot with st := .ended }) Core.spec rfl s.cur

theorem sstopClose_closes (h : Issues (.sstopClose x) s) (hn : n = bitsOf x.aux 0 3) (hst : st = .opened ∨ st = .run ∨ st = .paused)
    (hc : SlotHolds s n st c) : ∃ t, t = (if c.issued then s.setCtx (s.me.slot n).eng (s.me.slot n).ctx { c with closing := true }
        else streamFinish s (s.me.slot n).eng (s.me.slot n).ctx c 2)
      ∧ execSstopClose x s = .next (t.completed t.me) := by
  subst hn
  refine ⟨_, rfl, issueBrim_ok h ?_ ?_⟩
  · rw [op_bind_ok (op_get s), hc.1, slotStream_of_holds hc]
    rcases hst with rfl | rfl | rfl <;> dsimp only <;> split <;> rfl
  · split
    · exact h.2.2.1
    · exact (streamFinish_spec ..).trans h.2.2.1

/-! ## swait, sstat and sstat.cnt (07 R258) -/

/-- Flags that are raised only where b holds. -/
theorem raiseIf_near (b : Prop) [Decidable b] (f : BitVec 7) :
    ∃ s1, Near s s1 (if b then s.me.raiseFlags f else s.me) ∧ ∀ k : Op Unit,
      (if b then (do raise f; k) else k).run s = k.run s1 := by
  by_cases hb : b
  · rw [if_pos hb]
    obtain ⟨s1, e1, n1⟩ := raise_near f (Near.refl s)
    exact ⟨s1, n1, fun k => by rw [if_pos hb, op_bind_ok e1]⟩
  · rw [if_neg hb]
    exact ⟨s, .refl s, fun k => by rw [if_neg hb]⟩

/-- A destination that takes the result of a core with this router is ready. -/
theorem destReady_of_router {d : BitVec 5} {v : Word} {c1 c2 : Core} (h : scalarWrite c1 d v = some c2)
    (hrouter : c1.router = s.me.router) : (destReady d 1).run s = .ok () s := destReady_ok fun hr => by
  have hpush := canPush_of_scalarWrite h hr
  unfold Core.canPush Core.route Core.qtag at hpush ⊢
  rwa [hrouter] at hpush

/-- A core whose slot n is free, the token of its stream taken. -/
def slotFreed (k : Core) (n : Nat) : Core :=
  { k.setSlot n { st := .free, eng := 0, ctx := 0 } with tokens := k.tokens.erase (.stream n) }

/-- The module without the stream context that a slot is bound to. -/
def ctxFreed (s : State) (sl : Slot) : State :=
  s.setBrim sl.eng { s.brim sl.eng with ctxs := Table.erase sl.ctx (s.brim sl.eng).ctxs }

theorem freeSlot_eq_freed (s : State) (n : Nat) : s.freeSlot n = (ctxFreed s (s.me.slot n)).setMe (slotFreed s.me n) := rfl

/-- A slot is freed by a core that may have raised flags. -/
theorem freeSlot_near {s1 : State} {c1 : Core} (n : Nat) (hn : Near s s1 c1) (hslots : c1.slots = s.me.slots) :
    Near (ctxFreed s (s.me.slot n)) (s1.freeSlot n) (slotFreed c1 n) := by
  have hslot : s1.me.slot n = s.me.slot n := by rw [hn.1, Core.slot, hslots]; rfl
  have hbrim : s1.brim (s.me.slot n).eng = s.brim (s.me.slot n).eng := by rw [hn.eq_cores]; rfl
  rw [freeSlot_eq_freed, hslot, hn.1, ctxFreed, ctxFreed, hbrim]
  exact (hn.setBrim _ _).setMe _

theorem acquire_run (s : State) : acquire.run s = .ok () (s.setMe { s.me with oldWords := [] }) := rfl

theorem swait_frees {c1 c2 : Core} (h : Issues (.swait x) s) (hn : n = bitsOf x.aux 0 3) (hst : (s.me.slot n).st = .ended)
    (htoken : Token.stream n ∈ s.me.tokens)
    (hflags : c1 = (if (streamStatus s n).getLsbD 6 then s.me.raiseFlags flagEXC else s.me))
    (hd : scalarWrite { slotFreed c1 n with oldWords := [] } x.d (streamStatus s n) = some c2) :
    execSwait x s = .next ((ctxFreed s (s.me.slot n)).completed c2) := by
  subst hn
  have hspec : c1.spec = none := by rw [hflags]; split; exacts [raiseFlags_spec _ h.2.2.1, h.2.2.1]
  have hcore : c1.router = s.me.router ∧ c1.slots = s.me.slots := by
    rw [hflags]
    split
    · rw [raiseFlags_noSpec _ h.2.2.1]; exact ⟨rfl, rfl⟩
    · exact ⟨rfl, rfl⟩
  have hdone : (SlotState.ended == .ended && s.me.tokens.contains (.stream (bitsOf x.aux 0 3))) = true := by
    simpa using htoken
  obtain ⟨s1, n1, e1⟩ := raiseIf_near (s := s) ((streamStatus s (bitsOf x.aux 0 3)).getLsbD 6 = true) flagEXC
  rw [← hflags] at n1
  have n2 := freeSlot_near (bitsOf x.aux 0 3) n1 hcore.2
  obtain ⟨s3, e3, n3⟩ := writeS_near (n2.setMe { slotFreed c1 (bitsOf x.aux 0 3) with oldWords := [] }) hd
  refine issueBrim_done h ?_ n3 (scalarWrite_spec hd hspec)
  rw [op_bind_ok (op_get s)]
  dsimp only
  rw [hst, if_neg (by decide), hdone, op_bind_ok (waitUnless_true _ s),
    op_bind_ok (destReady_of_router hd hcore.1)]
  refine (e1 _).trans ((op_bind_ok (op_modify _ s1)).trans ((op_bind_ok (acquire_run _)).trans ?_))
  rw [n2.1]
  exact e3

theorem sstat_reads {c1 : Core} (h : Issues (.sstat x) s)
    (hd : scalarWrite s.me x.d (streamStatus s (bitsOf x.aux 0 3)) = some c1) : execSstat x s = .next (s.completed c1) := by
  obtain ⟨s1, e1, n1⟩ := writeS_near (Near.refl s) hd
  exact issueBrim_done h ((op_bind_ok (op_get s)).trans e1) n1 (scalarWrite_spec hd h.2.2.1)

theorem sstatCnt_reads {c1 : Core} (h : Issues (.sstatCnt x) s) (hst : st ≠ .free) (hc : SlotHolds s (bitsOf x.aux 0 3) st c)
    (hd : scalarWrite s.me x.d c.counters = some c1) : execSstatCnt x s = .next (s.completed c1) := by
  obtain ⟨s1, e1, n1⟩ := writeS_near (Near.refl s) hd
  refine issueBrim_done h ((op_bind_ok (op_get s)).trans ?_) n1 (scalarWrite_spec hd h.2.2.1)
  dsimp only
  rw [hc.1, slotStream_of_holds hc]
  cases st with
  | free => exact absurd rfl hst
  | _ => exact e1

theorem bit_mul (b : Bool) (k : Nat) : bit b * k = if b then k else 0 := by
  cases b <;> simp [bit]

theorem ite_isSome {α : Type} (o : Option α) [Decidable (o = none)] (k : Nat) :
    (if o.isSome then k else 0) = if o = none then 0 else k := by
  cases o <;> simp

theorem streamStatus_eq (hst : st ≠ .free) (hc : SlotHolds s n st c) :
    streamStatus s n = .ofNat 64 (st.code + c.endCode.toNat * 2 ^ 4 + (if c.exc then 2 ^ 6 else 0)
      + (if c.stall = none then 0 else 2 ^ 7) + c.cause.toNat * 2 ^ 8 + (s.me.slot n).eng * 2 ^ 16
      + (s.me.slot n).ctx * 2 ^ 22 + c.items % 2 ^ 32 * 2 ^ 32) := by
  unfold streamStatus
  rw [hc.1, slotStream_of_holds hc, ← ite_isSome, ← bit_mul, ← bit_mul]
  cases st with
  | free => exact absurd rfl hst
  | _ => rfl

/-! ## sopen (07 R256) -/

theorem sopenWords_ok {s1 : State} {a : Word} {ws : List Word} {tec : Bool} (hs : s.me.spec = none)
    (h : Opening s a.toNat ws tec s1) : ∃ v : Word, (sopenWords a).run s = .ok (ws ++ [v]) s1 ∧ ws.length = 8 ∧ v.getLsbD 0 = tec
      ∧ s1 = { s with clusters := s1.clusters } := by
  unfold sopenWords
  rcases h with ⟨hnone, hwords, rfl⟩ | ⟨v, hsome, hlen, rfl, rfl⟩
  · obtain ⟨hs1, hlen⟩ := wordsAt_clusters hwords.2.2
    refine ⟨BitVec.ofNat 64 (bit s.me.tec), ?_, by simpa using hlen, by cases s.me.tec <;> rfl, hs1⟩
    have hme : s1.me = s.me := by rw [hs1]; rfl
    rw [op_bind_ok (getMe_run s), hnone]
    refine (op_bind_ok (locWords_ok hs hwords)).trans ?_
    rw [op_bind_ok (getMe_run s1), hme]
    rfl
  · refine ⟨v, ?_, hlen, rfl, rfl⟩
    rw [op_bind_ok (getMe_run _), hsome]
    simp

/-- A slot that is FREE, with a descriptor that passes its checks: sopen looks for the lowest free context of its engine. -/
theorem sopen_run {s1 : State} {ws : List Word} {tec : Bool} (hs : s.me.spec = none) (hn : n = bitsOf x.aux 0 3)
    (hst : (s.me.slot n).st = .free) (ho : Opening s (s.me.reg x.a.toNat).toNat ws tec s1)
    (hcheck : (openedStream s n ws tec).check (wordOf (.sopen x)) = none)
    (htag : (openedStream s n ws tec).tagHeld (s.brim (s.portOf s.cur)) = false) :
    ∃ v : Word, ∃ body : Op Unit, v.getLsbD 0 = tec ∧ s1 = { s with clusters := s1.clusters }
      ∧ (∀ u, execSopen x u = issueBrim (.sopen x) n body u)
      ∧ body.run s = match (List.range 32).find? (fun k => (s.ctx (s.portOf s.cur) k).isNone) with
        | none => .error (.hold (brimWait n)) (s1.setMe { s.me with opening := ws ++ [v] })
        | some k => .ok () (((s1.setBrim (s.portOf s.cur) (s.brim (s.portOf s.cur)).wake).setCtx (s.portOf s.cur) k
            ((openedStream s n ws tec).withWindows s1 (s.rootAt s.cur))).setMe
            { s.me.setSlot n { st := .opened, eng := s.portOf s.cur, ctx := k } with opening := [] }) := by
  subst hn
  obtain ⟨v, hwords, hlen, rfl, hs1⟩ := sopenWords_ok hs ho
  refine ⟨v, _, rfl, hs1, fun _ => rfl, ?_⟩
  rw [op_bind_ok (readBase_run x.a s), op_bind_ok (op_get s)]
  dsimp only
  have htake : (ws ++ [v]).take 8 = ws := hlen ▸ List.take_left
  have hget : (ws ++ [v]).getD 8 0 = v := by simp [hlen]
  unfold openedStream at hcheck htag ⊢
  rw [hst, if_neg (by decide), op_bind_ok hwords, htake, hget, show x.word 0x70 = wordOf (.sopen x) from rfl, hcheck]
  dsimp only
  rw [htag, if_neg Bool.false_ne_true]
  have hme : s1.me = s.me := by rw [hs1]; rfl
  have hbrim : s1.brim (s.portOf s.cur) = s.brim (s.portOf s.cur) := by rw [hs1]; rfl
  have hroot : s1.rootAt s1.cur = s.rootAt s.cur := by rw [hs1]; rfl
  cases (List.range 32).find? (fun k => (s.ctx (s.portOf s.cur) k).isNone) with
  | none =>
    dsimp only
    rw [op_bind_ok (modMe_run _ s1), hme]
    rfl
  | some k =>
    dsimp only
    rw [op_bind_ok (op_modify _ s1), hbrim, hroot]
    exact congrArg (fun c => EStateM.Result.ok () (State.setMe _ { Core.setSlot c _ _ with opening := [] })) hme

theorem sopen_opens {s1 : State} {k : Nat} {ws : List Word} {tec : Bool} (h : Issues (.sopen x) s) (hn : n = bitsOf x.aux 0 3)
    (hst : (s.me.slot n).st = .free) (ho : Opening s (s.me.reg x.a.toNat).toNat ws tec s1)
    (hcheck : (openedStream s n ws tec).check (wordOf (.sopen x)) = none)
    (htag : (openedStream s n ws tec).tagHeld (s.brim (s.portOf s.cur)) = false) (hk : k < 32)
    (hfree : s.ctx (s.portOf s.cur) k = none) (hbelow : ∀ j < k, s.ctx (s.portOf s.cur) j ≠ none) :
    execSopen x s = .next
      (((s1.setBrim (s.portOf s.cur) (s.brim (s.portOf s.cur)).wake).setCtx (s.portOf s.cur) k
        ((openedStream s n ws tec).withWindows s1 (s.rootAt s.cur))).completed
        { s.me.setSlot n { st := .opened, eng := s.portOf s.cur, ctx := k } with opening := [] }) := by
  obtain ⟨_, body, -, -, hbody, hrun⟩ := sopen_run h.2.2.1 hn hst ho hcheck htag
  have hfind : (List.range 32).find? (fun k => (s.ctx (s.portOf s.cur) k).isNone) = some k :=
    List.find?_range_eq_some.2 ⟨by simp [hfree], List.mem_range.2 hk, fun j hj => by simpa [Option.isSome_iff_ne_none] using hbelow j hj⟩
  rw [hfind] at hrun
  rw [hbody]
  exact issueBrim_done h hrun (Near.set _ _) h.2.2.1

theorem sopen_waits {s1 : State} {ws : List Word} {tec : Bool} (h : Issues (.sopen x) s) (hr : s.inRpt = false)
    (hn : n = bitsOf x.aux 0 3) (hst : (s.me.slot n).st = .free) (ho : Opening s (s.me.reg x.a.toNat).toNat ws tec s1)
    (hcheck : (openedStream s n ws tec).check (wordOf (.sopen x)) = none)
    (htag : (openedStream s n ws tec).tagHeld (s.brim (s.portOf s.cur)) = false)
    (hall : ∀ j < 32, s.ctx (s.portOf s.cur) j ≠ none) :
    ∃ t v, execSopen x s = .next t ∧ v.getLsbD 0 = tec ∧ t.brims = s.brims
      ∧ t.me = { s.me with opening := ws ++ [v], wait := t.me.wait, issued := true }
      ∧ (t.me.wait.map (·.val)) = some (.ofNat 64 (6 + n * 2 ^ 16)) := by
  obtain ⟨v, body, hv, hs1, hbody, hrun⟩ := sopen_run h.2.2.1 hn hst ho hcheck htag
  have hfind : (List.range 32).find? (fun k => (s.ctx (s.portOf s.cur) k).isNone) = none :=
    List.find?_range_eq_none.2 fun j hj => by simpa [Option.isSome_iff_ne_none] using hall j hj
  rw [hfind] at hrun
  have hr1 : s1.inRpt = false := by rw [hs1]; exact hr
  have hbrims : s1.brims = s.brims := by rw [hs1]
  obtain ⟨w, hw, hwait⟩ := issueBrim_hold (s' := s1.setMe _) h hr1 hrun
  refine ⟨_, v, (hbody s).trans hwait, hv, hbrims, by simp only [State.me_setMe], ?_⟩
  simp only [State.me_setMe, Option.map_some, hw, brimVal_brimWait]
  rfl

end

end Sys2Proof.Machine

namespace Sys2Proof.Proofs
open Sys2Proof.Machine Sys2Proof.Claims

/-- A state of its slot that an instruction does not allow is seen before anything else (07 R234). -/
theorem slotMisuses : ∀ p ∈ ([(.sopen, [.opened, .run, .paused, .ended]), (.sgo, [.free, .ended]), (.sstop, [.free, .opened, .paused]),
      (.sstopClose, [.free]), (.swait, [.free])] : List ((FormS3 → Instr) × List SlotState)),
    ∀ (x : FormS3) (s : State) (st : SlotState), (s.me.slot (bitsOf x.aux 0 3)).st = st → st ∈ p.2 →
      ∃ body : Op Unit, exec (p.1 x) s = issueBrim (p.1 x) (bitsOf x.aux 0 3) body s
        ∧ body.run s = (slotMisuse st (bitsOf x.aux 0 3) : Op Unit).run s := by
  simp only [List.forall_mem_cons]
  refine ⟨fun x s st hst hmem => ⟨_, rfl, ?_⟩, fun x s st hst hmem => ⟨_, rfl, ?_⟩, fun x s st hst hmem => ⟨_, rfl, ?_⟩,
    fun x s st hst hmem => ⟨_, rfl, ?_⟩, fun x s st hst hmem => ⟨_, rfl, ?_⟩, fun _ h => absurd h List.not_mem_nil⟩
  · have hne : st ≠ .free := fun hfree => absurd (hfree ▸ hmem) (by decide)
    rw [op_bind_ok (readBase_run x.a s), op_bind_ok (op_get s)]
    dsimp only
    rw [hst, if_pos hne]
    rfl
  · rw [op_bind_ok (op_get s), hst]
    rcases (by simpa using hmem : st = .free ∨ st = .ended) with rfl | rfl <;> rfl
  · rw [op_bind_ok (getMe_run s), hst]
    rcases (by simpa using hmem : st = .free ∨ st = .opened ∨ st = .paused) with rfl | rfl | rfl <;> rfl
  · rw [op_bind_ok (op_get s), hst, List.mem_singleton.1 hmem]
  · rw [op_bind_ok (op_get s)]
    dsimp only
    rw [hst, if_pos (List.mem_singleton.1 hmem)]
    rfl

/-- What sopen, sgo, sstop and sstop.close make of a slot (07 R234, R256, R257). -/
theorem streamSlotsMove : StreamSlotsMove := by
  refine ⟨fun _ _ _ _ _ _ _ => sopen_opens, fun _ _ _ _ _ _ => sopen_waits, fun _ _ _ _ _ => sgo_runs, fun _ _ _ _ => sstop_pauses, ?_,
    fun _ _ _ _ _ => sstopClose_closes⟩
  simp only [List.forall_mem_cons]
  refine ⟨fun x s h hst => ?_, fun x s h hst => ?_, fun x s h hst => ?_, fun _ h => absurd h List.not_mem_nil⟩
  · refine noEffect_ok h ?_
    rw [op_bind_ok (op_get s), hst]
    rfl
  · refine noEffect_ok h ?_
    rw [op_bind_ok (getMe_run s), hst]
    rfl
  · refine noEffect_ok h ?_
    rw [op_bind_ok (op_get s), hst]
    rfl

/-- What swait, sstat and sstat.cnt deliver of a slot, and how a use that it does not allow traps (07 R234, R258). -/
theorem streamsAreReadAndFreed : StreamsAreReadAndFreed := by
  refine ⟨fun _ _ _ _ _ => swait_frees, fun _ _ _ => sstat_reads, fun _ _ _ _ _ => sstatCnt_reads, fun _ _ _ _ => streamStatus_eq, ?_⟩
  intro p hp x s n st h hr hm hh hn hst hmem
  subst hn
  obtain ⟨body, hexec, hrun⟩ := slotMisuses p hp x s st hst hmem
  rw [hexec]
  exact slotMisuse_handled h hr hm hh hrun

/-- Settles O47: each instruction by the state of its slot. -/
theorem streamInstructionsComplete : Obligations.StreamInstructionsComplete := ⟨streamSlotsMove, streamsAreReadAndFreed⟩

end Sys2Proof.Proofs
end

section
/-! PROOFS. The circular-buffer instructions (07 R249-R252, R259-R261): each by what its context holds. -/

namespace Sys2Proof.Machine
open Sys2Proof.Claims

/-! ## What a brim instruction checks before it changes anything -/

theorem checkTag_tagOk {s : State} {t : Nat} (h : TagOk s.me t) : (checkTag t).run s = .ok () s := by
  obtain ⟨hvalid, hsend⟩ := h
  unfold checkTag
  rw [op_bind_ok (getMe_run s), hvalid]
  simp [Nat.not_le.2 hsend]

theorem brimRoom_room {s : State} {k : Nat} (n : Nat) (h : Room s.me k) : (brimRoom k n).run s = .ok () s := by
  unfold brimRoom
  rw [op_bind_ok (getMe_run s), decide_eq_true (show s.me.router.outq.length + k ≤ 8 from h)]
  rfl

theorem pushFlits_run (fs : List Flit) (s : State) : (pushFlits fs).run s = .ok () (s.setMe (s.me.pushed fs)) := rfl

theorem cbConsumer_run {s : State} {n : Nat} {b : CbCtx} (hb : s.me.cb n = some b) (hp : b.producer = false) :
    (cbConsumer n).run s = .ok b s := by
  unfold cbConsumer
  rw [op_bind_ok (getMe_run s), hb]
  simp [hp]

theorem cbProducer_run {s : State} {n : Nat} {b : CbCtx} (hb : s.me.cb n = some b) (hp : b.producer = true) :
    (cbProducer n).run s = .ok b s := by
  unfold cbProducer
  rw [op_bind_ok (getMe_run s), hb]
  simp [hp]

/-! ## What a vector read leaves (06 R202) -/

/-- c' has the circular buffers of c, and what its pushes go by. -/
def Core.SamePush (c c' : Core) : Prop := c'.cbs = c.cbs ∧ c'.router.routes = c.router.routes ∧ c'.router.outq = c.router.outq

theorem Core.SamePush.trans {c c1 c2 : Core} (h : c.SamePush c1) (h' : c1.SamePush c2) : c.SamePush c2 := by
  obtain ⟨hcbs, hroutes, houtq⟩ := h
  obtain ⟨hcbs', hroutes', houtq'⟩ := h'
  exact ⟨hcbs'.trans hcbs, hroutes'.trans hroutes, houtq'.trans houtq⟩

theorem Core.SamePush.tagOk {c c' : Core} {t : Nat} (h : c.SamePush c') (ht : TagOk c t) : TagOk c' t := by
  unfold TagOk Core.route
  rw [h.2.1]
  exact ht

theorem Core.SamePush.room {c c' : Core} {k : Nat} (h : c.SamePush c') (hk : Room c k) : Room c' k := by
  unfold Room
  rw [h.2.2]
  exact hk

theorem raiseFlags_cbs (c : Core) (f : BitVec 7) : (c.raiseFlags f).cbs = c.cbs := by
  unfold Core.raiseFlags
  split <;> rfl

theorem consume_samePush (c : Core) (f : Flit) (n p : Nat) : c.SamePush (c.consume f n p) := by
  unfold Core.consume Core.SamePush
  cases f.exc <;> cases f.rel <;> simp only [if_true, if_false, Bool.false_eq_true, raiseFlags_cbs, and_self]

theorem popped_samePush (c : Core) (n : Nat) (f : Flit) (rest : List Flit) : c.SamePush (c.popped n f rest) :=
  .trans (c1 := { c.setQueue n rest with half := putBits c.half n 1 0 }) ⟨rfl, rfl, rfl⟩ (consume_samePush _ f n 0)

theorem vectorRead_samePush {c c' : Core} {r : BitVec 5} {bx : Bool} {v : Vec} {t : BitVec 72}
    (h : vectorRead c r bx = some (v, t, c')) : c.SamePush c' := by
  rcases vectorRead_cases h with ⟨-, -, -, rfl⟩ | ⟨-, f, g, rest, -, -, -, -, -, rfl⟩
  · exact ⟨rfl, rfl, rfl⟩
  · exact (popped_samePush _ _ _ _).trans (popped_samePush _ _ _ _)

/-! ## The instructions -/

section

variable {x : FormS3} {s : State} {n : Nat} {b : CbCtx}

theorem ofRecord_eq {w : Word}
    (h : b = { record := w, count := if b.producer then b.nent else 0, head := 0, tail := 0, pos := 0, err := none, exc := false }) :
    CbCtx.ofRecord w = b := by
  have hrecord : b.record = w := congrArg CbCtx.record h
  refine Eq.trans ?_ h.symm
  unfold CbCtx.ofRecord CbCtx.producer CbCtx.nent
  rw [hrecord]

theorem inside_of_carveOut {c : Core} (h : b.producer = false → c.cbufBase ≤ b.base ∧ b.base + 16 * b.nent * b.esz ≤ c.cbufLim) :
    b.outside c = false := by
  unfold CbCtx.outside
  cases hp : b.producer with
  | true => rfl
  | false =>
    obtain ⟨hbase, hlim⟩ := h hp
    simp [Nat.not_lt.2 hbase, Nat.not_lt.2 hlim]

theorem cbinit_sets {s1 : State} {w : Word} (h : Issues (.cbinit x) s) (hn : n = bitsOf x.aux 0 3)
    (hold : ∀ o, s.me.cb n = some o → o.count = 0 ∧ o.pos = 0) (hw : LocWords s (s.me.reg x.a.toNat).toNat 1 [w] s1)
    (hreserved : bitsOf w 54 10 = 0)
    (hb : b = { record := w, count := if b.producer then b.nent else 0, head := 0, tail := 0, pos := 0, err := none, exc := false })
    (hplace : b.producer = false → s.me.cbufBase ≤ b.base ∧ b.base + 16 * b.nent * b.esz ≤ s.me.cbufLim) :
    execCbinit x s = .next (s1.completed (buffered s.me n b)) := by
  subst hn
  have hme : s1.me = s.me := by rw [(wordsAt_clusters hw.2.2).1]; rfl
  have hidle : ((s.me.cb (bitsOf x.aux 0 3)).map (·.inUse)).getD false = false := by
    cases hc : s.me.cb (bitsOf x.aux 0 3) with
    | none => rfl
    | some o =>
      obtain ⟨hcount, hpos⟩ := hold o hc
      simp [CbCtx.inUse, hcount, hpos]
  have hrecord : b.record = w := congrArg CbCtx.record hb
  refine issueBrim_done (s' := s1.setMe (buffered s.me (bitsOf x.aux 0 3) b)) h ?_ (Near.set _ _) h.2.2.1
  rw [op_bind_ok (readBase_run x.a s), op_bind_ok (locWords_ok h.2.2.1 hw), op_bind_ok (getMe_run s1), hme]
  dsimp only [List.headD_cons]
  rw [hidle, if_neg Bool.false_ne_true, ofRecord_eq hb, inside_of_carveOut hplace, if_neg Bool.false_ne_true, hrecord,
    if_neg (not_not.2 hreserved), modMe_run, hme]
  rfl

theorem cbwait_delivers {c1 c2 : Core} (h : Issues (.cbwait x) s) (hn : n = bitsOf x.aux 0 3) (hb : s.me.cb n = some b)
    (hp : b.producer = false) (hfits : bitsOf x.aux 4 12 + 1 ≤ b.nent) (herr : b.err = none)
    (hfilled : bitsOf x.aux 4 12 + 1 ≤ b.count) (hflags : c1 = (if b.exc then s.me.raiseFlags flagEXC else s.me))
    (hd : scalarWrite { buffered c1 n { b with exc := false } with oldWords := [] } x.d (entryAddress b) = some c2) :
    execCbwait x s = .next (s.completed c2) := by
  subst hn
  have hspec : c1.spec = none := by rw [hflags]; split; exacts [raiseFlags_spec _ h.2.2.1, h.2.2.1]
  have hrouter : c1.router = s.me.router := by
    rw [hflags]
    split
    · rw [raiseFlags_noSpec _ h.2.2.1]
    · rfl
  obtain ⟨s1, n1, e1⟩ := raiseIf_near (s := s) (b.exc = true) flagEXC
  rw [← hflags] at n1
  obtain ⟨s2, e2, n2⟩ := writeS_near ((n1.setMe (buffered c1 (bitsOf x.aux 0 3) { b with exc := false })).setMe
    { buffered c1 (bitsOf x.aux 0 3) { b with exc := false } with oldWords := [] }) hd
  refine issueBrim_done h ?_ n2 (scalarWrite_spec hd hspec)
  rw [op_bind_ok (cbConsumer_run hb hp)]
  obtain ⟨_, _, _, _, _, _, _⟩ := b
  cases herr
  dsimp only
  rw [if_neg (Nat.not_lt.2 hfits), decide_eq_true hfilled, op_bind_ok (waitUnless_true _ s), op_bind_ok (destReady_of_router hd hrouter)]
  refine (e1 _).trans ((op_bind_ok (modMe_run _ s1)).trans ((op_bind_ok (acquire_run _)).trans ?_))
  rw [n1.1, State.me_setMe]
  exact e2

theorem cbrel_frees {k : Nat} (h : Issues (.cbrel x) s) (hn : n = bitsOf x.aux 0 3) (hk : k = bitsOf x.aux 4 12 + 1)
    (hb : s.me.cb n = some b) (hp : b.producer = false) (hcount : k ≤ b.count) (htag : TagOk s.me b.ctag) (hroom : Room s.me 1) :
    execCbrel x s = .next (s.completed
      ((buffered s.me n { b with count := b.count - k, head := (b.head + k) % b.nent }).pushed
        [mkFlit 15 5 (excNow s.me) false 0 0 0 (.ofNat 7 b.ctag) (.ofNat 128 k)])) := by
  subst hn hk
  refine issueBrim_done h ?_ (Near.set s _) h.2.2.1
  rw [op_bind_ok (cbConsumer_run hb hp)]
  dsimp only
  rw [if_neg (Nat.not_lt.2 hcount), op_bind_ok (checkTag_tagOk htag), op_bind_ok (brimRoom_room _ hroom),
    op_bind_ok (modMe_run _ s), op_bind_ok (getMe_run _), pushFlits_run, State.me_setMe, State.setMe_setMe]
  rfl

theorem begins_eq (b : CbCtx) : b.begins = (if b.pos = 0 then 1 else 0) + (if (b.pos + 1) % b.esz = 0 then 1 else 0) := by
  unfold CbCtx.begins bit
  simp only [beq_iff_eq]

theorem cbput_sends {k : Nat} {v : Vec} {t : BitVec 72} {c : Core} (h : Issues (.cbput x) s) (hn : n = bitsOf x.aux 0 3)
    (hb : s.me.cb n = some b) (hp : b.producer = true) (hv : vectorRead s.me x.a false = some (v, t, c)) (htag : TagOk s.me b.itag)
    (hk : k = (if b.pos = 0 then 1 else 0) + (if (b.pos + 1) % b.esz = 0 then 1 else 0)) (hcount : k ≤ b.count)
    (hroom : Room s.me 2) :
    execCbput x s = .next (s.completed
      ((buffered c n { b with count := b.count - k, pos := (b.pos + 2) % b.esz }).pushed
        ((List.range 2).map fun h =>
          mkFlit (queueFmt x.ty.toNat) 0 (excNow c) false 0 0 0 (.ofNat 7 b.itag) (v.extractLsb' (128 * h) 128)))) := by
  subst hn
  rw [← begins_eq] at hk
  subst hk
  obtain ⟨s1, e1, n1⟩ := readV_near (Near.refl s) hv
  have hsame : s.me.SamePush s1.me := n1.1 ▸ vectorRead_samePush hv
  have hb1 : s1.me.cb (bitsOf x.aux 0 3) = some b := by rw [Core.cb, hsame.1]; exact hb
  have hspec : c.spec = none := vectorRead_spec hv h.2.2.1
  refine issueBrim_done h ?_ (n1.setMe _) hspec
  rw [op_bind_ok e1]
  dsimp only
  rw [op_bind_ok (cbProducer_run hb1 hp), op_bind_ok (checkTag_tagOk (hsame.tagOk htag)), decide_eq_true hcount,
    op_bind_ok (waitUnless_true _ s1), op_bind_ok (brimRoom_room _ (hsame.room hroom)), op_bind_ok (modMe_run _ s1),
    op_bind_ok (getMe_run _), pushFlits_run, State.me_setMe, State.setMe_setMe, n1.1,
    laneFmt_eq_queueFmt]
  rfl

theorem cbStatus_some (b : CbCtx) : cbStatus (some b) = .ofNat 64 (b.count % 2 ^ 13 + b.pos % 2 ^ 12 * 2 ^ 16
    + (if b.producer then 2 ^ 28 else 0) + 2 ^ 29 + (if b.err = none then 0 else 2 ^ 32) + (if b.exc then 2 ^ 33 else 0)) := by
  rw [← ite_isSome, ← bit_mul, ← bit_mul, ← bit_mul]
  rfl

theorem cbstat_reads {c : Core} (h : Issues (.cbstat x) s)
    (hd : scalarWrite s.me x.d (cbStatus (s.me.cb (bitsOf x.aux 0 3))) = some c) : execCbstat x s = .next (s.completed c) := by
  obtain ⟨s1, e1, n1⟩ := writeS_near (Near.refl s) hd
  exact issueBrim_done h ((op_bind_ok (getMe_run s)).trans e1) n1 (scalarWrite_spec hd h.2.2.1)

end

end Sys2Proof.Machine

namespace Sys2Proof.Proofs
open Sys2Proof.Machine Sys2Proof.Claims

/-- The circular-buffer instructions complete as they are stated (07 R249-R252, R259-R261). -/
theorem circularBuffersMove : CircularBuffersMove := by
  refine ⟨fun _ _ _ _ _ _ => cbinit_sets, fun _ _ _ _ _ _ => cbwait_delivers, fun _ _ _ _ _ => cbrel_frees,
    fun _ _ _ _ _ _ _ _ => cbput_sends, fun x s c h hd => cbstat_reads h ?_⟩
  cases hb : s.me.cb (bitsOf x.aux 0 3) with
  | none => rw [hb] at hd; exact hd
  | some b => rw [hb] at hd; rw [cbStatus_some]; exact hd

end Sys2Proof.Proofs
end

section
/-! PROOFS. Migration and invalidation (07 R244, R247, R248, R262): each step of a migration by what its page holds, and the two
instructions by the step and the shoot-down that they make, which leave of each core all but whether it is halted. -/

namespace Sys2Proof.Machine
open Sys2Proof.Claims

/-! ## What a shoot-down leaves of the cores -/

/-- t has the cores of s, but for which of them are halted. -/
def HaltsAtMost (s t : State) : Prop := t.cur = s.cur ∧ ∀ l, ∃ b, t.core l = { s.core l with halted := b }

namespace HaltsAtMost

variable {s t u : State}

theorem of_cores (hcores : t.cores = s.cores) (hcur : t.cur = s.cur) : HaltsAtMost s t :=
  ⟨hcur, fun l => ⟨(s.core l).halted, by rw [State.core, hcores]; rfl⟩⟩

theorem refl (s : State) : HaltsAtMost s s := of_cores rfl rfl

theorem trans (h : HaltsAtMost s t) (h' : HaltsAtMost t u) : HaltsAtMost s u := by
  refine ⟨h'.1.trans h.1, fun l => ?_⟩
  obtain ⟨b, hb⟩ := h.2 l
  obtain ⟨b', hb'⟩ := h'.2 l
  exact ⟨b', by rw [hb', hb]⟩

theorem foldl {α : Type} {f : State → α → State} (hf : ∀ s a, HaltsAtMost s (f s a)) (as : List α) (s : State) :
    HaltsAtMost s (as.foldl f s) := by
  induction as generalizing s with
  | nil => exact refl s
  | cons a as ih => exact (hf s a).trans (ih _)

theorem me (h : HaltsAtMost s t) : ∃ b, t.me = { s.me with halted := b } := by
  obtain ⟨b, hb⟩ := h.2 t.cur
  exact ⟨b, by rw [State.me, hb, h.1]; rfl⟩

theorem extWrite {pa : Nat} {bytes : List Byte} (h : extWrite s pa bytes = some t) : HaltsAtMost s t := by
  obtain ⟨-, rfl⟩ := extWrite_some h
  exact of_cores rfl rfl

theorem vaWrite {root va : Nat} {bytes : List Byte} (h : vaWrite s root va bytes = some t) : HaltsAtMost s t := by
  unfold Machine.vaWrite at h
  split at h
  · cases h
  · split at h
    · exact extWrite h
    · cases h

theorem raise (s : State) (v : Nat) : HaltsAtMost s (s.raise v) := by
  unfold State.raise
  split <;> exact of_cores rfl rfl

theorem ringAppend {root : Nat} {n : Node} {record : List Word} (h : ringAppend s root n record = some t) : HaltsAtMost s t := by
  unfold Machine.ringAppend at h
  simp only [Option.bind_eq_bind, Option.bind_eq_some_iff] at h
  obtain ⟨_, _, _, _, h⟩ := h
  split at h
  · simp at h
  · simp only [Option.bind_eq_some_iff] at h
    obtain ⟨s1, h1, s2, h2, h⟩ := h
    cases h
    exact (vaWrite h1).trans ((vaWrite h2).trans (raise s2 _))

theorem ringDrop (s : State) (root : Nat) (n : Node) : HaltsAtMost s (ringDrop s root n) := by
  unfold Machine.ringDrop
  split
  · exact refl s
  · cases hw : Machine.vaWrite s root (n.fring + 16) _ with
    | none => exact refl s
    | some t => exact vaWrite hw

theorem reportFault (s : State) (r : Region) (record : List Word) : HaltsAtMost s (reportFault s r record) := by
  unfold Machine.reportFault
  dsimp only
  split
  · exact refl s
  · split
    · exact of_cores rfl rfl
    · split
      · next h => exact ringAppend h
      · exact (ringDrop s _ _).trans (of_cores rfl rfl)

theorem gatherFault (s : State) (r : Region) (l : Nat) (f : FaultInfo) : HaltsAtMost s (gatherFault s r l f) := by
  unfold Machine.gatherFault
  dsimp only
  repeat' split
  all_goals exact of_cores rfl rfl

theorem freezeAt (s : State) (l : Nat) (f : FaultInfo) : HaltsAtMost s (freezeAt s l f) := by
  unfold Machine.freezeAt
  extract_lets s'
  have hs' : HaltsAtMost s s' := by
    unfold s'
    split
    · exact gatherFault s _ l f
    · exact refl s
  refine hs'.trans ⟨rfl, fun k => ?_⟩
  by_cases hk : k = l
  · subst hk
    exact ⟨true, State.core_setCore_self _ _ _⟩
  · exact ⟨(s'.core k).halted, State.core_setCore_ne _ hk _⟩

theorem streamStall (s : State) (eng n : Nat) (c : StreamCtx) (cause : BitVec 8) (va : Nat) (write : Bool) :
    HaltsAtMost s (streamStall s eng n c cause va write) := by
  unfold Machine.streamStall
  dsimp only
  split
  · exact of_cores rfl rfl
  · split
    · exact (of_cores (t := s.setCtx eng n _) rfl rfl).trans (reportFault _ _ _)
    · exact of_cores rfl rfl

theorem streamStop (s : State) (eng n : Nat) (c : StreamCtx) (r : WalkResult) (va : Nat) (write : Bool) :
    HaltsAtMost s (streamStop s eng n c r va write) := by
  unfold Machine.streamStop
  split
  · exact freezeAt s _ _
  · exact streamStall s _ _ _ _ _ _
  · exact streamStall s _ _ _ _ _ _

theorem streamRetry (s : State) (eng n : Nat) : HaltsAtMost s (streamRetry s eng n) := by
  unfold Machine.streamRetry
  repeat' split
  · exact refl s
  · exact refl s
  · exact of_cores rfl rfl
  · exact streamStop s _ _ _ _ _ _

theorem scalarRetry (s : State) (lid : Nat) : HaltsAtMost s (scalarRetry s lid) := of_cores rfl rfl

theorem shootEngine (job root : Nat) (g : PageRange) (s : State) (eng : Nat) : HaltsAtMost s (shootEngine job root g s eng) := by
  unfold Machine.shootEngine
  dsimp only
  split
  · exact refl s
  · exact ((of_cores (t := s.setBrim eng _) rfl rfl).trans (foldl (fun s (e : Nat × StreamCtx) => streamRetry s eng e.1) _ _)).trans
      (foldl (fun s (e : ScalarStall) => scalarRetry s e.lid) _ _)

theorem shootDown (s : State) (job root : Nat) (g : PageRange) : HaltsAtMost s (shootDown s job root g) :=
  foldl (shootEngine job root g) _ s

theorem startMig (s : State) (va npa size : Nat) : HaltsAtMost s (startMig s va npa size).1 := by
  unfold Machine.startMig
  dsimp only
  repeat' split
  all_goals exact of_cores rfl rfl

theorem endMig (s : State) (l : LeafEntry) (m : Migration) : HaltsAtMost s (endMig s l m).1 := by
  have hdrop : HaltsAtMost s (s.dropMigs [s.cur]) := of_cores rfl rfl
  unfold Machine.endMig
  dsimp only
  split
  · exact hdrop
  · next hw =>
    dsimp only
    exact hdrop.trans ((extWrite hw).trans (shootDown _ _ _ _))

theorem copyBlock (s : State) (m : Migration) : HaltsAtMost s (copyBlock s m).1 := by
  have hdrop : HaltsAtMost s (s.dropMigs [s.cur]) := of_cores rfl rfl
  unfold Machine.copyBlock
  split
  · exact hdrop
  · split
    · exact hdrop
    · split
      · exact hdrop
      · next hw =>
        split
        · exact (extWrite hw).trans (endMig _ _ _)
        · exact (extWrite hw).trans (of_cores rfl rfl)

theorem migrate (s : State) (va npa size : Nat) : HaltsAtMost s (migrate s va npa size).1 := by
  unfold Machine.migrate
  split
  · exact startMig s _ _ _
  · exact copyBlock s _

end HaltsAtMost

/-! ## One step of a migration (07 R247) -/

section

variable {s : State} {va npa size : Nat}

/-- The walk to a leaf entry sees no migration. -/
theorem leafEntry_dropMigs (s : State) (ls : List Nat) (va lvl t : Nat) : leafEntry (s.dropMigs ls) va lvl t = leafEntry s va lvl t := by
  induction lvl generalizing t with
  | zero => rfl
  | succ lvl ih =>
    unfold leafEntry
    simp only [ih]
    rfl

/-- A page of the size that no other migration holds is frozen. -/
theorem migrate_starts {l : LeafEntry} (hnew : s.myMig va npa size = none) (hl : leafEntry s va 5 s.myJob.2 = some l)
    (hsize : l.size = size) :
    ((s.dropMigs [s.cur]).frozenPage s.myJob.1 va size = true → (migrate s va npa size).2 = some 2)
    ∧ ((s.dropMigs [s.cur]).frozenPage s.myJob.1 va size = false →
      migrate s va npa size = ({ s.dropMigs [s.cur] with
        migs := Table.put s.cur { job := s.myJob.1, va, npa, size, copied := 0 } (s.dropMigs [s.cur]).migs }, none)) := by
  have hleaf : leafEntry (s.dropMigs [s.cur]) va 5 (s.dropMigs [s.cur]).myJob.2 = some l := (leafEntry_dropMigs ..).trans hl
  have hjob : (s.dropMigs [s.cur]).myJob = s.myJob := rfl
  unfold migrate
  rw [hnew]
  unfold startMig
  dsimp only
  rw [hleaf]
  dsimp only
  rw [if_neg (not_not.2 hsize), hjob]
  exact ⟨fun hfrozen => by rw [if_pos hfrozen], fun hfree => by rw [hfree]; rfl⟩

/-- Where there is no page of the size, the outcome is 1. -/
theorem migrate_noPage (hnew : s.myMig va npa size = none) (hnone : ∀ l, leafEntry s va 5 s.myJob.2 = some l → l.size ≠ size) :
    (migrate s va npa size).2 = some 1 := by
  have hleaf : leafEntry (s.dropMigs [s.cur]) va 5 (s.dropMigs [s.cur]).myJob.2 = leafEntry s va 5 s.myJob.2 := leafEntry_dropMigs ..
  unfold migrate
  rw [hnew]
  unfold startMig
  dsimp only
  rw [hleaf]
  cases hl : leafEntry s va 5 s.myJob.2 with
  | none => rfl
  | some l => dsimp only; rw [if_pos (hnone l hl)]

/-- A block is read and written, or it ends the migration with the code of what hindered it; behind the last one the entry is rewritten
and the page shot down, which has at least one byte. -/
theorem migrate_copies {m : Migration} {l : LeafEntry} (hsome : 0 < size) (hm : s.myMig va npa size = some m)
    (hl : leafEntry s m.va 5 s.myJob.2 = some l) :
    (extRead s (l.pa + m.copied) 256 = none → (migrate s va npa size).2 = some 3)
    ∧ ∀ bytes, extRead s (l.pa + m.copied) 256 = some bytes →
      (extWrite s (m.npa + m.copied) bytes = none → (migrate s va npa size).2 = some 4)
      ∧ ∀ s1, extWrite s (m.npa + m.copied) bytes = some s1 →
        (m.copied + 256 < m.size →
          migrate s va npa size = ({ s1 with migs := Table.put s.cur { m with copied := m.copied + 256 } s1.migs }, none))
        ∧ (m.size ≤ m.copied + 256 → ∀ s2,
          extWrite (s1.dropMigs [s.cur]) l.addr (bytesOfNat 8 (l.entry - l.pa + m.npa / 4096 * 4096)) = some s2 →
          migrate s va npa size = (shootDown s2 m.job s2.myJob.2
            { lo := m.va / 4096, hi := (m.va + m.size - 1) / 4096 + 1 }, some 0)) := by
  have hpages : pagesOf m.va m.size = { lo := m.va / 4096, hi := (m.va + m.size - 1) / 4096 + 1 } := by
    have hmsize : m.size = size := by
      unfold State.myMig at hm
      simp only [Option.filter_eq_some_iff, Bool.and_eq_true, beq_iff_eq] at hm
      exact hm.2.2
    exact if_neg (by omega)
  unfold migrate
  rw [hm]
  unfold copyBlock
  dsimp only
  rw [hl]
  refine ⟨fun hr => by simp only [hr], fun bytes hr => ⟨fun hw => by simp only [hr, hw], fun s1 hw => ?_⟩⟩
  have hcur : s1.cur = s.cur := (HaltsAtMost.extWrite hw).1
  simp only [hr, hw]
  refine ⟨fun hmore => by rw [if_neg (Nat.not_le.2 hmore), hcur], fun hlast s2 hentry => ?_⟩
  rw [if_pos hlast, endMig, hcur]
  simp only [hentry, hpages]

theorem endMig_outcome (s : State) (l : LeafEntry) (m : Migration) : (endMig s l m).2 ≠ none := by
  unfold endMig
  dsimp only
  split <;> exact Option.some_ne_none _

/-- A step without an outcome leaves every core. -/
theorem migrate_goesOn {s' : State} (h : migrate s va npa size = (s', none)) : s'.me = s.me ∧ s'.inRpt = s.inRpt := by
  unfold migrate at h
  split at h
  · unfold startMig at h
    dsimp only at h
    repeat' split at h
    all_goals cases h
    exact ⟨rfl, rfl⟩
  · unfold copyBlock at h
    split at h
    · cases h
    · split at h
      · cases h
      · split at h
        · cases h
        · next hw =>
          obtain ⟨-, rfl⟩ := extWrite_some hw
          split at h
          · exact absurd (congrArg Prod.snd h) (endMig_outcome _ _ _)
          · cases h
            exact ⟨rfl, rfl⟩

end

/-! ## smig and sinval (07 R262) -/

section

variable {x : FormS3} {s : State}

/-- An smig at aligned addresses whose result can be taken makes one step of its migration. -/
theorem smig_run {a b : Word} {size : Nat} {c : Core} {v : Word} (ha : a = s.me.reg x.a.toNat)
    (hb : b = s.me.reg x.b.toNat) (hsize : size = 2 ^ (12 + 9 * bitsOf x.aux 0 2)) (haa : a.toNat % size = 0)
    (hba : b.toNat % size = 0) (hva : a.toNat < 2 ^ 57) (hd : scalarWrite c x.d v ≠ none) (hrouter : c.router = s.me.router) :
    ∃ body : Op Unit, execSmig x s = issueBrim (.smig x) 0 body s ∧
      body.run s = match (migrate s a.toNat b.toNat size).2 with
        | some k => (writeS x.d (BitVec.ofNat 64 k)).run (migrate s a.toNat b.toNat size).1
        | none => .error (.hold (brimWait 0)) (migrate s a.toNat b.toNat size).1 := by
  subst ha hb hsize
  obtain ⟨c1, hc1⟩ := Option.ne_none_iff_exists'.1 hd
  refine ⟨_, rfl, ?_⟩
  rw [op_bind_ok (readBase_run x.a s), op_bind_ok (readBase_run x.b s)]
  dsimp only
  rw [if_neg (not_not.2 haa), if_neg (not_not.2 hba), if_neg (Nat.not_le.2 hva), op_bind_ok (destReady_of_router hc1 hrouter),
    op_bind_ok (op_get s)]
  cases h : (migrate s (s.me.reg x.a.toNat).toNat (s.me.reg x.b.toNat).toNat (2 ^ (12 + 9 * bitsOf x.aux 0 2))).2 <;> rfl

theorem smig_completes {s' : State} {a b : Word} {size k : Nat} {c : Core} (h : Issues (.smig x) s) (ha : a = s.me.reg x.a.toNat)
    (hb : b = s.me.reg x.b.toNat) (hsize : size = 2 ^ (12 + 9 * bitsOf x.aux 0 2)) (haa : a.toNat % size = 0)
    (hba : b.toNat % size = 0) (hva : a.toNat < 2 ^ 57) (hm : migrate s a.toNat b.toNat size = (s', some k))
    (hd : scalarWrite s'.me x.d (.ofNat 64 k) = some c) : execSmig x s = .next (s'.completed c) := by
  have hkeeps := HaltsAtMost.migrate s a.toNat b.toNat size
  rw [hm] at hkeeps
  obtain ⟨halted, hme⟩ := hkeeps.me
  have hspec : s'.me.spec = none := by rw [hme]; exact h.2.2.1
  obtain ⟨body, hexec, hrun⟩ := smig_run ha hb hsize haa hba hva (by rw [hd]; simp) (by rw [hme])
  rw [hm] at hrun
  obtain ⟨s2, e2, n2⟩ := writeS_near (Near.refl s') hd
  exact hexec.trans (issueBrim_done h (hrun.trans e2) n2 (scalarWrite_spec hd hspec))

theorem smig_waits {s' : State} {a b : Word} {size : Nat} (h : Issues (.smig x) s) (hr : s.inRpt = false)
    (ha : a = s.me.reg x.a.toNat) (hb : b = s.me.reg x.b.toNat) (hsize : size = 2 ^ (12 + 9 * bitsOf x.aux 0 2))
    (haa : a.toNat % size = 0) (hba : b.toNat % size = 0) (hva : a.toNat < 2 ^ 57) (hd : (scalarWrite s.me x.d 0).isSome = true)
    (hm : migrate s a.toNat b.toNat size = (s', none)) :
    ∃ t, execSmig x s = .next t ∧ t.migs = s'.migs ∧ t.ext = s'.ext
      ∧ t.me = { s.me with wait := t.me.wait, issued := true } ∧ t.me.wait.isSome = true := by
  obtain ⟨hme, hrpt⟩ := migrate_goesOn hm
  obtain ⟨body, hexec, hrun⟩ := smig_run ha hb hsize haa hba hva (Option.isSome_iff_ne_none.1 hd) rfl
  rw [hm] at hrun
  obtain ⟨w, -, hwait⟩ := issueBrim_hold h (hrpt.trans hr) hrun
  refine ⟨_, hexec.trans hwait, rfl, rfl, ?_, ?_⟩
  · simp only [State.me_setMe, hme]
  · simp only [State.me_setMe, Option.isSome_some]

theorem sinval_shoots {t : State} {a n : Nat} {g : PageRange} (h : Issues (.sinval x) s) (ha : a = (s.me.reg x.a.toNat).toNat)
    (hn : n = (s.me.reg x.b.toNat).toNat)
    (hg : g = (if n = 0 then { lo := 0, hi := 2 ^ 45 } else { lo := a / 4096, hi := (a + n - 1) / 4096 + 1 }))
    (hfree : s.frozenPage s.myJob.1 (4096 * g.lo) (4096 * (g.hi - g.lo)) = false) (ht : t = shootDown s s.myJob.1 s.myJob.2 g) :
    execSinval x s = .next (t.completed t.me) := by
  have hpages : pagesOf (s.me.reg x.a.toNat).toNat (s.me.reg x.b.toNat).toNat = g := by rw [← ha, ← hn, hg]; rfl
  obtain ⟨halted, hme⟩ := (HaltsAtMost.shootDown s s.myJob.1 s.myJob.2 g).me
  rw [← ht] at hme
  refine issueBrim_ok h ?_ (by rw [hme]; exact h.2.2.1)
  rw [op_bind_ok (readBase_run x.a s), op_bind_ok (readBase_run x.b s), op_bind_ok (op_get s)]
  dsimp only
  rw [hpages, hfree, ht]
  rfl

theorem sinval_waits {a n : Nat} {g : PageRange} (h : Issues (.sinval x) s) (ha : a = (s.me.reg x.a.toNat).toNat)
    (hn : n = (s.me.reg x.b.toNat).toNat)
    (hg : g = (if n = 0 then { lo := 0, hi := 2 ^ 45 } else { lo := a / 4096, hi := (a + n - 1) / 4096 + 1 }))
    (hfrozen : s.frozenPage s.myJob.1 (4096 * g.lo) (4096 * (g.hi - g.lo)) = true) : execSinval x s = .next (s.waiting 6) := by
  have hpages : pagesOf (s.me.reg x.a.toNat).toNat (s.me.reg x.b.toNat).toNat = g := by rw [← ha, ← hn, hg]; rfl
  refine issueBrim_wait (v := brimWait 0) (s' := s) h ?_
  rw [op_bind_ok (readBase_run x.a s), op_bind_ok (readBase_run x.b s), op_bind_ok (op_get s)]
  dsimp only
  rw [hpages, hfrozen]
  rfl

end

end Sys2Proof.Machine
end

section
/-! PROOFS. A migration of 0 bytes: no smig starts one (07 R262), the statement admits it, and its end shoots down every page, as an
invalidation of length 0 does, where the statement names the pages of its range. -/

namespace Sys2Proof.Proofs
open Sys2Proof.Machine Sys2Proof.Claims

/-- Core 0's migration of 0 bytes at address 0x1000 to 0x3000. -/
def emptyMigration : Migration := { job := 0, va := 0x1000, npa := 0x3000, size := 0, copied := 0 }

/-- The module after reset with one HDM range at port 0, a page table whose only table is its own parent and maps page 1 at 0x2000, the
empty migration, and page 5 of the job known at engine 0. -/
def emptyMigrationState : State :=
  { State.reset with
    mg := { Mgmt.reset with hdm := [(0, 0x8000000000000000), (1, 0x10000000), (2, 0x80)] }
    ext := [(0, 1), (8, 0x0F), (9, 0x20)]
    migs := [(0, emptyMigration)]
    brims := [(0, { Brim.reset with scalar := [(0, 0, { pin := false, w := true, va := 5, count := 1, pa := 7 })] })] }

/-- Refutes O48, by its clause on the last block alone: the end of a migration of 0 bytes, of which smig starts none, leaves engine 0
nothing of the job's translations, while the statement's range, which is empty there, would leave it that of page 5. The other clauses
hold: `circularBuffersMove`, `migrate_starts`, `migrate_noPage`, `smig_completes`, `smig_waits`, `sinval_shoots`, `sinval_waits`, and
`migrate_copies`, which gives the blocks and, for a migration of at least one byte, this clause too. -/
theorem not_buffersAndMigration : ¬ Obligations.BuffersAndMigration := by
  unfold Obligations.BuffersAndMigration MigrationAndInvalidation
  rintro ⟨-, -, -, -, -, hblock, -⟩
  have hleaf : leafEntry emptyMigrationState 0x1000 5 emptyMigrationState.myJob.2
      = some { addr := 8, entry := 0x200F, pa := 0x2000, size := 4096 } := by decide +kernel
  have hread : extRead emptyMigrationState 0x2000 256 = some (List.replicate 256 0) := by decide +kernel
  obtain ⟨-, hlast⟩ := ((hblock emptyMigrationState 0x1000 0x3000 0 emptyMigration _ rfl hleaf).2 _ hread).2 _
    (if_pos (by decide +kernel))
  have hend := hlast (by decide) _ (if_pos (by decide +kernel))
  exact absurd (congrArg (fun r => (r.1.brim 0).scalar) hend) (by decide +kernel)

end Sys2Proof.Proofs
end

section
/-! PROOFS. The sends of the router (08 R293, R294, R299): what a send checks and releases before it pushes, the words that a message
carries, and the flits that go behind the output queue. -/

namespace Sys2Proof.Machine
open Sys2Proof.Claims

/-! ## What a send waits for (08 R270, R293; 04 R144) -/

theorem waitRoom_room {s : State} {k : Nat} (h : Room s.me k) : (waitRoom k).run s = .ok () s := by
  unfold waitRoom
  rw [op_bind_ok (getMe_run s), decide_eq_true (show s.me.router.outq.length + k ≤ 8 from h)]
  rfl

theorem scalarRead_samePush {c c' : Core} {r : BitVec 5} {v : Word} (h : scalarRead c r = some (v, c')) : c.SamePush c' := by
  unfold scalarRead at h
  dsimp only at h
  repeat' split at h
  all_goals cases h
  · exact ⟨rfl, rfl, rfl⟩
  · exact popped_samePush _ _ _ _
  · exact popped_samePush _ _ _ _
  · exact ⟨rfl, rfl, rfl⟩

theorem ordered_samePush (c : Core) (b : Prop) [Decidable b] : c.SamePush (ordered c b) := by
  obtain ⟨_, h⟩ := ordered_eq c b
  rw [h]
  exact ⟨rfl, rfl, rfl⟩

/-- The release of a send, its accesses performed. -/
theorem sendRelease_near {s s' : State} {c : Core} {x : FormQ} (hn : Near s s' c) (hc : s.me.SameStore c)
    (h : x.rl = 1 → s.scopePerformed s.cur x.sc.toNat = true) :
    ∃ s2, (sendRelease x).run s' = .ok () s2 ∧ Near s s2 (ordered c (x.rl = 1)) := by
  obtain ⟨s2, n2, e2⟩ := releaseAt_near hn hc h
  refine ⟨s2, ?_, n2⟩
  have hpure := e2 (pure : Unit → Op Unit)
  rw [bind_pure] at hpure
  exact hpure

/-- A send that may go, its operands read: its tag is checked, its release performed, its room there. -/
theorem sendReady_near {s s1 : State} {c : Core} {x : FormQ} {k : Nat} (hn : Near s s1 c) (hstore : s.me.SameStore c)
    (hpush : s.me.SamePush c) (h : SendReady s x k) :
    ∃ s2, Near s s2 (ordered c (x.rl = 1)) ∧ ∀ {α : Type} (m : Op α),
      (do checkTag x.tag.toNat; sendRelease x; waitRoom k; m : Op α).run s1 = m.run s2 := by
  obtain ⟨htag, hrel, hroom⟩ := h
  obtain ⟨s2, e2, n2⟩ := sendRelease_near hn hstore hrel
  have htag1 : TagOk s1.me x.tag.toNat := by rw [hn.1]; exact hpush.tagOk htag
  have hroom2 : Room s2.me k := by rw [n2.1]; exact (hpush.trans (ordered_samePush c _)).room hroom
  refine ⟨s2, n2, fun m => ?_⟩
  rw [op_bind_ok (checkTag_tagOk htag1), op_bind_ok e2, op_bind_ok (waitRoom_room hroom2)]

theorem ordered_spec {c : Core} (b : Prop) [Decidable b] (h : c.spec = none) : (ordered c b).spec = none :=
  (ordered_sameStore c b).spec.trans h

theorem ordered_tec (c : Core) (b : Prop) [Decidable b] : (ordered c b).tec = c.tec := by
  rw [Core.tec, (ordered_sameStore c b).mode, ← Core.tec]

theorem excNow_ordered (c : Core) (b : Prop) [Decidable b] : excNow (ordered c b) = excNow c := by
  obtain ⟨_, h⟩ := ordered_eq c b
  rw [h]
  rfl

/-- Flits pushed last, by a core that may have discarded the words fetched ahead. -/
theorem issueSeq_pushed {i : Instr} {s u s' : State} {c : Core} {body : Op Unit} {fs : List Flit} (h : Issues i s)
    (hb : body.run s = (pushFlits fs).run s') (hn : Near u s' c) (hs : c.spec = none) :
    issueSeq i body s = .next (u.completed (c.pushed fs)) := by
  refine issueSeq_done h (hb.trans (pushFlits_run fs s')) ?_ hs
  rw [hn.1]
  exact hn.setMe _

/-! ## sendw2 (08 R293) -/

/-- Two words as one payload, word b above word a. -/
theorem append_eq_ofNat (a b : Word) : (b ++ a : Quad) = .ofNat 128 (b.toNat * 2 ^ 64 + a.toNat) := by
  refine BitVec.eq_of_toNat_eq ?_
  rw [BitVec.toNat_append, Nat.shiftLeft_eq, Nat.mul_comm, ← Nat.two_pow_add_eq_or_of_lt a.isLt, BitVec.toNat_ofNat]
  have ha := a.isLt
  have hb := b.isLt
  omega

theorem sendPayload_eq (x : FormQ) (a b : Word) :
    sendPayload x a b = .ofNat 128 (if x.fm.toNat = 0 then a.toNat
      else if x.fm.toNat = 7 then (b.toNat * 2 ^ 64 + a.toNat) % 2 ^ 96 else b.toNat * 2 ^ 64 + a.toNat) := by
  have h0 : x.fm = 0 ↔ x.fm.toNat = 0 := by rw [← BitVec.toNat_inj]; rfl
  have h7 : x.fm = 7 ↔ x.fm.toNat = 7 := by rw [← BitVec.toNat_inj]; rfl
  unfold sendPayload
  simp only [h0, h7, append_eq_ofNat]
  by_cases hw1 : x.fm.toNat = 0
  · simp only [if_pos hw1, if_neg (show ¬x.fm.toNat = 7 by omega), BitVec.ofNat_toNat]
  · by_cases hbx6 : x.fm.toNat = 7
    · simp only [if_neg hw1, if_pos hbx6]
      refine BitVec.eq_of_toNat_eq ?_
      rw [BitVec.toNat_and, show (0xFFFFFFFFFFFFFFFFFFFFFFFF : Quad).toNat = 2 ^ 96 - 1 from rfl, Nat.and_two_pow_sub_one_eq_mod,
        BitVec.toNat_ofNat, BitVec.toNat_ofNat, Nat.mod_mod_of_dvd _ (by decide), Nat.mod_eq_of_lt (b := 2 ^ 128)]
      exact Nat.lt_trans (Nat.mod_lt _ (by decide)) (by decide)
    · simp only [if_neg hw1, if_neg hbx6]

/-- The code of a BX format follows TEC (02 R60). -/
theorem bxFmt_of_bx {fm : Nat} (h : 6 ≤ fm ∧ fm ≤ 8) (tec : Bool) : bxFmt (8 - fm) tec = if tec then fm + 6 else fm := by
  cases tec <;> simp [bxFmt] <;> omega

/-- BX6 and BX8 have one scale word, which stands in the upper half of SCALE (02 R53). -/
theorem bxScale_of_bx {fm : Nat} (h : 6 ≤ fm ∧ fm ≤ 8) (tec : Bool) (e : Word) :
    bxScale (bxFmt (8 - fm) tec) (e.setWidth 32)
      = if fm = 6 ∨ fm = 7 then .ofNat 32 (bitsOf e 16 16 * 2 ^ 16) else e.setWidth 32 := by
  have hkind : bxKind (bxFmt (8 - fm) tec) = 8 - fm := by
    obtain rfl | rfl | rfl : fm = 6 ∨ fm = 7 ∨ fm = 8 := by omega
    all_goals cases tec <;> rfl
  unfold bxScale
  rw [hkind]
  by_cases h8 : fm = 8
  · rw [if_pos (by omega), if_neg (by omega)]
  · rw [if_neg (by omega), if_pos (by omega)]
    refine BitVec.eq_of_getLsbD_eq fun i hi => ?_
    rw [show (0xFFFF0000 : BitVec 32) = .ofNat 32 ((2 ^ 16 - 1) * 2 ^ 16) from rfl, BitVec.getLsbD_and, BitVec.getLsbD_ofNat,
      BitVec.getLsbD_ofNat, Nat.testBit_mul_two_pow, Nat.testBit_mul_two_pow, Nat.testBit_two_pow_sub_one, testBit_bitsOf,
      BitVec.getLsbD_setWidth]
    by_cases hlow : 16 ≤ i
    · simp [hi, hlow, show i - 16 < 16 by omega]
    · simp [hlow]

/-- The flit of a BX format, by the code and the scale of the model. -/
theorem sentFlit_of_bx {x : FormQ} (h : 6 ≤ x.fm.toNat ∧ x.fm.toNat ≤ 8) (c : Core) (a b e : Word) :
    sentFlit x c a b e = mkFlit (bxFmt (8 - x.fm.toNat) c.tec) x.kd.toNat (excNow c) (x.rl == 1) (x.imm.setWidth 4)
      (bitsOf x.imm 4 3) (bxScale (bxFmt (8 - x.fm.toNat) c.tec) (e.setWidth 32)) x.tag (sendPayload x a b) := by
  rw [bxScale_of_bx h, bxFmt_of_bx h, sendPayload_eq]
  unfold sentFlit
  simp only [if_pos (show x.fm.toNat = 6 ∨ x.fm.toNat = 7 ∨ x.fm.toNat = 8 by omega)]

/-- The flit of any other format. -/
theorem sentFlit_of_not_bx {x : FormQ} (h : ¬(6 ≤ x.fm.toNat ∧ x.fm.toNat ≤ 8)) (c : Core) (a b e : Word) :
    sentFlit x c a b e = mkFlit x.fm.toNat x.kd.toNat (excNow c) (x.rl == 1) (x.imm.setWidth 4) (bitsOf x.imm 4 3)
      (e.setWidth 32) x.tag (sendPayload x a b) := by
  unfold sentFlit
  simp only [sendPayload_eq, if_neg (show ¬(x.fm.toNat = 6 ∨ x.fm.toNat = 7 ∨ x.fm.toNat = 8) by omega),
    if_neg (show ¬(x.fm.toNat = 6 ∨ x.fm.toNat = 7) by omega)]

theorem sendw2_pushes {x : FormQ} {s : State} {a b e : Word} {c1 c2 c3 : Core} (h : Issues (.sendw2 x) s)
    (ha : scalarRead s.me x.a = some (a, c1)) (hb : scalarRead c1 x.b = some (b, c2)) (he : scalarRead c2 x.c = some (e, c3))
    (hready : SendReady s x 1) :
    execSendw2 x s = .next (s.completed ((ordered c3 (x.rl = 1)).pushed [sentFlit x c3 a b e])) := by
  obtain ⟨s1, e1, n1⟩ := readS_near (Near.refl s) ha
  obtain ⟨s2, e2, n2⟩ := readS_near n1 hb
  obtain ⟨s3, e3, n3⟩ := readS_near n2 he
  have hs1 := scalarRead_spec ha h.2.2.1
  have hs2 := scalarRead_spec hb hs1
  have hs3 := scalarRead_spec he hs2
  have hstore := (scalarRead_sameStore ha h.2.2.1).trans ((scalarRead_sameStore hb hs1).trans (scalarRead_sameStore he hs2))
  have hpush := (scalarRead_samePush ha).trans ((scalarRead_samePush hb).trans (scalarRead_samePush he))
  obtain ⟨s4, n4, e4⟩ := sendReady_near n3 hstore hpush hready
  refine issueSeq_pushed (s' := s4) h ?_ n4 (ordered_spec _ hs3)
  rw [op_bind_ok e1, op_bind_ok e2, op_bind_ok e3]
  refine (e4 _).trans ?_
  rw [op_bind_ok (getMe_run s4), n4.1]
  dsimp only
  rw [← Bool.decide_and, ordered_tec, show (ordered c3 (x.rl = 1)).fpFlagsRead.getLsbD 6 = excNow c3 from excNow_ordered c3 _]
  by_cases hbx : 6 ≤ x.fm.toNat ∧ x.fm.toNat ≤ 8
  · rw [sentFlit_of_bx hbx, decide_eq_true hbx]
    rfl
  · rw [sentFlit_of_not_bx hbx, decide_eq_false hbx]
    rfl

/-! ## bankpass (08 R299) -/

theorem bankpass_pushes {x : FormQ} {s : State} {r : Region} (h : Issues (.bankpass x) s) (hr : s.regionOf s.cur = some r)
    (hready : SendReady s x 1) :
    execBankpass x s = .next (s.completed ((ordered s.me (x.rl = 1)).pushed
      [mkFlit 15 4 (excNow s.me) true 0 0 0 x.tag (.ofNat 128 (bitsOf x.imm 0 3 + r.roleOf s.cur * 2 ^ 32))])) := by
  obtain ⟨s1, n1, e1⟩ := sendReady_near (Near.refl s) (.refl _) ⟨rfl, rfl, rfl⟩ hready
  have hregion : s1.regionOf s1.cur = some r := by rw [n1.cur, n1.eq_cores]; exact hr
  refine issueSeq_pushed (s' := s1) h ((e1 _).trans ?_) n1 (ordered_spec _ h.2.2.1)
  rw [op_bind_ok (op_get s1), hregion, n1.1, n1.cur,
    show (ordered s.me (x.rl = 1)).fpFlagsRead.getLsbD 6 = excNow s.me from excNow_ordered s.me _]
  rfl

/-! ## sendm (08 R294) -/

theorem length_loadBytes (s : State) (sb : List SbEntry) (lid a n : Nat) : (loadBytes s sb lid a n).length = n := by
  induction n generalizing a with
  | zero => rfl
  | succ n ih => rw [loadBytes, List.length_cons, ih]

theorem length_extRead {s : State} {pa n : Nat} {bytes : List Byte} (h : extRead s pa n = some bytes) : bytes.length = n := by
  unfold extRead at h
  split at h
  · cases h
    simp [extBytes, deviceAddrs]
  · cases h

theorem length_of_ldlAt {s t : State} {c : Core} {ea : Int} {n : Nat} {bytes : List Byte} (h : LdlAt s c ea n bytes t) :
    bytes.length = n := by
  rcases h with ⟨-, -, rfl, -⟩ | ⟨-, -, -, -, pa, s1, -, hread, -⟩
  · exact length_loadBytes _ _ _ _ _
  · exact length_extRead hread

/-- Word k of some bytes. -/
def wordOfBytesAt (bytes : List Byte) (k : Nat) : Word := .ofNat 64 (natOfBytes ((bytes.drop (8 * k)).take 8))

/-- Words that can be loaded in order are loaded, each of the eight bytes of its address. -/
theorem mapM_ldlAt {s s' t : State} {ks : List Nat} {f : Nat → Int} {bytes : List Byte} (hs : s.me.spec = none)
    (hn : Near s s' s.me) (h : LdlsAt 8 s (ks.map f) bytes t) :
    ∃ t', (ks.mapM fun k => do return BitVec.ofNat 64 (natOfBytes (← ldlAt (f k) 8)) : Op (List Word)).run s'
        = .ok ((List.range ks.length).map (wordOfBytesAt bytes)) t' ∧ Near t t' s.me := by
  induction ks generalizing s s' bytes with
  | nil =>
    obtain ⟨rfl, rfl⟩ := h
    exact ⟨s', rfl, hn⟩
  | cons k ks ih =>
    obtain ⟨part, rest, s1, hat, hrest, rfl⟩ := h
    rw [← ordered_false s.me] at hn
    obtain ⟨s2, e2, n2⟩ := ldlAt_near hn hs hat
    rw [ordered_false, ← ldlAt_me hat] at n2
    obtain ⟨t', e3, n3⟩ := ih (by rw [ldlAt_me hat]; exact hs) n2 hrest
    refine ⟨t', ?_, ldlAt_me hat ▸ n3⟩
    have hfirst : wordOfBytesAt (part ++ rest) 0 = .ofNat 64 (natOfBytes part) := by
      rw [wordOfBytesAt, Nat.mul_zero, List.drop_zero, List.take_left' (length_of_ldlAt hat)]
    have hlater : wordOfBytesAt (part ++ rest) ∘ Nat.succ = wordOfBytesAt rest := funext fun j => by
      simp only [Function.comp, wordOfBytesAt, Nat.mul_succ, Nat.add_comm _ 8, ← List.drop_drop, List.drop_left' (length_of_ldlAt hat)]
    rw [List.mapM_cons, List.length_cons, List.range_succ_eq_map, List.map_cons, List.map_map, hfirst, hlater]
    exact run_ok (run_ok e2 (op_pure _ _)) (run_ok e3 rfl)

theorem ldlsAt_me {n : Nat} {s t : State} {eas : List Int} {bytes : List Byte} (h : LdlsAt n s eas bytes t) : t.me = s.me := by
  induction eas generalizing s bytes with
  | nil =>
    obtain ⟨-, rfl⟩ := h
    rfl
  | cons ea eas ih =>
    obtain ⟨part, rest, s1, hat, hrest, -⟩ := h
    exact (ih hrest).trans (ldlAt_me hat)

theorem natOfBytes_lt (bytes : List Byte) : natOfBytes bytes < 256 ^ bytes.length := by
  induction bytes with
  | nil => simp [natOfBytes]
  | cons b bs ih =>
    have hb := b.isLt
    rw [natOfBytes, List.length_cons, pow_succ]
    omega

theorem natOfBytes_take_add (bytes : List Byte) (m n : Nat) :
    natOfBytes (bytes.take (m + n)) = natOfBytes (bytes.take m) + 256 ^ m * natOfBytes ((bytes.drop m).take n) := by
  induction m generalizing bytes with
  | zero => simp [natOfBytes]
  | succ m ih =>
    cases bytes with
    | nil => simp [natOfBytes]
    | cons b bs =>
      rw [Nat.add_right_comm, List.take_succ_cons, List.take_succ_cons, List.drop_succ_cons, natOfBytes, natOfBytes, ih, pow_succ]
      ring

/-- Sixteen bytes are two words. -/
theorem ofNat_sixteenBytes (bytes : List Byte) (k : Nat) : BitVec.ofNat 128 (natOfBytes ((bytes.drop (16 * k)).take 16))
    = (wordOfBytesAt bytes (2 * k + 1) ++ wordOfBytesAt bytes (2 * k) : Quad) := by
  have hlow := natOfBytes_lt ((bytes.drop (16 * k)).take 8)
  have hhigh := natOfBytes_lt (((bytes.drop (16 * k)).drop 8).take 8)
  have hlen : ∀ bs : List Byte, (256 : Nat) ^ (bs.take 8).length ≤ 2 ^ 64 := fun bs =>
    (Nat.pow_le_pow_right (by decide) (List.length_take_le 8 bs)).trans (by decide)
  rw [natOfBytes_take_add _ 8 8, append_eq_ofNat, wordOfBytesAt, wordOfBytesAt, show 8 * (2 * k + 1) = 16 * k + 8 by omega,
    show 8 * (2 * k) = 16 * k by omega, ← List.drop_drop, BitVec.toNat_ofNat, BitVec.toNat_ofNat,
    Nat.mod_eq_of_lt (hlow.trans_le (hlen _)), Nat.mod_eq_of_lt (hhigh.trans_le (hlen _))]
  congr 1
  omega

theorem sendm_pushes {x : FormQ} {s s1 : State} {a b : Word} {bytes : List Byte} {c1 c2 : Core} (h : Issues (.sendm x) s)
    (ha : scalarRead s.me x.a = some (a, c1)) (hb : scalarRead c1 x.b = some (b, c2))
    (hat : LdlsAt 8 (s.setMe c2) ((List.range 6).map fun (k : Nat) => (b.toNat : Int) + 8 * k) bytes s1)
    (hready : SendReady s1 x 4) :
    execSendm x s = .next (s1.completed ((ordered s1.me (x.rl = 1)).pushed (messageFlits x s1.me a bytes))) := by
  have hspec := scalarRead_spec hb (scalarRead_spec ha h.2.2.1)
  obtain ⟨s2, e2, n2⟩ := readS_near (Near.refl s) ha
  obtain ⟨s3, e3, n3⟩ := readS_near n2 hb
  have n3' : Near (s.setMe c2) s3 (s.setMe c2).me := by rw [State.me_setMe]; exact n3.of_setMe c2
  obtain ⟨s4, e4, n4⟩ := mapM_ldlAt (by rw [State.me_setMe]; exact hspec) n3' hat
  have hme : s1.me = c2 := (ldlsAt_me hat).trans (State.me_setMe s c2)
  rw [State.me_setMe, ← hme] at n4
  obtain ⟨s5, n5, e5⟩ := sendReady_near (s := s1) n4 (.refl _) ⟨rfl, rfl, rfl⟩ hready
  refine issueSeq_pushed (s' := s5) h ?_ n5 (ordered_spec _ (hme ▸ hspec))
  rw [op_bind_ok e2, op_bind_ok e3]
  refine (op_bind_ok e4).trans ((e5 _).trans ?_)
  rw [op_bind_ok (getMe_run s5), n5.1, show (ordered s1.me (x.rl = 1)).fpFlagsRead.getLsbD 6 = excNow s1.me from excNow_ordered s1.me _]
  unfold messageFlits
  simp only [ofNat_sixteenBytes, BitVec.ofNat_toNat]
  rfl

end Sys2Proof.Machine

namespace Sys2Proof.Proofs
open Sys2Proof.Machine Sys2Proof.Claims

/-- Settles O15: each send reads its operands, passes its checks and its release, and pushes the flits as they are stated. -/
theorem sendsPushTheirFlits : Obligations.SendsPushTheirFlits :=
  ⟨fun _ _ _ _ _ _ _ _ h ha hb he hready => sendw2_pushes h ha hb he hready,
    fun _ _ _ _ _ _ _ _ h ha hb hat hready => sendm_pushes h ha hb hat hready,
    fun _ _ _ h hr hready => bankpass_pushes h hr hready⟩

end Sys2Proof.Proofs
end

section
/-! PROOFS. The instructions on input queues, marks and route entries (08 R269, R295-R298; 14 R439): each reads the head or the entry
that it names, and a queue that loses its head has handed over what the flit carries. -/

namespace Sys2Proof.Machine
open Sys2Proof.Claims

/-! ## A result written last -/

/-- An instruction whose last act is the write of its result. -/
theorem issueSeq_written {i : Instr} {s s1 : State} {c0 c : Core} {d : BitVec 5} {v : Word} {body : Op Unit} (h : Issues i s)
    (hb : body.run s = (writeS d v).run s1) (hn : Near s s1 c0) (hs : c0.spec = none) (hd : scalarWrite c0 d v = some c) :
    issueSeq i body s = .next (s.completed c) := by
  obtain ⟨s2, e2, n2⟩ := writeS_near hn hd
  exact issueSeq_done h (hb.trans e2) n2 (scalarWrite_spec hd hs)

/-- A destination that takes the result of a core which pushes as this one does is ready. -/
theorem destReady_of_canPush {s : State} {d : BitVec 5} {v : Word} {c1 c2 : Core} (h : scalarWrite c1 d v = some c2)
    (hpush : c1.canPush (d.toNat - 24) 1 = s.me.canPush (d.toNat - 24) 1) : (destReady d 1).run s = .ok () s :=
  destReady_ok fun hr => hpush ▸ canPush_of_scalarWrite h hr

/-! ## The head of an input queue -/

theorem headOf_run {s : State} {n : Nat} {f : Flit} {rest : List Flit} (h : s.me.queue n = f :: rest) :
    (headOf n).run s = .ok f s := by
  unfold headOf
  rw [op_bind_ok (getMe_run s), h]
  rfl

/-- Off the path of a collective branch, what is consumed is noted in FP_FLAGS and EXLOG (08 R285; 04 R141). -/
theorem consume_noSpec {c : Core} (f : Flit) (n p : Nat) (h : c.spec = none) : c.consume f n p = { c with
    fpFlags := if f.exc then c.fpFlags ||| withExc flagEXC else c.fpFlags
    router := if f.exc then { c.router with exlog := logExc c.router.exlog f n p } else c.router
    oldWords := if f.rel then [] else c.oldWords } := by
  unfold Core.consume
  rw [raiseFlags_noSpec flagEXC h]
  cases f.exc <;> cases f.rel <;> rfl

/-- A push goes by the routes, the tags of the queues and the output queue. -/
theorem canPush_congr {c c' : Core} (hroutes : c'.router.routes = c.router.routes) (hqtags : c'.router.qtags = c.router.qtags)
    (houtq : c'.router.outq = c.router.outq) (n k : Nat) : c'.canPush n k = c.canPush n k := by
  unfold Core.canPush Core.route Core.qtag
  rw [hroutes, hqtags, houtq]

theorem dropped_canPush {c : Core} (n p : Nat) (f : Flit) (rest : List Flit) (h : c.spec = none) (m k : Nat) :
    (dropped c n p f rest).canPush m k = c.canPush m k := by
  rw [dropped, consume_noSpec f n p (by exact h)]
  refine canPush_congr ?_ ?_ ?_ m k
  all_goals
    dsimp only
    split <;> rfl

theorem dropped_spec {c : Core} (n p : Nat) (f : Flit) (rest : List Flit) (h : c.spec = none) : (dropped c n p f rest).spec = none :=
  consume_spec _ f n p h

theorem popHead_dropped {s s1 : State} {c : Core} {n p : Nat} {f : Flit} {rest : List Flit} (hn : Near s s1 c)
    (hq : c.queue n = f :: rest) : ∃ s2, (popHead n p).run s1 = .ok () s2 ∧ Near s s2 (dropped c n p f rest) := by
  rw [popHead_run (by rw [hn.1]; exact hq), hn.1]
  exact ⟨_, rfl, hn.setMe _⟩

/-- What is discarded of the words fetched ahead is seen by no pop. -/
theorem dropped_ordered {c : Core} (n p : Nat) (f : Flit) (rest : List Flit) (b : Prop) [Decidable b] (h : c.spec = none) :
    dropped (ordered c b) n p f rest = ordered (dropped c n p f rest) b := by
  by_cases hb : b
  · simp only [ordered, if_pos hb]
    rw [dropped, dropped, consume_noSpec f n p (by exact h), consume_noSpec f n p (by exact h)]
    cases f.rel <;> rfl
  · simp only [ordered, if_neg hb]

/-! ## qflush, qpeek, qstat and qdrop (08 R295; 14 R439) -/

theorem headView_eq (c : Core) (n : Nat) (f : Flit) : headView c n f = viewOfHead c n f := by
  rw [headView, viewOfHead, bit_mul]

theorem extractLsb'_eq_ofNat (q : Quad) (lo : Nat) : q.extractLsb' lo 64 = .ofNat 64 (q.toNat / 2 ^ lo) := by
  refine BitVec.eq_of_toNat_eq ?_
  rw [toNat_extractLsb'_eq_bitsOf, BitVec.toNat_ofNat]
  rfl

theorem peekView_eq (c : Core) (n view : Nat) : peekView c n view = peeked c n view := by
  unfold peekView peeked
  cases c.queue n with
  | nil => rfl
  | cons f rest =>
    match view with
    | 0 => simp [extractLsb'_eq_ofNat]
    | 1 => simp [extractLsb'_eq_ofNat]
    | k + 2 => simp [headView_eq]

theorem queueStatus_eq (c : Core) : queueStatus c = queueWord c := by
  have hcounts : (List.range 8).foldl (fun r n => r + (c.queue n).length * 2 ^ (4 * n)) 0
      = ((List.range 8).map fun n => (c.queue n).length * 16 ^ n).sum := by
    rw [List.sum_eq_foldl, List.foldl_map]
    simp only [Nat.pow_mul]
  rw [queueStatus, queueWord, hcounts]

section

variable {x : FormQ} {s : State} {c : Core}

/-- The core with input queue n emptied and its half mark cleared. -/
def flushed (c : Core) (n : Nat) : Core := { c.setQueue n [] with half := putBits c.half n 1 0 }

theorem qflush_empties (h : Issues (.qflush x) s)
    (hd : scalarWrite (flushed s.me x.qn.toNat) x.d (.ofNat 64 (s.me.queue x.qn.toNat).length) = some c) :
    execQflush x s = .next (s.completed c) := by
  refine issueSeq_written (c0 := flushed s.me x.qn.toNat) h ?_ (Near.set s _) h.2.2.1 hd
  rw [op_bind_ok (destReady_of_canPush hd (canPush_congr rfl rfl rfl _ _)), op_bind_ok (getMe_run s), op_bind_ok (modMe_run _ s)]
  rfl

theorem qpeek_reads (h : Issues (.qpeek x) s) (hd : scalarWrite s.me x.d (peeked s.me x.qn.toNat (bitsOf x.imm 0 2)) = some c) :
    execQpeek x s = .next (s.completed c) := by
  refine issueSeq_written h ?_ (Near.refl s) h.2.2.1 hd
  rw [op_bind_ok (getMe_run s), peekView_eq]

theorem qstat_reads (h : Issues (.qstat x) s) (hd : scalarWrite s.me x.d (queueWord s.me) = some c) :
    execQstat x s = .next (s.completed c) := by
  refine issueSeq_written h ?_ (Near.refl s) h.2.2.1 hd
  rw [op_bind_ok (getMe_run s), queueStatus_eq]

/-- The core after qdrop took a flit: a bank-ownership token hands its bank over (14 R439). -/
def handedOver (c : Core) (f : Flit) : Core :=
  if f.kind = 4 then { c with bankWait := putBits c.bankWait (bitsOf f.payload 0 3) 1 0, oldWords := [] } else c

theorem handedOver_spec (c : Core) (f : Flit) : (handedOver c f).spec = c.spec := by
  unfold handedOver
  split <;> rfl

theorem handedOver_canPush (c : Core) (f : Flit) (m k : Nat) : (handedOver c f).canPush m k = c.canPush m k := by
  unfold handedOver
  split
  · exact canPush_congr rfl rfl rfl m k
  · rfl

theorem handOver_near {s1 : State} {c1 : Core} (f : Flit) (hn : Near s s1 c1) :
    ∃ s2, Near s s2 (handedOver c1 f) ∧ ∀ k : Op Unit,
      (if f.kind = 4 then (do
          modMe fun c => { c with bankWait := putBits c.bankWait (bitsOf f.payload 0 3) 1 0, oldWords := [] }
          k) else k).run s1 = k.run s2 := by
  unfold handedOver
  split
  · refine ⟨_, hn.1 ▸ hn.setMe _, fun k => op_bind_ok (modMe_run _ s1)⟩
  · exact ⟨s1, hn, fun _ => rfl⟩

theorem qdrop_drops {f : Flit} {rest : List Flit} (h : Issues (.qdrop x) s) (hq : s.me.queue x.qn.toNat = f :: rest)
    (hd : scalarWrite (handedOver (dropped s.me x.qn.toNat 1 f rest) f) x.d (.ofNat 64 (viewOfHead s.me x.qn.toNat f)) = some c) :
    execQdrop x s = .next (s.completed c) := by
  have hpush := (handedOver_canPush (dropped s.me x.qn.toNat 1 f rest) f (x.d.toNat - 24) 1).trans
    (dropped_canPush _ _ _ _ h.2.2.1 _ _)
  obtain ⟨s1, e1, n1⟩ := popHead_dropped (p := 1) (Near.refl s) hq
  obtain ⟨s2, n2, e2⟩ := handOver_near f n1
  refine issueSeq_written (s1 := s2) h ?_ n2 ((handedOver_spec _ f).trans (dropped_spec _ _ _ _ h.2.2.1)) hd
  rw [op_bind_ok (headOf_run hq), op_bind_ok (destReady_of_canPush hd hpush), op_bind_ok (getMe_run s), op_bind_ok e1, headView_eq]
  exact e2 _

/-! ## excq and excq.clr (08 R297) -/

theorem excq_reads (h : Issues (.excq x) s) (hd : scalarWrite s.me x.d s.me.router.exlog = some c) :
    execExcq x s = .next (s.completed c) := by
  refine issueSeq_written h ?_ (Near.refl s) h.2.2.1 hd
  rw [op_bind_ok (getMe_run s)]

/-- The core with EXLOG cleared. -/
def exlogCleared (c : Core) : Core := { c with router := { c.router with exlog := 0 } }

theorem excqClr_clears (h : Issues (.excqClr x) s)
    (hd : scalarWrite (exlogCleared s.me) x.d s.me.router.exlog = some c) :
    execExcqClr x s = .next (s.completed c) := by
  refine issueSeq_written (c0 := exlogCleared s.me) h ?_ (Near.set s _) h.2.2.1 hd
  rw [op_bind_ok (destReady_of_canPush hd (canPush_congr rfl rfl rfl _ _)), op_bind_ok (getMe_run s)]
  rfl

end

/-! ## drain and drain.end (08 R298; 14 R437) -/

theorem reportPassage_cores (p : Nat) (s : State) (K : Table Core) :
    reportPassage p { s with cores := K } = { reportPassage p s with cores := K } := by
  unfold reportPassage
  rw [show ({ s with cores := K } : State).regionOf s.cur = s.regionOf s.cur from rfl]
  split
  · dsimp only
    split <;> rfl
  · rfl

theorem reportPassage_keeps (p : Nat) (s : State) : (reportPassage p s).cores = s.cores ∧ (reportPassage p s).cur = s.cur := by
  unfold reportPassage
  split
  · dsimp only
    split <;> exact ⟨rfl, rfl⟩
  · exact ⟨rfl, rfl⟩

/-- A passage is reported, beside another executing core. -/
theorem Near.reportPassage {s s' : State} {c : Core} (h : Near s s' c) (p : Nat) :
    Near (Machine.reportPassage p s) (Machine.reportPassage p s') c := by
  have hreport : Machine.reportPassage p s' = { Machine.reportPassage p s with cores := s'.cores } := by
    rw [← reportPassage_cores, ← h.eq_cores]
  rw [hreport]
  exact h.of_cores (reportPassage_keeps p s).1 (reportPassage_keeps p s).2

/-- A token leaves its queue, its configuration is delivered and its passage is reported. -/
theorem token_near {s s1 : State} {c c1 : Core} {n : Nat} {f : Flit} {rest : List Flit} {d : BitVec 5} {v : Word} (p : Nat)
    (hn : Near s s1 c) (hs : c.spec = none) (hq : c.queue n = f :: rest) (hd : scalarWrite (dropped c n 0 f rest) d v = some c1) :
    ∃ t, Near (reportPassage p s) t c1 ∧ ∀ m : Op Unit,
      (do destReady d 1; popHead n 0; writeS d v; modify (reportPassage p); m : Op Unit).run s1 = m.run t := by
  obtain ⟨s2, e2, n2⟩ := popHead_dropped (p := 0) hn hq
  obtain ⟨s3, e3, n3⟩ := writeS_near n2 hd
  have hready : (destReady d 1).run s1 = .ok () s1 :=
    destReady_of_canPush hd (by rw [hn.1]; exact dropped_canPush _ _ _ _ hs _ _)
  refine ⟨_, n3.reportPassage p, fun m => ?_⟩
  rw [op_bind_ok hready, op_bind_ok e2, op_bind_ok e3, op_bind_ok (op_modify _ s3)]

section

variable {x : FormQ} {s : State} {f : Flit} {rest : List Flit} {c1 c2 : Core}

theorem drain_passes (h : Issues (.drain x) s) (hq : s.me.queue x.qn.toNat = f :: rest) (hkind : f.kind = 3)
    (hhalf : s.me.half.getLsbD x.qn.toNat = false) (hready : SendReady s x (if 24 ≤ x.d.toNat then 2 else 1))
    (hc1 : c1 = ordered (dropped s.me x.qn.toNat 0 f rest) (x.rl = 1))
    (hd : scalarWrite c1 x.d (.ofNat 64 (bitsOf f.payload 0 32)) = some c2) :
    execDrain x s = .next ((reportPassage (bitsOf f.payload 0 128) s).completed
      (c2.pushed [mkFlit 15 3 (excNow c2) (x.rl == 1) 0 0 0 x.tag f.payload])) := by
  have hs := h.2.2.1
  rw [hc1, ← dropped_ordered _ _ _ _ _ hs] at hd
  obtain ⟨s1, n1, e1⟩ := sendReady_near (Near.refl s) (.refl _) ⟨rfl, rfl, rfl⟩ hready
  have hq1 : (ordered s.me (x.rl = 1)).queue x.qn.toNat = f :: rest := by
    obtain ⟨_, hw⟩ := ordered_eq s.me (x.rl = 1)
    rw [hw]
    exact hq
  obtain ⟨t, n2, e2⟩ := token_near (bitsOf f.payload 0 128) n1 (ordered_spec _ hs) hq1 hd
  refine issueSeq_pushed (s' := t) h ?_ n2 (scalarWrite_spec hd (dropped_spec _ _ _ _ (ordered_spec _ hs)))
  rw [op_bind_ok (headOf_run hq), op_bind_ok (getMe_run s), hhalf, if_neg Bool.false_ne_true, if_neg (not_not.2 hkind), if_pos rfl]
  refine (e1 _).trans ((e2 _).trans ?_)
  rw [if_pos rfl, op_bind_ok (getMe_run t), n2.1]
  rfl

theorem drainEnd_takes (h : Issues (.drainEnd x) s) (hq : s.me.queue x.qn.toNat = f :: rest) (hkind : f.kind = 3)
    (hhalf : s.me.half.getLsbD x.qn.toNat = false)
    (hd : scalarWrite (dropped s.me x.qn.toNat 0 f rest) x.d (.ofNat 64 (bitsOf f.payload 0 32)) = some c2) :
    execDrainEnd x s = .next ((reportPassage (bitsOf f.payload 0 128) s).completed c2) := by
  obtain ⟨t, n1, e1⟩ := token_near (bitsOf f.payload 0 128) (Near.refl s) h.2.2.1 hq hd
  refine issueSeq_done (s' := t) h ?_ n1 (scalarWrite_spec hd (dropped_spec _ _ _ _ h.2.2.1))
  rw [op_bind_ok (headOf_run hq), op_bind_ok (getMe_run s), hhalf, if_neg Bool.false_ne_true, if_neg (not_not.2 hkind),
    if_neg Bool.false_ne_true]
  exact (e1 _).trans rfl

end

/-! ## Route entries and tags (08 R269, R296) -/

theorem writeEntry_ok {s0 s : State} {t : Nat} {e : Word} (h : Writable s.me t e) :
    (writeEntry s0 t e).run s = .ok () (s.setMe (rerouted s.me t e)) := by
  obtain ⟨hfits, hsum, hadapter, hdelay⟩ := h
  have hheld : ¬((entOp (s.me.route t) = 1 ∧ (s.me.router.sum t).busy = true)
      ∨ (entOp (s.me.route t) = 2 ∧ (s.me.router.adapter t).pending.isSome = true)) := not_or.2 ⟨hsum, hadapter⟩
  have hempty : ¬(entDmd e ≠ entDmd (s.me.route t) ∧ Table.get [] s.me.router.delays t ≠ []) :=
    fun ⟨hd, hq⟩ => hdelay.elim hd hq
  unfold writeEntry
  rw [op_bind_ok (getMe_run s)]
  dsimp only
  rw [hfits, Bool.not_true, if_neg Bool.false_ne_true, if_neg hheld, if_neg hempty]
  rfl

theorem writeEntry_trap {s0 s : State} {t : Nat} {e : Word} (h : entryFits s.me.router t e = false) :
    (writeEntry s0 t e).run s = .error (.trap { code := causeReserved, val := e, sub := 0 }) s := by
  unfold writeEntry
  rw [op_bind_ok (getMe_run s)]
  dsimp only
  rw [h, Bool.not_false, if_pos rfl]
  rfl

section

variable {x : FormQ} {s : State} {a e : Word} {c : Core}

theorem rtget_reads (h : Issues (.rtget x) s) (hd : scalarWrite s.me x.d (s.me.route x.tag.toNat) = some c) :
    execRtget x s = .next (s.completed c) := by
  refine issueSeq_written h ?_ (Near.refl s) h.2.2.1 hd
  rw [op_bind_ok (getMe_run s)]

theorem rtset_writes (h : Issues (.rtset x) s) (ha : scalarRead s.me x.a = some (a, c)) (hw : Writable c x.tag.toNat a) :
    execRtset x s = .next (s.completed (rerouted c x.tag.toNat a)) := by
  obtain ⟨s1, e1, n1⟩ := readS_near (Near.refl s) ha
  have hspec : c.spec = none := scalarRead_spec ha h.2.2.1
  refine issueSeq_done (s' := s1.setMe (rerouted s1.me x.tag.toNat a)) h ?_ (by rw [n1.1]; exact n1.setMe _)
    hspec
  rw [op_bind_ok (op_get s), op_bind_ok e1, writeEntry_ok (by rw [n1.1]; exact hw)]

theorem rtset_traps (h : Issues (.rtset x) s) (hr : s.inRpt = false) (hm : s.midBody = false) (hh : HandlesTraps s.me)
    (ha : scalarRead s.me x.a = some (a, c)) (hfits : entryFits c.router x.tag.toNat a = false) :
    execRtset x s = .next (s.setMe (trapped c causeReserved a 0 s.me.pc)) := by
  obtain ⟨s1, e1, n1⟩ := readS_near (Near.refl s) ha
  have hfits1 : entryFits s1.me.router x.tag.toNat a = false := by rw [n1.1]; exact hfits
  refine issueSeq_handled (t := { code := causeReserved, val := a, sub := 0 }) h hr hm hh ?_ n1 (scalarRead_readFrom ha h.2.2.1) rfl
  rw [op_bind_ok (op_get s), op_bind_ok e1, writeEntry_trap hfits1]

theorem dmqset_writes (h : Issues (.dmqset x) s) (he : e = putBits (s.me.route x.tag.toNat) 26 8 (bitsOf x.imm 0 8))
    (hw : Writable s.me x.tag.toNat e) : execDmqset x s = .next (s.completed (rerouted s.me x.tag.toNat e)) := by
  refine issueSeq_done h ?_ (Near.set s (rerouted s.me x.tag.toNat e)) h.2.2.1
  rw [op_bind_ok (op_get s)]
  dsimp only
  rw [op_bind_ok (getMe_run s), ← he, writeEntry_ok hw]

theorem tagset_sets (h : Issues (.tagset x) s) : execTagset x s = .next (s.completed
    { s.me with router := { s.me.router with qtags := putBits s.me.router.qtags (8 * x.qn.toNat) 7 x.tag.toNat } }) :=
  issueSeq_modMe h (Near.refl s) h.2.2.1 rfl

end

end Sys2Proof.Machine

namespace Sys2Proof.Proofs
open Sys2Proof.Machine Sys2Proof.Claims

/-- The instructions on input queues and marks complete as they are stated (08 R295, R297, R298; 14 R439). -/
theorem queueInstructionsResults : QueueInstructionsResults := by
  refine ⟨fun x s c => qflush_empties, fun x s c => qpeek_reads, fun x s c => qstat_reads,
    fun x s f rest c1 c2 h hq hc1 hd => qdrop_drops h hq (hc1 ▸ hd), fun x s c => excq_reads, fun x s c => excqClr_clears,
    fun x s f rest c1 c2 => drain_passes, fun x s f rest c1 c2 h hq hkind hhalf hc1 hd => drainEnd_takes h hq hkind hhalf (hc1 ▸ hd)⟩

/-- The instructions on route entries and tags complete or trap as they are stated (08 R269, R296). -/
theorem routeInstructionsResults : RouteInstructionsResults :=
  ⟨fun _ _ _ => rtget_reads, fun _ _ _ _ => rtset_writes, fun _ _ _ _ => rtset_traps, fun _ _ _ => dmqset_writes,
    fun _ _ => tagset_sets⟩

/-- Settles O46: the two parts of the statement. -/
theorem queueAndRouteInstructions : Obligations.QueueAndRouteInstructions := ⟨queueInstructionsResults, routeInstructionsResults⟩

end Sys2Proof.Proofs
end

section
/-! PROOFS. The routers' events at a place (08 R267, R273, R275; 07 R250-R252): the flit that has its turn leaves its place and stands
in the one sink of its entry, and no other core's router is changed. -/

namespace Sys2Proof.Machine
open Sys2Proof.Claims

/-! ## A flit as it leaves its entry (08 R273) -/

theorem leaving_fmt (e : Word) (f : Flit) : (leaving e f).fmt = f.fmt := by
  unfold leaving Flit.fmt
  dsimp only
  split
  · exact bitsOf_putBits_beside _ _ (by decide)
  · rfl

theorem leaving_payload (e : Word) (f : Flit) : (leaving e f).payload = f.payload := rfl

/-! ## Ports and the output queue (08 R267) -/

/-- A place that a router's flits enter from outside: a port or the output queue. -/
def Entering (p : Place) : Prop := p = .out ∨ ∃ d, p = .port d

theorem placeOk_entering {p : Place} (hp : Entering p) : placeOk p = true := by
  rcases hp with rfl | ⟨d, rfl⟩ <;> rfl

theorem ownResult_entering {p : Place} (hp : Entering p) (f : Flit) : ownResult p f = false := by
  rcases hp with rfl | ⟨d, rfl⟩ <;> rfl

theorem atOutputs_entering {p : Place} {h : Held} (hp : Entering p) (hdmd : entDmd h.entry = 0) : atOutputs p h = true := by
  rcases hp with rfl | ⟨d, rfl⟩ <;> simp [atOutputs, hdmd]

/-- The flits of a port or of the output queue are those that stand there, under the entries of their tags. -/
theorem flits_congr {rt rt' : Router} {p : Place} (hp : Entering p) (hports : rt'.ports = rt.ports) (houtq : rt'.outq = rt.outq)
    (hroutes : rt'.routes = rt.routes) : rt'.flits p = rt.flits p := by
  have hlookup : rt'.lookup = rt.lookup := funext fun f => by rw [Router.lookup, Router.lookup, hroutes]
  rcases hp with rfl | ⟨d, rfl⟩
  · rw [Router.flits, Router.flits, houtq, hlookup]
  · rw [Router.flits, Router.flits, hports, hlookup]

theorem flits_drop {rt : Router} {p : Place} (hp : Entering p) (k : Nat) : (rt.drop k p).flits p = (rt.flits p).eraseIdx k := by
  rcases hp with rfl | ⟨d, rfl⟩
  · exact (List.eraseIdx_map _ _ _).symm
  · rw [Router.flits, Router.flits, List.eraseIdx_map]
    exact congrArg _ (Table.get_set_self [] _ _ _)

/-- A flit taken from a port or from the output queue leaves the rest of its router. -/
theorem drop_keeps {rt : Router} {p : Place} (hp : Entering p) (k : Nat) :
    ∃ ports outq, rt.drop k p = { rt with ports, outq } := by
  rcases hp with rfl | ⟨d, rfl⟩
  · exact ⟨_, _, rfl⟩
  · exact ⟨_, _, rfl⟩

/-- What its router leaves of the place that a flit was taken from. -/
theorem leftFrom_of_drop {s t : State} {lid k : Nat} {p : Place} (hp : Entering p)
    (hports : (t.core lid).router.ports = ((s.core lid).router.drop k p).ports)
    (houtq : (t.core lid).router.outq = ((s.core lid).router.drop k p).outq)
    (hroutes : (t.core lid).router.routes = (s.core lid).router.routes) : LeftFrom s t lid p k := by
  obtain ⟨_, _, hdrop⟩ := drop_keeps (rt := (s.core lid).router) hp k
  exact (flits_congr hp hports houtq (by rw [hroutes, hdrop])).trans (flits_drop hp k)

/-! ## The flit whose turn a place's event is (08 R267, R287) -/

section

variable {s : State} {lid i : Nat} {p : Place} {f : Flit} {e : Word}

theorem entering_of_headsFor (h : HeadsFor s lid p i f e) : Entering p := h.2.1

/-- The event of a place is given the flit that heads for an entry. -/
theorem placeEvent_of_headsFor (h : HeadsFor s lid p i f e) : ∃ r, ∀ g : Nat → Held → Region → State,
    placeEvent lid p s g = .next (g i { flit := f, entry := e } r) := by
  obtain ⟨hlid, hp, ⟨r, hnext⟩, -⟩ := h
  refine ⟨r, fun g => ?_⟩
  have hok : ¬(coreCount ≤ lid ∨ (!placeOk p) = true) := by
    rw [placeOk_entering hp]
    simpa using hlid
  rw [placeEvent, if_neg hok, hnext]

theorem atOutputs_of_headsFor (h : HeadsFor s lid p i f e) : atOutputs p { flit := f, entry := e } = true := by
  obtain ⟨-, hp, -, -, -, hdmd⟩ := h
  exact atOutputs_entering hp hdmd

/-- An ordinary entry passes its flits on as they are. -/
theorem emits_plain (h : HeadsFor s lid p i f e) (he : plainEntry e) :
    (s.core lid).router.emits p { flit := f, entry := e } = true := by
  obtain ⟨hop, hren⟩ := he
  have hout := atOutputs_of_headsFor h
  obtain ⟨-, -, -, hv, hkind, -⟩ := h
  unfold Router.emits
  dsimp only
  rw [hop, hv, hout, hren]
  simp [hkind]

theorem headSinks_plain (h : HeadsFor s lid p i f e) (he : plainEntry e) {o : Nat} {k : Sink} (ho : outputsOf e = [o])
    (hk : sinkOf s lid { flit := f, entry := e } o = k) : headSinks s lid p { flit := f, entry := e } = [k] := by
  rw [headSinks, if_pos (emits_plain h he), sinksOf]
  dsimp only
  rw [ho, List.map_singleton, hk]

theorem forward_plain (h : HeadsFor s lid p i f e) (he : plainEntry e) :
    forward s lid p i { flit := f, entry := e } = emitFlit s lid p i { flit := f, entry := e } := by
  obtain ⟨hop, hren⟩ := he
  have hout := atOutputs_of_headsFor h
  obtain ⟨-, hp, -, hv, hkind, -⟩ := h
  unfold forward
  dsimp only
  rw [hv, ownResult_entering hp, hout, hop]
  simp [hkind, forwardPlain, hren]

/-! ## Leaving through one output (08 R268, R273, R275; 01 R31) -/

/-- The router of core lid once flit i of a place has left through output o. -/
def leftThrough (rt : Router) (p : Place) (i : Nat) (f : Flit) (o : Nat) : Router :=
  { rt.drop i p with
    locked := holdAfter p f (rt.drop i p).locked o
    turn := servedBy p [o] (rt.drop i p).turn }

/-- A core with that router. -/
def departedCore (c : Core) (p : Place) (i : Nat) (f : Flit) (o : Nat) : Core :=
  { c with router := leftThrough c.router p i f o }

/-- The module with that core. -/
def departed (s : State) (lid : Nat) (p : Place) (i : Nat) (f : Flit) (o : Nat) : State :=
  s.modRouter lid fun rt => leftThrough rt p i f o

theorem departed_core {o : Nat} : (departed s lid p i f o).core lid = departedCore (s.core lid) p i f o :=
  State.core_modRouter_self _ _ _

theorem departed_core_ne {o l : Nat} (hl : l ≠ lid) : (departed s lid p i f o).core l = s.core l := State.core_setCore_ne _ hl _

theorem leftThrough_routes {rt : Router} (hp : Entering p) (o : Nat) : (leftThrough rt p i f o).routes = rt.routes := by
  obtain ⟨_, _, hdrop⟩ := drop_keeps (rt := rt) hp i
  rw [leftThrough, hdrop]

theorem leftThrough_inq {rt : Router} (hp : Entering p) (o : Nat) : (leftThrough rt p i f o).inq = rt.inq := by
  obtain ⟨_, _, hdrop⟩ := drop_keeps (rt := rt) hp i
  rw [leftThrough, hdrop]

/-- A core whose router has the ports, the output queue and the routes of the one that the flit left. -/
theorem leftFrom_of_departed {t : State} (hp : Entering p) {o : Nat}
    (hports : (t.core lid).router.ports = (departedCore (s.core lid) p i f o).router.ports)
    (houtq : (t.core lid).router.outq = (departedCore (s.core lid) p i f o).router.outq)
    (hroutes : (t.core lid).router.routes = (departedCore (s.core lid) p i f o).router.routes) : LeftFrom s t lid p i :=
  leftFrom_of_drop hp hports houtq (hroutes.trans (leftThrough_routes hp o))

/-- A flit whose one output can pass it, in its turn, is delivered to the output's sink. -/
theorem emitFlit_one {o : Nat} {k : Sink} (h : OneOutput s lid p f e o k) (hstream : streamFormat s (leaving e f) k = none) :
    emitFlit s lid p i { flit := f, entry := e } = .moved (k.deliver (departed s lid p i f o) lid (leaving e f)) := by
  obtain ⟨ho, hk, hroom, hrefuses, hpasses, hturn⟩ := h
  have hsinks : sinksOf s lid { flit := f, entry := e } = [k] := by rw [sinksOf, ho, List.map_singleton, hk]
  have hstays : s.refusesAt lid p { flit := f, entry := e } = false := by
    rw [State.refusesAt, ho]
    simp [hk, hrefuses]
  have hleaves : s.canLeave lid p { flit := f, entry := e } = true := by
    rw [State.canLeave, hsinks, ho]
    simp [hroom, hpasses]
  have hgood : badStream s lid (leaving e f) [k] = none := by
    unfold badStream
    rw [List.findSome?_cons, hstream]
    cases k <;> rfl
  unfold emitFlit
  dsimp only
  rw [hstays, hsinks, hgood, hleaves, ho, hturn]
  rfl

/-- The flit that an ordinary entry passes has moved. -/
theorem settle_plain {o : Nat} {k : Sink} (h : HeadsFor s lid p i f e) (he : plainEntry e) (ho : OneOutput s lid p f e o k)
    (hstream : streamFormat s (leaving e f) k = none) (r : Region) :
    (forward s lid p i { flit := f, entry := e }).settle s lid r = k.deliver (departed s lid p i f o) lid (leaving e f) := by
  rw [forward_plain h he, emitFlit_one ho hstream]
  rfl

/-! ## FLIT_FORWARD (08 R273) -/

theorem flitForward_delivers {o : Nat} {k : Sink} (h : HeadsFor s lid p i f e) (he : plainEntry e) (ho : OneOutput s lid p f e o k)
    (hstream : streamFormat s (leaving e f) k = none) (hbuffer : k.isBuffer = false) (hcredit : k.isCredit = false) :
    execFlitForward lid p s = .next (k.deliver (departed s lid p i f o) lid (leaving e f)) := by
  obtain ⟨r, hevent⟩ := placeEvent_of_headsFor h
  have hsink : (headSinks s lid p { flit := f, entry := e }).any (fun k => k.isBuffer || k.isCredit) = false := by
    rw [headSinks_plain h he ho.1 ho.2.1]
    simp [hbuffer, hcredit]
  rw [execFlitForward, hevent, hsink, if_neg Bool.false_ne_true, settle_plain h he ho hstream]

theorem flitForward_toPort {o n d : Nat} (h : HeadsFor s lid p i f e) (he : plainEntry e)
    (ho : OneOutput s lid p f e o (.port n d)) (hn : n ≠ lid) :
    ∃ t, execFlitForward lid p s = .next t ∧ LeftFrom s t lid p i
      ∧ Table.get [] (t.core n).router.ports d = Table.get [] (s.core n).router.ports d ++ [leaving e f]
      ∧ (∀ l, l ≠ lid → l ≠ n → t.core l = s.core l) ∧ t.ext = s.ext := by
  refine ⟨_, flitForward_delivers h he ho rfl rfl rfl, ?_, ?_, fun l hl hln => ?_, rfl⟩
  · have hcore : ((Sink.port n d).deliver (departed s lid p i f o) lid (leaving e f)).core lid = departedCore (s.core lid) p i f o :=
      (State.core_setCore_ne _ hn.symm _).trans departed_core
    exact leftFrom_of_departed (entering_of_headsFor h) (by rw [hcore]) (by rw [hcore]) (by rw [hcore])
  · rw [Sink.deliver, State.core_modRouter_self, departed_core_ne hn]
    exact Table.get_set_self [] _ _ _
  · exact (State.core_setCore_ne _ hln _).trans (departed_core_ne hl)

theorem flitForward_toQueue {n : Nat} (h : HeadsFor s lid p i f e) (he : plainEntry e) (ho : OneOutput s lid p f e 4 (.queue n)) :
    ∃ t, execFlitForward lid p s = .next t ∧ LeftFrom s t lid p i
      ∧ (t.core lid).queue n = (s.core lid).queue n ++ [leaving e f]
      ∧ (t.core lid).regs = (s.core lid).regs ∧ (t.core lid).loc = (s.core lid).loc
      ∧ (∀ l, l ≠ lid → t.core l = s.core l) ∧ t.ext = s.ext := by
  have hcore : ((Sink.queue n).deliver (departed s lid p i f 4) lid (leaving e f)).core lid
      = (departedCore (s.core lid) p i f 4).setQueue n ((s.core lid).queue n ++ [leaving e f]) := by
    rw [Sink.deliver, State.core_setCore_self, departed_core, Core.queue, departedCore, leftThrough_inq (entering_of_headsFor h)]
    rfl
  refine ⟨_, flitForward_delivers h he ho rfl rfl rfl, ?_, ?_, ?_, ?_, fun l hl => ?_, rfl⟩
  · exact leftFrom_of_departed (f := f) (entering_of_headsFor h) (o := 4) (by rw [hcore]; rfl) (by rw [hcore]; rfl) (by rw [hcore]; rfl)
  · rw [hcore]
    exact Table.get_set_self [] _ _ _
  · rw [hcore]
    rfl
  · rw [hcore]
    rfl
  · exact (State.core_setCore_ne _ hl _).trans (departed_core_ne hl)

/-! ## Circular buffers (07 R250-R252) -/

@[simp] theorem noteOld_router (c : Core) (a : Nat) : (c.noteOld a).router = c.router := by
  unfold Core.noteOld
  dsimp only
  repeat' split
  all_goals rfl

@[simp] theorem writeLoc_router (c : Core) (a : Nat) (bs : List Byte) : (c.writeLoc a bs).router = c.router :=
  foldl_noteOld (f := Core.router) noteOld_router _ _ c

/-- A flit that enters a circular buffer changes EXLOG alone of its router. -/
theorem bufferFlit_router (c : Core) (n : Nat) (b : CbCtx) (f : Flit) :
    ∃ exlog, (c.bufferFlit n b f).router = { c.router with exlog } := by
  unfold Core.bufferFlit
  dsimp only
  rw [writeLoc_router]
  split
  · exact ⟨_, rfl⟩
  · exact ⟨_, rfl⟩

theorem bufferFlit_loc (c : Core) (n : Nat) (b : CbCtx) (f : Flit) :
    (c.bufferFlit n b f).loc = (c.writeLoc (b.base + 16 * (b.tail * b.esz + b.pos)) (bytesOfNat 16 f.payload.toNat)).loc := rfl

/-- The context of a circular buffer after one more flit: the last flit of an entry completes it (07 R250). -/
theorem bufferFlit_cbs (c : Core) (n : Nat) (b : CbCtx) (f : Flit) :
    ∃ b', Table.find (c.bufferFlit n b f).cbs n = some b'
      ∧ if b.pos + 1 = b.esz then b'.pos = 0 ∧ b'.count = b.count + 1 ∧ b'.tail = (b.tail + 1) % b.nent
        else b'.pos = b.pos + 1 ∧ b'.count = b.count ∧ b'.tail = b.tail := by
  refine ⟨_, Table.find_put_self _ n _, ?_⟩
  by_cases hfull : b.pos + 1 = b.esz
  · rw [if_pos hfull]
    simp [hfull]
  · rw [if_neg hfull]
    simp [hfull]

theorem cbEntryFlit_writes {n a : Nat} {b : CbCtx} (h : HeadsFor s lid p i f e) (he : plainEntry e)
    (ho : OneOutput s lid p f e 4 (.buffer n)) (hb : Table.find (s.core lid).cbs n = some b)
    (ha : a = b.base + 16 * (b.tail * b.esz + b.pos)) :
    ∃ t b', execCbEntryFlit lid p s = .next t ∧ LeftFrom s t lid p i
      ∧ cellsAt (t.core lid).loc a 16 = bytesOfNat 16 f.payload.toNat
      ∧ (∀ k, k < a ∨ a + 16 ≤ k → Table.get 0 (t.core lid).loc k = Table.get 0 (s.core lid).loc k)
      ∧ Table.find (t.core lid).cbs n = some b'
      ∧ (if b.pos + 1 = b.esz then b'.pos = 0 ∧ b'.count = b.count + 1 ∧ b'.tail = (b.tail + 1) % b.nent
         else b'.pos = b.pos + 1 ∧ b'.count = b.count ∧ b'.tail = b.tail) := by
  subst ha
  obtain ⟨r, hevent⟩ := placeEvent_of_headsFor h
  have haccepts : bufferAccepts f.fmt = true := by
    have hroom := ho.2.2.1
    simp only [Sink.room, hb, leaving_fmt, Bool.and_eq_true] at hroom
    exact hroom.1.2
  have hcore : ((Sink.buffer n).deliver (departed s lid p i f 4) lid (leaving e f)).core lid
      = (departedCore (s.core lid) p i f 4).bufferFlit n b (leaving e f) := by
    unfold Sink.deliver
    dsimp only
    rw [departed_core, show Table.find (departedCore (s.core lid) p i f 4).cbs n = some b from hb]
    exact State.core_setCore_self _ _ _
  obtain ⟨b', hfind, hb'⟩ := bufferFlit_cbs (departedCore (s.core lid) p i f 4) n b (leaving e f)
  obtain ⟨_, hexlog⟩ := bufferFlit_router (departedCore (s.core lid) p i f 4) n b (leaving e f)
  refine ⟨(Sink.buffer n).deliver (departed s lid p i f 4) lid (leaving e f), b', ?_,
    leftFrom_of_departed (f := f) (entering_of_headsFor h) (o := 4) (by rw [hcore, hexlog])
      (by rw [hcore, hexlog]) (by rw [hcore, hexlog]),
    ?_, fun k hk => ?_, by rw [hcore, hfind], hb'⟩
  · rw [execCbEntryFlit, hevent, headSinks_plain h he ho.1 ho.2.1]
    dsimp only [List.find?, Sink.isBuffer]
    rw [hb]
    dsimp only
    rw [if_pos haccepts, settle_plain h he ho rfl]
  · rw [hcore, bufferFlit_loc]
    have hreads := writeLoc_reads (departedCore (s.core lid) p i f 4) (b.base + 16 * (b.tail * b.esz + b.pos))
      (bytesOfNat 16 (leaving e f).payload.toNat)
    rw [length_bytesOfNat] at hreads
    exact hreads
  · rw [hcore, bufferFlit_loc]
    exact writeLoc_outside _ _ _ _ (by rw [length_bytesOfNat]; exact hk)

theorem cbEntryFlit_refuses {n : Nat} {b : CbCtx} (h : HeadsFor s lid p i f e) (he : plainEntry e) (ho : outputsOf e = [4])
    (hk : sinkOf s lid { flit := f, entry := e } 4 = .buffer n) (hb : Table.find (s.core lid).cbs n = some b)
    (hfmt : bufferAccepts f.fmt = false) :
    execCbEntryFlit lid p s = .next (s.setCore lid { s.core lid with
      cbs := Table.put n { b with err := some (BitVec.ofNat 4 f.fmt) } (s.core lid).cbs }) := by
  obtain ⟨r, hevent⟩ := placeEvent_of_headsFor h
  rw [execCbEntryFlit, hevent, headSinks_plain h he ho hk]
  dsimp only [List.find?, Sink.isBuffer]
  rw [hb]
  dsimp only
  rw [hfmt, if_neg Bool.false_ne_true]

theorem cbCreditArrival_adds {n : Nat} {b : CbCtx} (h : HeadsFor s lid p i f e) (he : plainEntry e)
    (ho : OneOutput s lid p f e 4 (.bufferCredit n)) (hb : Table.find (s.core lid).cbs n = some b) :
    ∃ t, execCbCreditArrival lid p s = .next t ∧ LeftFrom s t lid p i
      ∧ Table.find (t.core lid).cbs n = some { b with count := b.count + f.payload.toNat % 2 ^ 64 } := by
  obtain ⟨r, hevent⟩ := placeEvent_of_headsFor h
  have hcore : ((Sink.bufferCredit n).deliver (departed s lid p i f 4) lid (leaving e f)).core lid
      = { departedCore (s.core lid) p i f 4 with
          cbs := Table.put n { b with count := b.count + bitsOf f.payload 0 64 } (s.core lid).cbs } := by
    unfold Sink.deliver
    dsimp only
    rw [departed_core, show Table.find (departedCore (s.core lid) p i f 4).cbs n = some b from hb]
    exact State.core_setCore_self _ _ _
  refine ⟨(Sink.bufferCredit n).deliver (departed s lid p i f 4) lid (leaving e f), ?_,
    leftFrom_of_departed (f := f) (entering_of_headsFor h) (o := 4) (by rw [hcore]) (by rw [hcore]) (by rw [hcore]), ?_⟩
  · rw [execCbCreditArrival, hevent, headSinks_plain h he ho.1 ho.2.1, List.any_cons, List.any_nil, Bool.or_false,
      Sink.isCredit, if_pos rfl, settle_plain h he ho rfl]
  · rw [hcore, Table.find_put_self, bitsOf, pow_zero, Nat.div_one]

end

end Sys2Proof.Machine

namespace Sys2Proof.Proofs
open Sys2Proof.Machine Sys2Proof.Claims

/-- Settles O33: an ordinary entry of one output passes its flit on as it is, and each kind of sink takes it as it is stated. -/
theorem flitsAreForwarded : Obligations.FlitsAreForwarded :=
  ⟨fun _ _ _ _ _ _ _ _ _ => flitForward_toPort, fun _ _ _ _ _ _ _ => flitForward_toQueue, fun _ _ _ _ _ _ _ _ _ => cbEntryFlit_writes,
    fun _ _ _ _ _ _ _ _ => cbEntryFlit_refuses, fun _ _ _ _ _ _ _ _ => cbCreditArrival_adds⟩

end Sys2Proof.Proofs
end

section
/-! PROOFS. BA40 arithmetic (02 R66, R68, R69): rounding to nearest, ties to even, has one result, which the model computes; the
alignment, the addition and the fold of a SUM entry's round then have the results that the rules give them. -/

namespace Sys2Proof.Machine
open Sys2Proof.Claims

/-! ## Rounding to nearest, ties to even (02 R68) -/

/-- Of two multiples of 2^k none further than half of it from v, the one below is next to the other, and v is half-way. -/
theorem tie_of_lt {k : Nat} {v w w' : Int} (h : 2 * |v - w * 2 ^ k| ≤ 2 ^ k) (h' : 2 * |v - w' * 2 ^ k| ≤ 2 ^ k) (hlt : w < w') :
    w' = w + 1 ∧ 2 * |v - w * 2 ^ k| = 2 ^ k ∧ 2 * |v - w' * 2 ^ k| = 2 ^ k := by
  have hpos : (0 : Int) < 2 ^ k := by positivity
  generalize (2 : Int) ^ k = P at *
  have hstep : (w + 1) * P ≤ w' * P := mul_le_mul_of_nonneg_right hlt hpos.le
  have hup := le_abs_self (v - w * P)
  have hdown := neg_le_abs (v - w' * P)
  rw [add_mul, one_mul] at hstep
  refine ⟨mul_right_cancel₀ hpos.ne' ?_, by omega, by omega⟩
  rw [add_mul, one_mul]
  omega

theorem rne_unique {k : Nat} {v w w' : Int} (h : Rne k v w) (h' : Rne k v w') : w = w' := by
  obtain ⟨hnear, htie⟩ := h
  obtain ⟨hnear', htie'⟩ := h'
  rcases lt_trichotomy w w' with hlt | heq | hlt
  · obtain ⟨hnext, hhalf, hhalf'⟩ := tie_of_lt hnear hnear' hlt
    have := htie hhalf
    have := htie' hhalf'
    omega
  · exact heq
  · obtain ⟨hnext, hhalf', hhalf⟩ := tie_of_lt hnear' hnear hlt
    have := htie hhalf
    have := htie' hhalf'
    omega

/-- A multiple w of P at the distance d below or above v, which is at most one half of P, and w even at one half. -/
theorem rne_of_dist {k : Nat} {v w d : Int} (hd : v - w * 2 ^ k = d) (hlow : -(2 ^ k : Int) ≤ 2 * d) (hhigh : 2 * d ≤ 2 ^ k)
    (heven : 2 * d = 2 ^ k ∨ 2 * d = -2 ^ k → w % 2 = 0) : Rne k v w := by
  unfold Rne
  rw [hd]
  cases abs_cases d <;> exact ⟨by omega, fun _ => heven (by omega)⟩

theorem rneNat_spec (v k : Nat) : Rne k v (rneNat v k) := by
  have hpos : 0 < 2 ^ k := Nat.two_pow_pos k
  have hsplit : (v : Int) = (v / 2 ^ k : Nat) * 2 ^ k + (v % 2 ^ k : Nat) := mod_cast (Nat.div_add_mod' v (2 ^ k)).symm
  have hrest : ((v % 2 ^ k : Nat) : Int) < 2 ^ k := mod_cast Nat.mod_lt v hpos
  unfold rneNat
  dsimp only
  split
  · next h0 => subst h0; exact rne_of_dist (d := 0) (by simp) (by simp) (by simp) (by simp)
  · split
    · next hlow =>
      have hlow' : 2 * ((v % 2 ^ k : Nat) : Int) < 2 ^ k := mod_cast hlow
      exact rne_of_dist (d := (v % 2 ^ k : Nat)) (by omega) (by omega) (by omega) (by omega)
    · split
      · next hlow hhigh =>
        have hhigh' : (2 ^ k : Int) < 2 * ((v % 2 ^ k : Nat) : Int) := mod_cast hhigh
        refine rne_of_dist (d := (v % 2 ^ k : Nat) - 2 ^ k) ?_ (by omega) (by omega) (by omega)
        rw [Nat.cast_succ, add_mul, one_mul]
        omega
      · next hlow hhigh =>
        have htie : 2 * ((v % 2 ^ k : Nat) : Int) = 2 ^ k := by
          have : 2 * (v % 2 ^ k) = 2 ^ k := by omega
          exact mod_cast this
        rcases Nat.mod_two_eq_zero_or_one (v / 2 ^ k) with heven | hodd
        · rw [heven, Nat.add_zero]
          exact rne_of_dist (d := (v % 2 ^ k : Nat)) (by omega) (by omega) (by omega) (by omega)
        · rw [hodd]
          refine rne_of_dist (d := (v % 2 ^ k : Nat) - 2 ^ k) ?_ (by omega) (by omega) (by omega)
          rw [Nat.cast_succ, add_mul, one_mul]
          omega

theorem Rne.neg {k : Nat} {v w : Int} (h : Rne k v w) : Rne k (-v) (-w) := by
  have hdist : |(-v) - (-w) * 2 ^ k| = |v - w * 2 ^ k| := by rw [← abs_neg]; ring_nf
  obtain ⟨hnear, htie⟩ := h
  refine ⟨hdist ▸ hnear, fun he => ?_⟩
  have := htie (hdist ▸ he)
  omega

theorem rne_spec (v : Int) (k : Nat) : Rne k v (rne v k) := by
  unfold rne
  split
  · next hneg =>
    have h := Rne.neg (rneNat_spec v.natAbs k)
    rwa [Int.ofNat_natAbs_of_nonpos hneg.le, neg_neg] at h
  · next hnonneg =>
    have h := rneNat_spec v.natAbs k
    rwa [Int.natAbs_of_nonneg (not_lt.1 hnonneg)] at h

theorem Rne.eq {k : Nat} {v w : Int} (h : Rne k v w) : w = rne v k := rne_unique h (rne_spec v k)

theorem eq_map_rne {k : Nat} {xs ys : List Int} (h : List.Forall₂ (Rne k) xs ys) : ys = xs.map (rne · k) := by
  induction h with
  | nil => rfl
  | cons hv _ ih => rw [List.map_cons, ← ih, ← Rne.eq hv]

/-! ## Renormalisation (02 R68, R69) -/

/-- The element that saturation delivers (02 R69). -/
theorem saturated_eq (v : Int) :
    (if v = 0 then 0 else if v < 0 then -(2 ^ 38 - 1) else 2 ^ 38 - 1 : Int) = v.sign * (2 ^ 38 - 1) := by
  rcases lt_trichotomy v 0 with hneg | h0 | hpos
  · rw [if_neg hneg.ne, if_pos hneg, Int.sign_eq_neg_one_of_neg hneg, neg_one_mul]
  · rw [if_pos h0, h0, Int.sign_zero, zero_mul]
  · rw [if_neg hpos.ne', if_neg hpos.not_gt, Int.sign_eq_one_of_pos hpos, one_mul]

theorem any_big_iff (t : List Int) : t.any (fun v => decide (2 ^ 38 ≤ v.natAbs)) = true ↔ ∃ v ∈ t, 2 ^ 38 ≤ |v| := by
  simp only [List.any_eq_true, decide_eq_true_eq]
  refine exists_congr fun v => and_congr_right fun _ => ?_
  rw [← Int.natCast_natAbs]
  exact (Nat.cast_le (α := Int)).symm.trans (by norm_num)

theorem not_any_big {t : List Int} (h : ∀ v ∈ t, |v| < 2 ^ 38) : ¬t.any (fun v => decide (2 ^ 38 ≤ v.natAbs)) = true := by
  rw [any_big_iff]
  exact fun ⟨v, hv, hbig⟩ => absurd (h v hv) (not_lt.2 hbig)

/-- A result of BA40 arithmetic with its block and whether it saturated. -/
def Ba40Sum.Is (a : Ba40Sum) (r : Ba40) (sat : Bool) : Prop := a.block = r ∧ (a.flags &&& fSA != 0) = sat

theorem saturation_raises_sa : ∀ f : BitVec 7, ((f ||| fOF ||| fSA) &&& fSA != 0) = true := by decide

theorem inexact_keeps_sa : ∀ (f : BitVec 7) (x : Bool), f &&& fSA = 0 → (f ||| if x then fNX else 0) &&& fSA = 0 := by decide

/-- The loop has the result of the rules, whatever it has raised before short of SA. -/
theorem renormLoop_is {n : Nat} {t : List Int} {g : Int} {r : Ba40} {sat : Bool} (h : Renormalises n t g r sat) (f : BitVec 7)
    (b : Bool) (hf : f &&& fSA = 0) : (renormLoop n t g f b).Is r sat := by
  induction n generalizing t g f b with
  | zero =>
    obtain ⟨-, rfl, rfl⟩ := h
    exact ⟨rfl, by simp [renormLoop, hf]⟩
  | succ n ih =>
    rcases h with ⟨hsmall, rfl, rfl⟩ | ⟨hbig, ⟨hmax, rfl, rfl⟩ | ⟨hg, t', hround, hrest⟩⟩
    · rw [renormLoop, if_neg (not_any_big hsmall)]
      exact ⟨rfl, by simp [hf]⟩
    · rw [renormLoop, if_pos ((any_big_iff t).2 hbig), if_pos hmax]
      exact ⟨by simp only [saturated_eq], saturation_raises_sa f⟩
    · rw [renormLoop, if_pos ((any_big_iff t).2 hbig), if_neg (not_le.2 hg)]
      rw [eq_map_rne hround] at hrest
      exact ih hrest _ _ (inexact_keeps_sa f _ hf)

/-! ## Alignment, addition and the fold of a round (02 R68; 08 R279) -/

theorem addBa40_is {a b r : Ba40} {sat : Bool} (h : AddsTo a b r sat) : (addBa40 a b).Is r sat := by
  obtain ⟨g, x, y, rfl, hx, hy, hsum⟩ := h
  rw [eq_map_rne hx, eq_map_rne hy] at hsum
  exact renormLoop_is hsum _ _ (by split <;> rfl)

theorem preAlign_eq {t : Int} {b b' : Ba40} (h : PreAligns t b b') : (preAlign b t).1 = b' := by
  unfold PreAligns at h
  unfold preAlign Ba40.isZero
  split at h
  · next hstays => rw [if_pos (by simpa using hstays), h]
  · next hmoves =>
    obtain ⟨hexp, helems⟩ := h
    rw [if_neg (by simpa using hmoves)]
    obtain ⟨elems, exp⟩ := b'
    dsimp only at hexp helems
    rw [hexp, eq_map_rne helems]
    rfl

/-- A running block as the fold of a round keeps it. -/
def foldOf (b : Ba40) (sat : Bool) : SumFold := { elems := b.elems, exp := b.exp, sat }

theorem sumAdd_first {q : Nat} {t : Int} {b : SumBlock} {b' : Ba40} (h : if q = 0 then b' = blockOf b else PreAligns t (blockOf b) b') :
    sumAdd q t none b = some (foldOf b' false) := by
  unfold sumAdd
  by_cases hq : q = 0
  · simp only [if_pos hq] at h ⊢
    rw [h]
    rfl
  · simp only [if_neg hq] at h ⊢
    rw [← preAlign_eq h]
    rfl

theorem sumAdd_next {q : Nat} {t : Int} {b : SumBlock} {a b' r : Ba40} {sat sat' : Bool}
    (h : if q = 0 then b' = blockOf b else PreAligns t (blockOf b) b') (hadd : AddsTo a b' r sat') :
    sumAdd q t (some (foldOf a sat)) b = some (foldOf r (sat || sat')) := by
  have haligned : (if q = 0 then blockOf b else (preAlign (blockOf b) t).1) = b' := by
    by_cases hq : q = 0
    · rw [if_pos hq] at h ⊢
      exact h.symm
    · rw [if_neg hq] at h ⊢
      exact preAlign_eq h
  obtain ⟨hblock, hsat⟩ := addBa40_is hadd
  subst hblock hsat haligned
  rfl

/-- The blocks of a round in ascending CIX add up to what the rules give (08 R279). -/
theorem foldl_sumAdd {q : Nat} {t : Int} {run : Option Ba40} {bs : List SumBlock} {r : Ba40} {sat : Bool} (sat0 : Bool)
    (h : FoldsTo q t run (bs.map blockOf) r sat) (h0 : run = none → sat0 = false) :
    bs.foldl (sumAdd q t) (run.map (foldOf · sat0)) = some (foldOf r (sat0 || sat)) := by
  induction bs generalizing run sat sat0 with
  | nil =>
    obtain ⟨rfl, rfl⟩ := h
    rw [Bool.or_false]
    rfl
  | cons b bs ih =>
    obtain ⟨b', halign, hrest⟩ := h
    cases run with
    | none =>
      rw [List.foldl_cons, Option.map_none, sumAdd_first halign, h0 rfl]
      exact ih false hrest (fun h => nomatch h)
    | some a =>
      obtain ⟨r1, s1, s2, hadd, hfold, rfl⟩ := hrest
      rw [List.foldl_cons, Option.map_some, sumAdd_next halign hadd, ← Bool.or_assoc]
      exact ih (sat0 || s1) hfold (fun h => nomatch h)

end Sys2Proof.Machine
end

section
/-! PROOFS. What a SUM entry makes of a round (08 R279, R280): I32 contributions add modulo 2^32 and leave as one flit; BA40 blocks fold
as 02 R68 and R69 say, and leave as five parts or stay as the running block, announced by a RENORM flit. -/

namespace Sys2Proof.Machine
open Sys2Proof.Claims

/-! ## The fields of a formed flit (08 R264) -/

theorem bit_le_one (b : Bool) : bit b ≤ 1 := by cases b <;> decide

theorem getLsbD_of_bit {w i : Nat} {x : BitVec w} {b : Bool} (h : x.toNat / 2 ^ i % 2 = bit b) : x.getLsbD i = b := by
  rw [BitVec.getLsbD, Nat.testBit_eq_decide_div_mod_eq, h]
  cases b <;> rfl

section

variable (fmt kind cix : Nat) (exc rel : Bool) (dend : BitVec 4) (scale : BitVec 32) (tag : BitVec 7) (payload : Quad)

theorem mkFlit_side_toNat : (mkFlit fmt kind exc rel dend cix scale tag payload).side.toNat = fmt % 16 * 2 ^ 44 + bit exc * 2 ^ 43
    + dend.toNat * 2 ^ 39 + kind % 8 * 2 ^ 36 + bit rel * 2 ^ 35 + cix % 8 * 2 ^ 32 + scale.toNat := by
  have hexc := bit_le_one exc
  have hrel := bit_le_one rel
  have hdend := dend.isLt
  have hscale := scale.isLt
  rw [mkFlit, BitVec.toNat_ofNat]
  exact Nat.mod_eq_of_lt (by omega)

@[simp] theorem mkFlit_fmt : (mkFlit fmt kind exc rel dend cix scale tag payload).fmt = fmt % 16 := by
  have hexc := bit_le_one exc
  have hrel := bit_le_one rel
  have hdend := dend.isLt
  have hscale := scale.isLt
  rw [Flit.fmt, bitsOf, mkFlit_side_toNat]
  omega

@[simp] theorem mkFlit_kind : (mkFlit fmt kind exc rel dend cix scale tag payload).kind = kind % 8 := by
  have hrel := bit_le_one rel
  have hscale := scale.isLt
  rw [Flit.kind, bitsOf, mkFlit_side_toNat]
  omega

@[simp] theorem mkFlit_exc : (mkFlit fmt kind exc rel dend cix scale tag payload).exc = exc := by
  have hexc := bit_le_one exc
  have hrel := bit_le_one rel
  have hdend := dend.isLt
  have hscale := scale.isLt
  refine getLsbD_of_bit ?_
  rw [mkFlit_side_toNat]
  omega

@[simp] theorem mkFlit_rel : (mkFlit fmt kind exc rel dend cix scale tag payload).rel = rel := by
  have hrel := bit_le_one rel
  have hscale := scale.isLt
  refine getLsbD_of_bit ?_
  rw [mkFlit_side_toNat]
  omega

@[simp] theorem mkFlit_tag : (mkFlit fmt kind exc rel dend cix scale tag payload).tag = tag := rfl

@[simp] theorem mkFlit_payload : (mkFlit fmt kind exc rel dend cix scale tag payload).payload = payload := rfl

/-- SCALE bits 15:0 of a flit (02 R66). -/
theorem mkFlit_scale_low : bitsOf (mkFlit fmt kind exc rel dend cix scale tag payload).side 0 16 = scale.toNat % 2 ^ 16 := by
  rw [bitsOf, mkFlit_side_toNat]
  omega

end

/-! ## The element fields of payloads (02 R64, R66) -/

theorem sum_elements_from (xs : List Int) (k : Nat) :
    (xs.mapIdx fun j v => (v % 2 ^ 40).toNat * 2 ^ (40 * (j + k))).sum = 2 ^ (40 * k) * ba40Field xs := by
  induction xs generalizing k with
  | nil => rfl
  | cons v rest ih =>
    have hnext := ih (k + 1)
    rw [List.mapIdx_cons, List.sum_cons, ba40Field, BitVec.toNat_ofInt]
    simp only [Nat.add_right_comm _ 1 k, Nat.add_assoc _ k 1, Nat.zero_add] at hnext ⊢
    rw [hnext]
    push_cast
    ring

/-- The model's element field is that of 02 R66. -/
theorem elementField_eq (xs : List Int) : elementField xs = ba40Field xs := by
  simpa [elementField] using sum_elements_from xs 0

/-- The payload of an I32 flit, of any number of elements. -/
def packed32 (xs : List Int) : Nat := xs.reverse.foldl (fun n v => n * 2 ^ 32 + (v % 2 ^ 32).toNat) 0

theorem packed32_cons (v : Int) (xs : List Int) : packed32 (v :: xs) = packed32 xs * 2 ^ 32 + (v % 2 ^ 32).toNat := by
  rw [packed32, List.reverse_cons, List.foldl_append]
  rfl

theorem packed32_element (xs : List Int) (j : Nat) : packed32 xs / 2 ^ (32 * j) % 2 ^ 32 = (xs.getD j 0 % 2 ^ 32).toNat := by
  induction xs generalizing j with
  | nil => simp [packed32]
  | cons v xs ih =>
    rw [packed32_cons]
    cases j with
    | zero =>
      rw [List.getD_cons_zero]
      omega
    | succ j =>
      rw [List.getD_cons_succ, ← ih j, Nat.mul_succ, Nat.add_comm (32 * j), pow_add, ← Nat.div_div_eq_div_mul]
      congr 2
      omega

theorem bitsOf_ofNat_quad {n lo w : Nat} (h : lo + w ≤ 128) : bitsOf (BitVec.ofNat 128 n) lo w = n / 2 ^ lo % 2 ^ w := by
  have hsplit : 2 ^ 128 = 2 ^ lo * 2 ^ (128 - lo) := by rw [← pow_add]; congr 1; omega
  rw [bitsOf, BitVec.toNat_ofNat, hsplit, Nat.mod_mul_right_div_self, Nat.mod_mod_of_dvd _ (pow_dvd_pow 2 (by omega))]

/-! ## A round (08 R279) -/

/-- The blocks of a round added to the running block. -/
def sumFold (sm : SumState) (blocks : List SumBlock) : Option SumFold :=
  blocks.foldl (fun r b => if blocks.any (·.isI32) then sumAdd32 r b else sumAdd sm.q ((sm.run.map (·.exp)).getD 0) r b)
    (sm.run.map fun b => { elems := b.elems, exp := b.exp, sat := false })

/-- The slots after a round: the second block of each BX4 flit. -/
def slotsAfter (bs : List (SumBlock × Option SumBlock)) : Table SumSlot :=
  (bs.mapIdx fun c b => (c, b.2)).filterMap fun p => p.2.map fun m => (p.1, SumSlot.block m none)

section

variable {sm : SumState} {e : Word} {bs : List (SumBlock × Option SumBlock)} {r : SumFold} (t : Nat)

theorem sumRoundOn_last (hq : sm.q = entAcc e) (hr : sumFold sm (bs.map (·.1)) = some r) : ∃ dend seq,
    sumRoundOn sm t e bs = { SumState.reset with
      slots := slotsAfter bs
      formed := (sumResult t ((bs.map (·.1)).any (·.isI32)) r (sm.exc || r.sat || (bs.map (·.1)).any (·.exc))
        (sm.rel || (bs.map (·.1)).any (·.rel)) dend seq).map fun f => { flit := f, entry := e } } := by
  refine ⟨(bs.map (·.1)).foldl (fun d b => d ||| b.dend) sm.dend, ((bs.map (·.1)).head?.map (·.seq)).getD 0, ?_⟩
  rw [sumFold] at hr
  unfold sumRoundOn
  dsimp only
  rw [if_pos hq, hr]
  rfl

/-- The RENORM flit that announces the exponent of a running block (08 R282). -/
def renormFlit (sm : SumState) (e : Word) (exp : Int) (exc rel : Bool) : Flit :=
  mkFlit 15 2 exc rel 0 0 0 (BitVec.ofNat 7 (entAtag e))
    (BitVec.ofNat 128 ((BitVec.ofInt 16 exp).toNat + (sm.q + 1) * 2 ^ 16))

theorem sumRoundOn_running {isI32 exc rel : Bool} (hq : sm.q ≠ entAcc e) (hr : sumFold sm (bs.map (·.1)) = some r)
    (hi : (bs.map (·.1)).any (·.isI32) = isI32) (hexc : (sm.exc || r.sat || (bs.map (·.1)).any (·.exc)) = exc)
    (hrel : (sm.rel || (bs.map (·.1)).any (·.rel)) = rel) : ∃ dend tec,
    sumRoundOn sm t e bs = { slots := slotsAfter bs, q := sm.q + 1, exc, rel, dend, tec, isI32 := some isI32
                             formed := (if entRen e && !isI32 then [renormFlit sm e r.exp exc rel] else []).map
                               fun f => { flit := f, entry := e }
                             run := some { isI32, elems := r.elems, exp := r.exp, exc, rel, dend, seq := 0, bxTec := none,
                                           special := false } } := by
  subst hi hexc hrel
  refine ⟨(bs.map (·.1)).foldl (fun d b => d ||| b.dend) sm.dend,
    (sm.tec.toList ++ (bs.map (·.1)).filterMap (·.bxTec)).head?, ?_⟩
  rw [sumFold] at hr
  unfold sumRoundOn
  dsimp only
  rw [if_neg hq, hr]
  rfl

end

/-! ## I32 contributions (08 R279, R280) -/

theorem sumAdd32_next {x y : List Int} {b : SumBlock} (hx : x.length = 4) (hb : b.elems.length = 4)
    (hy : y = List.zipWith (fun u v => (u + v) % 2 ^ 32) x b.elems) :
    sumAdd32 (some { elems := x, exp := 0, sat := false }) b = some { elems := y, exp := 0, sat := false } ∧ y.length = 4
      ∧ ∀ j < 4, y.getD j 0 % 2 ^ 32 = (x.getD j 0 + b.elems.getD j 0) % 2 ^ 32 := by
  have hlength : y.length = 4 := by rw [hy, List.length_zipWith, hx, hb]; rfl
  refine ⟨by rw [hy]; rfl, hlength, fun j hj => ?_⟩
  rw [List.getD_eq_getElem _ _ (hlength.symm ▸ hj), List.getD_eq_getElem _ _ (hx.symm ▸ hj), List.getD_eq_getElem _ _ (hb.symm ▸ hj)]
  subst hy
  rw [List.getElem_zipWith, Int.emod_emod]

theorem foldl_sumAdd32 {bs : List SumBlock} {x : List Int} (hx : x.length = 4) (hbs : ∀ b ∈ bs, b.elems.length = 4) :
    ∃ y, bs.foldl sumAdd32 (some { elems := x, exp := 0, sat := false }) = some { elems := y, exp := 0, sat := false }
      ∧ ∀ j < 4, y.getD j 0 % 2 ^ 32 = (x.getD j 0 + (bs.map fun b => b.elems.getD j 0).sum) % 2 ^ 32 := by
  induction bs generalizing x with
  | nil => exact ⟨x, rfl, fun j _ => by simp⟩
  | cons b bs ih =>
    obtain ⟨hb, hrest⟩ := List.forall_mem_cons.1 hbs
    obtain ⟨hadd, hlength, hsum⟩ := sumAdd32_next hx hb rfl
    obtain ⟨y, hfold, hy⟩ := ih hlength hrest
    refine ⟨y, by rw [List.foldl_cons, hadd, hfold], fun j hj => ?_⟩
    rw [hy j hj, Int.add_emod, hsum j hj, ← Int.add_emod, List.map_cons, List.sum_cons, add_assoc]

theorem any_isI32 {bs : List SumBlock} (hne : bs ≠ []) (h : ∀ b ∈ bs, b.isI32 = true) : bs.any (·.isI32) = true := by
  obtain ⟨b, hb⟩ := List.exists_mem_of_ne_nil _ hne
  exact List.any_eq_true.2 ⟨b, hb, h b hb⟩

theorem sumFold_i32 {sm : SumState} {bs : List SumBlock} (hrun : sm.run = none) (hne : bs ≠ [])
    (h : ∀ b ∈ bs, b.isI32 = true ∧ b.elems.length = 4) :
    ∃ y, sumFold sm bs = some { elems := y, exp := 0, sat := false }
      ∧ ∀ j < 4, y.getD j 0 % 2 ^ 32 = (bs.map fun b => b.elems.getD j 0).sum % 2 ^ 32 := by
  rw [sumFold, hrun]
  simp only [any_isI32 hne fun b hb => (h b hb).1, if_true]
  cases bs with
  | nil => exact absurd rfl hne
  | cons b bs =>
    obtain ⟨⟨-, hb⟩, hrest⟩ := List.forall_mem_cons.1 h
    exact foldl_sumAdd32 hb fun b hb => (hrest b hb).2

theorem slotsAfter_single (bs : List SumBlock) : slotsAfter (bs.map fun b => (b, none)) = [] := by
  rw [slotsAfter, List.filterMap_eq_nil_iff]
  intro x hx
  obtain ⟨k, hk, rfl⟩ := List.mem_mapIdx.1 hx
  rw [List.getElem_map]
  rfl

theorem i32Round_sums {t : Nat} {e : Word} {slots : Table SumSlot} {bs : List SumBlock} (hacc : entAcc e = 0) (hne : bs ≠ [])
    (h : ∀ b ∈ bs, b.isI32 = true ∧ b.elems.length = 4 ∧ b.bxTec = none) :
    ∃ f, sumRoundOn { SumState.reset with slots } t e (bs.map fun b => (b, none))
        = { SumState.reset with formed := [{ flit := f, entry := e }] }
      ∧ f.fmt = 2 ∧ f.kind = 0 ∧ f.exc = bs.any (·.exc) ∧ f.rel = bs.any (·.rel)
      ∧ ∀ j < 4, (bitsOf f.payload (32 * j) 32 : Int) = (bs.map fun b => b.elems.getD j 0).sum % 2 ^ 32 := by
  have hblocks : (bs.map fun b => (b, (none : Option SumBlock))).map (·.1) = bs := (List.map_map ..).trans (List.map_id bs)
  obtain ⟨y, hfold, hy⟩ := sumFold_i32 (sm := { SumState.reset with slots }) rfl hne fun b hb => ⟨(h b hb).1, (h b hb).2.1⟩
  obtain ⟨dend, seq, hround⟩ := sumRoundOn_last t (sm := { SumState.reset with slots }) hacc.symm (by rw [hblocks]; exact hfold)
  rw [hblocks, any_isI32 hne fun b hb => (h b hb).1, slotsAfter_single] at hround
  refine ⟨_, hround, mkFlit_fmt .., mkFlit_kind .., mkFlit_exc .., mkFlit_rel .., fun j hj => ?_⟩
  have hpayload := (bitsOf_ofNat_quad (n := packed32 y) (show 32 * j + 32 ≤ 128 by omega)).trans (packed32_element y j)
  have hsum := hy j hj
  refine (congrArg Nat.cast hpayload).trans ?_
  omega

/-! ## BA40 contributions (08 R279, R280, R282; 02 R66) -/

theorem no_isI32 {bs : List SumBlock} (h : ∀ b ∈ bs, b.isI32 = false) : bs.any (·.isI32) = false := by
  rw [List.any_eq_false]
  exact fun b hb => by rw [h b hb]; decide

theorem sumFold_ba40 {sm : SumState} {bs : List SumBlock} {r : Ba40} {sat : Bool} (h : ∀ b ∈ bs, b.isI32 = false)
    (hfolds : FoldsTo sm.q ((sm.run.map (·.exp)).getD 0) (sm.run.map blockOf) (bs.map blockOf) r sat) :
    sumFold sm bs = some (foldOf r sat) := by
  rw [sumFold]
  simp only [no_isI32 h, Bool.false_eq_true, if_false]
  have hfold := foldl_sumAdd false hfolds fun _ => rfl
  rw [Option.map_map, Bool.false_or] at hfold
  exact hfold

theorem expBits_toNat (r : Ba40) : (r.expBits.toNat : Int) = r.exp % 2 ^ 16 := by
  rw [Ba40.expBits, BitVec.toNat_ofInt]
  omega

theorem append_low (x y : BitVec 16) : (x ++ y).toNat % 2 ^ 16 = y.toNat := by
  have hy := y.isLt
  rw [BitVec.toNat_append, ← Nat.shiftLeft_add_eq_or_of_lt hy, Nat.shiftLeft_eq]
  omega

/-- Part p of a BA40 result. -/
theorem sumResult_part (t : Nat) (r : Ba40) (sat exc rel : Bool) (dend : BitVec 4) (seq : BitVec 16) {p : Nat} (hp : p < 5) :
    ∃ d, (sumResult t false (foldOf r sat) exc rel dend seq)[p]?
      = some (mkFlit 10 0 exc rel d 0 (seq ++ r.expBits) (BitVec.ofNat 7 t)
          (BitVec.ofNat 128 (ba40Field r.elems / 2 ^ (128 * p)))) := by
  refine ⟨if p = 4 then dend else 0, ?_⟩
  rw [sumResult, if_neg Bool.false_ne_true]
  dsimp only
  rw [List.getElem?_mapIdx, Ba40.parts, List.getElem?_map, List.getElem?_range hp]
  rfl

theorem sumResult_length (t : Nat) (r : SumFold) (exc rel : Bool) (dend : BitVec 4) (seq : BitVec 16) :
    (sumResult t false r exc rel dend seq).length = 5 := by simp [sumResult, Ba40.parts]

section

variable {t : Nat} {e : Word} {sm : SumState} {bs : List (SumBlock × Option SumBlock)} {r : Ba40} {sat : Bool}

/-- The last round of an accumulation sends the result in five parts. -/
theorem ba40Round_sends (h : ∀ b ∈ bs.map (·.1), b.isI32 = false) (hfold : sumFold sm (bs.map (·.1)) = some (foldOf r sat))
    (hq : sm.q = entAcc e) :
    (sumRoundOn sm t e bs).q = 0 ∧ (sumRoundOn sm t e bs).run = none ∧ (sumRoundOn sm t e bs).formed.length = 5
      ∧ ∀ p < 5, ∃ h f, (sumRoundOn sm t e bs).formed[p]? = some h ∧ f = h.flit ∧ h.entry = e ∧ f.fmt = 10 ∧ f.kind = 0
        ∧ f.tag.toNat = t % 128 ∧ f.payload.toNat = elementField r.elems / 2 ^ (128 * p) % 2 ^ 128
        ∧ (bitsOf f.side 0 16 : Int) = r.exp % 2 ^ 16
        ∧ f.exc = (sm.exc || sat || bs.any (·.1.exc)) ∧ f.rel = (sm.rel || bs.any (·.1.rel)) := by
  obtain ⟨dend, seq, hround⟩ := sumRoundOn_last t hq hfold
  rw [no_isI32 h] at hround
  rw [hround]
  refine ⟨rfl, rfl, by rw [List.length_map, sumResult_length], fun p hp => ?_⟩
  obtain ⟨d, hpart⟩ := sumResult_part t r sat (sm.exc || sat || (bs.map (·.1)).any (·.exc)) (sm.rel || (bs.map (·.1)).any (·.rel))
    dend seq hp
  refine ⟨_, _, (List.getElem?_map ..).trans (congrArg _ hpart), rfl, rfl, mkFlit_fmt .., mkFlit_kind .., BitVec.toNat_ofNat ..,
    ?_, ?_, ?_, ?_⟩
  · rw [elementField_eq]
    exact BitVec.toNat_ofNat ..
  · rw [← expBits_toNat, mkFlit_scale_low, append_low]
  · rw [mkFlit_exc, List.any_map]
    rfl
  · rw [mkFlit_rel, List.any_map]
    rfl

/-- A RENORM flit names the exponent and the number of the next round (08 R282). -/
theorem renormFlit_fields (exp : Int) (exc rel : Bool) (f : Flit) (hf : f = renormFlit sm e exp exc rel) :
    f.kind = 2 ∧ f.tag.toNat = entAtag e ∧ (bitsOf f.payload 0 16 : Int) = exp % 2 ^ 16
      ∧ (sm.q < 4095 → bitsOf f.payload 16 12 = sm.q + 1) := by
  subst hf
  have hexp : ((BitVec.ofInt 16 exp).toNat : Int) = exp % 2 ^ 16 := expBits_toNat { elems := [], exp }
  have hlow := (BitVec.ofInt 16 exp).isLt
  refine ⟨mkFlit_kind .., (BitVec.toNat_ofNat ..).trans (Nat.mod_mod ..), ?_, fun hq => ?_⟩
  · rw [← hexp]
    refine congrArg Nat.cast ((bitsOf_ofNat_quad (by decide)).trans ?_)
    omega
  · refine (bitsOf_ofNat_quad (by decide)).trans ?_
    omega

/-- Any other round leaves the running block, and announces it where the entry has REN. -/
theorem ba40Round_runs (h : ∀ b ∈ bs.map (·.1), b.isI32 = false) (hfold : sumFold sm (bs.map (·.1)) = some (foldOf r sat))
    (hq : sm.q ≠ entAcc e) :
    (sumRoundOn sm t e bs).q = sm.q + 1 ∧ (sumRoundOn sm t e bs).run.map blockOf = some r
      ∧ (sumRoundOn sm t e bs).exc = (sm.exc || sat || bs.any (·.1.exc))
      ∧ (sumRoundOn sm t e bs).rel = (sm.rel || bs.any (·.1.rel))
      ∧ (entRen e = false → (sumRoundOn sm t e bs).formed = [])
      ∧ (entRen e = true → ∃ h, (sumRoundOn sm t e bs).formed = [h] ∧ h.entry = e ∧ h.flit.kind = 2
        ∧ h.flit.tag.toNat = entAtag e ∧ (bitsOf h.flit.payload 0 16 : Int) = r.exp % 2 ^ 16 ∧ (sm.q < 4095 → bitsOf h.flit.payload 16 12 = sm.q + 1)) := by
  obtain ⟨dend, tec, hround⟩ := sumRoundOn_running t hq hfold (no_isI32 h)
    (exc := sm.exc || sat || bs.any (·.1.exc)) (by rw [List.any_map]; rfl)
    (rel := sm.rel || bs.any (·.1.rel)) (by rw [List.any_map]; rfl)
  rw [hround]
  refine ⟨rfl, rfl, rfl, rfl, fun hren => ?_, fun hren => ?_⟩
  · rw [hren]
    rfl
  · rw [hren]
    exact ⟨_, rfl, rfl, renormFlit_fields r.exp _ _ _ rfl⟩

end

end Sys2Proof.Machine
end

section
/-! PROOFS. The events of SUM, RENORM and width-adapting entries (08 R279-R283): each changes the state of its entry in its own core's
router. -/

namespace Sys2Proof.Machine
open Sys2Proof.Claims

/-! ## Events at the entry of a tag (08 R279, R280) -/

section

variable {s : State} {lid tag : Nat} {r : Region}

/-- The event of a valid entry whose owner's flits move is answered. -/
theorem entryEvent_owned (hlid : lid < coreCount) (htag : tag < 128) (howner : s.ownerOf lid tag = some r) (hmoving : r.moving = true)
    (hv : entV ((s.core lid).route tag) = true) (f : Core → Word → Region → State) :
    entryEvent lid tag s f = .next (f (s.core lid) ((s.core lid).route tag) r) := by
  rw [entryEvent, if_neg (by omega), howner]
  dsimp only
  rw [hmoving, hv]
  rfl

/-- The module with the state of a SUM entry replaced. -/
theorem setSum_read (sm : SumState) : ((s.modRouter lid (·.setSum tag sm)).core lid).router.sum tag = sm := by
  rw [State.core_modRouter_self]
  exact Table.get_set_self _ _ _ _

theorem sumRound_event {bs : List (SumBlock × Option SumBlock)} {e : Word} (hlid : lid < coreCount) (htag : tag < 128)
    (howner : s.ownerOf lid tag = some r) (hmoving : r.moving = true) (he : e = (s.core lid).route tag) (hv : entV e = true)
    (hop : entOp e = 1) (hformed : ((s.core lid).router.sum tag).formed = [])
    (hblocks : ((s.core lid).router.sum tag).blocks (entArg e + 1) = some bs) :
    ∃ t, execSumRound lid tag s = .next t
      ∧ (t.core lid).router.sum tag = sumRoundOn ((s.core lid).router.sum tag) tag e bs
      ∧ ∀ l, l ≠ lid → t.core l = s.core l := by
  subst he
  refine ⟨s.modRouter lid (·.setSum tag (sumRoundOn ((s.core lid).router.sum tag) tag ((s.core lid).route tag) bs)), ?_, setSum_read _,
    fun l hl => State.core_setCore_ne _ hl _⟩
  rw [execSumRound, entryEvent_owned hlid htag howner hmoving hv]
  dsimp only
  rw [hblocks, hformed, hop]
  rfl

theorem mapM_eq_some {α β : Type} {f : α → Option β} {xs : List α} {ys : List β}
    (h : List.Forall₂ (fun x y => f x = some y) xs ys) : xs.mapM f = some ys := by
  induction h with
  | nil => rfl
  | cons hx _ ih =>
    rw [List.mapM_cons, hx, ih]
    rfl

theorem mapM_range_eq {α : Type} {f : Nat → Option α} {xs : List α} {n : Nat} (hn : xs.length = n) (h : ∀ k < n, f k = xs[k]?) :
    (List.range n).mapM f = some xs := by
  refine mapM_eq_some (List.forall₂_iff_get.2 ⟨by rw [List.length_range, hn], fun k _ hk => ?_⟩)
  rw [List.get_eq_getElem, List.getElem_range, h k (hn ▸ hk)]
  exact List.getElem?_eq_getElem hk

theorem fmt_lt (f : Flit) : f.fmt < 16 := Nat.mod_lt _ (Nat.two_pow_pos 4)

theorem kind_lt (f : Flit) : f.kind < 8 := Nat.mod_lt _ (Nat.two_pow_pos 3)

/-- The drain or stop flit that a SUM entry forms of those in its slots (08 R280). -/
def sumControl (tag : Nat) (f : Flit) (fs : List Flit) : Flit :=
  mkFlit f.fmt f.kind (f.exc || fs.any (·.exc)) (f.rel || fs.any (·.rel)) f.dend 0 f.scale (BitVec.ofNat 7 tag) f.payload

theorem sumControl_fields (f : Flit) (fs : List Flit) (htag : tag < 128) :
    (sumControl tag f fs).kind = f.kind ∧ (sumControl tag f fs).fmt = f.fmt ∧ (sumControl tag f fs).payload = f.payload
      ∧ (sumControl tag f fs).tag.toNat = tag ∧ (sumControl tag f fs).exc = (f :: fs).any (·.exc)
      ∧ (sumControl tag f fs).rel = (f :: fs).any (·.rel) := by
  rw [sumControl, mkFlit_kind, mkFlit_fmt, mkFlit_exc, mkFlit_rel, mkFlit_tag, mkFlit_payload, BitVec.toNat_ofNat]
  exact ⟨Nat.mod_eq_of_lt (kind_lt f), Nat.mod_eq_of_lt (fmt_lt f), rfl, Nat.mod_eq_of_lt htag, rfl, rfl⟩

theorem sumControlFlit_event {e : Word} {sm : SumState} {f : Flit} {fs : List Flit} (hlid : lid < coreCount) (htag : tag < 128)
    (howner : s.ownerOf lid tag = some r) (hmoving : r.moving = true) (he : e = (s.core lid).route tag) (hv : entV e = true)
    (hop : entOp e = 1) (hsm : sm = (s.core lid).router.sum tag) (hformed : sm.formed = [])
    (hlength : (f :: fs).length = entArg e + 1)
    (hslots : ∀ k < entArg e + 1, Table.find sm.slots k = ((f :: fs)[k]?).map .ctl) :
    ∃ t g, execSumControlFlit lid tag s = .next t
      ∧ (t.core lid).router.sum tag = { sm with slots := [], formed := [{ flit := g, entry := e }] } ∧ g.kind = f.kind
      ∧ g.fmt = f.fmt ∧ g.payload = f.payload ∧ g.tag.toNat = tag ∧ g.exc = (f :: fs).any (·.exc)
      ∧ g.rel = (f :: fs).any (·.rel) := by
  subst he hsm
  refine ⟨s.modRouter lid (·.setSum tag { (s.core lid).router.sum tag with
    slots := [], formed := [{ flit := sumControl tag f fs, entry := (s.core lid).route tag }] }), sumControl tag f fs, ?_, setSum_read _,
    sumControl_fields f fs htag⟩
  rw [execSumControlFlit, entryEvent_owned hlid htag howner hmoving hv]
  dsimp only
  rw [mapM_range_eq hlength fun k hk => ?_]
  · dsimp only
    rw [hformed, hop]
    rfl
  · have hget := List.getElem?_eq_getElem (hlength.symm ▸ hk)
    rw [hslots k hk, hget]
    rfl

end

/-! ## Events at a place (08 R282, R283) -/

section

variable {s : State} {lid i : Nat} {p : Place} {f : Flit} {e : Word}

/-- The module once the record of a RENORM flit is noted (08 R282). -/
def noted (s : State) (lid : Nat) (e : Word) (f : Flit) : State :=
  s.modRouter lid fun rt => rt.setRenorm (entAtag e)
    ((rt.renorm (entAtag e)).note (entAcc (Table.get 0 rt.routes (entAtag e))) (signed 16 (bitsOf f.payload 0 16))
      (bitsOf f.payload 16 12))

theorem note_target (n : RenormRec) (acc : Nat) (t : Int) (q : Nat) : (n.note acc t q).target
    = if 0 < n.behind ∨ q < n.blocks ∨ q = n.blocks ∧ 0 < n.part then n.target else some (t, q) := by
  simp [RenormRec.note, or_assoc]

theorem drop_renorm {rt : Router} (hp : Entering p) (t : Nat) : (rt.drop i p).renorm t = rt.renorm t := by
  obtain ⟨_, _, hdrop⟩ := drop_keeps (rt := rt) hp i
  rw [hdrop]
  rfl

theorem drop_routes {rt : Router} (hp : Entering p) : (rt.drop i p).routes = rt.routes := by
  obtain ⟨_, _, hdrop⟩ := drop_keeps (rt := rt) hp i
  rw [hdrop]

theorem renormRecord_notes {n : RenormRec} {q : Nat} (h : HeadsFor s lid p i f e) (hop : entOp e = 3) (hkind : f.kind = 2)
    (homask : entOmask e = 0) (hn : n = (s.core lid).router.renorm (entAtag e)) (hq : q = bitsOf f.payload 16 12) :
    ∃ t, execRenormRecord lid p s = .next t ∧ LeftFrom s t lid p i
      ∧ ((t.core lid).router.renorm (entAtag e)).target
        = if 0 < n.behind ∨ q < n.blocks ∨ q = n.blocks ∧ 0 < n.part then n.target
          else some (signed 16 (bitsOf f.payload 0 16), q) := by
  subst hn hq
  obtain ⟨r, hevent⟩ := placeEvent_of_headsFor h
  have hp := entering_of_headsFor h
  have hout := atOutputs_of_headsFor h
  obtain ⟨-, -, -, hv, -, -⟩ := h
  refine ⟨noted (s.modRouter lid (·.drop i p)) lid e f, ?_, leftFrom_of_drop hp ?_ ?_ ?_, ?_⟩
  · rw [execRenormRecord, hevent]
    dsimp only
    rw [hv, hop, hkind, hout, homask]
    rfl
  all_goals rw [noted, State.core_modRouter_self, State.core_modRouter_self]
  · rfl
  · rfl
  · exact drop_routes hp
  · refine (congrArg RenormRec.target (Table.get_set_self _ _ _ _)).trans ?_
    rw [note_target, drop_renorm hp]

/-- An adapter after it repacked a flit (08 R283). -/
def adapterAfter (e : Word) (a : Adapter) (f : Flit) : Adapter :=
  { pending := (adaptFlit (entArg e) a.pending f).2
    formed := (adaptFlit (entArg e) a.pending f).1.map fun g => { flit := g, entry := e } }

theorem widthAdapt_repacks {a : Adapter} (h : HeadsFor s lid p i f e) (hop : entOp e = 2) (hkind : f.kind = 0)
    (ha : a = (s.core lid).router.adapter f.tag.toNat) (hformed : a.formed = []) (hbx : isBx f.fmt = true)
    (hwidth : bxKind f.fmt ≠ entArg e) :
    ∃ t, execWidthAdapt lid p s = .next t ∧ LeftFrom s t lid p i
      ∧ ((t.core lid).router.adapter f.tag.toNat).formed
        = (adaptFlit (entArg e) a.pending f).1.map (fun g => { flit := g, entry := e })
      ∧ ((t.core lid).router.adapter f.tag.toNat).pending = (adaptFlit (entArg e) a.pending f).2 := by
  subst ha
  obtain ⟨r, hevent⟩ := placeEvent_of_headsFor h
  have hp := entering_of_headsFor h
  have hout := atOutputs_of_headsFor h
  obtain ⟨-, -, -, hv, -, -⟩ := h
  refine ⟨s.modRouter lid fun rt => (rt.drop i p).setAdapter f.tag.toNat (adapterAfter e ((s.core lid).router.adapter f.tag.toNat) f),
    ?_, leftFrom_of_drop hp ?_ ?_ ?_, ?_, ?_⟩
  · rw [execWidthAdapt, hevent]
    dsimp only
    rw [hv, hop, hkind, ownResult_entering hp, hout, hformed, hbx, if_neg hwidth]
    rfl
  all_goals rw [State.core_modRouter_self]
  · rfl
  · rfl
  · exact drop_routes hp
  · exact congrArg Adapter.formed (Table.get_set_self _ _ _ _)
  · exact congrArg Adapter.pending (Table.get_set_self _ _ _ _)

end

end Sys2Proof.Machine

namespace Sys2Proof.Proofs
open Sys2Proof.Machine Sys2Proof.Claims

/-- Settles O34: the rules' rounding has one result, which the model computes, so the fold of a round is the rules' fold; each event
changes the state of its own entry. -/
theorem entriesCombineFlits : Obligations.EntriesCombineFlits := by
  refine ⟨fun _ _ _ _ _ _ => sumRound_event, fun _ _ _ _ => i32Round_sums, ?_, fun _ _ _ _ _ _ _ _ => sumControlFlit_event,
    fun _ _ _ _ _ _ _ _ => renormRecord_notes, fun _ _ _ _ _ _ _ => widthAdapt_repacks⟩
  rintro t e sm _ bs r sat - hblocks - - - - hfolds rfl
  have hkind : ∀ b ∈ bs.map (·.1), b.isI32 = false := by
    rw [List.forall_mem_map]
    exact fun b hb => (hblocks b hb).1
  have hfold := sumFold_ba40 hkind (by rw [List.map_map]; exact hfolds)
  exact ⟨ba40Round_sends hkind hfold, ba40Round_runs hkind hfold⟩

end Sys2Proof.Proofs
end
